-- ==== Sys2Proof/Word.lean ====
section
/-! DEFINITION. The word types of the DT-LJ8-A1 model: bytes, parcels, registers and the 96-bit
instruction word, with the identifiers that name an agent of the rack ring. -/

namespace Sys2Proof

/-- One byte of memory. -/
abbrev Byte := BitVec 8
/-- A Dusk scalar register, a vector cell or an event counter. -/
abbrev Word32 := BitVec 32
/-- A Dawn scalar register, a queue entry or a doubleword. -/
abbrev Word64 := BitVec 64
/-- An instruction word as bits (R35). -/
abbrev Word96 := BitVec 96

/-- The two cores of a tile that fetch instructions (R7, engines 0 and 1). -/
inductive CoreId where
  | dawn
  | dusk
deriving DecidableEq, Repr, Inhabited

/-- The four engines of a tile, with the numbers of R7. -/
inductive Engine where
  | dawn
  | dusk
  | serac
  | moraine
deriving DecidableEq, Repr, Inhabited

/-- The engine number of R7. -/
def Engine.num : Engine → Nat
  | .dawn => 0
  | .dusk => 1
  | .serac => 2
  | .moraine => 3

/-- The engine that a two-bit field names (R7, R16). -/
def Engine.ofBits (b : BitVec 2) : Engine :=
  if b = 0#2 then .dawn else if b = 1#2 then .dusk else if b = 2#2 then .serac else .moraine

/-- The engine that a core is (R7). -/
def CoreId.engine : CoreId → Engine
  | .dawn => .dawn
  | .dusk => .dusk

/-- The other strand's core. -/
def CoreId.other : CoreId → CoreId
  | .dawn => .dusk
  | .dusk => .dawn

/-- A tile of the rack ring. `die` counts dies over the ring: 8 * package + die (R233). -/
structure TileId where
  die : Nat
  tile : Nat
deriving DecidableEq, Repr, Inhabited

/-- A task slot of a tile (R208). -/
structure TaskId where
  die : Nat
  tile : Nat
  slot : Nat
deriving DecidableEq, Repr, Inhabited

/-- A strand: one core of one task slot (R30). -/
structure StrandId where
  die : Nat
  tile : Nat
  slot : Nat
  core : CoreId
deriving DecidableEq, Repr, Inhabited

/-- A load: the die and number of its graph queue and its index in the graph (R220, R221). -/
structure LoadId where
  die : Nat
  queue : Nat
  load : Nat
deriving DecidableEq, Repr, Inhabited

/-- A channel: its load and the index of its entry in the channel table (R331). -/
structure ChanId where
  load : LoadId
  idx : Nat
deriving DecidableEq, Repr, Inhabited

/-- A host function of a module: its package, port 0 or 1, function 0 physical and 1 to 64 virtual (R383, R435). -/
structure HostFn where
  pkg : Nat
  port : Nat
  func : Nat
deriving DecidableEq, Repr, Inhabited

def StrandId.task (i : StrandId) : TaskId := ⟨i.die, i.tile, i.slot⟩
def StrandId.tileId (i : StrandId) : TileId := ⟨i.die, i.tile⟩
def TaskId.tileId (i : TaskId) : TileId := ⟨i.die, i.tile⟩
def TaskId.strand (i : TaskId) (c : CoreId) : StrandId := ⟨i.die, i.tile, i.slot, c⟩

end Sys2Proof
end

