-- ==== Sys2Proof/Config.lean ====
section
/-! DEFINITION. What an implementation fixes and the values the manual leaves open. An `opaque` constant has
no body: nothing can be proved of its value, so a claim holds whatever it is (log entry 4). -/

namespace Sys2Proof.Config

/-- A value the manual leaves open, fresh for each number drawn (log entry 4). -/
opaque freeWord : Nat → BitVec 64

/-- Ed25519 verification of a message under a public key (R324, R443). -/
opaque ed25519Ok : (key message signature : List Byte) → Bool
/-- ML-DSA-65 verification of a message under a public key (R324, R443). -/
opaque mldsaOk : (key message signature : List Byte) → Bool
/-- SHA3-384 of a byte string (R445, Attest). -/
opaque sha3 : List Byte → List Byte
/-- The device's own Ed25519 and ML-DSA-65 signatures of a byte string (R445, Attest). -/
opaque deviceSign : List Byte → List Byte
/-- The bytes of the boot ROM, measured by Attest (R445). -/
opaque romBytes : List Byte
/-- The vendor keys fused into the ROM and held in slot 0 of the key store: Ed25519 then ML-DSA-65 (R443, R445). -/
opaque vendorKeys : List Byte × List Byte
/-- The version fused in the anti-rollback counter (R443). -/
opaque rollbackFloor : BitVec 8

/-- What an encryption key slot that firmware has not loaded holds (R245 gives it no value), by die and slot. -/
opaque unloadedKey : (die slot : Nat) → BitVec 512

/-- The output sequence of a sealed operator's port, a function of its image and of the sequences its inputs
have delivered (R327 item 1). A token is a kind code and a payload. -/
opaque sealedOutput : (opid : BitVec 64) → (body : List Byte) → (inputs : List (List (Nat × BitVec 64))) →
  (port : Nat) → List (Nat × BitVec 64)
/-- Whether a sealed operator that is idle reports that it holds state (R327 item 5). -/
opaque sealedHoldsState : (opid : BitVec 64) → (body : List Byte) → (inputs : List (List (Nat × BitVec 64))) → Bool
/-- The state of a sealed operator as read back through configuration (R409). -/
opaque sealedState : (opid : BitVec 64) → (body : List Byte) → (inputs : List (List (Nat × BitVec 64))) → List Byte
/-- Whether an element graph can be placed in a region's LUTs (R367). -/
opaque placeable : List (BitVec 64) → Bool

/-- The tiles of a die that pass their test at boot (R449). -/
opaque tilesPassed : (die : Nat) → BitVec 24
/-- The regions of a die that pass their test at boot (R449). -/
opaque regionsPassed : (die : Nat) → BitVec 48

/-- Whether firmware has marked a graph queue privileged (R222). -/
opaque queuePrivileged : (die queue : Nat) → Bool

/-- A byte of a context image whose place the manual does not give: context number and offset (R408). -/
opaque contextByte : (context : Nat) → (offset : Nat) → BitVec 8

/-- The state part of an element graph's save area, whose bytes the manual does not give (R409). -/
opaque regionState : (fresh : Nat) → List (BitVec 8)

/-- What the manual does not give of a load-stop record that no fault caused, or of a scrubbing entry's record (R379, R386): doubleword `k`
for a code. -/
opaque stopRecord : (code : Nat) → (k : Nat) → BitVec 64

/-- SECTION of a fault record whose ADDR lies in no section (R32, R56). -/
opaque sectionBeyond : (addr : BitVec 64) → BitVec 10

/-- Events of a monitor source that only timing or physical effects decide (R447), in one step. -/
opaque monitorEvents : (source : Nat) → (fresh : Nat) → BitVec 64

/-- Tiles of a die (R2). -/
def tilesPerDie : Nat := 24
/-- Task slots of a tile (R208). -/
def slotsPerTile : Nat := 4
/-- Regions of a die (R320). -/
def regionsPerDie : Nat := 48
/-- Graph queues of a die (R218). -/
def queuesPerDie : Nat := 4096
/-- Bytes of tile memory (R28). -/
def tileMemBytes : Nat := 0xC00000
/-- Event counters of a tile (R24). -/
def countersPerTile : Nat := 64
/-- Held cycles after which a strand parks (R23). -/
def parkAfter : Nat := 4096

end Sys2Proof.Config
end

