-- ==== Sys2Proof/Syntax.lean ====
section
/-! DEFINITION. The instruction type of the model: one constructor per row of spec/opcode_table.json.
A strand word carries its fields (R36) with each operand in the form that R39 gives its bits; an element word
carries its fields (R348); an event is a name. -/

namespace Sys2Proof

/-- An operand of a strand word in the forms of R39. The `hi` bits of the scalar form are kept so that a
non-zero value, which R40 refuses, is still a word. -/
inductive Opnd where
  | reg (index : BitVec 10)
  | imm (value : BitVec 8)
  | queue (code : BitVec 8)
  | scalar (hi : BitVec 2) (index : BitVec 6)
  | special (code : BitVec 8)
deriving DecidableEq, Repr, Inhabited

/-- The fields of a 96-bit instruction word after OP (R36). -/
structure Fields where
  fmt : BitVec 4
  mod : BitVec 3
  g0 : BitVec 5
  g1 : BitVec 5
  pop : BitVec 4
  push : BitVec 4
  hint : BitVec 3
  dual : Bool
  yld : Bool
  d : Opnd
  a : Opnd
  b : Opnd
  c : Opnd
  e : BitVec 14
deriving DecidableEq, Repr, Inhabited

/-- A target of a stream element: valid bit, slot, position (R348). -/
structure Target where
  valid : Bool
  slot : BitVec 10
  pos : BitVec 2
deriving DecidableEq, Repr, Inhabited

/-- The fields of a 64-bit element word after OPN (R348). -/
structure ElemWord where
  fmt : BitVec 4
  mod : BitVec 3
  t0 : Target
  t1 : Target
  param : BitVec 25
deriving DecidableEq, Repr, Inhabited

/-- The atomics a host may request (R435). -/
inductive HostAtomicOp where
  | fetchAdd
  | swap
  | cas
deriving DecidableEq, Repr, Inhabited

/-- What an event concerns. A turn of the agenda carries one of these beside the event's constructor and step
places it in State before exec runs the event; an event reads only the fields its docstring names. -/
structure EventArgs where
  who : StrandId := default
  load : LoadId := default
  chan : ChanId := default
  fn : HostFn := default
  die : Nat := 0
  queue : Nat := 0
  region : Nat := 0
  slot : Nat := 0
  port : Nat := 0
  plane : Nat := 0
  grid : Nat := 0
  dest : Nat := 0
  seq : Nat := 0
  handle : Nat := 0
  member : Nat := 0
  pkg : Nat := 0
  link : Nat := 0
  lanes : Nat := 0
  index : Nat := 0
  addr : Nat := 0
  len : Nat := 0
  access : Nat := 0
  command : Nat := 0
  source : Option Nat := none
  evict : Nat := 0
  flag : Bool := false
  wide : Bool := false
  op : HostAtomicOp := .fetchAdd
  value : Word64 := 0
  value2 : Word64 := 0
  data : List Byte := []
  data2 : List Byte := []
  data3 : List Byte := []
deriving DecidableEq, Repr, Inhabited

/-- The instructions: strand words, stream elements and events, one constructor per row of spec/opcode_table.json.
An event carries nothing of its own: what it concerns stands in State.event (EventArgs). -/
inductive Instr where
  | nop (w : Fields)
  | mov (w : Fields)
  | movi (w : Fields)
  | movhi (w : Fields)
  | add (w : Fields)
  | sub (w : Fields)
  | mul (w : Fields)
  | mulh (w : Fields)
  | div (w : Fields)
  | rem (w : Fields)
  | and (w : Fields)
  | or (w : Fields)
  | xor (w : Fields)
  | andn (w : Fields)
  | shl (w : Fields)
  | shr (w : Fields)
  | sar (w : Fields)
  | rol (w : Fields)
  | min (w : Fields)
  | max (w : Fields)
  | abs (w : Fields)
  | neg (w : Fields)
  | clz (w : Fields)
  | popc (w : Fields)
  | bfx (w : Fields)
  | bfi (w : Fields)
  | sel (w : Fields)
  | cmp (w : Fields)
  | plog (w : Fields)
  | psave (w : Fields)
  | prest (w : Fields)
  | cvtsx (w : Fields)
  | lea (w : Fields)
  | mad (w : Fields)
  | ldt (w : Fields)
  | stt (w : Fields)
  | fadd (w : Fields)
  | fsub (w : Fields)
  | fmul (w : Fields)
  | ffma (w : Fields)
  | fmin (w : Fields)
  | fmax (w : Fields)
  | fabs (w : Fields)
  | fneg (w : Fields)
  | fcmp (w : Fields)
  | fcvt (w : Fields)
  | fdiv (w : Fields)
  | fsqrt (w : Fields)
  | frcp (w : Fields)
  | br (w : Fields)
  | jmp (w : Fields)
  | call (w : Fields)
  | callr (w : Fields)
  | ret (w : Fields)
  | loop (w : Fields)
  | bcq (w : Fields)
  | qpush (w : Fields)
  | qpop (w : Fields)
  | qcount (w : Fields)
  | twait (w : Fields)
  | tsig (w : Fields)
  | suspend (w : Fields)
  | endStrand (w : Fields)
  | yield (w : Fields)
  | evrd (w : Fields)
  | evadd (w : Fields)
  | evset (w : Fields)
  | graise (w : Fields)
  | gread (w : Fields)
  | setnf (w : Fields)
  | tread (w : Fields)
  | ldg (w : Fields)
  | stg (w : Fields)
  | ldc (w : Fields)
  | pld (w : Fields)
  | pst (w : Fields)
  | prst (w : Fields)
  | stf (w : Fields)
  | atadd (w : Fields)
  | atand (w : Fields)
  | ator (w : Fields)
  | atxor (w : Fields)
  | atmin (w : Fields)
  | atmax (w : Fields)
  | atswp (w : Fields)
  | atcas (w : Fields)
  | amaxx (w : Fields)
  | atfadd (w : Fields)
  | atfmax (w : Fields)
  | fence (w : Fields)
  | lfence (w : Fields)
  | pref (w : Fields)
  | vld (w : Fields)
  | vst (w : Fields)
  | vlds (w : Fields)
  | vsts (w : Fields)
  | vldt (w : Fields)
  | vstt (w : Fields)
  | vmov (w : Fields)
  | vbcs (w : Fields)
  | vadd (w : Fields)
  | vsub (w : Fields)
  | vmul (w : Fields)
  | vfma (w : Fields)
  | vmin (w : Fields)
  | vmax (w : Fields)
  | vabs (w : Fields)
  | vneg (w : Fields)
  | vand (w : Fields)
  | vor (w : Fields)
  | vxor (w : Fields)
  | vshl (w : Fields)
  | vshr (w : Fields)
  | vsar (w : Fields)
  | vcmp (w : Fields)
  | vsel (w : Fields)
  | klog (w : Fields)
  | kmov (w : Fields)
  | vrotr (w : Fields)
  | vrotc (w : Fields)
  | vbcr (w : Fields)
  | vbcc (w : Fields)
  | vredr (w : Fields)
  | vredc (w : Fields)
  | vscnr (w : Fields)
  | vscnc (w : Fields)
  | vcvt (w : Fields)
  | vqnt (w : Fields)
  | vdqnt (w : Fields)
  | vexp (w : Fields)
  | vlog (w : Fields)
  | vrcp (w : Fields)
  | vrsq (w : Fields)
  | vtanh (w : Fields)
  | vextr (w : Fields)
  | vins (w : Fields)
  | vpop (w : Fields)
  | vpush (w : Fields)
  | pscl (w : Fields)
  | vswz (w : Fields)
  | smm (w : Fields)
  | smmz (w : Fields)
  | saccrd (w : Fields)
  | saccwr (w : Fields)
  | saccz (w : Fields)
  | sscl (w : Fields)
  | smode (w : Fields)
  | sprog (w : Fields)
  | sbfly (w : Fields)
  | schain (w : Fields)
  | sstr (w : Fields)
  | sbwl (w : Fields)
  | saccv (w : Fields)
  | svacc (w : Fields)
  | mcpy (w : Fields)
  | mcpy2 (w : Fields)
  | mgth (w : Fields)
  | msct (w : Fields)
  | mspg (w : Fields)
  | mfill (w : Fields)
  | mm2c (w : Fields)
  | mc2m (w : Fields)
  | mnest (w : Fields)
  | mstat (w : Fields)
  | pthr (w : Fields)
  | peos (w : Fields)
  | pord (w : Fields)
  | pstat (w : Fields)
  | ptst (w : Fields)
  | pdrn (w : Fields)
  | ptyp (w : Fields)
  | sysrd (w : Fields)
  | syswr (w : Fields)
  | setstk (w : Fields)
  | trap (w : Fields)
  | bkpt (w : Fields)
  | monrd (w : Fields)
  | moncfg (w : Fields)
  | ctxsv (w : Fields)
  | ctxld (w : Fields)
  | halt (w : Fields)
  | unassigned (op : BitVec 8) (w : Fields)
  | elSource (w : ElemWord)
  | elSink (w : ElemWord)
  | elCopy (w : ElemWord)
  | elQbuf (w : ElemWord)
  | elConst (w : ElemWord)
  | elAdd (w : ElemWord)
  | elSub (w : ElemWord)
  | elMul (w : ElemWord)
  | elFma (w : ElemWord)
  | elMin (w : ElemWord)
  | elMax (w : ElemWord)
  | elLogic (w : ElemWord)
  | elCmp (w : ElemWord)
  | elCvt (w : ElemWord)
  | elLut (w : ElemWord)
  | elUnpack (w : ElemWord)
  | elPack (w : ElemWord)
  | elZenc (w : ElemWord)
  | elZdec (w : ElemWord)
  | elDelta (w : ElemWord)
  | elBqnt (w : ElemWord)
  | elBdqnt (w : ElemWord)
  | elExpadd (w : ElemWord)
  | elTopk (w : ElemWord)
  | elCount (w : ElemWord)
  | elSteer (w : ElemWord)
  | elMerge (w : ElemWord)
  | elCarry (w : ElemWord)
  | suspendWake
  | autoPark
  | autoParkWake
  | graiseApply
  | globalAccessPerform
  | globalReplyArrival
  | globalAckArrival
  | fenceRetire
  | translationWalkComplete
  | layoutRecordCacheFill
  | seracCommandStart
  | seracBlockStaged
  | seracCommandComplete
  | moraineCommandStart
  | moraineCommandComplete
  | gridDispatch
  | taskStrandsStart
  | taskDone
  | taskSlotFree
  | graphQueueEnable
  | graphQueueTailWrite
  | graphEntryRead
  | loadConfigure
  | regionImageVerified
  | loadStart
  | loadComplete
  | loadExit
  | graphComplete
  | xinvStart
  | xinvComplete
  | planeRetirePlanned
  | planeFaultDetect
  | planeStallTimeout
  | rehashStop
  | rehashDrained
  | rehashCommit
  | rehashCommitted
  | rehashResume
  | channelPacketSend
  | channelPacketArrive
  | channelAck
  | channelOff
  | channelOn
  | elementSpecialToken
  | regionOutputPortTake
  | regionConfigError
  | regionSwapRequest
  | regionSwapImageChecked
  | regionSwapIdle
  | regionSwapTimeout
  | preemptSaveRequest
  | preemptRestoreRequest
  | preemptQtoExpire
  | regionStillTimeout
  | preemptQuiescent
  | preemptSaveComplete
  | preemptRestoreComplete
  | faultEntryWrite
  | fqctlEnable
  | fqResume
  | fqResumeStack
  | fqResumeAt
  | fqKill
  | fqStopLoad
  | fqContinue
  | deadlockDetect
  | loadStop
  | loadStopped
  | scrubUncorrectable
  | hostMemoryRequest
  | hostAtomic
  | functionLevelReset
  | registerWrite
  | tilehaltWrite
  | ownClaim
  | ownHandover
  | ownerVacancyTimeout
  | boot
  | fwRecovery
  | mbInstallKey
  | mbAttest
  | mbLoadEncKey
  | mbUpdateFw
  | pwrtileWrite
  | pwrregWrite
  | powerUpComplete
  | tileClockGate
  | thermalThrottle
  | thermalReset
  | laneRemove
  | linkTurnaround
  | pkgIndexClash
  | ringSlotArrive
  | incastResend
  | gangArm
  | gangAck
  | gangCommit
  | gangCommitted
  | gangAbort
  | gangWindowExpire
  | sealedOperatorFire
  | linkRetrainComplete
  | hostLinkDown
  | bridgeLinkTrained
deriving DecidableEq, Repr

end Sys2Proof
end

