-- ==== Sys2Proof/WellFormed.lean ====
section
/-! DEFINITION. Which terms of Instr are well formed: an opcode agrees with its constructor, an operand, hint or
format is a code that some word may hold (R39, R40, R43, R46), an element names no reserved target (R348). Which form each opcode admits is checked when
the word issues (R57), in Machine/Forms.lean. -/

namespace Sys2Proof

/-- An operand is in a form of R39 with a code that R40 admits somewhere: the scalar form has [7:6] = 0, a queue
code names AQ, BQ, CQ or a port, a special code is 0x00 to 0x12 (R11). -/
def Opnd.wf : Opnd → Bool
  | .reg _ => true
  | .imm _ => true
  | .queue c => c.toNat ≤ 2 || (0x10 ≤ c.toNat && c.toNat ≤ 0x1F)
  | .scalar h _ => h == 0#2
  | .special c => c.toNat ≤ 0x12

/-- The fields of a strand word hold no code that is reserved in every word (R40, R43, R46). With `longImm` the C
bits are part of an immediate (R41) and are not an operand. -/
def Fields.wf (longImm : Bool) (w : Fields) : Bool :=
  w.fmt != 0xF#4 && w.hint.toNat ≤ 3 && w.d.wf && w.a.wf && w.b.wf && (longImm || w.c.wf)

/-- The opcodes that R48 leaves unassigned. -/
def unassignedOpcode (op : BitVec 8) : Bool :=
  let n := op.toNat
  (0x24 ≤ n && n ≤ 0x27) || (0x34 ≤ n && n ≤ 0x3F) || (0x56 ≤ n && n ≤ 0x5F) || (0x75 ≤ n && n ≤ 0x7F) ||
  (0xB0 ≤ n && n ≤ 0xBF) || (0xCE ≤ n && n ≤ 0xCF) || (0xDA ≤ n && n ≤ 0xDF) || (0xE7 ≤ n && n ≤ 0xEF) || 0xFA ≤ n

/-- A target is absent and all zero, or names a slot; an output port (slot 1016 and up) has position 0 (R348). -/
def Target.wf (t : Target) : Bool :=
  if t.valid then t.slot.toNat < 1016 || t.pos == 0#2 else t.slot == 0#10 && t.pos == 0#2

/-- An element word's FMT is no reserved code and its targets are well formed (R348, R349). -/
def ElemWord.wf (w : ElemWord) : Bool :=
  (w.fmt.toNat ≤ 0xA || w.fmt == 0xE#4) && w.t0.wf && w.t1.wf

/-- Well formed instructions. -/
def Instr.wf : Instr → Bool
  | .nop w => w.wf false
  | .mov w => w.wf false
  | .movi w => w.wf true
  | .movhi w => w.wf true
  | .add w => w.wf false
  | .sub w => w.wf false
  | .mul w => w.wf false
  | .mulh w => w.wf false
  | .div w => w.wf false
  | .rem w => w.wf false
  | .and w => w.wf false
  | .or w => w.wf false
  | .xor w => w.wf false
  | .andn w => w.wf false
  | .shl w => w.wf false
  | .shr w => w.wf false
  | .sar w => w.wf false
  | .rol w => w.wf false
  | .min w => w.wf false
  | .max w => w.wf false
  | .abs w => w.wf false
  | .neg w => w.wf false
  | .clz w => w.wf false
  | .popc w => w.wf false
  | .bfx w => w.wf false
  | .bfi w => w.wf false
  | .sel w => w.wf false
  | .cmp w => w.wf false
  | .plog w => w.wf false
  | .psave w => w.wf false
  | .prest w => w.wf false
  | .cvtsx w => w.wf false
  | .lea w => w.wf false
  | .mad w => w.wf false
  | .ldt w => w.wf false
  | .stt w => w.wf false
  | .fadd w => w.wf false
  | .fsub w => w.wf false
  | .fmul w => w.wf false
  | .ffma w => w.wf false
  | .fmin w => w.wf false
  | .fmax w => w.wf false
  | .fabs w => w.mod != 1#3 && w.wf false
  | .fneg w => w.mod == 1#3 && w.wf false
  | .fcmp w => w.wf false
  | .fcvt w => w.wf false
  | .fdiv w => w.wf false
  | .fsqrt w => w.wf false
  | .frcp w => w.wf false
  | .br w => w.wf true
  | .jmp w => w.wf false
  | .call w => w.wf true
  | .callr w => w.wf false
  | .ret w => w.wf false
  | .loop w => w.wf true
  | .bcq w => w.wf true
  | .qpush w => w.wf false
  | .qpop w => w.wf false
  | .qcount w => w.wf false
  | .twait w => w.wf false
  | .tsig w => w.wf false
  | .suspend w => w.wf true
  | .endStrand w => w.wf false
  | .yield w => w.wf false
  | .evrd w => w.wf false
  | .evadd w => w.wf false
  | .evset w => w.wf false
  | .graise w => w.wf false
  | .gread w => w.wf false
  | .setnf w => w.wf false
  | .tread w => w.wf false
  | .ldg w => w.wf false
  | .stg w => w.wf false
  | .ldc w => w.wf false
  | .pld w => w.wf false
  | .pst w => w.wf false
  | .prst w => w.wf false
  | .stf w => w.wf false
  | .atadd w => w.wf false
  | .atand w => w.wf false
  | .ator w => w.wf false
  | .atxor w => w.wf false
  | .atmin w => w.wf false
  | .atmax w => w.wf false
  | .atswp w => w.wf false
  | .atcas w => w.wf false
  | .amaxx w => w.wf false
  | .atfadd w => w.wf false
  | .atfmax w => w.wf false
  | .fence w => w.wf false
  | .lfence w => w.wf false
  | .pref w => w.wf false
  | .vld w => w.wf false
  | .vst w => w.wf false
  | .vlds w => w.wf false
  | .vsts w => w.wf false
  | .vldt w => w.wf false
  | .vstt w => w.wf false
  | .vmov w => w.wf false
  | .vbcs w => w.wf false
  | .vadd w => w.wf false
  | .vsub w => w.wf false
  | .vmul w => w.wf false
  | .vfma w => w.wf false
  | .vmin w => w.wf false
  | .vmax w => w.wf false
  | .vabs w => w.wf false
  | .vneg w => w.wf false
  | .vand w => w.wf false
  | .vor w => w.wf false
  | .vxor w => w.wf false
  | .vshl w => w.wf false
  | .vshr w => w.wf false
  | .vsar w => w.wf false
  | .vcmp w => w.wf false
  | .vsel w => w.wf false
  | .klog w => w.wf false
  | .kmov w => w.wf false
  | .vrotr w => w.wf false
  | .vrotc w => w.wf false
  | .vbcr w => w.wf false
  | .vbcc w => w.wf false
  | .vredr w => w.wf false
  | .vredc w => w.wf false
  | .vscnr w => w.wf false
  | .vscnc w => w.wf false
  | .vcvt w => w.wf false
  | .vqnt w => w.wf false
  | .vdqnt w => w.wf false
  | .vexp w => w.wf false
  | .vlog w => w.wf false
  | .vrcp w => w.wf false
  | .vrsq w => w.wf false
  | .vtanh w => w.wf false
  | .vextr w => w.wf false
  | .vins w => w.wf false
  | .vpop w => w.wf false
  | .vpush w => w.wf false
  | .pscl w => w.wf false
  | .vswz w => w.wf false
  | .smm w => w.wf false
  | .smmz w => w.wf false
  | .saccrd w => w.wf false
  | .saccwr w => w.wf false
  | .saccz w => w.wf false
  | .sscl w => w.wf false
  | .smode w => w.wf false
  | .sprog w => w.wf false
  | .sbfly w => w.wf false
  | .schain w => w.wf false
  | .sstr w => w.wf false
  | .sbwl w => w.wf false
  | .saccv w => w.wf false
  | .svacc w => w.wf false
  | .mcpy w => w.wf false
  | .mcpy2 w => w.wf false
  | .mgth w => w.wf false
  | .msct w => w.wf false
  | .mspg w => w.wf false
  | .mfill w => w.wf false
  | .mm2c w => w.wf false
  | .mc2m w => w.wf false
  | .mnest w => w.wf false
  | .mstat w => w.wf false
  | .pthr w => w.wf false
  | .peos w => w.wf false
  | .pord w => w.wf false
  | .pstat w => w.wf false
  | .ptst w => w.wf false
  | .pdrn w => w.wf false
  | .ptyp w => w.wf false
  | .sysrd w => w.wf false
  | .syswr w => w.wf false
  | .setstk w => w.wf false
  | .trap w => w.wf false
  | .bkpt w => w.wf false
  | .monrd w => w.wf false
  | .moncfg w => w.wf false
  | .ctxsv w => w.wf false
  | .ctxld w => w.wf false
  | .halt w => w.wf false
  | .unassigned op w => unassignedOpcode op && w.wf true
  | .elSource w => w.wf
  | .elSink w => w.wf
  | .elCopy w => w.wf
  | .elQbuf w => w.wf
  | .elConst w => w.wf
  | .elAdd w => w.wf
  | .elSub w => w.wf
  | .elMul w => w.wf
  | .elFma w => w.wf
  | .elMin w => w.wf
  | .elMax w => w.wf
  | .elLogic w => w.wf
  | .elCmp w => w.wf
  | .elCvt w => w.wf
  | .elLut w => w.wf
  | .elUnpack w => w.wf
  | .elPack w => w.wf
  | .elZenc w => w.wf
  | .elZdec w => w.wf
  | .elDelta w => w.wf
  | .elBqnt w => w.wf
  | .elBdqnt w => w.wf
  | .elExpadd w => w.wf
  | .elTopk w => w.wf
  | .elCount w => w.wf
  | .elSteer w => w.wf
  | .elMerge w => w.wf
  | .elCarry w => w.wf
  | .suspendWake => true
  | .autoPark => true
  | .autoParkWake => true
  | .graiseApply => true
  | .globalAccessPerform => true
  | .globalReplyArrival => true
  | .globalAckArrival => true
  | .fenceRetire => true
  | .translationWalkComplete => true
  | .layoutRecordCacheFill => true
  | .seracCommandStart => true
  | .seracBlockStaged => true
  | .seracCommandComplete => true
  | .moraineCommandStart => true
  | .moraineCommandComplete => true
  | .gridDispatch => true
  | .taskStrandsStart => true
  | .taskDone => true
  | .taskSlotFree => true
  | .graphQueueEnable => true
  | .graphQueueTailWrite => true
  | .graphEntryRead => true
  | .loadConfigure => true
  | .regionImageVerified => true
  | .loadStart => true
  | .loadComplete => true
  | .loadExit => true
  | .graphComplete => true
  | .xinvStart => true
  | .xinvComplete => true
  | .planeRetirePlanned => true
  | .planeFaultDetect => true
  | .planeStallTimeout => true
  | .rehashStop => true
  | .rehashDrained => true
  | .rehashCommit => true
  | .rehashCommitted => true
  | .rehashResume => true
  | .channelPacketSend => true
  | .channelPacketArrive => true
  | .channelAck => true
  | .channelOff => true
  | .channelOn => true
  | .elementSpecialToken => true
  | .regionOutputPortTake => true
  | .regionConfigError => true
  | .regionSwapRequest => true
  | .regionSwapImageChecked => true
  | .regionSwapIdle => true
  | .regionSwapTimeout => true
  | .preemptSaveRequest => true
  | .preemptRestoreRequest => true
  | .preemptQtoExpire => true
  | .regionStillTimeout => true
  | .preemptQuiescent => true
  | .preemptSaveComplete => true
  | .preemptRestoreComplete => true
  | .faultEntryWrite => true
  | .fqctlEnable => true
  | .fqResume => true
  | .fqResumeStack => true
  | .fqResumeAt => true
  | .fqKill => true
  | .fqStopLoad => true
  | .fqContinue => true
  | .deadlockDetect => true
  | .loadStop => true
  | .loadStopped => true
  | .scrubUncorrectable => true
  | .hostMemoryRequest => true
  | .hostAtomic => true
  | .functionLevelReset => true
  | .registerWrite => true
  | .tilehaltWrite => true
  | .ownClaim => true
  | .ownHandover => true
  | .ownerVacancyTimeout => true
  | .boot => true
  | .fwRecovery => true
  | .mbInstallKey => true
  | .mbAttest => true
  | .mbLoadEncKey => true
  | .mbUpdateFw => true
  | .pwrtileWrite => true
  | .pwrregWrite => true
  | .powerUpComplete => true
  | .tileClockGate => true
  | .thermalThrottle => true
  | .thermalReset => true
  | .laneRemove => true
  | .linkTurnaround => true
  | .pkgIndexClash => true
  | .ringSlotArrive => true
  | .incastResend => true
  | .gangArm => true
  | .gangAck => true
  | .gangCommit => true
  | .gangCommitted => true
  | .gangAbort => true
  | .gangWindowExpire => true
  | .sealedOperatorFire => true
  | .linkRetrainComplete => true
  | .hostLinkDown => true
  | .bridgeLinkTrained => true

end Sys2Proof
end

