-- ==== Sys2Proof/Decode.lean ====
section
/-! DEFINITION. From bits to instructions and back: the 96-bit strand word (R35 to R37, R39, R48 to R55) and the
64-bit element word (R348, R357, R358). Every strand word decodes: an unassigned OP decodes to the constructor
that faults (R48). An element word that names no element is rejected by name. -/

namespace Sys2Proof

/-- Why a piece of memory is no instruction. -/
inductive DecodeError where
  /-- Not 12 bytes (a strand word, R35) and not 8 bytes (an element word, R348). -/
  | wrongLength
  /-- An empty slot, OPN 0x00 (R348). -/
  | emptySlot
  /-- A data slot, OPN 0x3E (R348). -/
  | dataSlot
  /-- A reserved OPN (R358). -/
  | reservedElement
deriving DecidableEq, Repr

/-- An operand field in the form its bits select (R39). -/
def decodeOpnd (v : BitVec 11) : Opnd :=
  if v.getLsbD 10 = false then .reg (v.extractLsb' 0 10)
  else if v.extractLsb' 8 2 = 0#2 then .imm (v.extractLsb' 0 8)
  else if v.extractLsb' 8 2 = 1#2 then .queue (v.extractLsb' 0 8)
  else if v.extractLsb' 8 2 = 2#2 then .scalar (v.extractLsb' 6 2) (v.extractLsb' 0 6)
  else .special (v.extractLsb' 0 8)

/-- The 11 bits of an operand (R39). -/
def encodeOpnd : Opnd → BitVec 11
  | .reg i => 0#1 ++ i
  | .imm v => 1#1 ++ (0#2 ++ v)
  | .queue c => 1#1 ++ (1#2 ++ c)
  | .scalar h i => 1#1 ++ (2#2 ++ (h ++ i))
  | .special c => 1#1 ++ (3#2 ++ c)

/-- The fields of a word below OP (R36). -/
def decodeFields (v : BitVec 88) : Fields :=
  { fmt := v.extractLsb' 84 4
    mod := v.extractLsb' 81 3
    g0 := v.extractLsb' 76 5
    g1 := v.extractLsb' 71 5
    pop := v.extractLsb' 67 4
    push := v.extractLsb' 63 4
    hint := v.extractLsb' 60 3
    dual := v.getLsbD 59
    yld := v.getLsbD 58
    d := decodeOpnd (v.extractLsb' 47 11)
    a := decodeOpnd (v.extractLsb' 36 11)
    b := decodeOpnd (v.extractLsb' 25 11)
    c := decodeOpnd (v.extractLsb' 14 11)
    e := v.extractLsb' 0 14 }

/-- The 88 bits below OP (R36). -/
def encodeFields (w : Fields) : BitVec 88 :=
  w.fmt ++ (w.mod ++ (w.g0 ++ (w.g1 ++ (w.pop ++ (w.push ++ (w.hint ++ (BitVec.ofBool w.dual ++ (BitVec.ofBool w.yld ++
    (encodeOpnd w.d ++ (encodeOpnd w.a ++ (encodeOpnd w.b ++ (encodeOpnd w.c ++ w.e))))))))))))

/-- Opcodes 0x00 to 0x0F by their low four bits (R49). -/
def opScalarA (low : Nat) (w : Fields) : Instr :=
  match low with
  | 0 => .nop w
  | 1 => .mov w
  | 2 => .movi w
  | 3 => .movhi w
  | 4 => .add w
  | 5 => .sub w
  | 6 => .mul w
  | 7 => .mulh w
  | 8 => .div w
  | 9 => .rem w
  | 10 => .and w
  | 11 => .or w
  | 12 => .xor w
  | 13 => .andn w
  | 14 => .shl w
  | _ => .shr w

/-- Opcodes 0x10 to 0x1F by their low four bits (R49). -/
def opScalarB (low : Nat) (w : Fields) : Instr :=
  match low with
  | 0 => .sar w
  | 1 => .rol w
  | 2 => .min w
  | 3 => .max w
  | 4 => .abs w
  | 5 => .neg w
  | 6 => .clz w
  | 7 => .popc w
  | 8 => .bfx w
  | 9 => .bfi w
  | 10 => .sel w
  | 11 => .cmp w
  | 12 => .plog w
  | 13 => .psave w
  | 14 => .prest w
  | _ => .cvtsx w

/-- Opcodes 0x20 to 0x2F by their low four bits (R49). -/
def opScalarC (low : Nat) (w : Fields) : Instr :=
  match low with
  | 0 => .lea w
  | 1 => .mad w
  | 2 => .ldt w
  | 3 => .stt w
  | 8 => .fadd w
  | 9 => .fsub w
  | 10 => .fmul w
  | 11 => .ffma w
  | 12 => .fmin w
  | 13 => .fmax w
  | 14 => if w.mod = 1#3 then .fneg w else .fabs w
  | 15 => .fcmp w
  | _ => .unassigned (BitVec.ofNat 8 (0x20 + low)) w

/-- Opcodes 0x30 to 0x3F by their low four bits (R49). -/
def opScalarD (low : Nat) (w : Fields) : Instr :=
  match low with
  | 0 => .fcvt w
  | 1 => .fdiv w
  | 2 => .fsqrt w
  | 3 => .frcp w
  | _ => .unassigned (BitVec.ofNat 8 (0x30 + low)) w

/-- Opcodes 0x40 to 0x4F by their low four bits (R51). -/
def opControlA (low : Nat) (w : Fields) : Instr :=
  match low with
  | 0 => .br w
  | 1 => .jmp w
  | 2 => .call w
  | 3 => .callr w
  | 4 => .ret w
  | 5 => .loop w
  | 6 => .bcq w
  | 7 => .qpush w
  | 8 => .qpop w
  | 9 => .qcount w
  | 10 => .twait w
  | 11 => .tsig w
  | 12 => .suspend w
  | 13 => .endStrand w
  | 14 => .yield w
  | _ => .evrd w

/-- Opcodes 0x50 to 0x5F by their low four bits (R51). -/
def opControlB (low : Nat) (w : Fields) : Instr :=
  match low with
  | 0 => .evadd w
  | 1 => .evset w
  | 2 => .graise w
  | 3 => .gread w
  | 4 => .setnf w
  | 5 => .tread w
  | _ => .unassigned (BitVec.ofNat 8 (0x50 + low)) w

/-- Opcodes 0x60 to 0x6F by their low four bits (R52). -/
def opGlobalA (low : Nat) (w : Fields) : Instr :=
  match low with
  | 0 => .ldg w
  | 1 => .stg w
  | 2 => .ldc w
  | 3 => .pld w
  | 4 => .pst w
  | 5 => .prst w
  | 6 => .stf w
  | 7 => .atadd w
  | 8 => .atand w
  | 9 => .ator w
  | 10 => .atxor w
  | 11 => .atmin w
  | 12 => .atmax w
  | 13 => .atswp w
  | 14 => .atcas w
  | _ => .amaxx w

/-- Opcodes 0x70 to 0x7F by their low four bits (R52). -/
def opGlobalB (low : Nat) (w : Fields) : Instr :=
  match low with
  | 0 => .atfadd w
  | 1 => .atfmax w
  | 2 => .fence w
  | 3 => .lfence w
  | 4 => .pref w
  | _ => .unassigned (BitVec.ofNat 8 (0x70 + low)) w

/-- Opcodes 0x80 to 0x8F by their low four bits (R53). -/
def opVectorA (low : Nat) (w : Fields) : Instr :=
  match low with
  | 0 => .vld w
  | 1 => .vst w
  | 2 => .vlds w
  | 3 => .vsts w
  | 4 => .vldt w
  | 5 => .vstt w
  | 6 => .vmov w
  | 7 => .vbcs w
  | 8 => .vadd w
  | 9 => .vsub w
  | 10 => .vmul w
  | 11 => .vfma w
  | 12 => .vmin w
  | 13 => .vmax w
  | 14 => .vabs w
  | _ => .vneg w

/-- Opcodes 0x90 to 0x9F by their low four bits (R53). -/
def opVectorB (low : Nat) (w : Fields) : Instr :=
  match low with
  | 0 => .vand w
  | 1 => .vor w
  | 2 => .vxor w
  | 3 => .vshl w
  | 4 => .vshr w
  | 5 => .vsar w
  | 6 => .vcmp w
  | 7 => .vsel w
  | 8 => .klog w
  | 9 => .kmov w
  | 10 => .vrotr w
  | 11 => .vrotc w
  | 12 => .vbcr w
  | 13 => .vbcc w
  | 14 => .vredr w
  | _ => .vredc w

/-- Opcodes 0xA0 to 0xAF by their low four bits (R53). -/
def opVectorC (low : Nat) (w : Fields) : Instr :=
  match low with
  | 0 => .vscnr w
  | 1 => .vscnc w
  | 2 => .vcvt w
  | 3 => .vqnt w
  | 4 => .vdqnt w
  | 5 => .vexp w
  | 6 => .vlog w
  | 7 => .vrcp w
  | 8 => .vrsq w
  | 9 => .vtanh w
  | 10 => .vextr w
  | 11 => .vins w
  | 12 => .vpop w
  | 13 => .vpush w
  | 14 => .pscl w
  | _ => .vswz w

/-- Opcodes 0xC0 to 0xCF by their low four bits (R54). -/
def opSerac (low : Nat) (w : Fields) : Instr :=
  match low with
  | 0 => .smm w
  | 1 => .smmz w
  | 2 => .saccrd w
  | 3 => .saccwr w
  | 4 => .saccz w
  | 5 => .sscl w
  | 6 => .smode w
  | 7 => .sprog w
  | 8 => .sbfly w
  | 9 => .schain w
  | 10 => .sstr w
  | 11 => .sbwl w
  | 12 => .saccv w
  | 13 => .svacc w
  | _ => .unassigned (BitVec.ofNat 8 (0xC0 + low)) w

/-- Opcodes 0xD0 to 0xDF by their low four bits (R54). -/
def opMoraine (low : Nat) (w : Fields) : Instr :=
  match low with
  | 0 => .mcpy w
  | 1 => .mcpy2 w
  | 2 => .mgth w
  | 3 => .msct w
  | 4 => .mspg w
  | 5 => .mfill w
  | 6 => .mm2c w
  | 7 => .mc2m w
  | 8 => .mnest w
  | 9 => .mstat w
  | _ => .unassigned (BitVec.ofNat 8 (0xD0 + low)) w

/-- Opcodes 0xE0 to 0xEF by their low four bits (R55). -/
def opPort (low : Nat) (w : Fields) : Instr :=
  match low with
  | 0 => .pthr w
  | 1 => .peos w
  | 2 => .pord w
  | 3 => .pstat w
  | 4 => .ptst w
  | 5 => .pdrn w
  | 6 => .ptyp w
  | _ => .unassigned (BitVec.ofNat 8 (0xE0 + low)) w

/-- Opcodes 0xF0 to 0xFF by their low four bits (R55). -/
def opSystem (low : Nat) (w : Fields) : Instr :=
  match low with
  | 0 => .sysrd w
  | 1 => .syswr w
  | 2 => .setstk w
  | 3 => .trap w
  | 4 => .bkpt w
  | 5 => .monrd w
  | 6 => .moncfg w
  | 7 => .ctxsv w
  | 8 => .ctxld w
  | 9 => .halt w
  | _ => .unassigned (BitVec.ofNat 8 (0xF0 + low)) w

/-- The instruction that OP and the other fields give (R48 to R55). FABS and FNEG share opcode 0x2E (R84). -/
def ofOpcode (op : BitVec 8) (w : Fields) : Instr :=
  match op.toNat / 16 with
  | 0 => opScalarA (op.toNat % 16) w
  | 1 => opScalarB (op.toNat % 16) w
  | 2 => opScalarC (op.toNat % 16) w
  | 3 => opScalarD (op.toNat % 16) w
  | 4 => opControlA (op.toNat % 16) w
  | 5 => opControlB (op.toNat % 16) w
  | 6 => opGlobalA (op.toNat % 16) w
  | 7 => opGlobalB (op.toNat % 16) w
  | 8 => opVectorA (op.toNat % 16) w
  | 9 => opVectorB (op.toNat % 16) w
  | 10 => opVectorC (op.toNat % 16) w
  | 11 => .unassigned op w
  | 12 => opSerac (op.toNat % 16) w
  | 13 => opMoraine (op.toNat % 16) w
  | 14 => opPort (op.toNat % 16) w
  | _ => opSystem (op.toNat % 16) w

/-- A 96-bit strand word (R36). -/
def decodeStrand (v : Word96) : Instr := ofOpcode (v.extractLsb' 88 8) (decodeFields (v.extractLsb' 0 88))

/-- The opcode and fields of a strand word; none for an element or an event. -/
def Instr.strandWord : Instr → Option (BitVec 8 × Fields)
  | .nop w => some (0x00#8, w)
  | .mov w => some (0x01#8, w)
  | .movi w => some (0x02#8, w)
  | .movhi w => some (0x03#8, w)
  | .add w => some (0x04#8, w)
  | .sub w => some (0x05#8, w)
  | .mul w => some (0x06#8, w)
  | .mulh w => some (0x07#8, w)
  | .div w => some (0x08#8, w)
  | .rem w => some (0x09#8, w)
  | .and w => some (0x0A#8, w)
  | .or w => some (0x0B#8, w)
  | .xor w => some (0x0C#8, w)
  | .andn w => some (0x0D#8, w)
  | .shl w => some (0x0E#8, w)
  | .shr w => some (0x0F#8, w)
  | .sar w => some (0x10#8, w)
  | .rol w => some (0x11#8, w)
  | .min w => some (0x12#8, w)
  | .max w => some (0x13#8, w)
  | .abs w => some (0x14#8, w)
  | .neg w => some (0x15#8, w)
  | .clz w => some (0x16#8, w)
  | .popc w => some (0x17#8, w)
  | .bfx w => some (0x18#8, w)
  | .bfi w => some (0x19#8, w)
  | .sel w => some (0x1A#8, w)
  | .cmp w => some (0x1B#8, w)
  | .plog w => some (0x1C#8, w)
  | .psave w => some (0x1D#8, w)
  | .prest w => some (0x1E#8, w)
  | .cvtsx w => some (0x1F#8, w)
  | .lea w => some (0x20#8, w)
  | .mad w => some (0x21#8, w)
  | .ldt w => some (0x22#8, w)
  | .stt w => some (0x23#8, w)
  | .fadd w => some (0x28#8, w)
  | .fsub w => some (0x29#8, w)
  | .fmul w => some (0x2A#8, w)
  | .ffma w => some (0x2B#8, w)
  | .fmin w => some (0x2C#8, w)
  | .fmax w => some (0x2D#8, w)
  | .fabs w => some (0x2E#8, w)
  | .fneg w => some (0x2E#8, w)
  | .fcmp w => some (0x2F#8, w)
  | .fcvt w => some (0x30#8, w)
  | .fdiv w => some (0x31#8, w)
  | .fsqrt w => some (0x32#8, w)
  | .frcp w => some (0x33#8, w)
  | .br w => some (0x40#8, w)
  | .jmp w => some (0x41#8, w)
  | .call w => some (0x42#8, w)
  | .callr w => some (0x43#8, w)
  | .ret w => some (0x44#8, w)
  | .loop w => some (0x45#8, w)
  | .bcq w => some (0x46#8, w)
  | .qpush w => some (0x47#8, w)
  | .qpop w => some (0x48#8, w)
  | .qcount w => some (0x49#8, w)
  | .twait w => some (0x4A#8, w)
  | .tsig w => some (0x4B#8, w)
  | .suspend w => some (0x4C#8, w)
  | .endStrand w => some (0x4D#8, w)
  | .yield w => some (0x4E#8, w)
  | .evrd w => some (0x4F#8, w)
  | .evadd w => some (0x50#8, w)
  | .evset w => some (0x51#8, w)
  | .graise w => some (0x52#8, w)
  | .gread w => some (0x53#8, w)
  | .setnf w => some (0x54#8, w)
  | .tread w => some (0x55#8, w)
  | .ldg w => some (0x60#8, w)
  | .stg w => some (0x61#8, w)
  | .ldc w => some (0x62#8, w)
  | .pld w => some (0x63#8, w)
  | .pst w => some (0x64#8, w)
  | .prst w => some (0x65#8, w)
  | .stf w => some (0x66#8, w)
  | .atadd w => some (0x67#8, w)
  | .atand w => some (0x68#8, w)
  | .ator w => some (0x69#8, w)
  | .atxor w => some (0x6A#8, w)
  | .atmin w => some (0x6B#8, w)
  | .atmax w => some (0x6C#8, w)
  | .atswp w => some (0x6D#8, w)
  | .atcas w => some (0x6E#8, w)
  | .amaxx w => some (0x6F#8, w)
  | .atfadd w => some (0x70#8, w)
  | .atfmax w => some (0x71#8, w)
  | .fence w => some (0x72#8, w)
  | .lfence w => some (0x73#8, w)
  | .pref w => some (0x74#8, w)
  | .vld w => some (0x80#8, w)
  | .vst w => some (0x81#8, w)
  | .vlds w => some (0x82#8, w)
  | .vsts w => some (0x83#8, w)
  | .vldt w => some (0x84#8, w)
  | .vstt w => some (0x85#8, w)
  | .vmov w => some (0x86#8, w)
  | .vbcs w => some (0x87#8, w)
  | .vadd w => some (0x88#8, w)
  | .vsub w => some (0x89#8, w)
  | .vmul w => some (0x8A#8, w)
  | .vfma w => some (0x8B#8, w)
  | .vmin w => some (0x8C#8, w)
  | .vmax w => some (0x8D#8, w)
  | .vabs w => some (0x8E#8, w)
  | .vneg w => some (0x8F#8, w)
  | .vand w => some (0x90#8, w)
  | .vor w => some (0x91#8, w)
  | .vxor w => some (0x92#8, w)
  | .vshl w => some (0x93#8, w)
  | .vshr w => some (0x94#8, w)
  | .vsar w => some (0x95#8, w)
  | .vcmp w => some (0x96#8, w)
  | .vsel w => some (0x97#8, w)
  | .klog w => some (0x98#8, w)
  | .kmov w => some (0x99#8, w)
  | .vrotr w => some (0x9A#8, w)
  | .vrotc w => some (0x9B#8, w)
  | .vbcr w => some (0x9C#8, w)
  | .vbcc w => some (0x9D#8, w)
  | .vredr w => some (0x9E#8, w)
  | .vredc w => some (0x9F#8, w)
  | .vscnr w => some (0xA0#8, w)
  | .vscnc w => some (0xA1#8, w)
  | .vcvt w => some (0xA2#8, w)
  | .vqnt w => some (0xA3#8, w)
  | .vdqnt w => some (0xA4#8, w)
  | .vexp w => some (0xA5#8, w)
  | .vlog w => some (0xA6#8, w)
  | .vrcp w => some (0xA7#8, w)
  | .vrsq w => some (0xA8#8, w)
  | .vtanh w => some (0xA9#8, w)
  | .vextr w => some (0xAA#8, w)
  | .vins w => some (0xAB#8, w)
  | .vpop w => some (0xAC#8, w)
  | .vpush w => some (0xAD#8, w)
  | .pscl w => some (0xAE#8, w)
  | .vswz w => some (0xAF#8, w)
  | .smm w => some (0xC0#8, w)
  | .smmz w => some (0xC1#8, w)
  | .saccrd w => some (0xC2#8, w)
  | .saccwr w => some (0xC3#8, w)
  | .saccz w => some (0xC4#8, w)
  | .sscl w => some (0xC5#8, w)
  | .smode w => some (0xC6#8, w)
  | .sprog w => some (0xC7#8, w)
  | .sbfly w => some (0xC8#8, w)
  | .schain w => some (0xC9#8, w)
  | .sstr w => some (0xCA#8, w)
  | .sbwl w => some (0xCB#8, w)
  | .saccv w => some (0xCC#8, w)
  | .svacc w => some (0xCD#8, w)
  | .mcpy w => some (0xD0#8, w)
  | .mcpy2 w => some (0xD1#8, w)
  | .mgth w => some (0xD2#8, w)
  | .msct w => some (0xD3#8, w)
  | .mspg w => some (0xD4#8, w)
  | .mfill w => some (0xD5#8, w)
  | .mm2c w => some (0xD6#8, w)
  | .mc2m w => some (0xD7#8, w)
  | .mnest w => some (0xD8#8, w)
  | .mstat w => some (0xD9#8, w)
  | .pthr w => some (0xE0#8, w)
  | .peos w => some (0xE1#8, w)
  | .pord w => some (0xE2#8, w)
  | .pstat w => some (0xE3#8, w)
  | .ptst w => some (0xE4#8, w)
  | .pdrn w => some (0xE5#8, w)
  | .ptyp w => some (0xE6#8, w)
  | .sysrd w => some (0xF0#8, w)
  | .syswr w => some (0xF1#8, w)
  | .setstk w => some (0xF2#8, w)
  | .trap w => some (0xF3#8, w)
  | .bkpt w => some (0xF4#8, w)
  | .monrd w => some (0xF5#8, w)
  | .moncfg w => some (0xF6#8, w)
  | .ctxsv w => some (0xF7#8, w)
  | .ctxld w => some (0xF8#8, w)
  | .halt w => some (0xF9#8, w)
  | .unassigned op w => some (op, w)
  | .elSource _ => none
  | .elSink _ => none
  | .elCopy _ => none
  | .elQbuf _ => none
  | .elConst _ => none
  | .elAdd _ => none
  | .elSub _ => none
  | .elMul _ => none
  | .elFma _ => none
  | .elMin _ => none
  | .elMax _ => none
  | .elLogic _ => none
  | .elCmp _ => none
  | .elCvt _ => none
  | .elLut _ => none
  | .elUnpack _ => none
  | .elPack _ => none
  | .elZenc _ => none
  | .elZdec _ => none
  | .elDelta _ => none
  | .elBqnt _ => none
  | .elBdqnt _ => none
  | .elExpadd _ => none
  | .elTopk _ => none
  | .elCount _ => none
  | .elSteer _ => none
  | .elMerge _ => none
  | .elCarry _ => none
  | .suspendWake => none
  | .autoPark => none
  | .autoParkWake => none
  | .graiseApply => none
  | .globalAccessPerform => none
  | .globalReplyArrival => none
  | .globalAckArrival => none
  | .fenceRetire => none
  | .translationWalkComplete => none
  | .layoutRecordCacheFill => none
  | .seracCommandStart => none
  | .seracBlockStaged => none
  | .seracCommandComplete => none
  | .moraineCommandStart => none
  | .moraineCommandComplete => none
  | .gridDispatch => none
  | .taskStrandsStart => none
  | .taskDone => none
  | .taskSlotFree => none
  | .graphQueueEnable => none
  | .graphQueueTailWrite => none
  | .graphEntryRead => none
  | .loadConfigure => none
  | .regionImageVerified => none
  | .loadStart => none
  | .loadComplete => none
  | .loadExit => none
  | .graphComplete => none
  | .xinvStart => none
  | .xinvComplete => none
  | .planeRetirePlanned => none
  | .planeFaultDetect => none
  | .planeStallTimeout => none
  | .rehashStop => none
  | .rehashDrained => none
  | .rehashCommit => none
  | .rehashCommitted => none
  | .rehashResume => none
  | .channelPacketSend => none
  | .channelPacketArrive => none
  | .channelAck => none
  | .channelOff => none
  | .channelOn => none
  | .elementSpecialToken => none
  | .regionOutputPortTake => none
  | .regionConfigError => none
  | .regionSwapRequest => none
  | .regionSwapImageChecked => none
  | .regionSwapIdle => none
  | .regionSwapTimeout => none
  | .preemptSaveRequest => none
  | .preemptRestoreRequest => none
  | .preemptQtoExpire => none
  | .regionStillTimeout => none
  | .preemptQuiescent => none
  | .preemptSaveComplete => none
  | .preemptRestoreComplete => none
  | .faultEntryWrite => none
  | .fqctlEnable => none
  | .fqResume => none
  | .fqResumeStack => none
  | .fqResumeAt => none
  | .fqKill => none
  | .fqStopLoad => none
  | .fqContinue => none
  | .deadlockDetect => none
  | .loadStop => none
  | .loadStopped => none
  | .scrubUncorrectable => none
  | .hostMemoryRequest => none
  | .hostAtomic => none
  | .functionLevelReset => none
  | .registerWrite => none
  | .tilehaltWrite => none
  | .ownClaim => none
  | .ownHandover => none
  | .ownerVacancyTimeout => none
  | .boot => none
  | .fwRecovery => none
  | .mbInstallKey => none
  | .mbAttest => none
  | .mbLoadEncKey => none
  | .mbUpdateFw => none
  | .pwrtileWrite => none
  | .pwrregWrite => none
  | .powerUpComplete => none
  | .tileClockGate => none
  | .thermalThrottle => none
  | .thermalReset => none
  | .laneRemove => none
  | .linkTurnaround => none
  | .pkgIndexClash => none
  | .ringSlotArrive => none
  | .incastResend => none
  | .gangArm => none
  | .gangAck => none
  | .gangCommit => none
  | .gangCommitted => none
  | .gangAbort => none
  | .gangWindowExpire => none
  | .sealedOperatorFire => none
  | .linkRetrainComplete => none
  | .hostLinkDown => none
  | .bridgeLinkTrained => none

/-- The 96 bits of a strand word (R36). -/
def encodeStrand (op : BitVec 8) (w : Fields) : Word96 := op ++ encodeFields w

/-- A target field of an element word (R348). -/
def decodeTarget (v : BitVec 13) : Target :=
  { valid := v.getLsbD 12, slot := v.extractLsb' 2 10, pos := v.extractLsb' 0 2 }

/-- The 13 bits of a target (R348). -/
def encodeTarget (t : Target) : BitVec 13 := BitVec.ofBool t.valid ++ (t.slot ++ t.pos)

/-- The fields of an element word below OPN (R348). -/
def decodeElemWord (v : BitVec 58) : ElemWord :=
  { fmt := v.extractLsb' 54 4
    mod := v.extractLsb' 51 3
    t0 := decodeTarget (v.extractLsb' 38 13)
    t1 := decodeTarget (v.extractLsb' 25 13)
    param := v.extractLsb' 0 25 }

/-- The 58 bits below OPN (R348). -/
def encodeElemWord (w : ElemWord) : BitVec 58 :=
  w.fmt ++ (w.mod ++ (encodeTarget w.t0 ++ (encodeTarget w.t1 ++ w.param)))

/-- The element that an OPN names (R357, R358). -/
def ofOpn (opn : Nat) (w : ElemWord) : Except DecodeError Instr :=
  match opn with
  | 0 => .error .emptySlot
  | 1 => .ok (.elSource w)
  | 2 => .ok (.elSink w)
  | 3 => .ok (.elCopy w)
  | 4 => .ok (.elQbuf w)
  | 5 => .ok (.elConst w)
  | 8 => .ok (.elAdd w)
  | 9 => .ok (.elSub w)
  | 10 => .ok (.elMul w)
  | 11 => .ok (.elFma w)
  | 12 => .ok (.elMin w)
  | 13 => .ok (.elMax w)
  | 14 => .ok (.elLogic w)
  | 15 => .ok (.elCmp w)
  | 16 => .ok (.elCvt w)
  | 17 => .ok (.elLut w)
  | 18 => .ok (.elUnpack w)
  | 19 => .ok (.elPack w)
  | 20 => .ok (.elZenc w)
  | 21 => .ok (.elZdec w)
  | 22 => .ok (.elDelta w)
  | 24 => .ok (.elBqnt w)
  | 25 => .ok (.elBdqnt w)
  | 26 => .ok (.elExpadd w)
  | 27 => .ok (.elTopk w)
  | 28 => .ok (.elCount w)
  | 32 => .ok (.elSteer w)
  | 33 => .ok (.elMerge w)
  | 34 => .ok (.elCarry w)
  | 62 => .error .dataSlot
  | _ => .error .reservedElement

/-- A 64-bit element word (R348). -/
def decodeElement (v : Word64) : Except DecodeError Instr :=
  ofOpn (v.extractLsb' 58 6).toNat (decodeElemWord (v.extractLsb' 0 58))

/-- The OPN and fields of an element; none for a strand word or an event. -/
def Instr.elementWord : Instr → Option (BitVec 6 × ElemWord)
  | .elSource w => some (1#6, w)
  | .elSink w => some (2#6, w)
  | .elCopy w => some (3#6, w)
  | .elQbuf w => some (4#6, w)
  | .elConst w => some (5#6, w)
  | .elAdd w => some (8#6, w)
  | .elSub w => some (9#6, w)
  | .elMul w => some (10#6, w)
  | .elFma w => some (11#6, w)
  | .elMin w => some (12#6, w)
  | .elMax w => some (13#6, w)
  | .elLogic w => some (14#6, w)
  | .elCmp w => some (15#6, w)
  | .elCvt w => some (16#6, w)
  | .elLut w => some (17#6, w)
  | .elUnpack w => some (18#6, w)
  | .elPack w => some (19#6, w)
  | .elZenc w => some (20#6, w)
  | .elZdec w => some (21#6, w)
  | .elDelta w => some (22#6, w)
  | .elBqnt w => some (24#6, w)
  | .elBdqnt w => some (25#6, w)
  | .elExpadd w => some (26#6, w)
  | .elTopk w => some (27#6, w)
  | .elCount w => some (28#6, w)
  | .elSteer w => some (32#6, w)
  | .elMerge w => some (33#6, w)
  | .elCarry w => some (34#6, w)
  | .nop _ => none
  | .mov _ => none
  | .movi _ => none
  | .movhi _ => none
  | .add _ => none
  | .sub _ => none
  | .mul _ => none
  | .mulh _ => none
  | .div _ => none
  | .rem _ => none
  | .and _ => none
  | .or _ => none
  | .xor _ => none
  | .andn _ => none
  | .shl _ => none
  | .shr _ => none
  | .sar _ => none
  | .rol _ => none
  | .min _ => none
  | .max _ => none
  | .abs _ => none
  | .neg _ => none
  | .clz _ => none
  | .popc _ => none
  | .bfx _ => none
  | .bfi _ => none
  | .sel _ => none
  | .cmp _ => none
  | .plog _ => none
  | .psave _ => none
  | .prest _ => none
  | .cvtsx _ => none
  | .lea _ => none
  | .mad _ => none
  | .ldt _ => none
  | .stt _ => none
  | .fadd _ => none
  | .fsub _ => none
  | .fmul _ => none
  | .ffma _ => none
  | .fmin _ => none
  | .fmax _ => none
  | .fabs _ => none
  | .fneg _ => none
  | .fcmp _ => none
  | .fcvt _ => none
  | .fdiv _ => none
  | .fsqrt _ => none
  | .frcp _ => none
  | .br _ => none
  | .jmp _ => none
  | .call _ => none
  | .callr _ => none
  | .ret _ => none
  | .loop _ => none
  | .bcq _ => none
  | .qpush _ => none
  | .qpop _ => none
  | .qcount _ => none
  | .twait _ => none
  | .tsig _ => none
  | .suspend _ => none
  | .endStrand _ => none
  | .yield _ => none
  | .evrd _ => none
  | .evadd _ => none
  | .evset _ => none
  | .graise _ => none
  | .gread _ => none
  | .setnf _ => none
  | .tread _ => none
  | .ldg _ => none
  | .stg _ => none
  | .ldc _ => none
  | .pld _ => none
  | .pst _ => none
  | .prst _ => none
  | .stf _ => none
  | .atadd _ => none
  | .atand _ => none
  | .ator _ => none
  | .atxor _ => none
  | .atmin _ => none
  | .atmax _ => none
  | .atswp _ => none
  | .atcas _ => none
  | .amaxx _ => none
  | .atfadd _ => none
  | .atfmax _ => none
  | .fence _ => none
  | .lfence _ => none
  | .pref _ => none
  | .vld _ => none
  | .vst _ => none
  | .vlds _ => none
  | .vsts _ => none
  | .vldt _ => none
  | .vstt _ => none
  | .vmov _ => none
  | .vbcs _ => none
  | .vadd _ => none
  | .vsub _ => none
  | .vmul _ => none
  | .vfma _ => none
  | .vmin _ => none
  | .vmax _ => none
  | .vabs _ => none
  | .vneg _ => none
  | .vand _ => none
  | .vor _ => none
  | .vxor _ => none
  | .vshl _ => none
  | .vshr _ => none
  | .vsar _ => none
  | .vcmp _ => none
  | .vsel _ => none
  | .klog _ => none
  | .kmov _ => none
  | .vrotr _ => none
  | .vrotc _ => none
  | .vbcr _ => none
  | .vbcc _ => none
  | .vredr _ => none
  | .vredc _ => none
  | .vscnr _ => none
  | .vscnc _ => none
  | .vcvt _ => none
  | .vqnt _ => none
  | .vdqnt _ => none
  | .vexp _ => none
  | .vlog _ => none
  | .vrcp _ => none
  | .vrsq _ => none
  | .vtanh _ => none
  | .vextr _ => none
  | .vins _ => none
  | .vpop _ => none
  | .vpush _ => none
  | .pscl _ => none
  | .vswz _ => none
  | .smm _ => none
  | .smmz _ => none
  | .saccrd _ => none
  | .saccwr _ => none
  | .saccz _ => none
  | .sscl _ => none
  | .smode _ => none
  | .sprog _ => none
  | .sbfly _ => none
  | .schain _ => none
  | .sstr _ => none
  | .sbwl _ => none
  | .saccv _ => none
  | .svacc _ => none
  | .mcpy _ => none
  | .mcpy2 _ => none
  | .mgth _ => none
  | .msct _ => none
  | .mspg _ => none
  | .mfill _ => none
  | .mm2c _ => none
  | .mc2m _ => none
  | .mnest _ => none
  | .mstat _ => none
  | .pthr _ => none
  | .peos _ => none
  | .pord _ => none
  | .pstat _ => none
  | .ptst _ => none
  | .pdrn _ => none
  | .ptyp _ => none
  | .sysrd _ => none
  | .syswr _ => none
  | .setstk _ => none
  | .trap _ => none
  | .bkpt _ => none
  | .monrd _ => none
  | .moncfg _ => none
  | .ctxsv _ => none
  | .ctxld _ => none
  | .halt _ => none
  | .unassigned _ _ => none
  | .suspendWake => none
  | .autoPark => none
  | .autoParkWake => none
  | .graiseApply => none
  | .globalAccessPerform => none
  | .globalReplyArrival => none
  | .globalAckArrival => none
  | .fenceRetire => none
  | .translationWalkComplete => none
  | .layoutRecordCacheFill => none
  | .seracCommandStart => none
  | .seracBlockStaged => none
  | .seracCommandComplete => none
  | .moraineCommandStart => none
  | .moraineCommandComplete => none
  | .gridDispatch => none
  | .taskStrandsStart => none
  | .taskDone => none
  | .taskSlotFree => none
  | .graphQueueEnable => none
  | .graphQueueTailWrite => none
  | .graphEntryRead => none
  | .loadConfigure => none
  | .regionImageVerified => none
  | .loadStart => none
  | .loadComplete => none
  | .loadExit => none
  | .graphComplete => none
  | .xinvStart => none
  | .xinvComplete => none
  | .planeRetirePlanned => none
  | .planeFaultDetect => none
  | .planeStallTimeout => none
  | .rehashStop => none
  | .rehashDrained => none
  | .rehashCommit => none
  | .rehashCommitted => none
  | .rehashResume => none
  | .channelPacketSend => none
  | .channelPacketArrive => none
  | .channelAck => none
  | .channelOff => none
  | .channelOn => none
  | .elementSpecialToken => none
  | .regionOutputPortTake => none
  | .regionConfigError => none
  | .regionSwapRequest => none
  | .regionSwapImageChecked => none
  | .regionSwapIdle => none
  | .regionSwapTimeout => none
  | .preemptSaveRequest => none
  | .preemptRestoreRequest => none
  | .preemptQtoExpire => none
  | .regionStillTimeout => none
  | .preemptQuiescent => none
  | .preemptSaveComplete => none
  | .preemptRestoreComplete => none
  | .faultEntryWrite => none
  | .fqctlEnable => none
  | .fqResume => none
  | .fqResumeStack => none
  | .fqResumeAt => none
  | .fqKill => none
  | .fqStopLoad => none
  | .fqContinue => none
  | .deadlockDetect => none
  | .loadStop => none
  | .loadStopped => none
  | .scrubUncorrectable => none
  | .hostMemoryRequest => none
  | .hostAtomic => none
  | .functionLevelReset => none
  | .registerWrite => none
  | .tilehaltWrite => none
  | .ownClaim => none
  | .ownHandover => none
  | .ownerVacancyTimeout => none
  | .boot => none
  | .fwRecovery => none
  | .mbInstallKey => none
  | .mbAttest => none
  | .mbLoadEncKey => none
  | .mbUpdateFw => none
  | .pwrtileWrite => none
  | .pwrregWrite => none
  | .powerUpComplete => none
  | .tileClockGate => none
  | .thermalThrottle => none
  | .thermalReset => none
  | .laneRemove => none
  | .linkTurnaround => none
  | .pkgIndexClash => none
  | .ringSlotArrive => none
  | .incastResend => none
  | .gangArm => none
  | .gangAck => none
  | .gangCommit => none
  | .gangCommitted => none
  | .gangAbort => none
  | .gangWindowExpire => none
  | .sealedOperatorFire => none
  | .linkRetrainComplete => none
  | .hostLinkDown => none
  | .bridgeLinkTrained => none

/-- The 64 bits of an element word (R348). -/
def encodeElement (opn : BitVec 6) (w : ElemWord) : Word64 := opn ++ encodeElemWord w

/-- Little-endian bytes as one number (00 Notation). -/
def bytesToNat : List Byte → Nat
  | [] => 0
  | b :: bs => b.toNat + 256 * bytesToNat bs

/-- The low `n` bytes of a number, lowest first (00 Notation). -/
def natToBytes : Nat → Nat → List Byte
  | 0, _ => []
  | n + 1, v => BitVec.ofNat 8 v :: natToBytes n (v / 256)

/-- An instruction from its bytes in memory: 12 bytes are a strand word, three little-endian parcels with the
lowest first (R35); 8 bytes are an element word (R348). -/
def decode (bytes : List Byte) : Except DecodeError Instr :=
  if bytes.length = 12 then .ok (decodeStrand (BitVec.ofNat 96 (bytesToNat bytes)))
  else if bytes.length = 8 then decodeElement (BitVec.ofNat 64 (bytesToNat bytes))
  else .error .wrongLength

/-- The bytes of an instruction in memory; an event has none. -/
def encode (i : Instr) : Option (List Byte) :=
  match i.strandWord with
  | some (op, w) => some (natToBytes 12 (encodeStrand op w).toNat)
  | none =>
    match i.elementWord with
    | some (opn, w) => some (natToBytes 8 (encodeElement opn w).toNat)
    | none => none

/-- The instruction read from `nbits` bits numbered as spec/opcode_table.json numbers them: 64 bits are an element
word, anything else the low bits of a strand word whose further bits are zero. -/
def decodeTableWord (nbits w : Nat) : Option Instr :=
  if nbits = 64 then (decode (natToBytes 8 w)).toOption else (decode (natToBytes 12 w)).toOption

end Sys2Proof
end

