-- ==== Sys2Proof/Machine/Aes.lean ====
section
/-! DEFINITION. AES-256 in XTS mode over one granule (R245), as FIPS 197 and IEEE 1619 define them, which the manual names by name. A block
is 16 bytes, column by column. -/

namespace Sys2Proof.Machine

/-- The S-box of AES, sixteen values a row. -/
def aesBox : List (List Byte) := [
  [0x63, 0x7C, 0x77, 0x7B, 0xF2, 0x6B, 0x6F, 0xC5, 0x30, 0x01, 0x67, 0x2B, 0xFE, 0xD7, 0xAB, 0x76],
  [0xCA, 0x82, 0xC9, 0x7D, 0xFA, 0x59, 0x47, 0xF0, 0xAD, 0xD4, 0xA2, 0xAF, 0x9C, 0xA4, 0x72, 0xC0],
  [0xB7, 0xFD, 0x93, 0x26, 0x36, 0x3F, 0xF7, 0xCC, 0x34, 0xA5, 0xE5, 0xF1, 0x71, 0xD8, 0x31, 0x15],
  [0x04, 0xC7, 0x23, 0xC3, 0x18, 0x96, 0x05, 0x9A, 0x07, 0x12, 0x80, 0xE2, 0xEB, 0x27, 0xB2, 0x75],
  [0x09, 0x83, 0x2C, 0x1A, 0x1B, 0x6E, 0x5A, 0xA0, 0x52, 0x3B, 0xD6, 0xB3, 0x29, 0xE3, 0x2F, 0x84],
  [0x53, 0xD1, 0x00, 0xED, 0x20, 0xFC, 0xB1, 0x5B, 0x6A, 0xCB, 0xBE, 0x39, 0x4A, 0x4C, 0x58, 0xCF],
  [0xD0, 0xEF, 0xAA, 0xFB, 0x43, 0x4D, 0x33, 0x85, 0x45, 0xF9, 0x02, 0x7F, 0x50, 0x3C, 0x9F, 0xA8],
  [0x51, 0xA3, 0x40, 0x8F, 0x92, 0x9D, 0x38, 0xF5, 0xBC, 0xB6, 0xDA, 0x21, 0x10, 0xFF, 0xF3, 0xD2]] ++ [
  [0xCD, 0x0C, 0x13, 0xEC, 0x5F, 0x97, 0x44, 0x17, 0xC4, 0xA7, 0x7E, 0x3D, 0x64, 0x5D, 0x19, 0x73],
  [0x60, 0x81, 0x4F, 0xDC, 0x22, 0x2A, 0x90, 0x88, 0x46, 0xEE, 0xB8, 0x14, 0xDE, 0x5E, 0x0B, 0xDB],
  [0xE0, 0x32, 0x3A, 0x0A, 0x49, 0x06, 0x24, 0x5C, 0xC2, 0xD3, 0xAC, 0x62, 0x91, 0x95, 0xE4, 0x79],
  [0xE7, 0xC8, 0x37, 0x6D, 0x8D, 0xD5, 0x4E, 0xA9, 0x6C, 0x56, 0xF4, 0xEA, 0x65, 0x7A, 0xAE, 0x08],
  [0xBA, 0x78, 0x25, 0x2E, 0x1C, 0xA6, 0xB4, 0xC6, 0xE8, 0xDD, 0x74, 0x1F, 0x4B, 0xBD, 0x8B, 0x8A],
  [0x70, 0x3E, 0xB5, 0x66, 0x48, 0x03, 0xF6, 0x0E, 0x61, 0x35, 0x57, 0xB9, 0x86, 0xC1, 0x1D, 0x9E],
  [0xE1, 0xF8, 0x98, 0x11, 0x69, 0xD9, 0x8E, 0x94, 0x9B, 0x1E, 0x87, 0xE9, 0xCE, 0x55, 0x28, 0xDF],
  [0x8C, 0xA1, 0x89, 0x0D, 0xBF, 0xE6, 0x42, 0x68, 0x41, 0x99, 0x2D, 0x0F, 0xB0, 0x54, 0xBB, 0x16]]

/-- A byte through the S-box. -/
def subByte (b : Byte) : Byte := (aesBox.getD (b.toNat / 16) []).getD (b.toNat % 16) 0

/-- A byte back through the S-box. -/
def unsubByte (b : Byte) : Byte := BitVec.ofNat 8 (((List.range 256).find? (fun x => subByte (BitVec.ofNat 8 x) == b)).getD 0)

/-- A byte times x in AES's field. -/
def xtime (b : Byte) : Byte := (b <<< 1) ^^^ (if b.msb then 0x1B else 0)

/-- A byte times a constant below 16 in AES's field. -/
def fieldMul (k : Nat) (b : Byte) : Byte :=
  let b2 := xtime b
  let b4 := xtime b2
  (if k.testBit 0 then b else 0) ^^^ (if k.testBit 1 then b2 else 0) ^^^ (if k.testBit 2 then b4 else 0) ^^^ (if k.testBit 3 then xtime b4 else 0)

/-- Byte-by-byte exclusive or. -/
def xorBytes (a b : List Byte) : List Byte := List.zipWith (fun x y => x ^^^ y) a b

/-- ShiftRows, row r by r columns; its inverse turns the other way. -/
def shiftRows (inverse : Bool) (b : List Byte) : List Byte :=
  (List.range 16).map (fun i => b.getD (4 * ((i / 4 + (if inverse then 4 - i % 4 else i % 4)) % 4) + i % 4) 0)

/-- MixColumns under the first row of its matrix, (2, 3, 1, 1) or for the inverse (14, 11, 13, 9). -/
def mixColumns (row : List Nat) (b : List Byte) : List Byte :=
  (List.range 16).map (fun i =>
    (List.range 4).foldl (fun acc k => acc ^^^ fieldMul (row.getD ((k + 4 - i % 4) % 4) 0) (b.getD (4 * (i / 4) + k) 0)) 0)

/-- The words of the key schedule from the last eight on, the newest first, at most `fuel` more, word i the next. -/
def aesSchedule : Nat → Nat → List (List Byte) → List (List Byte)
  | 0, _, ws => ws
  | fuel + 1, i, ws =>
    let last := ws.getD 0 []
    let t := if i % 8 = 0 then xorBytes ((last.drop 1 ++ last.take 1).map subByte) [(List.range (i / 8 - 1)).foldl (fun c _ => xtime c) 1, 0, 0, 0]
      else if i % 8 = 4 then last.map subByte else last
    aesSchedule fuel (i + 1) (xorBytes (ws.getD 7 []) t :: ws)

/-- The fifteen round keys of a 32-byte key. -/
def roundKeys (key : List Byte) : List (List Byte) :=
  let ws := (aesSchedule 52 8 ((List.range 8).map (fun i => (key.drop (4 * i)).take 4)).reverse).reverse
  (List.range 15).map (fun r => ((ws.drop (4 * r)).take 4).flatten)

/-- One block under AES-256. -/
def aesEncrypt (keys : List (List Byte)) (b : List Byte) : List Byte :=
  match keys with
  | [] => b
  | k0 :: rest =>
    let b1 := (rest.dropLast).foldl (fun x k => xorBytes (mixColumns [2, 3, 1, 1] (shiftRows false (x.map subByte))) k) (xorBytes b k0)
    xorBytes (shiftRows false (b1.map subByte)) (rest.getLastD [])

/-- One block back from AES-256. -/
def aesDecrypt (keys : List (List Byte)) (b : List Byte) : List Byte :=
  match keys with
  | [] => b
  | k0 :: rest =>
    let b1 := (shiftRows true (xorBytes b (rest.getLastD []))).map unsubByte
    xorBytes ((rest.dropLast).reverse.foldl (fun x k => (shiftRows true (mixColumns [14, 11, 13, 9] (xorBytes x k))).map unsubByte) b1) k0

/-- A tweak times x, the lowest byte first (IEEE 1619). -/
def nextTweak (t : List Byte) : List Byte :=
  let carry := (t.getD 15 0).msb
  (List.range 16).map (fun i =>
    ((t.getD i 0) <<< 1) ^^^ (if i = 0 then (if carry then 0x87 else 0) else if (t.getD (i - 1) 0).msb then 1 else 0))

/-- Blocks of a data unit in order, each between two exclusive ors with its tweak. -/
def xtsBlocks (f : List Byte → List Byte) : Nat → List Byte → List Byte → List Byte
  | 0, _, _ => []
  | n + 1, t, bs => xorBytes (f (xorBytes (bs.take 16) t)) t ++ xtsBlocks f n (nextTweak t) (bs.drop 16)

/-- The tweak of a granule: PA[51:6], a 16-byte number, lowest byte first, under the second half of the key. -/
def xtsTweak (key : List Byte) (granule : Nat) : List Byte := aesEncrypt (roundKeys (key.drop 32)) (natToBytes 16 granule)

/-- AES-256 XTS of one granule under a 64-byte key, the granule number as tweak (R245). -/
def xtsEncrypt (key : List Byte) (granule : Nat) (bs : List Byte) : List Byte :=
  xtsBlocks (aesEncrypt (roundKeys (key.take 32))) 4 (xtsTweak key granule) bs

/-- The inverse of `xtsEncrypt` under the same key (R245). -/
def xtsDecrypt (key : List Byte) (granule : Nat) (bs : List Byte) : List Byte :=
  xtsBlocks (aesDecrypt (roundKeys (key.take 32))) 4 (xtsTweak key granule) bs

end Sys2Proof.Machine
end

