-- ==== Sys2Proof/Machine/Map.lean ====
section
/-! DEFINITION. A finite map as plain data: a list of pairs read first match first. A key that is not listed reads
as the value its reader names, which is that component's reset value. -/

namespace Sys2Proof.Machine

/-- A finite map. -/
structure Map (κ α : Type) where
  entries : List (κ × α) := []
deriving DecidableEq, Repr, Inhabited

variable {κ α : Type} [DecidableEq κ]

/-- The map with nothing listed. -/
def Map.empty : Map κ α := { entries := [] }

/-- The first value listed under a key. -/
def Map.lookup (k : κ) : List (κ × α) → Option α
  | [] => none
  | e :: es => if e.1 = k then some e.2 else Map.lookup k es

/-- The value listed under a key, if any. -/
def Map.find? (m : Map κ α) (k : κ) : Option α := Map.lookup k m.entries

/-- The value under a key, or `d` when none is listed. -/
def Map.get (m : Map κ α) (k : κ) (d : α) : α := (m.find? k).getD d

/-- Replace the value listed under a key, or list it at the end. -/
def Map.put (k : κ) (v : α) : List (κ × α) → List (κ × α)
  | [] => [(k, v)]
  | e :: es => if e.1 = k then (k, v) :: es else e :: Map.put k v es

/-- The map with the key holding the value. -/
def Map.set (m : Map κ α) (k : κ) (v : α) : Map κ α := { entries := Map.put k v m.entries }

/-- The map with nothing listed under the key. -/
def Map.erase (m : Map κ α) (k : κ) : Map κ α := { entries := m.entries.filter (fun e => e.1 ≠ k) }

/-- The keys listed. -/
def Map.keys (m : Map κ α) : List κ := m.entries.map Prod.fst

/-- The map with every listed value replaced. -/
def Map.mapVals (m : Map κ α) (f : κ → α → α) : Map κ α := { entries := m.entries.map (fun e => (e.1, f e.1 e.2)) }

theorem Map.lookup_put_same (es : List (κ × α)) (k : κ) (v : α) : Map.lookup k (Map.put k v es) = some v := by
  induction es with
  | nil => simp [Map.put, Map.lookup]
  | cons e es ih =>
    by_cases h : e.1 = k
    · simp [Map.put, Map.lookup, h]
    · simp [Map.put, Map.lookup, h, ih]

theorem Map.lookup_put_ne (es : List (κ × α)) {k k' : κ} (v : α) (hne : k' ≠ k) :
    Map.lookup k' (Map.put k v es) = Map.lookup k' es := by
  induction es with
  | nil => simp [Map.put, Map.lookup, hne.symm]
  | cons e es ih =>
    by_cases h : e.1 = k
    · simp [Map.put, Map.lookup, h, hne.symm]
    · simp [Map.put, Map.lookup, h, ih]

/-- Reading a key just written gives the value written. -/
@[simp] theorem Map.get_set_same (m : Map κ α) (k : κ) (v d : α) : (m.set k v).get k d = v := by
  simp [Map.get, Map.find?, Map.set, Map.lookup_put_same]

/-- A write leaves every other key as it was. -/
theorem Map.get_set_ne (m : Map κ α) {k k' : κ} (v d : α) (hne : k' ≠ k) : (m.set k v).get k' d = m.get k' d := by
  simp [Map.get, Map.find?, Map.set, Map.lookup_put_ne _ _ hne]

/-- What a write does to every read. -/
theorem Map.get_set (m : Map κ α) (k k' : κ) (v d : α) :
    (m.set k v).get k' d = if k' = k then v else m.get k' d := by
  by_cases h : k' = k
  · simp [h]
  · simp [h, Map.get_set_ne]

/-- A map with nothing listed reads as the default everywhere. -/
@[simp] theorem Map.get_empty (k : κ) (d : α) : (Map.empty : Map κ α).get k d = d := rfl

theorem Map.lookup_filter_same (es : List (κ × α)) (k : κ) :
    Map.lookup k (es.filter (fun e => e.1 ≠ k)) = none := by
  induction es with
  | nil => rfl
  | cons e es ih =>
    by_cases h : e.1 = k
    · simpa [List.filter, h] using ih
    · simpa [List.filter, h, Map.lookup] using ih

/-- An erased key reads as the default. -/
@[simp] theorem Map.get_erase_same (m : Map κ α) (k : κ) (d : α) : (m.erase k).get k d = d := by
  simp only [Map.get, Map.find?, Map.erase, Map.lookup_filter_same, Option.getD_none]

end Sys2Proof.Machine
end

