-- ==== Sys2Proof/Machine/State.lean ====
section
/-! DEFINITION. The state of the machine as plain data: every register, queue, memory, record and transfer in
progress that the manual names, over the whole rack ring, and the few fields of the model's own (the agenda, the
cursor, the counter of free values). What a map does not list reads as that component's reset value. -/

namespace Sys2Proof.Machine

/-! ## Why a step can stop -/

/-- Why the machine stops with a fault. A fault of the manual is never one of these: it is a next state in which
the record of R32 is on its way to the fault queue. -/
inductive Fault where
  /-- Raised by exec of a strand word when the cursor names no strand that can issue (no task, Parked, Faulted,
  Ended). step never asks for it. Safe: the manual gives a word that no strand fetches no effect. -/
  | noStrand
  /-- Raised by exec of an element when the cursor names no slot of a running element graph that holds that
  element. step never asks for it. Safe: an element that is not installed has no effect. -/
  | noElement
  /-- Raised by step when a strand's next word or header cannot be read through its load's domain. The manual gives
  a load whose image cannot be read no running task (R224), and says nothing of a page withdrawn later. Safe: the
  model stops where the manual gives no effect. -/
  | imageUnreadable
deriving DecidableEq, Repr

/-- Why the model gives an instruction no meaning. -/
inductive Refusal where
  /-- Raised by exec for an instruction that is rejected by its mnemonic. Safe: the model stops. -/
  | notModelled (mnemonic : String)
deriving DecidableEq, Repr

/-! ## Names -/

/-- The queues between the strands of a task (R12). -/
inductive QueueName where
  | aq
  | bq
  | cq
deriving DecidableEq, Repr

/-- What kind of endpoint a port is (R329). -/
inductive PortKind where
  | tile
  | region
  | streamer
deriving DecidableEq, Repr

/-- A port of the rack ring (R329): an out port is a channel's source, an in port a destination. -/
structure PortId where
  die : Nat
  kind : PortKind
  index : Nat
  out : Bool
  port : Nat
deriving DecidableEq, Repr

/-- A region of a die (R320). -/
structure RegionId where
  die : Nat
  region : Nat
deriving DecidableEq, Repr

/-- A graph queue of a die (R218). -/
structure QueueId where
  die : Nat
  queue : Nat
deriving DecidableEq, Repr

/-- The fault codes of R376. -/
inductive FaultCode where
  | illegalEnc
  | wrongCore
  | regLimit
  | evLimit
  | tilememBounds
  | stackLimit
  | misalign
  | xlate
  | prot
  | absent
  | writeOnce
  | tokenOver
  | cmdqDeadlock
  | deadlock
  | poisonIn
  | priv
  | gangSplit
  | planeLost
  | eccUncorr
  | outOfRange
  | trap
  | bkpt
deriving DecidableEq, Repr

/-- The number of a fault code (R376). -/
def FaultCode.num : FaultCode → Nat
  | .illegalEnc => 0x01
  | .wrongCore => 0x02
  | .regLimit => 0x03
  | .evLimit => 0x04
  | .tilememBounds => 0x05
  | .stackLimit => 0x06
  | .misalign => 0x07
  | .xlate => 0x08
  | .prot => 0x09
  | .absent => 0x0A
  | .writeOnce => 0x0B
  | .tokenOver => 0x0C
  | .cmdqDeadlock => 0x0D
  | .deadlock => 0x0E
  | .poisonIn => 0x0F
  | .priv => 0x10
  | .gangSplit => 0x11
  | .planeLost => 0x12
  | .eccUncorr => 0x13
  | .outOfRange => 0x14
  | .trap => 0x15
  | .bkpt => 0x16

/-! ## Global accesses -/

/-- The kinds of a Dawn global access (R288, R289, R292, R295, R299). -/
inductive AccessKind where
  | ldg
  | ldc
  | stg
  | pld
  | pst
  | prst
  | stf
  | pref
  | atadd
  | atand
  | ator
  | atxor
  | atmin
  | atmax
  | atswp
  | atcas
  | amaxx
  | atfadd
  | atfmax
deriving DecidableEq, Repr

/-- How far an access has gone: on its way to its home, deferred there (a PLD of an empty word), its data performed
and its flag still to be incremented (STF), performed, or lost with its plane. -/
inductive AccessStage where
  | sent
  | deferred
  | flag
  | done
deriving DecidableEq, Repr

/-- A global access in flight (R257, R260). -/
structure Access where
  num : Nat
  who : StrandId
  addr : Word64
  kind : AccessKind
  va : Word64
  pa : Nat
  size : Nat
  signed : Bool
  plane : Nat
  keyid : BitVec 4 := 0
  data : Word64 := 0
  expect : Word64 := 0
  dest : Option Nat := none
  stage : AccessStage := .sent
  reply : Word64 := 0
  /-- A PST that its home refused (R291). -/
  refused : Bool := false
  /-- STF: the flag's location, and whether it is an event counter. -/
  flagPa : Nat := 0
  flagEv : Bool := false
  flagPlane : Nat := 0
  flagKey : BitVec 4 := 0
  /-- LDGs whose reply it may take its value from (R273). -/
  sources : List Nat := []
  /-- Pinned translation blocks (R246). -/
  blocks : List Nat := []
  domain : BitVec 8 := 0
  /-- To be sent again after a rehash (R265). -/
  resend : Bool := false
  /-- The load, grid and index of its task, once that task's slot is free again (R31). -/
  left : Option (LoadId × Nat × Word32) := none
deriving DecidableEq, Repr

/-! ## Strands -/

/-- Why an instruction is held (R21, with the causes that R241, R246, R260, R261, R263, R291 and R163 add). `order` is the model's form of
R237 and R272: a tile-local access waits for an earlier global access of its strand to one of its bytes (log entry 37). -/
inductive Hold where
  | token (counter : Nat)
  | queueEmpty (q : QueueName)
  | queueFull (q : QueueName)
  | reg (index : Nat)
  | vreg (index : Nat)
  | needs (e : Engine)
  | slots (e : Engine)
  | port (p : PortId)
  | portCmd (p : PortId)
  | accesses
  | phase
  | walk (block : Nat)
  | pinned
  | fence
  | pst
  | order
deriving DecidableEq, Repr

/-- A precise fault before its record is built: code, WHERE, INFO and DETAIL of R32, with ADDR and the resume
point where they are not the address of the word (R34, R56). -/
structure Trap where
  code : FaultCode
  loc : Nat := 0
  info : Word64 := 0
  detail : Word32 := 0
  addr : Option Word64 := none
  resume : Option Word64 := none
  /-- SECOND of the record: the cause lies in the second word of the pair (R32, R44). -/
  second : Bool := false
deriving DecidableEq, Repr

/-- The scopes of a fence (R270). -/
inductive Scope where
  | task
  | tile
  | die
  | package
  | domain
deriving DecidableEq, Repr

/-- A fence or LFENCE that has issued and not retired (R261, R251), with its scope (R270). One whose word stands and waits, since
it pushes tokens when it retires or opens a pair, keeps that address and whether its retirement has come; another may hold
the push of a pair's second word. -/
structure FenceWait where
  lfence : Bool
  scope : Scope := .task
  /-- Accesses issued before it have a smaller number. -/
  before : Nat
  own : Option Word64 := none
  met : Bool := false
  pushes : List (Nat × Nat) := []
deriving DecidableEq, Repr

/-- How an instruction fails to issue: it is held, it faults precisely, it is a PST that has been sent and waits for its
home's answer before it retires (R291), or it is a fence that waits in its place for what it orders (R261, R251). -/
inductive Stop where
  | hold (h : Hold)
  | trap (t : Trap)
  | sent (a : Access)
  | fence (f : FenceWait)
deriving DecidableEq, Repr

/-- A 32-byte fault record (R32). -/
structure Record where
  dw0 : Word64 := 0
  dw1 : Word64 := 0
  dw2 : Word64 := 0
  dw3 : Word64 := 0
deriving DecidableEq, Repr

/-- The states of a strand (R30). -/
inductive StrandStatus where
  | absent
  | ready
  | held
  | parked
  | faulted
  | ended
  | saved
deriving DecidableEq, Repr

/-- A parked strand: by SUSPEND on an event counter, numbered absolutely (R22), or automatically (R23) with every
cause that held it and that cause's value then. `woken` is set when a re-examination finds the condition met. -/
structure Park where
  counter : Option Nat := none
  threshold : Word32 := 0
  cont : Word64 := 0
  woken : Bool := false
  causes : List (Hold × Nat) := []
  since : Nat := 0
deriving DecidableEq, Repr

/-- An entry of the loop stack (R90). -/
structure LoopEntry where
  start : Word64
  last : Word64
  count : Word32
  depth : BitVec 16
deriving DecidableEq, Repr

/-- What an engine does when an asynchronous record is answered by a resume (R34, R381). -/
inductive Retry where
  | none
  | seracPush
  | morainePush
  | seracStart
  | moraineXlate (seq : Nat)
  | pldSend (access : Nat)
deriving DecidableEq, Repr

/-- A fault that a strand waits on, or an asynchronous record that waits behind it (R34). `park` is what a resume
returns a Parked strand to. -/
structure StrandFault where
  code : FaultCode
  record : Record
  resume : Word64
  park : Option Park := none
  retry : Retry := .none
deriving DecidableEq, Repr

/-- A PST that has been sent (R291): its access, the address of its word, its virtual address, and, once its home has
answered, whether it was refused. -/
structure PstWait where
  access : Nat
  addr : Word64
  va : Word64
  refused : Option Bool := none
deriving DecidableEq, Repr

/-- An LDG that a later LDG of the strand to the same granule may combine with (R273), and the granule's bytes as
its performance saw them under its key (R245). `live` is cleared by what R273 says a read never combines across. -/
structure CombineSource where
  access : Nat
  granule : Nat
  key : BitVec 4 := 0
  /-- The bytes it reads, from an offset in the granule. -/
  offset : Nat := 0
  size : Nat := 0
  bytes : Option (List Byte) := none
  live : Bool := true
deriving DecidableEq, Repr

/-- A strand (R9, R11, R18 to R23, R30, R34, R89, R90, R213, R275). Register cells are 64 bits wide; a Dusk cell
holds its 32-bit value zero-extended. -/
structure Strand where
  status : StrandStatus := .absent
  regs : Map Nat Word64 := {}
  preds : BitVec 16 := 1
  /-- Address of the next word, or of a header that is still to be entered (`atHeader`). -/
  pc : Word64 := 0
  atHeader : Bool := false
  /-- Needs of the section just entered from its header that its first word has still to meet (R20). -/
  needs : List (Engine × Nat) := []
  stkbase : Word64 := 0
  stklim : Word64 := 0
  /-- sr.fault. -/
  faultCode : BitVec 8 := 0
  /-- sr.sect, and where that section's words begin and how many there are. -/
  sect : Nat := 0
  sectStart : Word64 := 0
  sectLen : Nat := 0
  /-- Retired mark (R19). -/
  mark : Option Nat := none
  depth : BitVec 16 := 0
  loops : List LoopEntry := []
  /-- Taint bits of a0 to a63 (R275). -/
  taint : BitVec 64 := 0
  /-- Consecutive held cycles, the present cause, the cycle in which it began, and whether R216's two conditions
  have held in all of them. -/
  heldCount : Nat := 0
  heldBy : Option Hold := none
  heldSince : Nat := 0
  cmdqOnly : Bool := false
  park : Option Park := none
  fault : Option StrandFault := none
  waiting : List StrandFault := []
  /-- Cycle of the last issue (R213), and whether the strand yielded then (R45). -/
  lastIssue : Option Nat := none
  yielded : Bool := false
  fences : List FenceWait := []
  /-- The PST whose acknowledgement the strand waits for (R291). -/
  pst : Option PstWait := none
  /-- The 64 KiB block of an outstanding translation walk, and a walk that failed: block, cause, level (R241). -/
  walk : Option Nat := none
  walkFailed : Option (Nat × Nat × Nat) := none
  sources : List CombineSource := []
  /-- Stopped for a pre-emption at a gate point with this carry set (R399). -/
  gate : Option Nat := none
  /-- Stopped whole for a pre-emption (R404). -/
  whole : Bool := false
  /-- Scalar registers whose stored value is uncorrectably damaged (R387). -/
  badRegs : List Nat := []
deriving DecidableEq, Repr

/-! ## Tasks and their engines -/

/-- The fields of a program header (R25) and of the image descriptor after it (R60). -/
structure ProgHeader where
  aregs : Nat := 8
  sregs : Nat := 8
  vframe : Nat := 0
  masks : Nat := 0
  events : Nat := 0
  accs : Nat := 0
  inports : BitVec 8 := 0
  outports : BitVec 8 := 0
  tilemem : Nat := 1
  astack : Nat := 0
  sstack : Nat := 0
  nf0 : BitVec 6 := 0
  nf1 : BitVec 6 := 0
  nf2 : BitVec 6 := 0
  nf3 : BitVec 6 := 0
  dawnEntry : Word64 := 0
  duskEntry : Word64 := 0
  ncarry : Nat := 0
  dataoff : Nat := 0
  datasize : Nat := 0
  /-- The carry sets, four doublewords each (R400). -/
  carry : List (List Word64) := []
deriving DecidableEq, Repr

/-- The states of a task (R31). -/
inductive TaskStatus where
  | free
  | running
  | draining
  | done
  | killed
  | saved
deriving DecidableEq, Repr

/-- An accumulator tile (R168). No elements listed means every element is +0; otherwise there are 16,384 of them,
row by row. -/
structure Acc where
  elems : List Word32 := []
  prog : BitVec 16 := 0
  poison : Bool := false
  origin : Word64 := 0
  busy : Bool := false
  /-- Elements, and whether PROG, POISON, ORIGIN or BUSY, are uncorrectably damaged (R387). -/
  bad : List Nat := []
  badState : Bool := false
deriving DecidableEq, Repr

/-- The kinds of token of a stream (R326, R350): an element or data token carries one 32-bit cell. -/
inductive Tok where
  | elem (cell : Word32)
  | scale (code : BitVec 8)
  /-- The scale token of a PSCL on its way to the converter, which forwards it as a scale token (R333). -/
  | pscl (code : BitVec 8)
  | eos
  | order
  | poison (origin : Word64)
deriving DecidableEq, Repr

/-- A push of tokens that an engine keeps pending (R17). -/
structure PendingPush where
  counter : Nat
  count : Nat
  addr : Word64
deriving DecidableEq, Repr

/-- A translated part of a command's extent: its virtual 64 KiB block and the leaf that maps it (R241, R246). -/
structure Part where
  block : Nat
  leaf : Word64
  level : Nat
deriving DecidableEq, Repr

/-- A byte on its way, with the origin of the poison that stands in its place, if any (R312). -/
abbrev Cell := Byte × Option Word64

/-- A unit of a Moraine command that has begun (R303, R309, R313): its number, what its index entries and reads have returned, and
the writes performed, each by its place among the unit's accesses. -/
structure Flight where
  unit : Nat
  seen : List (Nat × List Cell) := []
  put : List Nat := []
deriving DecidableEq, Repr

/-- A command in a Serac or Moraine command slot (R215), with the values captured at issue. -/
structure Command where
  seq : Nat
  instr : Instr
  addr : Word64
  null : Bool := false
  popTaken : Bool := false
  started : Bool := false
  /-- A record check failed at its start and the entry is unanswered (R181), or a translation on restore (R248). -/
  refused : Bool := false
  vd : Word64 := 0
  va : Word64 := 0
  vb : Word64 := 0
  vc : Word64 := 0
  nf : Map Nat (BitVec 6) := {}
  /-- The descriptor read at issue (R307), eight doublewords. -/
  desc : List Word64 := []
  /-- Layout records read at the start (R172), by operand: 1 D, 2 A, 3 B. -/
  records : Map Nat (List Word64) := {}
  /-- Moraine: the translations its extent uses (R241). -/
  parts : List Part := []
  /-- Moraine: the rest of it waits to be translated again (R248, R263). -/
  awaits : Bool := false
  /-- Moraine: its units that have begun and are not counted in `progress` (R313). -/
  flights : List Flight := []
  /-- Serac: whole blocks staged from its port operands, and the tokens of a block that is still arriving (R178, R374), by
  operand. -/
  staged : Map Nat (List Tok) := {}
  blocksStaged : Map Nat Nat := {}
  arriving : Map Nat (List Tok) := {}
  /-- Serac: the scale codes in force for a record operand, lane by lane (R177, R182). -/
  latched : Map Nat (List Nat) := {}
  /-- Progress: kappa of SMM, stages of SCHAIN, units or elements of a Moraine command (R180, R207, R313). -/
  progress : Nat := 0
  /-- MM2C and MC2M: scale bytes moved, end-of-stream met, poison sent; whether every token has been moved. -/
  scales : Nat := 0
  eosSeen : Bool := false
  poisoned : Option Word64 := none
  finished : Bool := false
  /-- Moraine: the counts of its status slot (R310). -/
  items : Nat := 0
  oor : Nat := 0
  neg : Nat := 0
  trunc : Nat := 0
  waitSince : Nat := 0
deriving DecidableEq, Repr

/-- A section an issuing strand has retired whose commands an engine still has to complete (R19). -/
structure MarkWait where
  sect : Nat
  /-- Commands of the section and before have a smaller number. -/
  before : Nat
deriving DecidableEq, Repr

/-- One engine's share of a task: its command queue, the number of the next command, the retired mark and what it
waits for, and a push kept pending (R8, R17, R19, R215). -/
structure EngineState where
  queue : List Command := []
  nextSeq : Nat := 0
  mark : Option Nat := none
  marks : List MarkWait := []
  /-- Pushes kept pending, oldest first. -/
  pending : List PendingPush := []
deriving DecidableEq, Repr

/-- A task slot (R9, R12, R15, R24, R27, R31, R168, R189, R193, R310). -/
structure Task where
  status : TaskStatus := .free
  load : LoadId := ⟨0, 0, 0⟩
  grid : Nat := 0
  group : Word32 := 0
  image : Word64 := 0
  hdr : ProgHeader := {}
  /-- The strands may issue from this tile cycle on, and whether they have been made able to (R209). -/
  startAt : Nat := 0
  started : Bool := false
  tmBase : Nat := 0
  vBase : Nat := 0
  evBase : Nat := 0
  accTiles : List Nat := []
  v : Map Nat (List Word32) := {}
  k : Map Nat (BitVec 1024) := {}
  acc : Map Nat Acc := {}
  nf : Map Nat (BitVec 6) := {}
  aq : List Word64 := []
  bq : List Word64 := []
  cq : List Bool := []
  tokens : Map Nat (BitVec 6) := {}
  serac : EngineState := {}
  moraine : EngineState := {}
  /-- MODE, OSCALE and the stride registers of Serac (R168, R193). -/
  mode : BitVec 2 := 0
  oscale : BitVec 8 := 0x7F
  strides : Map Nat (BitVec 4) := {}
  /-- Moraine status slots (R310). -/
  slots : Map Nat (BitVec 128) := {}
  discarded : Nat := 0
  /-- Uncorrectably damaged vector cells, as 1,024 * register + lane, and mask registers (R387). -/
  badV : List Nat := []
  badK : List Nat := []
deriving DecidableEq, Repr

/-! ## Tiles, ports and channels -/

/-- An entry of a tile's translation cache (R240): a leaf, the level it was read at and the first 64 KiB block of
its page. -/
structure TransEntry where
  domain : BitVec 8
  block : Nat
  level : Nat
  leaf : Word64
deriving DecidableEq, Repr

/-- A record held by a tile's layout-record cache (R250). -/
structure LayoutEntry where
  load : LoadId
  handle : Nat
  dws : List Word64
deriving DecidableEq, Repr

/-- A tile (R11, R24, R215, R240, R250, R449). -/
structure Tile where
  /-- The model's clock when the tile was last reset; sr.cycle counts from it. -/
  resetAt : Nat := 0
  events : Map Nat Word32 := {}
  tcache : List TransEntry := []
  lcache : List LayoutEntry := []
  seracLast : Map Nat Nat := {}
  moraineLast : Map Nat Nat := {}
  clockGated : Bool := false
  busyAt : Nat := 0
deriving DecidableEq, Repr

/-- A port and its registers (R166, R165, R341, R343). -/
structure Port where
  chan : Option ChanId := none
  /-- Which destination of the channel an in port is. -/
  dest : Nat := 0
  scale : BitVec 8 := 0x7F
  threshold : BitVec 16 := 0
  /-- Event counter of the threshold, numbered absolutely. -/
  counter : Nat := 0
  count : Nat := 0
  /-- Elements taken or sent since set-up. -/
  moved : Word32 := 0
  /-- The .q scale status word of an output port (R165). -/
  status : Word64 := 0
  /-- Elements counted for .scl since set-up (R164, R165). -/
  sclCount : Nat := 0
deriving DecidableEq, Repr

/-- A beat: elements, or one token of another kind; `last` when it ends a send, whose elements are never packed with
the next one's (R334). -/
structure Beat where
  toks : List Tok
  last : Bool := false
deriving DecidableEq, Repr

/-- A packet of a channel (R259): its sequence number, its beat, the plane it was last sent on, whether it has been sent
since the last rehash, and the destinations that have acknowledged it. -/
structure Packet where
  seq : BitVec 16
  beat : Beat
  plane : Nat := 0
  sent : Bool := true
  acked : List Nat := []
deriving DecidableEq, Repr

/-- One destination of a channel (R334, R335, R259). -/
structure DestQueue where
  port : PortId
  qtile : Nat := 0
  beats : List Beat := []
  expect : BitVec 16 := 0
  early : List (BitVec 16 × Beat) := []
  offSent : Bool := false
  /-- The source has seen OFF from this destination. -/
  off : Bool := false
deriving DecidableEq, Repr

/-- A channel of a configured load (R331 to R337, R450). -/
structure Channel where
  stype : Word32 := 0
  dtype : Word32 := 0
  src : PortId := ⟨0, .tile, 0, true, 0⟩
  dests : List DestQueue := []
  depth : Nat := 0
  offth : Nat := 0
  onth : Nat := 0
  cmode : BitVec 3 := 0
  /-- Output queue, ahead of the converter. -/
  outq : List Beat := []
  /-- Elements a region output port has taken for a beat that is not full (R373). -/
  partialBeat : List Tok := []
  /-- Converter (R332): source scale in force, elements of the unfinished destination group with their source scales,
  elements made for a destination beat that is not full, channel scale register, scale status word. -/
  srcScale : BitVec 8 := 0x7F
  group : List (Word32 × BitVec 8) := []
  convOut : List Tok := []
  /-- Beats that the converter has made and that wait for room at the destinations (R332). -/
  waiting : List Beat := []
  chScale : BitVec 8 := 0x7F
  status : Word64 := 0
  nextSeq : BitVec 16 := 0
  unacked : List Packet := []
deriving DecidableEq, Repr

/-! ## Regions -/

/-- The states of a region, with the codes of RSTAT (R325, R338). -/
inductive RegionStatus where
  | gated
  | empty
  | fetching
  | loaded
  | running
  | closing
  | swapping
  | saved
  | failed
deriving DecidableEq, Repr

/-- A container's header and body (R323). -/
structure Image where
  kind : Nat := 0
  inmask : BitVec 8 := 0
  outmask : BitVec 8 := 0
  buf : Nat := 0
  clkmax : Nat := 0
  opid : Word64 := 0
  ptypes : List Word32 := []
  body : List Word64 := []
  bytes : List Byte := []
deriving DecidableEq, Repr

/-- The state of one element (R353, R354, R361 to R365). -/
structure Element where
  /-- Emissions that wait for room: each inner list leaves in one clock, token by target 0 or 1. -/
  emit : List (List (Nat × Tok)) := []
  /-- Tokens taken into the current record, group or QBUF, oldest first. -/
  held : List Tok := []
  /-- Input tokens of the current record. -/
  taken : Nat := 0
  /-- Fields, words or elements made in the current record. -/
  made : Nat := 0
  /-- Unfinished bits of UNPACK and PACK: value and length. -/
  bits : Nat := 0
  nbits : Nat := 0
  /-- Running value of DELTA; factor of EXPADD's run; mask of ZDEC. -/
  value : Word32 := 0
  /-- Elements left in EXPADD's run, or values still missing from ZDEC's group; a record is open. -/
  left : Nat := 0
  openRec : Bool := false
  /-- First poison taken into the record. -/
  origin : Option Word64 := none
  latch : BitVec 8 := 0x7F
  inLoop : Bool := false
  firings : Nat := 0
deriving DecidableEq, Repr

/-- A swap in progress (R339). -/
structure Swap where
  va : Word64
  clksel : Nat
  image : Option Image := none
  closed : Bool := false
  /-- The cycle in which the inputs closed (R339 step 3). -/
  since : Nat := 0
deriving DecidableEq, Repr

/-- A region (R320 to R325, R338, R351, R409). -/
structure Region where
  status : RegionStatus := .gated
  result : Nat := 0
  swaps : BitVec 48 := 0
  clksel : Nat := 0
  /-- RSWAP dw0. -/
  swapAddr : BitVec 56 := 0
  swap : Option Swap := none
  load : Option LoadId := none
  entry : Nat := 0
  imageVa : Word64 := 0
  saveVa : Word64 := 0
  image : Option Image := none
  verified : Bool := false
  elems : Map Nat Element := {}
  /-- Tokens on the link into each input position, keyed 4 * slot + position, and into each output port, keyed
  4 * (1016 + port). -/
  links : Map Nat (List Tok) := {}
  /-- A sealed operator: tokens taken at each input, and how many each output has emitted. -/
  sealedIn : Map Nat (List Tok) := {}
  sealedOut : Map Nat Nat := {}
  /-- Inputs closed for a swap or a stop. -/
  gatedIn : Bool := false
  /-- Stopped at a region clock for a pre-emption (R406). -/
  still : Bool := false
  /-- The cycle in which an element last fired or a port last moved a token (R406). -/
  moved : Nat := 0
deriving DecidableEq, Repr

/-! ## Loads, graphs, queues -/

/-- The states of a load (R226). -/
inductive LoadStatus where
  | queued
  | configuring
  | armed
  | running
  | complete
  | refused
  | stopped
  | skipped
  | exited
  | saved
deriving DecidableEq, Repr

/-- A grid of a load (R210, R223). -/
structure Grid where
  base : Word64 := 0
  count : Word32 := 0
  next : Word32 := 0
  /-- Position in the grid's tiles that the next offer starts from. -/
  rr : Nat := 0
  hdr : ProgHeader := {}
deriving DecidableEq, Repr

/-- A tile entry of a load (R223). -/
structure TileEntry where
  tile : TileId
  grid : Nat
deriving DecidableEq, Repr

/-- A region entry of a load (R322). -/
structure RegionEntry where
  region : RegionId
  clksel : Nat
  imageVa : Word64
  saveVa : Word64
deriving DecidableEq, Repr

/-- The kinds of an arm-then-commit round (R431). -/
inductive GangKind where
  | start
  | save
  | restore
deriving DecidableEq, Repr

/-- A gang of a load (R430, R431): its members as dies, and the round in progress. -/
structure Gang where
  members : List Nat := []
  logwin : Nat := 12
  report : Word64 := 0
  epoch : Word32 := 0
  kind : GangKind := .start
  /-- 0 no round; 1 armed; 2 committing; 3 committing again; 4 aborting. -/
  phase : Nat := 0
  /-- When the present window began, or, after an ABORT, when the leader may arm again (R431). -/
  window : Nat := 0
  /-- Members that have begun to prepare, acknowledged, acted and confirmed. -/
  prepared : List Nat := []
  acks : List Nat := []
  acted : List Nat := []
  committed : List Nat := []
  /-- Members that had confirmed when COMMIT was sent again. -/
  inTime : List Nat := []
deriving DecidableEq, Repr

/-- The deadlock detector of a load on a die (R389): the cycles counted in its present window, and whether it is silent
until its entry is answered. -/
structure Detector where
  die : Nat
  quiet : Nat := 0
  silent : Bool := false
deriving DecidableEq, Repr

/-- A load (R222, R226 to R228, R386). -/
structure Load where
  status : LoadStatus := .queued
  va : Word64 := 0
  domain : BitVec 8 := 0
  priv : Bool := false
  startTrig : Bool := false
  trigv : Bool := false
  trigg : Nat := 0
  trigcnt : Nat := 0
  trigDone : Nat := 0
  trigRisen : Bool := false
  exitv : Bool := false
  exitg : Nat := 0
  lrtab : Word64 := 0
  lrcount : Nat := 0
  /-- The pinned translations of the layout-record table (R249). -/
  lrparts : List Part := []
  grids : List Grid := []
  tiles : List TileEntry := []
  regions : List RegionEntry := []
  nchan : Nat := 0
  gang : Option Gang := none
  reason : Nat := 0
  entry : Nat := 0
  tasksDone : Word32 := 0
  tasksKilled : Word32 := 0
  discarded : Word32 := 0
  firstDisc : Word32 := 0xFFFFFFFF
  record : Record := {}
  /-- A stop in progress (R386), the later stops it dropped, and whether its entry has been raised. -/
  stopping : Bool := false
  extra : Word32 := 0
  exiting : Bool := false
  /-- Dies on which its sources are gated for a save (R403, R431). -/
  gating : List Nat := []
  detectors : List Detector := []
deriving DecidableEq, Repr

/-- A graph that a queue runs (R219 to R221, R225). -/
structure Graph where
  va : Word64
  nloads : Nat
  loadVas : List Word64
  statusVa : Word64
  irq : Bool
  wvalid : Bool
  waitq : Nat
  waitcnt : Word32
  /-- The wait of WVALID is met and load 0 has been reached. -/
  started : Bool := false
  /-- A completion record may be written (R225). -/
  records : Bool := true
  /-- The pinned translations of the record area (R225). -/
  parts : List Part := []
  saved : Bool := false
deriving DecidableEq, Repr

/-- A graph queue's registers (R218) and the graph it runs. -/
structure GraphQueue where
  base : BitVec 56 := 0
  enable : Bool := false
  prio : BitVec 3 := 0
  logsize : BitVec 5 := 0
  vector : BitVec 11 := 0
  head : Word32 := 0
  tail : Word32 := 0
  completed : Word32 := 0
  laststat : BitVec 8 := 0
  lastload : BitVec 8 := 0
  graph : Option Graph := none
deriving DecidableEq, Repr

/-! ## Raises -/

/-- A GRAISE on its way to the group count of its grid (R211): the strand and register that wait, the value, and the
count it found once applied. -/
structure Raise where
  num : Nat
  who : StrandId
  load : LoadId
  grid : Nat
  value : Word32
  dest : Opnd
deriving DecidableEq, Repr

/-! ## Dies, packages, hosts -/

/-- What an entry of a fault queue concerns. -/
inductive EntryOf where
  | strand (who : StrandId)
  | load (l : LoadId)
  | host (f : HostFn)
  | deadlock (l : LoadId) (tasks : List TaskId)
  | granule
deriving DecidableEq, Repr

/-- A fault-queue entry (R379), raised and perhaps written. -/
structure FqEntry where
  of : EntryOf
  kind : Nat
  record : Record := {}
  tile : Nat := 0
  queue : Nat := 0
  load : Nat := 0
  extra : Word32 := 0
  body : List Word64 := []
  seq : Word32 := 0
  /-- Answered before it was written (R380), and a response kept for a Saved task: action and value (R381). -/
  answered : Bool := false
  kept : Option (Nat × Word64) := none
  /-- The load of its strand while the strand is saved (R381). -/
  saved : Option LoadId := none
deriving DecidableEq, Repr

/-- An outstanding invalidation (R247): the range, and the instructions and commands that pinned a translation it
dropped. -/
structure Invalidation where
  domain : BitVec 8
  block : Nat
  nblk : Word32
  accesses : List Nat := []
  commands : List (TaskId × Nat) := []
  /-- The caches have dropped the range, and the pins it broke are those above. -/
  dropped : Bool := false
deriving DecidableEq, Repr

/-- A monitor counter (R395, R447). -/
structure Monitor where
  en : Bool := false
  src : BitVec 16 := 0
  value : Word64 := 0
deriving DecidableEq, Repr

/-- A link status register (R428). -/
structure Link where
  txw : BitVec 8
  rxw : BitVec 8
  nomw : BitVec 8
  /-- Widths that the link trains to (R426, R427). -/
  next : Option (BitVec 8 × BitVec 8) := none
  retrains : BitVec 16 := 0
  crcretry : BitVec 24 := 0
deriving DecidableEq, Repr

/-- A save or restore in progress (R403, R410). -/
structure Preempt where
  restore : Bool
  queue : Nat
  area : Word64
  qto : Nat
  /-- QTO has expired (R404). -/
  expired : Bool := false
  /-- Cycles counted towards QTO (R396, R403). -/
  counted : Nat := 0
  /-- The save has begun (R398 delays are over). -/
  begun : Bool := false
  /-- When every task on a die was stopped (R403 step 3). -/
  restAt : Map Nat Nat := {}
  /-- Deferred PLDs that a save has discarded at their homes (R405). -/
  plds : List Access := []
deriving DecidableEq, Repr

/-- A die (R239, R247, R256, R377, R383, R391, R397, R428, R447 to R449). PMAP and PMAPNEXT entries that are not
listed read n mod 4. -/
structure Die where
  pmap : Map Nat (BitVec 2) := {}
  pmapNext : Map Nat (BitVec 2) := {}
  gen : Word32 := 0
  plvec : BitVec 11 := 0
  phase : BitVec 2 := 0
  lost : Bool := false
  live : BitVec 4 := 0xF
  xinv0 : Word64 := 0
  issued : Word32 := 0
  done : Word32 := 0
  invs : List Invalidation := []
  fqbase : Word64 := 0
  fqEnable : Bool := false
  fqLogsize : BitVec 5 := 0
  fqVector : BitVec 11 := 0
  fqHead : Word32 := 0
  fqTail : Word32 := 0
  fqResp0 : Word64 := 0
  fqResp1 : Word64 := 0
  fqAccepted : Word32 := 0
  fqLast : BitVec 2 := 0
  fqPending : List FqEntry := []
  fqOpen : List FqEntry := []
  /-- Frozen functions (port, function), and those that only a Function Level Reset ends (R382, R383). -/
  frozen : List (Nat × Nat) := []
  frozenHard : List (Nat × Nat) := []
  ddwin : BitVec 6 := 20
  tilehalt : BitVec 24 := 0
  dbgen : BitVec 24 := 0
  pwrtile : BitVec 24 := 0
  pwrreg : BitVec 48 := 0
  preq0 : Word64 := 0
  preq1 : Word64 := 0
  prState : BitVec 8 := 0
  prResult : BitVec 8 := 0
  prQueue : BitVec 12 := 0
  prWhole : BitVec 12 := 0
  preempt : Option Preempt := none
  roots : Map Nat (BitVec 52) := {}
  keys : Map Nat (List Byte) := {}
  monitors : Map Nat Monitor := {}
  links : Map Nat Link := {}
  /-- Tiles and regions on their way up (R449). -/
  risingTiles : List Nat := []
  risingRegions : List Nat := []
  /-- Steps of 100 MHz taken off the tile clock (R448). -/
  throttle : Nat := 0
  /-- Grid whose offer was taken last, and queue that took a resource last (R210, R220). -/
  gridTurn : Nat := 0
  queueTurn : Nat := 0
deriving DecidableEq, Repr

/-- What runs on a module's management processor (R443, R444). -/
inductive BootStatus where
  | held
  | running
  | recovery
deriving DecidableEq, Repr

/-- A package: ownership block, firmware and host links (R440 to R445). -/
structure Package where
  valid : Bool := false
  port : Nat := 0
  reject : BitVec 16 := 0
  gen : Word32 := 0
  /-- The port that may claim, when only one may (R442). -/
  only : Option Nat := none
  fdom : Map (Nat × Nat) (BitVec 8) := {}
  qown : Map Nat (BitVec 9) := {}
  linkDown : List Nat := []
  boot : BootStatus := .held
  svn : BitVec 8 := 0
  flash : List Byte := []
  keyStore : Map Nat (List Byte × List Byte) := {}
  response : List Byte := []
  /-- Another module with this index was met (R440). -/
  clash : Bool := false
deriving DecidableEq, Repr

/-- A rehash in progress (R263): planes to retire, planes to restore, its mode, and the dies that have taken STOP, reported
DRAINED and COMMITTED, and taken RESUME. -/
structure Rehash where
  retire : List Nat := []
  restore : List Nat := []
  lost : Bool := false
  /-- Dies that had not committed an earlier run of the same rehash, which began again after others had (R266): once each. -/
  behind : List Nat := []
  told : List Nat := []
  drained : List Nat := []
  committed : List Nat := []
  resumed : List Nat := []
deriving DecidableEq, Repr

/-- The slots of one source station to one destination station on a plane (R422, R425): the next sequence number
expected, the slots refused and not yet taken, and a trimmed packet that waits to be sent again. -/
structure RingPath where
  expect : BitVec 12 := 0
  refused : List Nat := []
  trimmed : Option Nat := none
deriving DecidableEq, Repr

/-- A stations' path of the rack ring. -/
structure RingKey where
  plane : Nat
  src : Nat
  dst : Nat
deriving DecidableEq, Repr

/-- An MSI-X message sent: package, port, function and vector (R229, R378). -/
structure Msi where
  pkg : Nat
  port : Nat
  func : Nat
  vector : Nat
deriving DecidableEq, Repr

/-- A completion returned to a host function: data, or Completer Abort (R382). -/
structure HostReply where
  fn : HostFn
  aborted : Bool
  data : List Byte
deriving DecidableEq, Repr

/-- A memory request of a host function under way (R258, R435): its accesses, one for each granule, with physical address, length and leaf;
what the reads among them have returned, and which have been performed. -/
structure HostRequest where
  num : Nat
  fn : HostFn
  die : Nat
  write : Bool
  data : List Byte := []
  parts : List (Nat × Nat × Word64)
  got : List (Nat × List Byte) := []
  done : List Nat := []
  /-- An uncorrectable error was met. -/
  bad : Bool := false
deriving DecidableEq, Repr

/-- A graph saved by a pre-emption, with the loads, tasks, strands, channels, ports and regions it held (R407). -/
structure SavedGraph where
  area : Word64
  /-- The area's header has been written (R431). -/
  header : Bool := false
  loads : List (LoadId × Load) := []
  tasks : List (TaskId × Task) := []
  strands : List (StrandId × Strand) := []
  events : List (TaskId × List Word32) := []
  plds : List Access := []
  chans : List (ChanId × Channel) := []
  ports : List (PortId × Port) := []
  regions : List (RegionId × Region) := []
deriving DecidableEq, Repr

/-- A register image that CTXSV has written (R395, R408). The manual gives the state block's layout only for its first
three doublewords, so the rest of its bytes are free values under `tag`, and what they stand for is kept here. -/
structure Context where
  tag : Nat
  dawn : Strand
  dusk : Strand
  task : Task
  events : List Word32
  /-- Scale register, threshold with its counter, and count of each declared port (R401). -/
  ports : List (Bool × Nat × Port) := []
deriving DecidableEq, Repr

/-! ## The model's own state -/

/-- Whose turn a step gives. -/
inductive Turn where
  /-- The issue selector of a core (R213). -/
  | core (die tile : Nat) (core : CoreId)
  /-- An element of a region, at one region clock (R353). -/
  | element (die region slot : Nat)
  /-- An event of the opcode table with what it concerns. -/
  | event (i : Instr) (args : EventArgs)
deriving DecidableEq, Repr

/-- What a pair's first word left for its second to see as it stood before: the predicates of guards (R37), and the call
depth that the loops of the first word are examined at (R91), and the Moraine status slots (R311). -/
structure PairStart where
  preds : BitVec 16
  depth : BitVec 16
  slots : Map Nat (BitVec 128)
deriving DecidableEq, Repr

/-- Where the step executes: the strand or element whose word runs, the pair it belongs to, the tokens and counter
changes that wait for the end of the cycle, and how it stopped. -/
structure Cursor where
  strand : StrandId := ⟨0, 0, 0, .dawn⟩
  region : RegionId := ⟨0, 0⟩
  slot : Nat := 0
  /-- The second word of the pair whose first word runs. -/
  mate : Option Instr := none
  /-- Set while a pair's second word runs. -/
  pair : Option PairStart := none
  pushes : List (Nat × Nat) := []
  evSets : List (Nat × Word32) := []
  evAdds : List (Nat × Word32) := []
  stop : Option Stop := none
deriving DecidableEq, Repr

/-- What a cycle leaves to its end (R16, R102): counter sets, those of Dusk apart, increments and token pushes; and what it
remembers until then: tokens popped, queue entries pushed and popped (R13, R16, R95), and the cores that have selected
(R213). -/
structure CycleWork where
  sets : List (TileId × Nat × Word32) := []
  duskSets : List (TileId × Nat × Word32) := []
  adds : List (TileId × Nat × Word32) := []
  pushes : List (TaskId × Nat × Nat) := []
  pops : List (TaskId × Nat × Nat) := []
  queued : List (TaskId × QueueName) := []
  taken : List (TaskId × QueueName) := []
  cores : List (TileId × CoreId) := []
deriving DecidableEq, Repr

/-- The machine: the rack ring with everything on it, and the model's own fields. -/
structure State where
  /-- Cycles passed; every tile's cycle counter follows it. -/
  clock : Nat
  /-- Who acts in each of the next cycles. -/
  agenda : List (List Turn)
  /-- What the present cycle leaves to its end. -/
  work : CycleWork
  cur : Cursor
  event : EventArgs
  /-- How many free values have been drawn (Config.freeWord). -/
  drawn : Nat
  /-- Bytes by physical address (R233), canonical. -/
  mem : List Host.Cell
  /-- Addresses of the presence words that are full (R252). -/
  full : List Nat
  /-- KEYID under which a granule was last written (R245). -/
  keytag : Map Nat (BitVec 4)
  /-- Locations with an uncorrectable error (R387): granules of HBM4, 8-byte words of tile memory. -/
  damaged : List Nat
  strands : Map StrandId Strand
  tasks : Map TaskId Task
  tiles : Map TileId Tile
  ports : Map PortId Port
  chans : Map ChanId Channel
  regions : Map RegionId Region
  loads : Map LoadId Load
  queues : Map QueueId GraphQueue
  dies : Map Nat Die
  pkgs : Map Nat Package
  net : List Access
  nextAccess : Nat
  raises : List Raise
  /-- Packages present on the rack ring (R440). -/
  present : List Nat
  rehash : Option Rehash
  /-- Cycles for which a plane's traffic has waited without a packet moving (R262). -/
  planeIdle : Map Nat Nat
  ring : Map RingKey RingPath
  saved : Map QueueId SavedGraph
  contexts : List Context
  /-- Doublewords the dies have written on the host bus, by package and address (R378). -/
  hostMem : Map (Nat × Nat) Word64
  hostReqs : List HostRequest
  msix : List Msi
  replies : List HostReply
deriving DecidableEq, Repr

/-- The machine right after reset. Registers the manual gives a reset value hold it (every record's default above);
those it gives none are named in log entry 3. No load is configured, no task exists and nothing is listed in
memory (log entry 2); the agenda is empty (log entry 1). -/
def State.reset : State where
  clock := 0
  agenda := []
  work := {}
  cur := {}
  event := {}
  drawn := 0
  mem := []
  full := []
  keytag := {}
  damaged := []
  strands := {}
  tasks := {}
  tiles := {}
  ports := {}
  chans := {}
  regions := {}
  loads := {}
  queues := {}
  dies := {}
  pkgs := {}
  net := []
  nextAccess := 0
  raises := []
  present := [0]
  rehash := none
  planeIdle := {}
  ring := {}
  saved := {}
  contexts := []
  hostMem := {}
  hostReqs := []
  msix := []
  replies := []

end Sys2Proof.Machine
end

