-- ==== Sys2Proof/Machine/Fields.lean ====
section
/-! DEFINITION. The one way to read and write each component of the state: what a map does not list reads as that
component at reset. -/

namespace Sys2Proof.Machine

/-- The strand of that name. -/
def State.strand (s : State) (i : StrandId) : Strand := s.strands.get i {}
/-- The state with that strand replaced. -/
def State.setStrand (s : State) (i : StrandId) (x : Strand) : State := { s with strands := s.strands.set i x }
/-- The state with that strand changed. -/
def State.updStrand (s : State) (i : StrandId) (g : Strand → Strand) : State := s.setStrand i (g (s.strand i))

/-- The task slot of that name. -/
def State.task (s : State) (i : TaskId) : Task := s.tasks.get i {}
/-- The state with that task slot replaced. -/
def State.setTask (s : State) (i : TaskId) (x : Task) : State := { s with tasks := s.tasks.set i x }
/-- The state with that task slot changed. -/
def State.updTask (s : State) (i : TaskId) (g : Task → Task) : State := s.setTask i (g (s.task i))

/-- The tile of that name. -/
def State.tile (s : State) (i : TileId) : Tile := s.tiles.get i {}
/-- The state with that tile replaced. -/
def State.setTile (s : State) (i : TileId) (x : Tile) : State := { s with tiles := s.tiles.set i x }
/-- The state with that tile changed. -/
def State.updTile (s : State) (i : TileId) (g : Tile → Tile) : State := s.setTile i (g (s.tile i))

/-- The port of that name. -/
def State.port (s : State) (i : PortId) : Port := s.ports.get i {}
/-- The state with that port replaced. -/
def State.setPort (s : State) (i : PortId) (x : Port) : State := { s with ports := s.ports.set i x }
/-- The state with that port changed. -/
def State.updPort (s : State) (i : PortId) (g : Port → Port) : State := s.setPort i (g (s.port i))

/-- The channel of that name. -/
def State.chan (s : State) (i : ChanId) : Channel := s.chans.get i {}
/-- The state with that channel replaced. -/
def State.setChan (s : State) (i : ChanId) (x : Channel) : State := { s with chans := s.chans.set i x }
/-- The state with that channel changed. -/
def State.updChan (s : State) (i : ChanId) (g : Channel → Channel) : State := s.setChan i (g (s.chan i))

/-- The region of that name. -/
def State.region (s : State) (i : RegionId) : Region := s.regions.get i {}
/-- The state with that region replaced. -/
def State.setRegion (s : State) (i : RegionId) (x : Region) : State := { s with regions := s.regions.set i x }
/-- The state with that region changed. -/
def State.updRegion (s : State) (i : RegionId) (g : Region → Region) : State := s.setRegion i (g (s.region i))

/-- The load of that name. -/
def State.load (s : State) (i : LoadId) : Load := s.loads.get i {}
/-- The state with that load replaced. -/
def State.setLoad (s : State) (i : LoadId) (x : Load) : State := { s with loads := s.loads.set i x }
/-- The state with that load changed. -/
def State.updLoad (s : State) (i : LoadId) (g : Load → Load) : State := s.setLoad i (g (s.load i))

/-- The graph queue of that name. -/
def State.queue (s : State) (i : QueueId) : GraphQueue := s.queues.get i {}
/-- The state with that graph queue replaced. -/
def State.setQueue (s : State) (i : QueueId) (x : GraphQueue) : State := { s with queues := s.queues.set i x }
/-- The state with that graph queue changed. -/
def State.updQueue (s : State) (i : QueueId) (g : GraphQueue → GraphQueue) : State := s.setQueue i (g (s.queue i))

/-- The die of that name. -/
def State.die (s : State) (i : Nat) : Die := s.dies.get i {}
/-- The state with that die replaced. -/
def State.setDie (s : State) (i : Nat) (x : Die) : State := { s with dies := s.dies.set i x }
/-- The state with that die changed. -/
def State.updDie (s : State) (i : Nat) (g : Die → Die) : State := s.setDie i (g (s.die i))

/-- The package of that name. -/
def State.pkg (s : State) (i : Nat) : Package := s.pkgs.get i {}
/-- The state with that package replaced. -/
def State.setPkg (s : State) (i : Nat) (x : Package) : State := { s with pkgs := s.pkgs.set i x }
/-- The state with that package changed. -/
def State.updPkg (s : State) (i : Nat) (g : Package → Package) : State := s.setPkg i (g (s.pkg i))

/-- The state with its cursor changed. -/
def State.updCur (s : State) (g : Cursor → Cursor) : State := { s with cur := g s.cur }

/-- The state with memory replaced. -/
def State.setMem (s : State) (m : List Host.Cell) : State := { s with mem := m }

/-- The next free value, and the state that has drawn it (log entry 4). -/
def State.draw (s : State) : Word64 × State := (Config.freeWord s.drawn, { s with drawn := s.drawn + 1 })

/-- The strand the cursor names. -/
def State.me (s : State) : Strand := s.strand s.cur.strand
/-- The task of the strand the cursor names. -/
def State.myTask (s : State) : Task := s.task s.cur.strand.task
/-- The tile of the strand the cursor names. -/
def State.myTile (s : State) : Tile := s.tile s.cur.strand.tileId

/-- Listed keys of a map that satisfy a test on key and value. -/
def Map.keysWhere {κ α : Type} (m : Map κ α) (p : κ → α → Bool) : List κ :=
  (m.entries.filter (fun e => p e.1 e.2)).map Prod.fst

end Sys2Proof.Machine
end

