-- ==== Sys2Proof/Machine/Memory.lean ====
section
/-! DEFINITION. Memory as a canonical list of bytes by physical address (R233): addresses rise strictly and no entry
holds the byte that an unlisted address reads as, so equal memories are equal lists. -/

namespace Sys2Proof.Machine

/-- What a byte that nothing has written reads as: zero in a task's tile-memory allocation (R61) and in a tile that
has been powered up (R449); elsewhere the model's choice (log entry 2). -/
def Memory.blank : Byte := 0

/-- The byte at an address. -/
def Memory.read : List Host.Cell → Nat → Byte
  | [], _ => Memory.blank
  | c :: cs, a => if c.1 = a then c.2 else if a < c.1 then Memory.blank else Memory.read cs a

/-- A cell in front of a memory, left out when it reads as an unlisted address does. -/
def Memory.cons (a : Nat) (v : Byte) (cs : List Host.Cell) : List Host.Cell :=
  if v = Memory.blank then cs else (a, v) :: cs

/-- The memory with one byte written. -/
def Memory.write : List Host.Cell → Nat → Byte → List Host.Cell
  | [], a, v => Memory.cons a v []
  | c :: cs, a, v =>
    if a < c.1 then Memory.cons a v (c :: cs)
    else if c.1 = a then Memory.cons a v cs
    else c :: Memory.write cs a v

/-- Every address of the list is at or above a bound, rising strictly, and no entry is blank. -/
def Memory.wfFrom : Nat → List Host.Cell → Bool
  | _, [] => true
  | lo, c :: cs => decide (lo ≤ c.1) && c.2 != Memory.blank && Memory.wfFrom (c.1 + 1) cs

/-- The canonical form. -/
def Memory.wf (m : List Host.Cell) : Bool := Memory.wfFrom 0 m

/-- `n` bytes from an address, lowest first. -/
def Memory.readBytes (m : List Host.Cell) (a : Nat) : Nat → List Byte
  | 0 => []
  | n + 1 => Memory.read m a :: Memory.readBytes m (a + 1) n

/-- The memory with the bytes written from an address on. -/
def Memory.writeBytes (m : List Host.Cell) (a : Nat) : List Byte → List Host.Cell
  | [] => m
  | b :: bs => Memory.writeBytes (Memory.write m a b) (a + 1) bs

/-- Bytes of a range blanked. -/
def Memory.clear (m : List Host.Cell) (lo hi : Nat) : List Host.Cell := m.filter (fun c => c.1 < lo || hi ≤ c.1)

end Sys2Proof.Machine
end

