-- ==== Sys2Proof/Machine/Address.lean ====
section
/-! DEFINITION. Physical addresses and their homes, planes, encryption keys, and translation: what a physical address
names (R233 to R236, R255), how memory is read and written there (R245), and how a virtual address becomes a
physical one (R238 to R243, R287). -/

namespace Sys2Proof.Machine

/-! ## Numbers -/

/-- Bits hi to lo of a number. -/
def bits (x hi lo : Nat) : Nat := x / 2 ^ lo % 2 ^ (hi + 1 - lo)

/-- Bits hi to lo of a register or doubleword, as a number. -/
def fld {n : Nat} (x : BitVec n) (hi lo : Nat) : Nat := bits x.toNat hi lo

/-- Two's-complement reading of the low w bits of a number. -/
def sext (w x : Nat) : Int := if 2 ^ (w - 1) ≤ x % 2 ^ w then (x % 2 ^ w : Nat) - (2 ^ w : Nat) else (x % 2 ^ w : Nat)

/-! ## The physical map -/

/-- Bytes of a die's window (R233). -/
def dieSpan : Nat := 2 ^ 44
/-- Bytes of HBM4 of a die (R234). -/
def hbmBytes : Nat := 0x1800000000
/-- Offset of tile 0's window (R234). -/
def tileWindow : Nat := 0x80000000000
/-- Bytes of one tile window (R234). -/
def tileSpan : Nat := 0x1000000
/-- Offset of the die control space (R234). -/
def ctrlWindow : Nat := 0xC0000000000
/-- Window offset of the event counters (R235). -/
def counterBase : Nat := 0xC00000

/-- What stands at a physical address of a die (R234, R235). -/
inductive Place where
  | hbm
  | tile (tile off : Nat)
  | counter (tile n sub : Nat)
  | tileHole (tile : Nat)
  | ctrl (off : Nat)
  | hole
deriving DecidableEq, Repr

/-- The die, counted over the ring, of a physical address (R233). -/
def dieOf (pa : Nat) : Nat := pa / dieSpan % 256

/-- What a physical address names (R234, R235). -/
def placeOf (pa : Nat) : Place :=
  let off := pa % dieSpan
  if off < hbmBytes then .hbm
  else if tileWindow ≤ off ∧ off < tileWindow + Config.tilesPerDie * tileSpan then
    let t := (off - tileWindow) / tileSpan
    let w := (off - tileWindow) % tileSpan
    if w < counterBase then .tile t w
    else if w < counterBase + 8 * Config.countersPerTile then .counter t ((w - counterBase) / 8) ((w - counterBase) % 8)
    else .tileHole t
  else if ctrlWindow ≤ off ∧ off < ctrlWindow + 2 ^ 32 then .ctrl (off - ctrlWindow)
  else .hole

/-- Physical address of a byte of a tile's window (R234, R235). -/
def tilePa (t : TileId) (off : Nat) : Nat := t.die * dieSpan + tileWindow + t.tile * tileSpan + off

/-- Physical address of an event counter, numbered absolutely (R235). -/
def counterPa (t : TileId) (n : Nat) : Nat := tilePa t (counterBase + 8 * n)

/-- Granule number of a physical address (R236). -/
def granuleOf (pa : Nat) : Nat := pa / 64

/-- The L2 slice that is home to a granule of HBM4 (R236). -/
def sliceOf (pa : Nat) : Nat :=
  let v := bits pa 43 6
  bits v 8 0 ^^^ bits v 17 9 ^^^ bits v 26 18 ^^^ bits v 35 27 ^^^ bits v 37 36

/-- What serves an address (R236): an L2 slice of a die, a tile, or a die's control block. -/
def homeOf (pa : Nat) : Nat × Nat :=
  match placeOf pa with
  | .hbm => (dieOf pa, sliceOf pa)
  | .tile t _ => (dieOf pa, 512 + t)
  | .counter t _ _ => (dieOf pa, 512 + t)
  | .tileHole t => (dieOf pa, 512 + t)
  | _ => (dieOf pa, 1024)

/-- The fold of a granule number that indexes the plane map (R255). -/
def fold8 (pa : Nat) : Nat :=
  let v := bits pa 51 6
  bits v 7 0 ^^^ bits v 15 8 ^^^ bits v 23 16 ^^^ bits v 31 24 ^^^ bits v 39 32 ^^^ bits v 45 40

/-- The plane of an addressed access that a die sends (R255, R256). -/
def State.planeOf (s : State) (die pa : Nat) : Nat :=
  ((s.die die).pmap.get (fold8 pa) (BitVec.ofNat 2 (fold8 pa))).toNat

/-- Whether a plane carries the traffic of a die: it is live there (R253), and not one that has just been lost (R262). -/
def State.planeUp (s : State) (die p : Nat) : Bool :=
  (s.die die).live.getLsbD p && (match s.rehash with | some r => !(r.lost && r.retire.contains p) | none => true)

/-- Whether the plane of an addressed access from a die carries it (R254, R255). -/
def State.pathUp (s : State) (die pa : Nat) : Bool := s.planeUp die (s.planeOf die pa)

/-- Dies of the packages present on the rack ring (R440). -/
def State.ringDies (s : State) : List Nat := s.present.flatMap (fun p => (List.range 8).map (fun d => 8 * p + d))

/-- Whether a plane is live on every present die. -/
def State.planeLive (s : State) (p : Nat) : Bool := decide (p < 4) && s.ringDies.all (fun d => (s.die d).live.getLsbD p)

/-- The plane of System-class traffic (R254): the lowest-numbered live one. -/
def State.systemPlane (s : State) : Option Nat := (List.range 4).find? (fun p => s.planeLive p && s.ringDies.all (fun d => s.planeUp d p))

/-- A message of the System class travels on the lowest-numbered live plane (R254): with none its event does nothing. -/
def State.onSystemPlane (s : State) (f : State → State) : State := if s.systemPlane.isSome then f s else s

/-- Whether a die of the ring is present (R440). -/
def State.diePresent (s : State) (die : Nat) : Bool := s.present.contains (die / 8)

/-- Whether a tile is powered (R449). -/
def State.tilePowered (s : State) (t : TileId) : Bool := (s.die t.die).pwrtile.getLsbD t.tile

/-- Whether a control-space offset names a register (R438, R441); every other offset is a hole. -/
def ctrlRegister (o : Nat) : Bool :=
  o % 8 == 0 &&
  (o < 64 || (0x1000 ≤ o && o < 0x9000) || (0x10000 ≤ o && o < 0x10018) ||
   (0x20000 ≤ o && o < 0x20000 + 48 * 32 && o % 32 ≠ 24) || (0x100000 ≤ o && o < 0x100000 + 4096 * 32) ||
   (0x200000 ≤ o && o < 0x200000 + 256 * 8) || (0x300000 ≤ o && o < 0x300000 + 256) ||
   o == 0x400000 || o == 0x400008 || o == 0x400010 ||
   (0x401000 ≤ o && o < 0x401000 + 8 * 65) || (0x401400 ≤ o && o < 0x401400 + 8 * 65) ||
   (0x402000 ≤ o && o < 0x402000 + 8 * 1024) || (0x410000 ≤ o && o < 0x412000))

/-! ## Memory under keys -/

/-- Key of a slot on the die that owns an address; one that firmware has not loaded holds a free value (R245). -/
def State.keyOf (s : State) (pa : Nat) (slot : BitVec 4) : List Byte := (s.die (dieOf pa)).keys.get slot.toNat (natToBytes 64 (Config.unloadedKey (dieOf pa) slot.toNat).toNat)

/-- The 64 bytes of a granule as an access under a KEYID sees them (R245): written under another KEYID, they are that
key's ciphertext decrypted under the reading key. -/
def State.granuleView (s : State) (g : Nat) (key : BitVec 4) : List Byte :=
  let plain := Memory.readBytes s.mem (64 * g) 64
  let tag := s.keytag.get g 0
  if tag = key then plain
  else
    let stored := if tag = 0 then plain else xtsEncrypt (s.keyOf (64 * g) tag) g plain
    if key = 0 then stored else xtsDecrypt (s.keyOf (64 * g) key) g stored

/-- Bytes at a physical address inside one granule, under a KEYID (R245). -/
def State.readPa (s : State) (pa n : Nat) (key : BitVec 4 := 0) : List Byte :=
  if s.keytag.get (granuleOf pa) 0 = key then Memory.readBytes s.mem pa n
  else ((s.granuleView (granuleOf pa) key).drop (pa % 64)).take n

/-- The state with bytes written inside one granule under a KEYID, which becomes the granule's (R245). -/
def State.writePa (s : State) (pa : Nat) (bs : List Byte) (key : BitVec 4 := 0) : State :=
  let g := granuleOf pa
  if s.keytag.get g 0 = key then s.setMem (Memory.writeBytes s.mem pa bs)
  else
    let base := Memory.writeBytes s.mem (64 * g) (s.granuleView g key)
    { s with mem := Memory.writeBytes base pa bs
             keytag := if key = 0 then s.keytag.erase g else s.keytag.set g key }

/-- The locations of `damaged` that protect bytes [pa, pa + n): granules of HBM4, 8-byte words elsewhere, each named by
its first address (R387). -/
def unitsOf (pa n : Nat) : List Nat :=
  let u := if placeOf pa = .hbm then 64 else 8
  if n = 0 then [] else (List.range ((pa + n - 1) / u - pa / u + 1)).map (fun k => (pa / u + k) * u)

/-- Whether a read of the bytes meets an uncorrectable error (R387). -/
def State.isDamaged (s : State) (pa n : Nat) : Bool := (unitsOf pa n).any (fun u => s.damaged.contains u)

/-- The state in which a write of the bytes has repaired the units it covers whole (R388). -/
def State.repair (s : State) (pa n : Nat) : State :=
  let u := if placeOf pa = .hbm then 64 else 8
  if s.damaged.isEmpty then s
  else { s with damaged := s.damaged.filter (fun d => !(unitsOf pa n).contains d || d < pa || pa + n < d + u) }

/-! ## Translation -/

/-- Why a part of an access or extent fails: the fault code, the cause and the level of R244. -/
structure XFault where
  code : FaultCode
  cause : Nat
  level : Nat := 0
deriving DecidableEq, Repr

/-- Index bits of a level: high, low (R238). -/
def levelIndex (lvl va : Nat) : Nat :=
  match lvl with
  | 0 => bits va 55 39
  | 1 => bits va 38 30
  | 2 => bits va 29 21
  | _ => bits va 20 16

/-- Bytes that a leaf of a level maps (R238). -/
def pageSize (lvl : Nat) : Nat := if lvl = 1 then 2 ^ 30 else if lvl = 2 then 2 ^ 21 else 2 ^ 16

/-- Alignment of the table that a pointer at a level names (R238). -/
def tableAlign (lvl : Nat) : Nat := if lvl ≤ 1 then 2 ^ 12 else 2 ^ 8

def leafDomain (e : Word64) : BitVec 8 := e.extractLsb' 56 8
def leafKey (e : Word64) : BitVec 4 := e.extractLsb' 52 4
def leafW (e : Word64) : Bool := e.getLsbD 7
def leafPres (e : Word64) : Bool := e.getLsbD 6
def leafHome (e : Word64) : Nat := fld e 5 4
def leafCache (e : Word64) : Nat := fld e 3 2
/-- PA of the first byte that a leaf maps (R239). -/
def leafBase (e : Word64) : Nat := fld e 51 16 * 2 ^ 16

/-- Whether a leaf's attributes agree with the region its first byte lies in (R234, R239 cause 0x06). A leaf over a hole
of the map has no attributes to agree with and is refused by R243. -/
def leafAgrees (e : Word64) : Bool :=
  match placeOf (leafBase e) with
  | .hbm => leafHome e == 0
  | .hole => true
  | .ctrl _ => leafHome e == 2 && leafCache e == 0 && leafKey e == 0 && !leafPres e
  | _ => leafHome e == 1 && leafCache e == 0 && leafKey e == 0 && !leafPres e

/-- The check of a valid entry read at a level, in the order of the causes (R239). -/
def entryCause (e : Word64) (lvl : Nat) : Option Nat :=
  if e.getLsbD 1 then
    if fld e 15 8 ≠ 0 then some 3
    else if lvl = 0 then some 4
    else if leafBase e % pageSize lvl ≠ 0 then some 5
    else if 3 ≤ leafHome e ∨ 2 ≤ leafCache e ∨ leafAgrees e = false then some 6
    else none
  else if fld e 63 52 ≠ 0 ∨ fld e 7 2 ≠ 0 ∨ (lvl < 3 ∧ fld e 51 8 * 256 % tableAlign lvl ≠ 0) then some 3
  else if lvl = 3 then some 4
  else none

/-- The walk from a table on, level by level (R238). -/
def State.walkFrom (s : State) (va : Nat) : Nat → List Nat → Except XFault (Word64 × Nat)
  | _, [] => .error ⟨.xlate, 4, 3⟩
  | t, lvl :: rest =>
    if t = 0 then .error ⟨.xlate, 2, lvl⟩
    else if placeOf t ≠ .hbm ∨ s.diePresent (dieOf t) = false then .error ⟨.xlate, 8, lvl⟩
    else
      let e : Word64 := BitVec.ofNat 64 (bytesToNat (s.readPa (t + 8 * levelIndex lvl va) 8))
      if e.getLsbD 0 = false then .error ⟨.xlate, 2, lvl⟩
      else
        match entryCause e lvl with
        | some c => .error ⟨.xlate, c, lvl⟩
        | none => if e.getLsbD 1 then .ok (e, lvl) else s.walkFrom va (fld e 51 8 * 256) rest

/-- The addresses of the entries that a walk reads, level by level (R238): its requests are addressed accesses (R254). -/
def State.walkReads (s : State) (va : Nat) : Nat → List Nat → List Nat
  | _, [] => []
  | t, lvl :: rest =>
    if t = 0 ∨ placeOf t ≠ .hbm ∨ s.diePresent (dieOf t) = false then []
    else
      let pa := t + 8 * levelIndex lvl va
      let e : Word64 := BitVec.ofNat 64 (bytesToNat (s.readPa pa 8))
      pa :: (if e.getLsbD 0 = false ∨ e.getLsbD 1 ∨ (entryCause e lvl).isSome then [] else s.walkReads va (fld e 51 8 * 256) rest)

/-- Whether the planes of a walk's reads carry them (R254). -/
def State.walkUp (s : State) (die : Nat) (domain : BitVec 8) (va : Nat) : Bool :=
  (s.walkReads va ((s.die die).roots.get domain.toNat 0).toNat [0, 1, 2, 3]).all (s.pathUp die)

/-- The leaf that maps a virtual address in a domain, by the tables of the die's root register (R238). -/
def State.walkTables (s : State) (die : Nat) (domain : BitVec 8) (va : Nat) : Except XFault (Word64 × Nat) :=
  if 2 ^ 56 ≤ va then .error ⟨.xlate, 1, 0⟩
  else s.walkFrom va ((s.die die).roots.get domain.toNat 0).toNat [0, 1, 2, 3]

/-- The physical address that a leaf of a level gives a virtual address (R238). -/
def leafPa (e : Word64) (lvl va : Nat) : Nat := leafBase e + va % pageSize lvl

/-- Whether a cached translation covers a 64 KiB block of a domain (R240). -/
def TransEntry.covers (e : TransEntry) (domain : BitVec 8) (block : Nat) : Bool :=
  e.domain == domain && e.block / (pageSize e.level / 65536) == block / (pageSize e.level / 65536)

/-- The translation that a tile's cache holds for a block (R240). -/
def Tile.cached (t : Tile) (domain : BitVec 8) (block : Nat) : Option TransEntry :=
  t.tcache.find? (fun e => e.covers domain block)

/-! ## Checks of a part -/

/-- What an access does to the leaf it reaches (the rows of R287, and a side of a Moraine command or a descriptor). -/
inductive Use where
  | load
  | store
  | presLoad
  | presStore
  | atomic
  | flagMem
  | flagEvent
  | cmdRead
  | cmdWrite
deriving DecidableEq, Repr

def Use.writes : Use → Bool
  | .load => false
  | .presLoad => false
  | .cmdRead => false
  | _ => true

def Use.presence : Use → Bool
  | .presLoad => true
  | .presStore => true
  | _ => false

/-- Whether the leaf's HOME must be 00 (R242 cause 0x03). -/
def Use.needsL2 : Use → Bool
  | .presLoad => true
  | .presStore => true
  | .atomic => true
  | _ => false

def Use.command : Use → Bool
  | .cmdRead => true
  | .cmdWrite => true
  | _ => false

/-- Whether a flag's kind disagrees with its location (R287, R294). -/
def Use.flagWrong (u : Use) (e : Word64) (pa : Nat) : Bool :=
  match u with
  | .flagMem => leafHome e ≠ 0
  | .flagEvent => match placeOf pa with | .counter _ _ sub => decide (4 ≤ sub) | _ => true
  | _ => false

/-- The cause of a protection violation, in the order of R242. `earlier` is the DOMAIN of an earlier part of a command. -/
def protCause (e : Word64) (pa : Nat) (u : Use) (domain : BitVec 8) (priv : Bool) (earlier : Option (BitVec 8)) : Option Nat :=
  if leafDomain e ≠ 0xFF ∧ leafDomain e ≠ domain then some 1
  else if u.command ∧ earlier ≠ none ∧ earlier ≠ some (leafDomain e) then some 4
  else if leafHome e = 2 ∧ priv = false then some 5
  else if u.presence ≠ leafPres e then some 6
  else if u.needsL2 ∧ leafHome e ≠ 0 then some 3
  else if u.writes ∧ leafW e = false then some 2
  else if u.flagWrong e pa then some 7
  else none

/-- The cause of an absence (R243, R438), for an access of `size` bytes. -/
def State.absentCause (s : State) (pa size : Nat) (u : Use) : Option Nat :=
  let d := dieOf pa
  if 2 ^ 52 ≤ pa ∨ s.diePresent d = false then some 2
  else
    match placeOf pa with
    | .hole => some 3
    | .ctrl o => if size = 8 ∧ ctrlRegister o then none else some 3
    | .hbm => none
    | .tile t _ => if u.command = false ∧ s.tilePowered ⟨d, t⟩ = false then some 1 else none
    | .counter t _ sub =>
      if u.command = false ∧ s.tilePowered ⟨d, t⟩ = false then some 1 else if 4 ≤ sub ∧ sub + size ≤ 8 then some 3 else none
    | .tileHole t => if u.command = false ∧ s.tilePowered ⟨d, t⟩ = false then some 1 else some 3

/-- The checks of a part after its translation, in the order of R241: the leaf, PROT, ABSENT. -/
def State.checkPart (s : State) (e : Word64) (lvl va size : Nat) (u : Use) (domain : BitVec 8) (priv : Bool)
    (earlier : Option (BitVec 8) := none) : Except XFault Nat :=
  let pa := leafPa e lvl va
  match protCause e pa u domain priv earlier with
  | some c => .error ⟨.prot, c, 0⟩
  | none =>
    match s.absentCause pa size u with
    | some c => .error ⟨.absent, c, 0⟩
    | none => .ok pa

/-- DETAIL of a translation, protection or absence fault (R244). -/
def XFault.detail (x : XFault) : Word32 := BitVec.ofNat 32 (x.cause * 2 ^ 24 + x.level * 2 ^ 20)

/-! ## Reads and writes through a domain outside a strand's issue -/

/-- Bytes at a virtual address read through a domain for the die itself: an image, a descriptor, a table, a host
request. Every granule is translated and checked; none when a part fails. -/
def State.readVirtual (s : State) (die : Nat) (domain : BitVec 8) (va n : Nat) : Option (List Byte) :=
  let granules := if n = 0 then [] else List.range ((va + n - 1) / 64 - va / 64 + 1)
  granules.foldl (fun acc k =>
    match acc with
    | none => none
    | some bs =>
      let a := if k = 0 then va else (va / 64 + k) * 64
      let len := min (va + n) ((va / 64 + k + 1) * 64) - a
      match s.walkTables die domain a with
      | .error _ => none
      | .ok (e, lvl) =>
        match s.checkPart e lvl a 8 .load domain false with
        | .error _ => none
        | .ok pa => if leafHome e = 2 then none else some (bs ++ s.readPa pa len (leafKey e))) (some [])

/-- A doubleword read through a domain. -/
def State.readVirtual64 (s : State) (die : Nat) (domain : BitVec 8) (va : Nat) : Option Word64 :=
  (s.readVirtual die domain va 8).map (fun bs => BitVec.ofNat 64 (bytesToNat bs))

/-- Cut a byte string into doublewords. -/
def toDwords : List Byte → List Word64
  | b0 :: b1 :: b2 :: b3 :: b4 :: b5 :: b6 :: b7 :: rest =>
    BitVec.ofNat 64 (bytesToNat [b0, b1, b2, b3, b4, b5, b6, b7]) :: toDwords rest
  | _ => []

/-- Doublewords read through a domain. -/
def State.readDwords (s : State) (die : Nat) (domain : BitVec 8) (va n : Nat) : Option (List Word64) :=
  (s.readVirtual die domain va (8 * n)).map toDwords

/-- The bytes of doublewords. -/
def ofDwords (dws : List Word64) : List Byte := dws.flatMap (fun d => natToBytes 8 d.toNat)

/-- Doubleword k of a list, zero beyond its end. -/
def dw (dws : List Word64) (k : Nat) : Word64 := dws.getD k 0

/-- Bytes written at a virtual address through a domain for the die itself; a granule whose part fails is left. -/
def State.writeVirtual (s : State) (die : Nat) (domain : BitVec 8) (va : Nat) (bs : List Byte) : State :=
  let granules := if bs.length = 0 then [] else List.range ((va + bs.length - 1) / 64 - va / 64 + 1)
  granules.foldl (fun t k =>
    let a := if k = 0 then va else (va / 64 + k) * 64
    let len := min (va + bs.length) ((va / 64 + k + 1) * 64) - a
    match t.walkTables die domain a with
    | .error _ => t
    | .ok (e, lvl) =>
      match t.checkPart e lvl a 8 .store domain false with
      | .error _ => t
      | .ok pa =>
        if leafHome e = 2 then t
        else (t.writePa pa ((bs.drop (a - va)).take len) (leafKey e)).repair pa len) s

/-! ## Clock gating (R449) -/

/-- A tile whose engine clocks are stopped wakes (R449). -/
def State.wakeTile (s : State) (t : TileId) : State := if (s.tile t).clockGated then s.updTile t (fun x => { x with clockGated := false, busyAt := s.clock }) else s

/-- The tile that serves an address wakes. -/
def State.wakeAt (s : State) (pa : Nat) : State :=
  match placeOf pa with
  | .tile t _ => s.wakeTile ⟨dieOf pa, t⟩
  | .counter t _ _ => s.wakeTile ⟨dieOf pa, t⟩
  | _ => s

end Sys2Proof.Machine
end

