-- ==== Sys2Proof/Machine/Ops.lean ====
section
/-! DEFINITION. The named operations that instructions and events share: registers, queues, tokens, event counters,
tile memory, taking a fault (the record of R32, precise and asynchronous, R34) and returning from one, sections and
their headers, retired marks, the loop stack, parking and ending. -/

namespace Sys2Proof.Machine

/-- What the body of an instruction does: it changes the state, or it stops with a hold or a precise fault, and then
every effect it had is dropped (R21, R32). -/
abbrev M := StateT State (Except Stop)

/-- Hold the instruction (R21). -/
def holdOn {α : Type} (h : Hold) : M α := throw (.hold h)
/-- Fault precisely (R32). -/
def trapWith {α : Type} (t : Trap) : M α := throw (.trap t)
/-- Hold unless a condition is met. -/
def holdUnless (c : Bool) (h : Hold) : M Unit := if c then pure () else holdOn h
/-- Fault when a condition is met. -/
def trapIf (c : Bool) (t : Trap) : M Unit := if c then trapWith t else pure ()

/-! ## Widths and clocks -/

/-- W of a core: 64 on Dawn, 32 on Dusk (03). -/
def coreWidth (c : CoreId) : Nat := match c with | .dawn => 64 | .dusk => 32

/-- A W-bit value of a core, held zero-extended. -/
def toWidth (c : CoreId) (v : Nat) : Word64 := BitVec.ofNat 64 (v % 2 ^ coreWidth c)

/-- The W bits of an integer. -/
def intToWidth (c : CoreId) (i : Int) : Word64 := BitVec.ofNat 64 (i % (2 ^ coreWidth c : Nat)).toNat

/-- The tile cycle counter (R11). -/
def State.cycleOf (s : State) (t : TileId) : Nat := s.clock - (s.tile t).resetAt

/-! ## Kinds of access -/

/-- Whether a kind reads memory. -/
def AccessKind.reads : AccessKind → Bool
  | .stg => false
  | .pst => false
  | .prst => false
  | .stf => false
  | .pref => false
  | _ => true

/-- Whether a kind is answered by a reply that may carry a value; the others are acknowledged (R260). -/
def AccessKind.replied (k : AccessKind) : Bool := k.reads || k == .pref

/-- Whether a kind is a store in the sense of R251. -/
def AccessKind.storesData (k : AccessKind) : Bool := k != .ldg && k != .ldc && k != .pld && k != .pref

/-! ## Event counters -/

/-- An event counter of a tile, numbered absolutely (R24). -/
def State.counter (s : State) (t : TileId) (n : Nat) : Word32 := (s.tile t).events.get n 0

/-- Whether a suspension on a counter's value is satisfied (R22). -/
def suspensionMet (e threshold : Word32) : Bool := (e - threshold).msb = false

/-- Re-examination of the strands parked on counters (R22): a counter that has not changed, or a strand that has not just
parked, gives the answer it gave before. -/
def State.reexamine (s : State) : State :=
  { s with strands := s.strands.mapVals (fun i st =>
      match st.park with
      | some p =>
        match p.counter with
        | some n =>
          if st.status = .parked ∧ suspensionMet (s.counter i.tileId n) p.threshold then { st with park := some { p with woken := true } }
          else st
        | none => st
      | none => st) }

/-- An event counter written. -/
def State.putEvent (s : State) (t : TileId) (n : Nat) (v : Word32) : State :=
  s.updTile t (fun x => { x with events := x.events.set n v })

/-- An event counter incremented at the end of the cycle (R24, R102). -/
def State.addEvent (s : State) (t : TileId) (n : Nat) (v : Word32) : State :=
  { s with work := { s.work with adds := s.work.adds ++ [(t, n, v)] } }

/-- The counter changes of a core's words, left to the end of the cycle (R102). -/
def State.leaveCounters (s : State) (core : CoreId) (t : TileId) (sets adds : List (Nat × Word32)) : State :=
  let on (l : List (Nat × Word32)) : List (TileId × Nat × Word32) := l.map (fun e => (t, e.1, e.2))
  { s with work := match core with
      | .dawn => { s.work with sets := s.work.sets ++ on sets, adds := s.work.adds ++ on adds }
      | .dusk => { s.work with duskSets := s.work.duskSets ++ on sets, adds := s.work.adds ++ on adds } }

/-! ## Tokens -/

/-- Index of the counter from one engine to another (R15). -/
def tokenIndex (i j : Engine) : Nat := 3 * i.num + j.num - (if i.num < j.num then 1 else 0)

/-- The count a count code stands for (R16). -/
def tokenCount (code : Nat) : Nat := match code with | 0 => 0 | 1 => 1 | 2 => 2 | _ => 4

/-- Partner engine and count of a POP or PUSH field (R16). -/
def tokenField (f : BitVec 4) : Engine × Nat := (Engine.ofBits (f.extractLsb' 2 2), tokenCount (fld f 1 0))

/-- A token counter of a task (R15). -/
def Task.token (t : Task) (k : Nat) : Nat := (t.tokens.get k 0).toNat

/-- A token counter written. -/
def Task.setToken (t : Task) (k v : Nat) : Task := { t with tokens := t.tokens.set k (BitVec.ofNat 6 v) }

/-- Tokens that a list of pushes adds to a counter. -/
def pushSum (ps : List (Nat × Nat)) (k : Nat) : Nat := (ps.map (fun p => if p.1 = k then p.2 else 0)).sum

/-- The pushes or pops among a cycle's that concern one task. -/
def ofTask (i : TaskId) (ps : List (TaskId × Nat × Nat)) : List (Nat × Nat) := (ps.filter (fun p => p.1 == i)).map (fun p => p.2)

/-- A token counter as it stood at the start of the cycle: no push of the cycle has been applied to it (R16). -/
def State.startToken (s : State) (i : TaskId) (k : Nat) : Nat := (s.task i).token k + pushSum (ofTask i s.work.pops) k

/-- Tokens popped (R16). -/
def State.popTokens (s : State) (i : TaskId) (k n : Nat) : State :=
  { s.updTask i (fun t => t.setToken k (t.token k - n)) with work := { s.work with pops := s.work.pops ++ [(i, k, n)] } }

/-- Token pushes, applied at the end of the cycle (R16). -/
def State.pushTokens (s : State) (i : TaskId) (ps : List (Nat × Nat)) : State :=
  { s with work := { s.work with pushes := s.work.pushes ++ ps.map (fun p => (i, p.1, p.2)) } }

/-- The first counter that a list of pushes takes past 63 with the others of the cycle, its value at the start of the cycle
and the sum (R16, R17). -/
def State.overflow (s : State) (i : TaskId) (ps : List (Nat × Nat)) : Option (Nat × Nat × Nat) :=
  let all := ofTask i s.work.pushes ++ ps
  (ps.find? (fun p => decide (63 < s.startToken i p.1 + pushSum all p.1))).map (fun p => (p.1, s.startToken i p.1, pushSum all p.1))

/-- The fault of a strand's push past 63 (R17, R33); INFO is the counter, DETAIL its value and the count. DESIGN CHOICE (log
entry 20): WHERE is 7 for every push of a strand, a TSIG's too, and the count is the sum of the cycle's pushes on the
counter; the rules say only PUSH and the count. -/
def tokenOver (o : Nat × Nat × Nat) (second : Bool) : Trap :=
  { code := .tokenOver, loc := 7, info := BitVec.ofNat 64 o.1, detail := BitVec.ofNat 32 (o.2.1 * 2 ^ 16 + o.2.2), second := second }

/-! ## Queues -/

/-- Entries of a queue (R12). -/
def Task.queueLen (t : Task) : QueueName → Nat
  | .aq => t.aq.length
  | .bq => t.bq.length
  | .cq => t.cq.length

/-- Capacity of a queue (R12). -/
def queueCap : QueueName → Nat
  | .aq => 32
  | .bq => 16
  | .cq => 64

/-- The queue of an operand code (R39). -/
def queueOfCode (c : BitVec 8) : Option QueueName :=
  if c = 0x00 then some .aq else if c = 0x01 then some .bq else if c = 0x02 then some .cq else none

/-- Whether a core writes a queue (R12). -/
def mayPush (c : CoreId) (q : QueueName) : Bool :=
  match c, q with
  | .dawn, .aq => true
  | .dawn, .cq => true
  | .dusk, .bq => true
  | _, _ => false

/-- Whether a core reads a queue (R12). -/
def mayPop (c : CoreId) (q : QueueName) : Bool :=
  match c, q with
  | .dawn, .bq => true
  | .dusk, .aq => true
  | .dusk, .cq => true
  | _, _ => false

/-- An entry pushed (R12). -/
def Task.push (t : Task) (q : QueueName) (v : Word64) : Task :=
  match q with
  | .aq => { t with aq := t.aq ++ [v] }
  | .bq => { t with bq := t.bq ++ [v] }
  | .cq => { t with cq := t.cq ++ [v.getLsbD 0] }

/-- The oldest entry, as 64 bits, and the task without it (R12). -/
def Task.pop (t : Task) : QueueName → Option (Word64 × Task)
  | .aq => match t.aq with | [] => none | v :: r => some (v, { t with aq := r })
  | .bq => match t.bq with | [] => none | v :: r => some (v, { t with bq := r })
  | .cq => match t.cq with | [] => none | v :: r => some (if v then 1 else 0, { t with cq := r })

/-! ## Fault records and entries -/

/-- A fault record (R32). -/
def State.recordOf (s : State) (who : StrandId) (code : FaultCode) (async second : Bool) (sect loc : Nat)
    (addr info : Word64) (detail : Word32) : Record :=
  { dw0 := BitVec.ofNat 64 (code.num * 2 ^ 56 + who.core.engine.num * 2 ^ 54 + who.slot % 4 * 2 ^ 52
      + async.toNat * 2 ^ 51 + second.toNat * 2 ^ 50 + sect % 1024 * 2 ^ 40 + loc % 256 * 2 ^ 32)
      + (s.task who.task).group.zeroExtend 64
    dw1 := addr
    dw2 := info
    dw3 := detail.zeroExtend 64 <<< 32 + BitVec.ofNat 64 (s.cycleOf who.tileId % 2 ^ 32) }

/-- A record with CYCLE set to the present cycle of a tile (R32). -/
def State.restamp (s : State) (t : TileId) (r : Record) : Record :=
  { r with dw3 := (r.dw3 >>> 32) <<< 32 + BitVec.ofNat 64 (s.cycleOf t % 2 ^ 32) }

/-- An entry on its way into a die's fault queue (R378). -/
def State.raiseEntry (s : State) (die : Nat) (e : FqEntry) : State :=
  s.updDie die (fun d => { d with fqPending := d.fqPending ++ [e] })

/-- The entry of a strand's record (R379 kind 0). -/
def State.strandEntry (s : State) (who : StrandId) (r : Record) : FqEntry :=
  let l := (s.task who.task).load
  { of := .strand who, kind := 0, record := r, tile := who.tile, queue := l.queue, load := l.load }

/-- Sections of a stream by the walk of their headers from an address: number, first word, words (R58). -/
def State.sections (s : State) (die : Nat) (domain : BitVec 8) : Nat → Nat → List (Nat × Nat × Nat)
  | 0, _ => []
  | fuel + 1, a =>
    match s.readVirtual64 die domain a with
    | none => []
    | some h =>
      if fld h 63 60 = 9 then
        (fld h 59 50, a + 8, fld h 49 40) :: s.sections die domain fuel ((a + 8 + 12 * fld h 49 40 + 7) / 8 * 8)
      else []

/-- Address of a strand's first header (R25). -/
def Task.entry (t : Task) (c : CoreId) : Word64 :=
  t.image + (match c with | .dawn => t.hdr.dawnEntry | .dusk => t.hdr.duskEntry)

/-- The sections of a strand's own stream. Numbers rise (R18), so there are at most 1,024. -/
def State.stream (s : State) (who : StrandId) : List (Nat × Nat × Nat) :=
  let t := s.task who.task
  s.sections who.die (s.load t.load).domain 1025 (t.entry who.core).toNat

/-- The section among some in which a word begins at an address, if any. -/
def wordIn (l : List (Nat × Nat × Nat)) (a : Word64) : Option (Nat × Nat × Nat) :=
  l.find? (fun x => decide (x.2.1 ≤ a.toNat) && decide (a.toNat < x.2.1 + 12 * x.2.2) && (a.toNat - x.2.1) % 12 == 0)

/-- The section in which a word begins at an address of a strand's stream, if any (R56, R88). -/
def State.wordSection (s : State) (who : StrandId) (a : Word64) : Option (Nat × Nat × Nat) := wordIn (s.stream who) a

/-- Number of the section that holds an address, its header included (R32); a free value where none does: the target of
a refused transfer may lie outside every section (R56, log entry 4). -/
def State.sectionOf (s : State) (who : StrandId) (a : Word64) : Nat :=
  let st := s.strand who
  if decide (st.sectStart.toNat ≤ a.toNat + 8) && decide (a.toNat < st.sectStart.toNat + 12 * st.sectLen) then st.sect
  else
    match (s.stream who).find? (fun x => decide (x.2.1 ≤ a.toNat + 8) && decide (a.toNat < x.2.1 + 12 * x.2.2)) with
    | some x => x.1
    | none => (Config.sectionBeyond a).toNat

/-- Taking a precise fault: the strand moves to Faulted with its resume point, and its record goes to the die's fault
queue (R32, R33, R34). `addr` is the faulting word or the first word of its pair. -/
def State.raisePrecise (s : State) (who : StrandId) (t : Trap) (addr : Word64) : State :=
  let a := t.addr.getD addr
  let r := s.recordOf who t.code false t.second (s.sectionOf who a) t.loc a t.info t.detail
  let s1 := s.updStrand who (fun st =>
    { st with status := .faulted
              fault := some { code := t.code, record := r, resume := t.resume.getD a }
              heldCount := 0, heldBy := none, cmdqOnly := false })
  s1.raiseEntry who.die (s1.strandEntry who r)

/-- Taking an asynchronous record (R34): by the strand's state it becomes Faulted, keeps the record waiting, or, when
Ended, has it raised at once. -/
def State.raiseAsync (s : State) (who : StrandId) (code : FaultCode) (loc : Nat) (info : Word64) (detail : Word32)
    (addr : Word64) (retry : Retry) : State :=
  let st := s.strand who
  let r := s.recordOf who code true false (s.sectionOf who addr) loc addr info detail
  let f : StrandFault := { code := code, record := r, resume := st.pc, retry := retry }
  match st.status with
  | .absent => s
  | .ended =>
    let s1 := s.setStrand who (if st.fault = none then { st with fault := some f } else { st with waiting := st.waiting ++ [f] })
    s1.raiseEntry who.die (s1.strandEntry who r)
  | .faulted => s.setStrand who { st with waiting := st.waiting ++ [f] }
  | .saved => s.setStrand who { st with waiting := st.waiting ++ [f] }
  | .parked =>
    let p : Park := st.park.getD {}
    let s1 := s.setStrand who { st with status := .faulted, fault := some { f with resume := p.cont, park := some p } }
    s1.raiseEntry who.die (s1.strandEntry who r)
  | _ =>
    let s1 := s.setStrand who { st with status := .faulted, fault := some f, heldCount := 0, heldBy := none, cmdqOnly := false }
    s1.raiseEntry who.die (s1.strandEntry who r)

/-! ## Retired marks -/

/-- Whether every command numbered below a bound has left the engine's queue. -/
def EngineState.doneBelow (e : EngineState) (n : Nat) : Bool := e.queue.all (fun c => decide (n ≤ c.seq))

/-- The mark after the sections whose commands have all completed are taken, oldest first (R19). -/
def settleMarks (e : EngineState) : List MarkWait → EngineState
  | [] => { e with marks := [] }
  | m :: ms => if e.doneBelow m.before then settleMarks { e with mark := some m.sect } ms else { e with marks := m :: ms }

/-- An engine's marks brought up to date (R19). -/
def EngineState.settle (e : EngineState) : EngineState := settleMarks e e.marks

/-- The engine that a core's commands go to. -/
def Task.engineOf (t : Task) : CoreId → EngineState
  | .dawn => t.moraine
  | .dusk => t.serac

/-- The task with the engine of a core's commands replaced. -/
def Task.setEngine (t : Task) (c : CoreId) (e : EngineState) : Task :=
  match c with
  | .dawn => { t with moraine := e }
  | .dusk => { t with serac := e }

/-- A strand's retired mark as it reads (R19). -/
def Strand.markValue (st : Strand) : Option Nat := if st.status = .ended then some 1023 else st.mark

/-- An engine's retired mark as it reads (R19). -/
def State.engineMark (s : State) (t : TaskId) (c : CoreId) : Option Nat :=
  let e := (s.task t).engineOf c
  if (s.strand (t.strand c)).status = .ended ∧ e.queue.isEmpty then some 1023 else e.mark

/-- Whether a need of a strand's section is met (R20). -/
def State.needMet (s : State) (who : StrandId) (n : Engine × Nat) : Bool :=
  let m := match n.1 with
    | .serac => s.engineMark who.task .dusk
    | .moraine => s.engineMark who.task .dawn
    | _ => (s.strand (who.task.strand who.core.other)).markValue
  match m with
  | some v => decide (n.2 ≤ v)
  | none => false

/-- A strand leaves its section by falling through or by ending: its mark, and what its engine's mark waits for (R19). -/
def State.leaveSection (s : State) (who : StrandId) : State :=
  let sec := (s.strand who).sect
  let s1 := s.updStrand who (fun st => { st with mark := some sec })
  s1.updTask who.task (fun t =>
    let e := t.engineOf who.core
    t.setEngine who.core (EngineState.settle { e with marks := e.marks ++ [{ sect := sec, before := e.nextSeq }] }))

/-! ## Ending -/

/-- What follows once both strands of a Running task have ended: its queues are discarded and it drains (R14, R31). -/
def State.drainIfEnded (s : State) (t : TaskId) : State :=
  let x := s.task t
  if x.status = .running ∧ (s.strand (t.strand .dawn)).status = .ended ∧ (s.strand (t.strand .dusk)).status = .ended then
    s.setTask t { x with status := .draining, discarded := x.aq.length + x.bq.length + x.cq.length, aq := [], bq := [], cq := [] }
  else s

/-- A strand ends (R99, R18, R30). -/
def State.endStrand (s : State) (who : StrandId) : State :=
  ((s.leaveSection who).updStrand who (fun st =>
    { st with status := .ended, heldCount := 0, heldBy := none, needs := [], loops := [], park := none })).drainIfEnded who.task

/-! ## Headers -/

/-- Needs that a header declares, in field order (R58): of the other strand, of Serac, of Moraine. -/
def headerNeeds (c : CoreId) (h : Word64) : List (Engine × Nat) :=
  (if h.getLsbD 39 then [(c.other.engine, fld h 38 29)] else []) ++
  (if h.getLsbD 28 then [(.serac, fld h 27 18)] else []) ++
  (if h.getLsbD 17 then [(.moraine, fld h 16 7)] else [])

/-- Whether a header of kind 0x9 is refused by R59. -/
def headerRefused (ncarry : Nat) (h : Word64) : Bool :=
  fld h 49 40 == 0 || (!h.getLsbD 39 && fld h 38 29 ≠ 0) || (!h.getLsbD 28 && fld h 27 18 ≠ 0) ||
  (!h.getLsbD 17 && fld h 16 7 ≠ 0) || (!h.getLsbD 6 && fld h 5 0 ≠ 0) || (h.getLsbD 6 && ncarry ≤ fld h 5 0)

/-- The fault of a header (R18, R59): the header is the word at fault. -/
def headerFault (h : Word64) : Trap := { code := .illegalEnc, loc := 8, info := h }

/-- A strand reaches the header at an address, by falling through (`prev` its section's number) or at task start: it
enters the section, ends at kind 0xF, or faults; at a gate point of a gating load it stops (R18, R20, R58, R59, R399).
A header that cannot be read leaves the strand before it. -/
def State.enterHeader (s : State) (who : StrandId) (a : Word64) (prev : Option Nat) : State :=
  let t := s.task who.task
  match s.readVirtual64 who.die (s.load t.load).domain a.toNat with
  | none => s.updStrand who (fun st => { st with pc := a, atHeader := true })
  | some h =>
    if fld h 63 60 = 9 then
      let num := fld h 59 50
      let rises := match prev with | some p => decide (p < num) | none => true
      let s1 := s.updStrand who (fun st => { st with pc := a + 8, atHeader := false, sect := num, sectStart := a + 8, sectLen := fld h 49 40 })
      if rises = false ∨ headerRefused t.hdr.ncarry h then
        (s1.raisePrecise who (headerFault h) a).updStrand who (fun st => { st with pc := a, atHeader := true })
      else
        s1.updStrand who (fun st =>
          { st with needs := headerNeeds who.core h
                    gate := if h.getLsbD 6 ∧ (s.load t.load).gating.contains who.die ∧ st.whole = false then some (fld h 5 0) else none })
    else
      let s1 := s.updStrand who (fun st => { st with pc := a, atHeader := true })
      if fld h 63 60 = 15 ∧ fld h 59 0 = 0 then s1.endStrand who
      else s1.raisePrecise who (headerFault h) a

/-! ## Read combining -/

/-- LDGs that no later read may combine with any more (R273): those of a granule, or all. What R277 orders after an arc ends
combining too: a read that the strand issues after the arc's target is not performed before it (log entry 24). -/
def Strand.endCombining (st : Strand) (granule : Option Nat) : Strand :=
  { st with sources := st.sources.map (fun c =>
      if (match granule with | some g => c.granule == g | none => true) then { c with live := false } else c) }

/-! ## Where a strand goes next -/

/-- How a strand goes on after a word. -/
inductive Flow where
  /-- To the next word in order. -/
  | fall
  /-- As if the word at this address had just retired without a transfer (R90, count 0). -/
  | fallFrom (a : Word64)
  /-- A taken transfer; `pops` when it is one that leaves loops (R91). -/
  | goto (target : Word64) (pops : Bool)
  /-- END (R99). -/
  | ended
  /-- SUSPEND: it parks (R98). -/
  | parks (p : Park)
deriving DecidableEq, Repr

/-- The loops left by a transfer to a target (R91). -/
def popLoops (target : Word64) (depth : BitVec 16) : List LoopEntry → List LoopEntry
  | [] => []
  | e :: es =>
    if e.depth = depth ∧ (target.toNat < e.start.toNat ∨ e.last.toNat < target.toNat) then popLoops target depth es else e :: es

/-- The retirement of a word without a transfer, for the loop stack: the loops after it, and where they send the strand
(R91). -/
def loopEnd (a : Word64) (depth : BitVec 16) : List LoopEntry → List LoopEntry × Option Word64
  | [] => ([], none)
  | e :: es =>
    if e.depth = depth ∧ e.last = a then
      if e.count - 1 = 0 then loopEnd a depth es else ({ e with count := e.count - 1 } :: es, some e.start)
    else (e :: es, none)

/-- The strand continues at a word of its stream, without checking needs (R20, R88). -/
def State.goTo (s : State) (who : StrandId) (target : Word64) (pops : Bool) : State :=
  let x := (s.wordSection who target).getD (0, 0, 0)
  s.updStrand who (fun st =>
    { st with pc := target, atHeader := false, sect := x.1, sectStart := BitVec.ofNat 64 x.2.1, sectLen := x.2.2
              needs := [], loops := if pops then popLoops target st.depth st.loops else st.loops })

/-- The strand goes on in order after the words at these addresses, of which `last` is the last: loops, the next word,
or the next header (R58, R91). DEDUCED (log entry 30): a pair whose first word is the end word of a loop with count left
has issued both its words (R44) and then goes to the loop's start. -/
def State.fallThrough (s : State) (who : StrandId) (words : List Word64) (last : Word64) : State :=
  let st := s.strand who
  let go := words.foldl (fun (acc : List LoopEntry × Option Word64) a =>
    match acc.2 with
    | some _ => acc
    | none => loopEnd a st.depth acc.1) (st.loops, none)
  let s1 := s.updStrand who (fun x => { x with loops := go.1, needs := [] })
  match go.2 with
  | some start => s1.updStrand who (fun x => { x with pc := start })
  | none =>
    let next := last + 12
    if next.toNat < st.sectStart.toNat + 12 * st.sectLen then s1.updStrand who (fun x => { x with pc := next })
    else (s1.leaveSection who).enterHeader who (BitVec.ofNat 64 ((next.toNat + 7) / 8 * 8)) (some st.sect)

/-- A parked strand becomes Ready at its continuation (R22, R23); after SUSPEND the move is a transfer (R91), and no later
LDG combines across it (R277). -/
def State.wake (s : State) (who : StrandId) (p : Park) : State :=
  let s1 := s.updStrand who (fun st =>
    { (if p.counter = none then st else st.endCombining none) with status := .ready, park := none, heldCount := 0, heldBy := none, cmdqOnly := false })
  if p.counter = none then s1 else s1.goTo who p.cont true

/-- SUSPEND parks its strand (R22, R30); the end of the cycle examines it. -/
def State.parkOn (s : State) (who : StrandId) (p : Park) : State :=
  s.updStrand who (fun st => { st with status := .parked, park := some { p with since := s.clock }, needs := [] })

/-! ## The end of a cycle -/

/-- A token counter raised by a push. -/
def State.giveTokens (s : State) (p : TaskId × Nat × Nat) : State := s.updTask p.1 (fun t => t.setToken p.2.1 (t.token p.2.1 + p.2.2))

/-- The end of a cycle (R16, R102): every set, those of Dusk last; every increment, modulo 2^32; every token push; and the
re-examination of suspensions. -/
def State.commit (s : State) : State :=
  let w := s.work
  let s1 := (w.sets ++ w.duskSets).foldl (fun x e => x.putEvent e.1 e.2.1 e.2.2) { s with work := {} }
  let s2 := w.adds.foldl (fun x e => x.putEvent e.1 e.2.1 (x.counter e.1 e.2.1 + e.2.2)) s1
  (w.pushes.foldl (fun x p => x.giveTokens p) s2).reexamine

/-! ## The strand and task under the cursor, in an instruction's body -/

def theCore : M CoreId := do return (← get).cur.strand.core
def theStrand : M Strand := do return (← get).me
def theTask : M Task := do return (← get).myTask
def modStrand (f : Strand → Strand) : M Unit := modify (fun s => s.updStrand s.cur.strand f)
def modTask (f : Task → Task) : M Unit := modify (fun s => s.updTask s.cur.strand.task f)

/-- A counter of the tile as it stood at the start of the cycle (R101). -/
def theEvent (n : Nat) : M Word32 := do
  let s ← get
  return s.counter s.cur.strand.tileId n

/-- Value of a scalar register; a Dusk register reads as 32 bits. -/
def readReg (i : Nat) : M Word64 := do return (← theStrand).regs.get i 0

/-- A scalar register written with a W-bit value. A write repairs its cell (R388). -/
def writeReg (i : Nat) (v : Word64) : M Unit := do
  let c ← theCore
  modStrand (fun st => { st with regs := st.regs.set i (toWidth c v.toNat), badRegs := st.badRegs.filter (· ≠ i) })

/-- A predicate (R9). -/
def Strand.pred (st : Strand) (i : Nat) : Bool := if i = 0 then true else st.preds.getLsbD i

/-- A predicate written; p0 is not (R9). -/
def writePred (i : Nat) (v : Bool) : M Unit :=
  if i = 0 then pure ()
  else modStrand (fun st =>
    { st with preds := if v then st.preds ||| BitVec.ofNat 16 (2 ^ i) else st.preds &&& ~~~ (BitVec.ofNat 16 (2 ^ i)) })

/-- Room that GRAISEs still to be applied hold in a queue (R211). -/
def State.raisesInto (s : State) (who : StrandId) (q : QueueName) : Nat :=
  (s.raises.filter (fun r => r.who.task == who.task && (match r.dest with | .queue c => queueOfCode c == some q | _ => false))).length

/-- Entries of a list of queue uses that concern one queue of a task. -/
def usesOf (i : TaskId) (q : QueueName) (l : List (TaskId × QueueName)) : Nat := l.count (i, q)

/-- Entries that a pop may take: an entry pushed in a cycle is popped no earlier than the next (R13). -/
def State.poppable (s : State) (i : TaskId) (q : QueueName) : Nat := (s.task i).queueLen q - usesOf i q s.work.queued

/-- Entries of a queue as it stood at the start of the cycle (R95). -/
def State.startLen (s : State) (i : TaskId) (q : QueueName) : Nat :=
  (s.task i).queueLen q - usesOf i q s.work.queued + usesOf i q s.work.taken

/-- Push an entry, or hold on a full queue (R13). -/
def pushQueue (q : QueueName) (v : Word64) : M Unit := do
  let s ← get
  holdUnless (decide (s.myTask.queueLen q + s.raisesInto s.cur.strand q < queueCap q)) (.queueFull q)
  modTask (fun t => t.push q v)
  modify (fun x => { x with work := { x.work with queued := x.work.queued ++ [(x.cur.strand.task, q)] } })

/-- Pop an entry, or hold on an empty queue (R13). -/
def popQueue (q : QueueName) : M Word64 := do
  let s ← get
  holdUnless (decide (0 < s.poppable s.cur.strand.task q)) (.queueEmpty q)
  match (← theTask).pop q with
  | none => holdOn (.queueEmpty q)
  | some (v, t) =>
    modTask (fun _ => t)
    modStrand (fun st => st.endCombining none)
    modify (fun x => { x with work := { x.work with taken := x.work.taken ++ [(x.cur.strand.task, q)] } })
    return v

/-! ## Tile memory -/

/-- Bytes of a tile's memory from a tile-local address. -/
def State.readTile (s : State) (t : TileId) (a n : Nat) : List Byte := Memory.readBytes s.mem (tilePa t a) n

/-- A tile's memory written from a tile-local address; units covered whole are repaired (R388). -/
def State.writeTile (s : State) (t : TileId) (a : Nat) (bs : List Byte) : State :=
  (s.setMem (Memory.writeBytes s.mem (tilePa t a) bs)).repair (tilePa t a) bs.length

/-- Size of a task's tile-memory allocation (R27). -/
def Task.tmSize (t : Task) : Nat := t.hdr.tilemem * 4096

/-- Whether bytes [a, a + n) lie in a task's allocation (R28). -/
def Task.inBounds (t : Task) (a n : Nat) : Bool := decide (t.tmBase ≤ a) && decide (a + n ≤ t.tmBase + t.tmSize)

/-- The fault of an uncorrectable error that a strand reads (R388). -/
def eccTrap (structure_ : Nat) (info : Word64) (loc : Nat := 0) : Trap :=
  { code := .eccUncorr, loc := loc, info := info, detail := BitVec.ofNat 32 (structure_ * 2 ^ 24) }

end Sys2Proof.Machine
end

