-- ==== Sys2Proof/Machine/Formats.lean ====
section
/-! DEFINITION. Element formats, exact values, and the one rounding function behind every rounding call
(R112 to R124), with the exact arithmetic that the scalar, vector, Serac and element operations share. -/

namespace Sys2Proof.Machine

/-- An element format (R46, R112, R115 to R117). -/
inductive Format where
  | raw
  | int (signed : Bool) (width : Nat)
  | f32
  | bf16
  | f16
  | b8 (code : BitVec 6)
  | sc
deriving DecidableEq, Repr

/-- An exact value: NaN, an infinity, or (-1)^neg * m * 2^e. -/
inductive Num where
  | nan
  | inf (neg : Bool)
  | fin (neg : Bool) (m : Nat) (e : Int)
deriving DecidableEq, Repr

/-- The rounding modes of R47 and R118. -/
inductive Rnd where
  | rne
  | rtz
  | rup
  | rdn
  | rna
  | satf
deriving DecidableEq, Repr

/-- The mode that MOD 000 to 101 encodes (R47). -/
def Rnd.ofMod (m : Nat) : Rnd :=
  match m with
  | 0 => .rne
  | 1 => .rtz
  | 2 => .rup
  | 3 => .rdn
  | 4 => .rna
  | _ => .satf

/-- Bits of an element (R112, R113, R116, R117). -/
def Format.bits : Format → Nat
  | .raw => 32
  | .int _ w => w
  | .f32 => 32
  | .bf16 => 16
  | .f16 => 16
  | .b8 _ => 8
  | .sc => 8

/-- Bytes of an element (R142). -/
def Format.bytes (f : Format) : Nat := f.bits / 8

/-- Narrow-format code: signed, extended, precision (R115). -/
def nfSigned (c : BitVec 6) : Bool := c.getLsbD 5
def nfExt (c : BitVec 6) : Bool := c.getLsbD 4
def nfP (c : BitVec 6) : Nat := (c.extractLsb' 0 4).toNat

/-- A code whose P is 1 to 7 names a variant (R115). -/
def nfValid (c : BitVec 6) : Bool := decide (1 ≤ nfP c) && decide (nfP c ≤ 7)

/-- Exponent bits and trailing significand bits of a floating format (R112, R113). -/
def Format.expBits : Format → Nat
  | .f32 => 8
  | .bf16 => 8
  | .f16 => 5
  | .b8 c => if nfSigned c then 8 - nfP c else 9 - nfP c
  | _ => 0

def Format.trail : Format → Nat
  | .f32 => 23
  | .bf16 => 7
  | .f16 => 10
  | .b8 c => nfP c - 1
  | _ => 0

/-- Exponent bias (R112, R113). -/
def Format.bias (f : Format) : Int :=
  match f with
  | .b8 _ => (2 ^ (f.expBits - 1) : Nat)
  | _ => (2 ^ (f.expBits - 1) : Nat) - 1

/-- Exponent of the smallest normal value (R118, R123). -/
def Format.emin (f : Format) : Int :=
  match f with
  | .sc => -127
  | _ => 1 - f.bias

/-- Whether the format has negative values. -/
def Format.signed : Format → Bool
  | .int s _ => s
  | .b8 c => nfSigned c
  | .sc => false
  | _ => true

/-- Whether the format has infinities (R112, R113). -/
def Format.hasInf : Format → Bool
  | .f32 => true
  | .bf16 => true
  | .f16 => true
  | .b8 c => nfExt c
  | _ => false

/-- The code of the largest finite magnitude of a floating format, sign bit clear (R112, R114). -/
def Format.maxCode (f : Format) : Nat :=
  match f with
  | .f32 => 0x7F7FFFFF
  | .bf16 => 0x7F7F
  | .f16 => 0x7BFF
  | .b8 c => (if nfSigned c then 0x7F else 0xFE) - (if nfExt c then 1 else 0)
  | .sc => 0xFE
  | _ => 0

/-- The canonical NaN, or the one NaN, of a format (R112, R113, R117); an integer format has none and takes 0 (R122). -/
def Format.nanCode (f : Format) : Nat :=
  match f with
  | .f32 => 0x7FC00000
  | .bf16 => 0x7FC0
  | .f16 => 0x7E00
  | .b8 c => if nfSigned c then 0x80 else 0xFF
  | .sc => 0xFF
  | _ => 0

/-- The magnitude that a floating code below the infinities and NaNs encodes, as m * 2^e. -/
def Format.magnitude (f : Format) (code : Nat) : Nat × Int :=
  let t := f.trail
  let ex := code / 2 ^ t
  let tr := code % 2 ^ t
  if ex = 0 then (tr, f.emin - t) else (2 ^ t + tr, (ex : Int) - 1 + f.emin - t)

/-- The exact value of an IEEE code (R112). -/
def decodeIeee (f : Format) (x : Nat) : Num :=
  let t := f.trail
  let w := f.expBits
  let neg := (x / 2 ^ (w + t)) % 2 = 1
  let code := x % 2 ^ (w + t)
  if code / 2 ^ t = 2 ^ w - 1 then (if code % 2 ^ t = 0 then .inf neg else .nan)
  else .fin neg (f.magnitude code).1 (f.magnitude code).2

/-- The exact value of a binary8 code (R113). -/
def decodeB8 (c : BitVec 6) (x : Nat) : Num :=
  if x = (Format.b8 c).nanCode then .nan
  else if nfSigned c then
    if nfExt c ∧ x % 128 = 0x7F then .inf (decide (128 ≤ x))
    else .fin (decide (128 ≤ x)) ((Format.b8 c).magnitude (x % 128)).1 ((Format.b8 c).magnitude (x % 128)).2
  else if nfExt c ∧ x = 0xFE then .inf false
  else .fin false ((Format.b8 c).magnitude x).1 ((Format.b8 c).magnitude x).2

/-- The exact value of an integer code of the given width (R116). -/
def decodeInt (signed : Bool) (w x : Nat) : Int :=
  let u := x % 2 ^ w
  if signed ∧ 2 ^ (w - 1) ≤ u then (u : Int) - 2 ^ w else u

/-- An integer as an exact value. -/
def Num.ofInt (i : Int) : Num := .fin (decide (i < 0)) i.natAbs 0

/-- The exact value of an element (R112, R113, R116, R117). Untyped 32 has none; its bits are read as unsigned. -/
def decodeNum (f : Format) (x : Nat) : Num :=
  match f with
  | .raw => .fin false (x % 2 ^ 32) 0
  | .int s w => Num.ofInt (decodeInt s w x)
  | .b8 c => decodeB8 c (x % 256)
  | .sc => if x % 256 = 0xFF then .nan else .fin false 1 ((x % 256 : Nat) - 127)
  | f => decodeIeee f (x % 2 ^ f.bits)

/-- The sign of a value (of zeros too). -/
def Num.neg? : Num → Bool
  | .nan => false
  | .inf n => n
  | .fin n _ _ => n

/-- floor(log2 |v|) of a finite non-zero value. -/
def Num.log2 : Num → Int
  | .fin _ m e => (Nat.log2 m : Int) + e
  | _ => 0

/-- Whether a value is a zero. -/
def Num.isZero : Num → Bool
  | .fin _ m _ => m == 0
  | _ => false

/-- Whether a value is finite. -/
def Num.isFinite : Num → Bool
  | .fin _ _ _ => true
  | _ => false

def Num.negate : Num → Num
  | .nan => .nan
  | .inf n => .inf (!n)
  | .fin n m e => .fin (!n) m e

/-- v * 2^k, exactly. -/
def Num.scale (v : Num) (k : Int) : Num :=
  match v with
  | .fin n m e => .fin n m (e + k)
  | v => v

/-- The code of a signed magnitude in a floating format (R112, R113): a binary8 zero is 0x00 whatever its sign. -/
def Format.withSign (f : Format) (neg : Bool) (code : Nat) : Nat :=
  match f with
  | .b8 _ => if neg ∧ code ≠ 0 then code + 128 else code
  | f => if neg then code + 2 ^ (f.bits - 1) else code

/-- The code of an infinity of a floating format that has them. -/
def Format.infCode (f : Format) (neg : Bool) : Nat := f.withSign neg (f.maxCode + 1)

/-- The largest finite code of a sign (R119). -/
def Format.maxOf (f : Format) (neg : Bool) : Nat :=
  match f with
  | .int true w => if neg then 2 ^ (w - 1) else 2 ^ (w - 1) - 1
  | .int false w => if neg then 0 else 2 ^ w - 1
  | .raw => 0
  | .sc => 0xFE
  | f => if neg ∧ f.signed = false then 0 else f.withSign neg f.maxCode

/-- Overflow by R119. -/
def overflow (f : Format) (neg : Bool) (mode : Rnd) : Nat :=
  if f.hasInf then
    match mode with
    | .rne => f.infCode neg
    | .rna => f.infCode neg
    | .rtz => f.maxOf neg
    | .satf => f.maxOf neg
    | .rup => if neg then f.maxOf neg else f.infCode neg
    | .rdn => if neg then f.infCode neg else f.maxOf neg
  else f.maxOf neg

/-- Whether the magnitude n * q + rem (rem below q, with half = q/2; a sticky value lies strictly above rem) rounds up. -/
def roundsUp (mode : Rnd) (neg : Bool) (n rem q : Nat) (sticky : Bool) : Bool :=
  match mode with
  | .rtz => false
  | .rup => (rem != 0 || sticky) && !neg
  | .rdn => (rem != 0 || sticky) && neg
  | .rna => decide (q ≤ 2 * rem)
  | _ => decide (q < 2 * rem) || (2 * rem == q && (sticky || n % 2 == 1))

/-- The multiple of 2^qe that a magnitude m * 2^e rounds to (R118). -/
def roundTo (mode : Rnd) (neg : Bool) (m : Nat) (e qe : Int) (sticky : Bool) : Nat :=
  if qe ≤ e then m * 2 ^ (e - qe).toNat
  else
    let q := 2 ^ (qe - e).toNat
    m / q + if roundsUp mode neg (m / q) (m % q) q sticky then 1 else 0

/-- Whether a * 2^x exceeds b * 2^y. -/
def magGt (a : Nat) (x : Int) (b : Nat) (y : Int) : Bool :=
  if x ≤ y then decide (b * 2 ^ (y - x).toNat < a) else decide (b < a * 2 ^ (x - y).toNat)

/-- Rounding of a finite non-zero value into a floating format or scale byte (R118 to R120, R123). -/
def roundFloat (f : Format) (mode : Rnd) (neg : Bool) (m : Nat) (e : Int) (sticky : Bool) : Nat :=
  let t := f.trail
  let qe := max ((Nat.log2 m : Int) + e) f.emin - t
  let n := roundTo mode neg m e qe sticky
  if magGt n qe (f.magnitude f.maxCode).1 (f.magnitude f.maxCode).2 then overflow f neg mode
  else f.withSign neg (n + (qe - (f.emin - t)).toNat * 2 ^ t)

/-- A negative non-zero value into an unsigned binary8 format (R120). -/
def roundNegUnsigned (f : Format) (mode : Rnd) (m : Nat) (e : Int) (sticky : Bool) : Nat :=
  match mode with
  | .rtz => 0
  | .rup => 0
  | .satf => 0
  | .rdn => f.nanCode
  | .rne =>
    if magGt m e 1 (f.emin - f.trail - 1) || (sticky && !magGt 1 (f.emin - f.trail - 1) m e) then f.nanCode else 0
  | .rna => if magGt 1 (f.emin - f.trail - 1) m e then 0 else f.nanCode

/-- Rounding into an integer format (R118 with q = 1, R119, R120). -/
def roundInt (signed : Bool) (w : Nat) (mode : Rnd) (neg : Bool) (m : Nat) (e : Int) (sticky : Bool) : Nat :=
  if neg ∧ signed = false then 0
  else
    let n := roundTo mode neg m e 0 sticky
    let hi := (Format.int signed w).maxOf neg
    let c := if hi < n then hi else n
    if neg then (2 ^ w - c) % 2 ^ w else c

/-- A positive value into the scale byte (R123). -/
def roundSc (mode : Rnd) (m : Nat) (e : Int) (sticky : Bool) : Nat :=
  let l := (Nat.log2 m : Int) + e
  if l < -127 then 0
  else
    let n := roundTo mode false m e l sticky
    let k := l + (if n = 2 then 1 else 0) + 127
    if 0xFE < k then 0xFE else k.toNat

/-- The code of an infinite source (R122). -/
def roundInf (f : Format) (mode : Rnd) (neg : Bool) : Nat :=
  match f with
  | .int s w => (if neg then (2 ^ w - (Format.int s w).maxOf true) % 2 ^ w else (Format.int s w).maxOf false)
  | .sc => if mode = .satf ∧ neg = false then 0xFE else 0xFF
  | .raw => 0
  | f =>
    if mode = .satf then f.maxOf neg
    else if f.hasInf ∧ (neg = false ∨ f.signed) then f.infCode neg
    else f.nanCode

/-- round(v, F, mode) of R118 to R123. With `sticky`, the exact magnitude lies strictly between m and m + 1 units of
2^e; the caller gives m enough bits that this decides every rounding. -/
def round (v : Num) (f : Format) (mode : Rnd) (sticky : Bool := false) : Nat :=
  match v with
  | .nan => f.nanCode
  | .inf neg => roundInf f mode neg
  | .fin neg m e =>
    if m = 0 then
      match f with
      | .sc => 0xFF
      | .int _ _ => 0
      | .raw => 0
      | f => f.withSign neg 0
    else
      match f with
      | .raw => 0
      | .int s w => roundInt s w mode neg m e sticky
      | .sc => if neg then 0xFF else roundSc mode m e sticky
      | .b8 c =>
        if neg ∧ nfSigned c = false then roundNegUnsigned (.b8 c) mode m e sticky
        else roundFloat (.b8 c) mode neg m e sticky
      | f => roundFloat f mode neg m e sticky

/-- maxfinite(F): the largest finite value of a format, as an exact value (R112, R114, R116). -/
def Format.maxNum (f : Format) : Num :=
  match f with
  | .int s w => .fin false ((Format.int s w).maxOf false) 0
  | f => .fin false (f.magnitude f.maxCode).1 (f.magnitude f.maxCode).2

/-- The exponent of the quantum at a magnitude m * 2^e: q of R118, which is 1 throughout an integer format. -/
def Format.quantum (f : Format) (m : Nat) (e : Int) : Int :=
  match f with
  | .int _ _ => 0
  | f => max ((Nat.log2 m : Int) + e) f.emin - f.trail

/-- Whether the magnitude m * 2^e lies above maxfinite(F). -/
def Format.exceeds (f : Format) (m : Nat) (e : Int) : Bool :=
  match f.maxNum with
  | .fin _ n k => magGt m e n k
  | _ => false

/-! ## Exact arithmetic -/

/-- Signed integer of a finite value at exponent k, where k is at most its own exponent. -/
def alignTo (neg : Bool) (m : Nat) (e k : Int) : Int :=
  let x : Int := ((m * 2 ^ (e - k).toNat : Nat) : Int)
  if neg then -x else x

/-- a + b, exactly; an exact zero is -0 under RDN and +0 otherwise, and like-signed zeros keep their sign (R81). -/
def Num.add (mode : Rnd) : Num → Num → Num
  | .nan, _ => .nan
  | _, .nan => .nan
  | .inf a, .inf b => if a = b then .inf a else .nan
  | .inf a, _ => .inf a
  | _, .inf b => .inf b
  | .fin an am ae, .fin bn bm be =>
    let k := min ae be
    let s := alignTo an am ae k + alignTo bn bm be k
    if s = 0 then
      if am = 0 ∧ bm = 0 ∧ an = bn then .fin an 0 k else .fin (decide (mode = .rdn)) 0 k
    else .fin (decide (s < 0)) s.natAbs k

/-- a * b, exactly (R81). -/
def Num.mul : Num → Num → Num
  | .nan, _ => .nan
  | _, .nan => .nan
  | .inf a, .inf b => .inf (a != b)
  | .inf a, .fin b m _ => if m = 0 then .nan else .inf (a != b)
  | .fin a m _, .inf b => if m = 0 then .nan else .inf (a != b)
  | .fin an am ae, .fin bn bm be => .fin (an != bn) (am * bm) (ae + be)

/-- Result of an operation that is not closed on exact values: the value and whether it is short (see `round`). -/
abbrev Near := Num × Bool

/-- a / b to enough bits that one rounding decides (R81, R82). -/
def Num.div : Num → Num → Near
  | .nan, _ => (.nan, false)
  | _, .nan => (.nan, false)
  | .inf _, .inf _ => (.nan, false)
  | .inf a, .fin b _ _ => (.inf (a != b), false)
  | .fin a _ _, .inf b => (.fin (a != b) 0 0, false)
  | .fin an am ae, .fin bn bm be =>
    if bm = 0 then (if am = 0 then .nan else .inf (an != bn), false)
    else
      let sh := Nat.log2 bm + 40
      let n := am * 2 ^ sh
      (.fin (an != bn) (n / bm) (ae - be - sh), n % bm != 0)

/-- Integer square root, bit by bit from the top. -/
def isqrt (n : Nat) : Nat → Nat → Nat
  | 0, r => r
  | k + 1, r => let c := r + 2 ^ k; isqrt n k (if c * c ≤ n then c else r)

/-- sqrt(a) to enough bits that one rounding decides (R81, R82). -/
def Num.sqrt : Num → Near
  | .nan => (.nan, false)
  | .inf false => (.inf false, false)
  | .inf true => (.nan, false)
  | .fin neg m e =>
    if m = 0 then (.fin neg 0 e, false)
    else if neg then (.nan, false)
    else
      let sh : Nat := 80 + (if (e - 80) % 2 = 0 then 0 else 1)
      let n := m * 2 ^ sh
      let r := isqrt n (Nat.log2 n / 2 + 1) 0
      (.fin false r ((e - sh) / 2), r * r != n)

/-- Ordering of two values that are not NaN: whether a < b as reals. -/
def Num.lt : Num → Num → Bool
  | .nan, _ => false
  | _, .nan => false
  | .inf true, .inf true => false
  | .inf true, _ => true
  | _, .inf true => false
  | .inf false, _ => false
  | _, .inf false => true
  | .fin an am ae, .fin bn bm be =>
    let k := min ae be
    decide (alignTo an am ae k < alignTo bn bm be k)

def Num.isNan : Num → Bool
  | .nan => true
  | _ => false

/-- Whether two values that are not NaN are equal as reals. -/
def Num.eq (a b : Num) : Bool := !a.isNan && !b.isNan && !a.lt b && !b.lt a

end Sys2Proof.Machine
end

