-- ==== Sys2Proof/Machine/Scaling.lean ====
section
/-! DEFINITION. Scales: scaled values (R126), current scaling of a group (R127), quantisation against a delayed scale
and its status word (R128, R129), conversions (R121, R124), and the type words that say how a stream is scaled (R125,
R330). -/

namespace Sys2Proof.Machine

/-- The exact value of an element under a scale code (R126). -/
def scaled (v : Num) (code : Nat) : Num := if code = 0xFF then .nan else v.scale ((code : Int) - 127)

/-- Whether the rounding of a finite non-zero magnitude lies above maxfinite of the format, the rounding itself having
no upper bound (R118). -/
def roundsAbove (f : Format) (mode : Rnd) (neg : Bool) (m : Nat) (e : Int) : Bool :=
  f.exceeds (roundTo mode neg m e (f.quantum m e) false) (f.quantum m e)

/-- A finite value into the format of a scaled stream, cut to the largest finite value of its sign in every mode, which is 0x00 for a
negative value into an unsigned one; true when it was cut (R127, R128, log entry 18). -/
def roundCut (d : Format) (mode : Rnd) (v : Num) : Nat × Bool :=
  match v with
  | .fin neg m e =>
    if m ≠ 0 ∧ roundsAbove d mode neg m e then (d.maxOf neg, true) else (round v d mode, false)
  | v => (round v d mode, false)

/-- Largest magnitude of a list of finite values, by the exponent of its leading bit; none when all are zero. -/
def topExponent (xs : List Num) : Option Int :=
  xs.foldl (fun acc x => if x.isZero then acc else match acc with | none => some x.log2 | some k => some (max k x.log2)) none

/-- Current scaling of a group: its scale code and element codes (R127). -/
def currentScale (d : Format) (mode : Rnd) (xs : List Num) : Nat × List Nat :=
  if xs.any (fun x => !x.isFinite) then (0xFF, xs.map (fun _ => d.nanCode))
  else
    match topExponent xs with
    | none => (127, xs.map (fun _ => 0))
    | some top =>
      let k := top - d.maxNum.log2
      let e := (max 0 (min 254 (k + 127))).toNat
      (e, xs.map (fun x =>
        if x.neg? ∧ x.isZero = false ∧ d.signed = false then 0 else (roundCut d mode (x.scale (127 - (e : Int)))).1))

/-- The scale status word with its counts and sticky bits raised (R129). The rule calls the bits W1C and the counts RW and
names no address or instruction that writes the word: the model has no such write (DESIGN CHOICE, log entry 31). -/
def statusCount (st : Word64) (sat flush : Bool) : Word64 :=
  let c := min (fld st 61 31 + sat.toNat) (2 ^ 31 - 1)
  let f := min (fld st 30 0 + flush.toNat) (2 ^ 31 - 1)
  BitVec.ofNat 64 ((st.getLsbD 63 || sat).toNat * 2 ^ 63 + (st.getLsbD 62 || flush).toNat * 2 ^ 62 + c * 2 ^ 31 + f)

/-- Quantisation against a delayed scale: the code and the status word after it (R128, R129). -/
def delayedQuant (d : Format) (mode : Rnd) (e : Nat) (x : Num) (st : Word64) : Nat × Word64 :=
  if e = 0xFF then (d.nanCode, st)
  else
    match x with
    | .nan => (d.nanCode, st)
    | .inf neg => (d.maxOf neg, statusCount st true false)
    | x =>
      let r := roundCut d mode (x.scale (127 - (e : Int)))
      if r.2 then (r.1, statusCount st true false)
      else (r.1, statusCount st false (x.isZero = false && (decodeNum d r.1).isZero))

/-- A conversion between two numeric formats (R121 to R124); MOD 001 between integers is .sat. -/
def convertCode (src dst : Format) (mod : Nat) (x : Nat) : Nat :=
  match src, dst with
  | .int s w, .int s' w' =>
    let v := decodeInt s w x
    if mod = 1 then
      let hi : Int := ((Format.int s' w').maxOf false : Nat)
      let lo : Int := -(((Format.int s' w').maxOf true : Nat) : Int)
      ((max lo (min hi v)) % (2 ^ w' : Nat)).toNat
    else (v % (2 ^ w' : Nat)).toNat
  | s, d => round (decodeNum s x) d (Rnd.ofMod mod)

/-! ## Type words -/

/-- The format of an FMT code that names no nf register (R46). -/
def plainFormat (code : Nat) : Format :=
  match code with
  | 0 => .raw
  | 1 => .int true 32
  | 2 => .int false 32
  | 3 => .int true 16
  | 4 => .int false 16
  | 5 => .int true 8
  | 6 => .int false 8
  | 7 => .f32
  | 8 => .bf16
  | 9 => .f16
  | _ => .sc

/-- Fields of a type word (R330, R125). -/
def typeFmt (t : Word32) : Nat := fld t 31 28
def typeCode (t : Word32) : BitVec 6 := t.extractLsb' 22 6
def typeSkind (t : Word32) : Nat := fld t 21 20
def typeGsz (t : Word32) : Nat := fld t 19 18
def typeRowlen (t : Word32) : Nat := fld t 15 0

/-- The element format of a type word (R330). -/
def typeFormat (t : Word32) : Format := if typeFmt t = 10 then .b8 (typeCode t) else plainFormat (typeFmt t)

/-- The group of a type word: its group size, or its row length (R125, R163). -/
def typeGroup (t : Word32) : Option Nat :=
  if typeSkind t = 1 then some (32 * 2 ^ typeGsz t) else if typeSkind t = 2 then some (typeRowlen t) else none

/-- Whether a type word is one that R125 and R330 admit. -/
def typeOk (t : Word32) : Bool :=
  let f := typeFmt t
  (f ≤ 10 || f == 14) && (if f = 10 then nfValid (typeCode t) else typeCode t == 0) && fld t 17 16 == 0 &&
  (if typeSkind t = 1 then typeGsz t ≠ 3 else typeGsz t == 0) && ((f ≠ 0 && f ≠ 14) || typeSkind t == 0) &&
  (if typeSkind t = 2 then typeRowlen t ≠ 0 else typeRowlen t == 0)

end Sys2Proof.Machine
end

