-- ==== Sys2Proof/Machine/Channels.lean ====
section
/-! DEFINITION. Channels: their converter (R332, R333), beats (R334), room in the output queue (R450), what a port's
backing queue holds and how its tokens are taken (R334, R337), and thresholds (R341). -/

namespace Sys2Proof.Machine

/-! ## Ports of a strand -/

/-- A tile port of a task's tile (R329). -/
def tilePort (t : TileId) (out : Bool) (n : Nat) : PortId := ⟨t.die, .tile, t.tile, out, n⟩

/-- A streamer endpoint of a tile: `out` for MM2C (R329). -/
def streamerPort (t : TileId) (out : Bool) (n : Nat) : PortId := ⟨t.die, .streamer, t.tile, out, n⟩

/-- The channel bound to a port, if any (R163). -/
def State.boundTo (s : State) (p : PortId) : Option (ChanId × Channel) :=
  match (s.port p).chan with
  | some c => some (c, s.chan c)
  | none => none

/-- Type word of a port's own side (R330). -/
def State.portType (s : State) (p : PortId) : Word32 :=
  match s.boundTo p with
  | some (_, c) => if p.out then c.stype else c.dtype
  | none => 0

/-! ## Beats and room -/

/-- Elements of a format in a 64-byte beat (R334). -/
def beatElems (f : Format) : Nat := 64 / f.bytes

/-- Tokens packed into beats, with the elements of a beat still open (R334). -/
def packBeats (n : Nat) : List Tok → List Tok → List Beat
  | [], run => if run = [] then [] else [⟨run, false⟩]
  | .elem c :: rest, run =>
    if n ≤ run.length + 1 then ⟨run ++ [.elem c], false⟩ :: packBeats n rest [] else packBeats n rest (run ++ [.elem c])
  | t :: rest, run => (if run = [] then [] else [⟨run, false⟩]) ++ ⟨[t], false⟩ :: packBeats n rest []

/-- The last beat of a list marked as the end of a send. -/
def markLast : List Beat → List Beat
  | [] => []
  | [b] => [{ b with last := true }]
  | b :: bs => b :: markLast bs

/-- Beats of one send (R334). -/
def sendBeats (c : Channel) (toks : List Tok) : List Beat := markLast (packBeats (beatElems (typeFormat c.stype)) toks [])

/-- Room of the output queue, in beats (R450). -/
def Channel.room (c : Channel) : Nat := c.depth - c.outq.length - c.unacked.length

/-- A send placed in the output queue (R165, R450). -/
def Channel.enqueue (c : Channel) (toks : List Tok) : Channel := { c with outq := c.outq ++ sendBeats c toks }

/-- Elements among tokens. -/
def elemCount (toks : List Tok) : Nat := (toks.filter (fun t => match t with | .elem _ => true | _ => false)).length

/-! ## The converter -/

/-- Whether a channel has a converter (R332). -/
def Channel.converts (c : Channel) : Bool := c.stype != c.dtype

/-- The unfinished destination group released: one scale token, then its elements (R332). -/
def Channel.release (c : Channel) : Channel × List Tok :=
  if c.group.isEmpty then (c, [])
  else
    let xs := c.group.map (fun p => scaled (decodeNum (typeFormat c.stype) p.1.toNat) p.2.toNat)
    let q := currentScale (typeFormat c.dtype) (Rnd.ofMod c.cmode.toNat) xs
    ({ c with group := [] }, .scale (BitVec.ofNat 8 q.1) :: q.2.map (fun x => .elem (BitVec.ofNat 32 x)))

/-- One element through the converter (R332). -/
def Channel.convertElem (c : Channel) (x : Word32) : Channel × List Tok :=
  let d := typeFormat c.dtype
  let mode := Rnd.ofMod c.cmode.toNat
  let v := scaled (decodeNum (typeFormat c.stype) x.toNat) c.srcScale.toNat
  match typeGroup c.dtype with
  | some g =>
    let c1 := { c with group := c.group ++ [(x, c.srcScale)] }
    if g ≤ c1.group.length then c1.release else (c1, [])
  | none =>
    if typeSkind c.dtype = 3 then
      let q := delayedQuant d mode c.chScale.toNat v c.status
      ({ c with status := q.2 }, [.elem (BitVec.ofNat 32 q.1)])
    else (c, [.elem (BitVec.ofNat 32 (round v d mode))])

/-- One token through the converter (R332, R333). -/
def Channel.convertTok (c : Channel) (t : Tok) : Channel × List Tok :=
  match t with
  | .elem x => c.convertElem x
  | .pscl k => ({ c with chScale := k, srcScale := if typeSkind c.stype = 3 then k else c.srcScale }, [.scale k])
  | .scale k =>
    if typeSkind c.stype = 1 ∨ typeSkind c.stype = 2 then ({ c with srcScale := k }, [])
    else
      let c1 := if typeSkind c.stype = 3 then { c with srcScale := k } else c
      if typeSkind c.dtype = 3 then ({ c1 with chScale := k }, [.scale k]) else (c1, [])
  | t => ((c.release).1, (c.release).2 ++ [t])

/-- Tokens through the converter, in order. -/
def Channel.convertToks (c : Channel) : List Tok → Channel × List Tok
  | [] => (c, [])
  | t :: ts =>
    let r := c.convertTok t
    let r2 := r.1.convertToks ts
    (r2.1, r.2 ++ r2.2)

/-- A token that no converter changes: the scale token of a PSCL travels in band (R333). -/
def inBand : Tok → Tok
  | .pscl k => .scale k
  | t => t

/-- The next source-side beat as the beats that leave the network interface: the converter's output packed by DTYPE;
a beat still open waits for the next unless the send or a token ends it (R332, R334). -/
def Channel.egress (c : Channel) (b : Beat) : Channel × List Beat :=
  if c.converts then
    let r := c.convertToks b.toks
    let bs := packBeats (beatElems (typeFormat c.dtype)) r.2 c.convOut
    match bs.getLast? with
    | some l =>
      if b.last = false ∧ l.toks.length < beatElems (typeFormat c.dtype) ∧ elemCount l.toks = l.toks.length then
        ({ r.1 with convOut := l.toks }, bs.dropLast)
      else ({ r.1 with convOut := [] }, bs)
    | none => ({ r.1 with convOut := [] }, [])
  else (c, [{ b with toks := b.toks.map inBand }])

/-! ## Backing queues -/

/-- Tokens of a destination, oldest first. -/
def DestQueue.toks (q : DestQueue) : List Tok := q.beats.flatMap Beat.toks

/-- The tile that holds a destination's backing queue (R334). -/
def DestQueue.home (d : DestQueue) : TileId := match d.port.kind with | .region => ⟨d.port.die, d.qtile⟩ | _ => ⟨d.port.die, d.port.index⟩

/-- Beats that have arrived at a destination and are not yet consumed (R334). -/
def DestQueue.occupancy (d : DestQueue) : Nat := d.beats.length + d.early.length

/-- The destination that an input port is (R329, R334). -/
def State.inQueue (s : State) (p : PortId) : DestQueue :=
  match s.boundTo p with
  | some (_, c) => c.dests.getD (s.port p).dest { port := p }
  | none => { port := p }

/-- Tokens that lie in an input port's backing queue. -/
def State.inToks (s : State) (p : PortId) : List Tok := (s.inQueue p).toks

/-- The beats without their first k tokens. -/
def dropToks : Nat → List Beat → List Beat
  | 0, bs => bs
  | _, [] => []
  | k + 1, b :: bs =>
    if b.toks.length ≤ k + 1 then dropToks (k + 1 - b.toks.length) bs else { b with toks := b.toks.drop (k + 1) } :: bs

/-- A list with one entry replaced. -/
def listSet {α : Type} : List α → Nat → (α → α) → List α
  | [], _, _ => []
  | a :: as, 0, f => f a :: as
  | a :: as, k + 1, f => a :: listSet as k f

/-- The first k tokens of an input port's queue consumed (R334, R343). -/
def State.consume (s : State) (p : PortId) (k : Nat) : State :=
  match (s.port p).chan with
  | none => s
  | some c =>
    let n := elemCount ((s.inToks p).take k)
    (s.updChan c (fun ch => { ch with dests := listSet ch.dests (s.port p).dest (fun q => { q with beats := dropToks k q.beats }) })).updPort p
      (fun x => { x with moved := x.moved + BitVec.ofNat 32 n })

/-- A send placed in an output port's queue (R165, R342, R343). -/
def State.sendOn (s : State) (p : PortId) (toks : List Tok) : State :=
  match (s.port p).chan with
  | none => s
  | some c => (s.updChan c (fun ch => ch.enqueue toks)).updPort p (fun x => { x with moved := x.moved + BitVec.ofNat 32 (elemCount toks) })

/-- Room of an output port's queue, in beats; a port with no channel has none (R163, R450). -/
def State.roomAt (s : State) (p : PortId) : Nat :=
  match s.boundTo p with
  | some (_, c) => c.room
  | none => 0

/-- Whether every token is an end-of-stream: such a queue counts as empty for load completion (R337). -/
def onlyEos (toks : List Tok) : Bool := toks.all (fun t => t == .eos)

/-! ## Thresholds -/

/-- Whole thresholds that n more elements complete, and the count that remains (R341). -/
def thresholdHits (threshold count n : Nat) : Nat × Nat := if threshold = 0 then (0, 0) else ((count + n) / threshold, (count + n) % threshold)

/-- Elements counted at a tile port: its event counter gains one for each threshold met (R341). -/
def State.countPort (s : State) (p : PortId) (n : Nat) : State :=
  let x := s.port p
  if p.kind = .tile ∧ x.threshold ≠ 0 then
    let h := thresholdHits x.threshold.toNat x.count n
    let s1 := s.setPort p { x with count := h.2 }
    if h.1 = 0 then s1 else s1.addEvent ⟨p.die, p.index⟩ x.counter (BitVec.ofNat 32 h.1)
  else s

end Sys2Proof.Machine
end

