-- ==== Sys2Proof/Machine/Stops.lean ====
section
/-! DEFINITION. Poison and stops: origin words (R385), killing tasks (R31), and stopping a load (R386). -/

namespace Sys2Proof.Machine

/-! ## Poison -/

/-- The origin word of poison made on a tile: fault code, engine and the low bits of the command's address (R385). -/
def tileOrigin (code : FaultCode) (t : TileId) (engine addr : Nat) : Word64 :=
  BitVec.ofNat 64 (code.num * 2 ^ 56 + t.die / 8 % 32 * 2 ^ 51 + t.die % 8 * 2 ^ 48 + t.tile % 64 * 2 ^ 41 + engine * 2 ^ 39 + addr % 2 ^ 39)

/-- The origin word of poison made by an element: its slot and firing count (R355, R385). -/
def elementOrigin (code : FaultCode) (r : RegionId) (slot firings : Nat) : Word64 :=
  BitVec.ofNat 64 (code.num * 2 ^ 56 + r.die / 8 % 32 * 2 ^ 51 + r.die % 8 * 2 ^ 48 + 2 ^ 47 + r.region % 64 * 2 ^ 41 + slot % 1024 * 2 ^ 29 + firings % 2 ^ 29)

/-! ## Killing -/

/-- Whether a PLD that a save has discarded at its home waits for its translation (R247, R290). -/
def Access.awaits (a : Access) : Bool := a.kind == .pld && a.resend && a.blocks.isEmpty

/-- The entries of a die's fault queue that satisfy a test become answered (R380). -/
def Die.answer (d : Die) (p : FqEntry → Bool) : Die :=
  { d with fqPending := d.fqPending.map (fun e => if p e then { e with answered := true } else e), fqOpen := d.fqOpen.filter (fun e => !p e) }

/-- The task that an entry concerns, if any; the slot of a saved one may hold another (R412). -/
def FqEntry.task? (e : FqEntry) : Option TaskId :=
  match e.of with
  | .strand w => if e.saved.isSome then none else some w.task
  | _ => none

/-- Whether a task may be killed (R31). -/
def Task.live (t : Task) : Bool := t.status == .running || t.status == .draining

/-- A task that is killed: its commands are discarded, and with them a push kept pending (R31). -/
def Task.killed (t : Task) : Task :=
  { t with status := .killed, serac := { t.serac with queue := [], marks := [], pending := [] }
           moraine := { t.moraine with queue := [], marks := [], pending := [] } }

/-- A strand of a killed task (R30): Ended, its record answered and the waiting ones dropped (R34). -/
def Strand.killed (st : Strand) : Strand :=
  { st with status := .ended, fault := none, waiting := [], park := none, heldCount := 0, heldBy := none, cmdqOnly := false, needs := [], loops := [], gate := none }

/-- Live tasks are killed (R31): their strands end, their entries are answered, their deferred PLDs are dropped, and
their loads count them (R212). -/
def State.killTasks (s : State) (p : TaskId → Task → Bool) : State :=
  let ids := s.tasks.keysWhere (fun i t => t.live && p i t)
  let s1 : State := { s with
    tasks := s.tasks.mapVals (fun i t => if ids.contains i then t.killed else t)
    strands := s.strands.mapVals (fun i st => if ids.contains i.task then st.killed else st)
    net := s.net.filter (fun a => !(a.stage == .deferred || a.awaits) || !ids.contains a.who.task)
    dies := s.dies.mapVals (fun _ d => d.answer (fun e => match e.task? with | some t => ids.contains t | none => false)) }
  ids.foldl (fun x i => x.updLoad (s.task i).load (fun l => { l with tasksKilled := l.tasksKilled + 1 })) s1

/-! ## Sending a PLD again -/

/-- The leaf that maps a virtual address for the die itself: the tile's cache, or the tables (R240, R248). -/
def State.findLeaf (s : State) (t : TileId) (domain : BitVec 8) (va : Nat) : Except (Sum XFault Hold) TransEntry :=
  match (s.tile t).cached domain (va / 65536) with
  | some e => .ok e
  | none =>
    match s.walkTables t.die domain va with
    | .error f => .error (.inl f)
    | .ok (leaf, lvl) => .ok { domain := domain, block := va / pageSize lvl * (pageSize lvl / 65536), level := lvl, leaf := leaf }

/-- A discarded PLD as it comes back to its strand: not yet translated again (R247, R290). -/
def Access.unsent (a : Access) : Access := { a with stage := .sent, resend := true, blocks := [], refused := false }

/-- A discarded PLD translated and sent again (R241, R247, R290); a fault found then is an asynchronous record of its strand, as for a
command (R248, log entry 34), and it waits for the answer. -/
def State.resendPld (s : State) (num : Nat) : State :=
  match s.net.find? (fun a => a.num == num && a.awaits) with
  | none => s
  | some a =>
    let l := s.load (s.task a.who.task).load
    let fails (f : XFault) : State :=
      ({ s with net := s.net.map (fun x => if x.num = num then { x with refused := true } else x) } : State).raiseAsync a.who f.code 2 a.va f.detail
        a.addr (.pldSend num)
    match s.findLeaf a.who.tileId l.domain a.va.toNat with
    | .error (.inl f) => fails f
    | .error (.inr _) => s
    | .ok e =>
      match s.checkPart e.leaf e.level a.va.toNat 8 .presLoad l.domain l.priv with
      | .error f => fails f
      | .ok pa => { s with net := s.net.map (fun x => if x.num = num then
          { x with resend := false, refused := false, pa := pa, plane := s.planeOf a.who.die pa, keyid := leafKey e.leaf, blocks := [a.va.toNat / 65536] } else x) }

/-- The discarded PLDs of a die that no answer is awaited for are sent again, oldest first (R290), unless a rehash holds them (R263). -/
def State.resendPlds (s : State) (die : Nat) : State :=
  if (s.die die).phase ≠ 0 then s
  else ((s.net.filter (fun a => a.awaits && !a.refused && a.who.die == die)).map Access.num).foldl State.resendPld s

/-! ## Messages to a queue's function -/

/-- Graph queue number's function by QOWN: port and function (R441). -/
def State.queueOwner (s : State) (die queue : Nat) : Nat × Nat :=
  let q := (s.pkg (die / 8)).qown.get queue 0
  ((q.getLsbD 8).toNat, fld q 7 0)

/-- An MSI-X message to the function that a graph queue is assigned to (R229). -/
def State.signalQueue (s : State) (die queue vector : Nat) : State :=
  { s with msix := s.msix ++ [⟨die / 8, (s.queueOwner die queue).1, (s.queueOwner die queue).2, vector⟩] }

/-! ## Abandoning a save -/

/-- The loads of a queue's graph run on, on the dies of a test, as if no save had been asked for: their sources reopen, and their strands and
commands go on from where they stopped (R398, R431); what a save had already moved to Saved there moves back. -/
def State.reopen (s : State) (die queue : Nat) (on : Nat → Bool) : State :=
  let ours (l : LoadId) : Bool := l.die == die && l.queue == queue
  let g := s.saved.get ⟨die, queue⟩ { area := 0 }
  let plds : List Access := g.plds ++ (match (s.die die).preempt with | some p => p.plds | none => [])
  let entry (e : FqEntry) : FqEntry := match e.saved with | some l => if ours l then { e with saved := none } else e | none => e
  let back := plds.filter (fun a => on a.who.die)
  (back.map (fun a => a.who.die)).eraseDups.foldl State.resendPlds { s with
    loads := s.loads.mapVals (fun i l => if ours i then { l with gating := l.gating.filter (fun d => !on d) } else l)
    tasks := s.tasks.mapVals (fun i t => match g.tasks.find? (fun e => e.1 == i && on i.die) with | some e => if t.status = .saved then { t with status := e.2.status } else t | none => t)
    strands := s.strands.mapVals (fun i st =>
      if on i.die && ours (s.task i.task).load then
        { st with gate := none, whole := false
                  status := match st.status, g.strands.find? (fun e => e.1 == i) with | .saved, some e => e.2.status | x, _ => x }
      else st)
    regions := s.regions.mapVals (fun i r => match r.load with
      | some l =>
        if on i.die && ours l then
          { r with still := false
                   status := match r.status, g.regions.find? (fun e => e.1 == i) with
                     | .saved, some e => e.2.status
                     | .closing, _ => if r.swap.isNone ∧ (s.load l).gating.contains i.die ∧ (s.load l).stopping = false then .running else .closing
                     | x, _ => x }
        else r
      | none => r)
    net := s.net ++ back.map Access.unsent
    saved := s.saved.set ⟨die, queue⟩ { g with plds := g.plds.filter (fun a => !on a.who.die) }
    dies := s.dies.mapVals (fun i d => { d with
      fqPending := d.fqPending.map entry, fqOpen := d.fqOpen.map entry
      preempt := if i = die then d.preempt.map (fun p => { p with plds := p.plds.filter (fun a => !on a.who.die) }) else d.preempt }) }

/-- What the save of a load holds is given up; with the last saved load of its graph the graph is no longer saved. -/
def State.dropSaved (s : State) (l : LoadId) : State :=
  let q : QueueId := ⟨l.die, l.queue⟩
  let gone := s.tasks.keysWhere (fun _ t => t.status == .saved && t.load == l)
  let others := s.loads.entries.any (fun e => e.1 ≠ l && e.1.die == l.die && e.1.queue == l.queue && e.2.status == .saved)
  let s1 : State := { s with tasks := ⟨s.tasks.entries.filter (fun e => !gone.contains e.1)⟩
                             strands := ⟨s.strands.entries.filter (fun e => !gone.contains e.1.task)⟩ }
  if others then s1
  else ({ s1 with saved := s1.saved.erase q } : State).updQueue q (fun r => { r with graph := r.graph.map (fun g => { g with saved := false }) })

/-- The request of a die ends with a result (R397, R398): STATE, RESULT and the queue's message. -/
def State.endRequest (s : State) (die queue state result : Nat) : State :=
  (s.updDie die (fun d => { d with preempt := none, prState := BitVec.ofNat 8 state, prResult := BitVec.ofNat 8 result })).signalQueue die queue
    (s.queue ⟨die, queue⟩).vector.toNat

/-- A restore of a graph one of whose loads stops is abandoned, and so is a save whose step 5 has not been done (R398); a saved graph
is given up. -/
def State.abandonSave (s : State) (l : LoadId) : State :=
  let s1 := if (s.load l).status = .saved then s.dropSaved l else s
  let written := match s.saved.find? ⟨l.die, l.queue⟩ with | some g => g.header | none => false
  match (s.die l.die).preempt with
  | some p =>
    if p.queue = l.queue ∧ (p.restore ∨ (s.die l.die).prState ≠ 3 ∨ written = false) then
      let s2 := (if p.restore then s1 else s1.reopen l.die l.queue (fun _ => true)).endRequest l.die l.queue 0 5
      { s2 with
        saved := if p.restore then s2.saved else s2.saved.erase ⟨l.die, l.queue⟩
        loads := s2.loads.mapVals (fun i x =>
          if i.die = l.die ∧ i.queue = l.queue then { x with gang := x.gang.map (fun g => if g.kind = .start then g else { g with phase := 0 }) } else x) }
    else s1
  | none => s1

/-! ## Stopping a load -/

/-- Whether a load is in a final state (R226). -/
def LoadStatus.final : LoadStatus → Bool
  | .complete => true
  | .refused => true
  | .stopped => true
  | .skipped => true
  | .exited => true
  | _ => false

/-- A channel whose queues have been discarded (R228, R386). -/
def Channel.discarded (c : Channel) : Channel :=
  { c with outq := [], partialBeat := [], group := [], convOut := [], waiting := [], unacked := []
           dests := c.dests.map (fun d => { d with beats := [], early := [], off := false }) }

/-- What ends with a load's tasks: pending indices, regions' inputs, channel queues (R228, R386). -/
def State.closeLoad (s : State) (l : LoadId) : State :=
  let s1 := (s.killTasks (fun _ t => t.load == l)).updLoad l (fun x =>
    { x with grids := x.grids.map (fun g => { g with next := if g.next < g.count then g.count else g.next }) })
  { s1 with
    chans := s1.chans.mapVals (fun i c => if i.load = l then c.discarded else c)
    regions := s1.regions.mapVals (fun _ r =>
      if r.load = some l ∧ (r.status = .running ∨ r.status = .closing ∨ r.status = .swapping) then
        { r with status := .closing, gatedIn := true, swap := none, still := false, links := {}, elems := {} }
      else r) }

/-- A load stops (R386): it closes at once and its entry is on its way; a later stop only counts. A load that is final
does not stop. CYCLE is the present one of the tile that the entry names, tile 0 for a region or a die (R32, R378, log entry 32). -/
def State.stopLoad (s : State) (l : LoadId) (die tile : Nat) (r0 : Record) : State :=
  let x := s.load l
  let r := s.restamp ⟨die, tile⟩ r0
  if x.status.final then s
  else if x.stopping then s.updLoad l (fun y => { y with extra := y.extra + 1 })
  else
    (((s.abandonSave l).updLoad l (fun y => { y with stopping := true, record := r, reason := fld r.dw0 63 56 })).closeLoad l).raiseEntry die
      { of := .load l, kind := 1, record := r, tile := tile, queue := l.queue, load := l.load }

/-- The record of a poison stop at a command's sink (R386). -/
def State.sinkRecord (s : State) (who : StrandId) (engine : Engine) (addr origin : Word64) : Record :=
  let base := s.recordOf who .poisonIn true false (s.sectionOf who addr) 0 addr origin (BitVec.ofNat 32 (who.tile % 64 * 2 ^ 24))
  { base with dw0 := (base.dw0 &&& ~~~ (BitVec.ofNat 64 (3 * 2 ^ 54))) ||| BitVec.ofNat 64 (engine.num * 2 ^ 54) }

/-- Poison reaches a command's sink: its load stops (R386). -/
def State.poisonStop (s : State) (who : StrandId) (engine : Engine) (addr origin : Word64) : State :=
  s.stopLoad (s.task who.task).load who.die who.tile (s.sinkRecord who engine addr origin)

end Sys2Proof.Machine
end

