-- ==== Sys2Proof/Machine/Operands.lean ====
section
/-! DEFINITION. Operand positions: the forms that each mark admits (R40, R66, R136, R183, R198), what a word reads and
writes (R44), the values of its sources and the place of its results (R12, R67, R137), and tile-memory and global
addresses (R42). -/

namespace Sys2Proof.Machine

/-- What an operand position admits: the marks of R66, R136, R183 and R198, and the positions of R42. -/
inductive Mark where
  /-- — : 0x000. -/
  | none
  /-- Part of a long immediate (R41). -/
  | long
  | d
  | s
  | r
  /-- A scalar register that is a destination, with no queue form (R89, R285). -/
  | rd
  | p
  | e
  | n
  | v
  | w
  | k
  | inPort
  | outPort
  | acc
  /-- r or an input port (R170). -/
  | rOrIn
  /-- An accumulator tile, or the scalar-register form (R198). -/
  | y
  /-- A stride register (R193). -/
  | sr
  /-- 0x000 or an index in the scalar-register form (R42). -/
  | idx
  /-- The scalar-register form only (R145). -/
  | stride
  /-- A queue the strand may push, or may pop, or any queue (R93 to R95). -/
  | qpush
  | qpop
  | qany
  /-- A short immediate from 0 to 7 (R76). -/
  | imm3
deriving DecidableEq, Repr

/-- How E is checked when a word is decoded (R40, R138, R166, R183, R305). -/
inductive EMark where
  | zero
  | any
  /-- Lane control in [5:0]; [13:6] zero but for the bits of `free` (R138). -/
  | lanes (free : Nat)
  /-- A port: [4] direction, [2:0] number (R166, R340). -/
  | port
  /-- The completion field of Serac (R183). -/
  | serac
  /-- The completion field of Moraine; `swz` when the command admits a swizzle here (R305). -/
  | moraine (swz : Bool)
deriving DecidableEq, Repr

/-- A register that R44 item 6 counts. -/
inductive Res where
  | scalar (i : Nat)
  | pred (i : Nat)
  | vec (i : Nat)
  | mask (i : Nat)
  | nf (i : Nat)
  | event (i : Nat)
  | acc (i : Nat)
deriving DecidableEq, Repr

/-- The form of an instruction: what it admits, and what of it the checks and holds that all instructions share look
at. -/
structure Form where
  core : Option CoreId := none
  d : Mark := .none
  a : Mark := .none
  b : Mark := .none
  c : Mark := .none
  e : EMark := .zero
  fmts : List Nat := [0]
  mods : List Nat := [0]
  hint : Bool := false
  priv : Bool := false
  /-- A memory form of R42: base in A, and MOD[2] the post-increment. -/
  addr : Bool := false
  /-- Destinations that are read as well, or C as a destination. -/
  dRead : Bool := false
  cWrite : Bool := false
  /-- A is written: the event counter of EVADD and EVSET (R101). -/
  aWrite : Bool := false
  /-- The command's engine; none for an instruction that runs on its strand (R16). -/
  cmd : Option Engine := none
  /-- Further predicates read and written (R80). -/
  predsRead : Bool := false
  predsWritten : Bool := false
  /-- The narrow format named in E, an FMT code (R86, R159 to R161). -/
  srcFmt : Nat := 0
  /-- Further refusals that the word alone decides, with their WHERE, in order. -/
  extra : List (Nat × Bool) := []
deriving DecidableEq, Repr

/-- The 11 bits of the operand that must be zero when it is unused (R40). -/
def opndZero (o : Opnd) : Bool := encodeOpnd o == 0#11

/-- The scalar register that an operand names in either form (R39). -/
def scalarIndex : Opnd → Option Nat
  | .reg i => some i.toNat
  | .scalar _ i => some i.toNat
  | _ => none

/-- The port number of an operand code (R39). -/
def portNumber (c : BitVec 8) : Nat := c.toNat % 8

/-- Whether a mark admits an operand on a core (R40). A special register as a destination is left to R57 step 4. -/
def Mark.admits (m : Mark) (core : CoreId) (o : Opnd) : Bool :=
  match m, o with
  | .none, o => opndZero o
  | .long, _ => true
  | .d, .reg i => decide (i.toNat < 64)
  | .d, .scalar h _ => h == 0#2
  | .d, .queue c => match queueOfCode c with | some q => mayPush core q | Option.none => false
  | .d, .special c => decide (c.toNat ≤ 0x12)
  | .d, .imm _ => false
  | .s, .reg i => decide (i.toNat < 64)
  | .s, .scalar h _ => h == 0#2
  | .s, .imm _ => true
  | .s, .queue c => match queueOfCode c with | some q => mayPop core q | Option.none => false
  | .s, .special c => decide (c.toNat ≤ 0x12)
  | .r, .reg i => decide (i.toNat < 64)
  | .r, .scalar h _ => h == 0#2
  | .rd, .reg i => decide (i.toNat < 64)
  | .rd, .scalar h _ => h == 0#2
  | .rd, .special c => decide (c.toNat ≤ 0x12)
  | .p, .reg i => decide (i.toNat < 16)
  | .e, .reg i => decide (i.toNat < 64)
  | .n, .reg i => decide (i.toNat < 4)
  | .v, .reg _ => true
  | .w, .reg _ => true
  | .w, .scalar h _ => h == 0#2
  | .w, .imm _ => true
  | .k, .reg i => decide (i.toNat < 16)
  | .inPort, .queue c => core == .dusk && decide (0x10 ≤ c.toNat) && decide (c.toNat ≤ 0x17)
  | .outPort, .queue c => core == .dusk && decide (0x18 ≤ c.toNat) && decide (c.toNat ≤ 0x1F)
  | .acc, .reg i => decide (i.toNat < 8)
  | .rOrIn, .reg i => decide (i.toNat < 64)
  | .rOrIn, .scalar h _ => h == 0#2
  | .rOrIn, .queue c => core == .dusk && decide (0x10 ≤ c.toNat) && decide (c.toNat ≤ 0x17)
  | .y, .reg i => decide (i.toNat < 8)
  | .y, .scalar h _ => h == 0#2
  | .sr, .reg i => decide (i.toNat < 16)
  | .idx, .reg i => i == 0#10
  | .idx, .scalar h _ => h == 0#2
  | .stride, .scalar h _ => h == 0#2
  | .qpush, .queue c => match queueOfCode c with | some q => mayPush core q | Option.none => false
  | .qpop, .queue c => match queueOfCode c with | some q => mayPop core q | Option.none => false
  | .qany, .queue c => (queueOfCode c).isSome
  | .imm3, .imm x => decide (x.toNat ≤ 7)
  | _, _ => false

/-- The 25-bit long immediate (R41). -/
def imm25 (w : Fields) : Int := sext 25 ((encodeOpnd w.c).toNat * 2 ^ 14 + w.e.toNat)

/-- E as a signed immediate (R36). -/
def imm14 (w : Fields) : Int := sext 14 w.e.toNat

/-- The fault of a word refused in decoding: INFO and DETAIL hold the word (R33). -/
def illegal (op : BitVec 8) (w : Fields) (loc : Nat) (code : FaultCode := .illegalEnc) : Trap :=
  { code := code, loc := loc, info := (encodeStrand op w).extractLsb' 0 64, detail := (encodeStrand op w).extractLsb' 64 32 }

/-- A refusal at issue whose rule puts a value into INFO: DETAIL keeps R33's word bits [95:64]. -/
def refuseValue (op : BitVec 8) (w : Fields) (loc : Nat) (v : Word64) : Trap := { illegal op w loc with info := v }

/-! ## What a word reads and writes -/

/-- The registers an operand names under a mark (R44). -/
def Mark.res (m : Mark) (o : Opnd) : List Res :=
  match m, o with
  | .p, .reg i => if i = 0 then [] else [.pred i.toNat]
  | .n, .reg i => [.nf i.toNat]
  | .e, .reg i => [.event i.toNat]
  | .acc, .reg i => [.acc i.toNat]
  | .y, .reg i => [.acc i.toNat]
  | .v, .reg i => [.vec i.toNat]
  | .w, .reg i => [.vec i.toNat]
  | .w, .scalar _ i => [.scalar i.toNat]
  | .k, .reg i => [.mask i.toNat]
  | .y, .scalar _ i => [.scalar i.toNat]
  | .idx, .scalar _ i => [.scalar i.toNat]
  | .stride, .scalar _ i => [.scalar i.toNat]
  | .d, o => ((scalarIndex o).map Res.scalar).toList
  | .s, o => ((scalarIndex o).map Res.scalar).toList
  | .r, o => ((scalarIndex o).map Res.scalar).toList
  | .rd, o => ((scalarIndex o).map Res.scalar).toList
  | .rOrIn, o => ((scalarIndex o).map Res.scalar).toList
  | _, _ => []

/-- Whether a mark in the D position is a destination. -/
def Mark.isDest : Mark → Bool
  | .d => true
  | .rd => true
  | .p => true
  | .n => true
  | .v => true
  | .k => true
  | _ => false

/-- Predicate of a guard field, read unless it is p0 (R37). -/
def guardRes (g : BitVec 5) : List Res := if fld g 3 0 = 0 then [] else [.pred (fld g 3 0)]

/-- Whether E selects lanes by a mask (R138). -/
def laneMask (m : EMark) (e : BitVec 14) : Bool := match m with | .lanes _ => e.getLsbD 4 | _ => false

/-- The nf register of an FMT code (R46). -/
def nfRes (f : Nat) : List Res := if 10 ≤ f ∧ f ≤ 13 then [.nf (f - 10)] else []

/-- The special register that a word names in a destination position, if it names one that exists, and the position (R11,
R40). -/
def Form.specialDest (f : Form) (w : Fields) : Option (BitVec 8 × Nat) :=
  let names (o : Opnd) : Option (BitVec 8) := match o with | .special c => if c.toNat ≤ 0x12 then some c else none | _ => none
  match (if f.d.isDest ∨ f.d = .acc ∨ f.d = .y ∨ f.d = .outPort ∨ f.d = .qpush ∨ f.d = .sr then names w.d else none) with
  | some c => some (c, 1)
  | none => (if f.cWrite then names w.c else none).map (fun c => (c, 4))

/-- Registers that a word reads, guards included (R44 item 6, R21, R138). -/
def Form.reads (f : Form) (w : Fields) : List Res :=
  guardRes w.g0 ++ guardRes w.g1 ++ f.a.res w.a ++ f.b.res w.b ++ (if f.cWrite then [] else f.c.res w.c) ++
  (if f.d.isDest = false ∨ f.dRead ∨ (laneMask f.e w.e ∧ w.e.getLsbD 5 = false) then f.d.res w.d else []) ++
  (if laneMask f.e w.e then [.mask (fld w.e 3 0)] else []) ++
  (if f.predsRead then (List.range 8).map (fun i => .pred (8 + i)) else []) ++ nfRes w.fmt.toNat ++ nfRes f.srcFmt

/-- Registers that a word writes (R44 item 6). -/
def Form.writes (f : Form) (w : Fields) : List Res :=
  (if f.d.isDest ∨ f.d = .acc then f.d.res w.d else []) ++ (if f.cWrite then f.c.res w.c else []) ++
  (if f.aWrite then f.a.res w.a else []) ++
  (if f.addr ∧ w.mod.getLsbD 2 then f.a.res w.a else []) ++
  (if f.predsWritten then (List.range 8).map (fun i => .pred (8 + i)) else [])

/-- Scalar register numbers of a list. -/
def scalarsOf (rs : List Res) : List Nat := rs.filterMap (fun r => match r with | .scalar i => some i | _ => none)
/-- Vector register numbers of a list. -/
def vecsOf (rs : List Res) : List Nat := rs.filterMap (fun r => match r with | .vec i => some i | _ => none)
/-- Mask register numbers of a list. -/
def masksOf (rs : List Res) : List Nat := rs.filterMap (fun r => match r with | .mask i => some i | _ => none)

/-! ## Sources and destinations -/

/-- A special register as its strand reads it, W bits (R11). `a` is the address of the reading word. -/
def State.special (s : State) (who : StrandId) (a : Word64) (code : Nat) : Word64 :=
  let st := s.strand who
  let t := s.task who.task
  let v : Nat := match code with
    | 0x00 => a.toNat
    | 0x01 => a.toNat / 2 ^ 32
    | 0x02 => t.group.toNat
    | 0x03 => who.slot
    | 0x04 => who.tile
    | 0x05 => who.die % 8
    | 0x06 => who.die / 8
    | 0x07 => who.core.engine.num
    | 0x08 => s.cycleOf who.tileId
    | 0x09 => s.cycleOf who.tileId / 2 ^ 32
    | 0x0A => st.stkbase.toNat
    | 0x0B => st.stklim.toNat
    | 0x0C => t.tmBase
    | 0x0D => t.tmSize
    | 0x0E => st.faultCode.toNat
    | 0x0F => t.evBase
    | 0x10 => t.hdr.events
    | 0x11 => t.hdr.vframe
    | _ => st.sect
  toWidth who.core v

/-- Address of the word that executes: the strand's next word, or 12 beyond it in a pair's second (R37). -/
def State.wordAddr (s : State) : Word64 := if s.cur.pair.isSome then s.me.pc + 12 else s.me.pc

/-- A source in an integer position, a W-bit value (R12, R67). -/
def source (o : Opnd) : M Word64 := do
  let c ← theCore
  match o with
  | .reg i => return toWidth c (← readReg i.toNat).toNat
  | .scalar _ i => return toWidth c (← readReg i.toNat).toNat
  | .imm v => return intToWidth c (sext 8 v.toNat)
  | .special k => let s ← get; return s.special s.cur.strand s.wordAddr k.toNat
  | .queue k =>
    match queueOfCode k with
    | some q => return toWidth c (← popQueue q).toNat
    | none => return 0

/-- A source in an FP32 position: its bits, or the FP32 value of a short immediate (R67). -/
def sourceF32 (o : Opnd) : M Nat := do
  match o with
  | .imm v => return round (Num.ofInt (sext 8 v.toNat)) .f32 .rne
  | o => return (← source o).toNat % 2 ^ 32

/-- A result to its destination: a scalar register, or a queue (R12, R67). -/
def destine (o : Opnd) (v : Word64) : M Unit := do
  let c ← theCore
  match o with
  | .reg i => writeReg i.toNat v
  | .scalar _ i => writeReg i.toNat v
  | .queue k => match queueOfCode k with | some q => pushQueue q (toWidth c v.toNat) | none => pure ()
  | _ => pure ()

/-- Index of an operand in register form. -/
def opndIndex : Opnd → Nat
  | .reg i => i.toNat
  | .scalar _ i => i.toNat
  | _ => 0

/-- Value of a predicate operand, as it stood before the pair issued for a guard, now otherwise (R77). -/
def predOf (o : Opnd) : M Bool := do return (← theStrand).pred (opndIndex o)

/-! ## Addresses -/

/-- The address that a memory form uses and, for a post-increment, what its base becomes (R42). -/
def addressOf (w : Fields) : M (Word64 × Option Word64) := do
  let c ← theCore
  let base ← source w.a
  let off := intToWidth c (imm14 w)
  match w.b with
  | .scalar _ _ => return (toWidth c (base + (← source w.b)).toNat, none)
  | _ =>
    if w.mod.getLsbD 2 then return (base, some (toWidth c (base + off).toNat))
    else return (toWidth c (base + off).toNat, none)

/-- The same for a strided vector form, whose B is the stride (R145). -/
def addressOfStrided (w : Fields) : M (Word64 × Option Word64) := do
  let c ← theCore
  let base ← source w.a
  let off := intToWidth c (imm14 w)
  if w.mod.getLsbD 2 then return (base, some (toWidth c (base + off).toNat))
  else return (toWidth c (base + off).toNat, none)

/-- The base written back (R42). -/
def writeBack (w : Fields) (v : Option Word64) : M Unit :=
  match v with
  | some x => writeReg (opndIndex w.a) x
  | none => pure ()

/-- The checks of R28 on one access, in their order: the fault, if any. `stack` when the base is the stack pointer;
DETAIL is `size`. -/
def tileCheck (t : Task) (st : Strand) (stack : Bool) (a n size align : Nat) : Option Trap :=
  let info : Word64 := BitVec.ofNat 64 a
  let det : Word32 := BitVec.ofNat 32 size
  if a % align ≠ 0 then some { code := .misalign, loc := 2, info := info, detail := det }
  else if stack ∧ (a < st.stklim.toNat ∨ st.stkbase.toNat < a + n) then some { code := .stackLimit, loc := 2, info := info, detail := det }
  else if t.inBounds a n = false then some { code := .tilememBounds, loc := 2, info := info, detail := det }
  else none

/-- Whether a global access of a strand to one of n bytes of its tile is still to be performed (R237, R272). -/
def State.ownAhead (s : State) (who : StrandId) (a n : Nat) : Bool :=
  let pa := tilePa who.tileId a
  let meets (b z : Nat) : Bool := decide (b < pa + n) && decide (pa < b + z)
  s.net.any (fun x => decide (x.who = who) && x.left.isNone &&
    ((x.stage == .sent && meets x.pa x.size) || (x.kind == .stf && (x.stage == .sent || x.stage == .flag) && meets x.flagPa 8)))

/-- A tile-local access follows the earlier global accesses of its strand to its bytes (R237, R272). -/
def afterOwn (a n : Nat) : M Unit := do
  let s ← get
  holdUnless (!s.ownAhead s.cur.strand a n) .order

/-- Whether an operand names the strand's stack pointer (R28). -/
def isStackPointer (o : Opnd) : Bool := scalarIndex o == some 30

/-- The FMT of a word as an element format, an nf register read when the instruction issues; code 0 there is refused
(R46, R115). -/
def formatOf (op : BitVec 8) (w : Fields) (code loc : Nat) : M Format := do
  let t ← theTask
  match code with
  | 0 => return .raw
  | 1 => return .int true 32
  | 2 => return .int false 32
  | 3 => return .int true 16
  | 4 => return .int false 16
  | 5 => return .int true 8
  | 6 => return .int false 8
  | 7 => return .f32
  | 8 => return .bf16
  | 9 => return .f16
  | 14 => return .sc
  | k =>
    let v := t.nf.get (k - 10) 0
    trapIf (v == 0) (illegal op w loc)
    return .b8 v

end Sys2Proof.Machine
end

