-- ==== Sys2Proof/Machine/Flags.lean ====
section
/-! DEFINITION. Predicates: guards (R37), the conditions of CMP and FCMP (R77, R85) and the functions of PLOG (R79),
which the vector and stream operations share. -/

namespace Sys2Proof.Machine

/-- One guard against a strand's predicates (R37). -/
def guardHolds (preds : Nat → Bool) (g : BitVec 5) : Bool := preds (fld g 3 0) != g.getLsbD 4

/-- Whether an instruction executes (R37). -/
def executes (w : Fields) (preds : Nat → Bool) : Bool := guardHolds preds w.g0 && guardHolds preds w.g1

/-- The integer conditions of CMP on two w-bit values (R77). -/
def intCond (mod w x y : Nat) : Bool :=
  match mod with
  | 0 => x == y
  | 1 => x != y
  | 2 => decide (sext w x < sext w y)
  | 3 => decide (sext w x ≤ sext w y)
  | 4 => decide (x < y)
  | 5 => decide (x ≤ y)
  | 6 => x &&& y != 0
  | _ => x &&& y == 0

/-- The floating conditions of FCMP (R85); an unordered pair satisfies only .ne and .un. -/
def floatCond (mod : Nat) (x y : Num) : Bool :=
  let un := x.isNan || y.isNan
  match mod with
  | 0 => !un && x.eq y
  | 1 => un || !x.eq y
  | 2 => !un && x.lt y
  | 3 => !un && (x.lt y || x.eq y)
  | 4 => un
  | _ => !un

/-- The predicate functions of PLOG (R79). -/
def logicFn (mod : Nat) (a b : Bool) : Bool :=
  match mod with
  | 0 => a && b
  | 1 => a || b
  | 2 => xor a b
  | 3 => a && !b
  | 4 => !(a && b)
  | 5 => !(a || b)
  | 6 => !(xor a b)
  | _ => a || !b

/-- A condition into its predicate, and its complement into the second (R77, R85, R344). -/
def writeCond (d c : Opnd) (v : Bool) : M Unit := do
  writePred (opndIndex d) v
  writePred (opndIndex c) (!v)

end Sys2Proof.Machine
end

