-- ==== Sys2Proof/Machine/Forms.lean ====
section
/-! DEFINITION. The form of every instruction: the core, operand marks, FMT and MOD codes, E field and further refusals
that its chapter's encoding table gives (R49 to R55, R66 to R104, R142 to R166, R183, R198, R284 to R299, R304, R340,
R392). -/

namespace Sys2Proof.Machine

/-- MODs of a vector arithmetic instruction: the rounding modes under FP formats, else these (R139). -/
def arithMods (fmt : Nat) (int : List Nat) : List Nat := if 7 ≤ fmt then [0, 1, 2, 3, 4, 5] else int

/-- MODs of VCVT (R159): .wrap and .sat between integers, else the rounding modes. -/
def cvtMods (dst src : Nat) : List Nat := if dst ≤ 6 ∧ src ≤ 6 then [0, 1] else [0, 1, 2, 3, 4, 5]

/-- Whether VCVT refuses its source code: 0, reserved, or the destination's (R159). -/
def cvtSourceBad (dst src : Nat) : Bool := src == 0 || src == 15 || src == dst

/-- Whether FCVT refuses its E: bits above the code, a code not admitted, or not exactly one .f32 (R86). DESIGN CHOICE (log
entry 22): where FMT and E are both admitted and both or neither is .f32, E is blamed (WHERE 5), not FMT. -/
def fcvtSourceBad (dst src : Nat) : Bool :=
  decide (15 < src) || !([1, 2, 7, 8, 9, 10, 11, 12, 13, 14].contains src) || ((dst == 7) == (src == 7))

/-- Whether the E of VQNT or VDQNT has a bad group code or a set bit it must not have (R160, R161). -/
def groupFieldBad (e : BitVec 14) : Bool := decide (fld e 13 12 ≠ 0) || decide (fld e 5 0 ≠ 0) || decide (fld e 11 10 = 3)

/-- Whether SETNF refuses its short immediate: a bit above 5, or P outside 1 to 7 (R104). -/
def setnfImmBad (a : Opnd) : Bool :=
  match a with
  | .imm v => decide (63 < v.toNat) || !nfValid (BitVec.ofNat 6 v.toNat)
  | _ => false

/-- MODs of SBFLY and SCHAIN: rounding modes with a record destination, else 000 (R198). -/
def stageMods (d : Opnd) : List Nat := match d with | .scalar _ _ => [0, 1, 2, 3, 4, 5] | _ => [0]

/-- Whether a number names a register of R391 or R428. -/
def sysNumber (n : Nat) : Bool :=
  n == 0 || (0x10 ≤ n && n ≤ 0x1F) || (0x20 ≤ n && n ≤ 0x22) || (0x30 ≤ n && n ≤ 0x35) || n == 0x40 ||
  (0x50 ≤ n && n ≤ 0x53) || n == 0x60 || n == 0x70 || n == 0x80 || n == 0x81 ||
  (0x100 ≤ n && n < 0x110)

/-- The form of an instruction on a core. An element or event has none. -/
def formOf (c : CoreId) : Instr → Form
  | .nop _ => {  }
  | .mov _ => { d := .d, a := .s }
  | .movi _ => { d := .d, c := .long }
  | .movhi w => { d := .d, a := .s, c := .long, mods := [0, 1, 2, 3], extra := [(5, decide (bits (imm25 w % 2 ^ 25).toNat 24 16 ≠ 0)), (0, c == .dusk && decide (2 ≤ w.mod.toNat))] }
  | .add _ => { d := .d, a := .s, b := .s, e := .any, fmts := [0, 1, 2], mods := [0, 1] }
  | .sub _ => { d := .d, a := .s, b := .s, e := .any, fmts := [0, 1, 2], mods := [0, 1] }
  | .mul _ => { d := .d, a := .s, b := .s, fmts := [0, 1, 2], mods := [0, 1] }
  | .mulh _ => { d := .d, a := .s, b := .s, fmts := [0, 1, 2] }
  | .div _ => { d := .d, a := .s, b := .s, fmts := [0, 1, 2] }
  | .rem _ => { d := .d, a := .s, b := .s, fmts := [0, 1, 2] }
  | .and _ => { d := .d, a := .s, b := .s }
  | .or _ => { d := .d, a := .s, b := .s }
  | .xor _ => { d := .d, a := .s, b := .s }
  | .andn _ => { d := .d, a := .s, b := .s }
  | .shl _ => { d := .d, a := .s, b := .s, fmts := [0, 1, 2] }
  | .shr _ => { d := .d, a := .s, b := .s, fmts := [0, 1, 2] }
  | .sar _ => { d := .d, a := .s, b := .s, fmts := [0, 1, 2] }
  | .rol _ => { d := .d, a := .s, b := .s, fmts := [0, 1, 2] }
  | .min _ => { d := .d, a := .s, b := .s, fmts := [0, 1, 2] }
  | .max _ => { d := .d, a := .s, b := .s, fmts := [0, 1, 2] }
  | .abs _ => { d := .d, a := .s, fmts := [0, 1], mods := [0, 1] }
  | .neg _ => { d := .d, a := .s, fmts := [0, 1], mods := [0, 1] }
  | .clz _ => { d := .d, a := .s, fmts := [0, 1] }
  | .popc _ => { d := .d, a := .s, fmts := [0, 1] }
  | .bfx _ => { d := .d, a := .s, e := .any, fmts := [0, 1, 2] }
  | .bfi _ => { d := .d, a := .s, b := .s, e := .any }
  | .sel _ => { d := .d, a := .s, b := .s, c := .p }
  | .cmp _ => { d := .p, a := .s, b := .s, c := .p, fmts := [0, 1], mods := [0, 1, 2, 3, 4, 5, 6, 7], cWrite := true }
  | .plog _ => { d := .p, a := .p, b := .p, mods := [0, 1, 2, 3, 4, 5, 6, 7] }
  | .psave _ => { d := .d, predsRead := true }
  | .prest _ => { a := .s, predsWritten := true }
  | .cvtsx _ => { d := .d, a := .s, fmts := [1, 2, 3, 4, 5, 6] }
  | .lea _ => { core := some .dawn, d := .d, a := .s, b := .s, c := .imm3, e := .any, fmts := [0, 1, 2] }
  | .mad _ => { d := .d, a := .s, b := .s, c := .s, fmts := [0, 1, 2], mods := [0, 1] }
  | .ldt _ => { d := .d, a := .r, b := .idx, e := .any, fmts := [0, 1, 2, 3, 4, 5, 6], mods := [0, 4], addr := true }
  | .stt _ => { a := .r, b := .idx, c := .s, e := .any, fmts := [0, 1, 2, 3, 4, 5, 6], mods := [0, 4], addr := true }
  | .fadd _ => { core := some .dusk, d := .d, a := .s, b := .s, fmts := [7], mods := [0, 1, 2, 3, 4, 5] }
  | .fsub _ => { core := some .dusk, d := .d, a := .s, b := .s, fmts := [7], mods := [0, 1, 2, 3, 4, 5] }
  | .fmul _ => { core := some .dusk, d := .d, a := .s, b := .s, fmts := [7], mods := [0, 1, 2, 3, 4, 5] }
  | .ffma _ => { core := some .dusk, d := .d, a := .s, b := .s, c := .s, fmts := [7], mods := [0, 1, 2, 3, 4, 5] }
  | .fmin _ => { core := some .dusk, d := .d, a := .s, b := .s, fmts := [7] }
  | .fmax _ => { core := some .dusk, d := .d, a := .s, b := .s, fmts := [7] }
  | .fabs _ => { core := some .dusk, d := .d, a := .s, fmts := [7], mods := [0] }
  | .fneg _ => { core := some .dusk, d := .d, a := .s, fmts := [7], mods := [1] }
  | .fcmp _ => { core := some .dusk, d := .p, a := .s, b := .s, c := .p, fmts := [7], mods := [0, 1, 2, 3, 4, 5], cWrite := true }
  | .fcvt w => { core := some .dusk, d := .d, a := .s, e := .any, fmts := [1, 2, 7, 8, 9, 10, 11, 12, 13, 14], mods := [0, 1, 2, 3, 4, 5], srcFmt := fld w.e 3 0, extra := [(5, fcvtSourceBad w.fmt.toNat (fld w.e 13 0))] }
  | .fdiv _ => { core := some .dusk, d := .d, a := .s, b := .s, fmts := [7], mods := [0, 1, 2, 3, 4, 5] }
  | .fsqrt _ => { core := some .dusk, d := .d, a := .s, fmts := [7], mods := [0, 1, 2, 3, 4, 5] }
  | .frcp _ => { core := some .dusk, d := .d, a := .s, fmts := [7], mods := [0, 1, 2, 3, 4, 5] }
  | .br _ => { c := .long }
  | .jmp _ => { a := .s }
  | .call _ => { d := .rd, c := .long }
  | .callr _ => { d := .rd, a := .s }
  | .ret _ => { a := .s }
  | .loop w => { a := .s, c := .long, extra := [(5, decide (imm25 w ≤ 0) || decide (imm25 w % 3 ≠ 0))] }
  | .bcq _ => { core := some .dusk, c := .long, mods := [0, 1] }
  | .qpush w => { d := .qpush, a := if w.mod = 2 then .p else .s, b := if w.mod = 1 then .s else .none, mods := [0, 1, 2] }
  | .qpop w => { d := if w.mod = 2 then .p else .d, a := .qpop, c := if w.mod = 1 then .r else .none, mods := if c = .dusk then [0, 1, 2] else [0, 2], cWrite := w.mod == 1, extra := [(4, w.mod == 1 && scalarIndex w.d == scalarIndex w.c)] }
  | .qcount _ => { d := .d, a := .qany }
  | .twait w => { e := .any, mods := [0, 1, 2, 3], extra := [(0, decide (w.mod.toNat = c.engine.num)), (5, decide (fld w.e 13 6 ≠ 0) || decide (fld w.e 5 0 = 0))] }
  | .tsig w => { e := .any, mods := [0, 1, 2, 3], extra := [(0, decide (w.mod.toNat = c.engine.num)), (5, decide (fld w.e 13 6 ≠ 0) || decide (fld w.e 5 0 = 0))] }
  | .suspend _ => { a := .e, b := .s, c := .long }
  | .endStrand _ => {  }
  | .yield _ => {  }
  | .evrd _ => { d := .d, a := .e }
  | .evadd _ => { a := .e, b := .s, aWrite := true }
  | .evset _ => { a := .e, b := .s, aWrite := true }
  | .graise _ => { core := some .dawn, d := .d, a := .s }
  | .gread _ => { d := .d }
  | .setnf w => { d := .n, a := .s, extra := [(2, setnfImmBad w.a)] }
  | .tread w => { d := .d, e := .any, extra := [(5, decide (11 < fld w.e 13 0))] }
  | .ldg _ => { core := some .dawn, d := .rd, a := .r, b := .idx, e := .any, fmts := [0, 1, 2, 3, 4, 5, 6], mods := [0, 4], hint := true, addr := true }
  | .stg _ => { core := some .dawn, a := .r, b := .idx, c := .s, e := .any, fmts := [0, 1, 2, 3, 4, 5, 6], mods := [0, 4], hint := true, addr := true }
  | .ldc _ => { core := some .dawn, d := .rd, a := .r, b := .idx, e := .any, fmts := [0, 1, 2, 3, 4, 5, 6], mods := [0, 4], hint := true, addr := true }
  | .pld _ => { core := some .dawn, d := .rd, a := .r, b := .idx, e := .any, mods := [0, 4], hint := true, addr := true }
  | .pst _ => { core := some .dawn, a := .r, b := .idx, c := .s, e := .any, mods := [0, 4], hint := true, addr := true }
  | .prst _ => { core := some .dawn, a := .r, b := .idx, e := .any, mods := [0, 4], hint := true, addr := true }
  | .stf _ => { core := some .dawn, d := .r, a := .r, b := .idx, c := .s, e := .any, fmts := [0, 1, 2, 3, 4, 5, 6], mods := [0, 1, 4, 5], hint := true, addr := true }
  | .atadd _ => { core := some .dawn, d := .rd, a := .r, b := .idx, c := .s, e := .any, fmts := [0, 1, 2], mods := [0, 4], hint := true, addr := true }
  | .atand _ => { core := some .dawn, d := .rd, a := .r, b := .idx, c := .s, e := .any, fmts := [0, 1, 2], mods := [0, 4], hint := true, addr := true }
  | .ator _ => { core := some .dawn, d := .rd, a := .r, b := .idx, c := .s, e := .any, fmts := [0, 1, 2], mods := [0, 4], hint := true, addr := true }
  | .atxor _ => { core := some .dawn, d := .rd, a := .r, b := .idx, c := .s, e := .any, fmts := [0, 1, 2], mods := [0, 4], hint := true, addr := true }
  | .atmin _ => { core := some .dawn, d := .rd, a := .r, b := .idx, c := .s, e := .any, fmts := [0, 1, 2], mods := [0, 4], hint := true, addr := true }
  | .atmax _ => { core := some .dawn, d := .rd, a := .r, b := .idx, c := .s, e := .any, fmts := [0, 1, 2], mods := [0, 4], hint := true, addr := true }
  | .atswp _ => { core := some .dawn, d := .rd, a := .r, b := .idx, c := .s, e := .any, fmts := [0, 1, 2], mods := [0, 4], hint := true, addr := true }
  | .atcas _ => { core := some .dawn, d := .rd, a := .r, b := .idx, c := .s, e := .any, fmts := [0, 1, 2], mods := [0, 4], hint := true, addr := true, dRead := true }
  | .amaxx _ => { core := some .dawn, d := .rd, a := .r, b := .idx, e := .any, fmts := [0, 1, 2, 7], mods := [0, 4], hint := true, addr := true }
  | .atfadd _ => { core := some .dawn, d := .rd, a := .r, b := .idx, c := .s, e := .any, fmts := [7], mods := [0, 4], hint := true, addr := true }
  | .atfmax _ => { core := some .dawn, d := .rd, a := .r, b := .idx, c := .s, e := .any, fmts := [7], mods := [0, 4], hint := true, addr := true }
  | .fence _ => { mods := [0, 1, 2, 3, 4] }
  | .lfence _ => {  }
  | .pref _ => { core := some .dawn, a := .r, b := .idx, e := .any, mods := [0, 4], hint := true, addr := true }
  | .vld _ => { core := some .dusk, d := .v, a := .r, b := .idx, e := .any, fmts := [0, 1, 2, 3, 4, 5, 6, 7, 8, 9, 10, 11, 12, 13, 14], mods := [0, 1, 2, 4, 5, 6], addr := true }
  | .vst _ => { core := some .dusk, a := .r, b := .idx, c := .v, e := .any, fmts := [0, 1, 2, 3, 4, 5, 6, 7, 8, 9, 10, 11, 12, 13, 14], mods := [0, 1, 2, 4, 5, 6], addr := true }
  | .vlds _ => { core := some .dusk, d := .v, a := .r, b := .stride, e := .any, fmts := [0, 1, 2, 3, 4, 5, 6, 7, 8, 9, 10, 11, 12, 13, 14], mods := [0, 1, 2, 4, 5, 6], addr := true }
  | .vsts _ => { core := some .dusk, a := .r, b := .stride, c := .v, e := .any, fmts := [0, 1, 2, 3, 4, 5, 6, 7, 8, 9, 10, 11, 12, 13, 14], mods := [0, 1, 2, 4, 5, 6], addr := true }
  | .vldt _ => { core := some .dusk, d := .v, a := .r, b := .stride, e := .any, fmts := [0, 1, 2, 3, 4, 5, 6, 7, 8, 9, 10, 11, 12, 13, 14], mods := [0, 1, 2, 4, 5, 6], addr := true }
  | .vstt _ => { core := some .dusk, a := .r, b := .stride, c := .v, e := .any, fmts := [0, 1, 2, 3, 4, 5, 6, 7, 8, 9, 10, 11, 12, 13, 14], mods := [0, 1, 2, 4, 5, 6], addr := true }
  | .vmov _ => { core := some .dusk, d := .v, a := .w, e := .lanes 0 }
  | .vbcs _ => { core := some .dusk, d := .v, a := .s, e := .lanes 0, fmts := [0, 1, 2, 3, 4, 5, 6, 7, 8, 9, 10, 11, 12, 13, 14] }
  | .vadd w => { core := some .dusk, d := .v, a := .w, b := .w, e := .lanes 0, fmts := [0, 1, 2, 3, 4, 5, 6, 7, 8, 9], mods := arithMods w.fmt.toNat [0, 1] }
  | .vsub w => { core := some .dusk, d := .v, a := .w, b := .w, e := .lanes 0, fmts := [0, 1, 2, 3, 4, 5, 6, 7, 8, 9], mods := arithMods w.fmt.toNat [0, 1] }
  | .vmul w => { core := some .dusk, d := .v, a := .w, b := .w, e := .lanes 0, fmts := [0, 1, 2, 3, 4, 5, 6, 7, 8, 9], mods := arithMods w.fmt.toNat [0, 1, 2] }
  | .vfma w => { core := some .dusk, d := .v, a := .w, b := .w, c := .w, e := .lanes 0, fmts := [0, 1, 2, 3, 4, 5, 6, 7, 8, 9], mods := arithMods w.fmt.toNat [0, 1] }
  | .vmin _ => { core := some .dusk, d := .v, a := .w, b := .w, e := .lanes 0, fmts := [0, 1, 2, 3, 4, 5, 6, 7, 8, 9] }
  | .vmax _ => { core := some .dusk, d := .v, a := .w, b := .w, e := .lanes 0, fmts := [0, 1, 2, 3, 4, 5, 6, 7, 8, 9] }
  | .vabs w => { core := some .dusk, d := .v, a := .w, e := .lanes 0, fmts := [0, 1, 2, 3, 4, 5, 6, 7, 8, 9], mods := if 7 ≤ w.fmt.toNat then [0] else [0, 1] }
  | .vneg w => { core := some .dusk, d := .v, a := .w, e := .lanes 0, fmts := [0, 1, 2, 3, 4, 5, 6, 7, 8, 9], mods := if 7 ≤ w.fmt.toNat then [0] else [0, 1] }
  | .vand _ => { core := some .dusk, d := .v, a := .w, b := .w, e := .lanes 0 }
  | .vor _ => { core := some .dusk, d := .v, a := .w, b := .w, e := .lanes 0 }
  | .vxor _ => { core := some .dusk, d := .v, a := .w, b := .w, e := .lanes 0 }
  | .vshl _ => { core := some .dusk, d := .v, a := .w, b := .w, e := .lanes 0, fmts := [0, 1, 2, 3, 4, 5, 6] }
  | .vshr _ => { core := some .dusk, d := .v, a := .w, b := .w, e := .lanes 0, fmts := [0, 1, 2, 3, 4, 5, 6] }
  | .vsar _ => { core := some .dusk, d := .v, a := .w, b := .w, e := .lanes 0, fmts := [0, 1, 2, 3, 4, 5, 6] }
  | .vcmp w => { core := some .dusk, d := .k, a := .w, b := .w, e := .lanes 0, fmts := [0, 1, 2, 3, 4, 5, 6, 7, 8, 9], mods := if 7 ≤ w.fmt.toNat then [0, 1, 2, 3, 4, 5] else [0, 1, 2, 3, 4, 5, 6, 7] }
  | .vsel _ => { core := some .dusk, d := .v, a := .w, b := .w, c := .k, e := .lanes 0 }
  | .klog _ => { core := some .dusk, d := .k, a := .k, b := .k, mods := [0, 1, 2, 3, 4, 5, 6, 7] }
  | .kmov w => { core := some .dusk, d := if w.mod.toNat ≤ 1 then .k else .d, a := if w.mod = 1 then .s else .k, b := if w.mod = 1 ∨ w.mod = 2 then .s else .none, mods := [0, 1, 2, 3, 4], dRead := w.mod == 1 }
  | .vrotr _ => { core := some .dusk, d := .v, a := .v, b := .s, e := .lanes 0, mods := [0, 1] }
  | .vrotc _ => { core := some .dusk, d := .v, a := .v, b := .s, e := .lanes 0, mods := [0, 1] }
  | .vbcr _ => { core := some .dusk, d := .v, a := .v, b := .s, e := .lanes 0 }
  | .vbcc _ => { core := some .dusk, d := .v, a := .v, b := .s, e := .lanes 0 }
  | .vredr w => { core := some .dusk, d := .v, a := .v, e := .lanes 0, fmts := if 4 ≤ w.mod.toNat then [0] else [0, 1, 2, 3, 4, 5, 6, 7, 8, 9], mods := [0, 1, 2, 3, 4, 5] }
  | .vredc w => { core := some .dusk, d := .v, a := .v, e := .lanes 0, fmts := if 4 ≤ w.mod.toNat then [0] else [0, 1, 2, 3, 4, 5, 6, 7, 8, 9], mods := [0, 1, 2, 3, 4, 5] }
  | .vscnr _ => { core := some .dusk, d := .v, a := .v, e := .lanes 0, fmts := [0, 1, 2, 3, 4, 5, 6, 7, 8, 9], mods := [0, 1, 2, 3] }
  | .vscnc _ => { core := some .dusk, d := .v, a := .v, e := .lanes 0, fmts := [0, 1, 2, 3, 4, 5, 6, 7, 8, 9], mods := [0, 1, 2, 3] }
  | .vcvt w => { core := some .dusk, d := .v, a := .w, e := .lanes 0xF, fmts := [1, 2, 3, 4, 5, 6, 7, 8, 9, 10, 11, 12, 13, 14], mods := cvtMods w.fmt.toNat (fld w.e 9 6), srcFmt := fld w.e 9 6, extra := [(2, decide (10 ≤ fld w.e 9 6) && (match w.a with | .imm _ => true | _ => false)), (5, cvtSourceBad w.fmt.toNat (fld w.e 9 6))] }
  | .vqnt w => { core := some .dusk, d := .v, a := .v, c := .v, e := .any, fmts := [10, 11, 12, 13], mods := [0, 1, 2, 3, 4, 5], cWrite := true, extra := [(5, groupFieldBad w.e || decide (fld w.e 9 6 < 7) || decide (9 < fld w.e 9 6)), (4, opndIndex w.c == opndIndex w.d)] }
  | .vdqnt w => { core := some .dusk, d := .v, a := .v, c := .v, e := .any, fmts := [7, 8, 9], mods := [0, 1, 2, 3, 4, 5], srcFmt := fld w.e 9 6, extra := [(5, groupFieldBad w.e || decide (fld w.e 9 6 < 10) || decide (13 < fld w.e 9 6))] }
  | .vexp _ => { core := some .dusk, d := .v, a := .w, e := .lanes 0, fmts := [7, 8, 9], mods := [0, 1, 2, 3, 4, 5] }
  | .vlog _ => { core := some .dusk, d := .v, a := .w, e := .lanes 0, fmts := [7, 8, 9], mods := [0, 1, 2, 3, 4, 5] }
  | .vrcp _ => { core := some .dusk, d := .v, a := .w, e := .lanes 0, fmts := [7, 8, 9], mods := [0, 1, 2, 3, 4, 5] }
  | .vrsq _ => { core := some .dusk, d := .v, a := .w, e := .lanes 0, fmts := [7, 8, 9], mods := [0, 1, 2, 3, 4, 5] }
  | .vtanh _ => { core := some .dusk, d := .v, a := .w, e := .lanes 0, fmts := [7, 8, 9], mods := [0, 1, 2, 3, 4, 5] }
  | .vextr _ => { core := some .dusk, d := .d, a := .v, b := .s }
  | .vins _ => { core := some .dusk, d := .v, a := .s, b := .s, dRead := true }
  | .vpop w => { core := some .dusk, d := .v, a := .inPort, b := .s, c := if w.mod = 1 then .v else .none, fmts := if w.mod = 0 then List.range 15 else if w.mod = 1 then [1, 2, 3, 4, 5, 6, 7, 8, 9, 10, 11, 12, 13] else [8, 9, 10, 11, 12, 13], mods := [0, 1, 2], dRead := true, cWrite := true }
  | .vpush w => { core := some .dusk, d := .outPort, a := .v, b := .s, c := if w.mod = 1 then .v else .none, fmts := if w.mod = 0 then List.range 15 else if w.mod = 1 then [1, 2, 3, 4, 5, 6, 7, 8, 9, 10, 11, 12, 13] else [8, 9, 10, 11, 12, 13], mods := [0, 1, 2] }
  | .pscl _ => { core := some .dusk, a := .s, e := .port }
  | .vswz w => { core := some .dusk, d := .v, a := .v, b := if w.mod = 2 then .s else .v, e := .lanes 0, mods := [0, 1, 2] }
  | .smm _ => { core := some .dusk, d := .acc, a := .rOrIn, b := .rOrIn, c := .r, e := .serac, cmd := some .serac }
  | .smmz _ => { core := some .dusk, d := .acc, a := .rOrIn, b := .rOrIn, c := .r, e := .serac, cmd := some .serac }
  | .saccrd _ => { core := some .dusk, a := .acc, b := .r, c := .r, e := .serac, mods := [0, 1, 2, 3, 4, 5], cmd := some .serac }
  | .saccwr _ => { core := some .dusk, d := .acc, a := .r, b := .r, e := .serac, cmd := some .serac }
  | .saccz _ => { core := some .dusk, d := .acc, e := .serac, cmd := some .serac }
  | .sscl _ => { core := some .dusk, a := .s, e := .serac, cmd := some .serac }
  | .smode _ => { core := some .dusk, a := .s, e := .serac, cmd := some .serac }
  | .sprog _ => { core := some .dusk, d := .d, a := .acc }
  | .sbfly w => { core := some .dusk, d := .y, a := .y, b := .y, c := .r, e := .serac, mods := stageMods w.d, cmd := some .serac }
  | .schain w => { core := some .dusk, d := .y, a := .y, b := .y, c := .r, e := .serac, mods := stageMods w.d, cmd := some .serac }
  | .sstr _ => { core := some .dusk, d := .sr, a := .s, b := .s, e := .serac, cmd := some .serac }
  | .sbwl _ => { core := some .dusk, d := .acc, a := .r, b := .r, e := .serac, cmd := some .serac }
  | .saccv _ => { core := some .dusk, d := .v, a := .acc, b := .s, c := .s, e := .serac, cmd := some .serac }
  | .svacc _ => { core := some .dusk, d := .acc, a := .v, b := .s, c := .s, e := .serac, cmd := some .serac }
  | .mcpy w => { core := some .dawn, d := .r, a := .r, b := .s, e := .moraine (false), mods := [0, 1, 2, 3], hint := w.mod != 3, cmd := some .moraine }
  | .mcpy2 w => { core := some .dawn, d := .r, a := .r, b := .r, c := .r, e := .moraine (w.mod != 0), mods := [0, 1, 2, 3], hint := w.mod != 3, cmd := some .moraine }
  | .mgth w => { core := some .dawn, d := .r, a := .r, b := .r, c := .r, e := .moraine (w.mod.getLsbD 1), mods := [0, 1, 2, 3, 4, 5, 6, 7], hint := w.mod != 7, cmd := some .moraine }
  | .msct w => { core := some .dawn, d := .r, a := .r, b := .r, c := .r, e := .moraine (w.mod.getLsbD 0), mods := [0, 1, 2, 3, 4, 5, 6, 7], hint := w.mod != 7, cmd := some .moraine }
  | .mspg w => { core := some .dawn, d := .r, a := .r, b := .r, c := .r, e := .moraine (w.mod.getLsbD 1), mods := [0, 1, 2, 3, 4, 5, 6, 7], hint := w.mod != 7, cmd := some .moraine }
  | .mfill w => { core := some .dawn, d := .r, b := .s, c := .s, e := .moraine (false), mods := [0, 2], hint := w.mod != 2, cmd := some .moraine }
  | .mm2c w => { core := some .dawn, d := if w.mod.getLsbD 1 then .r else .none, a := .r, b := .s, c := .s, e := .moraine (false), fmts := [0, 1, 2, 3, 4, 5, 6, 7, 8, 9, 10, 11, 12, 13, 14], mods := [0, 1, 2, 3, 4, 5, 6, 7], hint := !w.mod.getLsbD 0, cmd := some .moraine }
  | .mc2m w => { core := some .dawn, d := if w.mod.getLsbD 1 then .r else .none, a := .r, b := .s, c := .s, e := .moraine (false), fmts := [0, 1, 2, 3, 4, 5, 6, 7, 8, 9, 10, 11, 12, 13, 14], mods := [0, 1, 2, 3, 4, 5, 6, 7], hint := !w.mod.getLsbD 0, cmd := some .moraine }
  | .mnest w => { core := some .dawn, d := .r, a := .r, b := .r, e := .moraine (w.mod != 0), mods := [0, 1, 2, 3], hint := w.mod != 3, cmd := some .moraine }
  | .mstat _ => { core := some .dawn, d := .d, a := .s, mods := [0, 1] }
  | .pthr _ => { core := some .dusk, a := .e, b := .s, e := .port }
  | .peos _ => { core := some .dusk, d := .outPort }
  | .pord _ => { core := some .dusk, d := .outPort }
  | .pstat _ => { core := some .dusk, d := .d, e := .port, mods := [0, 1, 2, 3] }
  | .ptst w => { core := some .dusk, d := .p, b := if w.mod = 0 then .s else .none, c := .p, e := .port, mods := [0, 1, 2], cWrite := true, extra := [(5, w.mod != 0 && w.e.getLsbD 4)] }
  | .pdrn _ => { core := some .dusk, d := .d, a := .inPort }
  | .ptyp _ => { core := some .dusk, d := .d, e := .port, mods := [0, 1] }
  | .sysrd w => { d := .d, e := .any, mods := if c = .dusk then [0, 1] else [0], extra := [(5, decide (fld w.e 13 12 ≠ 0) || !sysNumber (fld w.e 11 0))] }
  | .syswr w => { a := .s, e := .any, mods := if c = .dusk then [0, 1] else [0], priv := true, extra := [(5, decide (fld w.e 13 12 ≠ 0) || !sysNumber (fld w.e 11 0))] }
  | .setstk _ => { a := .s, b := .s, priv := true }
  | .trap _ => { a := .s, e := .any }
  | .bkpt _ => { e := .any }
  | .monrd _ => { d := .d, a := .s, mods := if c = .dusk then [0, 1] else [0] }
  | .moncfg _ => { a := .s, b := .s, priv := true }
  | .ctxsv _ => { d := .d, a := .s, b := .r, priv := true }
  | .ctxld _ => { d := .d, a := .s, b := .r, priv := true }
  | .halt _ => { priv := true }
  | .unassigned _ _ => {}
  | .elSource _ => {}
  | .elSink _ => {}
  | .elCopy _ => {}
  | .elQbuf _ => {}
  | .elConst _ => {}
  | .elAdd _ => {}
  | .elSub _ => {}
  | .elMul _ => {}
  | .elFma _ => {}
  | .elMin _ => {}
  | .elMax _ => {}
  | .elLogic _ => {}
  | .elCmp _ => {}
  | .elCvt _ => {}
  | .elLut _ => {}
  | .elUnpack _ => {}
  | .elPack _ => {}
  | .elZenc _ => {}
  | .elZdec _ => {}
  | .elDelta _ => {}
  | .elBqnt _ => {}
  | .elBdqnt _ => {}
  | .elExpadd _ => {}
  | .elTopk _ => {}
  | .elCount _ => {}
  | .elSteer _ => {}
  | .elMerge _ => {}
  | .elCarry _ => {}
  | .suspendWake => {}
  | .autoPark => {}
  | .autoParkWake => {}
  | .graiseApply => {}
  | .globalAccessPerform => {}
  | .globalReplyArrival => {}
  | .globalAckArrival => {}
  | .fenceRetire => {}
  | .translationWalkComplete => {}
  | .layoutRecordCacheFill => {}
  | .seracCommandStart => {}
  | .seracBlockStaged => {}
  | .seracCommandComplete => {}
  | .moraineCommandStart => {}
  | .moraineCommandComplete => {}
  | .gridDispatch => {}
  | .taskStrandsStart => {}
  | .taskDone => {}
  | .taskSlotFree => {}
  | .graphQueueEnable => {}
  | .graphQueueTailWrite => {}
  | .graphEntryRead => {}
  | .loadConfigure => {}
  | .regionImageVerified => {}
  | .loadStart => {}
  | .loadComplete => {}
  | .loadExit => {}
  | .graphComplete => {}
  | .xinvStart => {}
  | .xinvComplete => {}
  | .planeRetirePlanned => {}
  | .planeFaultDetect => {}
  | .planeStallTimeout => {}
  | .rehashStop => {}
  | .rehashDrained => {}
  | .rehashCommit => {}
  | .rehashCommitted => {}
  | .rehashResume => {}
  | .channelPacketSend => {}
  | .channelPacketArrive => {}
  | .channelAck => {}
  | .channelOff => {}
  | .channelOn => {}
  | .elementSpecialToken => {}
  | .regionOutputPortTake => {}
  | .regionConfigError => {}
  | .regionSwapRequest => {}
  | .regionSwapImageChecked => {}
  | .regionSwapIdle => {}
  | .regionSwapTimeout => {}
  | .preemptSaveRequest => {}
  | .preemptRestoreRequest => {}
  | .preemptQtoExpire => {}
  | .regionStillTimeout => {}
  | .preemptQuiescent => {}
  | .preemptSaveComplete => {}
  | .preemptRestoreComplete => {}
  | .faultEntryWrite => {}
  | .fqctlEnable => {}
  | .fqResume => {}
  | .fqResumeStack => {}
  | .fqResumeAt => {}
  | .fqKill => {}
  | .fqStopLoad => {}
  | .fqContinue => {}
  | .deadlockDetect => {}
  | .loadStop => {}
  | .loadStopped => {}
  | .scrubUncorrectable => {}
  | .hostMemoryRequest => {}
  | .hostAtomic => {}
  | .functionLevelReset => {}
  | .registerWrite => {}
  | .tilehaltWrite => {}
  | .ownClaim => {}
  | .ownHandover => {}
  | .ownerVacancyTimeout => {}
  | .boot => {}
  | .fwRecovery => {}
  | .mbInstallKey => {}
  | .mbAttest => {}
  | .mbLoadEncKey => {}
  | .mbUpdateFw => {}
  | .pwrtileWrite => {}
  | .pwrregWrite => {}
  | .powerUpComplete => {}
  | .tileClockGate => {}
  | .thermalThrottle => {}
  | .thermalReset => {}
  | .laneRemove => {}
  | .linkTurnaround => {}
  | .pkgIndexClash => {}
  | .ringSlotArrive => {}
  | .incastResend => {}
  | .gangArm => {}
  | .gangAck => {}
  | .gangCommit => {}
  | .gangCommitted => {}
  | .gangAbort => {}
  | .gangWindowExpire => {}
  | .sealedOperatorFire => {}
  | .linkRetrainComplete => {}
  | .hostLinkDown => {}
  | .bridgeLinkTrained => {}

end Sys2Proof.Machine
end

