-- ==== Sys2Proof/Machine/Commands.lean ====
section
/-! DEFINITION. Engine commands in their queues: POPs and PUSHes (R16, R17), what a command names, its extents (R306),
and when it may start (R169, R205, R308). -/

namespace Sys2Proof.Machine

/-- The fields of a command's word. -/
def Command.word (c : Command) : Fields :=
  match c.instr.strandWord with
  | some (_, w) => w
  | none => default

/-- The engine's own share of a task. -/
def Task.engineState (t : Task) : Engine → EngineState
  | .serac => t.serac
  | _ => t.moraine

/-- The task with an engine's share replaced. -/
def Task.setEngineState (t : Task) (e : Engine) (x : EngineState) : Task :=
  match e with
  | .serac => { t with serac := x }
  | _ => { t with moraine := x }

/-- The core whose strand issues an engine's commands (R7). -/
def issuerOf : Engine → CoreId
  | .serac => .dusk
  | _ => .dawn

/-- Command slots of a task on an engine (R215). -/
def slotsOf : Engine → Nat
  | .serac => 8
  | _ => 16

/-- Whether the tokens that a command's POP takes are present (R16). -/
def popMet (t : Task) (e : Engine) (c : Command) : Bool :=
  let p := tokenField c.word.pop
  c.popTaken || p.2 == 0 || decide (p.2 ≤ t.token (tokenIndex p.1 e))

/-- A command's POP (R16). -/
def State.takePop (s : State) (i : TaskId) (e : Engine) (c : Command) : State :=
  let p := tokenField c.word.pop
  if c.popTaken ∨ p.2 = 0 then s else s.popTokens i (tokenIndex p.1 e) p.2

/-! ## Serac -/

/-- Tiles of a butterfly view of `words` FP32 words from a first tile (R194). -/
def viewTiles (first words : Nat) : List Nat := (List.range ((words + 16383) / 16384)).map (fun i => first + i)

/-- Accumulator tile that a Y operand names, if it names one (R198). -/
def accOperand : Opnd → Option Nat
  | .reg i => some i.toNat
  | _ => none

/-- Fields of a configuration word (R199). -/
def cfgN (cfg : Word64) : Nat := 2 ^ fld cfg 3 0
def cfgRows (cfg : Word64) : Nat := fld cfg 10 4 + 1
def cfgStages (cfg : Word64) : Nat := fld cfg 19 16 + 1
def cfgWstage (cfg : Word64) : Nat := fld cfg 27 20
def cfgWork (cfg : Word64) : Nat := fld cfg 30 28

/-- The ranges of a butterfly command's operands (R194, R197): source, weights, work, destination. -/
def butterflyRange (o : Opnd) (cfg : Word64) : List Nat :=
  match accOperand o with
  | some t => viewTiles t (cfgRows cfg * cfgN cfg)
  | none => []

def weightRange (o : Opnd) (cfg : Word64) : List Nat :=
  match accOperand o with
  | some t => viewTiles t (2 * cfgN cfg * (cfgWstage cfg + cfgStages cfg))
  | none => []

def workRange (cfg : Word64) : List Nat :=
  if cfgStages cfg = 1 then [] else viewTiles (cfgWork cfg) (cfgRows cfg * cfgN cfg)

/-- Accumulator tiles that a Serac command names (R169, R202, R205). -/
def seracTiles (accs : Nat) (c : Command) : List Nat :=
  if c.null then []
  else
    match c.instr with
    | .smm w => [opndIndex w.d]
    | .smmz w => [opndIndex w.d]
    | .saccrd w => [opndIndex w.a]
    | .saccwr w => [opndIndex w.d]
    | .saccz w => [opndIndex w.d]
    | .saccv w => [opndIndex w.a]
    | .svacc w => [opndIndex w.d]
    | .sbwl w => (List.range accs).filter (fun i => decide (opndIndex w.d ≤ i))
    | .sbfly w => butterflyRange w.a c.vc ++ weightRange w.b c.vc ++ butterflyRange w.d c.vc
    | .schain w => butterflyRange w.a c.vc ++ weightRange w.b c.vc ++ workRange c.vc ++ butterflyRange w.d c.vc
    | _ => []

/-- Whether a command is SMM or SMMZ. -/
def isSmm (c : Command) : Bool :=
  match c.instr with
  | .smm _ => true
  | .smmz _ => true
  | _ => false

/-- Input ports that an SMM or SMMZ names, with the operand (2 A, 3 B) of each (R170). -/
def smmPorts (c : Command) : List (Nat × Nat) :=
  if c.null ∨ isSmm c = false then []
  else
    (match c.word.a with | .queue k => [(2, portNumber k)] | _ => []) ++
    (match c.word.b with | .queue k => [(3, portNumber k)] | _ => [])

/-- Whether a command is SSTR, which a later SCHAIN waits for (R205). -/
def isSstr (c : Command) : Bool := match c.instr with | .sstr _ => !c.null | _ => false
def isSchain (c : Command) : Bool := match c.instr with | .schain _ => !c.null | _ => false

/-- Whether a command reads its accumulator tile and never writes it: an SMM need not wait for it (R169). -/
def isAccRead (c : Command) : Bool :=
  match c.instr with
  | .saccrd _ => true
  | .saccv _ => true
  | _ => false

/-- Whether R169 and R205 let a Serac command start behind an earlier one that has not completed. -/
def seracBehind (accs : Nat) (earlier c : Command) : Bool :=
  let shared := (seracTiles accs c).any (fun t => (seracTiles accs earlier).contains t)
  let ports := (smmPorts c).any (fun p => (smmPorts earlier).any (fun q => q.2 == p.2))
  !(shared && !(isSmm c && (isSmm earlier || isAccRead earlier))) && !ports && !(isSchain c && isSstr earlier)

/-- The first command of a queue that has not started, with those before it. -/
def headCommand : List Command → Option (List Command × Command)
  | [] => none
  | c :: cs => if c.started then (headCommand cs).map (fun x => (c :: x.1, x.2)) else some ([], c)

/-- Whether Serac may start a command of a task but for its POP: order, no refused command before it, no pending push
(R17, R169, R181). -/
def seracMayStart (t : Task) (earlier : List Command) (c : Command) : Bool :=
  earlier.all (fun e => seracBehind t.hdr.accs e c && !e.refused) && t.serac.pending.isEmpty && !c.refused

/-! ## Moraine -/

/-- A byte range of a command: its side, its space, its first byte and its length (R306), and whether every access that the command
makes in it is one aligned doubleword, as the control space demands (R438). -/
structure Extent where
  write : Bool
  inTile : Bool
  lo : Int
  len : Nat
  words : Bool := true
deriving DecidableEq, Repr

/-- Pieces of a range that end at aligned boundaries: first address and length (R303). -/
def piecesOf (align : Nat) (lo len : Nat) : List (Nat × Nat) :=
  if len = 0 then []
  else (List.range ((lo + len - 1) / align - lo / align + 1)).map (fun k =>
    let a := if k = 0 then lo else (lo / align + k) * align
    (a, min (lo + len) ((lo / align + k + 1) * align) - a))

/-- Whether an access is one aligned doubleword (R438). -/
def isWord (p : Nat × Nat) : Bool := p.1 % 8 == 0 && p.2 == 8

/-- Whether runs of `len` bytes from `lo` and its strides on are made of accesses of one aligned doubleword: one of 8 bytes, or two on either
side of a granule's end (R303, R438). -/
def wordRuns (lo : Int) (len : Nat) (strides : List (Nat × Int)) : Bool :=
  let steps (m : Int) : Bool := strides.all (fun c => decide (c.1 ≤ 1) || c.2 % m == 0)
  len == 0 || (len == 8 && lo % 8 == 0 && steps 8) || (len == 16 && lo % 64 == 56 && steps 64)

/-- Bytes of a copy or fill that lie before chunk k: chunks are the aligned 4 KiB of the destination (R313). -/
def chunkStart (d len k : Nat) : Nat := if k = 0 then 0 else min len ((d / 4096 + k) * 4096 - d)

/-- Chunks of a copy or fill. -/
def chunkCount (d len : Nat) : Nat := if len = 0 then 0 else (d + len - 1) / 4096 - d / 4096 + 1

/-- Whether the accesses of a copy's source, which its destination's chunks cut too, are each one aligned doubleword (R303, R438). -/
def wordCopy (a d len : Nat) : Bool :=
  decide (len ≤ 64) && (List.range (chunkCount d len)).all (fun k =>
    (piecesOf 64 (a + chunkStart d len k) (chunkStart d len (k + 1) - chunkStart d len k)).all isWord)

/-- The span of strided ranges (R306). -/
def span (b : Word64) (len : Nat) (cs : List (Nat × Int)) : Int × Nat :=
  if len = 0 ∨ cs.any (fun c => c.1 == 0) then ((b.toNat : Int), 0)
  else
    let lo := cs.foldl (fun a c => a + min 0 (((c.1 : Int) - 1) * c.2)) (b.toNat : Int)
    let hi := cs.foldl (fun a c => a + max 0 (((c.1 : Int) - 1) * c.2)) ((b.toNat : Int) + len)
    (lo, (hi - lo).toNat)

/-- A signed 64-bit doubleword. -/
def signed64 (v : Word64) : Int := v.toInt

/-- Count of a nest level: levels beyond NLV act with a count of 1 (R315). -/
def nestCount (d : List Word64) (lvl : Nat) : Nat :=
  if fld (dw d 0) 59 58 < lvl then 1 else fld (dw d 7) (16 * lvl - 1) (16 * lvl - 16)

/-- Index width of a descriptor (R316). -/
def indexWidth (d0 : Word64) : Nat := match fld d0 59 58 with | 1 => 2 | 2 => 8 | _ => 4

/-- Element size of a sparse descriptor (R317). -/
def sparseSize (d0 : Word64) : Nat := 2 ^ fld d0 57 56

/-- The nest descriptor that MCPY2 stands for (R315). -/
def nestOfShape (shape strides : Word64) : List Word64 :=
  [BitVec.ofNat 64 (2 ^ 60 + 2 ^ 58 + fld shape 31 0), (strides.extractLsb' 0 32).signExtend 64,
   (strides.extractLsb' 32 32).signExtend 64, 0, 0, 0, 0, BitVec.ofNat 64 (fld shape 47 32)]

/-- Bytes of an element of MM2C and MC2M (R142). -/
def elemBytes (fmt : Nat) : Nat := if fmt ≤ 2 ∨ fmt = 7 then 4 else if fmt ≤ 4 ∨ fmt = 8 ∨ fmt = 9 then 2 else 1

/-- Streamer endpoint of MM2C or MC2M. -/
def streamerOf (t : TileId) (c : Command) : Option PortId :=
  match c.instr with
  | .mm2c _ => some (streamerPort t true (c.vb.toNat % 16))
  | .mc2m _ => some (streamerPort t false (c.vb.toNat % 16))
  | _ => none

/-- Group of a streamer's channel, for its scale array (R318). -/
def State.streamGroup (s : State) (p : PortId) : Nat := (typeGroup (s.portType p)).getD 0

/-- A range of bytes as an extent. -/
def flatExtent (write inTile : Bool) (v : Word64) (n : Nat) (words : Bool) : Extent := ⟨write, inTile, (v.toNat : Int), n, words⟩

/-- A span of strided runs as an extent (R306). -/
def spanExtent (write inTile : Bool) (b : Word64) (len : Nat) (cs : List (Nat × Int)) : Extent :=
  let r := span b len cs
  ⟨write, inTile, r.1, r.2, wordRuns b.toNat len cs⟩

/-- The source and destination of a nest of runs with counts c1, c2 and c3 from its own bases on (R306, R315). -/
def nestExtents (c : Command) (va vd : Word64) (c1 c2 c3 : Nat) : List Extent :=
  let run := fld (dw c.desc 0) 24 0
  let s (k : Nat) : Int := signed64 (dw c.desc k)
  [spanExtent false (c.word.mod.getLsbD 0) va run [(c1, s 1), (c2, s 3), (c3, s 5)],
   spanExtent true (c.word.mod.getLsbD 1) vd run [(c1, s 2), (c2, s 4), (c3, s 6)]]

/-- The memory side of a stream after `done` elements and `scales` scale bytes (R306, R318). -/
def State.streamExtents (s : State) (tile : TileId) (c : Command) (out : Bool) (done scales : Nat) : List Extent :=
  let w := c.word
  let g := s.streamGroup (streamerPort tile out (c.vb.toNat % 16))
  let size := elemBytes w.fmt.toNat
  let from' (v : Word64) (n : Nat) : Word64 := BitVec.ofNat 64 (v.toNat + n)
  let n := (c.vc.toNat - done) * size
  let a := from' c.va (done * size)
  flatExtent (!out) (w.mod.getLsbD 0) a n (wordRuns a.toNat n []) ::
    (if w.mod.getLsbD 1 ∧ g ≠ 0 then [flatExtent (!out) (w.mod.getLsbD 0) (from' c.vd scales) ((c.vc.toNat + g - 1) / g - scales) false] else [])

/-- The extents of a Moraine command (R306): source, destination, auxiliary, each with its operand's space. What a sparse command's rows take
from its values is known to be made of doublewords only where no row can take anything else. -/
def State.extentsOf (s : State) (tile : TileId) (c : Command) : List Extent :=
  let w := c.word
  let dst := w.mod.getLsbD 1
  let src := w.mod.getLsbD 0
  let aux := w.mod.getLsbD 2
  let nidx := fld (dw c.desc 0) 47 32
  let rowb := fld (dw c.desc 0) 31 0
  let rows := fld (dw c.desc 1) 31 0
  let iw := indexWidth (dw c.desc 0)
  let index (n : Nat) : Extent := flatExtent false aux c.vb (n * iw) (iw == 8 && c.vb.toNat % 8 == 0)
  match c.instr with
  | .mcpy _ =>
    [flatExtent false src c.va c.vb.toNat (wordCopy c.va.toNat c.vd.toNat c.vb.toNat),
     flatExtent true dst c.vd c.vb.toNat (wordRuns c.vd.toNat c.vb.toNat [])]
  | .mfill _ => [flatExtent true dst c.vd c.vb.toNat (wordRuns c.vd.toNat c.vb.toNat [])]
  | .mcpy2 _ => nestExtents c c.va c.vd (nestCount c.desc 1) (nestCount c.desc 2) (nestCount c.desc 3)
  | .mnest _ => nestExtents c c.va c.vd (nestCount c.desc 1) (nestCount c.desc 2) (nestCount c.desc 3)
  | .mgth _ =>
    [spanExtent false src c.va rowb [(rows, signed64 (dw c.desc 2))], spanExtent true dst c.vd rowb [(nidx, signed64 (dw c.desc 3))], index nidx]
  | .msct _ =>
    [spanExtent false src c.va rowb [(nidx, signed64 (dw c.desc 3))], spanExtent true dst c.vd rowb [(rows, signed64 (dw c.desc 2))], index nidx]
  | .mspg _ =>
    let esz := sparseSize (dw c.desc 0)
    [flatExtent false src c.va (rows * esz) (rows == 0 || (esz == 8 && wordRuns c.va.toNat (rows * esz) [])),
     spanExtent true dst c.vd (rowb * esz) [(nidx, signed64 (dw c.desc 3))], index (nidx + 1)]
  | .mm2c _ => s.streamExtents tile c true 0 0
  | .mc2m _ => s.streamExtents tile c false 0 0
  | _ => []

/-- 64 KiB blocks that a range meets. -/
def blocksOf (lo len : Nat) : List Nat := if len = 0 then [] else (List.range ((lo + len - 1) / 65536 - lo / 65536 + 1)).map (fun k => lo / 65536 + k)

/-- Physical 64 KiB blocks of an extent, by the translations that its command pins (R241, R308). -/
def physicalBlocks (tile : TileId) (parts : List Part) (e : Extent) : List Nat :=
  if e.inTile then blocksOf (tilePa tile e.lo.toNat) e.len
  else
    (blocksOf e.lo.toNat e.len).filterMap (fun b =>
      (parts.find? (fun p => p.block == b)).map (fun p => leafPa p.leaf p.level (b * 65536) / 65536))

/-- Whether two Moraine commands of a task conflict (R308): a streamer endpoint is one, whichever way its channel runs (R329). -/
def State.conflict (s : State) (tile : TileId) (x y : Command) : Bool :=
  let ex := s.extentsOf tile x
  let ey := s.extentsOf tile y
  (!x.null && !y.null) &&
  ((ex.any (fun a => ey.any (fun b => (a.write || b.write) &&
      (physicalBlocks tile x.parts a).any (fun p => (physicalBlocks tile y.parts b).contains p)))) ||
   (match streamerOf tile x, streamerOf tile y with
    | some p, some q => p.port == q.port
    | _, _ => false))

/-- Moraine commands that run on a tile (R308). -/
def State.moraineRunning (s : State) (t : TileId) : Nat :=
  ((List.range Config.slotsPerTile).map (fun k => ((s.task ⟨t.die, t.tile, k⟩).moraine.queue.filter (fun c => c.started)).length)).sum

/-- Whether Moraine may start a command of a task but for its POP (R17, R248, R308). -/
def State.moraineMayStart (s : State) (i : TaskId) (earlier : List Command) (c : Command) : Bool :=
  decide (s.moraineRunning i.tileId < 8) && (s.task i).moraine.pending.isEmpty && !c.refused &&
  earlier.all (fun e => !e.refused && !s.conflict i.tileId e c)

/-- Whether a strand of a gating load has stopped, or has ended (R399, R404). -/
def Strand.stopped (st : Strand) : Bool := st.gate.isSome || st.whole || st.status == .ended

/-- Whether a pre-emption has asked a task's engines to stop: its strands have stopped (R403, R405). -/
def State.stopRequested (s : State) (i : TaskId) : Bool :=
  (s.load (s.task i).load).gating.contains i.die && (s.strand (i.strand .dawn)).stopped && (s.strand (i.strand .dusk)).stopped

/-- Whether an engine may start the head of a task's queue but for its POP. -/
def State.mayStart (s : State) (i : TaskId) (e : Engine) (earlier : List Command) (c : Command) : Bool :=
  !(s.die i.die).tilehalt.getLsbD i.tile && !s.stopRequested i &&
  match e with
  | .serac => seracMayStart (s.task i) earlier c
  | _ => s.moraineMayStart i earlier c

/-- The engine's turn among tasks (R215): the time at which a task's last command started. -/
def Tile.lastStart (t : Tile) (e : Engine) (slot : Nat) : Nat :=
  match e with
  | .serac => t.seracLast.get slot 0
  | _ => t.moraineLast.get slot 0

/-- Whether a task's head command may start now. -/
def State.startable (s : State) (i : TaskId) (e : Engine) : Bool :=
  match headCommand ((s.task i).engineState e).queue with
  | none => false
  | some (earlier, c) => popMet (s.task i) e c && s.mayStart i e earlier c

/-- Whether an engine is busy for a task, or another task would start a command: Serac runs a command of another task of the tile,
or the head of another task may start (R215, R216). -/
def State.engineTaken (s : State) (i : TaskId) (e : Engine) : Bool :=
  (List.range Config.slotsPerTile).any (fun k => k != i.slot &&
    (s.startable ⟨i.die, i.tile, k⟩ e || (e == .serac && (s.task ⟨i.die, i.tile, k⟩).serac.queue.any (fun c => c.started))))

/-- Whether the head of a full queue waits only for its POP, and its partner is the issuing core (R216). -/
def State.popOnly (s : State) (i : TaskId) (e : Engine) : Bool :=
  match headCommand ((s.task i).engineState e).queue with
  | none => false
  | some (earlier, c) =>
    !popMet (s.task i) e c && s.mayStart i e earlier c && !s.engineTaken i e && (tokenField c.word.pop).1 == (issuerOf e).engine

/-- Whether it is a task's turn to start a command (R215): it started least recently among the tasks of its tile whose
head may start. -/
def State.startTurn (s : State) (i : TaskId) (e : Engine) : Bool :=
  s.startable i e &&
  (List.range Config.slotsPerTile).all (fun k =>
    k == i.slot || !s.startable ⟨i.die, i.tile, k⟩ e ||
    decide ((s.tile i.tileId).lastStart e i.slot < (s.tile i.tileId).lastStart e k) ||
    (decide ((s.tile i.tileId).lastStart e i.slot = (s.tile i.tileId).lastStart e k) && decide (i.slot < k)))

end Sys2Proof.Machine
end

