-- ==== Sys2Proof/Machine/Issue.lean ====
section
/-! DEFINITION. Issuing a word: the decoding checks in the order of R57, the holds of R21, guards (R37, R38), pairs
(R44), taint (R275), and retirement. Every meaning of a strand word is `issue` of its body. -/

namespace Sys2Proof.Machine

/-! ## Decoding checks -/

/-- Opcode and fields of a strand word. -/
def opOf (i : Instr) : BitVec 8 := match i.strandWord with | some (op, _) => op | none => 0
def fieldsOf (i : Instr) : Fields := match i.strandWord with | some (_, w) => w | none => default

/-- Whether an opcode accesses tile memory or global memory (R44). -/
def opMemory (op : Nat) : Bool :=
  op == 0x22 || op == 0x23 || (0x60 ≤ op && op ≤ 0x71) || op == 0x74 || (0x80 ≤ op && op ≤ 0x85)

/-- Whether an opcode is an engine command (R54). -/
def opCommand (op : Nat) : Bool := (0xC0 ≤ op && op ≤ 0xCD && op ≠ 0xC7) || (0xD0 ≤ op && op ≤ 0xD8)

/-- Whether an opcode is a port instruction (R44). -/
def opPort (op : Nat) : Bool := (0xAC ≤ op && op ≤ 0xAE) || (0xE0 ≤ op && op ≤ 0xE6)

/-- Whether an opcode is a vector instruction (R44). -/
def opVector (op : Nat) : Bool := 0x80 ≤ op && op ≤ 0xBF

/-- Whether an opcode is a control transfer that may only stand second (R44). -/
def opTransfer (op : Nat) : Bool := (0x40 ≤ op && op ≤ 0x44) || op == 0x46

/-- Whether an opcode never pairs (R44). -/
def opAlone (op : Nat) : Bool := op == 0x45 || op == 0x4C || op == 0x4D || op == 0x4E || op == 0xF3 || op == 0xF4

/-- Queues that a word pushes (R44). -/
def queuesPushed (f : Form) (w : Fields) : List QueueName :=
  if f.d = .d ∨ f.d = .qpush then (match w.d with | .queue c => (queueOfCode c).toList | _ => []) else []

/-- Whether two words form a legal pair (R44). -/
def pairLegal (core : CoreId) (i1 i2 : Instr) : Bool :=
  let op1 := (opOf i1).toNat
  let op2 := (opOf i2).toNat
  let f1 := formOf core i1
  let f2 := formOf core i2
  let w1 := fieldsOf i1
  let w2 := fieldsOf i2
  let one (p : Nat → Bool) := !(p op1 && p op2)
  !w2.dual && !opAlone op1 && !opAlone op2 && !f1.priv && !f2.priv && !opTransfer op1 &&
  one (fun op => opMemory op || opCommand op || opPort op) && one opVector &&
  (f1.writes w1).all (fun r => !(f2.reads w2).contains r && !(f2.writes w2).contains r) &&
  (queuesPushed f1 w1).all (fun q => !(queuesPushed f2 w2).contains q)

/-- Whether a word's E is in the form that its instruction gives it (R138, R166, R183, R305). -/
def laneCheck (m : EMark) (e : BitVec 14) : Bool :=
  match m with
  | .zero => e == 0
  | .any => true
  | .lanes free => fld e 9 6 ≤ free && (free ≠ 0 || fld e 9 6 == 0) && fld e 13 10 == 0 && (e.getLsbD 4 || (!e.getLsbD 5 && fld e 3 0 == 0))
  | .port => fld e 13 5 == 0 && !e.getLsbD 3
  | .serac => fld e 13 7 == 0 && (e.getLsbD 6 || fld e 5 0 == 0)
  | .moraine swz => (fld e 13 12 == 0 || (swz && fld e 13 12 ≠ 3)) && (e.getLsbD 11 || fld e 10 7 == 0) && (e.getLsbD 6 || fld e 5 0 == 0)

/-- Refusals of R42 on an address layout. -/
def addressRefusals (f : Form) (w : Fields) : List (Nat × Bool) :=
  if f.addr then
    let index := f.b == .idx && (match w.b with | .scalar _ _ => true | _ => false)
    let post := w.mod.getLsbD 2
    [(3, index && post), (5, index && w.e != 0),
     (2, post && (f.d == .d || f.d == .rd) && (scalarIndex w.d).isSome && scalarIndex w.d == scalarIndex w.a)]
  else []

/-- Whether R203 orders a word's refusals: SBFLY and SCHAIN under a true guard look at the configuration word before MOD and
before the declared tiles. The configuration word is read when the word is not held, so these refusals then come after its
holds (DEDUCED, log entry 26); under a false guard, which reads no configuration word, R57's order stands. -/
def stageOrder (op : BitVec 8) (ex : Bool) : Bool := ex && (op == 0xC8#8 || op == 0xC9#8)

/-- Refusals of step 3 of R57 with their WHERE, in order. DESIGN CHOICE (log entry 21): where several checks of the step
fail at once, WHERE is that of the first of FMT, MOD, HINT, D, A, B, C, E, the address layout, the instruction's own
checks, POP, PUSH; the rule orders the steps and not the checks of one. A special register named as a destination is left
to step 4 (R11, R57). -/
def refusals (core : CoreId) (f : Form) (w : Fields) (stage : Bool := false) : List (Nat × Bool) :=
  let acting := match f.cmd with | some e => e | none => core.engine
  let selfToken (x : BitVec 4) := (tokenField x).2 ≠ 0 && (tokenField x).1 == acting
  [(0, w.fmt == 0xF#4 || !f.fmts.contains w.fmt.toNat), (0, !stage && !f.mods.contains w.mod.toNat),
   (0, w.hint != 0 && (!f.hint || 3 < w.hint.toNat)),
   (1, !f.d.admits core w.d && (f.specialDest w).map (fun x => x.2) != some 1), (2, !f.a.admits core w.a),
   (3, !f.b.admits core w.b), (4, !f.c.admits core w.c && (f.specialDest w).map (fun x => x.2) != some 4),
   (5, f.c != .long && !laneCheck f.e w.e)] ++ addressRefusals f w ++ f.extra ++
  [(6, selfToken w.pop), (7, selfToken w.push)]

/-- Step 4 of R57 for a system-register number (R391, R428). -/
def systemTrap (op : BitVec 8) (w : Fields) (priv : Bool) : Option Trap :=
  let n := fld w.e 11 0
  let hidden := (0x20 ≤ n && n ≤ 0x21) || (0x30 ≤ n && n ≤ 0x35) || (0x50 ≤ n && n ≤ 0x53)
  if (op = 0xF0#8 ∧ priv = false ∧ hidden) ∨ (op = 0xF1#8 ∧ 0x100 ≤ n) then
    some { code := .priv, loc := 5, info := BitVec.ofNat 64 n }
  else none

/-- Step 4 of R57. -/
def privilegeTrap (op : BitVec 8) (f : Form) (w : Fields) (priv : Bool) : Option Trap :=
  if f.priv ∧ priv = false then some (illegal op w 0 .priv)
  else
    match systemTrap op w priv with
    | some t => some t
    | none =>
      (f.specialDest w).map (fun x =>
        if x.1 = 0x0A ∨ x.1 = 0x0B then { code := .priv, loc := x.2, info := x.1.zeroExtend 64 } else illegal op w x.2)

/-- A REG_LIMIT fault (R10, R33, R40). -/
def regLimit (loc index cls : Nat) : Trap := { code := .regLimit, loc := loc, info := BitVec.ofNat 64 index, detail := BitVec.ofNat 32 cls }

/-- An EV_LIMIT fault (R10, R33). -/
def evLimit (t : Task) (loc index : Nat) : Trap := { code := .evLimit, loc := loc, info := BitVec.ofNat 64 index, detail := BitVec.ofNat 32 t.hdr.events }

/-- A port against the header's INPORTS and OUTPORTS (R40). -/
def portLimit (t : Task) (loc : Nat) (out : Bool) (n : Nat) : Option Trap :=
  if out then (if t.hdr.outports.getLsbD n then none else some (regLimit loc n 6))
  else if t.hdr.inports.getLsbD n then none else some (regLimit loc n 5)

/-- Step 5 of R57 for one operand. -/
def operandLimit (m : Mark) (core : CoreId) (t : Task) (loc : Nat) (o : Opnd) (stage : Bool := false) : Option Trap :=
  let scalar : Option Trap :=
    match (m.res o).filterMap (fun r => match r with | .scalar i => some i | _ => none) with
    | i :: _ =>
      if i < (match core with | .dawn => t.hdr.aregs | .dusk => t.hdr.sregs) then none
      else some (regLimit loc i (match core with | .dawn => 0 | .dusk => 1))
    | [] => none
  match m, o with
  | .v, .reg i => if i.toNat < t.hdr.vframe then none else some (regLimit loc i.toNat 2)
  | .w, .reg i => if i.toNat < t.hdr.vframe then none else some (regLimit loc i.toNat 2)
  | .k, .reg i => if i.toNat < t.hdr.masks then none else some (regLimit loc i.toNat 3)
  | .acc, .reg i => if i.toNat < t.hdr.accs then none else some (regLimit loc i.toNat 4)
  | .y, .reg i => if stage ∨ i.toNat < t.hdr.accs then none else some (regLimit loc i.toNat 4)
  | .e, .reg i => if i.toNat < t.hdr.events then none else some (evLimit t loc i.toNat)
  | .inPort, .queue c => portLimit t loc false (portNumber c)
  | .outPort, .queue c => portLimit t loc true (portNumber c)
  | .rOrIn, .queue c => portLimit t loc false (portNumber c)
  | _, _ => scalar

/-- Step 5 of R57 for E (R135, R40, R183, R305). -/
def fieldLimit (m : EMark) (t : Task) (e : BitVec 14) : Option Trap :=
  let ev := if e.getLsbD 6 ∧ t.hdr.events ≤ fld e 5 0 then some (evLimit t 5 (fld e 5 0)) else none
  match m with
  | .lanes _ => if e.getLsbD 4 ∧ t.hdr.masks ≤ fld e 3 0 then some (regLimit 5 (fld e 3 0) 3) else none
  | .port => portLimit t 5 (e.getLsbD 4) (fld e 2 0)
  | .serac => ev
  | .moraine _ => ev
  | _ => none

/-- The first fault of a list of checks. -/
def firstTrap : List (Option Trap) → Option Trap
  | [] => none
  | some t :: _ => some t
  | none :: r => firstTrap r

/-- Step 5 of R57, in operand order. -/
def limitTrap (core : CoreId) (t : Task) (f : Form) (w : Fields) (stage : Bool := false) : Option Trap :=
  firstTrap [operandLimit f.d core t 1 w.d stage, operandLimit f.a core t 2 w.a stage, operandLimit f.b core t 3 w.b stage,
    operandLimit f.c core t 4 w.c stage, fieldLimit f.e t w.e]

/-- Steps 1 to 5 of R57 on a word; `mate` is the word a DUAL word pairs with, and `ex` says whether its guard is true. -/
def wordTrap (core : CoreId) (t : Task) (priv : Bool) (i : Instr) (second : Bool) (mate : Option Instr) (ex : Bool) : Option Trap :=
  let op := opOf i
  let w := fieldsOf i
  let f := formOf core i
  if unassignedOpcode op then some (illegal op w 0)
  else if f.core.isSome ∧ f.core ≠ some core then some (illegal op w 0 .wrongCore)
  else
    match (refusals core f w (stageOrder op ex)).find? (fun r => r.2) with
    | some r => some (illegal op w r.1)
    | none =>
      if second = false ∧ w.dual ∧ (match mate with | some m => pairLegal core i m | none => false) = false then
        some { illegal op w 0 with second := true }
      else
        match privilegeTrap op f w priv with
        | some x => some x
        | none => limitTrap core t f w (stageOrder op ex)

/-! ## Holds -/

/-- Whether a register is pending from an earlier instruction of the strand (R21, R211, R288, R290). -/
def State.pendingScalar (s : State) (who : StrandId) (i : Nat) : Bool :=
  s.net.any (fun a => decide (a.who = who) && a.dest == some i) ||
  s.raises.any (fun r => decide (r.who = who) && scalarIndex r.dest == some i)

/-- Whether a vector register waits for a Serac command: the destination of a SACCV, or the source of an SVACC that a
write would change (R21, R188). -/
def pendingVec (t : Task) (i : Nat) (write : Bool) : Bool :=
  t.serac.queue.any (fun c => !c.null &&
    match c.instr with
    | .saccv w => decide (opndIndex w.d ≤ i) && decide (i < opndIndex w.d + c.vc.toNat)
    | .svacc w => write && !c.started && decide (opndIndex w.a ≤ i) && decide (i < opndIndex w.a + c.vc.toNat)
    | _ => false)

/-- The first register of a word that is pending (R21). -/
def State.pendingHold (s : State) (who : StrandId) (f : Form) (w : Fields) : Option Hold :=
  let rs := f.reads w
  let ws := f.writes w
  match (scalarsOf (rs ++ ws)).find? (fun i => s.pendingScalar who i) with
  | some i => some (.reg i)
  | none =>
    match (vecsOf rs).find? (fun i => pendingVec (s.task who.task) i false) with
    | some i => some (.vreg i)
    | none => ((vecsOf ws).find? (fun i => pendingVec (s.task who.task) i true)).map Hold.vreg

/-- FENCE and LFENCE, whose retirement waits (R251, R297). -/
def isFence (i : Instr) : Bool := match i with | .fence _ => true | .lfence _ => true | _ => false

/-- Whether a word waits for an outstanding FENCE of its strand: an access, a command, a context word (R297, R395), or the
source of an arc, which carries what the FENCE orders (R278): a push of tokens or of a queue entry, a counter change, an
order token, and the last word of a section or END, which move the retired mark. -/
def behindFence (st : Strand) (a : Word64) (i : Instr) (f : Form) (w : Fields) : Bool :=
  let op := (opOf i).toNat
  opMemory op || f.cmd.isSome || op == 0xF7 || op == 0xF8 ||
  (!isFence i && (tokenField w.push).2 != 0) || !(queuesPushed f w).isEmpty ||
  (match i with
    | .tsig _ => true
    | .evadd _ => true
    | .evset _ => true
    | .pord _ => true
    | .endStrand _ => true
    | _ => false) ||
  decide (st.sectStart.toNat + 12 * st.sectLen ≤ a.toNat + 12)

/-- Whether an outstanding fence makes a word wait: FENCE by `behindFence`; LFENCE makes a Serac command wait, which reads
records once it has retired (R251, R283). -/
def fenceHolds (st : Strand) (a : Word64) (i : Instr) (f : Form) (w : Fields) : Bool :=
  st.fences.any (fun x => x.own != some st.pc && (if x.lfence then f.cmd == some .serac else behindFence st a i f w))

/-- Holds that do not depend on the word's guard: needs, a PST that has not been answered, a fence, its POP, its command
slot (R20, R291, R278, R297, R16, R215). -/
def State.commonHold (s : State) (who : StrandId) (i : Instr) (f : Form) (w : Fields) : Option Hold :=
  let st := s.strand who
  let t := s.task who.task
  let pop := tokenField w.pop
  match st.needs.find? (fun n => !s.needMet who n) with
  | some n => some (.needs n.1)
  | none =>
    if (match st.pst with | some p => p.addr != st.pc && p.refused.isNone | none => false) then some .pst
    else if fenceHolds st s.wordAddr i f w then some .fence
    else
      match f.cmd with
      | some e => if slotsOf e ≤ (t.engineState e).queue.length then some (.slots e) else none
      | none =>
        let k := tokenIndex pop.1 who.core.engine
        if pop.2 ≠ 0 ∧ t.token k < pop.2 then some (.token k) else none

/-- Queues that a word pops, in operand order (R13). -/
def queuesPopped (i : Instr) (f : Form) (w : Fields) : List QueueName :=
  let of (m : Mark) (o : Opnd) : List QueueName :=
    if m = .s ∨ m = .qpop then (match o with | .queue c => (queueOfCode c).toList | _ => []) else []
  of f.a w.a ++ of f.b w.b ++ of f.c w.c ++ (match i with | .bcq _ => [.cq] | _ => [])

/-- A pop from a queue without enough entries, or a push into one without room (R13, R93). -/
def State.queueHold (s : State) (who : StrandId) (i : Instr) (f : Form) (w : Fields) : Option Hold :=
  let t := s.task who.task
  let pops := queuesPopped i f w
  match pops.find? (fun q => decide (s.poppable who.task q < (pops.filter (fun x => x == q)).length)) with
  | some q => some (.queueEmpty q)
  | none =>
    let need := match i with | .qpush x => if x.mod = 1 then 2 else 1 | _ => 1
    ((queuesPushed f w).find? (fun q => decide (queueCap q < t.queueLen q + s.raisesInto who q + need))).map Hold.queueFull

/-- Every cause that holds a word, in the order in which they are looked for (R21, R23). -/
def State.allHolds (s : State) (who : StrandId) (i : Instr) : List Hold :=
  let f := formOf who.core i
  let w := fieldsOf i
  let st := s.strand who
  let t := s.task who.task
  let pop := tokenField w.pop
  let pops := queuesPopped i f w
  ((st.needs.filter (fun n => !s.needMet who n)).map (fun n => Hold.needs n.1)) ++
  (match f.cmd with
    | some e => if slotsOf e ≤ (t.engineState e).queue.length then [.slots e] else []
    | none => if pop.2 ≠ 0 ∧ t.token (tokenIndex pop.1 who.core.engine) < pop.2 then [.token (tokenIndex pop.1 who.core.engine)] else []) ++
  (((scalarsOf (f.reads w ++ f.writes w)).filter (fun r => s.pendingScalar who r)).map Hold.reg) ++
  (((vecsOf (f.reads w)).filter (fun r => pendingVec t r false)).map Hold.vreg) ++
  (((vecsOf (f.writes w)).filter (fun r => pendingVec t r true)).map Hold.vreg) ++
  ((pops.filter (fun q => decide (s.poppable who.task q < (pops.filter (fun x => x == q)).length))).map Hold.queueEmpty) ++
  (((queuesPushed f w).filter (fun q => decide (queueCap q ≤ t.queueLen q + s.raisesInto who q))).map Hold.queueFull)

/-- The word at an address of a strand's stream, read through its load's domain (R35). -/
def State.fetch (s : State) (who : StrandId) (a : Word64) : Option Instr :=
  match s.readVirtual who.die (s.load (s.task who.task).load).domain a.toNat 12 with
  | some bs => some (decodeStrand (BitVec.ofNat 96 (bytesToNat bs)))
  | none => none

/-- What holds a strand now: the cause it met, and every other that its next word, or either word of its next pair, has. -/
def State.holdsOf (s : State) (who : StrandId) (met : Hold) : List Hold :=
  let a := (s.strand who).pc
  match s.fetch who a with
  | some i => met :: (s.allHolds who i ++ (if (fieldsOf i).dual then (match s.fetch who (a + 12) with | some m => s.allHolds who m | none => []) else []))
  | none => [met]

/-! ## Effects shared by every word -/

/-- The tokens that a strand word pops (R16). -/
def takeTokens (core : CoreId) (f : Form) (w : Fields) : M Unit :=
  let pop := tokenField w.pop
  if f.cmd.isSome ∨ pop.2 = 0 then pure ()
  else modify (fun s => s.popTokens s.cur.strand.task (tokenIndex pop.1 core.engine) pop.2)

/-- The tokens that a strand word pushes, to be applied when it retires (R16). -/
def putTokens (core : CoreId) (f : Form) (w : Fields) : M Unit :=
  let push := tokenField w.push
  if f.cmd.isSome ∨ push.2 = 0 then pure ()
  else modify (fun s => s.updCur (fun c => { c with pushes := c.pushes ++ [(tokenIndex core.engine push.1, push.2)] }))

/-- An uncorrectable error in a register that the word reads (R387, R388). VEXTR reads one cell, and checks it itself. -/
def damagedTrap (st : Strand) (t : Task) (op : BitVec 8) (rs : List Res) : Option Trap :=
  match (scalarsOf rs).find? (fun i => st.badRegs.contains i) with
  | some i => some (eccTrap 3 (BitVec.ofNat 64 i))
  | none =>
    match (vecsOf rs).find? (fun i => op != 0xAA#8 && t.badV.any (fun b => b / 1024 == i)) with
    | some i => some (eccTrap 4 (BitVec.ofNat 64 i))
    | none => ((masksOf rs).find? (fun i => t.badK.contains i)).map (fun i => eccTrap 5 (BitVec.ofNat 64 i))

/-- Whether an instruction taints its destination (R275). -/
def isTainting (i : Instr) : Bool := match i with | .ldc _ => true | .pld _ => true | _ => false

/-- Whether a word reads a tainted register (R275). -/
def Strand.readsTaint (st : Strand) (f : Form) (w : Fields) : Bool := (scalarsOf (f.reads w)).any (fun i => st.taint.getLsbD i)

/-- Taint of the scalar registers that a word has written (R275). -/
def taintWritten (core : CoreId) (i : Instr) (f : Form) (w : Fields) (tainted : Bool) : M Unit :=
  match core with
  | .dusk => pure ()
  | .dawn => modStrand (fun st =>
      { st with taint := (scalarsOf (f.writes w)).foldl (fun b r =>
          let t := if some r = scalarIndex w.d then tainted || isTainting i else tainted
          let m : BitVec 64 := BitVec.ofNat 64 (2 ^ r)
          if t then b ||| m else b &&& ~~~ m) st.taint })

/-- A command enters its engine's queue (R183, R215). -/
def enqueue (e : Engine) (c : Command) : M Unit := do
  let s ← get
  let a := s.wordAddr
  modTask (fun t =>
    let x := t.engineState e
    t.setEngineState e { x with queue := x.queue ++ [{ c with seq := x.nextSeq, addr := a, waitSince := s.clock }], nextSeq := x.nextSeq + 1 })

/-- The first hold of a list. -/
def firstHold : List (Option Hold) → Option Hold
  | [] => none
  | some h :: _ => some h
  | none :: r => firstHold r

/-- The fault of a PST whose home refused it, for a strand that a resume has sent elsewhere meanwhile: no later instruction
has issued, and a resume sends the PST again (R291). -/
def Strand.refusedPst (st : Strand) : Option Trap :=
  match st.pst with
  | some p =>
    if p.addr ≠ st.pc ∧ p.refused = some true then
      some { code := .writeOnce, loc := 2, info := p.va, addr := some p.addr, resume := some p.addr }
    else none
  | none => none

/-- Whether a word's guard is true: a pair's second word reads the predicates as they stood before the first (R37, R44). -/
def State.guardTrue (s : State) (w : Fields) : Bool :=
  executes w (fun k => k == 0 || (match s.cur.pair with | some p => p.preds | none => s.me.preds).getLsbD k)

/-- What a word does once its checks have passed: holds, POP, and either its body or, under a false guard, only its
token fields and a null command (R37, R38). DESIGN CHOICE (log entry 23): a word under a false guard is not held on a
pending source or destination register, since it reads and writes none; R21 makes no exception and R38 names only queues
and ports. -/
def runWord (i : Instr) (body : M Flow) : M Flow := do
  let s ← get
  let who := s.cur.strand
  let w := fieldsOf i
  let f := formOf who.core i
  match s.commonHold who i f w, s.me.refusedPst with
  | some h, _ => holdOn h
  | none, some t => trapWith t
  | none, none =>
    takeTokens who.core f w
    (if s.me.needs.isEmpty && (tokenField w.pop).2 == 0 then pure () else modStrand (fun st => st.endCombining none))
    if s.guardTrue w then
      match firstHold [s.pendingHold who f w, s.queueHold who i f w] with
      | some h => holdOn h
      | none =>
        match damagedTrap s.me s.myTask (opOf i) (f.reads w) with
        | some t => trapWith t
        | none =>
          let tainted := s.me.readsTaint f w
          let flow ← body
          taintWritten who.core i f w tainted
          if isFence i && s.cur.pair.isSome then pure () else putTokens who.core f w
          return flow
    else
      match f.cmd with
      | some e => enqueue e { seq := 0, instr := i, addr := 0, null := true }
      | none => pure ()
      putTokens who.core f w
      return .fall

/-- The check of R16 on the pushes of the words so far, against the counters at the start of the cycle with the cycle's other
pushes; the push of a fence that is the second word of a pair and still has to retire counts with them (log entry 17). -/
def pushCheck : M Unit := do
  let s ← get
  match s.overflow s.cur.strand.task (s.cur.pushes ++ s.me.fences.flatMap FenceWait.pushes) with
  | some o => trapWith (tokenOver o false)
  | none => pure ()

/-! ## Retirement and stopping -/

/-- The words that issue retire: counters (R102), tokens (R16), and where the strand goes (R91). The loops of a pair's first
word are examined at the call depth before its second. -/
def State.retire (s : State) (words : List Word64) (last : Word64) (yld : Bool) (flow : Flow) : State :=
  let who := s.cur.strand
  let c := s.cur
  let s1 := (s.leaveCounters who.core who.tileId c.evSets c.evAdds).pushTokens who.task c.pushes
  let s2 := s1.updStrand who (fun st =>
    { st with status := .ready, lastIssue := some s.clock, yielded := yld, heldCount := 0, heldBy := none, cmdqOnly := false
              walkFailed := none, needs := [], pst := none })
  match flow with
  | .fall => s2.fallThrough who words last
  | .fallFrom a => s2.fallThrough who [a] a
  | .goto t pops =>
    let depth := match c.pair with | some p => p.depth | none => (s.strand who).depth
    (s2.updStrand who (fun st => { st with loops := (words.dropLast.foldl (fun l a => (loopEnd a depth l).1) st.loops) })).goTo who t pops
  | .ended => s2.endStrand who
  | .parks p => s2.parkOn who p

/-- A held strand counts the cycle (R21, R23), and whether R216's two conditions have held in all of them. -/
def State.holdStrand (s : State) (who : StrandId) (h : Hold) : State :=
  let only := match h with | .slots e => s.popOnly who.task e | _ => false
  s.updStrand who (fun st =>
    { st with status := .held, heldBy := some h, heldCount := st.heldCount + 1
              heldSince := if st.heldCount = 0 then s.clock else st.heldSince
              cmdqOnly := (st.heldCount == 0 || st.cmdqOnly) && only
              walk := match h with | .walk b => (match st.walk with | none => some b | w => w) | _ => st.walk })

/-- What a stop does to a strand at its next word (R21, R32). -/
def State.applyStop (s : State) (who : StrandId) (x : Stop) : State :=
  match x with
  | .hold h => s.holdStrand who h
  | .trap t => (s.raisePrecise who t (s.strand who).pc).updStrand who (fun st =>
      { st with walkFailed := none, fences := st.fences.filter (fun f => f.own ≠ some st.pc)
                pst := match st.pst with | some p => if p.refused.isSome then none else st.pst | none => none })
  | .sent a =>
    (({ s with net := s.net ++ [{ a with num := s.nextAccess }], nextAccess := s.nextAccess + 1 } : State).updStrand who
      (fun st => { (st.endCombining (some (granuleOf a.pa))) with
                   pst := some { access := s.nextAccess, addr := st.pc, va := a.va } })).holdStrand who .pst
  | .fence f =>
    (s.updStrand who (fun st =>
      { (if f.lfence then st else st.endCombining none) with fences := st.fences ++ [{ f with own := some st.pc }] })).holdStrand who .fence

/-- The cursor's work of a cycle cleared. -/
def State.clearCycle (s : State) : State :=
  s.updCur (fun c => { c with mate := none, pair := none, pushes := [], evSets := [], evAdds := [], stop := none })

/-- Whether a strand may issue: its task runs and it is Ready or Held (R30). -/
def State.canIssue (s : State) (who : StrandId) : Bool :=
  (s.strand who).status == .ready || (s.strand who).status == .held

/-- Issue a word with the given body. Alone, the word retires, or is held, or faults precisely. As the first word of a
pair, its effects stand in the next state and retirement waits for the second, which retires both; a stop of either is
left in the cursor for the strand's turn to apply to the state before the pair (R32, R44). -/
def issue (i : Instr) (body : M Flow) (s : State) : Host.Outcome State Fault Refusal :=
  let who := s.cur.strand
  let w := fieldsOf i
  if s.canIssue who = false then .fault .noStrand
  else
    let paired := s.cur.pair.isSome
    let result : Except Stop (Flow × State) :=
      match wordTrap who.core s.myTask (s.load s.myTask.load).priv i paired s.cur.mate (s.guardTrue w) with
      | some t => .error (.trap t)
      | none =>
        StateT.run (do
          let flow ← runWord i body
          pushCheck
          return flow) (if paired then s else s.updStrand who (fun st => { st with yielded := false }))
    match result with
    | .error x =>
      if paired ∨ s.cur.mate.isSome then .next (s.updCur (fun c => { c with stop := some x }))
      else .next ((s.applyStop who x).clearCycle)
    | .ok (flow, t) =>
      if t.canIssue who = false then .next t.clearCycle
      else if paired then
        .next ((t.retire [s.me.pc, s.me.pc + 12] (s.me.pc + 12) (w.yld || t.me.yielded) flow).clearCycle)
      else if s.cur.mate.isSome then .next (t.updStrand who (fun st => { st with yielded := w.yld || st.yielded }))
      else .next ((t.retire [s.me.pc] s.me.pc (w.yld || t.me.yielded) flow).clearCycle)

end Sys2Proof.Machine
end

