-- ==== Sys2Proof/Machine/Arith.lean ====
section
/-! DEFINITION. The integer and floating operations that scalar, vector, stream and atomic instructions share: the
steps of R68, division (R72), logic and shifts (R73), bit fields (R74), and minimum and maximum (R83). -/

namespace Sys2Proof.Machine

/-- The low w bits of a value read with a signedness (R68). -/
def ival (x w : Nat) (sg : Bool) : Int := if sg then sext w x else ((x % 2 ^ w : Nat) : Int)

/-- The w bits of an integer. -/
def wrapTo (w : Nat) (r : Int) : Nat := (r % ((2 ^ w : Nat) : Int)).toNat

/-- Bounds of a w-bit integer (R68). -/
def lowest (w : Nat) (sg : Bool) : Int := if sg then -((2 ^ (w - 1) : Nat) : Int) else 0
def highest (w : Nat) (sg : Bool) : Int := if sg then ((2 ^ (w - 1) : Nat) : Int) - 1 else ((2 ^ w : Nat) : Int) - 1

/-- A result by its modifier, as w bits: MOD 001 clamps, any other wraps (R68). -/
def finish (mod w : Nat) (sg : Bool) (r : Int) : Nat :=
  if mod = 1 then wrapTo w (max (lowest w sg) (min (highest w sg) r)) else wrapTo w r

/-- A w-bit result extended to W bits (R68). -/
def extendTo (big w : Nat) (sg : Bool) (v : Nat) : Nat := wrapTo big (ival v w sg)

/-- The quotient and remainder of R72. -/
def divide (w : Nat) (sg : Bool) (x y : Int) : Int × Int :=
  if y = 0 then (if sg then -1 else highest w false, x)
  else if sg ∧ x = lowest w true ∧ y = -1 then (x, 0)
  else (x.tdiv y, x - x.tdiv y * y)

/-- The shifts of R73 on the low w bits u by a count n. -/
def shl (w u n : Nat) : Nat := if w ≤ n then 0 else u * 2 ^ n % 2 ^ w
def shr (w u n : Nat) : Nat := if w ≤ n then 0 else u / 2 ^ n
def sar (w u n : Nat) : Nat := if w ≤ n then (if 2 ^ (w - 1) ≤ u then 2 ^ w - 1 else 0) else wrapTo w (sext w u / ((2 ^ n : Nat) : Int))
def rol (w u n : Nat) : Nat := let k := n % w; u * 2 ^ k % 2 ^ w ||| u / 2 ^ (w - k)

/-- Leading zeros of w bits (R74). -/
def clz (w u : Nat) : Nat := if u = 0 then w else w - 1 - Nat.log2 u

/-- One bits among the low w bits (R74). -/
def popCount : Nat → Nat → Nat
  | 0, _ => 0
  | w + 1, u => u % 2 + popCount w (u / 2)

/-- BFX on the low w bits (R74), before extension to W. -/
def extractField (w : Nat) (sg : Bool) (u pos len : Nat) : Nat :=
  if len = 0 ∨ w ≤ pos then 0
  else
    let m := min len (w - pos)
    let v := u / 2 ^ pos % 2 ^ m
    if sg then wrapTo w (sext m v) else v

/-- BFI over W bits (R74). -/
def insertField (w a b pos len : Nat) : Nat :=
  if len = 0 ∨ w ≤ pos then a
  else
    let m := min len (w - pos)
    a % 2 ^ pos + b % 2 ^ m * 2 ^ pos + a / 2 ^ (pos + m) * 2 ^ (pos + m)

/-- Whether a code lies below another in the order of R83, -0 below +0. -/
def codeBelow (f : Format) (x y : Nat) : Bool :=
  let a := decodeNum f x
  let b := decodeNum f y
  a.lt b || (a.isZero && b.isZero && a.neg? && !b.neg?)

/-- FMIN (`big` false) or FMAX of R83 on two codes of a format. -/
def minMaxCode (f : Format) (big : Bool) (x y : Nat) : Nat :=
  match (decodeNum f x).isNan, (decodeNum f y).isNan with
  | true, true => f.nanCode
  | true, false => y
  | false, true => x
  | false, false => if big then (if codeBelow f x y then y else x) else if codeBelow f y x then y else x

/-- A two-operand floating operation rounded once (R81). -/
def fadd (f : Format) (mode : Rnd) (x y : Nat) : Nat := round ((decodeNum f x).add mode (decodeNum f y)) f mode
def fsub (f : Format) (mode : Rnd) (x y : Nat) : Nat := round ((decodeNum f x).add mode (decodeNum f y).negate) f mode
def fmul (f : Format) (mode : Rnd) (x y : Nat) : Nat := round ((decodeNum f x).mul (decodeNum f y)) f mode
def ffma (f : Format) (mode : Rnd) (x y z : Nat) : Nat :=
  round (((decodeNum f x).mul (decodeNum f y)).add mode (decodeNum f z)) f mode
def fdiv (f : Format) (mode : Rnd) (x y : Nat) : Nat :=
  let q := (decodeNum f x).div (decodeNum f y)
  round q.1 f mode q.2
def fsqrt (f : Format) (mode : Rnd) (x : Nat) : Nat :=
  let q := (decodeNum f x).sqrt
  round q.1 f mode q.2
/-- The code of 1 in a floating format. -/
def oneCode (f : Format) : Nat := round (.fin false 1 0) f .rne
def frcp (f : Format) (mode : Rnd) (x : Nat) : Nat := fdiv f mode (oneCode f) x

/-- The sign bit of a floating code cleared or inverted (R84). -/
def fabsCode (f : Format) (x : Nat) : Nat := x % 2 ^ (f.bits - 1)
def fnegCode (f : Format) (x : Nat) : Nat := (x + 2 ^ (f.bits - 1)) % 2 ^ f.bits

/-- A bitwise function of two numbers' low w bits. -/
def bitAnd (x y : Nat) : Nat := x &&& y
def bitOr (x y : Nat) : Nat := x ||| y
def bitXor (x y : Nat) : Nat := x ^^^ y

end Sys2Proof.Machine
end

