-- ==== Sys2Proof/Machine/Scalar.lean ====
section
/-! DEFINITION. The scalar instructions, 0x00 to 0x33 (R66 to R87): moves, integer arithmetic, logic, bit fields,
predicates, FP32, and tile-memory loads and stores. -/

namespace Sys2Proof.Machine

/-! ## Shared bodies -/

/-- Operation width and signedness of an integer word (R68). -/
def intWidth (c : CoreId) (fmt : Nat) : Nat := if fmt = 0 then coreWidth c else 32
def intSigned (fmt : Nat) : Bool := fmt ≠ 2

/-- The steps of R68 with the operands' integers; a position not used reads as its register form, which takes nothing. -/
def arith (w : Fields) (op : Nat → Int → Int → Int → Int) : M Flow := do
  let c ← theCore
  let wd := intWidth c w.fmt.toNat
  let sg := intSigned w.fmt.toNat
  let x ← source w.a
  let y ← source w.b
  let z ← source w.c
  let r := op wd (ival x.toNat wd sg) (ival y.toNat wd sg) (ival z.toNat wd sg)
  destine w.d (BitVec.ofNat 64 (extendTo (coreWidth c) wd sg (finish w.mod.toNat wd sg r)))
  return .fall

/-- An operation on the low w bits of A and all of B whose result is extended (R73, R74). -/
def onBits (w : Fields) (op : (width : Nat) → (signed : Bool) → (u b : Nat) → Nat) : M Flow := do
  let c ← theCore
  let wd := intWidth c w.fmt.toNat
  let sg := intSigned w.fmt.toNat
  let x ← source w.a
  let y ← source w.b
  destine w.d (BitVec.ofNat 64 (extendTo (coreWidth c) wd sg (op wd sg (x.toNat % 2 ^ wd) y.toNat)))
  return .fall

/-- An FP32 operation of up to three sources (R81, R82). -/
def floatOp (w : Fields) (op : Rnd → Nat → Nat → Nat → Nat) : M Flow := do
  let x ← sourceF32 w.a
  let y ← sourceF32 w.b
  let z ← sourceF32 w.c
  destine w.d (BitVec.ofNat 64 (op (Rnd.ofMod w.mod.toNat) x y z))
  return .fall

/-! ## Moves -/

def execNop (w : Fields) (s : State) : Host.Outcome State Fault Refusal := issue (.nop w) (return .fall) s

/-- D := A (R70). -/
def bodyMov (w : Fields) : M Flow := do
  destine w.d (← source w.a)
  return .fall
def execMov (w : Fields) (s : State) : Host.Outcome State Fault Refusal := issue (.mov w) (bodyMov w) s

/-- D := sext(imm25) (R70). -/
def bodyMovi (w : Fields) : M Flow := do
  destine w.d (intToWidth (← theCore) (imm25 w))
  return .fall
def execMovi (w : Fields) (s : State) : Host.Outcome State Fault Refusal := issue (.movi w) (bodyMovi w) s

/-- D := A with one 16-bit chunk replaced (R70). -/
def bodyMovhi (w : Fields) : M Flow := do
  let c ← theCore
  let x ← source w.a
  destine w.d (BitVec.ofNat 64 (insertField (coreWidth c) x.toNat (wrapTo 16 (imm25 w)) (16 * fld w.mod 1 0) 16))
  return .fall
def execMovhi (w : Fields) (s : State) : Host.Outcome State Fault Refusal := issue (.movhi w) (bodyMovhi w) s

/-! ## Integer arithmetic (R71, R72) -/

def execAdd (w : Fields) (s : State) : Host.Outcome State Fault Refusal :=
  issue (.add w) (arith w (fun _ x y _ => x + y + imm14 w)) s
def execSub (w : Fields) (s : State) : Host.Outcome State Fault Refusal :=
  issue (.sub w) (arith w (fun _ x y _ => x - y - imm14 w)) s
def execMul (w : Fields) (s : State) : Host.Outcome State Fault Refusal :=
  issue (.mul w) (arith w (fun _ x y _ => x * y)) s
def execMulh (w : Fields) (s : State) : Host.Outcome State Fault Refusal :=
  issue (.mulh w) (arith w (fun wd x y _ => x * y / ((2 ^ wd : Nat) : Int))) s
def execMad (w : Fields) (s : State) : Host.Outcome State Fault Refusal :=
  issue (.mad w) (arith w (fun _ x y z => x * y + z)) s
def execMin (w : Fields) (s : State) : Host.Outcome State Fault Refusal :=
  issue (.min w) (arith w (fun _ x y _ => min x y)) s
def execMax (w : Fields) (s : State) : Host.Outcome State Fault Refusal :=
  issue (.max w) (arith w (fun _ x y _ => max x y)) s
def execAbs (w : Fields) (s : State) : Host.Outcome State Fault Refusal :=
  issue (.abs w) (arith w (fun _ x _ _ => if x < 0 then -x else x)) s
def execNeg (w : Fields) (s : State) : Host.Outcome State Fault Refusal :=
  issue (.neg w) (arith w (fun _ x _ _ => -x)) s
def execDiv (w : Fields) (s : State) : Host.Outcome State Fault Refusal :=
  issue (.div w) (arith w (fun wd x y _ => (divide wd (intSigned w.fmt.toNat) x y).1)) s
def execRem (w : Fields) (s : State) : Host.Outcome State Fault Refusal :=
  issue (.rem w) (arith w (fun wd x y _ => (divide wd (intSigned w.fmt.toNat) x y).2)) s

/-! ## Logic, shifts and bit fields (R73 to R76) -/

def execAnd (w : Fields) (s : State) : Host.Outcome State Fault Refusal :=
  issue (.and w) (onBits w (fun _ _ u b => bitAnd u b)) s
def execOr (w : Fields) (s : State) : Host.Outcome State Fault Refusal :=
  issue (.or w) (onBits w (fun _ _ u b => bitOr u b)) s
def execXor (w : Fields) (s : State) : Host.Outcome State Fault Refusal :=
  issue (.xor w) (onBits w (fun _ _ u b => bitXor u b)) s
/-- D := A and not B (R73). -/
def execAndn (w : Fields) (s : State) : Host.Outcome State Fault Refusal :=
  issue (.andn w) (onBits w (fun wd _ u b => bitAnd u (2 ^ wd - 1 - b % 2 ^ wd))) s
def execShl (w : Fields) (s : State) : Host.Outcome State Fault Refusal :=
  issue (.shl w) (onBits w (fun wd _ u b => shl wd u b)) s
def execShr (w : Fields) (s : State) : Host.Outcome State Fault Refusal :=
  issue (.shr w) (onBits w (fun wd _ u b => shr wd u b)) s
def execSar (w : Fields) (s : State) : Host.Outcome State Fault Refusal :=
  issue (.sar w) (onBits w (fun wd _ u b => sar wd u b)) s
def execRol (w : Fields) (s : State) : Host.Outcome State Fault Refusal :=
  issue (.rol w) (onBits w (fun wd _ u b => rol wd u b)) s
def execClz (w : Fields) (s : State) : Host.Outcome State Fault Refusal :=
  issue (.clz w) (onBits w (fun wd _ u _ => clz wd u)) s
def execPopc (w : Fields) (s : State) : Host.Outcome State Fault Refusal :=
  issue (.popc w) (onBits w (fun wd _ u _ => popCount wd u)) s
def execBfx (w : Fields) (s : State) : Host.Outcome State Fault Refusal :=
  issue (.bfx w) (onBits w (fun wd sg u _ => extractField wd sg u (fld w.e 6 0) (fld w.e 13 7))) s
def execBfi (w : Fields) (s : State) : Host.Outcome State Fault Refusal :=
  issue (.bfi w) (onBits w (fun wd _ u b => insertField wd u b (fld w.e 6 0) (fld w.e 13 7))) s

/-- Extension of the low bits of A by FMT (R75). -/
def bodyCvtsx (w : Fields) : M Flow := do
  let c ← theCore
  let x ← source w.a
  let f := w.fmt.toNat
  let n := if f ≤ 2 then 32 else if f ≤ 4 then 16 else 8
  destine w.d (BitVec.ofNat 64 (extendTo (coreWidth c) n (f % 2 == 1) x.toNat))
  return .fall
def execCvtsx (w : Fields) (s : State) : Host.Outcome State Fault Refusal := issue (.cvtsx w) (bodyCvtsx w) s

/-- D := A + (index << C) + sext(E), modulo 2^64 (R76). -/
def bodyLea (w : Fields) : M Flow := do
  let a ← source w.a
  let b ← source w.b
  let c ← source w.c
  let idx : Int := match w.fmt.toNat with | 0 => (b.toNat : Int) | 1 => sext 32 b.toNat | _ => ((b.toNat % 2 ^ 32 : Nat) : Int)
  destine w.d (BitVec.ofNat 64 (wrapTo 64 ((a.toNat : Int) + idx * ((2 ^ c.toNat : Nat) : Int) + imm14 w)))
  return .fall
def execLea (w : Fields) (s : State) : Host.Outcome State Fault Refusal := issue (.lea w) (bodyLea w) s

/-! ## Predicates (R77 to R80) -/

/-- pd := cond, then pc := not cond (R77). -/
def bodyCmp (w : Fields) : M Flow := do
  let wd := intWidth (← theCore) w.fmt.toNat
  let x ← source w.a
  let y ← source w.b
  writeCond w.d w.c (intCond w.mod.toNat wd (x.toNat % 2 ^ wd) (y.toNat % 2 ^ wd))
  return .fall
def execCmp (w : Fields) (s : State) : Host.Outcome State Fault Refusal := issue (.cmp w) (bodyCmp w) s

/-- D := A if pc, else B; both are read (R78). -/
def bodySel (w : Fields) : M Flow := do
  let x ← source w.a
  let y ← source w.b
  let p ← predOf w.c
  destine w.d (if p then x else y)
  return .fall
def execSel (w : Fields) (s : State) : Host.Outcome State Fault Refusal := issue (.sel w) (bodySel w) s

/-- pd := f(pa, pb) (R79). -/
def bodyPlog (w : Fields) : M Flow := do
  let x ← predOf w.a
  let y ← predOf w.b
  writePred (opndIndex w.d) (logicFn w.mod.toNat x y)
  return .fall
def execPlog (w : Fields) (s : State) : Host.Outcome State Fault Refusal := issue (.plog w) (bodyPlog w) s

/-- D := p15 : … : p8 (R80). -/
def bodyPsave (w : Fields) : M Flow := do
  destine w.d (BitVec.ofNat 64 (fld (← theStrand).preds 15 8))
  return .fall
def execPsave (w : Fields) (s : State) : Host.Outcome State Fault Refusal := issue (.psave w) (bodyPsave w) s

/-- p(8 + i) := A[i] (R80). -/
def bodyPrest (w : Fields) : M Flow := do
  let x ← source w.a
  modStrand (fun st => { st with preds := BitVec.ofNat 16 (fld st.preds 7 0 + fld x 7 0 * 256) })
  return .fall
def execPrest (w : Fields) (s : State) : Host.Outcome State Fault Refusal := issue (.prest w) (bodyPrest w) s

/-! ## FP32 (R81 to R86) -/

def execFadd (w : Fields) (s : State) : Host.Outcome State Fault Refusal :=
  issue (.fadd w) (floatOp w (fun m x y _ => fadd .f32 m x y)) s
def execFsub (w : Fields) (s : State) : Host.Outcome State Fault Refusal :=
  issue (.fsub w) (floatOp w (fun m x y _ => fsub .f32 m x y)) s
def execFmul (w : Fields) (s : State) : Host.Outcome State Fault Refusal :=
  issue (.fmul w) (floatOp w (fun m x y _ => fmul .f32 m x y)) s
def execFfma (w : Fields) (s : State) : Host.Outcome State Fault Refusal :=
  issue (.ffma w) (floatOp w (fun m x y z => ffma .f32 m x y z)) s
def execFdiv (w : Fields) (s : State) : Host.Outcome State Fault Refusal :=
  issue (.fdiv w) (floatOp w (fun m x y _ => fdiv .f32 m x y)) s
def execFsqrt (w : Fields) (s : State) : Host.Outcome State Fault Refusal :=
  issue (.fsqrt w) (floatOp w (fun m x _ _ => fsqrt .f32 m x)) s
def execFrcp (w : Fields) (s : State) : Host.Outcome State Fault Refusal :=
  issue (.frcp w) (floatOp w (fun m x _ _ => frcp .f32 m x)) s
def execFmin (w : Fields) (s : State) : Host.Outcome State Fault Refusal :=
  issue (.fmin w) (floatOp w (fun _ x y _ => minMaxCode .f32 false x y)) s
def execFmax (w : Fields) (s : State) : Host.Outcome State Fault Refusal :=
  issue (.fmax w) (floatOp w (fun _ x y _ => minMaxCode .f32 true x y)) s
def execFabs (w : Fields) (s : State) : Host.Outcome State Fault Refusal :=
  issue (.fabs w) (floatOp w (fun _ x _ _ => fabsCode .f32 x)) s
def execFneg (w : Fields) (s : State) : Host.Outcome State Fault Refusal :=
  issue (.fneg w) (floatOp w (fun _ x _ _ => fnegCode .f32 x)) s

/-- pd := cond, then pc := not cond (R85). -/
def bodyFcmp (w : Fields) : M Flow := do
  let x ← sourceF32 w.a
  let y ← sourceF32 w.b
  writeCond w.d w.c (floatCond w.mod.toNat (decodeNum .f32 x) (decodeNum .f32 y))
  return .fall
def execFcmp (w : Fields) (s : State) : Host.Outcome State Fault Refusal := issue (.fcmp w) (bodyFcmp w) s

/-- A conversion between .f32 and another format (R86). DEDUCED (log entry 28): only an .f32 source is a source in an FP32
position (R67), so a short immediate of another source format is its sign-extended integer, of which the low bits are
read. -/
def bodyFcvt (w : Fields) : M Flow := do
  let src := fld w.e 3 0
  let d ← formatOf 0x30 w w.fmt.toNat 0
  let f ← formatOf 0x30 w src 5
  let x ← (if src = 7 then sourceF32 w.a else do return (← source w.a).toNat)
  destine w.d (BitVec.ofNat 64 (convertCode f d w.mod.toNat (x % 2 ^ f.bits)))
  return .fall
def execFcvt (w : Fields) (s : State) : Host.Outcome State Fault Refusal := issue (.fcvt w) (bodyFcvt w) s

/-! ## Tile memory (R87) -/

/-- Bytes of a scalar access by FMT, on a W-bit core (R87, R285). -/
def accessSize (big fmt : Nat) : Nat := if fmt = 0 then big / 8 else if fmt ≤ 2 then 4 else if fmt ≤ 4 then 2 else if fmt = 7 then 4 else 1

/-- Whether FMT extends a loaded value by its sign (R87, R285). -/
def loadSigned (fmt : Nat) : Bool := fmt == 1 || fmt == 3 || fmt == 5

/-- The checks of a scalar tile access, its order after the strand's global accesses (R237), and its address with the base after it (R28, R42). -/
def tileAddress (w : Fields) (n : Nat) : M (Nat × Option Word64) := do
  let r ← addressOf w
  let s ← get
  match tileCheck s.myTask s.me (isStackPointer w.a) r.1.toNat n n n with
  | some t => trapWith t
  | none =>
    afterOwn r.1.toNat n
    return (r.1.toNat, r.2)

/-- D := the bytes at the address, extended (R87). -/
def bodyLdt (w : Fields) : M Flow := do
  let c ← theCore
  let n := accessSize (coreWidth c) w.fmt.toNat
  let (a, post) ← tileAddress w n
  let s ← get
  trapIf (s.isDamaged (tilePa s.cur.strand.tileId a) n) (eccTrap 2 (BitVec.ofNat 64 a) 2)
  let v := bytesToNat (s.readTile s.cur.strand.tileId a n)
  writeBack w post
  destine w.d (BitVec.ofNat 64 (extendTo (coreWidth c) (8 * n) (loadSigned w.fmt.toNat) v))
  return .fall
def execLdt (w : Fields) (s : State) : Host.Outcome State Fault Refusal := issue (.ldt w) (bodyLdt w) s

/-- The bytes at the address := the low bytes of C (R87). -/
def bodyStt (w : Fields) : M Flow := do
  let c ← theCore
  let n := accessSize (coreWidth c) w.fmt.toNat
  let v ← source w.c
  let (a, post) ← tileAddress w n
  modify (fun s => s.writeTile s.cur.strand.tileId a (natToBytes n v.toNat))
  writeBack w post
  return .fall
def execStt (w : Fields) (s : State) : Host.Outcome State Fault Refusal := issue (.stt w) (bodyStt w) s

end Sys2Proof.Machine
end

