-- ==== Sys2Proof/Machine/Lanes.lean ====
section
/-! DEFINITION. Vector and mask registers as their instructions see them: cells and elements (R134, R135), broadcasts
(R137), lane control (R138), element arithmetic (R139), and the layouts of tile-memory vector accesses (R142, R143). -/

namespace Sys2Proof.Machine

/-- Lanes of a vector register (R134). -/
def laneCount : Nat := 1024

/-- An element in its cell: .s8 and .s16 sign-extended, every other narrow format zero-extended (R134). -/
def cellOf (f : Format) (code : Nat) : Word32 :=
  match f with
  | .int true w => BitVec.ofNat 32 (extendTo 32 w true code)
  | f => BitVec.ofNat 32 (code % 2 ^ f.bits)

/-- The element that a cell holds (R134). -/
def elemOf (f : Format) (c : Word32) : Nat := c.toNat % 2 ^ f.bits

/-- The cells of a vector register of a task; a register nothing has written is zero (R9). -/
def Task.vec (t : Task) (n : Nat) : List Word32 :=
  match t.v.get n [] with
  | [] => List.replicate laneCount 0
  | l => l

/-- The cells of the strand's vector register. -/
def readVec (n : Nat) : M (List Word32) := do return (← theTask).vec n

/-- Cells chosen by a mask: the new cell where it has a bit, else the kept cell or zero (R138). -/
def blend (mask : Nat) (keep : Bool) : List Word32 → List Word32 → List Word32
  | n :: ns, o :: os => (if mask % 2 = 1 then n else if keep then o else 0) :: blend (mask / 2) keep ns os
  | _, _ => []

/-- A vector register written whole; its damaged cells are repaired (R388). -/
def writeVec (n : Nat) (cells : List Word32) : M Unit :=
  modTask (fun t => { t with v := t.v.set n cells, badV := t.badV.filter (fun b => b / 1024 ≠ n) })

/-- A vector register written under the word's lane control (R138). -/
def writeLanes (w : Fields) (cells : List Word32) : M Unit := do
  let n := opndIndex w.d
  if w.e.getLsbD 4 then
    let t ← theTask
    let m := (t.k.get (fld w.e 3 0) 0).toNat
    let kept := blend m (!w.e.getLsbD 5) cells (t.vec n)
    modTask (fun x => { x with v := x.v.set n kept
                               badV := x.badV.filter (fun b => !(b / 1024 == n && (m.testBit (b % 1024) || w.e.getLsbD 5))) })
  else writeVec n cells

/-- A mask register (R135). -/
def readMask (n : Nat) : M (BitVec 1024) := do return (← theTask).k.get n 0

/-- A mask register written. -/
def writeMask (n : Nat) (v : BitVec 1024) : M Unit :=
  modTask (fun t => { t with k := t.k.set n v, badK := t.badK.filter (· ≠ n) })

/-- Bits of a list as a number, the first lowest. -/
def packBits : List Bool → Nat
  | [] => 0
  | b :: bs => b.toNat + 2 * packBits bs

/-- A W operand as a cell for every lane (R137). -/
def operandW (f : Format) (o : Opnd) : M (List Word32) := do
  match o with
  | .reg i => readVec i.toNat
  | .imm v =>
    let x := sext 8 v.toNat
    let code := match f with
      | .f32 => round (Num.ofInt x) f .rne
      | .bf16 => round (Num.ofInt x) f .rne
      | .f16 => round (Num.ofInt x) f .rne
      | f => wrapTo f.bits x
    return List.replicate laneCount (BitVec.ofNat 32 code)
  | o => return List.replicate laneCount (BitVec.ofNat 32 ((← source o).toNat % 2 ^ f.bits))

/-- Three lists lane by lane. -/
def zip3 {α β γ δ : Type} (f : α → β → γ → δ) : List α → List β → List γ → List δ
  | a :: as, b :: bs, c :: cs => f a b c :: zip3 f as bs cs
  | _, _, _ => []

/-- One lane of an arithmetic instruction on element codes (R139). -/
def laneOp (f : Format) (mod : Nat) (fp : Rnd → Nat → Nat → Nat → Nat) (int : Nat → Int → Int → Int → Int) (x y z : Nat) : Nat :=
  match f with
  | .f32 => fp (Rnd.ofMod mod) x y z
  | .bf16 => fp (Rnd.ofMod mod) x y z
  | .f16 => fp (Rnd.ofMod mod) x y z
  | f => finish mod f.bits f.signed (int f.bits (ival x f.bits f.signed) (ival y f.bits f.signed) (ival z f.bits f.signed))

/-- An element-wise arithmetic instruction of up to three W operands (R148). -/
def lanewise (w : Fields) (fp : Rnd → Nat → Nat → Nat → Nat) (int : Nat → Int → Int → Int → Int) (three : Bool) : M Flow := do
  let f := plainFormat w.fmt.toNat
  let a ← operandW f w.a
  let b ← operandW f w.b
  let c ← (if three then operandW f w.c else return b)
  writeLanes w (zip3 (fun x y z => cellOf f (laneOp f w.mod.toNat fp int (elemOf f x) (elemOf f y) (elemOf f z))) a b c)
  return .fall

/-- An element-wise instruction on the bits of two W operands; a shift count is the lane's B cell, which a scalar
register or immediate supplies as an element (R137, R149). -/
def lanebits (w : Fields) (op : (width u b : Nat) → Nat) : M Flow := do
  let f := plainFormat w.fmt.toNat
  let a ← operandW f w.a
  let b ← operandW f w.b
  writeLanes w (List.zipWith (fun x y => cellOf f (op f.bits (elemOf f x) y.toNat)) a b)
  return .fall

/-! ## Axes -/

/-- A list cut into pieces of n, at most `fuel` of them. -/
def pieces {α : Type} (n : Nat) : Nat → List α → List (List α)
  | 0, _ => []
  | fuel + 1, l => l.take n :: pieces n fuel (l.drop n)

/-- The 16 rows of a register (R134). -/
def rowsOf (l : List Word32) : List (List Word32) := pieces 64 16 l

/-- Columns of equal rows. -/
def transposed {α : Type} : List (List α) → Nat → List (List α)
  | _, 0 => []
  | rows, n + 1 => rows.filterMap List.head? :: transposed (rows.map List.tail) n

/-- A list rotated right by k places. -/
def rotateRight {α : Type} (k : Nat) (l : List α) : List α := l.drop (l.length - k) ++ l.take (l.length - k)

/-- A line halved and combined until one is left (R157). -/
def reduceBy {α : Type} (comb : α → α → α) : List Nat → List α → List α
  | [], l => l
  | h :: hs, l => reduceBy comb hs (List.zipWith comb (l.take h) (l.drop h))

/-- A line scanned inclusively by doubling steps (R158). -/
def scanBy {α : Type} (comb : α → α → α) : List Nat → List α → List α
  | [], l => l
  | h :: hs, l => scanBy comb hs (l.take h ++ List.zipWith comb l (l.drop h))

/-- The combining functions of R157 on cells of a format. -/
def combine (f : Format) (mod : Nat) (x y : Word32) : Word32 :=
  let a := elemOf f x
  let b := elemOf f y
  let fp (big : Bool) : Nat := minMaxCode f big a b
  let isFp := match f with | .f32 => true | .bf16 => true | .f16 => true | _ => false
  let sg := f.signed
  let i := ival a f.bits sg
  let j := ival b f.bits sg
  let code := match mod with
    | 0 => if isFp then fadd f .rne a b else wrapTo f.bits (i + j)
    | 2 => if isFp then fp false else wrapTo f.bits (min i j)
    | 4 => bitAnd a b
    | 5 => bitOr a b
    | _ => if isFp then fp true else wrapTo f.bits (max i j)
  cellOf f code

/-- An input of .amax: its absolute value, clamped to the format (R157). -/
def absInput (f : Format) (x : Word32) : Word32 :=
  match f with
  | .f32 => cellOf f (fabsCode f (elemOf f x))
  | .bf16 => cellOf f (fabsCode f (elemOf f x))
  | .f16 => cellOf f (fabsCode f (elemOf f x))
  | f =>
    let i := ival (elemOf f x) f.bits f.signed
    cellOf f (finish 1 f.bits f.signed (if i < 0 then -i else i))

/-! ## Tile-memory layouts -/

/-- The swizzles of R143. -/
def swizzle (code rho a : Nat) : Nat :=
  match code with
  | 1 => a ^^^ (rho % 32 * 128)
  | 2 => a ^^^ (rho % 8 * 16)
  | _ => a

/-- Addresses of the elements of a vector access in lane order: base, stride, element size, transposed or not, swizzle
(R142 to R146). -/
def laneAddresses (base stride size : Nat) (trans : Bool) (swz : Nat) : List Nat :=
  (List.range 16).flatMap (fun r => (List.range 64).map (fun c =>
    if trans then swizzle swz c ((base + c * stride + r * size) % 2 ^ 32)
    else swizzle swz r ((base + r * stride + c * size) % 2 ^ 32)))

/-- The lowest byte of elements that fail a test, if any does. -/
def lowestBad (size : Nat) (ok : Nat → Bool) (as : List Nat) : Option Nat :=
  as.foldl (fun acc a =>
    match (List.range size).find? (fun k => !ok (a + k)) with
    | none => acc
    | some k => match acc with | none => some (a + k) | some m => some (min m (a + k))) none

/-- The checks of R142 on a vector access: alignment, then the stack, then the allocation. -/
def vectorCheck (t : Task) (st : Strand) (stack trans : Bool) (base stride size : Nat) (as : List Nat) : Option Trap :=
  let row := if trans then 16 * size else 64 * size
  let unit := if trans then 16 * size else if size = 1 then 64 else 128
  let mk (code : FaultCode) (a : Nat) : Trap := { code := code, loc := 2, info := BitVec.ofNat 64 a, detail := BitVec.ofNat 32 row }
  if base % unit ≠ 0 ∨ stride % unit ≠ 0 then some (mk .misalign base)
  else
    match (if stack then lowestBad size (fun a => decide (st.stklim.toNat ≤ a) && decide (a < st.stkbase.toNat)) as else none) with
    | some a => some (mk .stackLimit a)
    | none => (lowestBad size (fun a => t.inBounds a 1) as).map (mk .tilememBounds)

/-- The element addresses of a vector load or store, checked, and its base afterwards. -/
def vectorAccess (w : Fields) (op : BitVec 8) (strided trans : Bool) : M (Format × List Nat × Option Word64) := do
  let f ← formatOf op w w.fmt.toNat 0
  let r ← (if strided then addressOfStrided w else addressOf w)
  let stride ← (if strided then do return (← source w.b).toNat % 2 ^ 32 else return 64 * f.bytes)
  let s ← get
  let as := laneAddresses r.1.toNat stride f.bytes trans (fld w.mod 1 0)
  match vectorCheck s.myTask s.me (isStackPointer w.a) trans r.1.toNat stride f.bytes as with
  | some t => trapWith t
  | none => return (f, as, r.2)

/-- A vector load (R144 to R146). -/
def vectorLoad (w : Fields) (op : BitVec 8) (strided trans : Bool) : M Flow := do
  let (f, as, post) ← vectorAccess w op strided trans
  let s ← get
  let tile := s.cur.strand.tileId
  match as.find? (fun a => s.isDamaged (tilePa tile a) f.bytes) with
  | some a => trapWith (eccTrap 2 (BitVec.ofNat 64 a) 2)
  | none =>
    writeVec (opndIndex w.d) (as.map (fun a => cellOf f (bytesToNat (s.readTile tile a f.bytes))))
    writeBack w post
    return .fall

/-- A vector store, in increasing register row and then column (R141, R144 to R146). -/
def vectorStore (w : Fields) (op : BitVec 8) (strided trans : Bool) : M Flow := do
  let v ← readVec (opndIndex w.c)
  let (f, as, post) ← vectorAccess w op strided trans
  modify (fun s => (as.zip v).foldl (fun x p => x.writeTile s.cur.strand.tileId p.1 (natToBytes f.bytes (elemOf f p.2))) s)
  writeBack w post
  return .fall

end Sys2Proof.Machine
end

