-- ==== Sys2Proof/Machine/Vector.lean ====
section
/-! DEFINITION. The vector instructions but for special functions and ports, 0x80 to 0xA4, 0xAA, 0xAB and 0xAF (R142 to
R161). -/

namespace Sys2Proof.Machine

/-! ## Tile memory (R144 to R146) -/

def execVld (w : Fields) (s : State) : Host.Outcome State Fault Refusal := issue (.vld w) (vectorLoad w 0x80 false false) s
def execVst (w : Fields) (s : State) : Host.Outcome State Fault Refusal := issue (.vst w) (vectorStore w 0x81 false false) s
def execVlds (w : Fields) (s : State) : Host.Outcome State Fault Refusal := issue (.vlds w) (vectorLoad w 0x82 true false) s
def execVsts (w : Fields) (s : State) : Host.Outcome State Fault Refusal := issue (.vsts w) (vectorStore w 0x83 true false) s
def execVldt (w : Fields) (s : State) : Host.Outcome State Fault Refusal := issue (.vldt w) (vectorLoad w 0x84 true true) s
def execVstt (w : Fields) (s : State) : Host.Outcome State Fault Refusal := issue (.vstt w) (vectorStore w 0x85 true true) s

/-! ## Moves (R153, R154) -/

/-- The A cell, or the broadcast value (R153). -/
def bodyVmov (w : Fields) : M Flow := do
  writeLanes w (← operandW .raw w.a)
  return .fall
def execVmov (w : Fields) (s : State) : Host.Outcome State Fault Refusal := issue (.vmov w) (bodyVmov w) s

/-- A, read once, as an element in every active lane (R153). -/
def bodyVbcs (w : Fields) : M Flow := do
  let f ← formatOf 0x87 w w.fmt.toNat 0
  let v ← source w.a
  writeLanes w (List.replicate laneCount (cellOf f v.toNat))
  return .fall
def execVbcs (w : Fields) (s : State) : Host.Outcome State Fault Refusal := issue (.vbcs w) (bodyVbcs w) s

/-- D := the cell of lane B mod 1,024 (R154). -/
def bodyVextr (w : Fields) : M Flow := do
  let v ← readVec (opndIndex w.a)
  let l := (← source w.b).toNat % laneCount
  let t ← theTask
  trapIf (t.badV.contains (1024 * opndIndex w.a + l)) (eccTrap 4 (BitVec.ofNat 64 (opndIndex w.a)))
  destine w.d ((v.getD l 0).zeroExtend 64)
  return .fall
def execVextr (w : Fields) (s : State) : Host.Outcome State Fault Refusal := issue (.vextr w) (bodyVextr w) s

/-- The cell of lane B mod 1,024 := A (R154). -/
def bodyVins (w : Fields) : M Flow := do
  let x ← source w.a
  let l := (← source w.b).toNat % laneCount
  let v ← readVec (opndIndex w.d)
  writeVec (opndIndex w.d) (listSet v l (fun _ => x.extractLsb' 0 32))
  return .fall
def execVins (w : Fields) (s : State) : Host.Outcome State Fault Refusal := issue (.vins w) (bodyVins w) s

/-! ## Element arithmetic (R148) -/

def execVadd (w : Fields) (s : State) : Host.Outcome State Fault Refusal :=
  issue (.vadd w) (lanewise w (fun m x y _ => fadd (plainFormat w.fmt.toNat) m x y) (fun _ x y _ => x + y) false) s
def execVsub (w : Fields) (s : State) : Host.Outcome State Fault Refusal :=
  issue (.vsub w) (lanewise w (fun m x y _ => fsub (plainFormat w.fmt.toNat) m x y) (fun _ x y _ => x - y) false) s
def execVmul (w : Fields) (s : State) : Host.Outcome State Fault Refusal :=
  issue (.vmul w) (lanewise w (fun m x y _ => fmul (plainFormat w.fmt.toNat) m x y)
    (fun wd x y _ => if w.mod = 2 then x * y / ((2 ^ wd : Nat) : Int) else x * y) false) s
def execVfma (w : Fields) (s : State) : Host.Outcome State Fault Refusal :=
  issue (.vfma w) (lanewise w (fun m x y z => ffma (plainFormat w.fmt.toNat) m x y z) (fun _ x y z => x * y + z) true) s
def execVmin (w : Fields) (s : State) : Host.Outcome State Fault Refusal :=
  issue (.vmin w) (lanewise w (fun _ x y _ => minMaxCode (plainFormat w.fmt.toNat) false x y) (fun _ x y _ => min x y) false) s
def execVmax (w : Fields) (s : State) : Host.Outcome State Fault Refusal :=
  issue (.vmax w) (lanewise w (fun _ x y _ => minMaxCode (plainFormat w.fmt.toNat) true x y) (fun _ x y _ => max x y) false) s

/-- An element-wise function of one W operand (R148). -/
def laneUnary (w : Fields) (fp : Nat → Nat) (int : Int → Int) : M Flow := do
  let f := plainFormat w.fmt.toNat
  let a ← operandW f w.a
  writeLanes w (a.map (fun x => cellOf f (laneOp f w.mod.toNat (fun _ c _ _ => fp c) (fun _ i _ _ => int i) (elemOf f x) 0 0)))
  return .fall
def execVabs (w : Fields) (s : State) : Host.Outcome State Fault Refusal :=
  issue (.vabs w) (laneUnary w (fabsCode (plainFormat w.fmt.toNat)) (fun i => if i < 0 then -i else i)) s
def execVneg (w : Fields) (s : State) : Host.Outcome State Fault Refusal :=
  issue (.vneg w) (laneUnary w (fnegCode (plainFormat w.fmt.toNat)) (fun i => -i)) s

/-! ## Logic and shifts (R149) -/

def execVand (w : Fields) (s : State) : Host.Outcome State Fault Refusal := issue (.vand w) (lanebits w (fun _ u b => bitAnd u b)) s
def execVor (w : Fields) (s : State) : Host.Outcome State Fault Refusal := issue (.vor w) (lanebits w (fun _ u b => bitOr u b)) s
def execVxor (w : Fields) (s : State) : Host.Outcome State Fault Refusal := issue (.vxor w) (lanebits w (fun _ u b => bitXor u b)) s
def execVshl (w : Fields) (s : State) : Host.Outcome State Fault Refusal := issue (.vshl w) (lanebits w shl) s
def execVshr (w : Fields) (s : State) : Host.Outcome State Fault Refusal := issue (.vshr w) (lanebits w shr) s
def execVsar (w : Fields) (s : State) : Host.Outcome State Fault Refusal := issue (.vsar w) (lanebits w sar) s

/-! ## Compares, masks and selection (R150 to R152) -/

/-- Bits of a mask by a word's lane control (R138, R150). -/
def maskLanes (w : Fields) (k : Nat → Nat) (result old : Nat) : Nat :=
  if w.e.getLsbD 4 then
    let m := k (fld w.e 3 0)
    (result &&& m) ||| (if w.e.getLsbD 5 then 0 else old &&& (2 ^ laneCount - 1 - m))
  else result

/-- A condition per lane into a mask (R150). -/
def bodyVcmp (w : Fields) : M Flow := do
  let f := plainFormat w.fmt.toNat
  let a ← operandW f w.a
  let b ← operandW f w.b
  let t ← theTask
  let bitsOf := List.zipWith (fun x y =>
    if 7 ≤ w.fmt.toNat then floatCond w.mod.toNat (decodeNum f (elemOf f x)) (decodeNum f (elemOf f y))
    else intCond w.mod.toNat f.bits (elemOf f x) (elemOf f y)) a b
  let k (n : Nat) : Nat := (t.k.get n 0).toNat
  writeMask (opndIndex w.d) (BitVec.ofNat 1024 (maskLanes w k (packBits bitsOf) (k (opndIndex w.d))))
  return .fall
def execVcmp (w : Fields) (s : State) : Host.Outcome State Fault Refusal := issue (.vcmp w) (bodyVcmp w) s

/-- a where kc has a bit, else b (R151). -/
def bodyVsel (w : Fields) : M Flow := do
  let a ← operandW .raw w.a
  let b ← operandW .raw w.b
  let k ← readMask (opndIndex w.c)
  writeLanes w (blend k.toNat true a b)
  return .fall
def execVsel (w : Fields) (s : State) : Host.Outcome State Fault Refusal := issue (.vsel w) (bodyVsel w) s

/-- The functions of R79 on 1,024 bits (R152). -/
def maskLogic (mod : Nat) (a b : BitVec 1024) : BitVec 1024 :=
  match mod with
  | 0 => a &&& b
  | 1 => a ||| b
  | 2 => a ^^^ b
  | 3 => a &&& ~~~b
  | 4 => ~~~(a &&& b)
  | 5 => ~~~(a ||| b)
  | 6 => ~~~(a ^^^ b)
  | _ => a ||| ~~~b

/-- kd := f(ka, kb) (R152). -/
def bodyKlog (w : Fields) : M Flow := do
  let a ← readMask (opndIndex w.a)
  let b ← readMask (opndIndex w.b)
  writeMask (opndIndex w.d) (maskLogic w.mod.toNat a b)
  return .fall
def execKlog (w : Fields) (s : State) : Host.Outcome State Fault Refusal := issue (.klog w) (bodyKlog w) s

/-- Index of the lowest set bit among n bits, or n. -/
def lowestSet : Nat → Nat → Nat
  | 0, _ => 0
  | n + 1, v => if v % 2 = 1 then 0 else 1 + lowestSet n (v / 2)

/-- The forms of KMOV (R152). -/
def bodyKmov (w : Fields) : M Flow := do
  match w.mod.toNat with
  | 0 => writeMask (opndIndex w.d) (← readMask (opndIndex w.a))
  | 1 =>
    let x := (← source w.a).toNat % 2 ^ 32
    let j := fld (← source w.b) 4 0
    let k ← readMask (opndIndex w.d)
    writeMask (opndIndex w.d) (BitVec.ofNat 1024 (insertField 1024 k.toNat x (32 * j) 32))
  | 2 =>
    let k ← readMask (opndIndex w.a)
    let j := fld (← source w.b) 4 0
    destine w.d (BitVec.ofNat 64 (extractField 1024 false k.toNat (32 * j) 32))
  | 3 => destine w.d (BitVec.ofNat 64 (popCount laneCount (← readMask (opndIndex w.a)).toNat))
  | _ => destine w.d (BitVec.ofNat 64 (lowestSet laneCount (← readMask (opndIndex w.a)).toNat))
  return .fall
def execKmov (w : Fields) (s : State) : Host.Outcome State Fault Refusal := issue (.kmov w) (bodyKmov w) s

/-! ## Permutes (R155, R156) -/

/-- A function of each row (R134). -/
def onRows (g : List Word32 → List Word32) (cells : List Word32) : List Word32 := (rowsOf cells).flatMap g

/-- A function of each column (R134). -/
def onColumns (g : List Word32 → List Word32) (cells : List Word32) : List Word32 :=
  (transposed ((transposed (rowsOf cells) 64).map g) 16).flatten

/-- Cells of a line picked by the low bits of the cells of another (R155). -/
def picked (mask : Nat) (line : List Word32) (idx : List Word32) : List Word32 := idx.map (fun x => line.getD (x.toNat &&& mask) 0)

/-- The permutes of VSWZ (R155). -/
def bodyVswz (w : Fields) : M Flow := do
  let a ← readVec (opndIndex w.a)
  match w.mod.toNat with
  | 0 => writeLanes w (List.zipWith (picked 63) (rowsOf a) (rowsOf (← readVec (opndIndex w.b)))).flatten
  | 1 =>
    let cols := List.zipWith (picked 15) (transposed (rowsOf a) 64) (transposed (rowsOf (← readVec (opndIndex w.b))) 64)
    writeLanes w (transposed cols 16).flatten
  | _ =>
    let n := fld (← source w.b) 5 0
    writeLanes w (onRows (fun row => (List.range 64).map (fun c => row.getD (c ^^^ n) 0)) a)
  return .fall
def execVswz (w : Fields) (s : State) : Host.Outcome State Fault Refusal := issue (.vswz w) (bodyVswz w) s

/-- A line of `len` cells rotated by n, or shifted by n with zeros coming in (R156). -/
def rotateLine (len : Nat) (fill : Bool) (n : Nat) (line : List Word32) : List Word32 :=
  if fill then (List.replicate (min n len) 0 ++ line).take len else rotateRight (n % len) line

/-- VROTR and VROTC (R156). -/
def rotation (w : Fields) (rows : Bool) : M Flow := do
  let a ← readVec (opndIndex w.a)
  let n := (← source w.b).toNat % 2 ^ 32
  writeLanes w (if rows then onRows (rotateLine 64 (w.mod == 1) n) a else onColumns (rotateLine 16 (w.mod == 1) n) a)
  return .fall
def execVrotr (w : Fields) (s : State) : Host.Outcome State Fault Refusal := issue (.vrotr w) (rotation w true) s
def execVrotc (w : Fields) (s : State) : Host.Outcome State Fault Refusal := issue (.vrotc w) (rotation w false) s

/-- Every cell of a line becomes its cell n mod len (R156). -/
def broadcastLine (len n : Nat) (line : List Word32) : List Word32 := List.replicate len (line.getD (n % len) 0)

/-- VBCR and VBCC (R156). -/
def axisBroadcast (w : Fields) (rows : Bool) : M Flow := do
  let a ← readVec (opndIndex w.a)
  let n := (← source w.b).toNat % 2 ^ 32
  writeLanes w (if rows then onRows (broadcastLine 64 n) a else onColumns (broadcastLine 16 n) a)
  return .fall
def execVbcr (w : Fields) (s : State) : Host.Outcome State Fault Refusal := issue (.vbcr w) (axisBroadcast w true) s
def execVbcc (w : Fields) (s : State) : Host.Outcome State Fault Refusal := issue (.vbcc w) (axisBroadcast w false) s

/-! ## Reductions and scans (R157, R158) -/

/-- The reduction of one line of `len` cells (R157). -/
def reduceLine (f : Format) (mod len : Nat) (hs : List Nat) (line : List Word32) : List Word32 :=
  let xs := if mod = 3 then line.map (absInput f) else line.map (fun x => cellOf f (elemOf f x))
  List.replicate len ((reduceBy (combine f mod) hs xs).headD 0)

/-- The scan of one line (R158). -/
def scanLine (f : Format) (mod : Nat) (hs : List Nat) (line : List Word32) : List Word32 :=
  let xs := line.map (fun x => cellOf f (elemOf f x))
  scanBy (combine f (if mod = 3 then 0 else mod)) hs (if mod = 3 then 0 :: xs.dropLast else xs)

/-- A function of every line of A into the lanes of D. -/
def onAxis (w : Fields) (rows : Bool) (g : List Word32 → List Word32) : M Flow := do
  let a ← readVec (opndIndex w.a)
  writeLanes w (if rows then onRows g a else onColumns g a)
  return .fall
def execVredr (w : Fields) (s : State) : Host.Outcome State Fault Refusal :=
  issue (.vredr w) (onAxis w true (reduceLine (plainFormat w.fmt.toNat) w.mod.toNat 64 [32, 16, 8, 4, 2, 1])) s
def execVredc (w : Fields) (s : State) : Host.Outcome State Fault Refusal :=
  issue (.vredc w) (onAxis w false (reduceLine (plainFormat w.fmt.toNat) w.mod.toNat 16 [8, 4, 2, 1])) s
def execVscnr (w : Fields) (s : State) : Host.Outcome State Fault Refusal :=
  issue (.vscnr w) (onAxis w true (scanLine (plainFormat w.fmt.toNat) w.mod.toNat [1, 2, 4, 8, 16, 32])) s
def execVscnc (w : Fields) (s : State) : Host.Outcome State Fault Refusal :=
  issue (.vscnc w) (onAxis w false (scanLine (plainFormat w.fmt.toNat) w.mod.toNat [1, 2, 4, 8])) s

/-! ## Conversions (R159 to R161) -/

/-- One lane of VCVT: two codes of one variant are an identity (R159). -/
def laneCvt (f d : Format) (mod x : Nat) : Nat := if f = d then x else convertCode f d mod x

/-- Lanes converted from the format in E to that of FMT (R159). -/
def bodyVcvt (w : Fields) : M Flow := do
  let d ← formatOf 0xA2 w w.fmt.toNat 0
  let f ← formatOf 0xA2 w (fld w.e 9 6) 5
  let a ← operandW f w.a
  writeLanes w (a.map (fun x => cellOf d (laneCvt f d w.mod.toNat (elemOf f x))))
  return .fall
def execVcvt (w : Fields) (s : State) : Host.Outcome State Fault Refusal := issue (.vcvt w) (bodyVcvt w) s

/-- Lanes of a group (R160). -/
def groupSize (w : Fields) : Nat := 32 * 2 ^ fld w.e 11 10

/-- Current scaling group by group: codes into D, scale codes into C (R160). -/
def bodyVqnt (w : Fields) : M Flow := do
  let d ← formatOf 0xA3 w w.fmt.toNat 0
  let f := plainFormat (fld w.e 9 6)
  let a ← readVec (opndIndex w.a)
  let groups := (pieces (groupSize w) (laneCount / groupSize w) (a.map (fun x => decodeNum f (elemOf f x)))).map
    (currentScale d (Rnd.ofMod w.mod.toNat))
  writeVec (opndIndex w.d) (groups.flatMap (fun g => g.2.map (cellOf d)))
  writeVec (opndIndex w.c) (groups.map (fun g => BitVec.ofNat 32 g.1) ++ List.replicate (laneCount - laneCount / groupSize w) 0)
  return .fall
def execVqnt (w : Fields) (s : State) : Host.Outcome State Fault Refusal := issue (.vqnt w) (bodyVqnt w) s

/-- Codes under the scale codes of C, rounded (R161). -/
def bodyVdqnt (w : Fields) : M Flow := do
  let f ← formatOf 0xA4 w (fld w.e 9 6) 5
  let d := plainFormat w.fmt.toNat
  let a ← readVec (opndIndex w.a)
  let c ← readVec (opndIndex w.c)
  let groups := pieces (groupSize w) (laneCount / groupSize w) a
  writeVec (opndIndex w.d) ((List.zipWith (fun g e =>
    g.map (fun x => cellOf d (round (scaled (decodeNum f (elemOf f x)) (fld e 7 0)) d (Rnd.ofMod w.mod.toNat)))) groups c).flatten)
  return .fall
def execVdqnt (w : Fields) (s : State) : Host.Outcome State Fault Refusal := issue (.vdqnt w) (bodyVdqnt w) s

end Sys2Proof.Machine
end

