-- ==== Sys2Proof/Machine/Elements.lean ====
section
/-! DEFINITION. Stream elements (R348 to R365): links, the firing rule of R353 and the records of R354, and one meaning per
element. An element's turn is one region clock: it emits what waits, or fires. ELEMENT_SPECIAL_TOKEN takes every other
token. -/

namespace Sys2Proof.Machine

/-! ## Links -/

/-- Tokens that leave an element in one clock, by target 0 or 1. -/
abbrev Batch := List (Nat × Tok)

/-- One token to both targets. -/
def both (t : Tok) : Batch := [(0, t), (1, t)]

/-- A data token of a number, to both targets. -/
def data (x : Word32) : Batch := both (.elem x)

/-- The key of a link in Region.links: four positions for each slot, output ports being slots 1016 to 1023 (R320, R348). -/
def linkKey (slot pos : Nat) : Nat := 4 * slot + pos

/-- Tokens on the link into a position of a slot. -/
def Region.link (r : Region) (slot pos : Nat) : List Tok := r.links.get (linkKey slot pos) []

/-- Target k of an element word. -/
def targetOf (w : ElemWord) (k : Nat) : Target := if k = 0 then w.t0 else w.t1

/-- Whether a token goes to a target: an invalid target discards it, and position 3 takes no scale or order token (R353,
R365). -/
def goesTo (t : Target) : Tok → Bool
  | .scale _ => t.valid && t.pos != 3#2
  | .pscl _ => t.valid && t.pos != 3#2
  | .order => t.valid && t.pos != 3#2
  | _ => t.valid

/-- Where the tokens of a batch go: link and token. -/
def Batch.sends (b : Batch) (w : ElemWord) : List (Nat × Tok) :=
  (b.filter (fun x => goesTo (targetOf w x.1) x.2)).map (fun x => (linkKey (targetOf w x.1).slot.toNat (targetOf w x.1).pos.toNat, x.2))

/-- Whether every link that a batch enters has room (R351, R352). -/
def Region.fits (r : Region) (w : ElemWord) (b : Batch) : Bool := (b.sends w).all (fun x => decide ((r.links.get x.1 []).length < 2))

/-- A batch placed on its links. -/
def Region.place (r : Region) (w : ElemWord) (b : Batch) : Region :=
  { r with links := (b.sends w).foldl (fun l x => l.set x.1 (l.get x.1 [] ++ [x.2])) r.links }

/-- An element has fired or a port has moved a token in this cycle (R406). -/
def Region.movedAt (r : Region) (clock : Nat) : Region := { r with moved := clock }

/-- Heads of positions of a slot consumed. -/
def Region.take (r : Region) (slot : Nat) (ps : List Nat) : Region :=
  { r with links := ps.foldl (fun l p => l.set (linkKey slot p) ((l.get (linkKey slot p) []).drop 1)) r.links }

/-! ## What an element is -/

/-- The record of a record element (R354): what a data token does, with what it emits and whether the record's length is
reached; what the release emits; and whether a poison token's place emits what its data would have. -/
structure RecordOp where
  take : Element → Word32 → Element × List Batch × Bool
  release : Element → List Batch
  poisonEmits : Bool := true

/-- An element's behaviour under R353: the positions it reads, whether it takes scale tokens, its firing, its record, and
what an end-of-stream (true) or order token resets. -/
structure ElemOp where
  reads : Element → (Nat → Option Tok) → List Nat := fun _ _ => [0]
  takesScale : Bool := false
  fire : Element → List Word32 → Element × List Batch := fun e _ => (e, [])
  rec' : Option RecordOp := none
  ends : Bool → Element → Element := fun _ e => e

/-- A record element's state between records. -/
def Element.fresh (e : Element) : Element :=
  { e with held := [], taken := 0, made := 0, bits := 0, nbits := 0, value := 0, left := 0, openRec := false, origin := none }

/-- Every token of a batch as poison. -/
def poisoned (o : Word64) (b : Batch) : Batch := b.map (fun x => (x.1, .poison o))

/-- A record ends: its release, all poison when poison was taken into it, and the state after it (R354). -/
def Element.endRecord (e : Element) (op : RecordOp) : Element × List Batch :=
  let l := op.release e
  let out := match e.origin with
    | none => l
    | some o => if l.isEmpty then [both (.poison o)] else l.map (poisoned o)
  (e.fresh, out)

/-- A token taken into a record (R354). -/
def Element.takeData (e : Element) (op : RecordOp) (x : Word32) (emits : Bool) : Element × List Batch :=
  let r := op.take { e with openRec := true } x
  let out := if emits then r.2.1 else []
  if r.2.2 then ((r.1.endRecord op).1, out ++ (r.1.endRecord op).2) else (r.1, out)

/-- The firing of an element on data. -/
def ElemOp.firing (op : ElemOp) (e : Element) (xs : List Word32) : Element × List Batch :=
  match op.rec' with
  | some r => e.takeData r (xs.headD 0) true
  | none => op.fire e xs

/-- What the end of a record or of a run does (R354, R363). -/
def ElemOp.ending (op : ElemOp) (eos : Bool) (e : Element) : Element × List Batch :=
  match op.rec' with
  | some r => e.endRecord r
  | none => (op.ends eos e, [])

/-! ## The element under the cursor -/

/-- Whether the cursor's slot is an element of a region that runs. -/
def State.holdsElement (s : State) (i : Instr) : Bool :=
  let r := s.region s.cur.region
  (r.status == .running || r.status == .closing) && !r.still &&
  (match r.image with
    | some im => im.kind == 2 && (match decodeElement (im.body.getD s.cur.slot 0) with | .ok j => decide (i = j) | .error _ => false)
    | none => false)

/-- The data cell of a token. -/
def dataCell : Tok → Word32
  | .elem x => x
  | _ => 0

/-- Whether a token is data. -/
def isData : Tok → Bool
  | .elem _ => true
  | _ => false

/-- Whether a token is an order token, or a scale token that the element does not take (R353). -/
def passes (takesScale : Bool) : Tok → Bool
  | .order => true
  | .scale _ => !takesScale
  | .pscl _ => !takesScale
  | _ => false

/-- Whether a token is poison. -/
def poisonOf : Tok → Option Word64
  | .poison o => some o
  | _ => none

/-- What an element does in one region clock: the positions whose heads it consumes, its state after, the batches it emits, the
first in this clock, and whether it draws a free value. -/
structure Move where
  takes : List Nat
  next : Element
  out : List Batch
  draws : Bool := false

/-- An element's move under R353, which with `true` is one for tokens other than data on every position: it emits what waits,
or applies the first case that matches its heads. A poison token's place in a record holds a free value (log entry 4). -/
def ElemOp.move (op : ElemOp) (id : RegionId) (slot : Nat) (r : Region) (free : Word32) : Option (Bool × Move) :=
  let e := r.elems.get slot {}
  let head (p : Nat) : Option Tok := (r.link slot p).head?
  let u := op.reads e head
  let toks := u.filterMap head
  if e.emit ≠ [] then some (false, ⟨[], e, e.emit, false⟩)
  else
    match u.findSome? (fun p => (head p).bind (fun t => if passes op.takesScale t then some (p, t) else none)) with
    | some (p, t) =>
      let rel := if t = .order then op.ending false e else (e, [])
      some (true, ⟨[p], rel.1, rel.2 ++ [both t], false⟩)
    | none =>
      match u.findSome? (fun p => (head p).bind (fun t => (poisonOf t).map (fun o => (p, o)))) with
      | some (p, o) =>
        match op.rec' with
        | some rop =>
          let t := ({ e with origin := e.origin.orElse (fun _ => some o) } : Element).takeData rop free rop.poisonEmits
          some (true, ⟨[p], t.1, t.2, true⟩)
        | none =>
          let ps := u.filter (fun q => match head q with | some t => isData t || (poisonOf t).isSome | none => false)
          some (true, ⟨ps, e, [both (.poison o)], false⟩)
      | none =>
        if toks.length ≠ u.length then none
        else if toks.all isData then
          let f := op.firing e (toks.map dataCell)
          some (false, ⟨u, { f.1 with firings := f.1.firings + 1 }, f.2, false⟩)
        else
          match op.takesScale, toks with
          | true, [.scale k] => some (false, ⟨u, { e with latch := k }, [], false⟩)
          | _, _ =>
            if toks.all (fun t => t == .eos) then
              let rel := op.ending true e
              some (true, ⟨u, rel.1, rel.2 ++ [both .eos], false⟩)
            else
              let ps := u.filter (fun q => match head q with | some t => isData t | none => false)
              some (true, ⟨ps, e, [both (.poison (elementOrigin .illegalEnc id slot e.firings))], false⟩)

/-! ## Formats and parameters -/

/-- The format of an FMT code in an element word, 0xA being the variant in PARAM[24:19] (R349). -/
def elemFormat (code : Nat) (param : BitVec 25) : Format := if code = 10 then .b8 (param.extractLsb' 19 6) else plainFormat code

/-- The format of an element. -/
def formatOfElem (w : ElemWord) : Format := elemFormat w.fmt.toNat w.param

/-- A 16-bit parameter as an operand (R359). -/
def immOperand (fmt p : Nat) : Nat :=
  if fmt = 7 then p % 65536 * 65536 else if 8 ≤ fmt then p % 65536 else wrapTo (plainFormat fmt).bits (sext 16 p)

/-- Whether the last operand is the parameter (R359). -/
def immOf (w : ElemWord) : Bool := w.param.getLsbD 24

/-- Positions that an arithmetic element of n operands reads (R357, R359). -/
def operandsOf (w : ElemWord) (n : Nat) : List Nat := List.range (if immOf w then n - 1 else n)

/-- Operand codes of an arithmetic element: the cells read, then the parameter (R359). -/
def codesOf (w : ElemWord) (xs : List Word32) : List Nat :=
  xs.map (elemOf (formatOfElem w)) ++ (if immOf w then [immOperand w.fmt.toNat (fld w.param 15 0)] else [])

/-! ## Elements without state -/

/-- An element that emits a function of its operand codes to both targets (R357, R359). -/
def mapOp (w : ElemWord) (n : Nat) (f : List Nat → Word32) : ElemOp :=
  { reads := fun _ _ => operandsOf w n, fire := fun e xs => (e, [data (f (codesOf w xs))]) }

/-- An arithmetic element: as the vector instruction of its name (R148, R359). -/
def arithOp (w : ElemWord) (n : Nat) (fp : Rnd → Nat → Nat → Nat → Nat) (int : Nat → Int → Int → Int → Int) : ElemOp :=
  mapOp w n (fun c => cellOf (formatOfElem w) (laneOp (formatOfElem w) w.mod.toNat fp int (c.getD 0 0) (c.getD 1 0) (c.getD 2 0)))

/-- COPY (R357). -/
def copyOp : ElemOp := { fire := fun e xs => (e, [data (xs.headD 0)]) }

/-- CONST (R359). -/
def constOp (w : ElemWord) : ElemOp :=
  let code := if 7 ≤ w.fmt.toNat then immOperand w.fmt.toNat (fld w.param 15 0) else wrapTo (formatOfElem w).bits (sext 25 w.param.toNat)
  { fire := fun e _ => (e, [data (cellOf (formatOfElem w) code)]) }

/-- ADD, SUB, MUL, FMA, MIN and MAX (R359). -/
def addOp (w : ElemWord) : ElemOp := arithOp w 2 (fun m x y _ => fadd (formatOfElem w) m x y) (fun _ x y _ => x + y)
def subOp (w : ElemWord) : ElemOp := arithOp w 2 (fun m x y _ => fsub (formatOfElem w) m x y) (fun _ x y _ => x - y)
def mulOp (w : ElemWord) : ElemOp :=
  arithOp w 2 (fun m x y _ => fmul (formatOfElem w) m x y) (fun wd x y _ => if w.mod = 2 then x * y / ((2 ^ wd : Nat) : Int) else x * y)
def fmaOp (w : ElemWord) : ElemOp := arithOp w 3 (fun m x y z => ffma (formatOfElem w) m x y z) (fun _ x y z => x * y + z)
def minOp (w : ElemWord) : ElemOp := arithOp w 2 (fun _ x y _ => minMaxCode (formatOfElem w) false x y) (fun _ x y _ => min x y)
def maxOp (w : ElemWord) : ElemOp := arithOp w 2 (fun _ x y _ => minMaxCode (formatOfElem w) true x y) (fun _ x y _ => max x y)

/-- LOGIC (R149, R359). -/
def logicOp (w : ElemWord) : ElemOp :=
  mapOp w 2 (fun c =>
    let f := (formatOfElem w)
    let x := c.getD 0 0
    let y := c.getD 1 0
    cellOf f (match w.mod.toNat with
      | 0 => bitAnd x y
      | 1 => bitOr x y
      | 2 => bitXor x y
      | 3 => shl f.bits x y
      | 4 => shr f.bits x y
      | _ => sar f.bits x y))

/-- CMP (R77, R85, R359). -/
def cmpOp (w : ElemWord) : ElemOp :=
  mapOp w 2 (fun c =>
    let f := (formatOfElem w)
    let x := c.getD 0 0
    let y := c.getD 1 0
    if (if 7 ≤ w.fmt.toNat then floatCond w.mod.toNat (decodeNum f x) (decodeNum f y) else intCond w.mod.toNat f.bits x y) then 1 else 0)

/-- CVT (R159, R359). -/
def cvtOp (w : ElemWord) : ElemOp :=
  let f := elemFormat (fld w.param 3 0) w.param
  { fire := fun e xs => (e, [data (cellOf (formatOfElem w) (convertCode f (formatOfElem w) w.mod.toNat (elemOf f (xs.headD 0))))]) }

/-- Entry i of a table of entries of es bytes in data slots from a base on (R360). -/
def tableEntry (body : List Word64) (base es i : Nat) : Nat :=
  (List.range es).foldr (fun k acc =>
    let o := i * es + k
    acc * 256 + fld (body.getD (base + o / 4) 0) (8 * (o % 4) + 7) (8 * (o % 4))) 0

/-- LUT over the words of its region's image (R360). -/
def lutOp (w : ElemWord) (body : List Word64) : ElemOp :=
  let es := 2 ^ fld w.param 11 10
  let k := fld w.param 14 12 + 1
  { fire := fun e xs =>
      let i := (xs.headD 0).toNat / 2 ^ fld w.param 9 5 % 2 ^ k
      let v := tableEntry body (fld w.param 24 15) es i
      (e, [data (if w.fmt = 3 ∨ w.fmt = 5 then cellOf (.int true (8 * es)) v else BitVec.ofNat 32 v)]) }
/-- The words of the image of the cursor's region. -/
def State.imageBody (s : State) (id : RegionId) : List Word64 := match (s.region id).image with | some im => im.body | none => []

/-! ## Records (R361 to R364) -/

/-- Fields of b bits that a bit stream yields, at most n of them. -/
def fieldsOut (b : Nat) (signed : Bool) : Nat → Nat → Nat → List Batch × Nat × Nat
  | 0, bits, nbits => ([], bits, nbits)
  | n + 1, bits, nbits =>
    if nbits < b then ([], bits, nbits)
    else
      let v := bits % 2 ^ b
      let r := fieldsOut b signed n (bits / 2 ^ b) (nbits - b)
      (data (if signed then BitVec.ofInt 32 (sext b v) else BitVec.ofNat 32 v) :: r.1, r.2)

/-- Field width and record length of UNPACK and PACK (R361). -/
def fieldWidth (w : ElemWord) : Nat := fld w.param 4 0 + 1
def fieldLength (w : ElemWord) : Nat := fld w.param 20 5

/-- UNPACK (R361). -/
def unpackOp (w : ElemWord) : ElemOp :=
  let rlen := fieldLength w
  { rec' := some
      { take := fun e x =>
          let left := if rlen = 0 then 64 else rlen - e.made
          let r := fieldsOut (fieldWidth w) (w.fmt == 1) left (e.bits + x.toNat * 2 ^ e.nbits) (e.nbits + 32)
          ({ e with bits := r.2.1, nbits := r.2.2, taken := e.taken + 1, made := e.made + r.1.length }, r.1, decide (rlen ≠ 0 ∧ rlen ≤ e.made + r.1.length))
        release := fun _ => [] } }

/-- PACK (R361). -/
def packOp (w : ElemWord) : ElemOp :=
  let b := fieldWidth w
  let rlen := fieldLength w
  { rec' := some
      { take := fun e x =>
          let bits := e.bits + x.toNat % 2 ^ b * 2 ^ e.nbits
          let n := e.nbits + b
          let full := decide (32 ≤ n)
          ({ e with bits := if full then bits / 2 ^ 32 else bits, nbits := if full then n - 32 else n, taken := e.taken + 1 },
           if full then [data (BitVec.ofNat 32 (bits % 2 ^ 32))] else [], decide (rlen ≠ 0 ∧ rlen ≤ e.taken + 1))
        release := fun e => if e.nbits = 0 then [] else [data (BitVec.ofNat 32 e.bits)] } }

/-- Whether a cell is zero in the sense of ZENC (R362). -/
def cellZero (w : ElemWord) (x : Word32) : Bool :=
  let c := elemOf (formatOfElem w) x
  if 7 ≤ w.fmt.toNat ∧ w.fmt.toNat ≤ 9 then (decodeNum (formatOfElem w) c).isZero else c == 0

/-- Cells held in a record. -/
def Element.cells (e : Element) : List Word32 := e.held.map dataCell

/-- ZENC (R362). -/
def zencOp (w : ElemWord) : ElemOp :=
  { rec' := some
      { take := fun e x => ({ e with held := e.held ++ [.elem x], taken := e.taken + 1 }, [], decide (fld w.param 5 0 + 1 ≤ e.taken + 1))
        release := fun e =>
          if e.held.isEmpty then []
          else data (BitVec.ofNat 32 (packBits (e.cells.map (fun x => !cellZero w x)))) :: (e.cells.filter (fun x => !cellZero w x)).map data } }

/-- The elements of a group from its mask and the values present (R362). -/
def spread (mask : Nat) : Nat → List Word32 → List Word32
  | 0, _ => []
  | n + 1, xs => if mask % 2 = 1 then xs.headD 0 :: spread (mask / 2) n xs.tail else 0 :: spread (mask / 2) n xs

/-- ZDEC (R362): the first token of a record is its mask. -/
def zdecOp (w : ElemWord) : ElemOp :=
  let g := fld w.param 5 0 + 1
  { rec' := some
      { take := fun e x =>
          if e.taken = 0 then
            let need := popCount g x.toNat
            ({ e with value := x, left := need, taken := 1 }, [], need == 0)
          else ({ e with held := e.held ++ [.elem x], left := e.left - 1, taken := e.taken + 1 }, [], decide (e.left ≤ 1))
        release := fun e => if e.taken = 0 then [] else (spread e.value.toNat g e.cells).map data } }

/-- DELTA (R362). -/
def deltaOp (w : ElemWord) : ElemOp :=
  let rlen := fld w.param 15 0
  { rec' := some
      { take := fun e x =>
          let out := if w.mod = 1 then x - e.value else e.value + x
          let cell := cellOf (formatOfElem w) out.toNat
          ({ e with value := if w.mod = 1 then x else out, taken := e.taken + 1 }, [data cell], decide (rlen ≠ 0 ∧ rlen ≤ e.taken + 1))
        release := fun _ => []
        poisonEmits := false } }

/-- BQNT (R127, R363). -/
def bqntOp (w : ElemWord) : ElemOp :=
  let f := plainFormat (fld w.param 3 0)
  { rec' := some
      { take := fun e x => ({ e with held := e.held ++ [.elem x], taken := e.taken + 1 }, [], decide (32 ≤ e.taken + 1))
        release := fun e =>
          let q := currentScale (formatOfElem w) (Rnd.ofMod w.mod.toNat) (e.cells.map (fun x => decodeNum f (elemOf f x)))
          if e.held.isEmpty then [] else both (.scale (BitVec.ofNat 8 q.1)) :: q.2.map (fun x => data (cellOf (formatOfElem w) x)) } }

/-- Insertion of a value with its record index into a ranking, after those that are not below it (R364). -/
def rankIn (below : Word32 → Word32 → Bool) (x : Word32 × Nat) : List (Word32 × Nat) → List (Word32 × Nat)
  | [] => [x]
  | y :: ys => if below y.1 x.1 then x :: y :: ys else y :: rankIn below x ys

/-- Whether a value ranks below another (R364). -/
def ranksBelow (w : ElemWord) (x y : Word32) : Bool :=
  let f := (formatOfElem w)
  if 7 ≤ w.fmt.toNat then
    let a := decodeNum f (elemOf f x)
    let b := decodeNum f (elemOf f y)
    if a.isNan then !b.isNan else !b.isNan && a.lt b
  else decide (ival (elemOf f x) f.bits f.signed < ival (elemOf f y) f.bits f.signed)

/-- TOPK (R364). -/
def topkOp (w : ElemWord) : ElemOp :=
  { rec' := some
      { take := fun e x => ({ e with held := e.held ++ [.elem x], taken := e.taken + 1 }, [], decide (fld w.param 21 6 ≤ e.taken + 1))
        release := fun e =>
          let ranked := e.cells.zipIdx.foldl (fun l x => rankIn (ranksBelow w) x l) []
          (ranked.take (fld w.param 5 0 + 1)).map (fun x => [(0, .elem x.1), (1, .elem (BitVec.ofNat 32 x.2))]) } }

/-- COUNT (R364). -/
def countOp (w : ElemWord) : ElemOp :=
  let rlen := fld w.param 15 0
  { rec' := some
      { take := fun e x =>
          ({ e with taken := e.taken + 1, made := e.made + (if w.mod = 1 ∧ cellZero w x then 0 else 1) }, [], decide (rlen ≠ 0 ∧ rlen ≤ e.taken + 1))
        release := fun e => [data (BitVec.ofNat 32 e.made)] } }

/-! ## Scales (R363) -/

/-- BDQNT (R161, R363). -/
def bdqntOp (w : ElemWord) : ElemOp :=
  let f := elemFormat 10 w.param
  { takesScale := true
    fire := fun e xs => (e, [data (cellOf (formatOfElem w) (round (scaled (decodeNum f (elemOf f (xs.headD 0))) e.latch.toNat) (formatOfElem w) (Rnd.ofMod w.mod.toNat)))])
    ends := fun eos e => if eos then { e with latch := 0x7F } else e }

/-- EXPADD (R363): a run's factor is read with its first element. -/
def expaddOp (w : ElemWord) : ElemOp :=
  let f := (formatOfElem w)
  { reads := fun e _ => if e.left = 0 then [0, 1] else [0]
    fire := fun e xs =>
      let k : Word32 := if e.left = 0 then xs.getD 1 0 &&& 0xFF else e.value
      let v := (decodeNum f (elemOf f (xs.headD 0))).scale ((k.toNat : Int) - (fld w.param 24 17 : Nat))
      ({ e with value := k, left := (if e.left = 0 then fld w.param 15 0 else e.left) - 1 }, [data (cellOf f (round v f (Rnd.ofMod w.mod.toNat)))])
    ends := fun _ e => { e with left := 0, value := 0 } }

/-! ## Control (R365) -/

/-- The control value at a head: data, its bit 0. -/
def controlBit : Option Tok → Option Bool
  | some (.elem x) => some (x.getLsbD 0)
  | _ => none

/-- STEER (R365). -/
def steerOp : ElemOp :=
  { reads := fun _ _ => [0, 3]
    fire := fun e xs => (e, [[(if (xs.getD 1 0).getLsbD 0 then 0 else 1, .elem (xs.headD 0))]]) }

/-- MERGE (R365): bit 0 of the control chooses position 0 or 1. -/
def mergeOp : ElemOp :=
  { reads := fun _ head => match controlBit (head 3) with | some c => [c.toNat, 3] | none => [3]
    fire := fun e xs => (e, [data (xs.headD 0)]) }

/-- CARRY (R365). -/
def carryOp : ElemOp :=
  { reads := fun e head => if e.inLoop then (match controlBit (head 3) with | some true => [1, 3] | _ => [3]) else [0]
    fire := fun e xs =>
      if e.inLoop then
        match xs with
        | [x, _] => (e, [data x])
        | _ => ({ e with inLoop := false }, [])
      else ({ e with inLoop := true }, [data (xs.headD 0)]) }

/-! ## Sources, sinks and buffers -/

/-- A port of a region (R329). -/
def regionPort (r : RegionId) (out : Bool) (n : Nat) : PortId := ⟨r.die, .region, r.region, out, n⟩

/-- A channel's token as a token of the graph (R350, R356). -/
def graphToken (ty : Word32) : Tok → Tok
  | .elem x => .elem (cellOf (typeFormat ty) x.toNat)
  | .pscl k => .scale k
  | t => t

/-- The record of a poison stop at a SINK (R386). -/
def State.elementRecord (_ : State) (r : RegionId) (slot : Nat) (origin : Word64) : Record :=
  { dw0 := BitVec.ofNat 64 (0x0F * 2 ^ 56 + 2 ^ 51), dw1 := 0, dw2 := origin
    dw3 := BitVec.ofNat 64 ((2 ^ 30 + r.region % 64 * 2 ^ 24 + slot % 1024 * 2 ^ 14) * 2 ^ 32) }

/-- SINK's move: it consumes every token (R357). -/
def sinkMove (slot : Nat) (r : Region) : Option Move :=
  let e := r.elems.get slot {}
  if r.link slot 0 = [] then none else some { takes := [0], next := { e with firings := e.firings + 1 }, out := [] }

/-- QBUF's move: it emits its oldest token, when that has room or QBUF is full, and takes one when it has room (R353, R357). -/
def qbufMove (w : ElemWord) (slot : Nat) (r : Region) : Option Move :=
  let e := r.elems.get slot {}
  let depth := fld w.param 12 0
  let took (held : List Tok) : Element × List Nat :=
    match (r.link slot 0).head? with
    | some t => if held.length < depth then ({ e with held := held ++ [t], firings := e.firings + 1 }, [0]) else ({ e with held := held }, [])
    | none => ({ e with held := held }, [])
  match e.held with
  | t :: ts =>
    if r.fits w (both t) ∨ depth ≤ e.held.length then some { takes := (took ts).2, next := (took ts).1, out := [both t] }
    else if (took e.held).2 = [] then none else some { takes := (took e.held).2, next := (took e.held).1, out := [] }
  | [] => if (took []).2 = [] then none else some { takes := (took []).2, next := (took []).1, out := [] }

/-! ## Region clocks -/

/-- The behaviour under R353 of an element and its word; SOURCE, SINK and QBUF take every token as it comes. -/
def elemOpOf (i : Instr) (body : List Word64) : Option (ElemWord × ElemOp) :=
  match i with
  | .elCopy w => some (w, copyOp)
  | .elConst w => some (w, constOp w)
  | .elAdd w => some (w, addOp w)
  | .elSub w => some (w, subOp w)
  | .elMul w => some (w, mulOp w)
  | .elFma w => some (w, fmaOp w)
  | .elMin w => some (w, minOp w)
  | .elMax w => some (w, maxOp w)
  | .elLogic w => some (w, logicOp w)
  | .elCmp w => some (w, cmpOp w)
  | .elCvt w => some (w, cvtOp w)
  | .elLut w => some (w, lutOp w body)
  | .elUnpack w => some (w, unpackOp w)
  | .elPack w => some (w, packOp w)
  | .elZenc w => some (w, zencOp w)
  | .elZdec w => some (w, zdecOp w)
  | .elDelta w => some (w, deltaOp w)
  | .elBqnt w => some (w, bqntOp w)
  | .elBdqnt w => some (w, bdqntOp w)
  | .elExpadd w => some (w, expaddOp w)
  | .elTopk w => some (w, topkOp w)
  | .elCount w => some (w, countOp w)
  | .elSteer w => some (w, steerOp)
  | .elMerge w => some (w, mergeOp)
  | .elCarry w => some (w, carryOp)
  | _ => none

/-- The word and the move of the element in a slot, of either kind; a SINK whose token is poison moves only by itself (R386). -/
def State.moveOf (s : State) (id : RegionId) (slot : Nat) : Option (ElemWord × Move) :=
  let r := s.region id
  match decodeElement ((s.imageBody id).getD slot 0) with
  | .ok (.elQbuf w) => (qbufMove w slot r).map (fun m => (w, m))
  | .ok (.elSink w) => if ((r.link slot 0).head?.bind poisonOf).isSome then none else (sinkMove slot r).map (fun m => (w, m))
  | .ok i =>
    match elemOpOf i (s.imageBody id) with
    | some (w, op) => (op.move id slot r (s.draw.1.extractLsb' 0 32)).map (fun m => (w, m.2))
    | none => none
  | .error _ => none

/-- Slots whose element a batch's full links wait for. -/
def Region.waitsOn (r : Region) (w : ElemWord) (b : Batch) : List Nat :=
  ((b.sends w).filter (fun x => decide (2 ≤ (r.links.get x.1 []).length) && decide (x.1 / 4 < 1016))).map (fun x => x.1 / 4)

/-- An element makes its move when every link it enters has room, which is counted after the consumptions of the same clock: the
elements that full links wait for move first, each at most once (R351, R352, R372). Nothing happens when it has no room. -/
def State.makeMove : Nat → State → RegionId → List Nat → Nat → ElemWord → Move → State
  | 0, s, _, _, _, _, _ => s
  | fuel + 1, s, id, before, slot, w, m =>
    let r := s.region id
    let out := m.out.headD []
    let s1 := ({ s with drawn := s.drawn + m.draws.toNat } : State).setRegion id
      { (r.take slot m.takes) with elems := r.elems.set slot { m.next with emit := m.out.drop 1 } }
    let s2 := ((s1.region id).waitsOn w out).foldl (fun x c =>
      if (slot :: before).contains c then x
      else match x.moveOf id c with | some k => State.makeMove fuel x id (slot :: before) c k.1 k.2 | none => x) s1
    if (s2.region id).fits w out then s2.updRegion id (fun y => (y.place w out).movedAt s.clock) else s

/-- The element of a slot makes its move. -/
def State.elemStep (s : State) (id : RegionId) (slot : Nat) (w : ElemWord) (m : Move) : State := s.makeMove 1025 id [] slot w m

/-- An element's region clock (R352, R353): it emits what waits, or fires when every position it reads holds data. -/
def State.elemClock (s : State) (w : ElemWord) (op : ElemOp) : State :=
  match op.move s.cur.region s.cur.slot (s.region s.cur.region) (s.draw.1.extractLsb' 0 32) with
  | some (false, m) => s.elemStep s.cur.region s.cur.slot w m
  | _ => s

/-- An element's handling of tokens other than data on every position (R353, R354, R355). -/
def State.elemSpecial (s : State) (id : RegionId) (slot : Nat) (w : ElemWord) (op : ElemOp) : State :=
  match op.move id slot (s.region id) (s.draw.1.extractLsb' 0 32) with
  | some (true, m) => s.elemStep id slot w m
  | _ => s

/-- SOURCE's region clock (R356): closed inputs deliver nothing (R406). -/
def State.sourceClock (s : State) (w : ElemWord) : State :=
  let id := s.cur.region
  let slot := s.cur.slot
  let r := s.region id
  let e := r.elems.get slot {}
  let p := regionPort id false (fld w.param 2 0)
  match (s.inToks p).head? with
  | none => s
  | some t =>
    let b := both (graphToken (s.portType p) t)
    if r.gatedIn then s
    else
      let m : Move := { takes := [], next := { e with firings := e.firings + 1 }, out := [b] }
      let s1 := s.elemStep id slot w m
      if ((s1.region id).elems.get slot {}).firings = e.firings + 1 then s1.consume p 1 else s

/-- SINK's region clock: it consumes every token, and poison stops the load (R357, R386). -/
def State.sinkClock (s : State) (w : ElemWord) : State :=
  let id := s.cur.region
  let slot := s.cur.slot
  let r := s.region id
  match (r.link slot 0).head?, sinkMove slot r with
  | some t, some m =>
    let s1 := s.elemStep id slot w m
    (match t, r.load with
    | .poison o, some l => s1.stopLoad l id.die 0 (s1.elementRecord id slot o)
    | _, _ => s1)
  | _, _ => s

/-- QBUF's region clock (R353, R357). -/
def State.qbufClock (s : State) (w : ElemWord) : State :=
  match qbufMove w s.cur.slot (s.region s.cur.region) with
  | some m => s.elemStep s.cur.region s.cur.slot w m
  | none => s

/-- The meaning of an element: its region clock. -/
def runElement (i : Instr) (w : ElemWord) (op : ElemOp) (s : State) : Host.Outcome State Fault Refusal :=
  if s.holdsElement i then .next (s.elemClock w op) else .fault .noElement

def execElCopy (w : ElemWord) (s : State) : Host.Outcome State Fault Refusal := runElement (.elCopy w) w copyOp s
def execElConst (w : ElemWord) (s : State) : Host.Outcome State Fault Refusal := runElement (.elConst w) w (constOp w) s
def execElAdd (w : ElemWord) (s : State) : Host.Outcome State Fault Refusal := runElement (.elAdd w) w (addOp w) s
def execElSub (w : ElemWord) (s : State) : Host.Outcome State Fault Refusal := runElement (.elSub w) w (subOp w) s
def execElMul (w : ElemWord) (s : State) : Host.Outcome State Fault Refusal := runElement (.elMul w) w (mulOp w) s
def execElFma (w : ElemWord) (s : State) : Host.Outcome State Fault Refusal := runElement (.elFma w) w (fmaOp w) s
def execElMin (w : ElemWord) (s : State) : Host.Outcome State Fault Refusal := runElement (.elMin w) w (minOp w) s
def execElMax (w : ElemWord) (s : State) : Host.Outcome State Fault Refusal := runElement (.elMax w) w (maxOp w) s
def execElLogic (w : ElemWord) (s : State) : Host.Outcome State Fault Refusal := runElement (.elLogic w) w (logicOp w) s
def execElCmp (w : ElemWord) (s : State) : Host.Outcome State Fault Refusal := runElement (.elCmp w) w (cmpOp w) s
def execElCvt (w : ElemWord) (s : State) : Host.Outcome State Fault Refusal := runElement (.elCvt w) w (cvtOp w) s
def execElLut (w : ElemWord) (s : State) : Host.Outcome State Fault Refusal := runElement (.elLut w) w (lutOp w (s.imageBody s.cur.region)) s
def execElUnpack (w : ElemWord) (s : State) : Host.Outcome State Fault Refusal := runElement (.elUnpack w) w (unpackOp w) s
def execElPack (w : ElemWord) (s : State) : Host.Outcome State Fault Refusal := runElement (.elPack w) w (packOp w) s
def execElZenc (w : ElemWord) (s : State) : Host.Outcome State Fault Refusal := runElement (.elZenc w) w (zencOp w) s
def execElZdec (w : ElemWord) (s : State) : Host.Outcome State Fault Refusal := runElement (.elZdec w) w (zdecOp w) s
def execElDelta (w : ElemWord) (s : State) : Host.Outcome State Fault Refusal := runElement (.elDelta w) w (deltaOp w) s
def execElBqnt (w : ElemWord) (s : State) : Host.Outcome State Fault Refusal := runElement (.elBqnt w) w (bqntOp w) s
def execElTopk (w : ElemWord) (s : State) : Host.Outcome State Fault Refusal := runElement (.elTopk w) w (topkOp w) s
def execElCount (w : ElemWord) (s : State) : Host.Outcome State Fault Refusal := runElement (.elCount w) w (countOp w) s
def execElBdqnt (w : ElemWord) (s : State) : Host.Outcome State Fault Refusal := runElement (.elBdqnt w) w (bdqntOp w) s
def execElExpadd (w : ElemWord) (s : State) : Host.Outcome State Fault Refusal := runElement (.elExpadd w) w (expaddOp w) s
def execElSteer (w : ElemWord) (s : State) : Host.Outcome State Fault Refusal := runElement (.elSteer w) w steerOp s
def execElMerge (w : ElemWord) (s : State) : Host.Outcome State Fault Refusal := runElement (.elMerge w) w mergeOp s
def execElCarry (w : ElemWord) (s : State) : Host.Outcome State Fault Refusal := runElement (.elCarry w) w carryOp s
def execElSource (w : ElemWord) (s : State) : Host.Outcome State Fault Refusal :=
  if s.holdsElement (.elSource w) then .next (s.sourceClock w) else .fault .noElement
def execElSink (w : ElemWord) (s : State) : Host.Outcome State Fault Refusal :=
  if s.holdsElement (.elSink w) then .next (s.sinkClock w) else .fault .noElement
def execElQbuf (w : ElemWord) (s : State) : Host.Outcome State Fault Refusal :=
  if s.holdsElement (.elQbuf w) then .next (s.qbufClock w) else .fault .noElement

/-- ELEMENT_SPECIAL_TOKEN of a slot of a region (R353, R354). -/
def eventSpecialToken (s : State) : State :=
  let id : RegionId := ⟨s.event.die, s.event.region⟩
  let r := s.region id
  match r.image with
  | some im =>
    if (r.status = .running ∨ r.status = .closing) ∧ r.still = false ∧ im.kind = 2 then
      match decodeElement (im.body.getD s.event.slot 0) with
      | .ok i => (match elemOpOf i im.body with | some (w, op) => s.elemSpecial id s.event.slot w op | none => s)
      | .error _ => s
    else s
  | none => s

/-- ELEMENT_SPECIAL_TOKEN. -/
def execElementSpecialToken (s : State) : Host.Outcome State Fault Refusal := .next (eventSpecialToken s)

end Sys2Proof.Machine
end

