-- ==== Sys2Proof/Machine/Images.lean ====
section
/-! DEFINITION. Image containers (R323) and what the region manager checks before it configures one (R324): signatures, port types,
and for an element graph every condition of R367. -/

namespace Sys2Proof.Machine

/-! ## Containers -/

/-- Bytes of a container's header and of its signature block (R323). -/
def headerBytes : Nat := 128
def signatureBytes : Nat := 3392

/-- The signatures of a container hold under a key pair (R324, R443). -/
def signedBy (key : List Byte × List Byte) (message block : List Byte) : Bool :=
  Config.ed25519Ok key.1 message (block.take 64) && Config.mldsaOk key.2 message ((block.drop 64).take 3309) &&
  (block.drop (64 + 3309)).all (fun b => b == 0)

/-- A key pair of the firmware key store; slot 0 holds the vendor's (R443, R445), and a slot in which no key has been installed
has none. -/
def Package.keyPair (p : Package) (slot : Nat) : Option (List Byte × List Byte) := if slot = 0 then some Config.vendorKeys else p.keyStore.find? slot

/-- The checks of a container's header that R323 gives for a kind. -/
def headerOk (h : List Word64) : Bool :=
  fld (dw h 0) 63 48 == 0x46C9 && fld (dw h 0) 47 44 == 1 && fld (dw h 0) 29 0 == 0 && fld (dw h 1) 31 8 == 0 && fld (dw h 2) 25 0 == 0 &&
  [12, 13, 14, 15].all (fun k => dw h k == 0) &&
  (match fld (dw h 0) 43 40 with
    | 1 => fld (dw h 0) 39 30 == 0
    | 2 => fld (dw h 1) 63 32 == 8 * (fld (dw h 0) 39 30 + 1)
    | _ => false)

/-- Offset of the signature block after a body (R323). -/
def signatureAt (bodylen : Nat) : Nat := headerBytes + (bodylen + 63) / 64 * 64

/-- The image that a container's header and body stand for. -/
def imageOf (h : List Word64) (bytes : List Byte) : Image :=
  { kind := fld (dw h 0) 43 40, inmask := (dw h 2).extractLsb' 56 8, outmask := (dw h 2).extractLsb' 48 8, buf := fld (dw h 2) 47 32
    clkmax := fld (dw h 2) 31 26, opid := dw h 3
    ptypes := (List.range 16).map (fun k => (dw h (4 + k / 2)).extractLsb' (32 * (k % 2)) 32)
    body := toDwords (bytes.drop headerBytes), bytes := bytes.drop headerBytes }

/-- A container read through a domain whose header and signatures hold (R323, R324). -/
def State.fetchImage (s : State) (die : Nat) (domain : BitVec 8) (va : Nat) : Option Image :=
  match s.readDwords die domain va 16 with
  | none => none
  | some h =>
    if va % 64 ≠ 0 ∨ headerOk h = false then none
    else
      let n := fld (dw h 1) 63 32
      match s.readVirtual die domain va (headerBytes + n), s.readVirtual die domain (va + signatureAt n) signatureBytes with
      | some bytes, some block =>
        if ((s.pkg (die / 8)).keyPair (fld (dw h 1) 7 0)).any (fun k => signedBy k bytes block) then some (imageOf h bytes) else none
      | _, _ => none

/-! ## Element words (R348, R349, R358 to R365) -/

/-- An element of a graph: its slot, its operation code and its word. -/
structure Node where
  slot : Nat
  opn : Nat
  w : ElemWord

/-- Elements of a body; slots that are empty or hold data are none (R348). -/
def nodesOf (body : List Word64) : List Node :=
  body.zipIdx.filterMap (fun x =>
    let opn := fld x.1 63 58
    if opn = 0 ∨ opn = 0x3E then none else some ⟨x.2, opn, decodeElemWord (x.1.extractLsb' 0 58)⟩)

/-- Whether a word is an empty slot, a data slot, or names an admitted operation (R348, R357, R358). -/
def slotOk (x : Word64) : Bool :=
  match fld x 63 58 with
  | 0 => x == 0
  | 0x3E => fld x 57 32 == 0
  | _ => (match decodeElement x with | .ok _ => true | .error _ => false)

/-- FMT codes that an operation admits (R357, R360). -/
def elemFmts (opn : Nat) (param : BitVec 25) : List Nat :=
  match opn with
  | 0x05 => [0, 1, 2, 3, 4, 5, 6, 7, 8, 9]
  | 0x08 => [0, 1, 2, 3, 4, 5, 6, 7, 8, 9]
  | 0x09 => [0, 1, 2, 3, 4, 5, 6, 7, 8, 9]
  | 0x0A => [0, 1, 2, 3, 4, 5, 6, 7, 8, 9]
  | 0x0B => [0, 1, 2, 3, 4, 5, 6, 7, 8, 9]
  | 0x0C => [0, 1, 2, 3, 4, 5, 6, 7, 8, 9]
  | 0x0D => [0, 1, 2, 3, 4, 5, 6, 7, 8, 9]
  | 0x0E => [0, 1, 2, 3, 4, 5, 6]
  | 0x0F => [0, 1, 2, 3, 4, 5, 6, 7, 8, 9]
  | 0x10 => [1, 2, 3, 4, 5, 6, 7, 8, 9, 10, 14]
  | 0x11 => (match fld param 11 10 with | 0 => [5, 6] | 1 => [3, 4, 8, 9] | 2 => [0, 1, 2, 7] | _ => [])
  | 0x12 => [0, 1]
  | 0x14 => [0, 1, 2, 3, 4, 5, 6, 7, 8, 9, 10]
  | 0x15 => [0, 1, 2, 3, 4, 5, 6, 7, 8, 9, 10]
  | 0x16 => [0, 1, 2, 3, 4, 5, 6]
  | 0x18 => [10]
  | 0x19 => [7, 8, 9]
  | 0x1A => [7, 8, 9]
  | 0x1B => [1, 2, 3, 4, 5, 6, 7, 8, 9]
  | 0x1C => [0, 1, 2, 3, 4, 5, 6, 7, 8, 9, 10]
  | _ => [0]

/-- Largest MOD code that an operation admits under a format (R358 to R364). -/
def elemModMax (n : Node) : Nat :=
  let fp := 7 ≤ n.w.fmt.toNat
  match n.opn with
  | 0x08 => if fp then 5 else 1
  | 0x09 => if fp then 5 else 1
  | 0x0A => if fp then 5 else 2
  | 0x0B => if fp then 5 else 1
  | 0x0E => 5
  | 0x0F => if fp then 5 else 7
  | 0x10 => if n.w.fmt.toNat ≤ 6 ∧ fld n.w.param 3 0 ≤ 6 then 1 else 5
  | 0x16 => 1
  | 0x18 => 5
  | 0x19 => 5
  | 0x1A => 5
  | 0x1C => 1
  | _ => 0

/-- Whether an operation has the immediate operand of R359. -/
def hasImm (opn : Nat) : Bool := 0x08 ≤ opn && opn ≤ 0x0F

/-- Whether PARAM keeps its ranges and its reserved bits are zero (R357 to R364); bits of a variant only under FMT 0xA. -/
def paramOk (n : Node) : Bool :=
  let p := n.w.param
  let fmt := n.w.fmt.toNat
  let variant := p.extractLsb' 19 6
  let spare := if fmt = 10 then nfValid variant else variant == 0
  match n.opn with
  | 0x01 => fld p 24 3 == 0
  | 0x02 => p == 0
  | 0x03 => p == 0
  | 0x04 => fld p 24 13 == 0 && decide (1 ≤ fld p 12 0) && decide (fld p 12 0 ≤ 4096)
  | 0x05 => fmt < 7 || fld p 23 16 == 0
  | 0x10 =>
    let src := fld p 3 0
    [1, 2, 3, 4, 5, 6, 7, 8, 9, 10, 14].contains src && src != fmt && fld p 18 4 == 0 && (if src = 10 ∨ fmt = 10 then nfValid variant else variant == 0)
  | 0x11 => fld p 4 0 == 0 && fld p 11 10 != 3
  | 0x12 => fld p 24 21 == 0
  | 0x13 => fld p 24 21 == 0
  | 0x14 => fld p 18 6 == 0 && fld p 5 0 < 32 && spare
  | 0x15 => fld p 18 6 == 0 && fld p 5 0 < 32 && spare
  | 0x16 => fld p 24 16 == 0
  | 0x18 => 7 ≤ fld p 3 0 && fld p 3 0 ≤ 9 && fld p 18 4 == 0 && nfValid variant
  | 0x19 => fld p 3 0 == 10 && fld p 18 4 == 0 && nfValid variant
  | 0x1A => fld p 16 16 == 0 && fld p 15 0 != 0
  | 0x1B => fld p 24 22 == 0 && fld p 21 6 != 0
  | 0x1C => fld p 18 16 == 0 && spare
  | 0x20 => p == 0
  | 0x21 => p == 0
  | 0x22 => p == 0
  | _ => fld p 23 16 == 0

/-- Positions that an operation reads in some state (R351, R357, R359). -/
def readsOf (n : Node) : List Nat :=
  match n.opn with
  | 0x01 => []
  | 0x1A => [0, 1]
  | 0x20 => [0, 3]
  | 0x21 => [0, 1, 3]
  | 0x22 => [0, 1, 3]
  | 0x0B => operandsOf n.w 3
  | o => if hasImm o then operandsOf n.w 2 else [0]

/-- Whether LUT's table lies in data slots (R360). -/
def tableOk (body : List Word64) (n : Node) : Bool :=
  n.opn != 0x11 ||
  (let es := 2 ^ fld n.w.param 11 10
   let len := (2 ^ (fld n.w.param 14 12 + 1) * es + 3) / 4
   (List.range len).all (fun k => match body[fld n.w.param 24 15 + k]? with | some x => fld x 63 58 == 0x3E | none => false))

/-- Whether one element's word is admitted by itself (R348, R349, R358, R360). -/
def nodeOk (body : List Word64) (n : Node) : Bool :=
  (elemFmts n.opn n.w.param).contains n.w.fmt.toNat && decide (n.w.mod.toNat ≤ elemModMax n) && paramOk n && tableOk body n &&
  (n.opn != 0x0E || decide (3 ≤ n.w.mod.toNat) || n.w.fmt == 0) && n.w.wf

/-! ## Links (R351, R365, R366) -/

/-- A link: its source slot, and the slot and position it enters. -/
structure Edge where
  src : Nat
  slot : Nat
  pos : Nat
deriving DecidableEq, Repr

/-- Valid targets of an element. -/
def edgesFrom (n : Node) : List Edge :=
  ([n.w.t0, n.w.t1].filter (fun t => t.valid)).map (fun t => ⟨n.slot, t.slot.toNat, t.pos.toNat⟩)

/-- The element in a slot. -/
def nodeAt (ns : List Node) (slot : Nat) : Option Node := ns.find? (fun n => n.slot == slot)

/-- Links that enter an element: a target slot of 1016 to 1023 names an output port, whatever stands in that slot (R348). -/
def inner (es : List Edge) : List Edge := es.filter (fun e => decide (e.slot < 1016))

/-- Whether every position read, and every output port enabled, is entered by exactly one link, and no other is (R348, R351). -/
def linksOk (ns : List Node) (es : List Edge) (outmask : BitVec 8) : Bool :=
  es.all (fun e =>
    if 1016 ≤ e.slot then e.pos == 0 && outmask.getLsbD (e.slot - 1016)
    else match nodeAt ns e.slot with | some n => (readsOf n).contains e.pos | none => false) &&
  ns.all (fun n => (readsOf n).all (fun p => ((inner es).filter (fun e => e.slot == n.slot && e.pos == p)).length == 1)) &&
  (List.range 8).all (fun k => !outmask.getLsbD k || (es.filter (fun e => e.slot == 1016 + k)).length == 1)

/-- Whether a link into position 3 starts at a CMP, or at a COPY or QBUF whose own input does (R365). -/
def controlSource (ns : List Node) (es : List Edge) : Nat → Nat → Bool
  | 0, _ => false
  | fuel + 1, slot =>
    match nodeAt ns slot with
    | some n => n.opn == 0x0F || ((n.opn == 0x03 || n.opn == 0x04) && ((inner es).filter (fun e => e.slot == slot)).any (fun e => controlSource ns es fuel e.src))
    | none => false

/-- Slots reached from slots in at most `fuel` links. -/
def reach (es : List Edge) : Nat → List Nat → List Nat
  | 0, l => l
  | fuel + 1, l => reach es fuel (l ++ (es.filter (fun e => l.contains e.src && !l.contains e.slot)).map Edge.slot).eraseDups

/-- Whether a link enters a CARRY at position 1 (R365). -/
def entersCarry (ns : List Node) (e : Edge) : Bool := e.pos == 1 && (match nodeAt ns e.slot with | some n => n.opn == 0x22 | none => false)

/-- Whether every cycle of links enters some CARRY at position 1 (R365). -/
def cyclesOk (ns : List Node) (es : List Edge) : Bool :=
  let forward := (inner es).filter (fun e => !entersCarry ns e)
  ns.all (fun n => !(reach forward ns.length ((forward.filter (fun e => e.src == n.slot)).map Edge.slot)).contains n.slot)

/-- The hold of an element (R357); none when unbounded. -/
def holdOf (n : Node) : Option Nat :=
  match n.opn with
  | 0x12 => some 1
  | 0x13 => some ((32 + fieldWidth n.w - 1) / fieldWidth n.w)
  | 0x14 => some (fld n.w.param 5 0 + 1)
  | 0x15 => some 1
  | 0x18 => some 33
  | 0x1B => some (fld n.w.param 21 6)
  | 0x1C => none
  | _ => some 0

/-- A path: its last link, the slots strictly inside it. -/
structure Path where
  last : Edge
  inner : List Nat

/-- Paths that go on from a link without meeting a slot twice or passing a CARRY at position 1 (R366). -/
def pathsFrom (ns : List Node) (es : List Edge) : Nat → Edge → List Nat → List Path
  | 0, _, _ => []
  | fuel + 1, e, inner =>
    if 1016 ≤ e.slot ∨ inner.contains e.slot ∨ entersCarry ns e then []
    else ⟨e, inner⟩ :: (es.filter (fun x => x.src == e.slot)).flatMap (fun x => pathsFrom ns es fuel x (e.slot :: inner))

/-- Capacity of a path (R366). -/
def Path.capacity (p : Path) (ns : List Node) : Nat :=
  2 * (p.inner.length + 1) + (p.inner.map (fun s => match nodeAt ns s with | some n => if n.opn = 0x04 then fld n.w.param 12 0 else 0 | none => 0)).sum

/-- Hold of a path (R366). -/
def Path.hold (p : Path) (ns : List Node) : Option Nat :=
  p.inner.foldl (fun acc s => match acc, (nodeAt ns s).bind holdOf with | some a, some h => some (a + h) | _, _ => none) (some 0)

/-- Whether one path buffers what another holds (R366). -/
def Path.covers (p q : Path) (ns : List Node) : Bool := match q.hold ns with | some h => decide (h ≤ p.capacity ns) | none => false

/-- The rule of R366 for every fork. -/
def forksOk (ns : List Node) (es : List Edge) : Bool :=
  ns.all (fun f =>
    if (edgesFrom f).length < 2 then true
    else
      let ps := (edgesFrom f).flatMap (fun e => pathsFrom ns es (ns.length + 1) e [])
      ps.all (fun p => ps.all (fun q =>
        p.last.slot ≠ q.last.slot || p.last.pos == q.last.pos || p.inner.any (fun s => q.inner.contains s) ||
        p.inner.contains f.slot || q.inner.contains f.slot || (p.covers q ns && q.covers p ns))))

/-- Tokens that a graph may hold (R367). -/
def bufferNeed (ns : List Node) (es : List Edge) : Nat :=
  2 * es.length + (ns.map (fun n =>
    match n.opn with
    | 0x04 => fld n.w.param 12 0
    | 0x18 => 32
    | 0x1B => fld n.w.param 5 0 + 1
    | 0x14 => fld n.w.param 5 0 + 1
    | 0x12 => 1
    | 0x13 => 1
    | 0x15 => 1
    | 0x16 => 1
    | 0x1C => 1
    | 0x1A => 1
    | 0x22 => 1
    | _ => 0)).sum

/-- The conditions of R367 on an element graph, the placement that R369 asks for among them. -/
def graphOk (im : Image) : Bool :=
  let ns := nodesOf im.body
  let es := ns.flatMap edgesFrom
  im.body.all slotOk && ns.all (nodeOk im.body) && linksOk ns es im.outmask &&
  decide ((ns.filter (fun n => n.opn == 0x20 || n.opn == 0x21 || n.opn == 0x22)).length ≤ 128) &&
  es.all (fun e => e.pos ≠ 3 || controlSource ns es (ns.length + 1) e.src) && cyclesOk ns es && forksOk ns es &&
  (List.range 8).all (fun k => (ns.filter (fun n => n.opn == 0x01 && fld n.w.param 2 0 == k)).length == (im.inmask.getLsbD k).toNat) &&
  decide (bufferNeed ns es ≤ im.buf) && im.clkmax == 32 && Config.placeable im.body

/-! ## Admission -/

/-- Whether every port type word of an image equals the one that its bound channel presents at the region (R324, R335); `types`
answers none for a port that no channel is bound to. -/
def typesAgree (types : PortId → Option Word32) (r : RegionId) (im : Image) : Bool :=
  (List.range 16).all (fun k =>
    match types (regionPort r (decide (8 ≤ k)) (k % 8)) with
    | some t => im.ptypes.getD k 0 == t
    | none => true)

/-- Whether a region may be configured with an image (R321, R324, R367). -/
def admits (types : PortId → Option Word32) (r : RegionId) (im : Image) (clksel : Nat) : Bool :=
  decide (2 ≤ clksel) && decide (clksel ≤ 32) && decide (clksel ≤ im.clkmax) && im.ptypes.all (fun t => t == 0 || typeOk t) && typesAgree types r im &&
  (im.kind == 1 || graphOk im)

/-- The image of a container, if the region manager accepts it (R324). -/
def State.acceptImage (s : State) (types : PortId → Option Word32) (r : RegionId) (domain : BitVec 8) (va clksel : Nat) : Option Image :=
  match s.fetchImage r.die domain va with
  | some im => if admits types r im clksel then some im else none
  | none => none

/-- Type words that the bound channels present at ports. -/
def State.boundTypes (s : State) (p : PortId) : Option Word32 := if (s.boundTo p).isSome then some (s.portType p) else none

end Sys2Proof.Machine
end

