-- ==== Sys2Proof/Machine/Global.lean ====
section
/-! DEFINITION. The global access instructions, presence operations, atomics, fences and prefetch, 0x60 to 0x74 (R284 to
R299): what they do at issue. Their accesses travel in State.net; Machine/GlobalEvents.lean performs them. -/

namespace Sys2Proof.Machine

/-! ## Translation at issue -/

/-- Translations that a tile's cache holds (R240). -/
def cacheEntries : Nat := 2048

/-- Whether a cached translation is pinned by an access or a command of the tile (R246). -/
def State.pinned (s : State) (t : TileId) (e : TransEntry) : Bool :=
  s.net.any (fun a => decide (a.who.tileId = t) && a.blocks.any (fun b => e.covers a.domain b)) ||
  (List.range Config.slotsPerTile).any (fun k =>
    let x := s.task ⟨t.die, t.tile, k⟩
    x.moraine.queue.any (fun c => c.parts.any (fun p => e.covers (s.load x.load).domain p.block)))

/-- The fault of a translation, protection or absence (R244). -/
def XFault.trap (x : XFault) (loc va : Nat) : Trap := { code := x.code, loc := loc, info := BitVec.ofNat 64 va, detail := x.detail }

/-- What the translation of a block finds at issue: a cached leaf, a fault, or a hold for the walk (R240, R241, R246). -/
def State.lookup (s : State) (who : StrandId) (va : Nat) : Except (Sum XFault Hold) TransEntry :=
  let dom := (s.load (s.task who.task).load).domain
  let t := s.tile who.tileId
  if 2 ^ 56 ≤ va then .error (.inl ⟨.xlate, 1, 0⟩)
  else
    match t.cached dom (va / 65536) with
    | some e => .ok e
    | none =>
      match (s.strand who).walkFailed with
      | some (b, c, l) =>
        if b = va / 65536 then .error (.inl ⟨.xlate, c, l⟩) else .error (.inr (.walk (va / 65536)))
      | none =>
        if cacheEntries ≤ t.tcache.length ∧ t.tcache.all (fun e => s.pinned who.tileId e) then .error (.inr .pinned)
        else .error (.inr (.walk (va / 65536)))

/-- An address translated and checked (R241): its physical address and leaf. -/
def translate (va size : Nat) (u : Use) (loc : Nat) : M (Nat × Word64) := do
  let s ← get
  let l := s.load s.myTask.load
  match s.lookup s.cur.strand va with
  | .error (.inl x) => trapWith (x.trap loc va)
  | .error (.inr h) => holdOn h
  | .ok e =>
    match s.checkPart e.leaf e.level va size u l.domain l.priv with
    | .error x => trapWith (x.trap loc va)
    | .ok pa => return (pa, e.leaf)

/-! ## Sending -/

/-- Accesses of a strand that are incomplete (R260): an STF is two until it is acknowledged, its data and its flag (R293). -/
def State.incomplete (s : State) (who : StrandId) : Nat :=
  ((s.net.filter (fun a => decide (a.who = who) && a.left.isNone)).map (fun a => if a.kind = .stf then 2 else 1)).sum

/-- Step 1 of R286 for an instruction that sends n accesses: an outstanding walk, more than 64 accesses incomplete with them,
or a rehash. -/
def readyToSend (n : Nat := 1) : M Unit := do
  let s ← get
  match s.me.walk with
  | some b => holdOn (.walk b)
  | none => pure ()
  holdUnless (decide (s.incomplete s.cur.strand + n ≤ 64)) .accesses
  holdUnless ((s.die s.cur.strand.die).phase == 0) .phase

/-- Step 2 of R286. -/
def aligned (va z loc : Nat) : M Unit :=
  trapIf (decide (va % z ≠ 0)) { code := .misalign, loc := loc, info := BitVec.ofNat 64 va, detail := BitVec.ofNat 32 z }

/-- Step 4 of R286: an event counter takes only a 4-byte plain access. -/
def counterSize (va pa z : Nat) (plain : Bool) : M Unit :=
  match placeOf pa with
  | .counter _ _ _ =>
    trapIf (!(plain && z == 4)) { code := .misalign, loc := 2, info := BitVec.ofNat 64 va, detail := BitVec.ofNat 32 z }
  | _ => pure ()

/-- A data address through steps 1 to 4 of R286: the address, what its base becomes, its physical address and leaf. -/
def dataAddress (w : Fields) (z : Nat) (u : Use) (plain : Bool) (n : Nat := 1) : M (Nat × Option Word64 × Nat × Word64) := do
  readyToSend n
  let (a, post) ← addressOf w
  aligned a.toNat z 2
  let (pa, leaf) ← translate a.toNat z u 2
  counterSize a.toNat pa z plain
  return (a.toNat, post, pa, leaf)

/-- An access as it is sent (R255, R260). -/
def newAccess (kind : AccessKind) (va pa z : Nat) (leaf : Word64) : M Access := do
  let s ← get
  return { num := s.nextAccess, who := s.cur.strand, addr := s.wordAddr, kind := kind, va := BitVec.ofNat 64 va, pa := pa, size := z
           signed := false, plane := s.planeOf s.cur.strand.die pa, keyid := leafKey leaf, blocks := [va / 65536]
           domain := (s.load s.myTask.load).domain }

/-- An access sent. -/
def send (a : Access) : M Unit := modify (fun s => { s with net := s.net ++ [a], nextAccess := s.nextAccess + 1 })

/-- LDGs that no later read may combine with any more (R273): those of a granule, or all. -/
def endCombining (granule : Option Nat) : M Unit := modStrand (fun st => st.endCombining granule)

/-- Whether the address of a word holds a tainted register (R275). -/
def taintedAddress (st : Strand) (w : Fields) : Bool :=
  ((scalarIndex w.a).toList ++ (match w.b with | .scalar _ i => [i.toNat] | _ => [])).any (fun r => st.taint.getLsbD r)

/-- A read of damaged HBM4, L2 or tile memory faults at the load (R388), the increment of an STF's flag too. -/
def readDamage (va pa z : Nat) (loc : Nat := 2) : M Unit := do
  let s ← get
  trapIf (s.isDamaged pa z) (eccTrap (if placeOf pa = .hbm then 1 else 2) (BitVec.ofNat 64 va) loc)

/-! ## Loads and stores (R288) -/

/-- LDGs that a read of n bytes from an offset of a granule may combine with (R273): live ones of the granule, read under the
same key (R245), and none that a later LDG has overtaken on one of the bytes, so that no byte is read as older than before
(R269, R272). -/
def combinable (granule : Nat) (key : BitVec 4) (offset n : Nat) : List CombineSource → List Nat
  | [] => []
  | c :: cs =>
    let here (d : CombineSource) : Bool := d.granule == granule
    let clash (d : CombineSource) : Bool := here d && decide (d.offset < offset + n) && decide (offset < d.offset + d.size)
    if c.live && here c && c.key == key && !cs.any clash then c.access :: combinable granule key offset n cs
    else combinable granule key offset n cs

/-- LDG: sent; it may combine with an earlier LDG of the granule (R273). -/
def bodyLdg (w : Fields) : M Flow := do
  let z := accessSize 64 w.fmt.toNat
  let tainted := taintedAddress (← theStrand) w
  let (va, post, pa, leaf) ← dataAddress w z .load true
  readDamage va pa z
  let a ← newAccess .ldg va pa z leaf
  let st ← theStrand
  let src := if tainted then [] else combinable (granuleOf pa) (leafKey leaf) (pa % 64) z st.sources
  send { a with signed := loadSigned w.fmt.toNat, dest := scalarIndex w.d, sources := src }
  if tainted then pure ()
  else modStrand (fun x => { x with sources := x.sources ++ [{ access := a.num, granule := granuleOf pa, key := leafKey leaf, offset := pa % 64, size := z }] })
  writeBack w post
  return .fall
def execLdg (w : Fields) (s : State) : Host.Outcome State Fault Refusal := issue (.ldg w) (bodyLdg w) s

/-- LDC: sent; it never combines, and no LDG combines across it (R273, R288). -/
def bodyLdc (w : Fields) : M Flow := do
  let z := accessSize 64 w.fmt.toNat
  let (va, post, pa, leaf) ← dataAddress w z .load true
  readDamage va pa z
  let a ← newAccess .ldc va pa z leaf
  send { a with signed := loadSigned w.fmt.toNat, dest := scalarIndex w.d }
  endCombining none
  writeBack w post
  return .fall
def execLdc (w : Fields) (s : State) : Host.Outcome State Fault Refusal := issue (.ldc w) (bodyLdc w) s

/-- STG: sent (R288). -/
def bodyStg (w : Fields) : M Flow := do
  let z := accessSize 64 w.fmt.toNat
  let v ← source w.c
  let (va, post, pa, leaf) ← dataAddress w z .store true
  let a ← newAccess .stg va pa z leaf
  send { a with data := v }
  endCombining (some (granuleOf pa))
  writeBack w post
  return .fall
def execStg (w : Fields) (s : State) : Host.Outcome State Fault Refusal := issue (.stg w) (bodyStg w) s

/-! ## Presence (R289 to R291) -/

/-- PLD: sent; its destination is pending until the word is full (R290). -/
def bodyPld (w : Fields) : M Flow := do
  let (va, post, pa, leaf) ← dataAddress w 8 .presLoad false
  readDamage va pa 8
  let a ← newAccess .pld va pa 8 leaf
  send { a with dest := scalarIndex w.d }
  endCombining none
  writeBack w post
  return .fall
def execPld (w : Fields) (s : State) : Host.Outcome State Fault Refusal := issue (.pld w) (bodyPld w) s

/-- PST: sent once, then it waits for its home; it retires when the home has filled the word, and faults WRITE_ONCE when
the home refused it (R291). -/
def bodyPst (w : Fields) : M Flow := do
  let v ← source w.c
  let st ← theStrand
  let (a, post) ← addressOf w
  match st.pst.bind (fun p => if p.addr = st.pc then p.refused else none), st.pst.any (fun p => p.addr == st.pc) with
  | some refused, _ =>
    trapIf refused { code := .writeOnce, loc := 2, info := a }
    writeBack w post
    return .fall
  | none, true => holdOn .pst
  | none, false =>
    let (va, _, pa, leaf) ← dataAddress w 8 .presStore false
    let x ← newAccess .pst va pa 8 leaf
    throw (.sent { x with data := v })
def execPst (w : Fields) (s : State) : Host.Outcome State Fault Refusal := issue (.pst w) (bodyPst w) s

/-- PRST: sent (R291). -/
def bodyPrst (w : Fields) : M Flow := do
  let (va, post, pa, leaf) ← dataAddress w 8 .presStore false
  send (← newAccess .prst va pa 8 leaf)
  endCombining (some (granuleOf pa))
  writeBack w post
  return .fall
def execPrst (w : Fields) (s : State) : Host.Outcome State Fault Refusal := issue (.prst w) (bodyPrst w) s

/-! ## Store with flag (R292 to R294) -/

/-- STF: data and flag, sent together; the flag follows the data (R293). -/
def bodyStf (w : Fields) : M Flow := do
  let z := accessSize 64 w.fmt.toNat
  let event := w.mod.getLsbD 0
  let v ← source w.c
  let f := (← source w.d).toNat
  let (va, post, pa, leaf) ← dataAddress w z .store true 2
  let n := if event then 4 else 8
  aligned f n 1
  let (fpa, fleaf) ← translate f n (if event then .flagEvent else .flagMem) 1
  readDamage f fpa n 1
  let a ← newAccess .stf va pa z leaf
  let s ← get
  send { a with data := v, flagPa := fpa, flagEv := event, flagKey := leafKey fleaf, flagPlane := s.planeOf s.cur.strand.die fpa, blocks := [va / 65536, f / 65536] }
  endCombining (some (granuleOf pa))
  endCombining (some (granuleOf fpa))
  writeBack w post
  return .fall
def execStf (w : Fields) (s : State) : Host.Outcome State Fault Refusal := issue (.stf w) (bodyStf w) s

/-! ## Atomics (R295) -/

/-- An atomic, sent with its operand and the value that ATCAS expects; for ATMIN and ATMAX that is 1 when FMT is unsigned. -/
def bodyAtomic (w : Fields) (kind : AccessKind) (hasC : Bool) : M Flow := do
  let z := if w.fmt = 0 then 8 else 4
  let v ← (if hasC then source w.c else return 0)
  let expect ← (if kind = .atcas then source w.d else return if w.fmt = 2 then 1 else 0)
  let (va, post, pa, leaf) ← dataAddress w z .atomic false
  readDamage va pa z
  let a ← newAccess kind va pa z leaf
  send { a with data := v, expect := expect, signed := w.fmt == 1, dest := scalarIndex w.d }
  endCombining (some (granuleOf pa))
  writeBack w post
  return .fall
def execAtadd (w : Fields) (s : State) : Host.Outcome State Fault Refusal := issue (.atadd w) (bodyAtomic w .atadd true) s
def execAtand (w : Fields) (s : State) : Host.Outcome State Fault Refusal := issue (.atand w) (bodyAtomic w .atand true) s
def execAtor (w : Fields) (s : State) : Host.Outcome State Fault Refusal := issue (.ator w) (bodyAtomic w .ator true) s
def execAtxor (w : Fields) (s : State) : Host.Outcome State Fault Refusal := issue (.atxor w) (bodyAtomic w .atxor true) s
def execAtmin (w : Fields) (s : State) : Host.Outcome State Fault Refusal := issue (.atmin w) (bodyAtomic w .atmin true) s
def execAtmax (w : Fields) (s : State) : Host.Outcome State Fault Refusal := issue (.atmax w) (bodyAtomic w .atmax true) s
def execAtswp (w : Fields) (s : State) : Host.Outcome State Fault Refusal := issue (.atswp w) (bodyAtomic w .atswp true) s
def execAtcas (w : Fields) (s : State) : Host.Outcome State Fault Refusal := issue (.atcas w) (bodyAtomic w .atcas true) s
def execAmaxx (w : Fields) (s : State) : Host.Outcome State Fault Refusal := issue (.amaxx w) (bodyAtomic w .amaxx false) s
def execAtfadd (w : Fields) (s : State) : Host.Outcome State Fault Refusal := issue (.atfadd w) (bodyAtomic w .atfadd true) s
def execAtfmax (w : Fields) (s : State) : Host.Outcome State Fault Refusal := issue (.atfmax w) (bodyAtomic w .atfmax true) s

/-! ## Fences and prefetch (R297 to R299) -/

/-- The push of a fence's own word. -/
def ownPush (core : CoreId) (w : Fields) : List (Nat × Nat) :=
  let p := tokenField w.push
  if p.2 = 0 then [] else [(tokenIndex core.engine p.1, p.2)]

/-- A fence of the strand (R251, R261). It is outstanding until FENCE_RETIRE, and later words go on but for those it makes
wait. Where its word pushes tokens, which it does as it retires (R16, R17), or opens a pair, whose second word may be one
that waits for it, it waits in its place instead (log entry 17). -/
def fenceWord (w : Fields) (f : FenceWait) : M Flow := do
  let s ← get
  let st ← theStrand
  if s.cur.pair.isSome then
    modStrand (fun x => { x with fences := x.fences ++ [{ f with pushes := ownPush s.cur.strand.core w }] })
    return .fall
  else if s.cur.mate.isNone && (tokenField w.push).2 == 0 then
    modStrand (fun x => { x with fences := x.fences ++ [f] })
    return .fall
  else
    match st.fences.find? (fun x => x.own == some st.pc) with
    | some x =>
      holdUnless x.met .fence
      modStrand (fun y => { y with fences := y.fences.filter (fun z => z.own != some st.pc) })
      return .fall
    | none => throw (.fence f)

/-- The scope of a FENCE (R297). -/
def scopeOf (mod : BitVec 3) : Scope :=
  match mod.toNat with | 0 => .task | 1 => .tile | 2 => .die | 3 => .package | _ => .domain

/-- FENCE: a plane-spanning one waits for a rehash to end and for the strand's earlier accesses (R261, R276, R297). -/
def bodyFence (w : Fields) : M Flow := do
  let s ← get
  let spans := s.cur.strand.core == .dawn && w.mod != 0
  holdUnless (!spans || (s.die s.cur.strand.die).phase == 0 || s.me.fences.any (fun x => x.own == some s.me.pc)) .phase
  endCombining none
  fenceWord w { lfence := false, scope := if spans then scopeOf w.mod else .task, before := if spans then s.nextAccess else 0 }
def execFence (w : Fields) (s : State) : Host.Outcome State Fault Refusal := issue (.fence w) (bodyFence w) s

/-- LFENCE: it waits for the strand's earlier global stores (R251, R298). -/
def bodyLfence (w : Fields) : M Flow := do
  fenceWord w { lfence := true, before := (← get).nextAccess }
def execLfence (w : Fields) (s : State) : Host.Outcome State Fault Refusal := issue (.lfence w) (bodyLfence w) s

/-- PREF: sent to a cached L2 leaf, dropped where it would fault, nothing elsewhere (R299). -/
def bodyPref (w : Fields) : M Flow := do
  readyToSend
  let (a, post) ← addressOf w
  let s ← get
  let l := s.load s.myTask.load
  match s.lookup s.cur.strand a.toNat with
  | .error (.inl _) => pure ()
  | .error (.inr h) => holdOn h
  | .ok e =>
    match s.checkPart e.leaf e.level a.toNat 1 .load l.domain l.priv with
    | .error _ => pure ()
    | .ok pa =>
      if leafHome e.leaf = 0 ∧ leafCache e.leaf = 1 then send (← newAccess .pref a.toNat pa 1 e.leaf) else pure ()
  writeBack w post
  return .fall
def execPref (w : Fields) (s : State) : Host.Outcome State Fault Refusal := issue (.pref w) (bodyPref w) s

end Sys2Proof.Machine
end

