-- ==== Sys2Proof/Machine/Ports.lean ====
section
/-! DEFINITION. Stream ports of a strand: VPOP, VPUSH and PSCL (R163 to R166, R333), and the port instructions 0xE0 to
0xE6 (R340 to R346). -/

namespace Sys2Proof.Machine

/-! ## Shared checks -/

/-- The port of an E field: whether it is an output port, and its number (R166). -/
def portField (e : BitVec 14) : Bool × Nat := (e.getLsbD 4, fld e 2 0)

/-- Port number of a port operand. -/
def opndPort : Opnd → Nat
  | .queue c => portNumber c
  | _ => 0

/-- A port of the strand's tile. -/
def myPort (out : Bool) (n : Nat) : M PortId := do return tilePort (← get).cur.strand.tileId out n

/-- Whether a word's FMT is the element format of a port's type word (R163). -/
def formatMatches (t : Task) (fmt : Nat) (ty : Word32) : Bool :=
  if 10 ≤ fmt ∧ fmt ≤ 13 then typeFmt ty == 10 && typeCode ty == t.nf.get (fmt - 10) 0 else typeFmt ty == fmt

/-- Whether VPOP or VPUSH agrees with the type of its port (R163): the format, and the MODs that its SKIND admits. -/
def portAgrees (t : Task) (w : Fields) (out : Bool) (ty : Word32) : Bool :=
  let grouped := typeSkind ty == 1 || typeSkind ty == 2
  formatMatches t w.fmt.toNat ty && (if grouped then w.mod == 1 || (!out && w.mod == 2) else w.mod != 1)

/-- The row count of VPOP and VPUSH (R163). -/
def rowCount (op : BitVec 8) (w : Fields) : M Nat := do
  let v := (← source w.b).extractLsb' 0 32
  trapIf (v == 0 || decide (16 < v.toNat))
    (match w.b with | .imm _ => illegal op w 3 | _ => refuseValue op w 3 (v.zeroExtend 64))
  return v.toNat

/-- Whether a Serac command of a task names an input port (R176). -/
def seracNames (t : Task) (n : Nat) : Bool := t.serac.queue.any (fun c => (smmPorts c).any (fun p => p.2 == n))

/-- The fault of poison at a port (R164, R345). -/
def poisonTrap (n : Nat) (origin : Word64) : Trap :=
  { code := .poisonIn, loc := 2, info := origin, detail := BitVec.ofNat 32 (0x10 + n) }

/-! ## VPOP -/

/-- What a walk over a queue's tokens found before it stopped: tokens taken, elements with the scale code in force at
each, scale codes taken with the elements before each, the code in force at the end, and why it stopped. -/
structure PopWalk where
  taken : Nat := 0
  elems : List (Word32 × BitVec 8) := []
  codes : List (BitVec 8 × Nat) := []
  scale : BitVec 8
  /-- The walk met all its elements or an end-of-stream; false when the queue ran out. -/
  done : Bool := false
  poison : Option Word64 := none

/-- The loop of R164 over a queue, for m elements. -/
def popWalk : List Tok → Nat → PopWalk → PopWalk
  | _, 0, x => { x with done := true }
  | [], _, x => x
  | .scale k :: ts, m, x => popWalk ts m { x with taken := x.taken + 1, codes := x.codes ++ [(k, x.elems.length)], scale := k }
  | .pscl k :: ts, m, x => popWalk ts m { x with taken := x.taken + 1, codes := x.codes ++ [(k, x.elems.length)], scale := k }
  | .order :: ts, m, x => popWalk ts m { x with taken := x.taken + 1 }
  | .eos :: _, _, x => { x with done := true }
  | .poison o :: _, _, x => { x with done := true, poison := some o }
  | .elem c :: ts, m + 1, x => popWalk ts m { x with taken := x.taken + 1, elems := x.elems ++ [(c, x.scale)] }

/-- Cells with the first ones replaced. -/
def overwrite (new old : List Word32) : List Word32 := (new ++ old.drop new.length).take old.length

/-- Scale codes in the lanes of C from 0 on. When C is D (`same`), writes stand in the order made (R6, R164): a code keeps its lane
when it came after the lane's element, or no element is written there. -/
def codeLanes (codes : List (BitVec 8 × Nat)) (same : Bool) (m : Nat) (old : List Word32) : List Word32 :=
  overwrite ((codes.zip old).zipIdx.map (fun x => if same && x.1.1.2 ≤ x.2 && x.2 < m then x.1.2 else x.1.1.1.zeroExtend 32)) old

/-- VPOP (R164). -/
def bodyVpop (w : Fields) : M Flow := do
  let n := opndPort w.a
  let p ← myPort false n
  let s ← get
  holdUnless ((s.boundTo p).isSome) (.port p)
  holdUnless (!seracNames s.myTask n) (.portCmd p)
  let m := 64 * (← rowCount 0xAC w)
  let f ← formatOf 0xAC w w.fmt.toNat 0
  trapIf (!portAgrees s.myTask w false (s.portType p)) (illegal 0xAC w 0)
  let x := popWalk (s.inToks p) m { scale := (s.port p).scale }
  holdUnless x.done (.port p)
  match x.poison with
  | some o => trapWith (poisonTrap n o)
  | none => pure ()
  let cells := x.elems.map (fun e =>
    if w.mod = 2 then BitVec.ofNat 32 (round (scaled (decodeNum f (elemOf f e.1)) e.2.toNat) .f32 .rne) else cellOf f (elemOf f e.1))
  let old ← readVec (opndIndex w.d)
  writeVec (opndIndex w.d) (overwrite (cells ++ List.replicate (m - cells.length) 0) old)
  if w.mod = 1 then
    let oldC ← readVec (opndIndex w.c)
    writeVec (opndIndex w.c) (codeLanes x.codes (opndIndex w.c == opndIndex w.d) m oldC)
  modify (fun s => (s.consume p x.taken).updPort p (fun q => { q with scale := x.scale }))
  return .fall
def execVpop (w : Fields) (s : State) : Host.Outcome State Fault Refusal := issue (.vpop w) (bodyVpop w) s

/-! ## VPUSH -/

/-- Tokens of a .scl push: before each element at which the stream's count is a multiple of the group, the next scale
code (R165). -/
def scaledTokens (g : Nat) : List Nat → List (BitVec 8) → Nat → List Tok
  | [], _, _ => []
  | x :: xs, codes, count =>
    if count % g = 0 then .scale (codes.headD 0) :: .elem (BitVec.ofNat 32 x) :: scaledTokens g xs codes.tail (count + 1)
    else .elem (BitVec.ofNat 32 x) :: scaledTokens g xs codes (count + 1)

/-- Lanes quantised against a port scale register, and the .q scale status word after them (R128, R165). -/
def quantTokens (d : Format) (e : Nat) : List Word32 → Word64 → List Tok × Word64
  | [], st => ([], st)
  | x :: xs, st =>
    let q := delayedQuant d .rne e (decodeNum .f32 x.toNat) st
    let r := quantTokens d e xs q.2
    (.elem (BitVec.ofNat 32 q.1) :: r.1, r.2)

/-- VPUSH (R165). -/
def bodyVpush (w : Fields) : M Flow := do
  let p ← myPort true (opndPort w.d)
  let s ← get
  holdUnless ((s.boundTo p).isSome) (.port p)
  let m := 64 * (← rowCount 0xAD w)
  let f ← formatOf 0xAD w w.fmt.toNat 0
  trapIf (!portAgrees s.myTask w true (s.portType p)) (illegal 0xAD w 0)
  let a := (← readVec (opndIndex w.a)).take m
  let codes := a.map (elemOf f)
  let x := s.port p
  let g := (typeGroup (s.portType p)).getD 1
  let cv ← (if w.mod = 1 then readVec (opndIndex w.c) else return [])
  let q := quantTokens f x.scale.toNat a x.status
  let toks := if w.mod = 1 then scaledTokens g codes (cv.map (fun c => c.extractLsb' 0 8)) x.sclCount
    else if w.mod = 2 then q.1 else codes.map (fun c => .elem (BitVec.ofNat 32 c))
  let beats := match s.boundTo p with | some (_, c) => (sendBeats c toks).length | none => 0
  holdUnless (decide (beats ≤ s.roomAt p)) (.port p)
  modify (fun s => (s.sendOn p toks).updPort p (fun y =>
    { y with sclCount := if w.mod = 1 then (x.sclCount + m) % g else y.sclCount, status := if w.mod = 2 then q.2 else y.status }))
  return .fall
def execVpush (w : Fields) (s : State) : Host.Outcome State Fault Refusal := issue (.vpush w) (bodyVpush w) s

/-! ## Scale registers and tokens -/

/-- Whether PSCL enqueues a scale token: an output port whose channel has a DTYPE of SKIND 11 (R166, R333). -/
def State.delayedOut (s : State) (p : PortId) : Bool :=
  match s.boundTo p with
  | some (_, c) => p.out && typeSkind c.dtype == 3
  | none => false

/-- PSCL (R166, R333). -/
def bodyPscl (w : Fields) : M Flow := do
  let p ← myPort (portField w.e).1 (portField w.e).2
  let v := (← source w.a).extractLsb' 0 8
  let s ← get
  if s.delayedOut p then
    holdUnless (decide (1 ≤ s.roomAt p)) (.port p)
    modify (fun s => s.sendOn p [.pscl v])
  modify (fun s => s.updPort p (fun q => { q with scale := v }))
  return .fall
def execPscl (w : Fields) (s : State) : Host.Outcome State Fault Refusal := issue (.pscl w) (bodyPscl w) s

/-- One token onto an output port (R342). -/
def sendToken (w : Fields) (t : Tok) : M Flow := do
  let p ← myPort true (opndPort w.d)
  let s ← get
  holdUnless (decide (1 ≤ s.roomAt p)) (.port p)
  modify (fun s => s.sendOn p [t])
  return .fall
def execPeos (w : Fields) (s : State) : Host.Outcome State Fault Refusal := issue (.peos w) (sendToken w .eos) s
def execPord (w : Fields) (s : State) : Host.Outcome State Fault Refusal := issue (.pord w) (sendToken w .order) s

/-! ## Thresholds, status and drains -/

/-- PTHR (R341). -/
def bodyPthr (w : Fields) : M Flow := do
  let p ← myPort (portField w.e).1 (portField w.e).2
  let v := (← source w.b).extractLsb' 0 32
  trapIf (decide (fld v 31 16 ≠ 0)) (match w.b with | .imm _ => illegal 0xE0 w 3 | _ => refuseValue 0xE0 w 3 (v.zeroExtend 64))
  let t ← theTask
  modify (fun s => s.updPort p (fun q => { q with threshold := v.extractLsb' 0 16, counter := t.evBase + opndIndex w.a, count := 0 }))
  return .fall
def execPthr (w : Fields) (s : State) : Host.Outcome State Fault Refusal := issue (.pthr w) (bodyPthr w) s

/-- The status word of a port (R343). -/
def State.portStatus (s : State) (p : PortId) : Nat :=
  match s.boundTo p with
  | none => 0
  | some (_, c) =>
    if p.out then 2 ^ 31 + (c.dests.any DestQueue.off).toNat * 2 ^ 28 + min 65535 c.outq.length
    else
      let head := (s.inToks p).head?
      2 ^ 31 + (head == some .eos).toNat * 2 ^ 30 + (match head with | some (.poison _) => 2 ^ 29 | _ => 0) + min 65535 (s.inQueue p).occupancy

/-- The scale status word that PSTAT reads (R343). -/
def State.portScaleStatus (s : State) (p : PortId) : Word64 :=
  match s.boundTo p with
  | none => 0
  | some (_, c) => if p.out then (s.port p).status else if c.converts && typeSkind c.dtype == 3 then c.status else 0

/-- PSTAT (R343). -/
def bodyPstat (w : Fields) : M Flow := do
  let p ← myPort (portField w.e).1 (portField w.e).2
  let s ← get
  destine w.d (BitVec.ofNat 64 (match w.mod.toNat with
    | 0 => s.portStatus p
    | 1 => (s.port p).moved.toNat
    | 2 => fld (s.portScaleStatus p) 31 0
    | _ => fld (s.portScaleStatus p) 63 32))
  return .fall
def execPstat (w : Fields) (s : State) : Host.Outcome State Fault Refusal := issue (.pstat w) (bodyPstat w) s

/-- The condition of PTST (R344). -/
def State.portCond (s : State) (p : PortId) (mod n : Nat) : Bool :=
  (s.boundTo p).isSome &&
  (match mod with
    | 0 => if p.out then decide (n ≤ s.roomAt p) else decide (n ≤ (s.inQueue p).occupancy)
    | 1 => (s.inToks p).head? == some .eos
    | _ => match (s.inToks p).head? with | some (.poison _) => true | _ => false)

/-- PTST (R344). -/
def bodyPtst (w : Fields) : M Flow := do
  let p ← myPort (portField w.e).1 (portField w.e).2
  let n ← (if w.mod = 0 then source w.b else return 0)
  let s ← get
  writeCond w.d w.c (s.portCond p w.mod.toNat (n.toNat % 2 ^ 32))
  return .fall
def execPtst (w : Fields) (s : State) : Host.Outcome State Fault Refusal := issue (.ptst w) (bodyPtst w) s

/-- What PDRN takes of a queue: tokens, the scale code after them, whether an end-of-stream is among them; or a poison
that lies before its end (R345). -/
def drainWalk : List Tok → Nat → BitVec 8 → Except Word64 (Nat × BitVec 8 × Bool)
  | [], n, e => .ok (n, e, false)
  | .eos :: _, n, e => .ok (n + 1, e, true)
  | .poison o :: _, _, _ => .error o
  | .scale k :: ts, n, _ => drainWalk ts (n + 1) k
  | .pscl k :: ts, n, _ => drainWalk ts (n + 1) k
  | .order :: ts, n, e => drainWalk ts (n + 1) e
  | .elem _ :: ts, n, e => drainWalk ts (n + 1) e

/-- PDRN (R345). -/
def bodyPdrn (w : Fields) : M Flow := do
  let n := opndPort w.a
  let p ← myPort false n
  let s ← get
  holdUnless (!seracNames s.myTask n) (.portCmd p)
  match drainWalk (s.inToks p) 0 (s.port p).scale with
  | .error o => trapWith (poisonTrap n o)
  | .ok (k, e, got) =>
    modify (fun s => (s.consume p k).updPort p (fun q => { q with scale := e }))
    destine w.d (if got then 1 else 0)
    return .fall
def execPdrn (w : Fields) (s : State) : Host.Outcome State Fault Refusal := issue (.pdrn w) (bodyPdrn w) s

/-- PTYP (R346). -/
def bodyPtyp (w : Fields) : M Flow := do
  let p ← myPort (portField w.e).1 (portField w.e).2
  let s ← get
  let ty : Word32 := match s.boundTo p with
    | none => 0
    | some (_, c) => if p.out != (w.mod == 1) then c.stype else c.dtype
  destine w.d (ty.zeroExtend 64)
  return .fall
def execPtyp (w : Fields) (s : State) : Host.Outcome State Fault Refusal := issue (.ptyp w) (bodyPtyp w) s

end Sys2Proof.Machine
end

