-- ==== Sys2Proof/Machine/Serac.lean ====
section
/-! DEFINITION. The Serac instructions 0xC0 to 0xCD as Dusk issues them (R170 to R175, R183 to R190, R198 to R203): the
checks of issue, and the command that enters the queue. Machine/SeracRun.lean runs the commands. -/

namespace Sys2Proof.Machine

/-- A command of an instruction, with the nf registers as they stand at issue (R115). -/
def newCommand (i : Instr) : M Command := do return { seq := 0, instr := i, addr := 0, nf := (← theTask).nf }

/-- Whether an FMT code is an SMM operand format (R170). -/
def smmFormat (f : Nat) : Bool := f == 5 || f == 6 || f == 8 || f == 9 || (10 ≤ f && f ≤ 13)


/-- An operand of SMM: the handle word, or the checks of R175 on the port. -/
def smmOperand (op : BitVec 8) (w : Fields) (o : Opnd) (loc : Nat) (klen : Nat) (kw : Word64) (other : Option Nat) : M Word64 := do
  match o with
  | .queue k =>
    let p ← myPort false (portNumber k)
    let s ← get
    trapIf (s.boundTo p).isNone (refuseValue op w loc 0)
    let ty := s.portType p
    trapIf (!smmFormat (typeFmt ty) || decide (2 ≤ typeSkind ty) || other == some (portNumber k)) (illegal op w loc)
    trapIf (typeSkind ty == 1 && decide (klen % ((typeGroup ty).getD 1) ≠ 0)) (refuseValue op w 4 kw)
    return 0
  | o => source o

/-- The port that an operand names. -/
def portOf : Opnd → Option Nat
  | .queue k => some (portNumber k)
  | _ => none

/-- SMM and SMMZ enter the queue (R170, R175, R184). -/
def bodySmm (i : Instr) (op : BitVec 8) (w : Fields) : M Flow := do
  let kw := (← source w.c).toNat % 2 ^ 32
  let va ← smmOperand op w w.a 2 (kw % 65536) (BitVec.ofNat 64 kw) none
  let vb ← smmOperand op w w.b 3 (kw % 65536) (BitVec.ofNat 64 kw) (portOf w.a)
  enqueue .serac { (← newCommand i) with va := va, vb := vb, vc := BitVec.ofNat 64 kw }
  return .fall
def execSmm (w : Fields) (s : State) : Host.Outcome State Fault Refusal := issue (.smm w) (bodySmm (.smm w) 0xC0 w) s
def execSmmz (w : Fields) (s : State) : Host.Outcome State Fault Refusal := issue (.smmz w) (bodySmm (.smmz w) 0xC1 w) s

/-- SACCRD (R187). -/
def bodySaccrd (w : Fields) : M Flow := do
  let hw ← source w.b
  let cw ← source w.c
  trapIf (decide (fld cw 31 16 ≠ 0)) (illegal 0xC2 w 4)
  enqueue .serac { (← newCommand (.saccrd w)) with vb := hw, vc := cw }
  return .fall
def execSaccrd (w : Fields) (s : State) : Host.Outcome State Fault Refusal := issue (.saccrd w) (bodySaccrd w) s

/-- SACCWR (R186). -/
def bodySaccwr (w : Fields) : M Flow := do
  let hw ← source w.a
  let cw ← source w.b
  trapIf (decide (fld cw 31 16 ≠ 0)) (illegal 0xC3 w 3)
  enqueue .serac { (← newCommand (.saccwr w)) with va := hw, vb := cw }
  return .fall
def execSaccwr (w : Fields) (s : State) : Host.Outcome State Fault Refusal := issue (.saccwr w) (bodySaccwr w) s

/-- SACCZ (R185). -/
def bodySaccz (w : Fields) : M Flow := do
  enqueue .serac (← newCommand (.saccz w))
  return .fall
def execSaccz (w : Fields) (s : State) : Host.Outcome State Fault Refusal := issue (.saccz w) (bodySaccz w) s

/-- SSCL and SMODE: a value of at most `n` bits (R189). -/
def bodySet (i : Instr) (op : BitVec 8) (w : Fields) (n : Nat) : M Flow := do
  let v ← source w.a
  trapIf (decide (2 ^ n ≤ v.toNat)) (refuseValue op w 2 v)
  enqueue .serac { (← newCommand i) with va := v }
  return .fall
def execSscl (w : Fields) (s : State) : Host.Outcome State Fault Refusal := issue (.sscl w) (bodySet (.sscl w) 0xC5 w 8) s
def execSmode (w : Fields) (s : State) : Host.Outcome State Fault Refusal := issue (.smode w) (bodySet (.smode w) 0xC6 w 2) s

/-- An accumulator tile of a task (R168). -/
def Task.accTile (t : Task) (n : Nat) : Acc := t.acc.get n {}

/-- The word of SPROG (R190). -/
def progWord (a : Acc) : Nat := a.busy.toNat * 2 ^ 17 + a.poison.toNat * 2 ^ 16 + a.prog.toNat

/-- SPROG reads Serac's state at issue (R190, R387). -/
def bodySprog (w : Fields) : M Flow := do
  let a := (← theTask).accTile (opndIndex w.a)
  trapIf a.badState (eccTrap 6 (BitVec.ofNat 64 (opndIndex w.a)))
  destine w.d (BitVec.ofNat 64 (progWord a))
  return .fall
def execSprog (w : Fields) (s : State) : Host.Outcome State Fault Refusal := issue (.sprog w) (bodySprog w) s

/-- SACCV and SVACC: the limits on q and n, and the registers they name, which an SVACC reads (R188, R387). -/
def bodyAccMove (i : Instr) (op : BitVec 8) (w : Fields) (v loc : Nat) (write : Bool) : M Flow := do
  let q := (← source w.b).toNat % 2 ^ 32
  let n := (← source w.c).toNat % 2 ^ 32
  trapIf (decide (15 < q)) (refuseValue op w 3 (BitVec.ofNat 64 q))
  trapIf (decide (n = 0) || decide (16 < q + n)) (refuseValue op w 4 (BitVec.ofNat 64 n))
  trapIf (decide (1024 < v + n)) (illegal op w loc)
  let t ← theTask
  trapIf (decide (t.hdr.vframe < v + n)) (regLimit loc (max v t.hdr.vframe) 2)
  match (List.range n).find? (fun k => pendingVec t (v + k) write) with
  | some k => holdOn (.vreg (v + k))
  | none => pure ()
  match (List.range n).find? (fun k => !write && t.badV.any (fun b => b / 1024 == v + k)) with
  | some k => trapWith (eccTrap 4 (BitVec.ofNat 64 (v + k)))
  | none => pure ()
  enqueue .serac { (← newCommand i) with vb := BitVec.ofNat 64 q, vc := BitVec.ofNat 64 n }
  return .fall
def execSaccv (w : Fields) (s : State) : Host.Outcome State Fault Refusal :=
  issue (.saccv w) (bodyAccMove (.saccv w) 0xCC w (opndIndex w.d) 1 true) s
def execSvacc (w : Fields) (s : State) : Host.Outcome State Fault Refusal :=
  issue (.svacc w) (bodyAccMove (.svacc w) 0xCD w (opndIndex w.a) 2 false) s

/-! ## Butterfly commands -/

/-- Whether the configuration word is refused (R199, R203). -/
def cfgBad (chain : Bool) (cfg : Word64) : Bool :=
  let logn := fld cfg 3 0
  let xs := fld cfg 15 12
  let nstm1 := fld cfg 19 16
  let wt := fld cfg 30 28
  cfg.getLsbD 31 || cfg.getLsbD 11 || logn == 0 || logn == 15 ||
  (if chain then decide (15 < xs + nstm1) || (wt ≠ 0 && nstm1 == 0) else nstm1 ≠ 0 || wt ≠ 0 || decide (logn ≤ xs))

/-- A tile range of a butterfly command: the WHERE of its operand, its first tile and its tiles. -/
structure TileRange where
  loc : Nat
  first : Nat
  count : Nat

/-- The tile ranges of a butterfly command in the order D, A, B, work (R194, R197, R203). -/
def tileRanges (w : Fields) (cfg : Word64) : List TileRange :=
  let data := (cfgRows cfg * cfgN cfg + 16383) / 16384
  let weights := (2 * cfgN cfg * (cfgWstage cfg + cfgStages cfg) + 16383) / 16384
  let of (loc count : Nat) (o : Opnd) : List TileRange := match accOperand o with | some t => [⟨loc, t, count⟩] | none => []
  of 1 data w.d ++ of 2 data w.a ++ of 3 weights w.b ++ (if cfgStages cfg = 1 then [] else [⟨4, cfgWork cfg, data⟩])

/-- Whether two ranges may overlap: neither holds weights and they begin at one tile (R203). -/
def mayOverlap (x y : TileRange) : Bool := x.first == y.first && x.loc ≠ 3 && y.loc ≠ 3

/-- The first range that overlaps an earlier one as R203 forbids. -/
def overlapping : List TileRange → Option TileRange
  | [] => none
  | x :: xs =>
    match xs.find? (fun y => decide (x.first < y.first + y.count) && decide (y.first < x.first + x.count) && !mayOverlap x y) with
    | some y => some y
    | none => overlapping xs

/-- The refusals of R203 that the tile ranges decide, in order. -/
def rangeTrap (op : BitVec 8) (w : Fields) (accs : Nat) (rs : List TileRange) : Option Trap :=
  firstTrap [(rs.find? (fun r => decide (8 < r.first + r.count))).map (fun r => refuseValue op w r.loc 8),
    (rs.find? (fun r => decide (accs < r.first + r.count))).map (fun r => regLimit r.loc (max r.first accs) 4),
    (overlapping rs).map (fun r => refuseValue op w r.loc 0)]

/-- The handle word of a Y operand, or 0 for a tile. -/
def handleOf (o : Opnd) : M Word64 := match o with | .scalar _ _ => source o | _ => return 0

/-- SBFLY and SCHAIN enter the queue; their refusals in R203's order (R198 to R203). -/
def bodyStages (i : Instr) (op : BitVec 8) (w : Fields) (chain : Bool) : M Flow := do
  let cfg := (← source w.c) &&& 0xFFFFFFFF#64
  trapIf (cfgBad chain cfg) (refuseValue op w 4 cfg)
  trapIf (!(formOf .dusk i).mods.contains w.mod.toNat) (illegal op w 0)
  match rangeTrap op w (← theTask).hdr.accs (tileRanges w cfg) with
  | some t => trapWith t
  | none => pure ()
  let vd ← handleOf w.d
  let va ← handleOf w.a
  let vb ← handleOf w.b
  enqueue .serac { (← newCommand i) with vd := vd, va := va, vb := vb, vc := cfg }
  return .fall
def execSbfly (w : Fields) (s : State) : Host.Outcome State Fault Refusal := issue (.sbfly w) (bodyStages (.sbfly w) 0xC8 w false) s
def execSchain (w : Fields) (s : State) : Host.Outcome State Fault Refusal := issue (.schain w) (bodyStages (.schain w) 0xC9 w true) s

/-- SSTR (R201). -/
def bodySstr (w : Fields) : M Flow := do
  let v ← source w.a
  let n := (← source w.b).toNat % 2 ^ 32
  trapIf (decide (n = 0) || decide (8 < n) || decide (16 < opndIndex w.d + n)) (refuseValue 0xCA w 3 (BitVec.ofNat 64 n))
  enqueue .serac { (← newCommand (.sstr w)) with va := v, vb := BitVec.ofNat 64 n }
  return .fall
def execSstr (w : Fields) (s : State) : Host.Outcome State Fault Refusal := issue (.sstr w) (bodySstr w) s

/-- SBWL (R202). -/
def bodySbwl (w : Fields) : M Flow := do
  let hw ← source w.a
  let sw ← source w.b
  enqueue .serac { (← newCommand (.sbwl w)) with va := hw, vb := sw }
  return .fall
def execSbwl (w : Fields) (s : State) : Host.Outcome State Fault Refusal := issue (.sbwl w) (bodySbwl w) s

end Sys2Proof.Machine
end

