-- ==== Sys2Proof/Machine/Moraine.lean ====
section
/-! DEFINITION. The Moraine instructions 0xD0 to 0xD9 as Dawn issues them (R304 to R318): descriptors, the translation and
checks of extents, and the command that enters the queue. Machine/MoraineRun.lean runs the commands. -/

namespace Sys2Proof.Machine

/-! ## Extents -/

/-- The parts of extents in a 64 KiB block, by their first byte: first byte, length, extent. -/
def meeting (es : List Extent) (b : Nat) : List (Nat × Nat × Extent) :=
  (es.filterMap (fun e =>
    let lo := max e.lo.toNat (b * 65536)
    let hi := min (e.lo.toNat + e.len) ((b + 1) * 65536)
    if lo < hi then some (lo, hi - lo, e) else none)).foldl
      (fun acc x => acc.filter (fun y => decide (y.1 ≤ x.1)) ++ x :: acc.filter (fun y => decide (x.1 < y.1))) []

/-- The first 64 KiB block from `b` on that extents meet. -/
def nextBlock (es : List Extent) (b : Nat) : Option Nat :=
  (es.filterMap (fun e =>
    if e.len = 0 ∨ e.lo.toNat + e.len ≤ b * 65536 then none else some (max b (e.lo.toNat / 65536)))).min?

/-- Whether bytes meet the event counters of a tile window (R235, R306). -/
def meetsCounters (pa len : Nat) : Bool :=
  match placeOf pa with
  | .tile _ off => decide (counterBase < off + len)
  | .counter _ _ _ => true
  | _ => false

/-- The cause of an absence of a part of an extent (R243, R438), in the control space unless its accesses are doublewords (`words`); a
power-gated tile is met only by the accesses. -/
def State.absentPiece (s : State) (pa len : Nat) (words : Bool) : Option Nat :=
  if 2 ^ 52 ≤ pa ∨ s.diePresent (dieOf pa) = false then some 2
  else
    match placeOf pa with
    | .hole => some 3
    | .tileHole _ => some 3
    | .ctrl o => if words = true ∧ o % 8 = 0 ∧ len % 8 = 0 ∧ (List.range (len / 8)).all (fun k => ctrlRegister (o + 8 * k)) then none else some 3
    | _ => none

/-- The check of one part of an extent under its leaf (R241, R242, R243, R306). -/
def State.checkPiece (s : State) (e : TransEntry) (start len : Nat) (x : Extent) (domain : BitVec 8) (priv : Bool)
    (earlier : Option (BitVec 8)) : Option XFault :=
  let pa := leafPa e.leaf e.level start
  match protCause e.leaf pa (if x.write then .cmdWrite else .cmdRead) domain priv earlier with
  | some c => some ⟨.prot, c, 0⟩
  | none =>
    if meetsCounters pa len then some ⟨.prot, 8, 0⟩
    else (s.absentPiece pa len x.words).map (fun c => ⟨.absent, c, 0⟩)

/-- What the translation of a command's extents has found so far: parts, newest first; leaves, by level and first block;
the DOMAIN of the first part. -/
structure ExtWalk where
  parts : List Part := []
  leaves : List (Nat × Nat) := []
  domain : Option (BitVec 8) := none

/-- The translation of extents, block by block in increasing address order (R241), with the failing part's first byte. -/
def State.walkExtents (s : State) (find : Nat → Except (Sum XFault Hold) TransEntry) (domain : BitVec 8) (priv : Bool)
    (es : List Extent) : Nat → Nat → ExtWalk → Except (Sum (XFault × Int) Hold) ExtWalk
  | 0, _, x => .ok x
  | fuel + 1, b, x =>
    match nextBlock es b with
    | none => .ok x
    | some k =>
      let ps := meeting es k
      let va := ((ps.head?).map Prod.fst).getD (k * 65536)
      match find va with
      | .error (.inl f) => .error (.inl (f, (va : Int)))
      | .error (.inr h) => .error (.inr h)
      | .ok e =>
        let leaf := (e.level, e.block / (pageSize e.level / 65536))
        let leaves := if x.leaves.contains leaf then x.leaves else leaf :: x.leaves
        if 1024 < leaves.length then .error (.inl (⟨.xlate, 7, 0⟩, (va : Int)))
        else
          match ps.findSome? (fun p => (s.checkPiece e p.1 p.2.1 p.2.2 domain priv x.domain).map (fun f => (f, (p.1 : Int)))) with
          | some f => .error (.inl f)
          | none =>
            s.walkExtents find domain priv es fuel (k + 1)
              { parts := ⟨k, e.leaf, e.level⟩ :: x.parts, leaves := leaves, domain := some (x.domain.getD (leafDomain e.leaf)) }

/-- The global extents of a command translated: its parts, or the first failure (R241, R306). An extent that begins below
address 0 fails as one beyond the virtual space. -/
def State.translateExtents (s : State) (find : Nat → Except (Sum XFault Hold) TransEntry) (domain : BitVec 8) (priv : Bool)
    (es : List Extent) : Except (Sum (XFault × Int) Hold) (List Part) :=
  let gs := es.filter (fun e => !e.inTile && decide (e.len ≠ 0))
  match gs.find? (fun e => decide (e.lo < 0)) with
  | some e => .error (.inl (⟨.xlate, 1, 0⟩, e.lo))
  | none =>
    match s.walkExtents find domain priv gs 0x4000000 0 {} with
    | .error f => .error f
    | .ok x => .ok x.parts.reverse

/-- The bounds check of a tile-local extent (R306): the first byte outside. -/
def tileExtentFault (t : Task) (e : Extent) : Option Trap :=
  let top : Int := (t.tmBase + t.tmSize : Nat)
  if e.inTile = false ∨ e.len = 0 then none
  else if e.lo < t.tmBase then some { code := .tilememBounds, info := BitVec.ofInt 64 e.lo, detail := 1 }
  else if top < e.lo + e.len then some { code := .tilememBounds, info := BitVec.ofInt 64 (max e.lo top), detail := 1 }
  else none

/-- The checks of a command's extents at issue (R306), tile-local ones first; its parts, pinned from now on (R246). -/
def checkExtents (c : Command) : M (List Part) := do
  let s ← get
  let who := s.cur.strand
  let l := s.load s.myTask.load
  let es := s.extentsOf who.tileId c
  match firstTrap (es.map (tileExtentFault s.myTask)) with
  | some t => trapWith t
  | none => pure ()
  match s.translateExtents (fun va => s.lookup who va) l.domain l.priv es with
  | .error (.inl (f, a)) => trapWith { code := f.code, info := BitVec.ofInt 64 a, detail := f.detail }
  | .error (.inr h) => holdOn h
  | .ok ps => return ps

/-- A checked command enters the queue; a status slot that it names is cleared (R310). -/
def enterMoraine (w : Fields) (c : Command) : M Flow := do
  let ps ← checkExtents c
  if w.e.getLsbD 11 then modTask (fun t => { t with slots := t.slots.set (fld w.e 10 7) 0 })
  enqueue .moraine { c with parts := ps }
  return .fall

/-! ## Descriptors -/

/-- The 64-byte descriptor at a tile-local address, of a kind, checked (R307). -/
def readDescriptor (a : Word64) (loc kind : Nat) (bad : List Word64 → Option Nat) : M (List Word64) := do
  let s ← get
  let tile := s.cur.strand.tileId
  trapIf (decide (a.toNat % 64 ≠ 0)) { code := .misalign, loc := loc, info := a, detail := 64 }
  trapIf (!s.myTask.inBounds a.toNat 64) { code := .tilememBounds, loc := loc, info := a, detail := 64 }
  afterOwn a.toNat 64
  trapIf (s.isDamaged (tilePa tile a.toNat) 64) (eccTrap 2 a loc)
  let d := toDwords (s.readTile tile a.toNat 64)
  match (if fld (dw d 0) 63 60 ≠ kind then some 0 else bad d) with
  | some k => trapWith { code := .illegalEnc, loc := loc, info := dw d k, detail := BitVec.ofNat 32 k }
  | none => return d

/-- The first index of a list whose check fails. -/
def firstIndex (l : List (Nat × Bool)) : Option Nat := (l.find? (fun x => x.2)).map Prod.fst

/-- The doubleword that makes a nest descriptor illegal (R307, R315). -/
def nestBad (d : List Word64) : Option Nat :=
  let idle (l : Nat) : List (Nat × Bool) :=
    if fld (dw d 0) 59 58 < l then
      [(7, fld (dw d 7) (16 * l - 1) (16 * l - 16) != 0), (2 * l - 1, dw d (2 * l - 1) != 0), (2 * l, dw d (2 * l) != 0)]
    else []
  firstIndex ([(0, fld (dw d 0) 57 25 != 0), (7, fld (dw d 7) 63 48 != 0), (0, decide (2 ^ 24 < fld (dw d 0) 24 0))] ++
    idle 1 ++ idle 2 ++ idle 3)

/-- The doubleword that makes an index descriptor illegal (R307, R316). -/
def indexBad (d : List Word64) : Option Nat :=
  firstIndex [(0, fld (dw d 0) 57 48 != 0), (1, fld (dw d 1) 63 32 != 0), (5, dw d 5 != 0), (6, dw d 6 != 0), (7, dw d 7 != 0),
    (0, fld (dw d 0) 59 58 == 3 || fld (dw d 0) 31 0 == 0 || decide (2 ^ 24 < fld (dw d 0) 31 0))]

/-- The doubleword that makes a sparse descriptor illegal (R307, R317). -/
def sparseBad (d : List Word64) : Option Nat :=
  firstIndex [(0, fld (dw d 0) 55 48 != 0), (1, fld (dw d 1) 63 32 != 0), (2, dw d 2 != 0), (5, dw d 5 != 0), (6, dw d 6 != 0), (7, dw d 7 != 0),
    (0, fld (dw d 0) 59 58 == 3 || fld (dw d 0) 31 0 == 0 || decide (2 ^ 24 / sparseSize (dw d 0) < fld (dw d 0) 31 0))]

/-! ## Copies and fills -/

/-- MCPY (R314). -/
def bodyMcpy (w : Fields) : M Flow := do
  let d ← source w.d
  let a ← source w.a
  let n ← source w.b
  trapIf (decide (2 ^ 32 ≤ n.toNat)) (refuseValue 0xD0 w 3 n)
  enterMoraine w { (← newCommand (.mcpy w)) with vd := d, va := a, vb := n }
def execMcpy (w : Fields) (s : State) : Host.Outcome State Fault Refusal := issue (.mcpy w) (bodyMcpy w) s

/-- MFILL (R314). -/
def bodyMfill (w : Fields) : M Flow := do
  let d ← source w.d
  let n ← source w.b
  let p ← source w.c
  trapIf (decide (2 ^ 32 ≤ n.toNat)) (refuseValue 0xD5 w 3 n)
  enterMoraine w { (← newCommand (.mfill w)) with vd := d, vb := n, vc := p }
def execMfill (w : Fields) (s : State) : Host.Outcome State Fault Refusal := issue (.mfill w) (bodyMfill w) s

/-- MCPY2: the nest descriptor that its shape and strides stand for (R315). -/
def bodyMcpy2 (w : Fields) : M Flow := do
  let d ← source w.d
  let a ← source w.a
  let shape ← source w.b
  let strides ← source w.c
  trapIf (decide (fld shape 63 48 ≠ 0) || decide (2 ^ 24 < fld shape 31 0)) (refuseValue 0xD1 w 3 shape)
  enterMoraine w { (← newCommand (.mcpy2 w)) with vd := d, va := a, desc := nestOfShape shape strides }
def execMcpy2 (w : Fields) (s : State) : Host.Outcome State Fault Refusal := issue (.mcpy2 w) (bodyMcpy2 w) s

/-- MNEST (R315). -/
def bodyMnest (w : Fields) : M Flow := do
  let d ← source w.d
  let a ← source w.a
  let desc ← readDescriptor (← source w.b) 3 1 nestBad
  enterMoraine w { (← newCommand (.mnest w)) with vd := d, va := a, desc := desc }
def execMnest (w : Fields) (s : State) : Host.Outcome State Fault Refusal := issue (.mnest w) (bodyMnest w) s

/-! ## Gathers and scatters -/

/-- MGTH, MSCT and MSPG (R316, R317). -/
def bodyGather (i : Instr) (w : Fields) (kind : Nat) (bad : List Word64 → Option Nat) : M Flow := do
  let d ← source w.d
  let a ← source w.a
  let b ← source w.b
  let desc ← readDescriptor (← source w.c) 4 kind bad
  enterMoraine w { (← newCommand i) with vd := d, va := a, vb := b, desc := desc }
def execMgth (w : Fields) (s : State) : Host.Outcome State Fault Refusal := issue (.mgth w) (bodyGather (.mgth w) w 2 indexBad) s
def execMsct (w : Fields) (s : State) : Host.Outcome State Fault Refusal := issue (.msct w) (bodyGather (.msct w) w 2 indexBad) s
def execMspg (w : Fields) (s : State) : Host.Outcome State Fault Refusal := issue (.mspg w) (bodyGather (.mspg w) w 3 sparseBad) s

/-! ## Streams -/

/-- MM2C and MC2M: the endpoint, which the task's own load binds, the count, and agreement with the channel's type (R163, R318). -/
def bodyStream (i : Instr) (op : BitVec 8) (w : Fields) (out : Bool) : M Flow := do
  let scl := w.mod.getLsbD 1
  let d ← (if scl then source w.d else return 0)
  let a ← source w.a
  let ep ← source w.b
  let n ← source w.c
  let s ← get
  let p := streamerPort s.cur.strand.tileId out ep.toNat
  trapIf (decide (15 < ep.toNat) || !(s.boundTo p).any (fun c => c.1.load == s.myTask.load)) (illegal op w 3)
  trapIf (decide (2 ^ 32 ≤ n.toNat)) (illegal op w 4)
  let ty := s.portType p
  let grouped := typeSkind ty == 1 || typeSkind ty == 2
  trapIf (!formatMatches s.myTask w.fmt.toNat ty || scl != grouped || (scl && (w.fmt == 0 || w.fmt == 14))) (illegal op w 0)
  enterMoraine w { (← newCommand i) with vd := d, va := a, vb := ep, vc := n }
def execMm2c (w : Fields) (s : State) : Host.Outcome State Fault Refusal := issue (.mm2c w) (bodyStream (.mm2c w) 0xD6 w true) s
def execMc2m (w : Fields) (s : State) : Host.Outcome State Fault Refusal := issue (.mc2m w) (bodyStream (.mc2m w) 0xD7 w false) s

/-! ## Status -/

/-- MSTAT (R311). -/
def bodyMstat (w : Fields) : M Flow := do
  let n ← source w.a
  trapIf (decide (15 < n.toNat)) (illegal 0xD9 w 2)
  let s ← get
  let v := (match s.cur.pair with | some p => p.slots | none => s.myTask.slots).get n.toNat 0
  destine w.d (if w.mod = 0 then v.extractLsb' 0 64 else v.extractLsb' 64 64)
  return .fall
def execMstat (w : Fields) (s : State) : Host.Outcome State Fault Refusal := issue (.mstat w) (bodyMstat w) s

end Sys2Proof.Machine
end

