-- ==== Sys2Proof/Machine/SeracRun.lean ====
section
/-! DEFINITION. Serac at work: layout records (R172 to R174, R195, R196, R203), port blocks (R175, R176, R178), the dense
multiply (R130, R131, R177, R184), moves (R185 to R188), butterfly stages (R191 to R202, R206), and the steps of a command:
start, staging, progress, completion. -/

namespace Sys2Proof.Machine

/-! ## Layout records -/

/-- The fields of a layout record (R172); of a weight record, SCBASE is SSTRIDE, ROWS is NST and LOGN lies in dw1 (R196). -/
structure LayoutRec where
  dws : List Word64
  handle : Nat
  format : Format

def LayoutRec.base (r : LayoutRec) : Nat := fld (dw r.dws 0) 31 0
def LayoutRec.scbase (r : LayoutRec) : Nat := fld (dw r.dws 0) 63 32
def LayoutRec.rows (r : LayoutRec) : Nat := fld (dw r.dws 1) 63 48
def LayoutRec.cols (r : LayoutRec) : Nat := fld (dw r.dws 1) 47 32
def LayoutRec.rstride (r : LayoutRec) : Nat := fld (dw r.dws 1) 31 0
def LayoutRec.scstride (r : LayoutRec) : Nat := fld (dw r.dws 2) 63 32
def LayoutRec.fmt (r : LayoutRec) : Nat := fld (dw r.dws 2) 31 28
def LayoutRec.skind (r : LayoutRec) : Nat := fld (dw r.dws 2) 27 26
def LayoutRec.gsz (r : LayoutRec) : Nat := fld (dw r.dws 2) 25 24
def LayoutRec.swz (r : LayoutRec) : Nat := fld (dw r.dws 2) 23 22
def LayoutRec.kaxis (r : LayoutRec) : Bool := (dw r.dws 2).getLsbD 21
def LayoutRec.kind (r : LayoutRec) : Nat := fld (dw r.dws 2) 20 18
def LayoutRec.logn (r : LayoutRec) : Nat := fld (dw r.dws 1) 47 44

/-- The format of an FMT code with the nf registers of a command's issue; none for code 0 in an nf register (R170). -/
def recordFormat (nf : Map Nat (BitVec 6)) (f : Nat) : Option Format :=
  if 10 ≤ f ∧ f ≤ 13 then (if nf.get (f - 10) 0 = 0 then none else some (.b8 (nf.get (f - 10) 0))) else some (plainFormat f)

/-- A refusal of R181: code, WHERE, INFO and DETAIL. -/
structure RecFault where
  code : FaultCode
  loc : Nat
  info : Word64
  detail : Word32

/-- What a command admits of a record (R173): weights or a matrix, FMT codes, SKINDs, and the K0 of an SMM operand. -/
structure RecUse where
  weight : Bool := false
  fmts : List Nat
  skinds : List Nat := [0]
  k0 : Nat := 0

/-- The first doubleword with a reserved field that is not zero (R172, R196). -/
def reservedDword (dws : List Word64) : Option Nat :=
  let weight := fld (dw dws 2) 20 18 == 1
  if weight && fld (dw dws 1) 43 0 ≠ 0 then some 1
  else if fld (dw dws 2) 17 0 ≠ 0 || (weight && fld (dw dws 2) 63 32 ≠ 0) then some 2
  else [3, 4, 5, 6, 7].find? (fun k => dw dws k ≠ 0)

/-- The doubleword that makes a record ILLEGAL_ENC, in the order of R173. -/
def badDword (u : RecUse) (nf : Map Nat (BitVec 6)) (r : LayoutRec) : Option Nat :=
  match reservedDword r.dws with
  | some k => some k
  | none =>
    if r.kind ≠ (if u.weight then 1 else 0) then some 2
    else if u.weight && (r.rows == 0 || r.logn == 0 || r.logn == 15) then some 1
    else if !u.weight && (r.rows == 0 || r.cols == 0) then some 1
    else if r.swz == 3 || !u.fmts.contains r.fmt || (recordFormat nf r.fmt).isNone || !u.skinds.contains r.skind ||
        (if r.skind = 1 then r.gsz == 3 else r.gsz ≠ 0) || (u.weight && (r.swz ≠ 0 || r.kaxis)) ||
        (r.skind == 1 && decide (u.k0 % (32 * 2 ^ r.gsz) ≠ 0)) then some 2
    else none

/-- A record checked but for its bounds (R173, R181). -/
def checkRecord (u : RecUse) (nf : Map Nat (BitVec 6)) (loc : Nat) (hw : Word64) (dws : List Word64) : Except RecFault LayoutRec :=
  let h := fld hw 15 0
  let r : LayoutRec := ⟨dws, h, (recordFormat nf (fld (dw dws 2) 31 28)).getD .raw⟩
  match badDword u nf r with
  | some k => .error ⟨.illegalEnc, loc, dw dws k, BitVec.ofNat 32 (h * 65536 + k)⟩
  | none =>
    let second := if u.weight then r.scbase else r.rstride
    if r.base % r.format.bytes ≠ 0 then .error ⟨.misalign, loc, BitVec.ofNat 64 r.base, BitVec.ofNat 32 r.format.bytes⟩
    else if second % r.format.bytes ≠ 0 then .error ⟨.misalign, loc, BitVec.ofNat 64 second, BitVec.ofNat 32 r.format.bytes⟩
    else .ok r

/-- The refusal of a handle at or beyond the table's size (R181). -/
def handleFault (loc : Nat) (hw : Word64) : RecFault := ⟨.illegalEnc, loc, BitVec.ofNat 64 (fld hw 31 0), BitVec.ofNat 32 (fld hw 15 0 * 65536 + 15)⟩

/-- Address of record element (r, c) (R174). -/
def LayoutRec.addr (x : LayoutRec) (r c : Nat) : Nat := swizzle x.swz r (x.base + r * x.rstride + c * x.format.bytes)

/-- Address of record element (r, c), unless it is clipped (R174). -/
def LayoutRec.element (y : LayoutRec) (r c : Nat) : Option Nat := if r < y.rows ∧ c < y.cols then some (y.addr r c) else none

/-- Address of the element at index x of the non-K axis and k of the K axis, unless it is clipped (R174). -/
def LayoutRec.cell (y : LayoutRec) (x k : Nat) : Option Nat := if y.kaxis then y.element k x else y.element x k

/-- Address of the scale byte of group j at index x (R174). -/
def LayoutRec.scaleAddr (y : LayoutRec) (x j : Nat) : Nat :=
  if y.skind = 1 then (if y.kaxis then y.scbase + j * y.scstride + x else y.scbase + x * y.scstride + j)
  else if y.kaxis then y.scbase + x else y.scbase + x * y.scstride

/-- Group size of a record's scaling: its K indices per scale, if it has scales (R126). -/
def LayoutRec.group (y : LayoutRec) : Option Nat := if y.skind = 1 then some (32 * 2 ^ y.gsz) else none

/-- Whether an element at (x, k) is not clipped. -/
def LayoutRec.inside (y : LayoutRec) (x k : Nat) : Bool := (y.cell x k).isSome

/-- Address of the scale byte that covers K index k at index x, if it is read (R174): the first K index of its group in
the command is not clipped. -/
def LayoutRec.scaleOf (y : LayoutRec) (k0 x k : Nat) : Option Nat :=
  if y.skind = 0 then none
  else
    let j := match y.group with | some g => k / g | none => 0
    let first := match y.group with | some g => j * g | none => k0
    if y.inside x first then some (y.scaleAddr x j) else none

/-- Bytes that an SMM operand touches: element addresses and sizes, then scale bytes, row by row (R173). -/
def LayoutRec.smmTouches (y : LayoutRec) (org k0 klen : Nat) : List (Nat × Nat) :=
  (List.range 128).flatMap (fun i =>
    ((List.range klen).filterMap (fun κ => (y.cell (org + i) (k0 + κ)).map (fun a => (a, y.format.bytes)))) ++
    ((List.range ((klen + 31) / 32)).filterMap (fun b => (y.scaleOf k0 (org + i) (k0 + 32 * b)).map (fun a => (a, 1)))))

/-- The element addresses of a batch, row by row, none where clipped (R195). -/
def LayoutRec.batchCells (y : LayoutRec) (org rows n : Nat) : List (Option Nat) :=
  (List.range rows).flatMap (fun b => (List.range n).map (fun k => y.cell (org + b) k))

/-- The element addresses of a 128 x 128 tile with its origins (R186): under KAXIS = 1 the tile's columns run down the record's rows. -/
def LayoutRec.tileCells (y : LayoutRec) (row col : Nat) : List (Option Nat) :=
  (List.range 128).flatMap (fun i => (List.range 128).map (fun j => if y.kaxis then y.element (row + j) (col + i) else y.element (row + i) (col + j)))

/-- Addresses of the 4 * N/2 weights of a stage (R196). -/
def LayoutRec.stageCells (y : LayoutRec) (k n : Nat) : List Nat :=
  (List.range (2 * n)).map (fun e => y.base + k * y.scbase + e * y.format.bytes)

/-- The first byte outside a task's allocation among touched bytes, with the size it was touched by (R173, R181). -/
def firstOutside (t : Task) (touched : List (Nat × Nat)) : Option (Nat × Nat) :=
  (touched.find? (fun x => !t.inBounds x.1 x.2)).map (fun x => (if x.1 < t.tmBase then x.1 else max x.1 (t.tmBase + t.tmSize), x.2))

/-- The bounds fault of touched bytes (R181). -/
def boundsFault (t : Task) (loc : Nat) (touched : List (Nat × Nat)) : Option RecFault :=
  (firstOutside t touched).map (fun x => ⟨.tilememBounds, loc, BitVec.ofNat 64 x.1, BitVec.ofNat 32 x.2⟩)

/-- Elements of one size at addresses. -/
def sized (f : Format) (as : List Nat) : List (Nat × Nat) := as.map (fun a => (a, f.bytes))

/-- Whether two sets of touched bytes have spans that meet (R203). -/
def spansMeet (xs ys : List (Nat × Nat)) : Bool :=
  let lo (l : List (Nat × Nat)) : Option Nat := (l.map Prod.fst).min?
  let hi (l : List (Nat × Nat)) : Option Nat := (l.map (fun x => x.1 + x.2)).max?
  match lo xs, hi xs, lo ys, hi ys with
  | some a, some b, some c, some d => decide (a < d) && decide (c < b)
  | _, _, _, _ => false

/-! ## What a command checks when it starts -/

/-- Handle words of a command, with the WHERE of each operand and what it admits (R173, R186, R187, R195, R196). -/
def recordNeeds (c : Command) : List (Nat × Word64 × RecUse) :=
  let word : List Nat := [7, 8, 9, 10, 11, 12, 13]
  let smm (loc : Nat) (o : Opnd) (v : Word64) : List (Nat × Word64 × RecUse) :=
    if (portOf o).isSome then [] else [(loc, v, { fmts := [5, 6, 8, 9, 10, 11, 12, 13], skinds := [0, 1, 2], k0 := fld c.vc 31 16 })]
  let data (loc : Nat) (o : Opnd) (v : Word64) : List (Nat × Word64 × RecUse) :=
    if (accOperand o).isSome then [] else [(loc, v, { fmts := word })]
  let weights (o : Opnd) (v : Word64) : List (Nat × Word64 × RecUse) :=
    if (accOperand o).isSome then [] else [(3, v, { weight := true, fmts := word })]
  if c.null then []
  else
    match c.instr with
    | .smm w => smm 2 w.a c.va ++ smm 3 w.b c.vb
    | .smmz w => smm 2 w.a c.va ++ smm 3 w.b c.vb
    | .saccrd _ => [(3, c.vb, { fmts := word })]
    | .saccwr _ => [(2, c.va, { fmts := word })]
    | .sbfly w => data 1 w.d c.vd ++ data 2 w.a c.va ++ weights w.b c.vb
    | .schain w => data 1 w.d c.vd ++ data 2 w.a c.va ++ weights w.b c.vb
    | .sbwl _ => [(2, c.va, { weight := true, fmts := word })]
    | _ => []

/-- A record as a tile's layout-record cache holds it (R250). -/
def Tile.layout (t : Tile) (l : LoadId) (handle : Nat) : Option (List Word64) :=
  (t.lcache.find? (fun e => e.load == l && e.handle == handle)).map LayoutEntry.dws

/-- Whether every record that a command uses is in its tile's cache, or named by a handle out of range (R250). -/
def State.recordsReady (s : State) (i : TaskId) (c : Command) : Bool :=
  (recordNeeds c).all (fun x => decide ((s.load (s.task i).load).lrcount ≤ fld x.2.1 15 0) ||
    ((s.tile i.tileId).layout (s.task i).load (fld x.2.1 15 0)).isSome)

/-- Records checked in operand order, keyed by WHERE. -/
def State.fetchRecords (s : State) (i : TaskId) (c : Command) : List (Nat × Word64 × RecUse) → Except RecFault (List (Nat × LayoutRec))
  | [] => .ok []
  | (loc, hw, u) :: rest =>
    if (s.load (s.task i).load).lrcount ≤ fld hw 15 0 then .error (handleFault loc hw)
    else
      match checkRecord u c.nf loc hw (((s.tile i.tileId).layout (s.task i).load (fld hw 15 0)).getD []) with
      | .error e => .error e
      | .ok r =>
        match s.fetchRecords i c rest with
        | .error e => .error e
        | .ok rs => .ok ((loc, r) :: rs)

/-- A record of a command by the WHERE of its operand, from the doublewords it captured at its start. -/
def Command.record (c : Command) (loc : Nat) : Option LayoutRec :=
  (c.records.find? loc).map (fun d => ⟨d, 0, (recordFormat c.nf (fld (dw d 2) 31 28)).getD .raw⟩)

/-- The stride exponents of a butterfly command's stages (R193, R200). -/
def strideOf (t : Task) (c : Command) (j : Nat) : Nat :=
  if isSchain c then (t.strides.get (fld c.vc 15 12 + j) 0).toNat else fld c.vc 15 12

/-- The first failure of a list of checks. -/
def firstFault : List (Option RecFault) → Option RecFault
  | [] => none
  | some x :: _ => some x
  | none :: r => firstFault r

/-- The checks of R203 at the start of SBFLY and SCHAIN beyond those of their records. -/
def stageFault (t : Task) (c : Command) (rs : List (Nat × LayoutRec)) : Option RecFault :=
  let get (loc : Nat) : Option LayoutRec := (rs.find? (fun x => x.1 == loc)).map Prod.snd
  let n := cfgN c.vc
  let stages := cfgStages c.vc
  let first := cfgWstage c.vc
  let touched (loc : Nat) (hw : Word64) : List (Nat × Nat) :=
    match get loc with
    | some r => sized r.format ((r.batchCells (fld hw 31 16) (cfgRows c.vc) n).filterMap id)
    | none => []
  let wtouched : List (Nat × Nat) :=
    match get 3 with
    | some r => (List.range stages).flatMap (fun j => sized r.format (r.stageCells (first + j) n))
    | none => []
  let same := match get 1, get 2 with
    | some x, some y => x.base == y.base && x.rstride == y.rstride && x.fmt == y.fmt && x.swz == y.swz && x.kaxis == y.kaxis && fld c.vd 31 16 == fld c.va 31 16
    | _, _ => true
  firstFault [
    (match get 3 with
      | some r => if r.logn ≠ fld c.vc 3 0 ∨ r.rows < first + stages then
          some ⟨.illegalEnc, 3, dw r.dws 1, BitVec.ofNat 32 (r.handle * 65536 + 1)⟩ else none
      | none => none),
    ((List.range stages).find? (fun j => isSchain c && decide (fld c.vc 3 0 ≤ strideOf t c j))).map (fun j =>
      ⟨.illegalEnc, 4, c.vc, BitVec.ofNat 32 (fld c.vc 15 12 + j)⟩),
    (if (!same && spansMeet (touched 1 c.vd) (touched 2 c.va)) || spansMeet (touched 1 c.vd) wtouched then
      some ⟨.illegalEnc, 1, 0, 0⟩ else none),
    boundsFault t 1 (touched 1 c.vd), boundsFault t 2 (touched 2 c.va), boundsFault t 3 wtouched]

/-- The checks of R202 and R203 at the start of SBWL. -/
def bwlFault (t : Task) (c : Command) (r : LayoutRec) : Option RecFault :=
  let first := fld c.vb 31 16
  let count := fld c.vb 15 0
  let n := 2 ^ r.logn
  let d := opndIndex c.word.d
  let tiles := (2 * n * count + 16383) / 16384
  firstFault [
    (if count = 0 ∨ r.rows < first + count then some ⟨.illegalEnc, 3, BitVec.ofNat 64 (fld c.vb 31 0), 0⟩ else none),
    (if min 8 t.hdr.accs < d + tiles then some ⟨.regLimit, 1, BitVec.ofNat 64 (max d (min 8 t.hdr.accs)), 4⟩ else none),
    boundsFault t 2 ((List.range count).flatMap (fun k => sized r.format (r.stageCells (first + k) n)))]

/-- The checks that a command makes when it starts (R173, R181, R203). -/
def State.startFault (s : State) (i : TaskId) (c : Command) : Except RecFault (List (Nat × LayoutRec)) :=
  match s.fetchRecords i c (recordNeeds c) with
  | .error e => .error e
  | .ok rs =>
    let t := s.task i
    let bounds : Option RecFault :=
      match c.instr with
      | .sbfly _ => stageFault t c rs
      | .schain _ => stageFault t c rs
      | .sbwl _ => (rs.head?).bind (fun r => bwlFault t c r.2)
      | .saccrd _ => (rs.head?).bind (fun r => boundsFault t 3 (sized r.2.format ((r.2.tileCells (fld c.vb 31 16) (fld c.vc 15 0)).filterMap id)))
      | .saccwr _ => (rs.head?).bind (fun r => boundsFault t 2 (sized r.2.format ((r.2.tileCells (fld c.va 31 16) (fld c.vb 15 0)).filterMap id)))
      | _ => firstFault (rs.map (fun r =>
          boundsFault t r.1 (r.2.smmTouches (fld (if r.1 = 2 then c.va else c.vb) 31 16) (fld c.vc 31 16) (fld c.vc 15 0))))
    match bounds with
    | some e => .error e
    | none => .ok rs

/-! ## Commands in their queue -/

/-- A command of a task's engine queue changed. -/
def State.updCommand (s : State) (i : TaskId) (e : Engine) (seq : Nat) (f : Command → Command) : State :=
  s.updTask i (fun t =>
    let x := t.engineState e
    t.setEngineState e { x with queue := x.queue.map (fun c => if c.seq = seq then f c else c) })

/-- An accumulator tile of a task changed. -/
def State.updAcc (s : State) (i : TaskId) (n : Nat) (f : Acc → Acc) : State := s.updTask i (fun t => { t with acc := t.acc.set n (f (t.accTile n)) })

/-- The accumulator tile whose BUSY a running command sets (R168, R200). -/
def busyTile (c : Command) : Option Nat :=
  if c.null then none
  else if isSmm c then some (opndIndex c.word.d)
  else if isSchain c && cfgStages c.vc ≠ 1 then some (cfgWork c.vc)
  else none

/-- BUSY of a tile from the commands that run (R168, R200). -/
def State.refreshBusy (s : State) (i : TaskId) (n : Nat) : State :=
  let b := (s.task i).serac.queue.any (fun c => c.started && busyTile c == some n)
  s.updAcc i n (fun a => { a with busy := b })

/-- A command starts (R169, R181): its POP is taken, its records are checked and captured, and SVACC reads its registers
(R188). A failed check raises the asynchronous record and leaves the command refused. -/
def State.startSerac (s : State) (i : TaskId) (c : Command) : State :=
  let who := i.strand .dusk
  let s1 := s.takePop i .serac c
  let s2 := s1.updTile i.tileId (fun t => { t with seracLast := t.seracLast.set i.slot (s.clock + 1) })
  match s2.startFault i c with
  | .error f =>
    (s2.updCommand i .serac c.seq (fun x => { x with popTaken := true, refused := true })).raiseAsync who f.code f.loc f.info f.detail c.addr .seracStart
  | .ok rs =>
    let t := s2.task i
    let cells : List Tok := match c.instr with
      | .svacc w => if c.null then [] else ((List.range c.vc.toNat).flatMap (fun k => t.vec (opndIndex w.a + k))).map Tok.elem
      | _ => []
    let s3 := s2.updCommand i .serac c.seq (fun x =>
      { x with popTaken := true, started := true, waitSince := s.clock, records := ⟨rs.map (fun r => (r.1, r.2.dws))⟩
               staged := if cells.isEmpty then x.staged else x.staged.set 0 cells })
    match busyTile c with
    | some n => s3.refreshBusy i n
    | none => s3

/-! ## Port blocks -/

/-- A walk over a port's tokens that takes one block (R175, R176). -/
structure BlockWalk where
  taken : Nat := 0
  elems : List Word32 := []
  codes : List (BitVec 8) := []
  code : BitVec 8 := 0x7F
  scale : Option (BitVec 8) := none
  poison : Option Word64 := none

/-- One element added to a block whose lane has `left` more after it. -/
def BlockWalk.put (x : BlockWalk) (cell : Word32) (left : Nat) : BlockWalk :=
  { x with elems := cell :: x.elems, codes := if left = 0 then x.code :: x.codes else x.codes, code := if left = 0 then 0x7F else x.code }

/-- The rest of a block after an end-of-stream: zeros under scale code 0x7F (R176). -/
def BlockWalk.pad (nb lanes left : Nat) (x : BlockWalk) : BlockWalk :=
  let partialLane := if left < nb then 1 else 0
  { x with elems := List.replicate (lanes * nb + (if left < nb then left else 0)) 0 ++ x.elems
           codes := List.replicate lanes 0x7F ++ (if partialLane = 1 then [x.code] else []) ++ x.codes }

/-- The block's tokens taken in order: `lanes` whole lanes are still to come after the present one, of which `left`
elements are missing. None when the block has not arrived whole. Elements and codes come out in reverse. -/
def blockWalk (nb : Nat) : List Tok → (lanes left : Nat) → BlockWalk → Option BlockWalk
  | [], _, _, _ => none
  | .order :: ts, lanes, left, x => blockWalk nb ts lanes left { x with taken := x.taken + 1 }
  | .scale k :: ts, lanes, left, x => blockWalk nb ts lanes left { x with taken := x.taken + 1, code := k, scale := some k }
  | .pscl k :: ts, lanes, left, x => blockWalk nb ts lanes left { x with taken := x.taken + 1, code := k, scale := some k }
  | .eos :: _, lanes, left, x =>
    if left = nb then some (BlockWalk.pad nb (lanes + 1) nb x) else some (BlockWalk.pad nb lanes left x)
  | .elem c :: ts, lanes, left, x =>
    let y := { x with taken := x.taken + 1 }.put c (left - 1)
    if left - 1 = 0 then (match lanes with | 0 => some y | l + 1 => blockWalk nb ts l nb y) else blockWalk nb ts lanes (left - 1) y
  | .poison o :: ts, lanes, left, x =>
    let y := { x with taken := x.taken + 1, poison := (match x.poison with | none => some o | p => p) }.put 0 (left - 1)
    if left - 1 = 0 then (match lanes with | 0 => some y | l + 1 => blockWalk nb ts l nb y) else blockWalk nb ts lanes (left - 1) y

/-- Block length of a port operand (R175). -/
def State.blockLength (s : State) (i : TaskId) (port : Nat) : Nat :=
  let ty := s.portType (tilePort i.tileId false port)
  if typeSkind ty = 1 then (typeGroup ty).getD 32 else 32

/-- K indices that a command's port operands have staged, at most (R178). -/
def State.stagedK (s : State) (i : TaskId) (c : Command) : Nat :=
  (smmPorts c).foldl (fun k p => min k (c.blocksStaged.get p.1 0 * s.blockLength i p.2)) (fld c.vc 15 0)

/-- Whether a port operand's buffer has room for its next block (R178): two blocks beyond what the array may have fed,
which for a command that earlier ones keep waiting is nothing. -/
def State.mayStage (s : State) (i : TaskId) (c : Command) (first : Bool) (opnd port : Nat) : Bool :=
  let g := s.blockLength i port
  let b := c.blocksStaged.get opnd 0
  decide (b * g < fld c.vc 15 0) && decide (b < (if first then s.stagedK i c / g else 0) + 2)

/-- The head beat of a port operand moves into the staging buffer (R374), or as much of it as belongs to the block that is arriving; a block that
has arrived whole joins those that the array may take (R176, R178). -/
def State.stageBeat (s : State) (i : TaskId) (c : Command) (opnd port : Nat) : State :=
  let p := tilePort i.tileId false port
  let g := s.blockLength i port
  let b := c.blocksStaged.get opnd 0
  let nb := min g (fld c.vc 15 0 - b * g)
  let old := c.arriving.get opnd []
  let beat := match (s.inQueue p).beats with | x :: _ => x.toks | [] => []
  let keep (t : State) (f : Command → Command) : State := t.updCommand i .serac c.seq (fun y => { f y with waitSince := s.clock })
  match blockWalk nb (old ++ beat) 127 nb {} with
  | none =>
    if beat.isEmpty then s
    else keep (s.consume p beat.length) (fun y => { y with arriving := y.arriving.set opnd (old ++ beat) })
  | some x =>
    let block := x.codes.reverse.map Tok.scale ++ x.elems.reverse.map Tok.elem
    keep ((s.consume p (x.taken - old.length)).updPort p (fun q => { q with scale := x.scale.getD q.scale })) (fun y =>
      { y with staged := y.staged.set opnd (y.staged.get opnd [] ++ block), blocksStaged := y.blocksStaged.set opnd (b + 1)
               arriving := y.arriving.set opnd [], poisoned := match y.poisoned with | none => x.poison | o => o })

/-- Beats of a port operand staged, at most `fuel`, until a block is whole. -/
def State.stageBlock (s : State) (i : TaskId) (seq opnd port : Nat) (blocks : Nat) : Nat → State
  | 0 => s
  | fuel + 1 =>
    match (s.task i).serac.queue.find? (fun c => c.seq == seq) with
    | none => s
    | some c =>
      if c.blocksStaged.get opnd 0 ≠ blocks then s
      else (s.stageBeat i c opnd port).stageBlock i seq opnd port blocks fuel

/-! ## Dense multiply -/

/-- Values of one operand over a piece of K: per lane its elements and the scale code that covers them; and whether an
uncorrectable error was read (R387). -/
structure Panel where
  vals : Array (List Num)
  codes : Array Nat
  damaged : Bool := false

/-- Whether a record operand's scale bytes are read at K index lo of the command (R177, R182): each is read once, at the first index that it covers. -/
def LayoutRec.rescales (y : LayoutRec) (k0 lo : Nat) : Bool := lo == 0 || y.group.any (fun g => (k0 + lo) % g == 0)

/-- A record operand over K indices [lo, hi) of the command (R174, R177), with the scale codes read before where none is read now. -/
def State.recordPanel (s : State) (t : TileId) (y : LayoutRec) (org k0 lo hi : Nat) (latched : List Nat) : Panel :=
  let lanes := List.range 128
  let cells := lanes.map (fun i => (List.range (hi - lo)).map (fun κ => y.cell (org + i) (k0 + lo + κ)))
  let fresh := y.rescales k0 lo
  let scales := if fresh then lanes.map (fun i => y.scaleOf k0 (org + i) (k0 + lo)) else []
  { vals := (cells.map (fun l => l.map (fun o => match o with
      | some a => decodeNum y.format (bytesToNat (s.readTile t a y.format.bytes))
      | none => .fin false 0 0))).toArray
    codes := (if fresh then scales.map (fun o => match o with | some a => bytesToNat (s.readTile t a 1) | none => 0x7F) else latched).toArray
    damaged := cells.any (fun l => l.any (fun o => match o with | some a => s.isDamaged (tilePa t a) y.format.bytes | none => false)) ||
      scales.any (fun o => match o with | some a => s.isDamaged (tilePa t a) 1 | none => false) }

/-- The cell of a staged token. -/
def tokCell : Tok → Nat
  | .elem c => c.toNat
  | .scale k => k.toNat
  | _ => 0

/-- A port operand over K indices [lo, hi), from its staged blocks of g (R175). -/
def portPanel (f : Format) (scaledOperand : Bool) (g klen : Nat) (staged : List Tok) (lo hi : Nat) : Panel :=
  let toks := staged.toArray
  let at' (j : Nat) : Nat := tokCell (toks.getD j .eos)
  let lanes := List.range 128
  { vals := (lanes.map (fun l => (List.range (hi - lo)).map (fun κ =>
      let b := (lo + κ) / g
      let nb := min g (klen - b * g)
      decodeNum f (elemOf f (BitVec.ofNat 32 (at' (b * 128 * (g + 1) + 128 + l * nb + (lo + κ) % g))))))).toArray
    codes := (lanes.map (fun l => if scaledOperand then at' (lo / g * 128 * (g + 1) + l) else 0x7F)).toArray }

/-- The exact sum of an accumulation group (R131). -/
def groupSum : List Num → List Num → Num → Num
  | x :: xs, y :: ys, acc => groupSum xs ys (acc.add .rne (x.mul y))
  | _, _, acc => acc

/-- What a group adds to an accumulator element (R131). -/
def groupTerm (xs ys : List Num) (ea eb : Nat) : Nat :=
  if ea = 0xFF ∨ eb = 0xFF then Format.f32.nanCode
  else
    let g32 := round (groupSum xs ys (.fin false 0 0)) .f32 .rne
    round (((decodeNum .f32 g32).scale ((ea : Int) - 127)).scale ((eb : Int) - 127)) .f32 .rne

/-- The 16,384 elements of an accumulator tile. -/
def Acc.cells (a : Acc) : List Word32 := if a.elems.isEmpty then List.replicate 16384 0 else a.elems

/-- The 1,024 elements of a part of a tile that one vector register takes (R188). -/
def Acc.part (a : Acc) (k : Nat) : List Word32 := (List.range laneCount).map (fun j => a.cells.getD (laneCount * k + j) 0)

/-- A tile after one accumulation group (R131, R184). -/
def addGroup (cells : List Word32) (a b : Panel) : List Word32 :=
  let old := cells.toArray
  (List.range 128).flatMap (fun i => (List.range 128).map (fun j =>
    BitVec.ofNat 32 (fadd .f32 .rne (old.getD (128 * i + j) 0).toNat
      (groupTerm (a.vals.getD i []) (b.vals.getD j []) (a.codes.getD i 0x7F) (b.codes.getD j 0x7F)))))

/-- An operand of an SMM over K indices [lo, hi) (R174, R175). -/
def State.panel (s : State) (i : TaskId) (c : Command) (loc lo hi : Nat) : Panel :=
  match c.record loc with
  | some y => s.recordPanel i.tileId y (fld (if loc = 2 then c.va else c.vb) 31 16) (fld c.vc 31 16) lo hi (c.latched.get loc [])
  | none =>
    let port := opndPort (if loc = 2 then c.word.a else c.word.b)
    let ty := s.portType (tilePort i.tileId false port)
    portPanel (typeFormat ty) (typeSkind ty == 1) (s.blockLength i port) (fld c.vc 15 0) (c.staged.get loc []) lo hi

/-- The accumulation group of an SMM (R130, R177). -/
def State.groupLength (s : State) (i : TaskId) (c : Command) : Nat :=
  let of (loc : Nat) (o : Opnd) : List Nat :=
    match c.record loc with
    | some y => y.group.toList
    | none => match portOf o with
      | some p => let ty := s.portType (tilePort i.tileId false p); if typeSkind ty = 1 then (typeGroup ty).toList else []
      | none => []
  ((of 2 c.word.a ++ of 3 c.word.b).min?).getD 32

/-- Poison taken into a tile: the first origin stands (R168, R176). -/
def Acc.poisonWith (a : Acc) (o : Option Word64) : Acc :=
  match o with
  | none => a
  | some w => if a.poison then a else { a with poison := true, origin := w }

/-- The origin of an uncorrectable error that Serac reads (R385, R387). -/
def eccOrigin (t : TileId) (c : Command) : Word64 := tileOrigin .eccUncorr t 2 c.addr.toNat

/-- The first of two origins. -/
def firstOf (a b : Option Word64) : Option Word64 := match a with | none => b | x => x

/-- What an SMM or SMMZ does before its first K clock: PROG := 0, and SMMZ clears the tile (R180, R184). -/
def smmBegin (c : Command) (a : Acc) : Acc :=
  match c.instr with
  | .smmz _ => { a with elems := [], poison := false, prog := 0, bad := [], badState := false }
  | _ => { a with prog := 0, badState := false }

/-- One accumulation group of an SMM (R184); none when a port block it needs is not staged. -/
def State.smmGroup (s : State) (i : TaskId) (c : Command) : Option (State × Command) :=
  let n := opndIndex c.word.d
  let klen := fld c.vc 15 0
  let hi := min klen (c.progress + s.groupLength i c)
  if s.stagedK i c < hi then none
  else
    let pa := s.panel i c 2 c.progress hi
    let pb := s.panel i c 3 c.progress hi
    let a := (s.task i).accTile n
    let origin := firstOf c.poisoned (if pa.damaged || pb.damaged then some (eccOrigin i.tileId c) else none)
    let bad := if a.bad.isEmpty then none else some (eccOrigin i.tileId c)
    let c2 := { c with progress := hi, poisoned := origin, waitSince := s.clock, latched := ⟨[(2, pa.codes.toList), (3, pb.codes.toList)]⟩ }
    some ((s.updAcc i n (fun x => ({ x with elems := addGroup x.cells pa pb, prog := BitVec.ofNat 16 hi, bad := [] }).poisonWith bad)).updCommand
      i .serac c.seq (fun _ => c2), c2)

/-- Accumulation groups of an SMM, at most `fuel`; the command as it then stands. -/
def State.smmRun (s : State) (i : TaskId) (c : Command) : Nat → State × Command
  | 0 => (s, c)
  | fuel + 1 =>
    if fld c.vc 15 0 ≤ c.progress then (s, c)
    else
      match s.smmGroup i c with
      | none => (s, c)
      | some (t, d) => t.smmRun i d fuel

/-! ## Butterfly -/

/-- Words of the butterfly view from a first tile (R194). -/
def Task.view (t : Task) (first words : Nat) : Array Word32 :=
  ((viewTiles first words).flatMap (fun n => (t.accTile n).cells)).toArray

/-- Tiles of a view in whose words [lo, hi) an element is damaged (R387). -/
def Task.viewDamaged (t : Task) (first lo hi : Nat) : List Nat :=
  (viewTiles first hi).filter (fun n => ((t.accTile n).bad).any (fun b => decide (lo ≤ (n - first) * 16384 + b) && decide ((n - first) * 16384 + b < hi)))

/-- The first origin among poisoned tiles of a view (R206). -/
def Task.viewPoison (t : Task) (first hi : Nat) : Option Word64 :=
  ((viewTiles first hi).find? (fun n => (t.accTile n).poison)).map (fun n => (t.accTile n).origin)

/-- Tiles marked poisoned by a command (R168, R206, R387). -/
def State.poisonTiles (s : State) (i : TaskId) (ts : List Nat) (origin : Option Word64) : State :=
  ts.foldl (fun x n => x.updAcc i n (fun a => a.poisonWith origin)) s

/-- Words written into the view from a first tile; every tile written takes the poison (R194, R206), and its PROG is 0
unless it is the tile whose PROG counts stages (R200). -/
def State.writeView (s : State) (i : TaskId) (first : Nat) (words : List Word32) (keep : Option Nat) (origin : Option Word64) : State :=
  (viewTiles first words.length).foldl (fun x n =>
    let piece := (words.drop ((n - first) * 16384)).take 16384
    x.updAcc i n (fun a =>
      { (a.poisonWith origin) with elems := overwrite piece a.cells, prog := if keep = some n then a.prog else 0
                                   bad := a.bad.filter (fun b => decide (piece.length ≤ b)), badState := false })) s

/-- The stage format (R192). -/
def stageFormat (mode : BitVec 2) : Format := if mode.getLsbD 1 then .bf16 else .f32

/-- One output of a pair, as FP32 bits (R192, R194). -/
def pairOut (f : Format) (wa xa wb xb : Num) : Word32 :=
  BitVec.ofNat 32 (round (decodeNum f (round ((wa.mul xa).add .rne (wb.mul xb)) f .rne)) .f32 .rne)

/-- A stage over one row of N elements with stride 2^x (R191). -/
def stageRow (f : Format) (n x : Nat) (w : Array Num) (row : Array Num) : List Word32 :=
  (List.range n).map (fun i =>
    let s := 2 ^ x
    let low := i / s % 2 = 0
    let a := if low then i else i - s
    let q := a / (2 * s) * s + a % s
    let z : Num := .fin false 0 0
    if low then pairOut f (w.getD (4 * q) z) (row.getD a z) (w.getD (4 * q + 1) z) (row.getD (a + s) z)
    else pairOut f (w.getD (4 * q + 2) z) (row.getD a z) (w.getD (4 * q + 3) z) (row.getD (a + s) z))

/-- Elements read from tile memory, a clipped one as +0, and whether one was damaged (R195). -/
def State.readCells (s : State) (t : TileId) (f : Format) (cells : List (Option Nat)) : List Num × Bool :=
  (cells.map (fun o => match o with | some a => decodeNum f (bytesToNat (s.readTile t a f.bytes)) | none => .fin false 0 0),
   cells.any (fun o => match o with | some a => s.isDamaged (tilePa t a) f.bytes | none => false))

/-- What a stage reads: its values, the poison met, and the tiles of which it read a damaged element. -/
structure StageRead where
  vals : List Num
  poison : Option Word64 := none
  damaged : List Nat := []

/-- Words [lo, hi) of the view from a tile as a stage reads them (R194, R206, R387): POISON of the tiles counts unless they are work tiles. -/
def State.viewRead (s : State) (i : TaskId) (c : Command) (first lo hi : Nat) (work : Bool) : StageRead :=
  let t := s.task i
  let bad := t.viewDamaged first lo hi
  { vals := (((t.view first hi).toList.drop lo).take (hi - lo)).map (fun x => decodeNum .f32 x.toNat)
    poison := firstOf (if work then none else t.viewPoison first hi) (if bad.isEmpty then none else some (eccOrigin i.tileId c))
    damaged := bad }

/-- Elements of a record as a stage reads them (R195, R196, R387). -/
def State.recordRead (s : State) (i : TaskId) (c : Command) (f : Format) (cells : List (Option Nat)) : StageRead :=
  let x := s.readCells i.tileId f cells
  { vals := x.1, poison := if x.2 then some (eccOrigin i.tileId c) else none }

/-- The input of a stage: values row by row, and the poison met (R200, R206). -/
def State.stageInput (s : State) (i : TaskId) (c : Command) (j : Nat) : StageRead :=
  let size := cfgRows c.vc * cfgN c.vc
  if j = 0 then
    match c.record 2 with
    | some r => s.recordRead i c r.format (r.batchCells (fld c.va 31 16) (cfgRows c.vc) (cfgN c.vc))
    | none => s.viewRead i c (opndIndex c.word.a) 0 size false
  else s.viewRead i c (cfgWork c.vc) 0 size true

/-- The weights of a stage, and the poison met (R196, R197, R206). -/
def State.stageWeights (s : State) (i : TaskId) (c : Command) (j : Nat) : StageRead :=
  let n := cfgN c.vc
  let k := cfgWstage c.vc + j
  match c.record 3 with
  | some r => s.recordRead i c r.format ((r.stageCells k n).map some)
  | none => s.viewRead i c (opndIndex c.word.b) (2 * n * k) (2 * n * (k + 1)) false

/-- Elements written to tile memory at their addresses; a clipped one is not (R187, R195). -/
def State.writeCells (s : State) (t : TileId) (f : Format) (cells : List (Option Nat)) (codes : List Nat) : State :=
  (cells.zip codes).foldl (fun x p => match p.1 with | some a => x.writeTile t a (natToBytes f.bytes p.2) | none => x) s

/-- One stage of SBFLY or SCHAIN (R191, R200, R206): poison marks every tile that the command writes, the work tiles too, and a tile of which a
damaged element is read (R387). A record destination that poison reaches is not written and its load stops. -/
def State.runStage (s : State) (i : TaskId) (c : Command) : State × Command :=
  let j := c.progress
  let n := cfgN c.vc
  let stages := cfgStages c.vc
  let t := s.task i
  let input := s.stageInput i c j
  let weights := s.stageWeights i c j
  let origin := firstOf c.poisoned (firstOf input.poison weights.poison)
  let f := stageFormat t.mode
  let out := (pieces n (cfgRows c.vc) input.vals).flatMap (fun row => stageRow f n (strideOf t c j) weights.vals.toArray row.toArray)
  let counted := if isSchain c && stages ≠ 1 then some (cfgWork c.vc) else none
  let c2 := { c with progress := j + 1, poisoned := origin, waitSince := s.clock }
  let marked := (s.poisonTiles i (input.damaged ++ weights.damaged) (some (eccOrigin i.tileId c))).poisonTiles i (workRange c.vc) origin
  let s1 := marked.updCommand i .serac c.seq (fun _ => c2)
  let s2 :=
    if j + 1 < stages then s1.writeView i (cfgWork c.vc) out counted origin
    else
      match c.record 1 with
      | none => s1.writeView i (opndIndex c.word.d) out counted origin
      | some r =>
        if origin.isSome then s1
        else s1.writeCells i.tileId r.format (r.batchCells (fld c.vd 31 16) (cfgRows c.vc) n)
          (out.map (fun x => round (decodeNum .f32 x.toNat) r.format (Rnd.ofMod c.word.mod.toNat)))
  (match counted with | some w => s2.updAcc i w (fun a => { a with prog := BitVec.ofNat 16 (j + 1) }) | none => s2, c2)

/-- Stages of a command, at most `fuel`. -/
def State.stageRun (s : State) (i : TaskId) (c : Command) : Nat → State × Command
  | 0 => (s, c)
  | fuel + 1 => if cfgStages c.vc ≤ c.progress then (s, c) else ((s.runStage i c).1).stageRun i (s.runStage i c).2 fuel

/-! ## Moves -/

/-- The scaled value that SACCRD rounds (R187). -/
def unscaled (oscale : BitVec 8) (x : Word32) : Num :=
  if oscale = 0xFF then .nan else (decodeNum .f32 x.toNat).scale (127 - (oscale.toNat : Int))

/-- The tile that a command finds which reads its elements [lo, hi): poisoned by a damaged one among them (R387). -/
def Acc.readBy (a : Acc) (t : TileId) (c : Command) (lo hi : Nat) : Acc :=
  if a.bad.any (fun b => decide (lo ≤ b) && decide (b < hi)) then a.poisonWith (some (eccOrigin t c)) else a

/-- SACCRD or SACCV, which reads elements [lo, hi): a poisoned tile writes nothing and stops the load (R187, R188). -/
def State.readAcc (s : State) (i : TaskId) (c : Command) (n lo hi : Nat) (f : State → Acc → State) : State :=
  let s1 := s.updAcc i n (fun a => a.readBy i.tileId c lo hi)
  let a := (s1.task i).accTile n
  if a.poison then s1.poisonStop (i.strand .dusk) .serac c.addr a.origin else f s1 a

/-- The effect of a command that acts at once when it completes (R185 to R189, R201, R202). -/
def State.seracEffect (s : State) (i : TaskId) (c : Command) : State :=
  match c.instr with
  | .saccz w => s.updAcc i (opndIndex w.d) (fun a => { a with elems := [], prog := 0, poison := false, bad := [], badState := false })
  | .sscl _ => s.updTask i (fun t => { t with oscale := c.va.extractLsb' 0 8 })
  | .smode _ => s.updTask i (fun t => { t with mode := c.va.extractLsb' 0 2 })
  | .saccwr w =>
    match c.record 2 with
    | some r =>
      let x := s.readCells i.tileId r.format (r.tileCells (fld c.va 31 16) (fld c.vb 15 0))
      s.updAcc i (opndIndex w.d) (fun a =>
        ({ a with elems := x.1.map (fun v => BitVec.ofNat 32 (round v .f32 .rne)), prog := 0, poison := false, bad := [], badState := false }).poisonWith
          (if x.2 then some (eccOrigin i.tileId c) else none))
    | none => s
  | .saccrd w =>
    match c.record 3 with
    | some r => s.readAcc i c (opndIndex w.a) 0 16384 (fun s1 a =>
        s1.writeCells i.tileId r.format (r.tileCells (fld c.vb 31 16) (fld c.vc 15 0))
          (a.cells.map (fun x => round (unscaled (s1.task i).oscale x) r.format (Rnd.ofMod w.mod.toNat))))
    | none => s
  | .saccv w => s.readAcc i c (opndIndex w.a) (1024 * c.vb.toNat) (1024 * (c.vb.toNat + c.vc.toNat)) (fun s1 a =>
      (List.range c.vc.toNat).foldl (fun x k =>
        x.updTask i (fun t => { t with v := t.v.set (opndIndex w.d + k) (a.part (c.vb.toNat + k))
                                       badV := t.badV.filter (fun b => b / 1024 ≠ opndIndex w.d + k) })) s1)
  | .svacc w =>
    let cells := (c.staged.get 0 []).map (fun t => BitVec.ofNat 32 (tokCell t))
    let q := c.vb.toNat
    s.updAcc i (opndIndex w.d) (fun a =>
      { a with elems := a.cells.take (1024 * q) ++ overwrite cells (a.cells.drop (1024 * q)), prog := 0, badState := false
               poison := if q = 0 ∧ c.vc = 16 then false else a.poison
               bad := a.bad.filter (fun b => decide (b < 1024 * q) || decide (1024 * q + cells.length ≤ b)) })
  | .sstr w => s.updTask i (fun t => { t with strides := (List.range c.vb.toNat).foldl (fun m k =>
      m.set (opndIndex w.d + k) (c.va.extractLsb' (4 * k) 4)) t.strides })
  | .sbwl w =>
    match c.record 2 with
    | some r =>
      let n := 2 ^ r.logn
      let first := opndIndex w.d
      let x := s.readCells i.tileId r.format ((List.range (fld c.vb 15 0)).flatMap (fun k => (r.stageCells (fld c.vb 31 16 + k) n).map some))
      let words := x.1.map (fun v => BitVec.ofNat 32 (round v .f32 .rne))
      let s1 := (viewTiles first words.length).foldl (fun y m =>
        if 16384 * (m - first + 1) ≤ words.length then y.updAcc i m (fun a => { a with poison := false }) else y) s
      s1.writeView i first words none (if x.2 then some (eccOrigin i.tileId c) else none)
    | none => s
  | _ => s

/-! ## Progress and completion -/

/-- The tokens of a command's PUSH: applied, or kept pending with an asynchronous record (R17). -/
def State.pushFor (s : State) (i : TaskId) (e : Engine) (c : Command) : State :=
  let p := tokenField c.word.push
  let k := tokenIndex e p.1
  let v := s.startToken i k
  if p.2 = 0 then s
  else if s.overflow i [(k, p.2)] = none then s.pushTokens i [(k, p.2)]
  else
    (s.updTask i (fun t => t.setEngineState e { (t.engineState e) with pending := (t.engineState e).pending ++ [{ counter := k, count := p.2, addr := c.addr }] })).raiseAsync
      (i.strand (issuerOf e)) .tokenOver 7 (BitVec.ofNat 64 k) (BitVec.ofNat 32 (v * 65536 + p.2)) c.addr
      (match e with | .serac => .seracPush | _ => .morainePush)

/-- The event increment of a command's completion field; a null command has none (R183, R305). -/
def State.countFor (s : State) (i : TaskId) (c : Command) : State :=
  if c.null ∨ c.word.e.getLsbD 6 = false then s else s.addEvent i.tileId ((s.task i).evBase + fld c.word.e 5 0) 1

/-- A command completes: it leaves its slot, its event increment, PUSH and retired mark apply (R8, R16, R19, R24). -/
def State.finishCommand (s : State) (i : TaskId) (e : Engine) (c : Command) : State :=
  let s1 := s.updTask i (fun t =>
    let x := t.engineState e
    t.setEngineState e (EngineState.settle { x with queue := x.queue.filter (fun d => d.seq ≠ c.seq) }))
  (s1.countFor i c).pushFor i e c

/-- Progress of the oldest command of a task on Serac, by at most `n` groups or stages, all of them when n is 0; it
completes when nothing is left (R178, R184, R200, R204). -/
def State.progressSerac (s : State) (i : TaskId) (c : Command) (n : Nat) : State :=
  let fuel := if n = 0 then 65536 else n
  if c.null then s.finishCommand i .serac c
  else if isSmm c then
    let d := opndIndex c.word.d
    let s0 := if c.progress = 0 then s.updAcc i d (smmBegin c) else s
    let r := s0.smmRun i c fuel
    if r.2.progress < fld c.vc 15 0 then r.1
    else ((r.1.updAcc i d (fun a => a.poisonWith r.2.poisoned)).finishCommand i .serac r.2).refreshBusy i d
  else
    match c.instr with
    | .sbfly _ => finishStages s i (s.stageRun i c fuel)
    | .schain _ => finishStages s i (s.stageRun i c fuel)
    | _ => (s.seracEffect i c).finishCommand i .serac c
where
  /-- The end of a butterfly command: complete, unfinished, or its load stopped by poison at a record destination. -/
  finishStages (_ : State) (i : TaskId) (r : State × Command) : State :=
    if r.2.progress < cfgStages r.2.vc then r.1
    else
      match r.2.poisoned, r.2.record 1 with
      | some o, some _ => r.1.poisonStop (i.strand .dusk) .serac r.2.addr o
      | _, _ =>
        let s1 := r.1.finishCommand i .serac r.2
        match busyTile r.2 with
        | some n => s1.refreshBusy i n
        | none => s1

end Sys2Proof.Machine
end

