-- ==== Sys2Proof/Machine/MoraineUnits.lean ====
section
/-! DEFINITION. The units of Moraine commands (R313 to R318): how many there are, the bytes each reads and writes, and what
remains of a command after its progress, which a restore translates again (R248). -/

namespace Sys2Proof.Machine

/-- A run of consecutive bytes that a unit reads or writes, swizzled by the row number `rho` on a dense tile-local side
(R306). -/
structure Run where
  inTile : Bool
  lo : Int
  len : Nat
  swz : Nat := 0
  rho : Nat := 0
deriving DecidableEq, Repr

/-- A unit: the run it reads, the bytes it appends, and the run it writes; and what it adds to the status slot. -/
structure MUnit where
  read : Option Run := none
  tail : List Byte := []
  write : Option Run := none
  items : Nat := 0
  oor : Nat := 0
  neg : Nat := 0
  trunc : Nat := 0
deriving DecidableEq, Repr

/-! ## Counting units -/

/-- Units of a command; the streams, which run by beats, have none of these (R313). -/
def unitCount (c : Command) : Nat :=
  if c.null then 0
  else
    match c.instr with
    | .mcpy _ => chunkCount c.vd.toNat c.vb.toNat
    | .mfill _ => chunkCount c.vd.toNat c.vb.toNat
    | .mcpy2 _ => nestCount c.desc 1 * nestCount c.desc 2 * nestCount c.desc 3
    | .mnest _ => nestCount c.desc 1 * nestCount c.desc 2 * nestCount c.desc 3
    | .mgth _ => fld (dw c.desc 0) 47 32
    | .msct _ => fld (dw c.desc 0) 47 32
    | .mspg _ => fld (dw c.desc 0) 47 32
    | _ => 0

/-- Repeated bytes of a pattern (R314, R316). -/
def patternBytes (n : Nat) (pattern : List Byte) : List Byte :=
  (List.range n).map (fun k => pattern.getD (k % pattern.length) 0)

/-- Element bytes repeated n times (R317). -/
def repeatBytes (n : Nat) (bs : List Byte) : List Byte := (List.replicate n bs).flatten

/-- SWZ of a command (R305). -/
def swizzleOf (c : Command) : Nat := fld c.word.e 13 12

/-! ## The units -/

/-- Unit k of MCPY and MFILL (R314). -/
def copyUnit (c : Command) (fill : Bool) (k : Nat) : MUnit :=
  let w := c.word
  let d := c.vd.toNat
  let n := c.vb.toNat
  let lo := chunkStart d n k
  let hi := chunkStart d n (k + 1)
  let wr : Run := { inTile := w.mod.getLsbD 1, lo := ((d + lo : Nat) : Int), len := hi - lo }
  if fill then
    { tail := ((List.range (hi - lo)).map (fun j => c.vc.extractLsb' (8 * ((lo + j) % 8)) 8)), write := some wr, items := hi - lo }
  else
    { read := some { inTile := w.mod.getLsbD 0, lo := ((c.va.toNat + lo : Nat) : Int), len := hi - lo }, write := some wr, items := hi - lo }

/-- Unit k of MNEST and MCPY2: run i1 of level 1, innermost (R315). -/
def nestUnit (c : Command) (k : Nat) : MUnit :=
  let w := c.word
  let c1 := nestCount c.desc 1
  let c2 := nestCount c.desc 2
  let i1 := k % c1
  let i2 := k / c1 % c2
  let i3 := k / (c1 * c2)
  let off (a b d : Nat) : Int := i1 * signed64 (dw c.desc a) + i2 * signed64 (dw c.desc b) + i3 * signed64 (dw c.desc d)
  let side (inTile : Bool) (base : Word64) (o : Int) : Run :=
    { inTile := inTile, lo := (base.toNat : Int) + o, len := fld (dw c.desc 0) 24 0, swz := if inTile then swizzleOf c else 0, rho := i1 }
  { read := some (side (w.mod.getLsbD 0) c.va (off 1 3 5)), write := some (side (w.mod.getLsbD 1) c.vd (off 2 4 6)), items := 1 }

/-- Unit j of MGTH and MSCT, for the index t that its entry holds (R316). -/
def gatherUnit (c : Command) (scatter : Bool) (j t : Nat) : MUnit :=
  let w := c.word
  let rowb := fld (dw c.desc 0) 31 0
  let src := w.mod.getLsbD 0
  let dst := w.mod.getLsbD 1
  let denseTile := if scatter then src else dst
  let dense : Run :=
    { inTile := denseTile, lo := ((if scatter then c.va else c.vd).toNat : Int) + j * signed64 (dw c.desc 3), len := rowb
      swz := if denseTile then swizzleOf c else 0, rho := j }
  let table : Run :=
    { inTile := if scatter then dst else src, lo := ((if scatter then c.vd else c.va).toNat : Int) + t * signed64 (dw c.desc 2), len := rowb }
  if fld (dw c.desc 1) 31 0 ≤ t then
    if scatter then { oor := 1 } else { tail := patternBytes rowb (natToBytes 8 (dw c.desc 4).toNat), write := some dense, oor := 1 }
  else if scatter then { read := some dense, write := some table, items := 1 }
  else { read := some table, write := some dense, items := 1 }

/-- Unit r of MSPG, for its two row pointers (R317). -/
def sparseUnit (c : Command) (r st en : Nat) : MUnit :=
  let w := c.word
  let esz := sparseSize (dw c.desc 0)
  let maxlen := fld (dw c.desc 0) 31 0
  let vlen := fld (dw c.desc 1) 31 0
  let len := min (en - st) maxlen
  let take := min len (vlen - st)
  { read := if take = 0 then none else some { inTile := w.mod.getLsbD 0, lo := ((c.va.toNat + st * esz : Nat) : Int), len := take * esz }
    tail := repeatBytes (maxlen - take) (natToBytes esz (dw c.desc 4).toNat)
    write := some { inTile := w.mod.getLsbD 1, lo := (c.vd.toNat : Int) + r * signed64 (dw c.desc 3), len := maxlen * esz
                    swz := if w.mod.getLsbD 1 then swizzleOf c else 0, rho := r }
    items := take
    oor := if take < len then 1 else 0
    neg := if en < st then 1 else 0
    trunc := if maxlen < en - st then 1 else 0 }

/-- The entries of the index list or row-pointer array that unit k reads (R309, R316, R317). -/
def indexRuns (c : Command) (k : Nat) : List Run :=
  let iw := indexWidth (dw c.desc 0)
  let entry (j : Nat) : Run := { inTile := c.word.mod.getLsbD 2, lo := ((c.vb.toNat + j * iw : Nat) : Int), len := iw }
  match c.instr with
  | .mgth _ => [entry k]
  | .msct _ => [entry k]
  | .mspg _ => [entry k, entry (k + 1)]
  | _ => []

/-- Unit k of a command, given the entries it read. -/
def unitOf (c : Command) (k : Nat) (entries : List Nat) : MUnit :=
  match c.instr with
  | .mcpy _ => copyUnit c false k
  | .mfill _ => copyUnit c true k
  | .mcpy2 _ => nestUnit c k
  | .mnest _ => nestUnit c k
  | .mgth _ => gatherUnit c false k (entries.getD 0 0)
  | .msct _ => gatherUnit c true k (entries.getD 0 0)
  | .mspg _ => sparseUnit c k (entries.getD 0 0) (entries.getD 1 0)
  | _ => {}

/-! ## Units that have begun -/

/-- The accesses of a run: its bytes in each granule (R303). A swizzle moves granules whole (R143). -/
def Run.accesses (r : Run) : List (Run × Nat × Nat) := (piecesOf 64 r.lo.toNat r.len).map (fun p => (r, p))

/-- The cells that accesses numbered from `first` on have returned, in order; none while one is missing. -/
def Flight.cells (f : Flight) (first n : Nat) : Option (List Cell) :=
  (List.range n).foldr (fun k acc => match f.seen.find? (fun x => x.1 == first + k), acc with | some x, some l => some (x.2 ++ l) | _, _ => none) (some [])

/-- Unsigned little-endian entries, each of the width of the descriptor (R316). -/
def entriesOf (width : Nat) (cells : List Cell) : List Nat :=
  (List.range (cells.length / width)).map (fun k => bytesToNat (((cells.drop (k * width)).take width).map Prod.fst))

/-- The accesses by which a unit reads its index entries: the first of its accesses. -/
def Flight.index (f : Flight) (c : Command) : List (Run × Nat × Nat) := (indexRuns c f.unit).flatMap Run.accesses

/-- What a unit does, once its index entries have been read. -/
def Flight.work (f : Flight) (c : Command) : Option MUnit :=
  (f.cells 0 (f.index c).length).map (fun cs => unitOf c f.unit (entriesOf (indexWidth (dw c.desc 0)) cs))

/-- The accesses of a unit that read and write, which follow those of its index entries. -/
def MUnit.readAccesses (u : MUnit) : List (Run × Nat × Nat) := match u.read with | some r => r.accesses | none => []
def MUnit.writeAccesses (u : MUnit) : List (Run × Nat × Nat) := match u.write with | some r => r.accesses | none => []

/-- Accesses of a unit that have not been performed, its index entries aside: reads and writes. -/
def Flight.left (f : Flight) (c : Command) : Option (Nat × Nat) :=
  (f.work c).map (fun u =>
    let n := (f.index c).length
    (u.readAccesses.length - (f.seen.filter (fun x => decide (n ≤ x.1))).length, u.writeAccesses.length - f.put.length))

/-- Whether a unit has begun to move data. -/
def Flight.begun (f : Flight) (c : Command) : Bool := f.seen.any (fun x => decide ((f.index c).length ≤ x.1)) || !f.put.isEmpty

/-- Whether the reads of a unit that has begun have all returned (R313). -/
def Flight.hasRead (c : Command) (f : Flight) : Bool := !f.begun c || (f.left c).any (fun x => x.1 == 0)

/-! ## What remains of a command -/

/-- A doubleword with one field replaced. -/
def putField (v : Word64) (hi lo x : Nat) : Word64 := BitVec.ofNat 64 (v.toNat - fld v hi lo * 2 ^ lo + x % 2 ^ (hi + 1 - lo) * 2 ^ lo)

/-- The command without the units it has done, for the extents that a restore translates (R248); a stream counts them itself, and a nest
leaves up to three boxes of runs. -/
def restOf (c : Command) : Command :=
  let p := c.progress
  let adv (v : Word64) (d : Int) : Word64 := BitVec.ofInt 64 ((v.toNat : Int) + d)
  let iw := indexWidth (dw c.desc 0)
  let fewer : List Word64 := putField (dw c.desc 0) 47 32 (fld (dw c.desc 0) 47 32 - p) :: c.desc.drop 1
  match c.instr with
  | .mcpy _ =>
    let n := chunkStart c.vd.toNat c.vb.toNat p
    { c with va := adv c.va n, vd := adv c.vd n, vb := adv c.vb (-n) }
  | .mfill _ =>
    let n := chunkStart c.vd.toNat c.vb.toNat p
    { c with vd := adv c.vd n, vb := adv c.vb (-n) }
  | .mgth _ => { c with vd := adv c.vd (p * signed64 (dw c.desc 3)), vb := adv c.vb (p * iw), desc := fewer }
  | .msct _ => { c with va := adv c.va (p * signed64 (dw c.desc 3)), vb := adv c.vb (p * iw), desc := fewer }
  | .mspg _ => { c with vd := adv c.vd (p * signed64 (dw c.desc 3)), vb := adv c.vb (p * iw), desc := fewer }
  | _ => c

/-- Boxes of runs that remain of a nest after p runs: the start and the counts at levels 1, 2 and 3 (R313, R315). -/
def nestBoxes (c1 c2 c3 p : Nat) : List ((Nat × Nat × Nat) × (Nat × Nat × Nat)) :=
  let i1 := p % c1
  let i2 := p / c1 % c2
  let i3 := p / (c1 * c2)
  let row := if i1 = 0 then i2 else i2 + 1
  (if i1 = 0 ∨ c3 ≤ i3 then [] else [((i1, i2, i3), (c1 - i1, 1, 1))]) ++
  (if row = 0 ∨ c2 ≤ row ∨ c3 ≤ i3 then [] else [((0, row, i3), (c1, c2 - row, 1))]) ++
  (let first := if row = 0 then i3 else i3 + 1
   if c3 ≤ first then [] else [((0, 0, first), (c1, c2, c3 - first))])

/-- The extents of the part of a command that is not yet transferred (R248). -/
def State.restExtents (s : State) (tile : TileId) (c : Command) : List Extent :=
  let nest : List Extent :=
    let k (l : Nat) : Nat := nestCount c.desc l
    let off (v : Word64) (b : Nat) (i : Nat × Nat × Nat) : Word64 :=
      BitVec.ofInt 64 ((v.toNat : Int) + i.1 * signed64 (dw c.desc b) + i.2.1 * signed64 (dw c.desc (b + 2)) + i.2.2 * signed64 (dw c.desc (b + 4)))
    (nestBoxes (k 1) (k 2) (k 3) c.progress).flatMap (fun b => nestExtents c (off c.va 1 b.1) (off c.vd 2 b.1) b.2.1 b.2.2.1 b.2.2.2)
  match c.instr with
  | .mcpy2 _ => nest
  | .mnest _ => nest
  | .mm2c _ => s.streamExtents tile c true c.items c.scales
  | .mc2m _ => s.streamExtents tile c false c.items c.scales
  | _ => s.extentsOf tile (restOf c)

/-- The rest of a command translated again (R248): its parts, or the asynchronous record on the issuing strand. It waits while a rehash
is in progress (R263). -/
def State.retranslate (s : State) (i : TaskId) (seq : Nat) : State :=
  match ((s.task i).moraine.queue).find? (fun c => c.seq == seq) with
  | none => s
  | some c =>
    if c.null then s
    else if (s.die i.die).phase ≠ 0 then s.updCommand i .moraine seq (fun x => { x with parts := [], awaits := true })
    else
      let l := s.load (s.task i).load
      match s.translateExtents (fun va => s.findLeaf i.tileId l.domain va) l.domain l.priv (s.restExtents i.tileId c) with
      | .ok ps => s.updCommand i .moraine seq (fun x => { x with parts := ps, refused := false, awaits := false })
      | .error (.inl (f, a)) =>
        (s.updCommand i .moraine seq (fun x => { x with parts := [], refused := true, awaits := false })).raiseAsync (i.strand .dawn) f.code 0
          (BitVec.ofInt 64 a) f.detail c.addr (.moraineXlate seq)
      | .error (.inr _) => s

end Sys2Proof.Machine
end

