-- ==== Sys2Proof/Machine/FaultQueue.lean ====
section
/-! DEFINITION. The die fault queue (R377 to R384): writing an entry, answering one, what a resume does, and freezing a
host function. -/

namespace Sys2Proof.Machine

/-! ## MSI-X -/

/-- An MSI-X message to the physical function of a package's owner (R229, R263, R378). -/
def State.signalOwner (s : State) (die vector : Nat) : State :=
  let p := s.pkg (die / 8)
  if p.valid then { s with msix := s.msix ++ [⟨die / 8, p.port, 0, vector⟩] } else s

/-! ## Writing an entry -/

/-- Doubleword 4 of an entry (R379). -/
def entryDw4 (die : Nat) (e : FqEntry) : Word64 :=
  BitVec.ofNat 64 (die / 8 % 32 * 2 ^ 59 + die % 8 * 2 ^ 56 + e.tile % 32 * 2 ^ 51 + e.kind % 8 * 2 ^ 48 + e.queue % 4096 * 2 ^ 36 + e.load % 256 * 2 ^ 28)

/-- The sixteen doublewords of an entry (R379). -/
def entryDwords (die : Nat) (seq : Word32) (e : FqEntry) : List Word64 :=
  [e.record.dw0, e.record.dw1, e.record.dw2, e.record.dw3, entryDw4 die e,
   BitVec.ofNat 64 (seq.toNat * 2 ^ 32 + e.extra.toNat), 0, 0] ++ (List.range 8).map (fun k => e.body.getD k 0)

/-- Doublewords written on a package's host bus from an address on. -/
def hostWrite (m : Map (Nat × Nat) Word64) (pkg addr : Nat) : List Word64 → Map (Nat × Nat) Word64
  | [] => m
  | d :: ds => hostWrite (m.set (pkg, addr) d) pkg (addr + 8) ds

/-- Whether a die may write an entry (R378). -/
def Die.ringReady (d : Die) : Bool := d.fqEnable && decide ((d.fqHead - d.fqTail).toNat < 2 ^ d.fqLogsize.toNat)

/-- The oldest waiting entry of a die is written, HEAD rises and the message is sent (R378). The EXTRA of a load stop is
its present count (R379). -/
def State.writeEntry (s : State) (die : Nat) : State :=
  let d := s.die die
  match d.fqPending with
  | [] => s
  | e :: rest =>
    let extra := match e.of, e.kind with | .load l, 1 => (s.load l).extra | _, _ => e.extra
    let w := { e with seq := d.fqHead, extra := extra }
    let base := d.fqbase.toNat / 128 * 128
    let at' := base + 128 * (d.fqHead.toNat % 2 ^ d.fqLogsize.toNat)
    let s1 := s.updDie die (fun x =>
      { x with fqPending := rest, fqHead := x.fqHead + 1, fqOpen := if w.answered then x.fqOpen else x.fqOpen ++ [w] })
    ({ s1 with hostMem := hostWrite s1.hostMem (die / 8) at' (entryDwords die d.fqHead w) } : State).signalOwner die d.fqVector.toNat

/-! ## What a resume does -/

/-- A pending push of an engine retried (R17): applied, or raised again. -/
def State.retryPush (s : State) (i : TaskId) (e : Engine) : State :=
  let x := (s.task i).engineState e
  match x.pending with
  | [] => s
  | p :: ps =>
    match s.overflow i [(p.counter, p.count)] with
    | none => (s.pushTokens i [(p.counter, p.count)]).updTask i (fun t => t.setEngineState e { (t.engineState e) with pending := ps })
    | some _ =>
      s.raiseAsync (i.strand (issuerOf e)) .tokenOver 7 (BitVec.ofNat 64 p.counter)
        (BitVec.ofNat 32 (s.startToken i p.counter * 65536 + p.count)) p.addr (match e with | .serac => .seracPush | _ => .morainePush)

/-- What an engine does before its strand is resumed (R381). -/
def State.retryFor (s : State) (who : StrandId) (r : Retry) : State :=
  match r with
  | .none => s
  | .seracPush => s.retryPush who.task .serac
  | .morainePush => s.retryPush who.task .moraine
  | .seracStart => s.updTask who.task (fun t => { t with serac := { t.serac with queue := t.serac.queue.map (fun c => { c with refused := false }) } })
  | .moraineXlate seq => s.retranslate who.task seq
  | .pldSend num => ({ s with net := s.net.map (fun a => if a.num = num then { a with refused := false } else a) } : State).resendPlds who.die

/-- Where a resumed strand goes. -/
inductive ResumeTo where
  /-- Its resume point (R34): for TRAP and BKPT as if the word had retired without a transfer (R394). -/
  | point
  /-- An address, as a transfer (R381). -/
  | at' (a : Word64)
deriving DecidableEq, Repr

/-- The next waiting record of a strand that has just been resumed is raised (R34): its CYCLE is the present one (R32, R378). -/
def State.raiseWaiting (s : State) (who : StrandId) : State :=
  let st := s.strand who
  match st.waiting with
  | [] => s
  | f :: fs =>
    let resume := match st.park with | some p => p.cont | none => st.pc
    let r := s.restamp who.tileId f.record
    let s1 := s.setStrand who { st with status := .faulted, waiting := fs, park := none, fault := some { f with record := r, resume := resume, park := st.park } }
    s1.raiseEntry who.die (s1.strandEntry who r)

/-- A faulted strand is resumed (R34, R381). -/
def State.resumeStrand (s : State) (who : StrandId) (f : StrandFault) (go : ResumeTo) : State :=
  let s1 := s.retryFor who f.retry
  let s2 := s1.updStrand who (fun st => { st with fault := none, faultCode := BitVec.ofNat 8 f.code.num })
  let s3 :=
    match go, f.park with
    | .at' a, _ => (s2.updStrand who (fun st => { st with status := .ready, park := none })).goTo who a true
    | .point, some p => s2.updStrand who (fun st => { st with status := .parked, park := some p })
    | .point, none =>
      let t := s2.updStrand who (fun st => { st with status := .ready })
      if f.code = FaultCode.trap ∨ f.code = FaultCode.bkpt then t.fallThrough who [(s.strand who).pc] (s.strand who).pc else t
  s3.raiseWaiting who

/-- The record of an Ended strand is answered by a resume: its engine acts (R34). -/
def State.resumeEnded (s : State) (who : StrandId) (r : Record) : State :=
  let st := s.strand who
  let all := st.fault.toList ++ st.waiting
  match all.find? (fun f => f.record == r) with
  | none => s
  | some f =>
    let left := all.erase f
    (s.setStrand who { st with fault := left.head?, waiting := left.drop 1 }).retryFor who f.retry

/-! ## Answering -/

/-- The checks of SETSTK on a pair of stack registers (R393). -/
def stackOk (t : Task) (base limit : Nat) : Bool :=
  base % 8 == 0 && limit % 8 == 0 && decide (t.tmBase ≤ limit) && decide (limit ≤ base) && decide (base ≤ t.tmBase + t.tmSize)

/-- The load that an entry concerns. -/
def State.entryLoad (s : State) (e : FqEntry) : Option LoadId :=
  match e.of with
  | .strand w => some (e.saved.getD (s.task w.task).load)
  | .load l => some l
  | .deadlock l _ => some l
  | _ => none

/-- The record of a load stop that no record caused (R386): its CODE, and values that the manual does not give (log entry 4). -/
def codeRecord (code : Nat) : Record :=
  { dw0 := BitVec.ofNat 64 (code * 2 ^ 56 + (Config.stopRecord code 0).toNat % 2 ^ 56)
    dw1 := Config.stopRecord code 1, dw2 := Config.stopRecord code 2, dw3 := Config.stopRecord code 3 }

/-- The record of a deadlock report (R379). -/
def deadlockRecord : Record := { dw0 := BitVec.ofNat 64 (FaultCode.deadlock.num * 2 ^ 56) }

/-- Whether a load that is to stop with others of its graph does (R226): one that is not final, unless it is Queued behind one that stops. -/
def stoppable (l : LoadId) (x : Load) : Bool := !x.status.final && (l.load == 0 || x.status ≠ .queued)

/-- Loads that are not final on the graph queues that QOWN assigns to a function, on every die of its module (R381). -/
def State.loadsOf (s : State) (f : HostFn) : List LoadId :=
  s.loads.keysWhere (fun l x => l.die / 8 == f.pkg && stoppable l x && s.queueOwner l.die l.queue == (f.port, f.func))

/-- A deadlock detector heard again (R389). -/
def State.rearm (s : State) (l : LoadId) (die : Nat) : State :=
  s.updLoad l (fun x => { x with detectors := x.detectors.filter (fun d => d.die ≠ die) })

/-- An action applied to an entry (R381): the state, or the LAST code that refuses it. -/
def State.act (s : State) (die : Nat) (e : FqEntry) (action : Nat) (value : Word64) : Except Nat State :=
  match e.of, action with
  | .strand w, 1 =>
    match (s.strand w).status with
    | .ended => .ok (s.resumeEnded w e.record)
    | _ => match (s.strand w).fault with | some f => .ok (s.resumeStrand w f .point) | none => .ok s
  | .strand w, 2 =>
    if stackOk (s.task w.task) (s.strand w).stkbase.toNat value.toNat then
      let s1 := s.updStrand w (fun st => { st with stklim := value })
      match (s1.strand w).status with
      | .ended => .ok (s1.resumeEnded w e.record)
      | _ => match (s1.strand w).fault with | some f => .ok (s1.resumeStrand w f .point) | none => .ok s1
    else .error 3
  | .strand w, 3 =>
    if (s.strand w).status = .ended then .error 2
    else if (s.wordSection w value).isNone then .error 3
    else match (s.strand w).fault with | some f => .ok (s.resumeStrand w f (.at' value)) | none => .ok s
  | .strand w, 4 => .ok (s.killTasks (fun i _ => i == w.task))
  | .strand w, 5 => .ok (s.stopLoad (s.task w.task).load die e.tile e.record)
  | .host f, 5 =>
    let s1 := s.updDie die (fun d => { d with frozenHard := (f.port, f.func) :: d.frozenHard })
    .ok ((s.loadsOf f).foldl (fun x l => x.stopLoad l die 0 (codeRecord 9)) s1)
  | .host f, 6 => .ok (s.updDie die (fun d => { d with frozen := d.frozen.filter (· ≠ (f.port, f.func)) }))
  | .deadlock _ ts, 4 => .ok (s.killTasks (fun i _ => ts.contains i))
  | .deadlock l _, 5 => .ok (s.stopLoad l die 0 e.record)
  | .deadlock _ _, 6 => .ok s
  | _, _ => .error 2

/-- Whether an entry's task is Saved (R381). -/
def State.entrySaved (s : State) (e : FqEntry) : Bool :=
  match e.of with
  | .strand w => e.saved.isSome || (s.task w.task).status == .saved
  | _ => false

/-- Whether a kind admits an action (R381). -/
def kindAdmits (kind action : Nat) : Bool :=
  match kind with
  | 0 => 1 ≤ action && action ≤ 5
  | 2 => action == 5 || action == 6
  | 3 => action == 4 || action == 5 || action == 6
  | _ => false

/-- The result of a response in FQSTAT (R377). -/
def State.answered (s : State) (die last : Nat) : State :=
  s.updDie die (fun d => { d with fqLast := BitVec.ofNat 2 last, fqAccepted := if last = 0 then d.fqAccepted + 1 else d.fqAccepted })

/-- What the answer to a deadlock report re-arms (R389). -/
def State.rearmFor (s : State) (die : Nat) (e : FqEntry) : State :=
  match e.of with
  | .deadlock l _ => s.rearm l die
  | _ => s

/-- The task and strand that an entry's save keeps (R381). -/
def State.savedStrand (s : State) (e : FqEntry) (w : StrandId) : Task × Strand :=
  let l := e.saved.getD (s.task w.task).load
  match s.saved.find? ⟨l.die, l.queue⟩ with
  | some g =>
    ((match g.tasks.find? (fun t => t.1 == w.task) with | some t => t.2 | none => s.task w.task),
     (match g.strands.find? (fun x => x.1 == w) with | some x => x.2 | none => s.strand w))
  | none => (s.task w.task, s.strand w)

/-- The LAST code that refuses a response to the entry of a Saved task (R381): its VALUE is checked against what the save keeps. -/
def State.keepRefused (s : State) (e : FqEntry) (action : Nat) (value : Word64) : Option Nat :=
  match e.of with
  | .strand w =>
    let k := s.savedStrand e w
    if action = 2 then (if stackOk k.1 k.2.stkbase.toNat value.toNat then none else some 3)
    else if action = 3 then
      if k.2.status = .ended then some 2
      else if (wordIn (s.sections w.die (s.load k.1.load).domain 1025 (k.1.entry w.core).toNat) value).isNone then some 3
      else none
    else none
  | _ => none

/-- A write to FQRESP1 applies the response in FQRESP0 (R380). One for a Saved task is kept: LAST is 0, and ACCEPTED rises when
the restore applies it (R381). -/
def State.respond (s : State) (die : Nat) : State :=
  let d := s.die die
  let seq := d.fqResp0.extractLsb' 32 32
  let action := fld d.fqResp0 31 28
  match d.fqOpen.reverse.find? (fun e => e.seq == seq && e.kept.isNone) with
  | none => s.answered die 1
  | some e =>
    if kindAdmits e.kind action = false then s.answered die 2
    else if s.entrySaved e then
      match s.keepRefused e action d.fqResp1 with
      | some k => s.answered die k
      | none => s.updDie die (fun x =>
          { x with fqOpen := x.fqOpen.map (fun y => if y == e then { y with kept := some (action, d.fqResp1) } else y), fqLast := 0 })
    else
      match s.act die e action d.fqResp1 with
      | .error k => s.answered die k
      | .ok t => ((t.updDie die (fun x => { x with fqOpen := x.fqOpen.erase e })).rearmFor die e).answered die 0

/-- Entries of a load that has become final are answered (R380). -/
def State.answerLoad (s : State) (l : LoadId) : State :=
  { s with dies := s.dies.mapVals (fun _ d => d.answer (fun e => s.entryLoad e == some l && e.kind ≠ 1)) }

/-! ## Freezing a host function -/

/-- Whether a die has frozen a function, by itself or through its physical function's freeze (R382, R383). -/
def Die.isFrozen (d : Die) (f : HostFn) : Bool := d.frozen.contains (f.port, f.func)

/-- A host function is frozen by a die and its entry raised (R382, R384): a cause of R242, or 0xFF for a hole. -/
def State.freeze (s : State) (die : Nat) (f : HostFn) (cause : Nat) (addr : Word64) : State :=
  (s.updDie die (fun d => { d with frozen := d.frozen ++ [(f.port, f.func)] })).raiseEntry die
    { of := .host f, kind := 2, body := [BitVec.ofNat 64 (cause * 2 ^ 56 + f.port % 2 * 2 ^ 55 + f.func % 128 * 2 ^ 48), addr] }

/-- FRZSTAT p,w of a die (R383). -/
def Die.frzstat (d : Die) (p w : Nat) : Word64 :=
  BitVec.ofNat 64 ((List.range 64).map (fun i => if d.frozen.contains (p, 64 * w + i) then 2 ^ i else 0)).sum

end Sys2Proof.Machine
end

