-- ==== Sys2Proof/Machine/Registers.lean ====
section
/-! DEFINITION. The die control space (R438) and the system registers (R391, R428): how each register reads, and what a write
of it does for each agent: graph queues (R218), fault queue (R377), invalidations (R247), region swaps (R338),
pre-emption requests (R397), power (R449), ownership (R441, R442), monitors (R447). -/

namespace Sys2Proof.Machine

/-! ## Agents -/

/-- Who accesses a register: a privileged load on the die, a host function, or firmware. -/
inductive Agent where
  | load
  | host (f : HostFn)
  | firmware
deriving DecidableEq, Repr

/-- Whether a host function is the physical function of its module's owner (R442). -/
def State.isOwner (s : State) (f : HostFn) : Bool := f.func == 0 && (s.pkg f.pkg).valid && (s.pkg f.pkg).port == f.port

/-- Whether an agent is the owner host. -/
def State.agentOwner (s : State) : Agent → Bool
  | .host f => s.isOwner f
  | _ => false

/-- A register with the bits under a mask written (R392). -/
def merge (old v mask : Word64) : Word64 := (old &&& ~~~ mask) ||| (v &&& mask)

/-- Every bit. -/
def allBits : Word64 := BitVec.allOnes 64

/-! ## Plane map and links -/

/-- A doubleword of 32 plane-map entries (R256). -/
def pmapWord (m : Map Nat (BitVec 2)) (k : Nat) : Word64 :=
  BitVec.ofNat 64 ((List.range 32).map (fun i => (m.get (32 * k + i) (BitVec.ofNat 2 i)).toNat * 4 ^ i)).sum

/-- A plane map with a doubleword of it written. -/
def setPmapWord (m : Map Nat (BitVec 2)) (k : Nat) (v : Word64) : Map Nat (BitVec 2) :=
  (List.range 32).foldl (fun a i => a.set (32 * k + i) (v.extractLsb' (2 * i) 2)) m

/-- PLSTAT (R256). -/
def Die.plstat (d : Die) : Word64 :=
  BitVec.ofNat 64 (d.gen.toNat * 2 ^ 32 + d.plvec.toNat * 2 ^ 8 + d.phase.toNat * 2 ^ 6 + d.lost.toNat * 2 ^ 5 + d.live.toNat)

/-- Whether a die holds the bridge station of a plane (R421). -/
def holdsStation (die plane : Nat) : Bool := die % 8 == 2 * plane

/-- Nominal lanes of a link; none for a bridge link of a die without the station (R428). -/
def nominalLanes (die plane l : Nat) : Nat := if l < 2 then 64 else if holdsStation die plane then 32 else 0

/-- A link's status as trained at reset (R428). -/
def defaultLink (die plane l : Nat) : Link :=
  { txw := BitVec.ofNat 8 (nominalLanes die plane l), rxw := BitVec.ofNat 8 (nominalLanes die plane l), nomw := BitVec.ofNat 8 (nominalLanes die plane l) }

/-- A link of a die, by plane and number. -/
def State.link (s : State) (die plane l : Nat) : Link := (s.die die).links.get (4 * plane + l) (defaultLink die plane l)

/-- Whether a link carries lanes: its plane is live, and a bridge link has a ring of more than one package (R428). -/
def State.linkUp (s : State) (die plane l : Nat) : Bool :=
  (s.die die).live.getLsbD plane && (decide (l < 2) || (decide (1 < s.present.length) && !(s.pkg (die / 8)).clash))

/-- A link status register (R428). -/
def State.linkWord (s : State) (die plane l : Nat) : Word64 :=
  if nominalLanes die plane l = 0 then 0
  else
    let x := s.link die plane l
    let up := s.linkUp die plane l
    BitVec.ofNat 64 ((if up then x.txw.toNat else 0) * 2 ^ 56 + (if up then x.rxw.toNat else 0) * 2 ^ 48 + x.nomw.toNat * 2 ^ 40 +
      x.retrains.toNat * 2 ^ 24 + x.crcretry.toNat)

/-! ## System registers -/

/-- A system register as an agent reads it (R391). -/
def State.sysRead (s : State) (a : Agent) (die n : Nat) : Word64 :=
  let d := s.die die
  if n = 0 then d.plstat
  else if 0x10 ≤ n ∧ n ≤ 0x17 then pmapWord d.pmap (n - 0x10)
  else if 0x18 ≤ n ∧ n ≤ 0x1F then (if a = .firmware then pmapWord d.pmapNext (n - 0x18) else 0)
  else if n = 0x22 then BitVec.ofNat 64 (d.issued.toNat * 2 ^ 32 + d.done.toNat)
  else if n = 0x30 then d.fqbase
  else if n = 0x31 then BitVec.ofNat 64 (d.fqEnable.toNat * 2 ^ 63 + d.fqLogsize.toNat * 2 ^ 58 + d.fqVector.toNat * 2 ^ 47)
  else if n = 0x32 then BitVec.ofNat 64 (d.fqHead.toNat * 2 ^ 32 + d.fqTail.toNat)
  else if n = 0x35 then BitVec.ofNat 64 (d.fqAccepted.toNat * 2 ^ 32 + d.fqLast.toNat)
  else if n = 0x40 then d.ddwin.zeroExtend 64
  else if 0x50 ≤ n ∧ n ≤ 0x53 then d.frzstat ((n - 0x50) / 2) ((n - 0x50) % 2)
  else if n = 0x60 then d.tilehalt.zeroExtend 64
  else if n = 0x70 then d.dbgen.zeroExtend 64
  else if n = 0x80 then d.pwrtile.zeroExtend 64
  else if n = 0x81 then d.pwrreg.zeroExtend 64
  else if 0x100 ≤ n ∧ n ≤ 0x10F then s.linkWord die ((n - 0x100) / 4) ((n - 0x100) % 4)
  else 0

/-! ### Invalidation -/

/-- A write of XINV dw1 starts an invalidation, unless 16 are outstanding (R247). -/
def State.startInvalidation (s : State) (die : Nat) (dw1 : Word64) : State :=
  s.updDie die (fun d =>
    if d.issued - d.done = 16 then d
    else { d with issued := d.issued + 1
                  invs := d.invs ++ [{ domain := d.xinv0.extractLsb' 56 8, block := fld d.xinv0 55 16, nblk := dw1.extractLsb' 32 32 }] })

/-! ### Power -/

/-- Whether a load holds its tiles and regions (R449): from Configuring until it is final. -/
def Load.holds (l : Load) : Bool := !(l.status == .queued || l.status.final)

/-- Whether a tile is held by a load. -/
def State.tileHeld (s : State) (t : TileId) : Bool := s.loads.entries.any (fun e => e.2.holds && e.2.tiles.any (fun x => x.tile == t))

/-- Whether a region is held by a load. -/
def State.regionHeld (s : State) (r : RegionId) : Bool := s.loads.entries.any (fun e => e.2.holds && e.2.regions.any (fun x => x.region == r))

/-- A tile powered down (R449): its memory, registers, counters and caches are lost. -/
def State.dropTile (s : State) (t : TileId) : State :=
  { s with mem := Memory.clear s.mem (tilePa t 0) (tilePa t tileSpan)
           damaged := s.damaged.filter (fun a => decide (a < tilePa t 0) || decide (tilePa t tileSpan ≤ a))
           tiles := s.tiles.set t { resetAt := s.clock }
           tasks := ⟨s.tasks.entries.filter (fun e => e.1.tileId ≠ t)⟩
           strands := ⟨s.strands.entries.filter (fun e => e.1.tileId ≠ t)⟩ }

/-- A write of PWRTILE by the owner (R449). -/
def State.writePwrTile (s : State) (die : Nat) (v : Word64) : State :=
  (List.range Config.tilesPerDie).foldl (fun x t =>
    let d := x.die die
    let one : BitVec 24 := BitVec.ofNat 24 (2 ^ t)
    if v.getLsbD t then
      if d.pwrtile.getLsbD t ∨ d.risingTiles.contains t then x else x.updDie die (fun d => { d with risingTiles := d.risingTiles ++ [t] })
    else if d.pwrtile.getLsbD t then
      if x.tileHeld ⟨die, t⟩ then x else (x.dropTile ⟨die, t⟩).updDie die (fun d => { d with pwrtile := d.pwrtile &&& ~~~ one })
    else x.updDie die (fun d => { d with risingTiles := d.risingTiles.filter (· ≠ t) })) s

/-- A write of PWRREG by the owner (R449); a powered-down region enters Gated (R325). -/
def State.writePwrReg (s : State) (die : Nat) (v : Word64) : State :=
  (List.range Config.regionsPerDie).foldl (fun x r =>
    let d := x.die die
    let one : BitVec 48 := BitVec.ofNat 48 (2 ^ r)
    if v.getLsbD r then
      if d.pwrreg.getLsbD r ∨ d.risingRegions.contains r then x else x.updDie die (fun d => { d with risingRegions := d.risingRegions ++ [r] })
    else if d.pwrreg.getLsbD r then
      if x.regionHeld ⟨die, r⟩ then x
      else
        (x.updRegion ⟨die, r⟩ (fun g => { status := .gated, result := g.result, swaps := g.swaps })).updDie die
          (fun d => { d with pwrreg := d.pwrreg &&& ~~~ one })
    else x.updDie die (fun d => { d with risingRegions := d.risingRegions.filter (· ≠ r) })) s

/-! ### Writes -/

/-- A write of FQCTL (R377): LOGSIZE is kept while ENABLE is 1, and ENABLE changes only under a LOGSIZE of 4 to 16. -/
def Die.writeFqctl (d : Die) (v : Word64) : Die :=
  let size := if d.fqEnable then d.fqLogsize else v.extractLsb' 58 5
  let en := if 4 ≤ size.toNat ∧ size.toNat ≤ 16 then v.getLsbD 63 else d.fqEnable
  let d1 := { d with fqLogsize := size, fqVector := v.extractLsb' 47 11, fqEnable := en }
  if en ∧ d.fqEnable = false then { d1 with fqHead := 0, fqTail := 0 } else d1

/-- A system register written by an agent that may (R391, R392): the bits under `mask`; `starts` when the write is one that
starts an action. -/
def State.sysWrite (s : State) (a : Agent) (die n : Nat) (v mask : Word64) (starts : Bool) : State :=
  let owner := s.agentOwner a
  let m (old : Word64) : Word64 := merge old v mask
  if n = 0 then (if owner then s.updDie die (fun d => { d with plvec := (m d.plstat).extractLsb' 8 11 }) else s)
  else if 0x18 ≤ n ∧ n ≤ 0x1F then (if a = .firmware then s.updDie die (fun d => { d with pmapNext := setPmapWord d.pmapNext (n - 0x18) v }) else s)
  else if n = 0x20 then s.updDie die (fun d => { d with xinv0 := m d.xinv0 })
  else if n = 0x21 then (if starts then s.startInvalidation die (v &&& mask) else s)
  else if n = 0x30 then s.updDie die (fun d => if d.fqEnable then d else { d with fqbase := m d.fqbase })
  else if n = 0x31 then s.updDie die (fun d => d.writeFqctl (m (s.sysRead a die 0x31)))
  else if n = 0x32 then s.updDie die (fun d => { d with fqTail := (m (s.sysRead a die 0x32)).extractLsb' 0 32 })
  else if n = 0x33 then s.updDie die (fun d => { d with fqResp0 := m d.fqResp0 })
  else if n = 0x34 then
    let s1 := s.updDie die (fun d => { d with fqResp1 := m d.fqResp1 })
    if starts then s1.respond die else s1
  else if n = 0x40 then s.updDie die (fun d =>
    let w := (m (s.sysRead a die 0x40)).extractLsb' 0 6
    if 16 ≤ w.toNat ∧ w.toNat ≤ 30 then { d with ddwin := w } else d)
  else if n = 0x60 then s.updDie die (fun d => { d with tilehalt := (m (s.sysRead a die 0x60)).extractLsb' 0 24 })
  else if n = 0x70 then s.updDie die (fun d => { d with dbgen := (m (s.sysRead a die 0x70)).extractLsb' 0 24 })
  else if n = 0x80 then (if owner then s.writePwrTile die v else s)
  else if n = 0x81 then (if owner then s.writePwrReg die v else s)
  else s

/-! ## Graph queues -/

/-- A doubleword of a graph queue's registers (R218). -/
def GraphQueue.read (q : GraphQueue) (k : Nat) : Word64 :=
  match k with
  | 0 => q.base.zeroExtend 64
  | 1 => BitVec.ofNat 64 (q.enable.toNat * 2 ^ 63 + q.prio.toNat * 2 ^ 60 + q.logsize.toNat * 2 ^ 55 + q.vector.toNat * 2 ^ 44)
  | 2 => BitVec.ofNat 64 (q.head.toNat * 2 ^ 32 + q.tail.toNat)
  | _ => BitVec.ofNat 64 (q.completed.toNat * 2 ^ 32 + q.laststat.toNat * 2 ^ 24 + q.lastload.toNat * 2 ^ 16)

/-- A write of a doubleword of a graph queue's registers (R218). -/
def GraphQueue.write (q : GraphQueue) (k : Nat) (v : Word64) : GraphQueue :=
  match k with
  | 0 => if q.enable then q else { q with base := v.extractLsb' 0 56 }
  | 1 =>
    let size := if q.enable then q.logsize else v.extractLsb' 55 5
    let en := if 4 ≤ size.toNat ∧ size.toNat ≤ 16 then v.getLsbD 63 else q.enable
    let q1 := { q with logsize := size, prio := v.extractLsb' 60 3, vector := v.extractLsb' 44 11, enable := en }
    if en ∧ q.enable = false then { q1 with head := 0, tail := 0, completed := 0 } else q1
  | 2 => if 2 ^ q.logsize.toNat < (v.extractLsb' 0 32 - q.head).toNat then q else { q with tail := v.extractLsb' 0 32 }
  | _ => q

/-! ## Regions -/

/-- STATE of RSTAT (R338). -/
def RegionStatus.code : RegionStatus → Nat
  | .gated => 0
  | .empty => 1
  | .fetching => 2
  | .loaded => 3
  | .running => 4
  | .closing => 5
  | .swapping => 6
  | .saved => 7
  | .failed => 8

/-- RSTAT (R338). -/
def Region.rstat (r : Region) : Word64 := BitVec.ofNat 64 (r.status.code * 2 ^ 56 + r.result % 256 * 2 ^ 48 + r.swaps.toNat)

/-- Whether a pre-emption of a load is in progress on its queue (R338). -/
def State.preempting (s : State) (l : LoadId) : Bool :=
  !(s.load l).gating.isEmpty || match (s.die l.die).preempt with | some p => p.queue == l.queue && p.begun | none => false

/-- A write of RSWAP dw1 requests a swap, or sets RESULT to 5 (R338). -/
def State.requestSwap (s : State) (r : RegionId) (dw1 : Word64) : State :=
  let g := s.region r
  let busy := g.status ≠ .running || g.swap.isSome || (match g.load with | some l => s.preempting l | none => true)
  if busy then s.setRegion r { g with result := 5 }
  else s.setRegion r { g with swap := some { va := BitVec.ofNat 64 g.swapAddr.toNat, clksel := fld dw1 5 0 } }

/-! ## Pre-emption requests -/

/-- PRSTAT (R397). -/
def Die.prstat (d : Die) : Word64 :=
  BitVec.ofNat 64 (d.prState.toNat * 2 ^ 56 + d.prResult.toNat * 2 ^ 48 + d.prQueue.toNat * 2 ^ 36 + d.prWhole.toNat * 2 ^ 24)

/-- Loads of a queue's graph that a save covers, in graph order: Armed or Running (R398, R407). -/
def State.savable (s : State) (q : QueueId) : List LoadId :=
  ((List.range 256).map (fun k => (⟨q.die, q.queue, k⟩ : LoadId))).filter (fun l => (s.load l).status == .armed || (s.load l).status == .running)

/-- The gang whose rounds save and restore a graph: that of its first load that has one (R413). -/
def State.graphGang (s : State) (ls : List LoadId) : Option (LoadId × Gang) := ls.findSome? (fun l => (s.load l).gang.map (fun g => (l, g)))

/-- The dies on which the parts of loads run (R430). -/
def State.partDies (s : State) (ls : List LoadId) (leader : Nat) : List Nat :=
  (leader :: ls.flatMap (fun l => match (s.load l).gang with | some g => g.members | none => [])).eraseDups

/-- Bytes of a task image's register part (R408): Z. -/
def imageBytes (h : ProgHeader) : Nat :=
  2048 + 8 * h.aregs + 4 * h.sregs + 128 * h.masks + 4096 * h.vframe + 65536 * h.accs

/-- Bytes of a task's image (R408). -/
def taskImageBytes (h : ProgHeader) : Nat := imageBytes h + 196608 + 4096 * h.tilemem

/-- Tasks of a load that are not Free, in tile-table order and then by slot (R407). -/
def State.tasksOf (s : State) (l : LoadId) : List TaskId :=
  (s.load l).tiles.flatMap (fun e =>
    ((List.range Config.slotsPerTile).map (fun k => (⟨e.tile.die, e.tile.tile, k⟩ : TaskId))).filter (fun i =>
      (s.task i).status ≠ .free && (s.task i).load == l))

/-- Channels of a load in table order. -/
def State.chansOf (s : State) (l : LoadId) : List ChanId :=
  ((List.range (s.load l).nchan).map (fun k => (⟨l, k⟩ : ChanId))).filter (fun c => s.chans.keys.contains c)

/-- Bytes of a channel record (R407). -/
def channelBytes (c : Channel) : Nat := 1024 + 64 * c.depth * c.dests.length

/-- Bytes of the context area that a save of loads writes (R407). -/
def State.areaBytes (s : State) (ls : List LoadId) : Nat :=
  4096 + (ls.map (fun l => 16384 + ((s.chansOf l).map (fun c => channelBytes (s.chan c))).sum +
    ((s.tasksOf l).map (fun i => taskImageBytes (s.task i).hdr)).sum)).sum

/-- Lengths of the parts after the area's header, as a saved graph gives them, with the task of each image (R407). -/
def SavedGraph.parts (g : SavedGraph) : List (LoadId × Nat × Option TaskId) :=
  g.loads.flatMap (fun e =>
    (e.1, 16384, none) :: (g.chans.filter (fun c => c.1.load == e.1)).map (fun c => (e.1, channelBytes c.2, none)) ++
    ((g.tasks.filter (fun t => t.2.load == e.1)).map (fun t => (e.1, taskImageBytes t.2.hdr, some t.1))))

/-- Bytes of a saved graph's context area (R407). -/
def SavedGraph.bytes (g : SavedGraph) : Nat := 4096 + (g.parts.map (fun p => p.2.1)).sum

/-- Whether bytes of a domain may be written as a context area: every granule has a leaf with W 1, HOME 00 and PRES 0
(R398). -/
def State.areaOk (s : State) (die : Nat) (domain : BitVec 8) (va n : Nat) : Bool :=
  (blocksOf va n).all (fun b =>
    match s.walkTables die domain (b * 65536) with
    | .error _ => false
    | .ok (e, lvl) => leafW e && leafHome e == 0 && !leafPres e &&
        (match s.checkPart e lvl (b * 65536) 8 .store domain false with | .ok _ => true | .error _ => false))

/-- Domain of a graph queue: that of its function (R441, R222). -/
def State.queueDomain (s : State) (die queue : Nat) : BitVec 8 := (s.pkg (die / 8)).fdom.get (s.queueOwner die queue) 0

/-- Whether a save may begin on some dies (R398): no rehash, no swap of the graph's regions, no halted tile, no load Configuring. -/
def State.saveMayBegin (s : State) (q : QueueId) (dies : List Nat) : Bool :=
  dies.all (fun d => (s.die d).phase == 0) &&
  s.loads.entries.all (fun e => !(e.1.die == q.die && e.1.queue == q.queue) || e.2.status ≠ .configuring) &&
  (s.savable q).all (fun l =>
    (s.load l).regions.all (fun r => !dies.contains r.region.die || (s.region r.region).swap.isNone) &&
    (s.load l).tiles.all (fun t => !dies.contains t.tile.die || !(s.die t.tile.die).tilehalt.getLsbD t.tile.tile))

/-- Step 1 of R403 on some dies: the sources of a graph's loads are gated there, and its running regions are Closing (R325). -/
def State.gateSources (s : State) (q : QueueId) (dies : List Nat) : State :=
  let ls := s.savable q
  let s1 := ls.foldl (fun x l => x.updLoad l (fun y => { y with gating := y.gating ++ dies.filter (fun d => !y.gating.contains d) })) s
  { s1 with regions := s1.regions.mapVals (fun i r => match r.load with
      | some l => if ls.contains l ∧ dies.contains i.die ∧ r.status = .running then { r with status := .closing } else r
      | none => r) }

/-- Step 1 of a save (R403): STATE := 1, and the graph's sources are gated; of a graph with a gang, member by member in a round (R431). -/
def State.beginSave (s : State) (die : Nat) : State :=
  match (s.die die).preempt with
  | some p =>
    let q : QueueId := ⟨die, p.queue⟩
    if p.restore = false ∧ p.begun = false ∧ (s.graphGang (s.savable q)).isNone ∧ s.saveMayBegin q [die] = true then
      (s.gateSources q [die]).updDie die (fun d => { d with prState := 1, preempt := some { p with begun := true } })
    else s
  | none => s

/-- A write of PREQ dw1 (R397, R398). -/
def State.requestPreempt (s : State) (die : Nat) (dw1 : Word64) : State :=
  let d := s.die die
  let queue := fld dw1 59 48
  let q : QueueId := ⟨die, queue⟩
  let area := d.preq0.toNat % 2 ^ 56
  let restore := dw1.getLsbD 63
  let busy := d.prState == 1 || d.prState == 2 || d.prState == 3 || d.prState == 5 || d.preempt.isSome
  let known := if restore then (s.saved.find? q).isSome else !(s.savable q).isEmpty
  let refuse (r : Nat) : State := s.updDie die (fun x => { x with prResult := BitVec.ofNat 8 r, prQueue := if busy then x.prQueue else BitVec.ofNat 12 queue })
  if busy ∨ known = false then refuse 4
  else
    let bytes := if restore then ((s.saved.find? q).map SavedGraph.bytes).getD 4096 else s.areaBytes (s.savable q)
    let ok := s.areaOk die (s.queueDomain die queue) area bytes
    if ok = false then refuse 6
    else
      let p : Preempt := { restore := restore, queue := queue, area := BitVec.ofNat 64 area
                           qto := if dw1.extractLsb' 0 32 = 0#32 then 2 ^ 20 else fld dw1 31 0 }
      let s1 := s.updDie die (fun x => { x with preempt := some p, prQueue := BitVec.ofNat 12 queue, prResult := 0, prState := if restore then 5 else x.prState })
      if restore then s1 else s1.beginSave die

/-! ## Ownership -/

/-- FQCTL ENABLE cleared on every die of a package, at a change of owner (R442). -/
def State.disableRings (s : State) (pkg : Nat) : State :=
  { s with dies := s.dies.mapVals (fun i d => if i / 8 = pkg then { d with fqEnable := false } else d) }

/-- A write counted in REJECT (R442). -/
def State.reject (s : State) (pkg : Nat) : State :=
  s.updPkg pkg (fun p => { p with reject := if p.reject = 0xFFFF then p.reject else p.reject + 1 })

/-- A write of OWNCLAIM from a physical function (R442). -/
def State.claim (s : State) (f : HostFn) : State :=
  let p := s.pkg f.pkg
  if p.valid then (if s.isOwner f then s else s.reject f.pkg)
  else if f.func = 0 ∧ (p.only = none ∨ p.only = some f.port) then
    (s.setPkg f.pkg { p with valid := true, port := f.port, gen := p.gen + 1, only := none }).disableRings f.pkg
  else s.reject f.pkg

/-- A write of OWNHAND by the owner (R442). -/
def State.handover (s : State) (f : HostFn) (v : Word64) : State :=
  if v.getLsbD 63 then
    (s.updPkg f.pkg (fun p => { p with valid := false, gen := p.gen + 1, only := some (v.getLsbD 62).toNat })).disableRings f.pkg
  else s

/-- OWNSTAT (R441). -/
def Package.ownstat (p : Package) : Word64 :=
  BitVec.ofNat 64 (p.valid.toNat * 2 ^ 63 + p.port % 2 * 2 ^ 62 + p.reject.toNat * 2 ^ 32 + p.gen.toNat)

/-- A QOWN doubleword (R441). -/
def Package.qownWord (p : Package) (n : Nat) : Word64 :=
  BitVec.ofNat 64 ((List.range 4).map (fun i => (p.qown.get (4 * n + i) 0).toNat * 2 ^ (16 * i))).sum

/-- A QOWN doubleword written (R441). -/
def Package.setQown (p : Package) (n : Nat) (v : Word64) : Package :=
  { p with qown := (List.range 4).foldl (fun m i => m.set (4 * n + i) (v.extractLsb' (16 * i) 9)) p.qown }

/-! ## Monitors -/

/-- Whether a SRC code is one of R447. -/
def monitorSource (x : Nat) : Bool :=
  x ≤ 3 || (0x10 ≤ x && x ≤ 0x13) || x == 0x20 || x == 0x21 || x == 0x30 || x == 0x31 || x == 0x40 || x == 0x50

/-- Whether a source counts events that the model shows; the others count what only timing or physical effects decide. -/
def monitorExact (x : Nat) : Bool := x == 0x0001 || x == 0x0003 || x == 0x0050

/-- Events of a source added to the die's enabled counters (R447). -/
def State.monitor (s : State) (die src n : Nat) : State :=
  if n = 0 ∨ (s.die die).monitors.entries = [] then s
  else s.updDie die (fun d => { d with monitors := d.monitors.mapVals (fun _ m => if m.en ∧ m.src.toNat = src then { m with value := m.value + BitVec.ofNat 64 n } else m) })

/-- A monitor counter as it reads (R447): a free value while it counts what the model does not show (log entry 4). -/
def State.readMonitor (s : State) (die k : Nat) : Word64 × State :=
  let m := (s.die die).monitors.get k {}
  if m.en ∧ monitorExact m.src.toNat = false then
    (Config.monitorEvents m.src.toNat s.drawn,
      { s with drawn := s.drawn + 1 }.updDie die (fun d => { d with monitors := d.monitors.set k { m with value := Config.monitorEvents m.src.toNat s.drawn } }))
  else (m.value, s)

/-- A monitor counter configured (R395). -/
def State.configureMonitor (s : State) (die k : Nat) (v : Word64) : State :=
  s.updDie die (fun d =>
    let m := d.monitors.get k {}
    { d with monitors := d.monitors.set k { en := v.getLsbD 16, src := v.extractLsb' 0 16, value := if v.getLsbD 17 then 0 else m.value } })

/-! ## The control space -/

/-- Eight bytes of the mailbox buffer (R445). -/
def Package.mailbox (p : Package) (k : Nat) : Word64 := BitVec.ofNat 64 (bytesToNat ((List.range 8).map (fun i => p.response.getD (8 * k + i) 0)))

/-- Eight bytes written into the mailbox buffer (R445). -/
def Package.setMailbox (p : Package) (k : Nat) (v : Word64) : Package :=
  let full := p.response ++ List.replicate (8192 - p.response.length) 0
  { p with response := full.take (8 * k) ++ natToBytes 8 v.toNat ++ full.drop (8 * k + 8) }

/-- A doubleword of a die's control space as an agent reads it (R438); a hole reads 0 here and is checked before. -/
def State.ctrlRead (s : State) (a : Agent) (die o : Nat) : Word64 × State :=
  let d := s.die die
  let p := s.pkg (die / 8)
  if o = 0 then (BitVec.ofNat 64 (0x4C38 * 2 ^ 48 + 0xA1 * 2 ^ 40 + die / 8 % 32 * 2 ^ 35 + die % 8 * 2 ^ 32 + p.svn.toNat * 2 ^ 24), s)
  else if 0x1000 ≤ o ∧ o < 0x9000 then (s.sysRead a die ((o - 0x1000) / 8), s)
  else if o = 0x10010 then (d.prstat, s)
  else if 0x20000 ≤ o ∧ o < 0x20600 then ((if o % 32 = 16 then (s.region ⟨die, (o - 0x20000) / 32⟩).rstat else 0), s)
  else if 0x100000 ≤ o ∧ o < 0x120000 then ((s.queue ⟨die, (o - 0x100000) / 32⟩).read (o % 32 / 8), s)
  else if 0x200000 ≤ o ∧ o < 0x200800 then ((d.roots.get ((o - 0x200000) / 8) 0).zeroExtend 64, s)
  else if 0x300000 ≤ o ∧ o < 0x300100 then
    let k := (o - 0x300000) / 16
    if o % 16 = 0 then (BitVec.ofNat 64 ((d.monitors.get k {}).en.toNat * 2 ^ 16 + (d.monitors.get k {}).src.toNat), s) else s.readMonitor die k
  else if o = 0x400000 then (p.ownstat, s)
  else if 0x401000 ≤ o ∧ o < 0x401208 then ((p.fdom.get (0, (o - 0x401000) / 8) 0).zeroExtend 64, s)
  else if 0x401400 ≤ o ∧ o < 0x401608 then ((p.fdom.get (1, (o - 0x401400) / 8) 0).zeroExtend 64, s)
  else if 0x402000 ≤ o ∧ o < 0x404000 then (p.qownWord ((o - 0x402000) / 8), s)
  else if 0x410000 ≤ o ∧ o < 0x412000 then (p.mailbox ((o - 0x410000) / 8), s)
  else (0, s)

/-- A doubleword of a die's control space written by an agent (R438); for a host it is the owner, checked before. A write of a
monitor's configuration with a reserved SRC code is ignored; its reserved bits are not kept (R5, R447). -/
def State.ctrlWrite (s : State) (a : Agent) (die o : Nat) (v : Word64) : State :=
  let owner := s.agentOwner a
  if 0x1000 ≤ o ∧ o < 0x9000 then s.sysWrite a die ((o - 0x1000) / 8) v allBits true
  else if o = 0x10000 then s.updDie die (fun d => { d with preq0 := v })
  else if o = 0x10008 then s.requestPreempt die v
  else if 0x20000 ≤ o ∧ o < 0x20600 then
    let r : RegionId := ⟨die, (o - 0x20000) / 32⟩
    if o % 32 = 0 then s.updRegion r (fun g => { g with swapAddr := v.extractLsb' 0 56 })
    else if o % 32 = 8 then s.requestSwap r v else s
  else if 0x100000 ≤ o ∧ o < 0x120000 then s.updQueue ⟨die, (o - 0x100000) / 32⟩ (fun q => q.write (o % 32 / 8) v)
  else if 0x200000 ≤ o ∧ o < 0x200800 then
    (if a = .firmware then s.updDie die (fun d => { d with roots := d.roots.set ((o - 0x200000) / 8) ((v.extractLsb' 12 40).zeroExtend 52 <<< 12) }) else s)
  else if 0x300000 ≤ o ∧ o < 0x300100 then
    (if o % 16 = 0 ∧ monitorSource (fld v 15 0) then s.configureMonitor die ((o - 0x300000) / 16) v else s)
  else if owner then
    match a with
    | .host f =>
      if o = 0x400010 then s.handover f v
      else if 0x401000 ≤ o ∧ o < 0x401208 then s.updPkg (die / 8) (fun p => { p with fdom := p.fdom.set (0, (o - 0x401000) / 8) (v.extractLsb' 0 8) })
      else if 0x401400 ≤ o ∧ o < 0x401608 then s.updPkg (die / 8) (fun p => { p with fdom := p.fdom.set (1, (o - 0x401400) / 8) (v.extractLsb' 0 8) })
      else if 0x402000 ≤ o ∧ o < 0x404000 then s.updPkg (die / 8) (fun p => p.setQown ((o - 0x402000) / 8) v)
      else if 0x410000 ≤ o ∧ o < 0x412000 then s.updPkg (die / 8) (fun p => p.setMailbox ((o - 0x410000) / 8) v)
      else s
    | _ => s
  else s

end Sys2Proof.Machine
end

