-- ==== Sys2Proof/Machine/ChannelEvents.lean ====
section
/-! DEFINITION. The events of channels and regions: packets, acknowledgements, OFF and ON (R259, R335, R336, R341), region output
ports (R356, R373), sealed operators (R327), a region's configuration error (R325), and the steps of a swap (R339). -/

namespace Sys2Proof.Machine

/-! ## Packets -/

/-- Planes that a die sees live, in increasing number (R256, R259). -/
def Die.livePlanes (d : Die) : List Nat := (List.range 4).filter (fun p => d.live.getLsbD p)

/-- The plane of a packet by its sequence number (R259). -/
def State.stripe (s : State) (die : Nat) (seq : BitVec 16) : Option Nat :=
  let l := (s.die die).livePlanes
  if l.isEmpty then none else l[seq.toNat % l.length]?

/-- Whether a destination has already delivered a sequence number (R259). -/
def DestQueue.delivered (d : DestQueue) (seq : BitVec 16) : Bool := decide (2 ^ 15 ≤ (seq - d.expect).toNat)

/-- Whether a packet has landed in a destination's backing queue. -/
def DestQueue.landed (d : DestQueue) (seq : BitVec 16) : Bool := d.delivered seq || d.early.any (fun e => e.1 == seq)

/-- Whether a source may offer beats: no destination is off, its load is not stopping, and no rehash is in progress (R263,
R335, R336, R386). -/
def State.mayOffer (s : State) (id : ChanId) (c : Channel) : Bool :=
  c.dests.all (fun d => !d.off) && !(s.load id.load).stopping && (s.die c.src.die).phase == 0

/-- Packets from beats, numbered on from the channel's next sequence number, sent on their planes. -/
def Channel.packets (seq : BitVec 16) (plane : BitVec 16 → Nat) : List Beat → List Packet
  | [] => []
  | b :: bs => { seq := seq, beat := b, plane := plane seq } :: Channel.packets (seq + 1) plane bs

/-- The beats that a source has ready: those that its converter has made, or else the next of its output queue through it (R332). -/
def Channel.ready (c : Channel) : Channel :=
  match c.waiting, c.outq with
  | [], b :: rest => let e := ({ c with outq := rest } : Channel).egress b; { e.1 with waiting := e.2 }
  | _, _ => c

/-- Room that every destination of a channel has (R334). -/
def Channel.destRoom (c : Channel) : Nat := (c.dests.map (fun d => c.depth - (d.occupancy + c.unacked.length))).foldl min c.depth

/-- CHANNEL_PACKET_SEND of a channel (R259, R332, R450): a packet to be sent again after a rehash first, else the beats that are ready, as
many as every destination has room for. -/
def eventPacketSend (s : State) : State :=
  let id := s.event.chan
  let c := s.chan id
  if s.mayOffer id c = false then s
  else
    match c.unacked.find? (fun p => !p.sent) with
    | some p =>
      match s.stripe c.src.die p.seq with
      | some plane => s.setChan id { c with unacked := c.unacked.map (fun q => if q.seq = p.seq then { q with sent := true, plane := plane } else q) }
      | none => s
    | none =>
      if c.destRoom = 0 ∨ (s.stripe c.src.die c.nextSeq).isNone then s
      else
        let x := c.ready
        let bs := x.waiting.take c.destRoom
        let ps := Channel.packets c.nextSeq (fun k => (s.stripe c.src.die k).getD 0) bs
        s.setChan id { x with waiting := x.waiting.drop c.destRoom, unacked := x.unacked ++ ps, nextSeq := c.nextSeq + BitVec.ofNat 16 bs.length }

/-- A destination's next early packets delivered in sequence order (R259). -/
def DestQueue.advance (d : DestQueue) : Nat → DestQueue
  | 0 => d
  | fuel + 1 =>
    match d.early.find? (fun e => e.1 == d.expect) with
    | some e => ({ d with beats := d.beats ++ [e.2], expect := d.expect + 1, early := d.early.filter (fun x => x.1 ≠ e.1) } : DestQueue).advance fuel
    | none => d

/-- A packet in a destination's queue: in place when it is the next, else held; a repetition is discarded (R259). -/
def DestQueue.arrive (d : DestQueue) (seq : BitVec 16) (b : Beat) : DestQueue :=
  if d.landed seq then d else ({ d with early := d.early ++ [(seq, b)] } : DestQueue).advance (d.early.length + 1)

/-- The destination after an arrival sends OFF when its occupancy has risen to OFFTH (R335). -/
def Channel.afterArrival (c : Channel) (d : DestQueue) : DestQueue :=
  if c.offth ≤ d.occupancy ∧ d.off = false then { d with offSent := true } else d

/-- Whether a beat is an end-of-stream token. -/
def Beat.isEos (b : Beat) : Bool := b.toks == [.eos]

/-- The count of an arrival at an input port's threshold (R341): its elements, or one increment for an end-of-stream. -/
def State.countArrival (s : State) (p : PortId) (b : Beat) : State :=
  if b.isEos then
    let x := s.port p
    if p.kind = .tile ∧ x.threshold ≠ 0 then s.addEvent ⟨p.die, p.index⟩ x.counter 1 else s
  else s.countPort p (elemCount b.toks)

/-- Whether a packet in flight still travels: it has been sent since the last rehash, on a live plane (R259, R265). -/
def State.packetTravels (s : State) (c : Channel) (p : Packet) : Bool := p.sent && (s.die c.src.die).live.getLsbD p.plane

/-- CHANNEL_PACKET_ARRIVE of a packet at a destination (R259, R334, R335, R341). -/
def eventPacketArrive (s : State) : State :=
  let id := s.event.chan
  let c := s.chan id
  match c.unacked.find? (fun p => p.seq.toNat == s.event.seq), c.dests[s.event.dest]? with
  | some p, some d =>
    if s.packetTravels c p = false ∨ d.landed p.seq then s
    else
      ((s.wakeTile d.home).setChan id { c with dests := listSet c.dests s.event.dest (fun x => c.afterArrival (x.arrive p.seq p.beat)) }).countArrival d.port p.beat
  | _, _ => s

/-- CHANNEL_ACK of a packet by a destination (R259): with the last one the packet is freed, and its elements count at a tile output
port's threshold (R341). -/
def eventAckChannel (s : State) : State :=
  let id := s.event.chan
  let c := s.chan id
  match c.unacked.find? (fun p => p.seq.toNat == s.event.seq), c.dests[s.event.dest]? with
  | some p, some d =>
    if d.landed p.seq = false ∨ p.acked.contains s.event.dest ∨ s.packetTravels c p = false then s
    else
      let acked := s.event.dest :: p.acked
      if c.dests.length ≤ acked.length then
        (s.setChan id { c with unacked := c.unacked.filter (fun q => q.seq ≠ p.seq) }).countPort c.src (elemCount p.beat.toks)
      else s.setChan id { c with unacked := c.unacked.map (fun q => if q.seq = p.seq then { q with acked := acked } else q) }
  | _, _ => s

/-- CHANNEL_OFF of a destination: the source stops offering beats (R335). -/
def eventChannelOff (s : State) : State :=
  s.updChan s.event.chan (fun c => { c with dests := listSet c.dests s.event.dest (fun d => if d.offSent then { d with off := true } else d) })

/-- CHANNEL_ON of a destination whose occupancy has fallen to ONTH after an OFF (R335). -/
def eventChannelOn (s : State) : State :=
  s.updChan s.event.chan (fun c => { c with dests := listSet c.dests s.event.dest (fun d =>
    if d.off ∧ d.occupancy ≤ c.onth then { d with off := false, offSent := false } else d) })

/-! ## Region output ports -/

/-- Beats that taking a token sends: the forced partial beat, and the token's own beat or the full one (R356). -/
def takenBeats (per : Nat) (open' : List Tok) (t : Tok) : List Beat × List Tok :=
  if isData t then (if per ≤ open'.length + 1 then ([⟨open' ++ [t], false⟩], []) else ([], open' ++ [t]))
  else ((if open'.isEmpty then [] else [⟨open', false⟩]) ++ [⟨[t], false⟩], [])

/-- A token offered at a region output port, taken when its output queue has room for the beats it sends (R356, R373, R450). -/
def State.portTake (s : State) (p : PortId) (t : Tok) : Option State :=
  match s.boundTo p with
  | none => none
  | some (id, c) =>
    let f := typeFormat c.stype
    let x : Tok := match t with | .elem v => .elem (BitVec.ofNat 32 (elemOf f v)) | y => y
    let r := takenBeats (beatElems f) c.partialBeat x
    if r.1.length ≤ c.room then
      some ((s.setChan id { c with outq := c.outq ++ r.1, partialBeat := r.2 }).updPort p (fun y => { y with moved := y.moved + (if isData x then 1 else 0) }))
    else none

/-- REGION_OUTPUT_PORT_TAKE of a port of a region (R356). -/
def eventPortTake (s : State) : State :=
  let id : RegionId := ⟨s.event.die, s.event.region⟩
  let r := s.region id
  let key := linkKey (1016 + s.event.port) 0
  match r.links.get key [] with
  | [] => s
  | t :: ts =>
    if (r.status = .running ∨ r.status = .closing) ∧ r.still = false then
      match s.portTake (regionPort id true s.event.port) t with
      | some u => u.updRegion id (fun x => { (x.movedAt s.clock) with links := x.links.set key ts })
      | none => s
    else s

/-! ## Sealed operators -/

/-- A token as the kind code and payload of Config.sealedOutput. -/
def sealTok : Tok → Nat × Word64
  | .elem x => (0, x.zeroExtend 64)
  | .scale k => (1, k.zeroExtend 64)
  | .pscl k => (1, k.zeroExtend 64)
  | .eos => (2, 0)
  | .order => (3, 0)
  | .poison o => (4, o)

/-- The token of a kind code and payload. -/
def unsealTok (x : Nat × Word64) : Tok :=
  match x.1 with
  | 0 => .elem (x.2.extractLsb' 0 32)
  | 1 => .scale (x.2.extractLsb' 0 8)
  | 2 => .eos
  | 3 => .order
  | _ => .poison x.2

/-- Input sequences of a sealed operator, by port. -/
def Region.sealedInputs (r : Region) : List (List (Nat × Word64)) := (List.range 8).map (fun k => (r.sealedIn.get k []).map sealTok)

/-- A sequence before its first poison token, and the origin of that token. -/
def cutPoison : List (Nat × Word64) → List (Nat × Word64) × Option Word64
  | [] => ([], none)
  | x :: xs => if 4 ≤ x.1 then ([], some x.2) else let r := cutPoison xs; (x :: r.1, r.2)

/-- The output sequence of a sealed operator at a port: a function of its image and its input sequences (R327 item 1). Past what it owes to
the inputs before their poison stands a poison token with the first origin, that of the lowest port (R327 item 3). -/
def Region.sealedOutputs (r : Region) (im : Image) (port : Nat) : List (Nat × Word64) :=
  let whole := Config.sealedOutput im.opid im.bytes r.sealedInputs port
  let cut := r.sealedInputs.map cutPoison
  match cut.findSome? Prod.snd with
  | none => whole
  | some o =>
    let clean := Config.sealedOutput im.opid im.bytes (cut.map Prod.fst) port
    if whole.length ≤ clean.length then whole
    else clean ++ (4, o) :: (whole.drop clean.length).dropWhile (fun x => decide (4 ≤ x.1))

/-- Tokens that a sealed operator has made and not yet emitted. -/
def Region.sealedPending (r : Region) (im : Image) : Nat :=
  ((List.range 8).map (fun k => (r.sealedOutputs im k).length - r.sealedOut.get k 0)).sum

/-- A sequence before its order token number j, counted from 0. -/
def beforeOrder : Nat → List (Nat × Word64) → List (Nat × Word64)
  | _, [] => []
  | j, x :: xs => if x.1 = 3 then (match j with | 0 => [] | k + 1 => x :: beforeOrder k xs) else x :: beforeOrder j xs

/-- Whether the next token of an output port may leave: an order token leaves after every output token of any port that depends on inputs
that came before it (R327 item 4). -/
def Region.sealedMay (r : Region) (im : Image) (n : Nat) (x : Nat × Word64) : Bool :=
  x.1 ≠ 3 ||
  (let j := (((r.sealedOutputs im n).take (r.sealedOut.get n 0)).filter (fun y => y.1 == 3)).length
   let ins := r.sealedInputs.map (beforeOrder j)
   (List.range 8).all (fun m => m == n || decide ((Config.sealedOutput im.opid im.bytes ins m).length ≤ r.sealedOut.get m 0)))

/-- SEALED_OPERATOR_FIRE (R327): with `flag` the next token of an output port, else the next token of an input port, which is taken only
while no more than BUF tokens are then held (item 2). -/
def eventSealedFire (s : State) : State :=
  let id : RegionId := ⟨s.event.die, s.event.region⟩
  let r := s.region id
  let n := s.event.port
  match r.image with
  | none => s
  | some im =>
    if im.kind ≠ 1 ∨ r.still ∨ ¬ (r.status = .running ∨ r.status = .closing) then s
    else if s.event.flag then
      match (r.sealedOutputs im n)[r.sealedOut.get n 0]? with
      | some x =>
        if r.sealedMay im n x then
          match s.portTake (regionPort id true n) (unsealTok x) with
          | some u => u.updRegion id (fun y => { (y.movedAt s.clock) with sealedOut := y.sealedOut.set n (y.sealedOut.get n 0 + 1) })
          | none => s
        else s
      | none => s
    else if r.gatedIn then s
    else
      let p := regionPort id false n
      match (s.inToks p).head? with
      | some t =>
        let r1 := { (r.movedAt s.clock) with sealedIn := r.sealedIn.set n (r.sealedIn.get n [] ++ [graphToken (s.portType p) t]) }
        if im.buf < r1.sealedPending im then s else (s.consume p 1).setRegion id r1
      | none => s

/-! ## Configuration errors -/

/-- A poison token at a region's output port behind the elements it has taken, whatever the room (R325). -/
def State.poisonPort (s : State) (p : PortId) (o : Word64) : State :=
  match (s.port p).chan with
  | none => s
  | some id => s.updChan id (fun c => { c with outq := c.outq ++ (takenBeats 1 c.partialBeat (.poison o)).1, partialBeat := [] })

/-- REGION_CONFIG_ERROR of a running region: Failed, with poison on every bound output port (R325, R355). -/
def eventConfigError (s : State) : State :=
  let id : RegionId := ⟨s.event.die, s.event.region⟩
  if (s.region id).status = .running then
    (List.range 8).foldl (fun x n => x.poisonPort (regionPort id true n) (elementOrigin .eccUncorr id 0 0))
      (s.updRegion id (fun r => { r with status := .failed, links := {}, elems := {} }))
  else s

/-! ## Swaps -/

/-- Whether an element is in the middle of an emission or a buffer. -/
def Element.busy (e : Element) (qbuf : Bool) : Bool := !e.emit.isEmpty || (qbuf && !e.held.isEmpty)

/-- Whether a slot of an image is a QBUF. -/
def Image.isQbuf (im : Image) (slot : Nat) : Bool := fld (im.body.getD slot 0) 63 58 == 0x04

/-- Whether a region is idle (R327 item 5, R368). -/
def Region.idle (r : Region) (im : Image) : Bool :=
  if im.kind = 1 then (List.range 8).all (fun k => decide ((r.sealedOutputs im k).length ≤ r.sealedOut.get k 0))
  else r.links.entries.all (fun e => e.2.isEmpty) && r.elems.entries.all (fun e => !e.2.busy (im.isQbuf e.1))

/-- Whether a region is idle as it reports it (R327 item 5): a sealed operator when no output is offered that its downstream queue can
accept. -/
def State.regionIdle (s : State) (id : RegionId) (r : Region) (im : Image) : Bool :=
  if im.kind = 1 then
    (List.range 8).all (fun k => match (r.sealedOutputs im k)[r.sealedOut.get k 0]? with
      | some x => (s.portTake (regionPort id true k) (unsealTok x)).isNone
      | none => true)
  else r.idle im

/-- Tile cycles, at the 2.0 GHz of R2, that n clocks of a region take: 25 MHz times CLKSEL (R321, log entry 33). -/
def regionCycles (clksel n : Nat) : Nat := (n * 80 + clksel - 1) / max 1 clksel

/-- Whether an idle region holds state (R327 item 5, R368); a sealed operator with a token still to emit does. -/
def Region.holdsState (r : Region) (im : Image) : Bool :=
  if im.kind = 1 then Config.sealedHoldsState im.opid im.bytes r.sealedInputs || r.sealedPending im ≠ 0
  else r.elems.entries.any (fun e => e.2.openRec || e.2.inLoop || e.2.left ≠ 0 || e.2.latch ≠ 0x7F)

/-- The domain in which a region manager works for a region. -/
def State.regionDomain (s : State) (r : Region) : BitVec 8 := match r.load with | some l => (s.load l).domain | none => 0

/-- REGION_SWAP_IMAGE_CHECKED: steps 1 and 2 of a swap (R339). -/
def eventSwapChecked (s : State) : State :=
  let id : RegionId := ⟨s.event.die, s.event.region⟩
  let r := s.region id
  match r.swap with
  | none => s
  | some w =>
    if r.status ≠ .running ∨ w.image.isSome ∨ (s.die id.die).phase ≠ 0 then s
    else
      match s.acceptImage s.boundTypes id (s.regionDomain r) w.va.toNat w.clksel with
      | none => s.setRegion id { r with result := 2, swap := none }
      | some im => s.setRegion id { r with status := .closing, gatedIn := true, swap := some { w with image := some im, closed := true, since := s.clock } }

/-- The save area that a swap writes: its header and a copy of the old image's body (R339, R409, R414). -/
def swapArea (im : Image) : List Byte := ofDwords [BitVec.ofNat 64 (0xC4 * 2 ^ 56), 0, 0, 0, 0, 0, 0, 0] ++ im.bytes

/-- REGION_SWAP_IDLE of a region that has come to rest (R339): steps 4 and 5, Swapping; then step 6, Running again with the new image. -/
def eventSwapIdle (s : State) : State :=
  let id : RegionId := ⟨s.event.die, s.event.region⟩
  let r := s.region id
  match r.swap, r.image with
  | some w, some old =>
    match w.image with
    | some im =>
      if r.status = .swapping then s.setRegion id { r with status := .running, gatedIn := false, swap := none, result := 1, swaps := r.swaps + 1 }
      else if r.status ≠ .closing ∨ w.closed = false ∨ s.regionIdle id r old = false then s
      else if r.holdsState old then s.setRegion id { r with status := .running, gatedIn := false, swap := none, result := 3 }
      else
        (s.writeVirtual id.die (s.regionDomain r) r.saveVa.toNat (swapArea old)).setRegion id
          { r with status := .swapping, clksel := w.clksel, image := some im, imageVa := w.va, elems := {}, links := {}, sealedIn := {}, sealedOut := {} }
    | none => s
  | _, _ => s

/-- REGION_SWAP_TIMEOUT: a region that is not idle after 2^20 of its clocks reopens (R339 steps 3 and 4). -/
def eventSwapTimeout (s : State) : State :=
  let id : RegionId := ⟨s.event.die, s.event.region⟩
  let r := s.region id
  match r.swap, r.image with
  | some w, some old =>
    if r.status = .closing ∧ w.closed ∧ w.since + regionCycles r.clksel (2 ^ 20) ≤ s.clock ∧ s.regionIdle id r old = false then
      s.setRegion id { r with status := .running, gatedIn := false, swap := none, result := 4 }
    else s
  | _, _ => s

/-! ## The events -/

/-- CHANNEL_PACKET_SEND. -/
def execChannelPacketSend (s : State) : Host.Outcome State Fault Refusal := .next (eventPacketSend s)
/-- CHANNEL_PACKET_ARRIVE. -/
def execChannelPacketArrive (s : State) : Host.Outcome State Fault Refusal := .next (eventPacketArrive s)
/-- CHANNEL_ACK. -/
def execChannelAck (s : State) : Host.Outcome State Fault Refusal := .next (eventAckChannel s)
/-- CHANNEL_OFF. -/
def execChannelOff (s : State) : Host.Outcome State Fault Refusal := .next (eventChannelOff s)
/-- CHANNEL_ON. -/
def execChannelOn (s : State) : Host.Outcome State Fault Refusal := .next (eventChannelOn s)
/-- REGION_OUTPUT_PORT_TAKE. -/
def execRegionOutputPortTake (s : State) : Host.Outcome State Fault Refusal := .next (eventPortTake s)
/-- SEALED_OPERATOR_FIRE. -/
def execSealedOperatorFire (s : State) : Host.Outcome State Fault Refusal := .next (eventSealedFire s)
/-- REGION_CONFIG_ERROR. -/
def execRegionConfigError (s : State) : Host.Outcome State Fault Refusal := .next (eventConfigError s)
/-- REGION_SWAP_IMAGE_CHECKED. -/
def execRegionSwapImageChecked (s : State) : Host.Outcome State Fault Refusal := .next (eventSwapChecked s)
/-- REGION_SWAP_IDLE. -/
def execRegionSwapIdle (s : State) : Host.Outcome State Fault Refusal := .next (eventSwapIdle s)
/-- REGION_SWAP_TIMEOUT. -/
def execRegionSwapTimeout (s : State) : Host.Outcome State Fault Refusal := .next (eventSwapTimeout s)

end Sys2Proof.Machine
end

