-- ==== Sys2Proof/Machine/Descriptors.lean ====
section
/-! DEFINITION. The tables of a load as its descriptor names them (R222, R223, R322, R329 to R331, R430), program headers and image
descriptors (R25, R26, R60, R400), and the checks of R224 that need no region image. -/

namespace Sys2Proof.Machine

/-! ## Tables -/

/-- A load's descriptor and the tables it names; a table that cannot be read is none. -/
structure Tables where
  d : List Word64
  grids : Option (List Word64)
  tiles : Option (List Word64)
  regions : Option (List Word64)
  chans : Option (List Word64)
  gangHead : Option (List Word64)
  members : Option (List Nat)

/-- Counts of a descriptor (R222). -/
def Tables.ngrid (t : Tables) : Nat := fld (dw t.d 0) 37 32
def Tables.ntile (t : Tables) : Nat := fld (dw t.d 0) 31 23
def Tables.nregion (t : Tables) : Nat := fld (dw t.d 0) 22 13
def Tables.nchan (t : Tables) : Nat := fld (dw t.d 0) 12 0
def Tables.lrcount (t : Tables) : Nat := fld (dw t.d 1) 31 15
/-- Address in doubleword k of a descriptor (R222). -/
def Tables.addr (t : Tables) (k : Nat) : Nat := fld (dw t.d k) 55 0

/-- The entries of a table of n doublewords each. -/
def tableEntries (n : Nat) (dws : Option (List Word64)) (count : Nat) : List (List Word64) :=
  match dws with
  | none => []
  | some l => (List.range count).map (fun i => (l.drop (n * i)).take n)

/-- Entries of the tables (R223, R322, R331). -/
def Tables.gridEntries (t : Tables) : List (List Word64) := tableEntries 2 t.grids t.ngrid
def Tables.tileEntries (t : Tables) : List Word64 := (t.tiles.getD []).take t.ntile
def Tables.regionEntries (t : Tables) : List (List Word64) := tableEntries 4 t.regions t.nregion
def Tables.chanEntries (t : Tables) : List (List Word64) := tableEntries 8 t.chans t.nchan

/-- A load's tables read through its domain (R221 preamble); none when the descriptor cannot be read. -/
def State.readTables (s : State) (l : LoadId) : Option Tables :=
  let x := s.load l
  let rd (va n : Nat) : Option (List Word64) := s.readDwords l.die x.domain va n
  match rd x.va.toNat 16 with
  | none => none
  | some d =>
    let t : Tables := { d := d, grids := none, tiles := none, regions := none, chans := none, gangHead := none, members := none }
    let head := if t.addr 7 = 0 then none else rd (t.addr 7) 8
    let nmemb := match head with | some h => fld (dw h 0) 51 44 + 1 | none => 0
    some { t with
      grids := rd (t.addr 3) (2 * t.ngrid), tiles := rd (t.addr 4) t.ntile, regions := rd (t.addr 5) (4 * t.nregion), chans := rd (t.addr 6) (8 * t.nchan)
      gangHead := head
      members := if nmemb = 0 then none else (s.readVirtual l.die x.domain (t.addr 7 + 64) nmemb).map (fun bs => bs.map (fun b => b.toNat)) }

/-- Whether a die is a member of a load by its tables: of the gang, or the queue's die alone (R222, R430). A gang descriptor that cannot
be read has a reason of its own (R224). -/
def Tables.isMember (t : Tables) (leader die : Nat) : Bool :=
  if t.addr 7 = 0 then die == leader else match t.members with | some m => m.contains die | none => true

/-- A tile entry (R223): tile and grid. -/
def tileOf (w : Word64) : TileId := ⟨fld w 63 56, fld w 55 51⟩
def tileGrid (w : Word64) : Nat := fld w 50 46

/-- The region that a region entry names (R322). -/
def regionOf (r : List Word64) : RegionId := ⟨fld (dw r 0) 63 56, fld (dw r 0) 55 50⟩

/-! ## Endpoints (R329) -/

def epDie (w : Word32) : Nat := fld w 31 24
def epKind (w : Word32) : Nat := fld w 23 22
def epIndex (w : Word32) : Nat := fld w 21 16
def epQtile (w : Word32) : Nat := fld w 15 11

/-- The port that an endpoint word names, as a source or as a destination. -/
def epPortOf (w : Word32) (out : Bool) : PortId :=
  ⟨epDie w, (match epKind w with | 0 => .tile | 1 => .region | _ => .streamer), epIndex w, out, fld w 3 0⟩

/-- Whether an endpoint word's fields are in range and its reserved bits zero. -/
def epOk (w : Word32) (out : Bool) : Bool :=
  fld w 10 4 == 0 &&
  (match epKind w with
    | 0 => decide (epIndex w < Config.tilesPerDie) && decide (fld w 3 0 < 8)
    | 1 => decide (epIndex w < Config.regionsPerDie) && decide (fld w 3 0 < 8)
    | 2 => decide (epIndex w < Config.tilesPerDie)
    | _ => false) &&
  (if epKind w = 1 ∧ out = false then decide (epQtile w < Config.tilesPerDie) else epQtile w == 0)

/-- The tile that holds a destination's backing queue (R334). -/
def epHome (w : Word32) : TileId := if epKind w = 1 then ⟨epDie w, epQtile w⟩ else ⟨epDie w, epIndex w⟩

/-! ## Channel entries (R331) -/

def chanStype (c : List Word64) : Word32 := (dw c 0).extractLsb' 32 32
def chanDtype (c : List Word64) : Word32 := (dw c 0).extractLsb' 0 32
def chanSrc (c : List Word64) : Word32 := (dw c 1).extractLsb' 32 32
def chanDepth (c : List Word64) : Nat := fld (dw c 6) 63 48
def chanOffth (c : List Word64) : Nat := fld (dw c 6) 47 32
def chanOnth (c : List Word64) : Nat := fld (dw c 6) 31 16
def chanNdst (c : List Word64) : Nat := fld (dw c 6) 12 10 + 1
/-- Destination word k. -/
def chanDst (c : List Word64) (k : Nat) : Word32 := (dw c (2 + k / 2)).extractLsb' (32 * (k % 2)) 32
def chanDsts (c : List Word64) : List Word32 := (List.range (chanNdst c)).map (chanDst c)
/-- Every endpoint of an entry, with its direction. -/
def chanEnds (c : List Word64) : List (Word32 × Bool) := (chanSrc c, true) :: (chanDsts c).map (fun w => (w, false))

/-- Round trip of a route in tile clocks (R335). -/
def roundTrip (a b : Nat) : Nat := 2 * (if a = b then 160 else if a / 8 = b / 8 then 440 else 1300) + 128

/-- Whether two type words may face each other across a channel (R332). -/
def typesConvert (st dt : Word32) : Bool :=
  st == dt || ([typeFmt st, typeFmt dt].all (fun f => f != 0 && f != 14))

/-- Bytes that a load's channels reserve on a tile (R208, R334). -/
def Tables.reservation (t : Tables) (tile : TileId) : Nat :=
  (t.chanEntries.map (fun c => ((chanDsts c).filter (fun w => epHome w == tile)).length * chanDepth c * 64)).sum

/-- Ports that a load's channels bind. -/
def Tables.ports (t : Tables) : List PortId := t.chanEntries.flatMap (fun c => (chanEnds c).map (fun e => epPortOf e.1 e.2))

/-- Whether a channel entry passes R335, for the tables it stands in. -/
def Tables.chanOk (t : Tables) (c : List Word64) : Bool :=
  let tiles := t.tileEntries.map tileOf
  let regions := t.regionEntries.map regionOf
  fld (dw c 1) 31 0 == 0 && fld (dw c 6) 9 0 == 0 && dw c 7 == 0 && decide (fld (dw c 6) 15 13 ≤ 5) &&
  (List.range 8).all (fun k => k < chanNdst c || chanDst c k == 0) &&
  typeOk (chanStype c) && typeOk (chanDtype c) && typesConvert (chanStype c) (chanDtype c) &&
  (chanEnds c).all (fun e => epOk e.1 e.2) &&
  decide (1 ≤ chanDepth c) && decide (chanDepth c ≤ 32768) && chanOffth c != 0 && decide (chanOnth c < chanOffth c) &&
  (chanDsts c).all (fun w => decide (chanOffth c + 2 * roundTrip (epDie (chanSrc c)) (epDie w) ≤ chanDepth c)) &&
  (chanDsts c).all (fun w => decide (t.reservation (epHome w) ≤ Config.tileMemBytes)) &&
  (chanEnds c).all (fun e => if epKind e.1 = 1 then regions.contains ⟨epDie e.1, epIndex e.1⟩ else tiles.contains ⟨epDie e.1, epIndex e.1⟩) &&
  (chanEnds c).all (fun e => (t.ports.filter (fun p => p == epPortOf e.1 e.2)).length == 1)

/-! ## Program headers and images -/

/-- The header and image descriptor that five doublewords hold (R25, R60). -/
def parseHeader (h : List Word64) : ProgHeader :=
  let a := dw h 0
  let b := dw h 1
  { aregs := 8 * (fld a 51 49 + 1), sregs := 8 * (fld a 48 46 + 1), vframe := fld a 45 35, masks := fld a 34 30, events := fld a 29 23
    accs := fld a 22 19, inports := a.extractLsb' 11 8, outports := a.extractLsb' 3 8, tilemem := fld b 63 52, astack := fld b 51 40
    sstack := fld b 39 28, nf0 := b.extractLsb' 22 6, nf1 := b.extractLsb' 16 6, nf2 := b.extractLsb' 10 6, nf3 := b.extractLsb' 4 6
    dawnEntry := dw h 2, duskEntry := dw h 3, ncarry := fld (dw h 4) 63 56, dataoff := fld (dw h 4) 55 24, datasize := fld (dw h 4) 23 0 }

/-- Whether an entry points at a section header of the image's streams (R26, R60). The manual gives an image no length: an entry lies wholly inside it
when it is readable, behind the carry sets and outside the data segment (DEDUCED, log entry 41). -/
def State.entryOk (s : State) (die : Nat) (domain : BitVec 8) (base : Nat) (h : ProgHeader) (e : Word64) : Bool :=
  e.toNat % 8 == 0 && decide (40 + 32 * h.ncarry ≤ e.toNat) && (decide (e.toNat + 8 ≤ h.dataoff) || decide (h.dataoff + h.datasize ≤ e.toNat)) &&
  (match s.readVirtual64 die domain (base + e.toNat) with
    | some x => fld x 63 60 == 9 || fld x 63 60 == 15
    | none => false)

/-- Whether a program header passes R26. -/
def State.programOk (s : State) (die : Nat) (domain : BitVec 8) (base : Nat) (dws : List Word64) : Bool :=
  let h := parseHeader dws
  fld (dw dws 0) 63 56 == 0xD7 && fld (dw dws 0) 55 52 == 1 && fld (dw dws 0) 2 0 == 0 && fld (dw dws 1) 3 0 == 0 &&
  h.vframe % 16 == 0 && decide (h.vframe ≤ 1024) && decide (h.masks ≤ 16) && decide (h.events ≤ 64) && decide (h.accs ≤ 8) &&
  decide (1 ≤ h.tilemem) && decide (h.tilemem ≤ 3072) && decide ((h.astack + h.sstack) * 256 ≤ h.tilemem * 4096) &&
  [h.nf0, h.nf1, h.nf2, h.nf3].all (fun c => c == 0 || nfValid c) &&
  s.entryOk die domain base h h.dawnEntry && s.entryOk die domain base h h.duskEntry

/-- Whether a carry-set entry is admitted (R400). -/
def carryOk (c : List Word64) : Bool :=
  fld (dw c 2) 7 0 == 0 && fld (dw c 3) 42 0 == 0 && decide (fld (dw c 3) 52 43 + fld (dw c 3) 63 53 ≤ 1024)

/-- Whether an image passes R60 and R400; a data segment that cannot be read extends beyond the image. -/
def State.imageOk (s : State) (die : Nat) (domain : BitVec 8) (base : Nat) (h : ProgHeader) : Bool :=
  decide (h.ncarry ≤ 64) && h.dataoff % 64 == 0 && (h.datasize != 0 || h.dataoff == 0) &&
  decide (h.datasize + (h.astack + h.sstack) * 256 ≤ h.tilemem * 4096) && (s.readVirtual die domain (base + h.dataoff) h.datasize).isSome &&
  (match s.readDwords die domain (base + 40) (4 * h.ncarry) with
    | some l => (List.range h.ncarry).all (fun i => carryOk ((l.drop (4 * i)).take 4))
    | none => false)

/-! ## Failures (R224) -/

/-- A reason and the index of the failing entry. -/
abbrev Failure := Nat × Nat

/-- A failure when a check does not hold. -/
def failUnless (ok : Bool) (reason entry : Nat) : List Failure := if ok then [] else [(reason, entry)]

/-- Failures of the entries of a table, in order. -/
def failEach {α : Type} (l : List α) (f : Nat → α → List Failure) : List Failure := l.zipIdx.flatMap (fun x => f x.2 x.1)

/-- The descriptor's own fields (R222): reason 0x01. -/
def Tables.headFailures (t : Tables) : List Failure :=
  failUnless (fld (dw t.d 0) 63 56 == 0xDA && fld (dw t.d 0) 55 52 == 1 && fld (dw t.d 1) 14 0 == 0 &&
    (List.range 6).all (fun k => fld (dw t.d (2 + k)) 63 56 == 0) && (List.range 8).all (fun k => dw t.d (8 + k) == 0) &&
    decide (1 ≤ t.ngrid) && decide (t.ngrid ≤ 32) && decide (1 ≤ t.ntile) && decide (t.ntile ≤ 256) && decide (t.nregion ≤ 384) &&
    decide (t.lrcount ≤ 65536) && decide (fld (dw t.d 0) 48 44 < t.ngrid) && decide (fld (dw t.d 0) 42 38 < t.ngrid) &&
    t.addr 2 % 64 == 0 && t.addr 3 % 16 == 0 && t.addr 4 % 8 == 0) 1 0

/-- The gang descriptor (R430): reasons 0x01 and 0x09, and 0x07 when it cannot be read. -/
def State.gangFailures (s : State) (t : Tables) (leader : Nat) : List Failure :=
  if t.addr 7 = 0 then []
  else
    match t.gangHead, t.members with
    | some h, some m =>
      failUnless (fld (dw h 0) 63 56 == 0xDB && fld (dw h 0) 55 52 == 1 && decide (1 ≤ fld (dw h 0) 51 44) && decide (12 ≤ fld (dw h 0) 43 39) &&
        decide (fld (dw h 0) 43 39 ≤ 30) && fld (dw h 0) 38 0 == 0 && fld (dw h 1) 63 56 == 0 && fld (dw h 1) 55 0 % 512 == 0 &&
        (List.range 6).all (fun k => dw h (2 + k) == 0) && decide m.Nodup && m.head? == some leader) 1 0 ++
      failEach m (fun i d => failUnless (s.diePresent d) 9 i)
    | _, _ => [(7, 0)]

/-- Entries of the grid and tile tables (R223), and dies outside the gang (R430): reason 0x01. -/
def Tables.entryFailures (t : Tables) (leader : Nat) : List Failure :=
  failEach t.gridEntries (fun i g => failUnless (fld (dw g 0) 63 56 == 0 && fld (dw g 0) 5 0 == 0 && fld (dw g 1) 31 0 == 0) 1 i) ++
  failEach t.tileEntries (fun i w => failUnless (fld w 45 0 == 0 && decide ((tileOf w).tile < Config.tilesPerDie) && decide (tileGrid w < t.ngrid) &&
    t.isMember leader (tileOf w).die && !((t.tileEntries.take i).map tileOf).contains (tileOf w)) 1 i) ++
  (if t.tiles.isSome then failEach (List.range t.ngrid) (fun i _ => failUnless (t.tileEntries.any (fun w => tileGrid w == i)) 1 i) else []) ++
  failEach t.regionEntries (fun i r => failUnless (t.isMember leader (regionOf r).die) 1 i) ++
  failEach t.chanEntries (fun i c => failUnless ((chanEnds c).all (fun e => t.isMember leader (epDie e.1))) 1 i)

/-- The programs of the grids (R26, R60, R210): reasons 0x02, 0x03 and 0x04, and 0x07 for an image that cannot be read. -/
def State.programFailures (s : State) (t : Tables) (l : LoadId) : List Failure :=
  let dom := (s.load l).domain
  failEach t.gridEntries (fun i g =>
    let base := fld (dw g 0) 55 0
    match s.readDwords l.die dom base 5 with
    | none => [(7, i)]
    | some h =>
      failUnless (s.programOk l.die dom base h) 2 i ++ failUnless (s.imageOk l.die dom base (parseHeader h)) 3 i ++
      failUnless (t.tileEntries.all (fun w => tileGrid w != i || decide ((parseHeader h).tilemem * 4096 + t.reservation (tileOf w) ≤ Config.tileMemBytes))) 4 i)

/-- Region entries (R321, R322): reason 0x05. -/
def Tables.regionFailures (t : Tables) : List Failure :=
  failEach t.regionEntries (fun i r =>
    failUnless (fld (dw r 0) 43 0 == 0 && fld (dw r 1) 63 56 == 0 && fld (dw r 2) 63 56 == 0 && dw r 3 == 0 && fld (dw r 1) 5 0 == 0 && fld (dw r 2) 5 0 == 0 &&
      decide ((regionOf r).region < Config.regionsPerDie) && decide (2 ≤ fld (dw r 0) 49 44) && decide (fld (dw r 0) 49 44 ≤ 32) &&
      !((t.regionEntries.take i).map regionOf).contains (regionOf r)) 5 i)

/-- The leaves of a range's 64 KiB blocks, when every one translates, has HOME 00 and PRES 0, and W where it is written (R225,
R249). -/
def State.pinArea (s : State) (die : Nat) (domain : BitVec 8) (va n : Nat) (written : Bool) : Option (List Part) :=
  (blocksOf va n).foldr (fun b acc =>
    match acc, s.walkTables die domain (b * 65536) with
    | some ps, .ok (e, lvl) =>
      if leafHome e = 0 ∧ leafPres e = false ∧ (written = false ∨ leafW e) ∧
          (s.checkPart e lvl (b * 65536) 8 .load domain false).isOk = true then some (⟨b, e, lvl⟩ :: ps) else none
    | _, _ => none) (some [])

/-- Whether a tile may take part in a load (R224, R449). -/
def State.tileUsable (s : State) (t : TileId) : Bool := s.diePresent t.die && s.tilePowered t

/-- Whether a region is powered (R449). -/
def State.regionPowered (s : State) (r : RegionId) : Bool := (s.die r.die).pwrreg.getLsbD r.region

/-- Channels, the layout-record table, privilege and power: reasons 0x06 to 0x09. -/
def State.lateFailures (s : State) (t : Tables) (l : LoadId) : List Failure :=
  failEach t.chanEntries (fun i c => failUnless (t.chanOk c) 6 i) ++
  failUnless (t.grids.isSome && t.tiles.isSome && t.regions.isSome && t.chans.isSome &&
    (s.pinArea l.die (s.load l).domain (t.addr 2) (64 * t.lrcount) false).isSome) 7 0 ++
  failUnless (!(dw t.d 0).getLsbD 51 || Config.queuePrivileged l.die l.queue) 8 0 ++
  failEach t.tileEntries (fun i w => failUnless (s.tileUsable (tileOf w)) 9 i) ++
  failEach t.regionEntries (fun i r => failUnless (s.diePresent (regionOf r).die && s.regionPowered (regionOf r)) 9 i) ++
  failEach t.chanEntries (fun i c => failUnless ((chanDsts c).all (fun w => s.tileUsable (epHome w))) 9 i)

/-- Every failure of a load's tables but those of its region images. -/
def State.failures (s : State) (t : Tables) (l : LoadId) : List Failure :=
  t.headFailures ++ s.gangFailures t l.die ++ t.entryFailures l.die ++ s.programFailures t l ++ t.regionFailures ++ s.lateFailures t l

/-- The failure that is recorded: the first in the order of the reasons (R224). -/
def firstFailure (fs : List Failure) : Option Failure :=
  fs.foldl (fun acc f => match acc with | some g => if f.1 < g.1 then some f else some g | none => some f) none

end Sys2Proof.Machine
end

