-- ==== Sys2Proof/Machine/Loads.lean ====
section
/-! DEFINITION. The scheduler's events: task creation and release (R208 to R212), graph queues and graphs (R218 to R221, R225, R229), and the
states of a load (R222 to R228). -/

namespace Sys2Proof.Machine

/-! ## Grants (R208) -/

/-- Tasks that occupy slots of a tile; a saved task keeps its grant. -/
def State.occupants (s : State) (t : TileId) : List Task :=
  ((List.range Config.slotsPerTile).map (fun k => s.task ⟨t.die, t.tile, k⟩)).filter (fun x => x.status ≠ .free)

/-- The lowest base at which `size` fits beside ranges (base, size) that are in use. Every range begins on the grain it is
granted on, so the lowest base is 0 or the end of a range. -/
def firstFit (used : List (Nat × Nat)) (size total : Nat) : Option Nat :=
  let live := used.filter (fun u => u.2 ≠ 0)
  let fits (b : Nat) : Bool := decide (b + size ≤ total) && live.all (fun u => decide (b + size ≤ u.1) || decide (u.1 + u.2 ≤ b))
  ((0 :: live.map (fun u => u.1 + u.2)).filter fits).min?

/-- Bytes that the channels of configured loads reserve on a tile, but for one load's (R208). -/
def State.reserved (s : State) (t : TileId) (but : Option LoadId) : Nat :=
  (s.chans.entries.map (fun e =>
    if some e.1.load = but then 0
    else (e.2.dests.filter (fun d => (match d.port.kind with | .region => decide ((⟨d.port.die, d.qtile⟩ : TileId) = t) | _ => decide ((⟨d.port.die, d.port.index⟩ : TileId) = t)))).length * e.2.depth * 64)).sum

/-- The grants of a task on a tile: bases of memory, vector frame and event counters, and accumulator tiles; none when one cannot be
given in full. -/
def State.grants (s : State) (t : TileId) (h : ProgHeader) : Option (Nat × Nat × Nat × List Nat) :=
  let os := s.occupants t
  let accs := (List.range 8).filter (fun a => os.all (fun o => !o.accTiles.contains a))
  match firstFit (os.map (fun o => (o.tmBase, o.tmSize))) (h.tilemem * 4096) (Config.tileMemBytes - s.reserved t none),
        firstFit (os.map (fun o => (o.vBase, o.hdr.vframe))) h.vframe 1024, firstFit (os.map (fun o => (o.evBase, o.hdr.events))) h.events Config.countersPerTile with
  | some m, some v, some e =>
    if h.accs ≤ accs.length ∧ os.all (fun o => o.hdr.inports &&& h.inports == 0 && o.hdr.outports &&& h.outports == 0) then some (m, v, e, accs.take h.accs) else none
  | _, _, _ => none

/-- The lowest-numbered free slot of a tile (R209). -/
def State.freeSlot (s : State) (t : TileId) : Option TaskId :=
  ((List.range Config.slotsPerTile).map (fun k => (⟨t.die, t.tile, k⟩ : TaskId))).find? (fun i => (s.task i).status == .free)

/-! ## Creating a task (R209) -/

/-- A strand as task creation leaves it: Ready at its entry, its stack pointer at the stack's base (R9, R27, R30). -/
def newStrand (t : Task) (c : CoreId) : Strand :=
  let top := t.tmBase + t.tmSize
  let mid := top - t.hdr.sstack * 256
  let stack : Nat × Nat := match c with | .dusk => (top, mid) | .dawn => (mid, mid - t.hdr.astack * 256)
  { status := .ready, regs := ⟨[(30, toWidth c stack.1)]⟩, pc := t.entry c, atHeader := true, stkbase := BitVec.ofNat 64 stack.1, stklim := BitVec.ofNat 64 stack.2 }

/-- The allocation of a new task: the data segment, then zeros (R61). -/
def State.fillMemory (s : State) (t : TileId) (base size : Nat) (data : List Byte) : State :=
  let lo := tilePa t base
  { s with mem := Memory.writeBytes (Memory.clear s.mem lo (lo + size)) lo data
           damaged := s.damaged.filter (fun a => decide (a < lo) || decide (lo + size ≤ a)) }

/-- A task created on a tile for an index of a grid (R209); none when the tile cannot create it. -/
def State.createTask (s : State) (l : LoadId) (grid : Nat) (tile : TileId) : Option State :=
  let g := (s.load l).grids.getD grid {}
  match s.freeSlot tile, s.grants tile g.hdr, s.readVirtual l.die (s.load l).domain (g.base.toNat + g.hdr.dataoff) g.hdr.datasize with
  | some i, some (m, v, e, accs), some data =>
    let t : Task :=
      { status := .running, load := l, grid := grid, group := g.next, image := g.base, hdr := g.hdr
        startAt := s.clock + 16 + (g.hdr.datasize + 4095) / 4096, tmBase := m, vBase := v, evBase := e, accTiles := accs
        nf := ⟨[(0, g.hdr.nf0), (1, g.hdr.nf1), (2, g.hdr.nf2), (3, g.hdr.nf3)]⟩ }
    let s1 := (s.fillMemory tile m t.tmSize data).setTask i t
    let s2 := (s1.setStrand (i.strand .dawn) (newStrand t .dawn)).setStrand (i.strand .dusk) (newStrand t .dusk)
    some (s2.updTile tile (fun x =>
      { x with seracLast := x.seracLast.erase i.slot, moraineLast := x.moraineLast.erase i.slot
               events := (List.range g.hdr.events).foldl (fun a k => a.set (e + k) 0) x.events, clockGated := false, busyAt := s.clock }))
  | _, _, _ => none

/-! ## Dispatch (R210) -/

/-- Whether a load's part on a die is Running: the whole load, or the member that has acted (R226, R431). -/
def Load.runsOn (l : Load) (die : Nat) : Bool :=
  l.status == .running || (match l.gang with | some g => g.kind == .start && g.acted.contains die && l.status == .armed | none => false)

/-- Whether a load places indices: no stop, exit or pre-emption holds it back. -/
def Load.dispatches (l : Load) : Bool := !l.stopping && !l.exiting && l.gating.isEmpty

/-- Whether a tile may take an index of a load: powered, not halted, and no task of another graph on it (R226, R396, R449). -/
def State.mayTake (s : State) (l : LoadId) (t : TileId) : Bool :=
  s.tilePowered t && !(s.die t.die).tilehalt.getLsbD t.tile && (s.load l).runsOn t.die &&
  (s.occupants t).all (fun o => o.load.die == l.die && o.load.queue == l.queue)

/-- The tiles of a grid in the order of the next offer (R210). -/
def Load.offerOrder (l : Load) (grid : Nat) : List (Nat × TileId) :=
  let ts := (l.tiles.filter (fun e => e.grid == grid)).map TileEntry.tile
  let n := ts.length
  let r := (l.grids.getD grid {}).rr
  (List.range n).filterMap (fun j => (ts[(r + j) % n]?).map (fun t => ((r + j) % n, t)))

/-- The first tile able to take a grid's next index, with its position (R210). -/
def State.taker (s : State) (l : LoadId) (grid : Nat) : Option (Nat × TileId) :=
  let x := s.load l
  let g := x.grids.getD grid {}
  if x.dispatches ∧ g.next.toNat < g.count.toNat then
    (x.offerOrder grid).find? (fun p => s.mayTake l p.2 && (s.freeSlot p.2).isSome && (s.grants p.2 g.hdr).isSome)
  else none

/-- Steps from a turn's last taker to a number, the smaller the earlier its turn (R210, R220). -/
def turnDistance (last k n : Nat) : Nat := (k + n - last - 1) % n

/-- Whether another grid's offer to the same tile goes first: by priority of its queue, then by turn of queue and of grid (R210, R220). -/
def State.goesFirst (s : State) (a : LoadId × Nat) (b : LoadId × Nat) : Bool :=
  let pa := (s.queue ⟨a.1.die, a.1.queue⟩).prio.toNat
  let pb := (s.queue ⟨b.1.die, b.1.queue⟩).prio.toNat
  let d := s.die b.1.die
  let qa := turnDistance d.queueTurn a.1.queue Config.queuesPerDie
  let qb := turnDistance d.queueTurn b.1.queue Config.queuesPerDie
  decide (pb < pa) || (pa == pb && (decide (qa < qb) || (qa == qb &&
    decide (turnDistance d.gridTurn (32 * a.1.load + a.2) 8192 < turnDistance d.gridTurn (32 * b.1.load + b.2) 8192))))

/-- GRID_DISPATCH of a grid's next index (R209, R210, R212). -/
def eventGridDispatch (s : State) : State :=
  let l := s.event.load
  let grid := s.event.grid
  match s.taker l grid with
  | none => s
  | some (pos, tile) =>
    let rivals := s.loads.entries.flatMap (fun e => ((List.range e.2.grids.length).map (fun k => (e.1, k))).filter (fun r =>
      decide (r ≠ (l, grid)) && (match s.taker r.1 r.2 with | some p => decide (p.2 = tile) | none => false)))
    if rivals.any (fun r => s.goesFirst r (l, grid)) then s
    else
      match s.createTask l grid tile with
      | none => s
      | some t =>
        (t.updLoad l (fun x => { x with grids := listSet x.grids grid (fun g => { g with next := g.next + 1, rr := pos + 1 }) })).updDie l.die
          (fun d => { d with queueTurn := l.queue, gridTurn := 32 * l.load + grid })

/-- TASK_STRANDS_START: both strands become able to issue (R209). -/
def eventStrandsStart (s : State) : State :=
  let i := s.event.who.task
  let t := s.task i
  if t.status = .running ∧ t.started = false ∧ t.startAt ≤ s.clock then s.setTask i { t with started := true } else s

/-! ## The end of a task (R31, R212) -/

/-- The counts of a Done task in its load (R212, R227). -/
def Load.countDone (l : Load) (t : Task) : Load :=
  let n := if l.trigv ∧ t.grid = l.trigg then l.trigDone + 1 else l.trigDone
  { l with tasksDone := l.tasksDone + 1, discarded := l.discarded + BitVec.ofNat 32 t.discarded
           firstDisc := if t.discarded ≠ 0 ∧ l.firstDisc = 0xFFFFFFFF then t.group else l.firstDisc
           trigDone := n, trigRisen := l.trigRisen || (l.trigv && t.grid == l.trigg && n == l.trigcnt) }

/-- Whether no record of a task's strands waits for its answer: until then the task stays Draining (R34). -/
def State.answeredAll (s : State) (i : TaskId) : Bool :=
  [CoreId.dawn, CoreId.dusk].all (fun c => (s.strand (i.strand c)).fault.isNone && (s.strand (i.strand c)).waiting.isEmpty)

/-- TASK_DONE of a Draining task whose commands have completed, and that has no push pending and no record unanswered (R31,
R34, R212). -/
def eventTaskDone (s : State) : State :=
  let i := s.event.who.task
  let t := s.task i
  if t.status = .draining ∧ s.answeredAll i ∧ t.serac.queue.isEmpty ∧ t.moraine.queue.isEmpty ∧ t.serac.pending.isEmpty ∧ t.moraine.pending.isEmpty then
    (s.setTask i { t with status := .done }).updLoad t.load (fun l => l.countDone t)
  else s

/-- Whether nothing that a task has sent is still on its way: accesses and raises. -/
def State.drained (s : State) (i : TaskId) : Bool :=
  !s.net.any (fun a => decide (a.who.task = i)) && !s.raises.any (fun r => decide (r.who.task = i))

/-- What a Done task has left on its way when its slot is freed, which a later task in the slot knows nothing of: its accesses are still
performed, and a GRAISE still applied, but no result of them is delivered. -/
def State.leaveBehind (s : State) (i : TaskId) : State :=
  let t := s.task i
  { s with net := s.net.map (fun a => if a.who.task = i ∧ a.left.isNone then { a with left := some (t.load, t.grid, t.group), dest := none, sources := [] } else a)
           raises := s.raises.map (fun r => if r.who.task = i then { r with dest := .imm 0 } else r) }

/-- TASK_SLOT_FREE (R31, R212): a Done task's slot is free once it has been counted, a Killed one's once its accesses have drained; its
grants are released and nothing of it survives. -/
def eventSlotFree (s : State) : State :=
  let i := s.event.who.task
  let t := s.task i
  if t.status = .done ∨ (t.status = .killed ∧ s.drained i) then
    { s.leaveBehind i with tasks := s.tasks.erase i, strands := (s.strands.erase (i.strand .dawn)).erase (i.strand .dusk) }.updTile i.tileId (fun x => { x with busyAt := s.clock })
  else s

/-! ## Graph queues (R218 to R220) -/

/-- Loads of a graph by index. -/
def graphLoad (q : QueueId) (k : Nat) : LoadId := ⟨q.die, q.queue, k⟩

/-- The graph reaches load 0 once the wait of WVALID is met (R220). -/
def State.reachFirst (s : State) (q : QueueId) (g : Graph) : State :=
  let done := (s.queue ⟨q.die, g.waitq⟩).completed
  if g.wvalid = false ∨ (done - g.waitcnt).msb = false then
    (s.updQueue q (fun r => { r with graph := some { g with started := true } })).updLoad (graphLoad q 0) (fun l => if l.status = .queued then { l with status := .configuring } else l)
  else s

/-- Whether an entry's reserved fields are zero (R219). -/
def entryClean (e : List Word64) : Bool :=
  fld (dw e 0) 63 56 == 0 && fld (dw e 1) 62 60 == 0 && fld (dw e 1) 47 1 == 0 && fld (dw e 2) 31 0 == 0 && dw e 3 == 0

/-- Whether a graph descriptor's own fields are admitted (R221). -/
def graphClean (va : Nat) (h : List Word64) : Bool :=
  va % 64 == 0 && fld (dw h 0) 63 56 == 0xD9 && fld (dw h 0) 55 52 == 1 && fld (dw h 0) 43 0 == 0 && fld (dw h 1) 63 56 == 0 && fld (dw h 1) 5 0 == 0 &&
  (List.range 6).all (fun k => dw h (2 + k) == 0)

/-- The loads of a graph listed as Queued; one that is refused already carries its reason (R219, R221). -/
def State.listLoads (s : State) (q : QueueId) (domain : BitVec 8) (vas : List Word64) (bad : Option Failure) : State :=
  vas.zipIdx.foldl (fun x e =>
    let f : Option Failure := if e.2 = 0 ∧ bad.isSome then bad else if fld e.1 63 56 ≠ 0 ∨ fld e.1 6 0 ≠ 0 then some (1, 0) else none
    x.setLoad (graphLoad q e.2) { va := BitVec.ofNat 64 (fld e.1 55 0), domain := domain, reason := (f.getD (0, 0)).1, entry := (f.getD (0, 0)).2 }) s

/-- The next entry of a queue read, and with it its graph descriptor (R219, R221). -/
def State.readEntry (s : State) (q : QueueId) : State :=
  let r := s.queue q
  let dom := s.queueDomain q.die q.queue
  let e := s.readDwords q.die dom (r.base.toNat + 32 * (r.head.toNat % 2 ^ r.logsize.toNat)) 4
  let va := match e with | some e => fld (dw e 0) 55 0 | none => 0
  let clean := match e with | some e => entryClean e | none => true
  let h := match e with | some _ => s.readDwords q.die dom va 8 | none => none
  let n := match h with | some h => fld (dw h 0) 51 44 + 1 | none => 1
  let vas := match h with | some _ => s.readDwords q.die dom (va + 64) n | none => none
  let irq := match e with | some e => (dw e 1).getLsbD 0 | none => false
  let waits := match e with | some e => clean && (dw e 1).getLsbD 63 | none => false
  let g : Graph := match h, vas with
    | some h, some _ =>
      { va := BitVec.ofNat 64 va, nloads := n, loadVas := vas.getD [], statusVa := BitVec.ofNat 64 (fld (dw h 1) 55 0), irq := irq, wvalid := waits
        waitq := fld (dw (e.getD []) 1) 59 48, waitcnt := (dw (e.getD []) 2).extractLsb' 32 32, records := fld (dw h 1) 5 0 == 0 }
    | _, _ => { va := BitVec.ofNat 64 va, nloads := 1, loadVas := [0], statusVa := 0, irq := irq, wvalid := waits, waitq := fld (dw (e.getD []) 1) 59 48
                waitcnt := (dw (e.getD []) 2).extractLsb' 32 32, records := false }
  let bad : Option Failure := match h, vas with
    | some h, some _ => if clean = false then some (1, 0xFFFF) else if graphClean va h = false then some (1, 0) else none
    | _, _ => some (7, 0)
  ((s.updQueue q (fun x => { x with head := x.head + 1, graph := some g })).listLoads q dom g.loadVas bad).reachFirst q g

/-- GRAPH_ENTRY_READ of a queue: the next entry, or the wait of the entry read last (R219, R220). -/
def eventEntryRead (s : State) : State :=
  let q : QueueId := ⟨s.event.die, s.event.queue⟩
  let r := s.queue q
  match r.graph with
  | some g => if g.started then s else s.reachFirst q g
  | none => if r.enable ∧ r.head ≠ r.tail then s.readEntry q else s

/-! ## Final states -/

/-- A region released by its load (R325). -/
def State.freeRegion (s : State) (i : RegionId) (r : Region) : Region :=
  { status := if s.regionPowered i then .empty else .gated, result := r.result, swaps := r.swaps, clksel := r.clksel, swapAddr := r.swapAddr }

/-- A load's regions, channels and ports released (R226, R325, R403 step 6). -/
def State.vacate (s : State) (l : LoadId) : State :=
  { s with
    regions := s.regions.mapVals (fun i r => if r.load = some l then s.freeRegion i r else r)
    ports := s.ports.mapVals (fun _ p => match p.chan with | some c => if c.load = l then { p with chan := none, dest := 0 } else p | none => p)
    chans := ⟨s.chans.entries.filter (fun e => e.1.load ≠ l)⟩ }

/-- What a load held released as it ends, and its layout records dropped (R226, R250, R325). -/
def State.release (s : State) (l : LoadId) : State :=
  let t := s.vacate l
  { t with tiles := t.tiles.mapVals (fun _ x => { x with lcache := x.lcache.filter (fun e => e.load ≠ l) }) }

/-- A load that enters a final state (R226): what it held is released, its entries are answered (R380), and after a Refused or Stopped one the
Queued loads of its graph are Skipped. -/
def State.finish (s : State) (l : LoadId) (st : LoadStatus) : State :=
  let s1 := ((s.updLoad l (fun x => { x with status := st, trigRisen := true, stopping := false, gang := x.gang.map (fun g => { g with phase := 0 }) })).release l).answerLoad l
  if st = .refused ∨ st = .stopped then
    { s1 with loads := s1.loads.mapVals (fun i x =>
        if i.die = l.die ∧ i.queue = l.queue ∧ l.load < i.load ∧ x.status = .queued then { x with status := .skipped } else x) }
  else s1

/-- A load refused for a reason (R224). -/
def State.refuse (s : State) (l : LoadId) (f : Failure) : State := (s.updLoad l (fun x => { x with reason := f.1, entry := f.2 })).finish l .refused

/-! ## Configuring (R224 to R226) -/

/-- Whether a port is held by a channel of another load (R226). -/
def State.portHeld (s : State) (l : LoadId) (p : PortId) : Bool := match (s.port p).chan with | some c => decide (c.load ≠ l) | none => false

/-- Whether a region is held by another load (R226). -/
def State.regionTaken (s : State) (l : LoadId) (r : RegionId) : Bool := match (s.region r).load with | some k => decide (k ≠ l) | none => false

/-- Whether a load's reservation fits a tile beside the other loads' and the tasks placed there (R208). -/
def State.reservationFits (s : State) (l : LoadId) (t : Tables) (tile : TileId) : Bool :=
  let top := ((s.occupants tile).map (fun o => o.tmBase + o.tmSize)).foldl max 0
  decide (top + s.reserved tile (some l) + t.reservation tile ≤ Config.tileMemBytes)

/-- Whether what a load configures is free (R226). -/
def State.free (s : State) (l : LoadId) (t : Tables) : Bool :=
  t.regionEntries.all (fun r => !s.regionTaken l (regionOf r)) && t.ports.all (fun p => !s.portHeld l p) &&
  (t.chanEntries.flatMap chanDsts).all (fun w => t.reservation (epHome w) == 0 || s.reservationFits l t (epHome w))

/-- Whether two loads want a region or port in common, or more tile memory than a tile has left for both (R208, R220). -/
def State.overlaps (s : State) (a b : Tables) : Bool :=
  let homes (t : Tables) : List TileId := (t.chanEntries.flatMap chanDsts).map epHome
  a.regionEntries.any (fun r => (b.regionEntries.map regionOf).contains (regionOf r)) || a.ports.any (fun p => b.ports.contains p) ||
  (homes a).any (fun t => (homes b).contains t &&
    decide (Config.tileMemBytes < ((s.occupants t).map (fun o => o.tmBase + o.tmSize)).foldl max 0 + s.reserved t none + a.reservation t + b.reservation t))

/-- Whether another queue's Configuring load takes a freed resource before this one (R220). -/
def State.outranked (s : State) (l : LoadId) (t : Tables) : Bool :=
  s.loads.entries.any (fun e =>
    e.2.status == .configuring && decide (e.1.die = l.die) && decide (e.1.queue ≠ l.queue) && e.2.reason == 0 && s.goesFirst (e.1, 0) (l, 0) &&
    (match s.readTables e.1 with | some u => s.overlaps u t && s.free e.1 u | none => false))

/-- The gang of a load's tables (R430). -/
def Tables.gangOf (t : Tables) : Option Gang :=
  match t.gangHead, t.members with
  | some h, some m => some { members := m, logwin := fld (dw h 0) 43 39, report := BitVec.ofNat 64 (fld (dw h 1) 55 0) }
  | _, _ => none

/-- A grid of a load's tables (R210, R223). -/
def State.gridOf (s : State) (l : LoadId) (g : List Word64) : Grid :=
  let base := fld (dw g 0) 55 0
  let rd (va n : Nat) : List Word64 := (s.readDwords l.die (s.load l).domain va n).getD []
  let h := parseHeader (rd base 5)
  let sets := rd (base + 40) (4 * h.ncarry)
  { base := BitVec.ofNat 64 base, count := (dw g 1).extractLsb' 32 32
    hdr := { h with carry := (List.range h.ncarry).map (fun i => (sets.drop (4 * i)).take 4) } }

/-- A channel as set-up leaves it (R331, R335). -/
def channelOf (c : List Word64) : Channel :=
  { stype := chanStype c, dtype := chanDtype c, src := epPortOf (chanSrc c) true, depth := chanDepth c, offth := chanOffth c, onth := chanOnth c
    cmode := (dw c 6).extractLsb' 13 3, dests := (chanDsts c).map (fun w => { port := epPortOf w false, qtile := epQtile w }) }

/-- A port as route set-up leaves it (R331): bound, its counts, scale register and scale status word afresh. -/
def Port.bind (p : Port) (c : ChanId) (dest : Nat) : Port :=
  { p with chan := some c, dest := dest, scale := 0x7F, count := 0, moved := 0, status := 0, sclCount := 0 }

/-- One channel of a load set up (R331). -/
def State.bindChannel (s : State) (id : ChanId) (c : List Word64) : State :=
  (chanDsts c).zipIdx.foldl (fun x w => x.updPort (epPortOf w.1 false) (fun p => p.bind id w.2))
    ((s.setChan id (channelOf c)).updPort (epPortOf (chanSrc c) true) (fun p => p.bind id 0))

/-- A load's queue has taken a resource: the round of the queues goes on from it (R220, R230). -/
def State.takesTurn (s : State) (l : LoadId) : State := s.updDie l.die (fun d => { d with queueTurn := l.queue })

/-- The load's tables taken into it: Armed (R226). -/
def State.arm (s : State) (l : LoadId) (t : Tables) : State :=
  let x := s.load l
  let y : Load :=
    { x with status := .armed, priv := (dw t.d 0).getLsbD 51, startTrig := (dw t.d 0).getLsbD 50, trigv := (dw t.d 0).getLsbD 49, trigg := fld (dw t.d 0) 48 44
             trigcnt := fld (dw t.d 1) 63 32, exitv := (dw t.d 0).getLsbD 43, exitg := fld (dw t.d 0) 42 38
             lrtab := BitVec.ofNat 64 (t.addr 2), lrcount := t.lrcount, lrparts := (s.pinArea l.die x.domain (t.addr 2) (64 * t.lrcount) false).getD []
             grids := t.gridEntries.map (s.gridOf l), tiles := t.tileEntries.map (fun w => ⟨tileOf w, tileGrid w⟩), nchan := t.nchan, gang := t.gangOf }
  t.chanEntries.zipIdx.foldl (fun a c => a.bindChannel ⟨l, c.2⟩ c.1) ((s.setLoad l y).takesTurn l)

/-- Regions that a load names move to Fetching (R325). -/
def State.fetchRegions (s : State) (l : LoadId) (t : Tables) : State :=
  let es := t.regionEntries.map (fun r => (⟨regionOf r, fld (dw r 0) 49 44, BitVec.ofNat 64 (fld (dw r 1) 55 0), BitVec.ofNat 64 (fld (dw r 2) 55 0)⟩ : RegionEntry))
  es.zipIdx.foldl (fun a e => a.updRegion e.1.region (fun r =>
    if r.load = some l then r
    else { r with status := if r.status = .empty then .fetching else r.status, load := some l, entry := e.2, clksel := e.1.clksel, imageVa := e.1.imageVa
                  saveVa := e.1.saveVa, verified := false })) ((s.updLoad l (fun x => { x with regions := es })).takesTurn l)

/-- The record area of a graph is translated when load 0 is configured (R225): what it pins, or none when no record can be written. -/
def State.pinRecords (s : State) (l : LoadId) : State × Bool :=
  let q : QueueId := ⟨l.die, l.queue⟩
  match (s.queue q).graph with
  | some g =>
    if l.load = 0 ∧ g.records ∧ g.parts = [] then
      match s.pinArea l.die (s.load l).domain g.statusVa.toNat (64 * g.nloads) true with
      | some ps => (s.updQueue q (fun r => { r with graph := some { g with parts := ps } }), true)
      | none => (s.updQueue q (fun r => { r with graph := some { g with records := false } }), false)
    else (s, true)
  | none => (s, true)

/-- LOAD_CONFIGURE of a Configuring load: its record area and tables are checked, its regions fetched, and, once their images are
verified, it is Armed; or it is refused, or waits for what an earlier load holds (R224 to R226). -/
def eventLoadConfigure (s : State) : State :=
  let l := s.event.load
  let x := s.load l
  if x.status ≠ .configuring ∨ x.stopping then s
  else
    let (s1, recorded) := s.pinRecords l
    if x.reason ≠ 0 then s1.refuse l (x.reason, x.entry)
    else if recorded = false then s1.refuse l (7, 0)
    else
      match s1.readTables l with
      | none => s1.refuse l (7, 0)
      | some t =>
        let fs := s1.failures t l
        match firstFailure fs with
        | some f =>
          if f.1 ≤ 5 ∨ t.regionEntries = [] then s1.refuse l f
          else if s1.free l t = false ∨ s1.outranked l t then s1
          else if t.regionEntries.all (fun r => (s1.region (regionOf r)).load == some l && (s1.region (regionOf r)).verified) then s1.refuse l f
          else s1.fetchRegions l t
        | none =>
          if s1.free l t = false ∨ s1.outranked l t then s1
          else if t.regionEntries.all (fun r => (s1.region (regionOf r)).load == some l && (s1.region (regionOf r)).verified) then s1.arm l t
          else s1.fetchRegions l t

/-- Type words that a load's channel table presents at region ports (R324). -/
def Tables.types (t : Tables) (p : PortId) : Option Word32 :=
  (t.chanEntries.find? (fun c => (chanEnds c).any (fun e => decide (epPortOf e.1 e.2 = p)))).map (fun c => if p.out then chanStype c else chanDtype c)

/-- REGION_IMAGE_VERIFIED of a region whose image has been fetched: configured from staging, or its load is refused (R324, R325). -/
def eventImageVerified (s : State) : State :=
  let id : RegionId := ⟨s.event.die, s.event.region⟩
  let r := s.region id
  match r.load with
  | none => s
  | some l =>
    if (s.load l).status ≠ .configuring ∨ r.verified then s
    else
      match s.readTables l with
      | none => s.refuse l (7, 0)
      | some t =>
        match s.acceptImage t.types id (s.load l).domain r.imageVa.toNat r.clksel with
        | some im => s.setRegion id { r with image := some im, verified := true, status := if r.status = .fetching then .loaded else r.status }
        | none => s.refuse l (5, r.entry)

/-! ## Starting (R227) -/

/-- Whether a load's start condition holds (R227). -/
def State.startReady (s : State) (l : LoadId) : Bool :=
  let p := s.load ⟨l.die, l.queue, l.load - 1⟩
  l.load == 0 ||
  (if (s.load l).startTrig ∧ p.trigv then
    (p.trigRisen || p.status.final) &&
    !s.net.any (fun a => match a.left with
      | some x => x.1 == ⟨l.die, l.queue, l.load - 1⟩ && x.2.1 == p.trigg && a.kind.storesData && a.stage != .done
      | none => (s.task a.who.task).load == ⟨l.die, l.queue, l.load - 1⟩ && (s.task a.who.task).grid == p.trigg && (s.task a.who.task).status == .done)
  else p.status.final)

/-- COUNT of a load's grids, read from its grid entries as it starts (R210). -/
def State.loadCounts (s : State) (l : LoadId) : State :=
  match s.readTables l with
  | some t =>
    let put (g : Grid × Nat) : Grid := match t.gridEntries[g.2]? with | some w => { g.1 with count := (dw w 1).extractLsb' 32 32 } | none => g.1
    s.updLoad l (fun x => { x with grids := x.grids.zipIdx.map put })
  | none => s

/-- A load enters Running (R226): its regions run, and the next load of its graph is reached. -/
def State.startLoad (s : State) (l : LoadId) : State :=
  let s1 := s.updLoad l (fun x => { x with status := .running, trigRisen := x.trigRisen || (x.trigv && x.trigcnt == 0) })
  let s2 := { s1 with regions := s1.regions.mapVals (fun _ r => if r.load = some l ∧ r.status = RegionStatus.loaded then { r with status := .running } else r) }
  let n : LoadId := ⟨l.die, l.queue, l.load + 1⟩
  match (s2.queue ⟨l.die, l.queue⟩).graph with
  | some g => if l.load + 1 < g.nloads ∧ (s2.load n).status = LoadStatus.queued then s2.updLoad n (fun x => { x with status := .configuring }) else s2
  | none => s2

/-- LOAD_START of an Armed load on one die; a gang starts by arm-then-commit (R227, R431). -/
def eventLoadStart (s : State) : State :=
  let l := s.event.load
  let x := s.load l
  if x.status = .armed ∧ x.gang = none ∧ x.stopping = false ∧ x.gating = [] ∧ s.startReady l then (s.loadCounts l).startLoad l else s

/-! ## Ending (R228) -/

/-- Whether a grid is complete (R211). -/
def State.gridComplete (s : State) (l : LoadId) (k : Nat) : Bool :=
  let g := (s.load l).grids.getD k {}
  decide (g.count.toNat ≤ g.next.toNat) && !s.tasks.entries.any (fun e => e.2.status ≠ .free && e.2.load == l && e.2.grid == k) &&
  !s.raises.any (fun r => r.load == l && r.grid == k)

/-- Whether a channel's beats are all end-of-stream tokens (R228, R337). -/
def Channel.quiet (c : Channel) : Bool :=
  c.outq.all (fun b => onlyEos b.toks) && c.waiting.all (fun b => onlyEos b.toks) && c.unacked.all (fun p => onlyEos p.beat.toks) &&
  c.dests.all (fun d => onlyEos d.toks && d.early.all (fun e => onlyEos e.2.toks))

/-- Whether a region holds no token in flight (R228). -/
def Region.quiet (r : Region) : Bool := match r.image with | some im => r.idle im | none => true

/-- Whether a load's task slots are free and every write that its tasks left behind has been performed (R228, R386). -/
def State.settled (s : State) (l : LoadId) : Bool :=
  !s.tasks.entries.any (fun e => e.2.status ≠ .free && e.2.load == l) &&
  !s.net.any (fun a => match a.left with | some x => x.1 == l && a.kind.storesData && a.stage != .done | none => false)

/-- Whether the earlier loads of a graph are final (R226). -/
def State.earlierFinal (s : State) (l : LoadId) : Bool :=
  (List.range l.load).all (fun k => (s.load ⟨l.die, l.queue, k⟩).status.final)

/-- LOAD_COMPLETE (R226, R228). -/
def eventLoadComplete (s : State) : State :=
  let l := s.event.load
  let x := s.load l
  if x.status = .running ∧ x.exitv = false ∧ x.stopping = false ∧ x.gating = [] ∧ s.earlierFinal l ∧ (List.range x.grids.length).all (s.gridComplete l) = true ∧ s.settled l ∧
      s.chans.entries.all (fun e => decide (e.1.load ≠ l) || e.2.quiet) = true ∧
      s.regions.entries.all (fun e => decide (e.2.load ≠ some l) || e.2.quiet) = true then
    s.finish l .complete
  else s

/-- LOAD_EXIT: once its exit grid is complete the load closes, and once that has drained it is Exited (R226, R228). -/
def eventLoadExit (s : State) : State :=
  let l := s.event.load
  let x := s.load l
  if x.status ≠ .running ∨ x.exitv = false ∨ x.stopping ∨ x.gating ≠ [] then s
  else
    let s1 := if x.exiting = false ∧ s.gridComplete l x.exitg then (s.updLoad l (fun y => { y with exiting := true })).closeLoad l else s
    if (s1.load l).exiting ∧ s1.settled l ∧ s1.earlierFinal l then s1.finish l .exited else s1

/-! ## Completing a graph (R225, R229) -/

/-- STATE of a completion record (R225). -/
def LoadStatus.code : LoadStatus → Nat
  | .complete => 1
  | .refused => 2
  | .stopped => 3
  | .exited => 4
  | _ => 0

/-- A load's completion record (R225). -/
def Load.completion (l : Load) : List Word64 :=
  let stopped := l.status == .stopped
  let named := stopped || l.status == .refused
  [BitVec.ofNat 64 (l.status.code * 2 ^ 56 + (if named then l.reason % 256 else 0) * 2 ^ 48 + (if l.status = .refused then l.entry % 65536 else 0) * 2 ^ 32),
   BitVec.ofNat 64 (l.tasksDone.toNat * 2 ^ 32 + l.tasksKilled.toNat), BitVec.ofNat 64 (l.discarded.toNat * 2 ^ 32 + l.firstDisc.toNat), 0] ++
  (if stopped then [l.record.dw0, l.record.dw1, l.record.dw2, l.record.dw3] else [0, 0, 0, 0])

/-- Bytes of a granule written through pinned translations (R225, R246). -/
def State.writePinned (s : State) (ps : List Part) (va : Nat) (bs : List Byte) : State :=
  match ps.find? (fun p => p.block == va / 65536) with
  | some p => (s.writePa (leafPa p.leaf p.level va) bs (leafKey p.leaf)).repair (leafPa p.leaf p.level va) bs.length
  | none => s

/-- GRAPH_COMPLETE of a graph whose loads are all final (R225, R226, R229). -/
def eventGraphComplete (s : State) : State :=
  let q : QueueId := ⟨s.event.die, s.event.queue⟩
  match (s.queue q).graph with
  | none => s
  | some g =>
    let ks := List.range g.nloads
    if g.saved ∨ ks.all (fun k => (s.load (graphLoad q k)).status.final) = false then s
    else
      let s1 := if g.records then ks.foldl (fun x k => x.writePinned g.parts (g.statusVa.toNat + 64 * k) (ofDwords (s.load (graphLoad q k)).completion)) s else s
      let bad := ks.find? (fun k => (s.load (graphLoad q k)).status == .refused || (s.load (graphLoad q k)).status == .stopped)
      let stat : Nat := match bad with | some k => if (s.load (graphLoad q k)).status = .refused then 1 else 2 | none => 0
      let s2 := s1.updQueue q (fun r =>
        { r with graph := none, completed := r.completed + 1, laststat := BitVec.ofNat 8 stat, lastload := BitVec.ofNat 8 (bad.getD (g.nloads - 1)) })
      let s3 := { s2 with loads := ⟨s2.loads.entries.filter (fun e => ¬ (e.1.die = q.die ∧ e.1.queue = q.queue))⟩ }.monitor q.die 0x50 1
      if g.irq then s3.signalQueue q.die q.queue (s.queue q).vector.toNat else s3

/-! ## The events -/

/-- GRID_DISPATCH. -/
def execGridDispatch (s : State) : Host.Outcome State Fault Refusal := .next (eventGridDispatch s)
/-- TASK_STRANDS_START. -/
def execTaskStrandsStart (s : State) : Host.Outcome State Fault Refusal := .next (eventStrandsStart s)
/-- TASK_DONE. -/
def execTaskDone (s : State) : Host.Outcome State Fault Refusal := .next (eventTaskDone s)
/-- TASK_SLOT_FREE. -/
def execTaskSlotFree (s : State) : Host.Outcome State Fault Refusal := .next (eventSlotFree s)
/-- GRAPH_ENTRY_READ. -/
def execGraphEntryRead (s : State) : Host.Outcome State Fault Refusal := .next (eventEntryRead s)
/-- LOAD_CONFIGURE. -/
def execLoadConfigure (s : State) : Host.Outcome State Fault Refusal := .next (eventLoadConfigure s)
/-- REGION_IMAGE_VERIFIED. -/
def execRegionImageVerified (s : State) : Host.Outcome State Fault Refusal := .next (eventImageVerified s)
/-- LOAD_START. -/
def execLoadStart (s : State) : Host.Outcome State Fault Refusal := .next (eventLoadStart s)
/-- LOAD_COMPLETE. -/
def execLoadComplete (s : State) : Host.Outcome State Fault Refusal := .next (eventLoadComplete s)
/-- LOAD_EXIT. -/
def execLoadExit (s : State) : Host.Outcome State Fault Refusal := .next (eventLoadExit s)
/-- GRAPH_COMPLETE. -/
def execGraphComplete (s : State) : Host.Outcome State Fault Refusal := .next (eventGraphComplete s)

end Sys2Proof.Machine
end

