-- ==== Sys2Proof/Machine/GlobalEvents.lean ====
section
/-! DEFINITION. The events of strands and their global accesses: waking and parking (R22, R23, R216), a GRAISE applied (R211), the
performance of an access at its home and its answer (R236, R257, R260, R273, R280, R281, R288 to R296), fences (R251, R261),
translation walks (R241) and the layout-record cache (R250). -/

namespace Sys2Proof.Machine

/-! ## Waking and parking -/

/-- What a hold waits on, as a number that changes when the hold's cause changes state (R23). -/
def State.causeKey (s : State) (who : StrandId) : Hold → Nat
  | .token k => (s.task who.task).token k
  | .queueEmpty q => (s.task who.task).queueLen q
  | .queueFull q => (s.task who.task).queueLen q + s.raisesInto who q
  | .reg i => (s.pendingScalar who i).toNat
  | .vreg i => (pendingVec (s.task who.task) i true).toNat * 2 + (pendingVec (s.task who.task) i false).toNat
  | .needs e =>
    let m := match e with
      | .serac => s.engineMark who.task .dusk
      | .moraine => s.engineMark who.task .dawn
      | _ => (s.strand (who.task.strand who.core.other)).markValue
    (match m with | some v => v + 1 | none => 0)
  | .slots e => ((s.task who.task).engineState e).queue.length
  | .port p => (s.port p).moved.toNat * 2 ^ 40 + (s.inToks p).length * 2 ^ 20 + s.roomAt p * 2 + (s.boundTo p).isSome.toNat
  | .portCmd p => (seracNames (s.task who.task) p.port).toNat
  | .accesses => s.incomplete who
  | .phase => (s.die who.die).phase.toNat
  | .walk _ => (s.strand who).walk.isSome.toNat
  | .pinned => ((s.tile who.tileId).tcache.filter (fun e => s.pinned who.tileId e)).length
  | .fence => ((s.strand who).fences.map (fun f => if f.met then 1 else 2)).sum
  | .pst => ((s.strand who).pst.any (fun p => p.refused.isSome)).toNat
  | .order => ((s.net.filter (fun a => decide (a.who = who) && a.left.isNone)).map (fun a => if a.stage = .sent then 2 else if a.stage = .flag then 1 else 0)).sum

/-- SUSPEND_WAKE of a parked strand whose condition a re-examination has met (R22). -/
def eventSuspendWake (s : State) : State :=
  let who := s.event.who
  let st := s.strand who
  match st.park with
  | some p => if st.status = .parked ∧ p.counter.isSome ∧ p.woken then s.wake who p else s
  | none => s

/-- The fault of R216 that a strand takes instead of parking. -/
def State.queueDeadlock (s : State) (who : StrandId) (e : Engine) : Trap :=
  match headCommand ((s.task who.task).engineState e).queue with
  | some (_, c) =>
    let p := tokenField c.word.pop
    let k := tokenIndex p.1 e
    { code := .cmdqDeadlock, info := c.addr
      detail := BitVec.ofNat 32 (e.num * 2 ^ 28 + k * 2 ^ 24 + (s.task who.task).token k * 2 ^ 18 + p.2 * 2 ^ 12) }
  | none => { code := .cmdqDeadlock }

/-- AUTO_PARK of a strand held for more than 4,096 cycles (R23), or its fault (R216). -/
def eventAutoPark (s : State) : State :=
  let who := s.event.who
  let st := s.strand who
  match st.heldBy with
  | some h =>
    if st.status = .held ∧ Config.parkAfter < st.heldCount then
      match st.cmdqOnly, h with
      | true, .slots e => s.raisePrecise who (s.queueDeadlock who e) st.pc
      | _, _ => s.setStrand who { st with status := .parked, heldCount := 0, heldBy := none, cmdqOnly := false
                                          park := some { cont := st.pc, causes := (s.holdsOf who h).map (fun x => (x, s.causeKey who x)), since := s.clock } }
    else s
  | none => s

/-- AUTO_PARK_WAKE of an auto-parked strand one of whose causes has changed state (R23). -/
def eventAutoParkWake (s : State) : State :=
  let who := s.event.who
  let st := s.strand who
  match st.park with
  | some p =>
    if st.status = .parked ∧ p.counter = none ∧ (p.causes.any (fun c => s.causeKey who c.1 != c.2)) then s.wake who p else s
  | none => s

/-- A result that reaches a strand's destination after its instruction has retired (R211, R260). -/
def State.deliver (s : State) (who : StrandId) (dest : Opnd) (v : Word64) : State :=
  match scalarIndex dest with
  | some i => s.updStrand who (fun st => { st with regs := st.regs.set i (toWidth who.core v.toNat), badRegs := st.badRegs.filter (· ≠ i) })
  | none =>
    match dest with
    | .queue c =>
      (match queueOfCode c with
        | some q => { s.updTask who.task (fun t => t.push q v) with work := { s.work with queued := s.work.queued ++ [(who.task, q)] } }
        | none => s)
    | _ => s

/-- GRAISE_APPLY: COUNT becomes the larger value, and D receives what it was (R103, R211). -/
def eventGraiseApply (s : State) : State :=
  match s.raises.find? (fun r => r.num == s.event.access) with
  | some r =>
    let g := (s.load r.load).grids.getD r.grid {}
    let s1 := s.updLoad r.load (fun l => { l with grids := listSet l.grids r.grid (fun x =>
      { x with count := if x.count.toNat < r.value.toNat then r.value else x.count }) })
    ({ s1 with raises := s1.raises.filter (fun x => x.num ≠ r.num) } : State).deliver r.who r.dest (g.count.zeroExtend 64)
  | none => s

/-! ## Homes -/

/-- Whether two accesses have one initiator: a strand of a later task in the slot is another. -/
def sameStrand (a b : Access) : Bool := decide (a.who = b.who) && a.left == b.left

/-- Whether two requests of one initiator travel on one plane to one home, where they are performed in the order sent
(R257). -/
def sameRoute (a b : Access) : Bool := sameStrand a b && a.plane == b.plane && homeOf a.pa == homeOf b.pa

/-- Accesses that stand before one in the order sent. -/
def beforeAccess (num : Nat) (net : List Access) : List Access := net.takeWhile (fun a => a.num ≠ num)

/-- Whether an access may be performed now as far as order goes (R257, R272): no earlier request of its route is still to
be performed, and no earlier STF still has to increment a flag in its granule. -/
def State.mayPerform (s : State) (a : Access) : Bool :=
  (beforeAccess a.num s.net).all (fun b =>
    !(sameRoute a b && b.stage == .sent) &&
    !(sameStrand a b && b.kind == .stf && (b.stage == .sent || b.stage == .flag) && granuleOf b.flagPa == granuleOf a.pa))

/-- Whether an STF's flag may be incremented now (R272, R281). -/
def State.mayFlag (s : State) (a : Access) : Bool :=
  (beforeAccess a.num s.net).all (fun b =>
    !(sameStrand a b && b.stage == .sent && granuleOf b.pa == granuleOf a.flagPa) &&
    !(sameStrand a b && b.kind == .stf && (b.stage == .sent || b.stage == .flag) && granuleOf b.flagPa == granuleOf a.flagPa))

/-- Whether an answer may arrive now: no earlier answer of its route is still on its way (R257). -/
def State.mayAnswer (s : State) (a : Access) : Bool :=
  (beforeAccess a.num s.net).all (fun b => !(sameRoute a b && b.stage == .done))

/-! ## Performing -/

/-- An access in flight changed. -/
def State.updAccess (s : State) (num : Nat) (f : Access → Access) : State :=
  { s with net := s.net.map (fun a => if a.num = num then f a else a) }

/-- The value of z bytes at a home (R235, R236, R245). -/
def State.homeRead (s : State) (pa z : Nat) (key : BitVec 4) : Word64 × State :=
  match placeOf pa with
  | .ctrl o => s.ctrlRead .load (dieOf pa) o
  | .counter t n _ => ((s.counter ⟨dieOf pa, t⟩ n).zeroExtend 64, s)
  | _ => (BitVec.ofNat 64 (bytesToNat (s.readPa pa z key)), s)

/-- z bytes written at a home: a store to an event counter adds to it (R235), and one to the control space writes a
register (R438). -/
def State.homeWrite (s : State) (pa z : Nat) (key : BitVec 4) (v : Word64) : State :=
  match placeOf pa with
  | .ctrl o => s.ctrlWrite .load (dieOf pa) o v
  | .counter t n _ => s.addEvent ⟨dieOf pa, t⟩ n (v.extractLsb' 0 32)
  | _ => (s.writePa pa (natToBytes z v.toNat) key).repair pa z

/-- The new value that an atomic writes, from the old value and its operand (R295). -/
def atomicNew (a : Access) (old : Nat) : Nat :=
  let w := 8 * a.size
  let x := a.data.toNat % 2 ^ w
  let below (p q : Nat) : Bool := if a.expect = 1 then decide (p < q) else decide (sext w p < sext w q)
  match a.kind with
  | .atadd => (old + x) % 2 ^ w
  | .atand => old &&& x
  | .ator => old ||| x
  | .atxor => old ^^^ x
  | .atmin => if below x old then x else old
  | .atmax => if below old x then x else old
  | .atswp => x
  | .atcas => if old = a.expect.toNat % 2 ^ w then x else old
  | .amaxx => 0
  | .atfadd => fadd .f32 .rne old x
  | .atfmax => minMaxCode .f32 true old x
  | _ => old

/-- The value that a register receives from z bytes (R285). -/
def extended (a : Access) (v : Word64) : Word64 :=
  if a.signed then BitVec.ofInt 64 (sext (8 * a.size) v.toNat) else BitVec.ofNat 64 (v.toNat % 2 ^ (8 * a.size))

/-- An access performed: its pins end (R246). -/
def Access.performed (a : Access) (v : Word64) : Access := { a with stage := .done, reply := v, blocks := [] }

/-- The bytes of a granule captured for the reads that may combine with an LDG (R273). -/
def State.capture (s : State) (a : Access) : State :=
  let mem : Bool := match placeOf a.pa with | .hbm => true | .tile _ _ => true | _ => false
  if a.kind = .ldg ∧ mem = true then
    let bs := s.readPa (64 * granuleOf a.pa) 64 a.keyid
    s.updStrand a.who (fun st => { st with sources := st.sources.map (fun c => if c.access = a.num then { c with bytes := some bs } else c) })
  else s

/-- Deferred PLDs of a word performed in arrival order with the value that fills it (R280). -/
def State.releaseDeferred (s : State) (pa : Nat) (v : Word64) : State :=
  let waits (a : Access) : Bool := a.stage == .deferred && a.pa == pa
  { s with net := s.net.filter (fun a => !waits a) ++ (s.net.filter waits).map (fun a => a.performed v) }

/-- An access performed at its home (R236, R280, R288 to R295). A PLD of a killed task is discarded there (R290). -/
def State.perform (s : State) (a : Access) : State :=
  let done (t : State) (v : Word64) : State := t.updAccess a.num (fun x => x.performed v)
  match a.kind with
  | .ldg => done ((s.homeRead a.pa a.size a.keyid).2.capture a) (s.homeRead a.pa a.size a.keyid).1
  | .ldc => done (s.homeRead a.pa a.size a.keyid).2 (s.homeRead a.pa a.size a.keyid).1
  | .stg => done (s.homeWrite a.pa a.size a.keyid a.data) 0
  | .stf => (s.homeWrite a.pa a.size a.keyid a.data).updAccess a.num (fun x => { x with stage := .flag })
  | .pld =>
    if s.full.contains a.pa then done s (s.homeRead a.pa 8 a.keyid).1
    else if (s.task a.who.task).status = .killed then { s with net := s.net.filter (fun x => x.num ≠ a.num) }
    else s.updAccess a.num (fun x => { x with stage := .deferred })
  | .pst =>
    if s.full.contains a.pa then s.updAccess a.num (fun x => { x.performed 0 with refused := true })
    else
      let t := s.homeWrite a.pa 8 a.keyid a.data
      done (({ t with full := a.pa :: t.full } : State).releaseDeferred a.pa a.data) 0
  | .prst => done { s with full := s.full.filter (fun p => p ≠ a.pa) } 0
  | .pref => done s 0
  | _ =>
    let old := (s.homeRead a.pa a.size a.keyid).1
    let n := atomicNew a old.toNat
    done (if a.kind = .atcas ∧ old.toNat ≠ a.expect.toNat % 2 ^ (8 * a.size) then s else s.homeWrite a.pa a.size a.keyid (BitVec.ofNat 64 n)) old

/-- An LDG that takes its value from the reply of an earlier LDG (R273). -/
def State.combine (s : State) (a : Access) (source : Nat) : State :=
  match (s.strand a.who).sources.find? (fun c => c.access == source) with
  | some c =>
    match c.bytes with
    | some bs =>
      if a.sources.contains source then
        let v := BitVec.ofNat 64 (bytesToNat ((bs.drop (a.pa % 64)).take a.size))
        (s.updAccess a.num (fun x => x.performed v)).updStrand a.who (fun st =>
          { st with sources := st.sources.map (fun y => if y.access = a.num then { y with bytes := some bs } else y) })
      else s
    | none => s
  | none => s

/-- Whether an access may still move: its plane is live and no rehash has it wait for its new one (R265). -/
def State.travels (s : State) (a : Access) (plane : Nat) : Bool := s.planeUp a.who.die plane && !a.resend

/-- GLOBAL_ACCESS_PERFORM: the data of an access, an LDG combined with another (`source`), or an STF's flag (`flag`). -/
def eventPerform (s : State) : State :=
  match s.net.find? (fun a => a.num == s.event.access && decide (a.who = s.event.who)) with
  | none => s
  | some a =>
    if s.event.flag then
      if a.stage = .flag ∧ s.mayFlag a ∧ s.travels a a.flagPlane then
        let t := match placeOf a.flagPa with
          | .counter t n _ => s.addEvent ⟨dieOf a.flagPa, t⟩ n 1
          | _ => (s.writePa a.flagPa (natToBytes 8 ((bytesToNat (s.readPa a.flagPa 8 a.flagKey) + 1) % 2 ^ 64)) a.flagKey).repair a.flagPa 8
        t.updAccess a.num (fun x => x.performed 0)
      else s
    else if a.stage ≠ .sent then s
    else
      match s.event.source with
      | some n => s.combine a n
      | none => if s.mayPerform a ∧ s.travels a a.plane then (s.wakeAt a.pa).perform a else s

/-! ## Answers -/

/-- The access gone, and with it the LDG sources that nothing can combine with any more (R273). -/
def State.dropAccess (s : State) (a : Access) : State :=
  let net := s.net.filter (fun x => x.num ≠ a.num)
  ({ s with net := net } : State).updStrand a.who (fun st =>
    { st with sources := st.sources.filter (fun c => c.live || net.any (fun x => x.sources.contains c.access)) })

/-- A reply reaches its strand (R260, R285). -/
def State.replyTo (s : State) (a : Access) : State :=
  let s1 := s.dropAccess a
  match a.dest with
  | some i => s1.deliver a.who (.reg (BitVec.ofNat 10 i)) (extended a a.reply)
  | none => s1

/-- GLOBAL_REPLY_ARRIVAL. -/
def eventReply (s : State) : State :=
  match s.net.find? (fun a => a.num == s.event.access && decide (a.who = s.event.who)) with
  | some a => if a.stage = .done ∧ a.kind.replied ∧ s.mayAnswer a ∧ s.travels a a.plane then s.replyTo a else s
  | none => s

/-- GLOBAL_ACK_ARRIVAL (R260, R291). -/
def eventAck (s : State) : State :=
  match s.net.find? (fun a => a.num == s.event.access && decide (a.who = s.event.who)) with
  | some a =>
    if a.stage = .done ∧ a.kind.replied = false ∧ s.mayAnswer a ∧ s.travels a a.plane then
      (s.dropAccess a).updStrand a.who (fun st => { st with pst := st.pst.map (fun p => if p.access = a.num then { p with refused := some a.refused } else p) })
    else s
  | none => s

/-! ## Fences -/

/-- Whether a save has discarded a PLD of a strand that a fence orders (R290): the fence waits for it still. -/
def State.parkedBefore (s : State) (who : StrandId) (f : FenceWait) : Bool :=
  s.dies.entries.any (fun d => match d.2.preempt with
    | some p => p.plds.any (fun a => decide (a.who = who) && decide (a.num < f.before))
    | none => false)

/-- Whether a fence may retire: the accesses it orders have completed (R261); for LFENCE, the stores have been performed
(R251). -/
def State.fenceMet (s : State) (who : StrandId) (f : FenceWait) : Bool :=
  s.net.all (fun a => !decide (a.who = who) || a.left.isSome || !decide (a.num < f.before) || (f.lfence && (!a.kind.storesData || a.stage == .done))) &&
  (f.lfence || !s.parkedBefore who f)

/-- FENCE_RETIRE of a strand's fence: LFENCE drops the records of its load on its tile. A fence whose word waits for it is met, and
that word then retires with its push; another is gone, and the push it holds applies. -/
def eventFenceRetire (s : State) : State :=
  let who := s.event.who
  match (s.strand who).fences[s.event.index]? with
  | some f =>
    if s.fenceMet who f ∧ (s.strand who).status ≠ .saved then
      let l := (s.task who.task).load
      let s1 := s.updStrand who (fun st => 
        let fs := if f.own = some st.pc then listSet st.fences s.event.index (fun x => { x with met := true }) else st.fences.eraseIdx s.event.index
        { st with fences := fs })
      let s2 := s1.pushTokens who.task f.pushes
      if f.lfence then s2.updTile who.tileId (fun t => { t with lcache := t.lcache.filter (fun e => e.load ≠ l) }) else s2
    else s
  | none => s

/-! ## Walks and records -/

/-- A cache with an entry added: at capacity, in place of the entry named, which no access may pin (R240, R246). -/
def State.install (s : State) (t : TileId) (e : TransEntry) (evict : Nat) : Option State :=
  let c := (s.tile t).tcache
  if c.any (fun x => x.covers e.domain e.block) then some s
  else if c.length < cacheEntries then some (s.updTile t (fun x => { x with tcache := c ++ [e] }))
  else
    match (c.drop evict).head? with
    | some old => if s.pinned t old then none else some (s.updTile t (fun x => { x with tcache := c.eraseIdx evict ++ [e] }))
    | none => none

/-- TRANSLATION_WALK_COMPLETE of a strand's outstanding walk (R238, R241); its reads travel on the planes of the entries (R254). -/
def eventWalkComplete (s : State) : State :=
  let who := s.event.who
  match (s.strand who).walk with
  | none => s
  | some b =>
    let dom := (s.load (s.task who.task).load).domain
    if (s.die who.die).phase ≠ 0 ∨ s.walkUp who.die dom (b * 65536) = false then s
    else
      match s.walkTables who.die dom (b * 65536) with
      | .error f => s.updStrand who (fun st => { st with walk := none, walkFailed := some (b, f.cause, f.level) })
      | .ok (leaf, lvl) =>
        let e : TransEntry := { domain := dom, block := b / (pageSize lvl / 65536) * (pageSize lvl / 65536), level := lvl, leaf := leaf }
        match s.install who.tileId e s.event.evict with
        | some t => t.updStrand who (fun st => { st with walk := none })
        | none => s

/-- LAYOUT_RECORD_CACHE_FILL of a tile, for a handle of a running load (R249, R250). A damaged record stops the load
(R386, R387; the manual names no other end). -/
def eventRecordFill (s : State) : State :=
  let t := s.event.who.tileId
  let l := s.load s.event.load
  let va := l.lrtab.toNat + 64 * s.event.handle
  if l.status = .running ∧ l.stopping = false ∧ s.event.handle < l.lrcount ∧ (s.die t.die).phase = 0 ∧ (l.tiles.any (fun x => x.tile == t)) ∧
      ((s.tile t).layout s.event.load s.event.handle).isNone then
    match l.lrparts.find? (fun p => p.block == va / 65536) with
    | some p =>
      let pa := leafPa p.leaf p.level va
      if s.pathUp t.die pa = false then s
      else if s.isDamaged pa 64 then s.stopLoad s.event.load t.die t.tile (codeRecord 0x13)
      else s.updTile t (fun x => { x with lcache := x.lcache ++ [{ load := s.event.load, handle := s.event.handle, dws := toDwords (s.readPa pa 64 (leafKey p.leaf)) }] })
    | none => s
  else s

/-! ## The events -/

/-- SUSPEND_WAKE. -/
def execSuspendWake (s : State) : Host.Outcome State Fault Refusal := .next (eventSuspendWake s)
/-- AUTO_PARK. -/
def execAutoPark (s : State) : Host.Outcome State Fault Refusal := .next (eventAutoPark s)
/-- AUTO_PARK_WAKE. -/
def execAutoParkWake (s : State) : Host.Outcome State Fault Refusal := .next (eventAutoParkWake s)
/-- GRAISE_APPLY. -/
def execGraiseApply (s : State) : Host.Outcome State Fault Refusal := .next (eventGraiseApply s)
/-- GLOBAL_ACCESS_PERFORM. -/
def execGlobalAccessPerform (s : State) : Host.Outcome State Fault Refusal := .next (eventPerform s)
/-- GLOBAL_REPLY_ARRIVAL. -/
def execGlobalReplyArrival (s : State) : Host.Outcome State Fault Refusal := .next (eventReply s)
/-- GLOBAL_ACK_ARRIVAL. -/
def execGlobalAckArrival (s : State) : Host.Outcome State Fault Refusal := .next (eventAck s)
/-- FENCE_RETIRE. -/
def execFenceRetire (s : State) : Host.Outcome State Fault Refusal := .next (eventFenceRetire s)
/-- TRANSLATION_WALK_COMPLETE. -/
def execTranslationWalkComplete (s : State) : Host.Outcome State Fault Refusal := .next (eventWalkComplete s)
/-- LAYOUT_RECORD_CACHE_FILL. -/
def execLayoutRecordCacheFill (s : State) : Host.Outcome State Fault Refusal := .next (eventRecordFill s)

end Sys2Proof.Machine
end

