-- ==== Sys2Proof/Machine/HostPieces.lean ====
section
/-! DEFINITION. Memory requests of host functions cut into accesses, and one access performed (R235, R257, R268, R435 to R437). -/

namespace Sys2Proof.Machine

/-- A range cut at multiples of `unit`: address and length of each piece. -/
def piecesAt (unit va n : Nat) : List (Nat × Nat) :=
  if n = 0 then []
  else (List.range ((va + n - 1) / unit - va / unit + 1)).map (fun k =>
    let a := if k = 0 then va else (va / unit + k) * unit
    (a, min (va + n) ((va / unit + k + 1) * unit) - a))

/-- The pieces of a request: each lies in one granule. -/
def requestPieces (va n : Nat) : List (Nat × Nat) := piecesAt 64 va n

/-- A piece of a request translated and checked: its place and leaf, or the fault (R238, R242, R243). -/
def State.hostPart (s : State) (die : Nat) (domain : BitVec 8) (u : Use) (p : Nat × Nat) : Except XFault (Nat × Word64) :=
  match s.walkTables die domain p.1 with
  | .error f => .error f
  | .ok (e, lvl) => match s.checkPart e lvl p.1 p.2 u domain false with | .error f => .error f | .ok pa => .ok (pa, e)

/-- Every piece checked. -/
def State.hostParts (s : State) (die : Nat) (domain : BitVec 8) (u : Use) : List (Nat × Nat) → Except XFault (List (Nat × Nat × Word64))
  | [] => .ok []
  | p :: ps =>
    match s.hostPart die domain u p, s.hostParts die domain u ps with
    | .error f, _ => .error f
    | .ok _, .error f => .error f
    | .ok x, .ok xs => .ok ((x.1, p.2, x.2) :: xs)

/-- Domain of a function (R441). -/
def State.fnDomain (s : State) (f : HostFn) : BitVec 8 := (s.pkg f.pkg).fdom.get (f.port, f.func) 0

/-- The bytes of one piece: event counters word by word (R235). -/
def State.hostReadPiece (s : State) (pa n : Nat) (key : BitVec 4) : List Byte :=
  match placeOf pa with
  | .counter _ _ _ => (piecesAt 8 pa n).flatMap (fun p => (natToBytes 8 (s.homeRead p.1 8 key).1.toNat).drop (p.1 % 8) |>.take p.2)
  | _ => s.readPa pa n key

/-- One piece written: a word of an event counter adds to it (R235). -/
def State.hostWritePiece (s : State) (pa : Nat) (key : BitVec 4) (bs : List Byte) : State :=
  match placeOf pa with
  | .counter _ _ _ => (piecesAt 8 pa bs.length).foldl (fun x p => if p.1 % 8 = 0 then x.homeWrite p.1 p.2 key (BitVec.ofNat 64 (bytesToNat ((bs.drop (p.1 - pa)).take p.2))) else x) s
  | _ => (s.writePa pa bs key).repair pa bs.length

/-- Accesses of a host request that have not been performed: place in the request, physical address and length. -/
def HostRequest.left (h : HostRequest) : List (Nat × Nat × Nat) :=
  (h.parts.zipIdx.filter (fun p => !h.done.contains p.2)).map (fun p => (p.2, p.1.1, p.1.2.1))

/-- Bytes of a request that stand before its access `k`. -/
def HostRequest.offset (h : HostRequest) (k : Nat) : Nat := ((h.parts.take k).map (fun p => p.2.1)).sum

/-- Access `k` of a request performed at its home: the memory, and the request with it done. -/
def State.hostAccess (s : State) (h : HostRequest) (k : Nat) : State × HostRequest :=
  let p := h.parts.getD k default
  let d : HostRequest := { h with done := h.done ++ [k] }
  if h.write then (s.hostWritePiece p.1 (leafKey p.2.2) ((h.data.drop (h.offset k)).take p.2.1), d)
  else (s, { d with got := h.got ++ [(k, s.hostReadPiece p.1 p.2.1 (leafKey p.2.2))], bad := h.bad || s.isDamaged p.1 p.2.1 })

/-- The bytes a read has brought back, in the order of its addresses. -/
def HostRequest.bytes (h : HostRequest) : List Byte :=
  (List.range h.parts.length).flatMap (fun k => ((h.got.find? (fun g => g.1 == k)).map Prod.snd).getD [])

/-- A request after one of its accesses: kept while accesses are left, else complete; a read that met an uncorrectable error completes with
Completer Abort. -/
def State.putHost (s : State) (h : HostRequest) : State :=
  if h.left.isEmpty then
    { s with
      hostReqs := s.hostReqs.filter (fun x => x.num ≠ h.num)
      replies := if h.write then s.replies else s.replies ++ [⟨h.fn, h.bad, if h.bad then [] else h.bytes⟩] }
  else { s with hostReqs := s.hostReqs.map (fun x => if x.num = h.num then h else x) }

end Sys2Proof.Machine
end

