-- ==== Sys2Proof/Machine/MoraineRun.lean ====
section
/-! DEFINITION. Moraine at work: the bytes a unit reads and the granules it writes (R309, R312), the streams of MM2C and MC2M
(R318), completion with its status slot (R310), and the events that start and advance a command (R308, R313). -/

namespace Sys2Proof.Machine

/-- The origin of poison that a command emits (R312, R385). -/
def moraineOrigin (i : TaskId) (c : Command) (code : FaultCode) : Word64 := tileOrigin code i.tileId 3 c.addr.toNat

/-- The physical address of a byte on one side of a command, with the key it is reached under (R241, R306). -/
def physical (tile : TileId) (c : Command) (inTile : Bool) (a : Nat) : Option (Nat × BitVec 4) :=
  if inTile then some (tilePa tile a, 0)
  else (c.parts.find? (fun p => p.block == a / 65536)).map (fun p => (leafPa p.leaf p.level a, leafKey p.leaf))

/-- Whether the tile that a physical address lies in is power-gated (R243 cause 0x01). -/
def State.gatedAt (s : State) (pa : Nat) : Bool :=
  match placeOf pa with
  | .tile t _ => !s.tilePowered ⟨dieOf pa, t⟩
  | _ => false

/-! ## Reading -/

/-- The bytes of one piece, or poison in their place (R312). A control register is read whole (R438). -/
def State.readPiece (s : State) (i : TaskId) (c : Command) (inTile : Bool) (a n : Nat) : List Cell × State :=
  match physical i.tileId c inTile a with
  | none => (List.replicate n (0, some (moraineOrigin i c .xlate)), s)
  | some (pa, key) =>
    if s.gatedAt pa then (List.replicate n (0, some (moraineOrigin i c .absent)), s)
    else
      match placeOf pa with
      | .ctrl o =>
        let r := s.ctrlRead .load (dieOf pa) o
        ((natToBytes n r.1.toNat).map (fun b => (b, none)), r.2)
      | _ =>
        if s.isDamaged pa n then (List.replicate n (0, some (moraineOrigin i c .eccUncorr)), s)
        else ((s.readPa pa n key).map (fun b => (b, none)), s)

/-- The first poison among cells. -/
def firstPoison (cs : List Cell) : Option Word64 := cs.findSome? Prod.snd

/-- The bytes of one access (R303), which a swizzle moves in pieces of 16 (R143); poison met in it stands in place of them all (R312). -/
def State.readAccess (s : State) (i : TaskId) (c : Command) (a : Run × Nat × Nat) : List Cell × State :=
  let r := a.1
  let x := (piecesOf (if r.swz = 0 then 64 else 16) a.2.1 a.2.2).foldl (fun acc p =>
    let y := acc.2.readPiece i c r.inTile (swizzle r.swz r.rho p.1) p.2
    (acc.1 ++ y.1, y.2)) (([], s) : List Cell × State)
  match firstPoison x.1 with
  | some o => (List.replicate a.2.2 (0, some o), x.2)
  | none => x

/-- The bytes of a run, access by access. -/
def State.readRun (s : State) (i : TaskId) (c : Command) (r : Run) : List Cell × State :=
  r.accesses.foldl (fun acc a =>
    let x := acc.2.readAccess i c a
    (acc.1 ++ x.1, x.2)) ([], s)

/-! ## Writing -/

/-- Bytes written at one place that no granule boundary divides, or the poison of a power-gated tile (R312, R438). -/
def State.writePiece (s : State) (i : TaskId) (c : Command) (inTile : Bool) (a : Nat) (bs : List Byte) : Option Word64 × State :=
  match physical i.tileId c inTile a with
  | none => (some (moraineOrigin i c .xlate), s)
  | some (pa, key) =>
    if s.gatedAt pa then (some (moraineOrigin i c .absent), s)
    else
      match placeOf pa with
      | .ctrl o => (none, s.ctrlWrite .load (dieOf pa) o (BitVec.ofNat 64 (bytesToNat bs)))
      | _ => (none, (s.writePa pa bs key).repair pa bs.length)

/-- One access of a write (R312): nothing when a byte of it is poison, else its bytes, in pieces that a swizzle keeps whole; and the
poison that reached it. -/
def State.writeAccess (s : State) (i : TaskId) (c : Command) (a : Run × Nat × Nat) (cells : List Cell) : Option Word64 × State :=
  match firstPoison cells with
  | some o => (some o, s)
  | none =>
    (piecesOf (if a.1.swz = 0 then 64 else 16) a.2.1 a.2.2).foldl (fun acc p =>
      let x := acc.2.writePiece i c a.1.inTile (swizzle a.1.swz a.1.rho p.1) (((cells.drop (p.1 - a.2.1)).take p.2).map Prod.fst)
      (acc.1.orElse (fun _ => x.1), x.2)) (none, s)

/-- The write of a run, access by access, with the first poison that reached it (R312). -/
def State.writeRun (s : State) (i : TaskId) (c : Command) (r : Run) (cells : List Cell) : Option Word64 × State :=
  r.accesses.foldl (fun acc a =>
    let x := acc.2.writeAccess i c a ((cells.drop (a.2.1 - r.lo.toNat)).take a.2.2)
    (acc.1.orElse (fun _ => x.1), x.2)) (none, s)

/-! ## Completion -/

/-- A count that stops at a bound (R310). -/
def capped (bound n : Nat) : Nat := min bound n

/-- The status slot of a command (R310). -/
def slotWord (c : Command) : BitVec 128 :=
  BitVec.ofNat 128 (capped (2 ^ 32 - 1) c.oor * 2 ^ 96 + capped (2 ^ 32 - 1) c.neg * 2 ^ 64 + 2 ^ 63 + c.eosSeen.toNat * 2 ^ 62 +
    c.poisoned.isSome.toNat * 2 ^ 61 + capped 65535 c.trunc * 2 ^ 32 + c.items % 2 ^ 32)

/-- A command completes (R310): its status slot, then its event increment, PUSH and retired mark. -/
def State.completeMoraine (s : State) (i : TaskId) (c : Command) : State :=
  let s1 := if c.null ∨ c.word.e.getLsbD 11 = false then s
    else s.updTask i (fun t => { t with slots := t.slots.set (fld c.word.e 10 7) (slotWord c) })
  s1.finishCommand i .moraine c

/-- A command put back into its slot. -/
def State.keepCommand (s : State) (i : TaskId) (c : Command) : State := s.updCommand i .moraine c.seq (fun _ => c)

/-! ## The accesses of units -/

/-- Byte x of what a unit writes: read by one of its reads, or appended; none while that read is missing (R309). -/
def Flight.byteAt (f : Flight) (c : Command) (u : MUnit) (x : Nat) : Option Cell :=
  let lo := match u.read with | some r => r.lo.toNat | none => 0
  match u.readAccesses.zipIdx.find? (fun p => decide (p.1.2.1 - lo ≤ x) && decide (x < p.1.2.1 - lo + p.1.2.2)) with
  | some p => (f.seen.find? (fun e => e.1 == (f.index c).length + p.2)).map (fun e => e.2.getD (x - (p.1.2.1 - lo)) (0, none))
  | none => some (u.tail.getD (x - (match u.read with | some r => r.len | none => 0)) 0, none)

/-- The cells that a write of a unit receives, once they have been read (R309). -/
def Flight.source (f : Flight) (c : Command) (u : MUnit) (a : Run × Nat × Nat) : Option (List Cell) :=
  (List.range a.2.2).foldr (fun k acc => match f.byteAt c u (a.2.1 - a.1.lo.toNat + k), acc with | some x, some l => some (x :: l) | _, _ => none) (some [])

/-- Access n of a unit performed (R303, R309): an index entry, then a read, then a write, as they are numbered; none when it cannot be
performed or has been. Poison in an index entry, or at a write, is the error. -/
def State.flightAccess (s : State) (i : TaskId) (c : Command) (f : Flight) (n : Nat) : Option (State × Except Word64 Flight) :=
  let ix := f.index c
  let seen := f.seen.any (fun x => x.1 == n)
  match ix[n]?, f.work c with
  | some a, _ =>
    if seen then none
    else
      let x := s.readAccess i c a
      match firstPoison x.1 with
      | some o => some (x.2, .error o)
      | none => some (x.2, .ok { f with seen := f.seen ++ [(n, x.1)] })
  | none, none => none
  | none, some u =>
    match u.readAccesses[n - ix.length]?, u.writeAccesses[n - ix.length - u.readAccesses.length]? with
    | some a, _ => if seen then none else some ((s.readAccess i c a).2, .ok { f with seen := f.seen ++ [(n, (s.readAccess i c a).1)] })
    | none, some a =>
      if f.put.contains n then none
      else
        (f.source c u a).map (fun cells =>
          let w := s.writeAccess i c a cells
          (w.2, match w.1 with | some o => .error o | none => .ok { f with put := f.put ++ [n] }))
    | none, none => none

/-- The accesses of a unit from n on, in order, at most `fuel`, those already performed aside. -/
def State.flightRest (s : State) (i : TaskId) (c : Command) (f : Flight) (n : Nat) : Nat → State × Except Word64 Flight
  | 0 => (s, .ok f)
  | fuel + 1 =>
    match s.flightAccess i c f n with
    | none => s.flightRest i c f (n + 1) fuel
    | some (t, .ok g) => t.flightRest i c g (n + 1) fuel
    | some (t, .error o) => (t, .error o)

/-- A unit whose accesses have all been performed is counted (R310, R313), with its OOR at the die's monitors. -/
def State.countUnit (s : State) (i : TaskId) (c : Command) (u : MUnit) : State × Command :=
  (s.monitor i.die 0x0001 u.oor,
   { c with progress := c.progress + 1, flights := c.flights.filter (fun f => f.unit ≠ c.progress), items := c.items + u.items, oor := c.oor + u.oor
            neg := c.neg + u.neg, trunc := c.trunc + u.trunc, waitSince := s.clock })

/-- The units at the front of those that have begun counted, while they are complete. -/
def State.settleUnits (s : State) (i : TaskId) (c : Command) : Nat → State × Command
  | 0 => (s, c)
  | fuel + 1 =>
    match c.flights.find? (fun f => f.unit == c.progress) with
    | none => (s, c)
    | some f =>
      match f.work c with
      | some u => if f.left c = some (0, 0) then (s.countUnit i c u).1.settleUnits i (s.countUnit i c u).2 fuel else (s, c)
      | none => (s, c)

/-- A unit of a command: as far as it has begun, or not at all. -/
def Command.flight (c : Command) (k : Nat) : Flight := (c.flights.find? (fun f => f.unit == k)).getD { unit := k }

/-- The first unit that is not complete, finished (R309, R313): the command after it, or the poison that reached its write or stood in an entry that
selects it. -/
def State.runUnit (s : State) (i : TaskId) (c : Command) : State × Except Word64 Command :=
  let f := c.flight c.progress
  let x := s.flightRest i c f 0 (f.index c).length
  match x.2 with
  | .error o => (x.1, .error o)
  | .ok g =>
    match g.work c with
    | none => (x.1, .ok c)
    | some u =>
      let y := x.1.flightRest i c g (g.index c).length (u.readAccesses.length + u.writeAccesses.length)
      match y.2 with
      | .error o => ((y.1.countUnit i c u).1, .error o)
      | .ok _ => ((y.1.countUnit i c u).1, .ok (y.1.countUnit i c u).2)

/-- Units of a command, at most `fuel`; it completes after the last, and its load stops when poison reaches a write (R310,
R312, R386). -/
def State.runUnits (s : State) (i : TaskId) (c : Command) : Nat → State
  | 0 => if unitCount c ≤ c.progress then s.completeMoraine i c else s.keepCommand i c
  | fuel + 1 =>
    if unitCount c ≤ c.progress then s.completeMoraine i c
    else
      match s.runUnit i c with
      | (t, .ok d) => t.runUnits i d fuel
      | (t, .error o) => t.poisonStop (i.strand .dawn) .moraine c.addr o

/-- One access of a unit (R303): afterwards the complete units at the front are counted, and the command completes with the last. -/
def State.runAccess (s : State) (i : TaskId) (c : Command) (k n : Nat) : State :=
  match s.flightAccess i c (c.flight k) n with
  | none => s
  | some (t, .error o) => t.poisonStop (i.strand .dawn) .moraine c.addr o
  | some (t, .ok g) =>
    let d := { c with flights := c.flights.filter (fun f => f.unit ≠ k) ++ [g], waitSince := s.clock }
    let r := t.settleUnits i d d.flights.length
    if unitCount r.2 ≤ r.2.progress then r.1.completeMoraine i r.2 else r.1.keepCommand i r.2

/-- The plane and the home of an access of a command, from a die (R255, R257, R303). -/
def State.routeOf (s : State) (i : TaskId) (c : Command) (a : Run × Nat × Nat) : Option (Nat × Nat × Nat) :=
  (physical i.tileId c a.1.inTile (swizzle a.1.swz a.1.rho a.2.1)).map (fun p => (s.planeOf i.die p.1, homeOf p.1))

/-- Whether R257, R303, R309 and R313 let a command perform access n of unit k now. Index entries are read at any moment. Units are sent in order, at most
64 accesses ahead of one that is incomplete, and their writes too, so that none passes an earlier one on its route. -/
def State.mayAccess (s : State) (i : TaskId) (c : Command) (k n : Nat) : Bool :=
  let f := c.flight k
  let before := (List.range (k - c.progress)).map (fun j => c.flight (c.progress + j))
  let ix := (f.index c).length
  decide (c.progress ≤ k) && decide (k < unitCount c) &&
  (decide (n < ix) ||
    match f.work c with
    | none => false
    | some u =>
      before.all (fun g => (g.work c).isSome) &&
      decide ((before.map (fun g => match g.left c with | some x => x.1 + x.2 | none => 0)).sum < 64) &&
      match u.writeAccesses[n - ix - u.readAccesses.length]?, decide (n < ix + u.readAccesses.length) with
      | some a, false =>
        before.all (fun g => g.left c |>.any (fun x => x.1 == 0)) &&
        before.all (fun g => match g.work c with
          | some v => v.writeAccesses.zipIdx.all (fun b =>
              g.put.contains ((g.index c).length + v.readAccesses.length + b.2) || s.routeOf i c b.1 != s.routeOf i c a)
          | none => false)
      | _, _ => true)

/-- The physical address of access n of unit k, if it is known. -/
def State.accessPa (_s : State) (i : TaskId) (c : Command) (k n : Nat) : Option Nat :=
  let f := c.flight k
  let a := match (f.index c)[n]?, f.work c with
    | some a, _ => some a
    | none, some u => (u.readAccesses ++ u.writeAccesses)[n - (f.index c).length]?
    | none, none => none
  a.bind (fun a => (physical i.tileId c a.1.inTile (swizzle a.1.swz a.1.rho a.2.1)).map Prod.fst)

/-! ## MM2C -/

/-- Scale arrays and end-of-stream of a stream command (R304). -/
def streamScl (c : Command) : Bool := c.word.mod.getLsbD 1
def streamEos (c : Command) : Bool := c.word.mod.getLsbD 2

/-- Scale bytes of a stream command under `.scl` (R306). -/
def scaleCount (c : Command) (g : Nat) : Nat := (c.vc.toNat + g - 1) / g

/-- The tokens of the elements from the first on, until poison stands in place of one (R318). -/
def elementTokens (size : Nat) : Nat → List Cell → List Tok × Option Word64
  | 0, _ => ([], none)
  | k + 1, cells =>
    match firstPoison (cells.take size) with
    | some o => ([], some o)
    | none =>
      let r := elementTokens size k (cells.drop size)
      (.elem (BitVec.ofNat 32 (bytesToNat ((cells.take size).map Prod.fst))) :: r.1, r.2)

/-- The next beat of MM2C: its scale token, its elements, and the tokens that end the stream (R318). -/
def State.sendUnit (s : State) (i : TaskId) (c : Command) (g perBeat : Nat) : State × List Tok × Command :=
  let n := c.vc.toNat
  let size := elemBytes c.word.fmt.toNat
  let src := c.word.mod.getLsbD 0
  let needScale := streamScl c && c.items % g == 0 && decide (c.items < n)
  let sc := if needScale then s.readRun i c { inTile := src, lo := ((c.vd.toNat + c.scales : Nat) : Int), len := 1 } else ([], s)
  match firstPoison sc.1 with
  | some o => (sc.2, [.poison o], { c with poisoned := some o, finished := true })
  | none =>
    let k := min (min perBeat (n - c.items)) (if streamScl c then g - c.items % g else perBeat)
    let r := sc.2.readRun i c { inTile := src, lo := ((c.va.toNat + c.items * size : Nat) : Int), len := k * size }
    let el := elementTokens size k r.1
    let scale : List Tok := sc.1.map (fun b => .scale b.1)
    let d := { c with items := c.items + el.1.length, scales := c.scales + sc.1.length }
    match el.2 with
    | some o => (r.2, scale ++ el.1 ++ [.poison o], { d with poisoned := some o, finished := true })
    | none =>
      let last := decide (n ≤ d.items)
      (r.2, scale ++ el.1 ++ (if last && streamEos c then [.eos] else []), { d with finished := last })

/-- Beats of one unit of a send; the last of the send ends it (R334). -/
def unitBeats (ch : Channel) (toks : List Tok) (last : Bool) : List Beat :=
  let bs := packBeats (beatElems (typeFormat ch.stype)) toks []
  if last then markLast bs else bs

/-- Units of MM2C while its channel has room (R318, R450). -/
def State.sendUnits (s : State) (i : TaskId) (c : Command) (p : PortId) : Nat → State
  | 0 => s.keepCommand i c
  | fuel + 1 =>
    match s.boundTo p with
    | none => s.keepCommand i c
    | some (id, ch) =>
      let r := s.sendUnit i c (max 1 (s.streamGroup p)) (beatElems (typeFormat ch.stype))
      let bs := unitBeats ch r.2.1 r.2.2.finished
      if ch.room < bs.length then s.keepCommand i c
      else
        let t := (r.1.updChan id (fun x => { x with outq := x.outq ++ bs })).updPort p (fun x =>
          { x with moved := x.moved + BitVec.ofNat 32 (elemCount r.2.1) })
        let d := { r.2.2 with progress := c.progress + 1, waitSince := s.clock }
        if d.finished then t.completeMoraine i d else t.sendUnits i d p fuel

/-! ## MC2M -/

/-- What MC2M has made of the tokens at the head of its queue: how many it took, the command, and the poison that it would
write. -/
structure StreamTake where
  taken : Nat := 0
  cmd : Command
  poison : Option Word64 := none

/-- Tokens that MC2M takes, in stream order, writing elements and every scale token (R318). The extent that R306 checks ends after ceil(n / G)
scale bytes: a further one that would leave the task's allocation, or finds no translation, reaches no memory and stops the load
as poison does (log entry 36). -/
def State.takeToks (s : State) (i : TaskId) (g : Nat) : List Tok → StreamTake → State × StreamTake
  | [], x => (s, x)
  | t :: ts, x =>
    let c := x.cmd
    let n := c.vc.toNat
    let size := elemBytes c.word.fmt.toNat
    let side := c.word.mod.getLsbD 0
    if n ≤ c.items then (s, { x with cmd := { c with finished := true } })
    else
      match t with
      | .elem cell =>
        let w := s.writeRun i c { inTile := side, lo := ((c.va.toNat + c.items * size : Nat) : Int), len := size }
          ((natToBytes size cell.toNat).map (fun b => (b, none)))
        match w.1 with
        | some o => (w.2, { x with taken := x.taken + 1, poison := some o })
        | none => w.2.takeToks i g ts { x with taken := x.taken + 1, cmd := { c with items := c.items + 1, finished := decide (n ≤ c.items + 1) } }
      | .scale k =>
        let at' := c.vd.toNat + c.scales
        if streamScl c = false then s.takeToks i g ts { x with taken := x.taken + 1 }
        else if side ∧ (s.task i).inBounds at' 1 = false then (s, { x with taken := x.taken + 1, poison := some (moraineOrigin i c .tilememBounds) })
        else
          let w := s.writeRun i c { inTile := side, lo := (at' : Int), len := 1 } [(k, none)]
          match w.1 with
          | some o => (w.2, { x with taken := x.taken + 1, poison := some o })
          | none => w.2.takeToks i g ts { x with taken := x.taken + 1, cmd := { c with scales := c.scales + 1 } }
      | .eos => (s, { x with taken := x.taken + (streamEos c).toNat, cmd := { c with eosSeen := true, finished := true } })
      | .poison o => (s, { x with taken := x.taken + 1, poison := some o })
      | _ => s.takeToks i g ts { x with taken := x.taken + 1 }

/-- Units of MC2M: the beats at the head of its queue (R318). -/
def State.takeUnits (s : State) (i : TaskId) (c : Command) (p : PortId) : Nat → State
  | 0 => s.keepCommand i c
  | fuel + 1 =>
    if c.vc.toNat ≤ c.items then s.completeMoraine i c
    else
      match (s.inQueue p).beats with
      | [] => s.keepCommand i c
      | b :: _ =>
        let r := s.takeToks i (max 1 (s.streamGroup p)) b.toks { cmd := c }
        let t := r.1.consume p r.2.taken
        match r.2.poison with
        | some o => t.poisonStop (i.strand .dawn) .moraine c.addr o
        | none =>
          let d := { r.2.cmd with progress := c.progress + 1, waitSince := s.clock }
          if d.finished then t.completeMoraine i d else t.takeUnits i d p fuel

/-! ## The events -/

/-- A command starts (R308): its POP is taken. -/
def State.startMoraine (s : State) (i : TaskId) (c : Command) : State :=
  ((s.takePop i .moraine c).updTile i.tileId (fun t => { t with moraineLast := t.moraineLast.set i.slot (s.clock + 1) })).updCommand
    i .moraine c.seq (fun x => { x with popTaken := true, started := true, waitSince := s.clock })

/-- Progress of a started command by at most `n` units or beats, as many as there can be when n is 0 (R313). -/
def State.progressMoraine (s : State) (i : TaskId) (c : Command) (n : Nat) : State :=
  if c.null then s.completeMoraine i c
  else
    match streamerOf i.tileId c with
    | some p =>
      if p.out then s.sendUnits i c p (if n = 0 then c.vc.toNat + 1 else n)
      else s.takeUnits i c p (if n = 0 then (s.inQueue p).beats.length + 1 else n)
    | none => s.runUnits i c (if n = 0 then unitCount c - c.progress else n)

/-- MORAINE_COMMAND_START of a task (R308, R215). -/
def eventMoraineStart (s : State) : State :=
  let i := s.event.who.task
  match headCommand (s.task i).moraine.queue with
  | some (_, c) => if s.startTurn i .moraine then s.startMoraine i c else s
  | none => s

/-- Whether a started command may go on: no rehash holds its accesses, no pre-emption has stopped it, no restored part of
it waits for its translation, and a gating load sends nothing (R248, R263, R313, R403). -/
def State.moraineMayGo (s : State) (i : TaskId) (c : Command) : Bool :=
  let out := match streamerOf i.tileId c with | some p => p.out | none => false
  c.started && !c.refused && !c.awaits && (s.die i.die).phase == 0 && s.rehash.all (fun r => !r.lost) && (s.task i).live &&
  !(s.load (s.task i).load).stopping && !s.stopRequested i && !(out && !c.null && (s.load (s.task i).load).gating.contains i.die)

/-- Whether a started command may perform access n of unit k now: as above, but a unit that has begun goes on under a stop request (R313), and in a
rehash until the die has drained (R263), on a plane that is not lost (R262). -/
def State.moraineMayPerform (s : State) (i : TaskId) (c : Command) (k n : Nat) : Bool :=
  let begun := (c.flight k).begun c
  let drained := match s.rehash with | some r => r.drained.contains i.die | none => false
  c.started && !c.refused && !c.awaits && !c.null && (s.task i).live && !(s.load (s.task i).load).stopping && s.mayAccess i c k n &&
  (((s.die i.die).phase == 0 && !s.stopRequested i) || (begun && ((s.die i.die).phase == 0 || !drained))) &&
  (s.accessPa i c k n).all (fun pa => s.pathUp i.die pa)

/-- MORAINE_COMMAND_COMPLETE of a command (R310, R313): its units, `len` of them or all, and its completion after the last; with `flag`, access
`len` of unit `index` alone (R303). One whose translation had to wait is translated first (R248, R263). -/
def eventMoraineComplete (s : State) : State :=
  let i := s.event.who.task
  match (s.task i).moraine.queue.find? (fun c => c.seq == s.event.command) with
  | some c =>
    if c.awaits then (if (s.die i.die).phase = 0 ∧ (s.task i).live then s.retranslate i c.seq else s)
    else if s.event.flag then (if s.moraineMayPerform i c s.event.index s.event.len then s.runAccess i c s.event.index s.event.len else s)
    else if s.moraineMayGo i c then s.progressMoraine i c s.event.len
    else s
  | none => s

/-- MORAINE_COMMAND_START. -/
def execMoraineCommandStart (s : State) : Host.Outcome State Fault Refusal := .next (eventMoraineStart s)
/-- MORAINE_COMMAND_COMPLETE. -/
def execMoraineCommandComplete (s : State) : Host.Outcome State Fault Refusal := .next (eventMoraineComplete s)

/-! ## Serac's events -/

/-- Whether a running command stands where a stop request ends it (R180, R207): an SMM at a multiple of its stop quantum, an SCHAIN after a stage
that has written the work range. -/
def State.atStop (s : State) (i : TaskId) (c : Command) : Bool :=
  s.stopRequested i && !c.null &&
  (if isSmm c then c.progress % ((smmPorts c).map (fun p => s.blockLength i p.2)).foldl max (s.groupLength i c) == 0
   else isSchain c && decide (0 < c.progress))

/-- SERAC_COMMAND_START of a task (R169, R250): its turn has come and its records are in the tile's cache. -/
def eventSeracStart (s : State) : State :=
  let i := s.event.who.task
  match headCommand (s.task i).serac.queue with
  | some (_, c) => if s.startTurn i .serac && s.recordsReady i c then s.startSerac i c else s
  | none => s

/-- SERAC_BLOCK_STAGED of a started command (R178, R374): `len` beats of the next block of its operand 2 or 3 move into the staging buffer, or with 0 as
many as have landed. -/
def eventSeracStage (s : State) : State :=
  let i := s.event.who.task
  let q := (s.task i).serac.queue
  match q.find? (fun c => c.seq == s.event.command) with
  | some c =>
    match (smmPorts c).find? (fun p => p.1 == s.event.index) with
    | some p =>
      let first := ((q.find? (fun x => x.started)).map Command.seq) == some c.seq
      if c.started && !s.atStop i c && s.mayStage i c first p.1 p.2 then
        s.stageBlock i c.seq p.1 p.2 (c.blocksStaged.get p.1 0)
          (if s.event.len = 0 then (s.inQueue (tilePort i.tileId false p.2)).beats.length + 1 else s.event.len)
      else s
    | none => s
  | none => s

/-- SERAC_COMMAND_COMPLETE: progress of the oldest command, and its completion (R169, R178, R184, R200); while it stands at a stop point,
those behind it wait. -/
def eventSeracComplete (s : State) : State :=
  let i := s.event.who.task
  match (s.task i).serac.queue.head? with
  | some c =>
    if (s.task i).live ∧ c.started ∧ s.atStop i c = false then
      s.progressSerac i c (if s.stopRequested i && (isSmm c || isSchain c) then 1 else s.event.len)
    else s
  | none => s

/-- SERAC_COMMAND_START. -/
def execSeracCommandStart (s : State) : Host.Outcome State Fault Refusal := .next (eventSeracStart s)
/-- SERAC_BLOCK_STAGED. -/
def execSeracBlockStaged (s : State) : Host.Outcome State Fault Refusal := .next (eventSeracStage s)
/-- SERAC_COMMAND_COMPLETE. -/
def execSeracCommandComplete (s : State) : Host.Outcome State Fault Refusal := .next (eventSeracComplete s)

end Sys2Proof.Machine
end

