-- ==== Sys2Proof/Machine/Planes.lean ====
section
/-! DEFINITION. Losing and restoring planes (R262 to R267), and invalidations (R247). -/

namespace Sys2Proof.Machine

/-! ## Beginning a rehash (R262, R266, R267) -/

/-- Every load that is not final stops (R266). -/
def State.stopAll (s : State) (code : Nat) : State :=
  (s.loads.keysWhere stoppable).foldl (fun x l => x.stopLoad l l.die 0 (codeRecord code)) s

/-- A plane to be retired, in a new rehash or in the one in progress, which starts again at its step 1 (R262, R266). A step already taken stands: a die
that has not committed the earlier run, where another has, counts its GEN with the next (log entry 38). With no plane left every load stops, and only
the recovery path of the boot ROM restores traffic. -/
def State.retirePlane (s : State) (p : Nat) (lost : Bool) : State :=
  let old := s.rehash.getD {}
  let missed := if s.ringDies.any (fun d => (s.die d).phase == 3) then s.ringDies.filter (fun d => (s.die d).phase ≠ 3) else []
  let r : Rehash := { retire := old.retire ++ [p], restore := old.restore.filter (· ≠ p), lost := old.lost || lost, behind := old.behind ++ missed }
  let s1 := { s with rehash := some r }
  if (List.range 4).all (fun k => r.retire.contains k || !s.planeLive k) then
    { s1.stopAll FaultCode.planeLost.num with pkgs := s.present.foldl (fun m k => m.set k { m.get k {} with boot := .recovery }) s1.pkgs }
  else s1

/-- An entry of a plane map. -/
def mapEntry (m : Map Nat (BitVec 2)) (n : Nat) : Nat := (m.get n (BitVec.ofNat 2 n)).toNat

/-- What firmware writes into PMAPNEXT to name a restored plane again (R267): where no entry does, the plane's entries of reset (log entry 39). -/
def namedAgain (m : Map Nat (BitVec 2)) (p : Nat) : Map Nat (BitVec 2) :=
  if (List.range 256).any (fun n => mapEntry m n == p) then m
  else (List.range 256).foldl (fun x n => if n % 4 = p then x.set n (BitVec.ofNat 2 p) else x) m

/-- PLANE_RETIRE_PLANNED: firmware retires a live plane, or with `flag` restores a dead one (R262, R267). -/
def eventRetirePlanned (s : State) : State :=
  let p := s.event.plane
  if s.rehash.isSome ∨ 4 ≤ p then s
  else if s.event.flag then
    (if s.planeLive p then s
     else s.ringDies.foldl (fun x d => x.updDie d (fun y => { y with pmapNext := namedAgain y.pmapNext p })) { s with rehash := some { restore := [p] } })
  else if s.planeLive p ∧ (List.range 4).any (fun k => k ≠ p && s.planeLive k) then s.retirePlane p false else s

/-- A plane declared lost (R262, R266). -/
def State.losePlane (s : State) (p : Nat) : State :=
  if s.planeLive p ∧ ¬ (s.rehash.getD {}).retire.contains p then s.retirePlane p true else s

/-- PLANE_FAULT_DETECT: a switch or link reports an uncorrectable fault (R262). -/
def eventPlaneFault (s : State) : State := s.losePlane s.event.plane

/-- PLANE_STALL_TIMEOUT: the plane has moved no packet for 2^16 cycles while traffic waits on it (R262). -/
def eventPlaneStall (s : State) : State := if 65536 ≤ s.planeIdle.get s.event.plane 0 then s.losePlane s.event.plane else s

/-! ## Steps 1 and 2 (R263, R265) -/

/-- REHASH_STOP reaches a die: PHASE := 1 (R263). The messages of a rehash are System-class (R254). -/
def eventRehashStop (s : State) : State :=
  let d := s.event.die
  match s.rehash with
  | some r =>
    if r.told.contains d ∨ ¬ s.ringDies.contains d ∨ s.systemPlane = none then s
    else ({ s with rehash := some { r with told := r.told ++ [d] } }).updDie d (fun x => { x with phase := 1, lost := r.lost })
  | none => s

/-- Whether an access is still incomplete on a plane: its request or answer, or an STF's flag, travels there. -/
def Access.onPlane (a : Access) (p : Nat) : Bool := !a.resend && (a.plane == p || (a.kind == .stf && a.stage != .done && a.flagPlane == p))

/-- A read of a dead plane waits to be sent again (R265); a deferred PLD is discarded by its home first. -/
def Access.again (a : Access) : Access := { a with stage := .sent, refused := false, resend := true, reply := 0, blocks := [a.va.toNat / 65536] }

/-- The rest of a write on a dead plane, when it is performed whole (R265). -/
def State.performWhole (s : State) (a : Access) : State :=
  let t := if a.stage = .sent then s.perform a else s
  if a.kind = .stf ∧ (a.stage = .sent ∨ a.stage = .flag) then
    match placeOf a.flagPa with
    | .counter c n _ => t.addEvent ⟨dieOf a.flagPa, c⟩ n 1
    | _ => (t.writePa a.flagPa (natToBytes 8 ((bytesToNat (t.readPa a.flagPa 8 a.flagKey) + 1) % 2 ^ 64)) a.flagKey).repair a.flagPa 8
  else t

/-- A write on a dead plane resolved (R265): gone, its destination zero, its strand told. A PST retires when its strand is resumed. -/
def State.resolveWrite (s : State) (a : Access) (whole : Bool) (dead : List Nat) : State :=
  let p := if dead.contains a.plane then a.plane else a.flagPlane
  let s1 := (if whole then s.performWhole a else s).dropAccess a
  let s2 := match a.dest with | some i => s1.deliver a.who (.reg (BitVec.ofNat 10 i)) 0 | none => s1
  let s3 := s2.updStrand a.who (fun st => { st with pst := st.pst.map (fun p => if p.access = a.num then { p with refused := some false } else p) })
  if a.left.isSome then s1
  else s3.raiseAsync a.who .planeLost 0 a.va (BitVec.ofNat 32 (p * 2 ^ 24)) a.addr .none

/-- The lost accesses of a die resolved in order (R265); bit i of `choice` says whether write i was performed, unless its data, or all
of it, already had been: it is performed whole or not at all. -/
def State.resolveLost (s : State) (dead : List Nat) (choice : Nat) : List Access → Nat → State
  | [], _ => s
  | a :: rest, i =>
    if a.kind.replied ∧ (a.kind = .ldg ∨ a.kind = .ldc ∨ a.kind = .pld ∨ a.kind = .pref) then (s.updAccess a.num Access.again).resolveLost dead choice rest i
    else (s.resolveWrite a (a.stage == .done || a.stage == .flag || choice.testBit i) dead).resolveLost dead choice rest (i + 1)

/-- Writes of a Moraine command that may be in flight on dead planes: unit and place, of units that have begun and whose source bytes have been
read (R309, R313). -/
def State.lostWrites (s : State) (i : TaskId) (c : Command) (dead : List Nat) : List (Nat × Nat) :=
  c.flights.flatMap (fun f =>
    match f.work c with
    | none => []
    | some u =>
      (u.writeAccesses.zipIdx.filter (fun a =>
        let n := (f.index c).length + u.readAccesses.length + a.2
        !f.put.contains n && (f.source c u a.1).isSome && (s.routeOf i c a.1).any (fun r => dead.contains r.1))).map (fun a =>
        (f.unit, (f.index c).length + u.readAccesses.length + a.2)))

/-- The next element that MC2M would write, where its plane is dead: its write may be in flight. -/
def State.lostElement (s : State) (i : TaskId) (c : Command) (dead : List Nat) : Option (Run × List Cell) :=
  match streamerOf i.tileId c with
  | some p =>
    if p.out ∨ c.vc.toNat ≤ c.items then none
    else
      match (s.inToks p).find? (fun t => match t with | .elem _ => true | _ => false) with
      | some (.elem cell) =>
        let size := elemBytes c.word.fmt.toNat
        let r : Run := { inTile := c.word.mod.getLsbD 0, lo := ((c.va.toNat + c.items * size : Nat) : Int), len := size }
        if r.accesses.any (fun a => (s.routeOf i c a).any (fun x => dead.contains x.1)) then some (r, (natToBytes size cell.toNat).map (fun b => (b, none))) else none
      | _ => none
  | none => none

/-- A running Moraine command of which writes were lost with a plane: each was performed whole or not at all, as `choice` says, and the load stops
with poison of code PLANE_LOST at the sink (R265, R312, R386). Nothing happens to a command with no such write. -/
def State.loseCommand (s : State) (i : TaskId) (seq choice : Nat) (dead : List Nat) : State :=
  match (s.task i).moraine.queue.find? (fun c => c.seq == seq && c.started) with
  | none => s
  | some c =>
    let o := tileOrigin .planeLost i.tileId Engine.moraine.num c.addr.toNat
    let ws := s.lostWrites i c dead
    let stop (t : State) : State := t.poisonStop (i.strand .dawn) .moraine c.addr o
    match ws, s.lostElement i c dead with
    | [], none => s
    | [], some e => stop (if choice.testBit 0 then (s.writeRun i c e.1 e.2).2 else s)
    | _, _ => stop (ws.zipIdx.foldl (fun x w => if choice.testBit w.2 then (match x.flightAccess i c (c.flight w.1.1) w.1.2 with | some y => y.1 | none => x) else x) s)

/-- A host request that had accesses on a dead plane (R265): each write was performed whole or not at all, as `choice` says; a read completes
with Completer Abort. -/
def State.resolveHost (s : State) (h : HostRequest) (dead : List Nat) (choice : Nat) : State :=
  let lost := h.left.filter (fun p => dead.contains (s.planeOf h.die p.2.1))
  if lost.isEmpty then s
  else if h.write then
    (lost.foldl (fun x p => if choice.testBit p.1 then (x.hostAccess h p.1).1 else x) s).putHost { h with done := h.done ++ lost.map Prod.fst }
  else { s with hostReqs := s.hostReqs.filter (fun x => x.num ≠ h.num), replies := s.replies ++ [⟨h.fn, true, []⟩] }

/-- REHASH_DRAINED of a die (R263, R265): PHASE := 2. With `flag` a command of the die, `who` and `command`, has lost writes with the plane. Otherwise,
once every count that the mode names is zero, the accesses of a lost plane are resolved (`index` says which Dawn writes were performed, `value` which
host writes), and the die reports. -/
def eventRehashDrained (s : State) : State :=
  let d := s.event.die
  match s.rehash with
  | some r =>
    if r.told.contains d = false ∨ r.drained.contains d ∨ s.systemPlane = none then s
    else
      let s1 := s.updDie d (fun x => { x with phase := 2 })
      let mine := s1.net.filter (fun a => a.who.die == d)
      let lostOn (a : Access) : Bool := r.lost && r.retire.any (fun p => a.onPlane p)
      let lostPart (h : HostRequest) (p : Nat × Nat × Nat) : Bool := r.lost && r.retire.contains (s1.planeOf h.die p.2.1)
      if s.event.flag then
        (if r.lost ∧ s.event.who.die = d then s1.loseCommand s.event.who.task s.event.command s.event.index r.retire else s1)
      else if mine.any (fun a => !a.resend && !lostOn a) ∨ s1.hostReqs.any (fun h => h.die == d && h.left.any (fun p => !lostPart h p)) then s1
      else
        let s2 := s1.resolveLost r.retire s.event.index (mine.filter lostOn) 0
        let s3 := (s2.hostReqs.filter (fun h => h.die == d)).foldl (fun x h => x.resolveHost h r.retire s.event.value.toNat) s2
        { s3 with rehash := some { r with drained := r.drained ++ [d] } }
  | none => s

/-! ## Steps 3 and 4 -/

/-- Planes that are live after a rehash, as a die sees them. -/
def Die.liveAfter (d : Die) (r : Rehash) : BitVec 4 :=
  (List.range 4).foldl (fun v p =>
    if r.retire.contains p then v &&& ~~~ (BitVec.ofNat 4 (2 ^ p)) else if r.restore.contains p then v ||| BitVec.ofNat 4 (2 ^ p) else v) d.live

/-- The default map of R262: entries that name no live plane, in increasing order, take the live planes cyclically. -/
def defaultMap (m : Map Nat (BitVec 2)) (live : BitVec 4) : Map Nat (BitVec 2) :=
  let planes := (List.range 4).filter (fun p => live.getLsbD p)
  ((List.range 256).foldl (fun (acc : Map Nat (BitVec 2) × Nat) n =>
    if live.getLsbD (mapEntry m n) then acc
    else (acc.1.set n (BitVec.ofNat 2 (planes.getD (acc.2 % planes.length) 0)), acc.2 + 1)) (m, 0)).1

/-- Whether every entry of a map names a live plane (R264). -/
def mapOk (m : Map Nat (BitVec 2)) (live : BitVec 4) : Bool := (List.range 256).all (fun n => live.getLsbD (mapEntry m n))

/-- REHASH_COMMIT reaches a die (R263), whose GEN rises by one, and by one for each run of the rehash that it missed (R266); a PMAPNEXT that names a dead plane is refused and rewritten with the default map (R264). -/
def eventRehashCommit (s : State) : State :=
  let d := s.event.die
  match s.rehash with
  | some r =>
    if s.ringDies.all (fun k => r.drained.contains k) = false ∨ (s.die d).phase ≠ 2 ∨ r.drained.contains d = false ∨ s.systemPlane = none then s
    else
      let live := (s.die d).liveAfter r
      if mapOk (s.die d).pmapNext live then
        ({ s with rehash := some { r with behind := r.behind.filter (· ≠ d) } } : State).updDie d (fun x =>
          { x with pmap := x.pmapNext, live := live, gen := x.gen + 1 + BitVec.ofNat 32 (r.behind.count d), phase := 3 })
      else s.updDie d (fun x => { x with pmapNext := defaultMap x.pmap live })
  | none => s

/-- REHASH_COMMITTED: a die's report reaches the plane master (R263). -/
def eventRehashCommitted (s : State) : State :=
  let d := s.event.die
  match s.rehash with
  | some r => if (s.die d).phase = 3 ∧ ¬ r.committed.contains d ∧ r.drained.contains d ∧ s.systemPlane.isSome then { s with rehash := some { r with committed := r.committed ++ [d] } } else s
  | none => s

/-- REHASH_RESUME reaches a die (R263, R265): traffic restarts, unacknowledged channel packets and the reads of a lost plane are sent again on their
new planes, and the message PLVEC goes to the owner. -/
def eventRehashResume (s : State) : State :=
  let d := s.event.die
  match s.rehash with
  | some r =>
    if s.ringDies.all (fun k => r.committed.contains k) = false ∨ r.resumed.contains d ∨ ¬ s.ringDies.contains d ∨ s.systemPlane = none then s
    else
      let s1 := s.updDie d (fun x => { x with phase := 0 })
      let s2 : State := { s1 with
        net := s1.net.map (fun a => if a.who.die = d ∧ a.resend ∧ a.awaits = false then { a with resend := false, plane := s1.planeOf d a.pa } else a)
        chans := s1.chans.mapVals (fun _ c => if c.src.die = d then { c with unacked := c.unacked.map (fun p => { p with sent := false }) } else c) }
      let done := r.resumed ++ [d]
      ({ s2.resendPlds d with rehash := if s.ringDies.all (fun k => done.contains k) then none else some { r with resumed := done } } : State).signalOwner d (s.die d).plvec.toNat
  | none => s

/-! ## Invalidations (R247) -/

/-- Whether an invalidation covers a 64 KiB block of a domain. -/
def Invalidation.hits (v : Invalidation) (domain : BitVec 8) (block : Nat) : Bool :=
  domain == v.domain && (v.nblk == 0 || (decide (v.block ≤ block) && decide (block < v.block + v.nblk.toNat)))

/-- Whether an invalidation covers part of the page of a cached translation. -/
def Invalidation.hitsPage (v : Invalidation) (e : TransEntry) : Bool :=
  let n := pageSize e.level / 65536
  let lo := e.block / n * n
  e.domain == v.domain && (v.nblk == 0 || (decide (lo < v.block + v.nblk.toNat) && decide (v.block < lo + n)))

/-- Domain of a task's load. -/
def State.taskDomain (s : State) (t : Task) : BitVec 8 := (s.load t.load).domain

/-- The caches of every die without the entries of a range (R247 item 2). -/
def State.dropRange (s : State) (v : Invalidation) : State :=
  { s with tiles := s.tiles.mapVals (fun _ t => { t with
      tcache := t.tcache.filter (fun e => !v.hitsPage e)
      lcache := t.lcache.filter (fun e => !v.hits (s.load e.load).domain (((s.load e.load).lrtab.toNat + 64 * e.handle) / 65536)) }) }

/-- Accesses and commands that pin a translation that an invalidation drops, by whichever block of its page they use it (R246, R247 item 3). -/
def State.pinsOf (s : State) (v : Invalidation) : List Nat × List (TaskId × Nat) :=
  let drops (domain : BitVec 8) (t : TileId) (b : Nat) : Bool := v.hits domain b || (s.tile t).tcache.any (fun e => e.covers domain b && v.hitsPage e)
  ((s.net.filter (fun a => a.blocks.any (drops a.domain a.who.tileId))).map Access.num,
   s.tasks.entries.flatMap (fun e => ((e.2.moraine.queue.filter (fun c =>
     c.parts.any (fun p => v.hitsPage { domain := s.taskDomain e.2, block := p.block, level := p.level, leaf := p.leaf }))).map (fun c => (e.1, c.seq)))))

/-- Whether what an invalidation waits for is over: the accesses performed, the commands completed, and no load or graph holding a pinned table
or record area in the range (R225, R246, R247, R249). -/
def State.pinsGone (s : State) (v : Invalidation) : Bool :=
  !s.net.any (fun a => v.accesses.contains a.num && !a.blocks.isEmpty) &&
  v.commands.all (fun c => !(s.task c.1).moraine.queue.any (fun x => x.seq == c.2)) &&
  s.loads.entries.all (fun e => e.2.status.final || e.2.lrparts.all (fun p => !v.hits e.2.domain p.block)) &&
  s.queues.entries.all (fun e => match e.2.graph with
    | some g => g.parts.all (fun p => !v.hits (s.load ⟨e.1.die, e.1.queue, 0⟩).domain p.block)
    | none => true)

/-- The first entry of a list that satisfies a test replaced. -/
def updFirst {α : Type} (p : α → Bool) (f : α → α) : List α → List α
  | [] => []
  | a :: as => if p a then f a :: as else a :: updFirst p f as

/-- XINV_COMPLETE (R247): with `flag` the broadcast, which is System-class (R254), drops the oldest invalidation's range that still stands; else the oldest completes once its
pins are gone. Neither happens while a rehash is in progress (R266). -/
def eventXinvComplete (s : State) : State :=
  let d := s.event.die
  if (s.die d).phase ≠ 0 then s
  else if s.event.flag ∧ s.systemPlane.isSome then
    match (s.die d).invs.find? (fun v => !v.dropped) with
    | some v =>
      let pins := s.pinsOf v
      (s.dropRange v).updDie d (fun x => { x with invs := updFirst (fun y => !y.dropped) (fun y => { y with dropped := true, accesses := pins.1, commands := pins.2 }) x.invs })
    | none => s
  else
    match (s.die d).invs with
    | v :: rest => if v.dropped ∧ s.pinsGone v then s.updDie d (fun x => { x with invs := rest, done := x.done + 1 }) else s
    | [] => s

/-! ## The events -/

/-- PLANE_RETIRE_PLANNED. -/
def execPlaneRetirePlanned (s : State) : Host.Outcome State Fault Refusal := .next (eventRetirePlanned s)
/-- PLANE_FAULT_DETECT. -/
def execPlaneFaultDetect (s : State) : Host.Outcome State Fault Refusal := .next (eventPlaneFault s)
/-- PLANE_STALL_TIMEOUT. -/
def execPlaneStallTimeout (s : State) : Host.Outcome State Fault Refusal := .next (eventPlaneStall s)
/-- REHASH_STOP. -/
def execRehashStop (s : State) : Host.Outcome State Fault Refusal := .next (eventRehashStop s)
/-- REHASH_DRAINED. -/
def execRehashDrained (s : State) : Host.Outcome State Fault Refusal := .next (eventRehashDrained s)
/-- REHASH_COMMIT. -/
def execRehashCommit (s : State) : Host.Outcome State Fault Refusal := .next (eventRehashCommit s)
/-- REHASH_COMMITTED. -/
def execRehashCommitted (s : State) : Host.Outcome State Fault Refusal := .next (eventRehashCommitted s)
/-- REHASH_RESUME. -/
def execRehashResume (s : State) : Host.Outcome State Fault Refusal := .next (eventRehashResume s)
/-- XINV_COMPLETE. -/
def execXinvComplete (s : State) : Host.Outcome State Fault Refusal := .next (eventXinvComplete s)

end Sys2Proof.Machine
end

