-- ==== Sys2Proof/Machine/Context.lean ====
section
/-! DEFINITION. Register images (R395, R408): their bytes, and a task's context put back from them. -/

namespace Sys2Proof.Machine

/-- Doubleword 0 of a state block (R408). -/
structure BlockHead where
  wholeA : Bool := false
  wholeS : Bool := false
  stateA : Nat
  stateS : Nat
  carryA : Nat := 0
  carryS : Nat := 0
  slot : Nat

/-- The doubleword of a block's head (R408). -/
def BlockHead.word (b : BlockHead) : Word64 :=
  BitVec.ofNat 64 (0xC5 * 2 ^ 56 + 1 * 2 ^ 52 + b.wholeA.toNat * 2 ^ 51 + b.wholeS.toNat * 2 ^ 50 + b.stateA % 16 * 2 ^ 46 +
    b.stateS % 16 * 2 ^ 42 + b.carryA % 64 * 2 ^ 36 + b.carryS % 64 * 2 ^ 30 + b.slot % 4 * 2 ^ 28)

/-- The STATE code of a strand in an image (R408). -/
def Strand.imageCode (st : Strand) : Nat :=
  match st.status with
  | .parked => 2
  | .faulted => 3
  | .ended => 4
  | _ => if st.gate.isSome then 5 else 1

/-- The state block (R408): three doublewords by the manual's map, and bytes whose place it does not give. -/
def blockBytes (b : BlockHead) (t : Task) (tag : Nat) : List Byte :=
  ofDwords [b.word, BitVec.ofNat 64 (t.group.toNat * 2 ^ 32), t.image] ++ (List.range 2024).map (fun k => Config.contextByte tag (24 + k))

/-- The register parts of an image, in order (R408). -/
def registerBytes (t : Task) (dawn dusk : Strand) : List Byte :=
  (List.range t.hdr.aregs).flatMap (fun i => natToBytes 8 (dawn.regs.get i 0).toNat) ++
  (List.range t.hdr.sregs).flatMap (fun i => natToBytes 4 (dusk.regs.get i 0).toNat) ++
  (List.range t.hdr.masks).flatMap (fun i => natToBytes 128 (t.k.get i 0).toNat) ++
  (List.range t.hdr.vframe).flatMap (fun i => (t.vec i).flatMap (fun c => natToBytes 4 c.toNat)) ++
  (List.range t.hdr.accs).flatMap (fun i => (t.accTile i).cells.flatMap (fun c => natToBytes 4 c.toNat))

/-- A register image (R408). -/
def contextImage (b : BlockHead) (t : Task) (dawn dusk : Strand) (tag : Nat) : List Byte := blockBytes b t tag ++ registerBytes t dawn dusk

/-- A little-endian field of n bytes at an offset of an image. -/
def bytesAt (bs : List Byte) (off n : Nat) : Nat := bytesToNat ((bs.drop off).take n)

/-- The registers that an image's bytes hold, put into strands and a task (R408). -/
def fromImage (bs : List Byte) (t : Task) (dawn dusk : Strand) : Task × Strand × Strand :=
  let h := t.hdr
  let oS := 2048 + 8 * h.aregs
  let oK := oS + 4 * h.sregs
  let oV := oK + 128 * h.masks
  let oA := oV + 4096 * h.vframe
  let cells (off n : Nat) : List Word32 := (List.range n).map (fun k => BitVec.ofNat 32 (bytesAt bs (off + 4 * k) 4))
  ({ t with k := ⟨(List.range h.masks).map (fun i => (i, BitVec.ofNat 1024 (bytesAt bs (oK + 128 * i) 128)))⟩
            v := ⟨(List.range h.vframe).map (fun i => (i, cells (oV + 4096 * i) 1024))⟩
            acc := ⟨(List.range h.accs).map (fun i => (i, { t.accTile i with elems := cells (oA + 65536 * i) 16384, bad := [] }))⟩
            badV := [], badK := [] },
   { dawn with regs := ⟨(List.range h.aregs).map (fun i => (i, BitVec.ofNat 64 (bytesAt bs (2048 + 8 * i) 8)))⟩, badRegs := [] },
   { dusk with regs := ⟨(List.range h.sregs).map (fun i => (i, BitVec.ofNat 64 (bytesAt bs (oS + 4 * i) 4)))⟩, badRegs := [] })

/-- The context whose image a state block belongs to: the one whose bytes it holds (log entry 7). -/
def State.contextOf (s : State) (bs : List Byte) : Option Context :=
  s.contexts.find? (fun c => (bs.drop 24).take 2024 == (List.range 2024).map (fun k => Config.contextByte c.tag (24 + k)))

/-- A faulted strand as Ready at its resume point (R34, R395). -/
def State.readyStrand (s : State) (who : StrandId) : Strand :=
  let st := s.strand who
  match st.fault with
  | some f =>
    let s1 := s.setStrand who { st with status := .ready, fault := none, waiting := [], park := none }
    match f.park with
    | some p => (s1.goTo who p.cont true).strand who
    | none => if f.code = FaultCode.trap ∨ f.code = FaultCode.bkpt then (s1.fallThrough who [st.pc] st.pc).strand who else s1.strand who
  | none => st

/-- A strand as an image records it: a Faulted one Ready at its resume point; taint is never kept (R275, R395). -/
def State.recordedStrand (s : State) (who : StrandId) : Strand :=
  let st := s.strand who
  { (if st.status = .faulted then s.readyStrand who else st) with taint := 0, heldCount := 0, heldBy := none, cmdqOnly := false, walk := none
                                                                  walkFailed := none, sources := [], pst := none }

/-- The event counters of a task. -/
def State.taskEvents (s : State) (i : TaskId) : List Word32 :=
  (List.range (s.task i).hdr.events).map (fun k => s.counter i.tileId ((s.task i).evBase + k))

/-- Event counters put back. -/
def State.putEvents (s : State) (i : TaskId) (es : List Word32) : State :=
  ((List.range es.length).foldl (fun x k => x.putEvent i.tileId ((s.task i).evBase + k) (es.getD k 0)) s)

/-- Whether a task is quiescent (R395). -/
def State.quiescent (s : State) (i : TaskId) : Bool :=
  let rests (c : CoreId) : Bool :=
    let st := (s.strand (i.strand c)).status
    st == .parked || st == .faulted || st == .ended
  rests .dawn && rests .dusk && (s.task i).serac.queue.isEmpty && (s.task i).moraine.queue.isEmpty &&
  !s.net.any (fun a => decide (a.who.task = i) && a.left.isNone && a.stage == .deferred)

/-- The declared ports of a task with what a context keeps of them (R401). -/
def State.taskPorts (s : State) (i : TaskId) : List (Bool × Nat × Port) :=
  let of (out : Bool) (mask : BitVec 8) : List (Bool × Nat × Port) :=
    ((List.range 8).filter (fun n => mask.getLsbD n)).map (fun n => (out, n, s.port (tilePort i.tileId out n)))
  of false (s.task i).hdr.inports ++ of true (s.task i).hdr.outports

/-- Scale registers, thresholds and counts put back on a task's ports; a threshold's counter moves with the task's event counters. -/
def State.putPorts (s : State) (i : TaskId) (base : Nat) (ps : List (Bool × Nat × Port)) : State :=
  ps.foldl (fun x p => x.updPort (tilePort i.tileId p.1 p.2.1) (fun q =>
    { q with scale := p.2.2.scale, threshold := p.2.2.threshold, count := p.2.2.count, counter := p.2.2.counter + (s.task i).evBase - base })) s

/-- The image of a target that CTXSV writes, and the state that keeps its context (R395). -/
def State.saveContext (s : State) (i : TaskId) : List Byte × State :=
  let t := s.task i
  let dawn := s.recordedStrand (i.strand .dawn)
  let dusk := s.recordedStrand (i.strand .dusk)
  let head : BlockHead := { wholeA := true, wholeS := true, stateA := dawn.imageCode, stateS := dusk.imageCode, slot := i.slot }
  (contextImage head t dawn dusk s.drawn,
   { s with drawn := s.drawn + 1, contexts := { tag := s.drawn, dawn := dawn, dusk := dusk, task := t, events := s.taskEvents i, ports := s.taskPorts i } :: s.contexts })

/-- A strand in the state that an image's doubleword 0 records (R395, R408): a suspended one that it makes Ready stands at its continuation, and one that
it parks waits at its next word. Codes that the manual does not list leave the state it was saved in. -/
def Strand.recorded (st : Strand) (code : Nat) : Strand :=
  match code with
  | 1 => { st with status := .ready, fault := none, park := none }
  | 2 => { st with status := .parked, fault := none, park := some (st.park.getD { cont := st.pc }) }
  | 3 => { st with status := .faulted }
  | 4 => { st with status := .ended, park := none }
  | 5 => { st with status := .ready, fault := none, park := none }
  | _ => st

/-- The task state that an image carries, on the slot's own grants (R395, R401). -/
def restoredTask (t : Task) (c : Context) : Task :=
  { t with nf := c.task.nf, aq := c.task.aq, bq := c.task.bq, cq := c.task.cq, tokens := c.task.tokens, mode := c.task.mode, oscale := c.task.oscale
           strides := c.task.strides, slots := c.task.slots, acc := c.task.acc
           serac := { t.serac with mark := c.task.serac.mark, pending := c.task.serac.pending }
           moraine := { t.moraine with mark := c.task.moraine.mark, pending := c.task.moraine.pending }
           status := if c.dawn.status = .ended ∧ c.dusk.status = .ended then .draining else .running }

/-- A strand of a context in the state that its image records, at its continuation where it was parked and is Ready again (R22). -/
def State.putStrand (s : State) (who : StrandId) (st : Strand) (code : Nat) : State :=
  let s1 := s.setStrand who (st.recorded code)
  match st.park with
  | some p => if st.status = .parked ∧ (code = 1 ∨ code = 5) then s1.goTo who p.cont true else s1
  | none => s1

/-- The target's context replaced from an image (R395); none when the image's program or declarations differ. -/
def State.loadContext (s : State) (i : TaskId) (bs : List Byte) : Option State :=
  let t := s.task i
  let d0 : Word64 := BitVec.ofNat 64 (bytesAt bs 0 8)
  match s.contextOf bs with
  | none => none
  | some c =>
    if fld d0 63 56 ≠ 0xC5 ∨ fld d0 55 52 ≠ 1 ∨ BitVec.ofNat 64 (bytesAt bs 16 8) ≠ t.image ∨ c.task.hdr ≠ t.hdr then none
    else
      let a := fld d0 49 46
      let b := fld d0 45 42
      let at' := { c with dawn := c.dawn.recorded a, dusk := c.dusk.recorded b }
      let t1 : Task := { restoredTask t at' with group := BitVec.ofNat 32 (bytesAt bs 12 4) }
      let r := fromImage bs t1 c.dawn c.dusk
      let s1 := ((s.setTask i r.1).putStrand (i.strand .dawn) r.2.1 a).putStrand (i.strand .dusk) r.2.2 b
      let s2 : State := { s1 with dies := s1.dies.mapVals (fun _ d => d.answer (fun e => e.task? == some i)) }
      some ((s2.putEvents i c.events).putPorts i c.task.evBase c.ports)

end Sys2Proof.Machine
end

