-- ==== Sys2Proof/Machine/Preempt.lean ====
section
/-! DEFINITION. Saving and restoring a graph (R397 to R413): when strands and regions stop, what the context area holds, and how a graph comes
back from it. A part of a save or restore is what stands on some dies, so that a gang's members act one by one (R431). -/

namespace Sys2Proof.Machine

/-! ## Coming to rest (R403 to R406) -/

/-- Whether a task is saved whole (R404). -/
def State.wholeTask (s : State) (i : TaskId) : Bool := (s.strand (i.strand .dawn)).whole || (s.strand (i.strand .dusk)).whole

/-- A strand stopped whole at its next instruction boundary (R404): a held instruction does not issue, nor does a fence that still waits
in its place. -/
def Strand.stopWhole (st : Strand) : Strand :=
  if st.stopped then st
  else { st with whole := true, status := if st.status = .held then .ready else st.status, heldCount := 0, heldBy := none, cmdqOnly := false
                 fences := st.fences.filter (fun f => f.own.isNone) }

/-- The live tasks of loads on a die. -/
def State.tasksOn (s : State) (ls : List LoadId) (die : Nat) : List TaskId := (ls.flatMap s.tasksOf).filter (fun i => i.die == die)

/-- PREEMPT_QTO_EXPIRE: the strands of a save that have not stopped are stopped whole (R404). -/
def eventQtoExpire (s : State) : State :=
  let die := s.event.die
  match (s.die die).preempt with
  | some p =>
    if p.restore = false ∧ p.begun ∧ p.qto ≤ p.counted ∧ (s.die die).prState = 1 then
      let ls := s.savable ⟨die, p.queue⟩
      let ids := (ls.flatMap s.tasksOf).filter (fun i => (s.task i).live && (s.load (s.task i).load).gating.contains i.die)
      (ids.foldl (fun x i => (x.updStrand (i.strand .dawn) Strand.stopWhole).updStrand (i.strand .dusk) Strand.stopWhole) s).updDie die (fun d =>
        { d with preempt := some { p with expired := true } })
    else s
  | none => s

/-- Whether every task of a graph's loads on a die is stopped (R399). -/
def State.partStopped (s : State) (ls : List LoadId) (die : Nat) : Bool :=
  ls.all (fun l => (s.load l).gating.contains die || !(s.partDies [l] l.die).contains die) &&
  (s.tasksOn ls die).all (fun i => (s.task i).live == false || ((s.strand (i.strand .dawn)).stopped && (s.strand (i.strand .dusk)).stopped))

/-- Whether a region is still (R406): stopped at a region clock, or not running. -/
def State.regionStill (s : State) (r : RegionId) : Bool := (s.region r).still || (s.region r).status == .failed || (s.region r).status == .loaded

/-- Whether the engines of a task have stopped (R405): the command that Serac works on stands at its stop point, so that those behind it,
which complete after it (R169), wait too (log entry 35); and every read of a Moraine unit that has begun has returned (R313). -/
def State.enginesStopped (s : State) (i : TaskId) : Bool :=
  (s.task i).serac.queue.head?.all (fun c => !c.started || s.atStop i c) && (s.task i).moraine.queue.all (fun c => c.flights.all (Flight.hasRead c))

/-- Whether the part of a graph on a die is at rest (R406): nothing of its tasks is under way, but for PLDs that their homes discard and fences
that wait for one (R290), no packet of its channels is unacknowledged and its regions are still. -/
def State.partAtRest (s : State) (ls : List LoadId) (die : Nat) : Bool :=
  s.partStopped ls die &&
  (s.tasksOn ls die).all (fun i =>
    (s.task i).live && s.enginesStopped i &&
    !s.net.any (fun a => a.who.task == i && a.stage != .deferred) && !s.raises.any (fun r => r.who.task == i) &&
    [CoreId.dawn, .dusk].all (fun c => (s.strand (i.strand c)).fences.all (fun f => f.own.isNone && !s.fenceMet (i.strand c) f))) &&
  ls.all (fun l => (s.chansOf l).all (fun c => decide ((s.chan c).src.die ≠ die) || (s.chan c).unacked.isEmpty) &&
    (s.load l).regions.all (fun r => r.region.die != die || s.regionStill r.region))

/-- Deferred PLDs of a graph's tasks on a die are discarded at their homes (R405). -/
def State.parkPlds (s : State) (leader : Nat) (ls : List LoadId) (die : Nat) : State :=
  let goes (a : Access) : Bool := a.stage == .deferred && a.left.isNone && (s.tasksOn ls die).contains a.who.task
  ({ s with net := s.net.filter (fun a => !goes a) } : State).updDie leader (fun d =>
    { d with preempt := d.preempt.map (fun p => { p with plds := p.plds ++ s.net.filter goes }) })

/-- When step 3 of a save ended for a die's regions (R403, R406): with its own tasks for a member of a gang, with the last die's
otherwise. -/
def State.stepThreeEnd (s : State) (p : Preempt) (die part : Nat) : Option Nat :=
  let ls := s.savable ⟨die, p.queue⟩
  if (s.graphGang ls).isSome then p.restAt.find? part
  else if (s.partDies ls die).all (fun k => (p.restAt.find? k).isSome) then some ((p.restAt.entries.map Prod.snd).foldl max 0) else none

/-- REGION_STILL_TIMEOUT of a region once step 3 has ended (R406): an element graph is still when it has moved nothing for 64 of its clocks, or
after 2^16 clocks; a sealed operator is still when it is idle, and stops its load when it has not been for 2^16 clocks. -/
def eventStillTimeout (s : State) : State :=
  let id : RegionId := ⟨s.event.die, s.event.region⟩
  let r := s.region id
  match r.load, r.image with
  | some l, some im =>
    match (s.die l.die).preempt with
    | some p =>
      if p.restore ∨ p.queue ≠ l.queue ∨ r.still ∨ ¬ (r.status = .running ∨ r.status = .closing) then s
      else
        match s.stepThreeEnd p l.die id.die with
        | none => s
        | some t =>
          let late := decide (t + regionCycles r.clksel 65536 ≤ s.clock)
          let still := if im.kind = 1 then s.regionIdle id r im else decide (r.moved + regionCycles r.clksel 64 ≤ s.clock) || late
          if still then s.setRegion id { r with still := true }
          else if late then s.stopLoad l id.die 0 (codeRecord FaultCode.deadlock.num)
          else s
    | none => s
  | _, _ => s

/-! ## What a save keeps (R400, R401) -/

/-- The carry set of a strand at a gate point (R399, R400); none is carried otherwise. -/
def carrySet (t : Task) (st : Strand) : List Word64 := match st.gate with | some c => t.hdr.carry.getD c [] | none => []

/-- A strand as a save keeps it (R401): its carried registers and predicates, or all of them. -/
def Strand.carried (st : Strand) (core : CoreId) (all : Bool) (set : List Word64) : Strand :=
  let regs := match core with | .dawn => dw set 0 | .dusk => dw set 1
  let preds := match core with | .dawn => (dw set 2).extractLsb' 48 16 | .dusk => (dw set 2).extractLsb' 32 16
  { st with regs := if all then st.regs else ⟨st.regs.entries.filter (fun e => regs.getLsbD e.1)⟩
            preds := if all then st.preds else (st.preds &&& preds) ||| 1
            badRegs := if all then st.badRegs else st.badRegs.filter (fun i => regs.getLsbD i)
            taint := 0, heldCount := 0, heldBy := none, cmdqOnly := false, walk := none, walkFailed := none, sources := [] }

/-- A task as a save keeps it (R401): the vector, mask and accumulator registers that the Dusk strand carries, or all of them; an accumulator tile
that a command in the queue names keeps its elements. -/
def Task.carried (t : Task) (all : Bool) (set : List Word64) : Task :=
  if all then t
  else
    let named := t.serac.queue.flatMap (fun c => seracTiles t.hdr.accs c)
    let first := fld (dw set 3) 52 43
    let vIn (i : Nat) : Bool := decide (first ≤ i) && decide (i < first + fld (dw set 3) 63 53)
    let kIn (i : Nat) : Bool := (dw set 2).getLsbD (16 + i)
    let aIn (i : Nat) : Bool := (dw set 2).getLsbD (8 + i) || named.contains i
    { t with v := ⟨t.v.entries.filter (fun e => vIn e.1)⟩, k := ⟨t.k.entries.filter (fun e => kIn e.1)⟩
             acc := t.acc.mapVals (fun i a => if aIn i then a else { a with elems := [], bad := [] })
             badV := t.badV.filter (fun i => vIn (i / 1024)), badK := t.badK.filter kIn }

/-- A task and its strands as a save keeps them. -/
def State.carriedTask (s : State) (i : TaskId) : Task × Strand × Strand :=
  let t := s.task i
  let all := s.wholeTask i
  let dawn := s.strand (i.strand .dawn)
  let dusk := s.strand (i.strand .dusk)
  (t.carried all (carrySet t dusk), dawn.carried .dawn all (carrySet t dawn), dusk.carried .dusk all (carrySet t dusk))

/-! ## The context area (R407, R408) -/

/-- Bytes whose values the manual does not give. -/
def freeBytes (tag from' n : Nat) : List Byte := (List.range n).map (fun k => Config.contextByte tag (from' + k))

/-- A task image (R408). -/
def State.taskImage (s : State) (i : TaskId) (tag : Nat) : List Byte :=
  let k := s.carriedTask i
  let whole := s.wholeTask i
  let head : BlockHead :=
    { wholeA := whole, wholeS := whole, stateA := k.2.1.imageCode, stateS := k.2.2.imageCode, carryA := k.2.1.gate.getD 0, carryS := k.2.2.gate.getD 0, slot := i.slot }
  contextImage head k.1 k.2.1 k.2.2 tag ++ freeBytes tag 2048 196608 ++ s.readTile i.tileId k.1.tmBase k.1.tmSize

/-- A part of the context area: the die that writes it, its load and its bytes. -/
structure AreaPart where
  die : Nat
  load : LoadId
  bytes : List Byte
  task : Option TaskId := none

/-- The parts after the area's header, in order (R407). -/
def State.areaParts (s : State) (ls : List LoadId) : List AreaPart :=
  ls.flatMap (fun l =>
    let n := 65536 * l.load
    ⟨l.die, l, freeBytes (s.drawn + n) 0 16384, none⟩ ::
    (s.chansOf l).zipIdx.map (fun c => ⟨(s.chan c.1).src.die, l, freeBytes (s.drawn + n + 1 + c.2) 0 (channelBytes (s.chan c.1)), none⟩) ++
    (s.tasksOf l).zipIdx.map (fun i => ⟨i.1.die, l, s.taskImage i.1 (s.drawn + n + 32768 + i.2), some i.1⟩))

/-- Parts with their addresses. -/
def placeParts : Nat → List AreaPart → List (Nat × AreaPart)
  | _, [] => []
  | a, p :: ps => (a, p) :: placeParts (a + p.bytes.length) ps

/-- The fault of a use of an area through a domain, if any (R398, R407). -/
def State.areaFault (s : State) (die : Nat) (domain : BitVec 8) (va n : Nat) (use : Use) : Option FaultCode :=
  (blocksOf va n).findSome? (fun b =>
    match s.walkTables die domain (b * 65536) with
    | .error f => some f.code
    | .ok (e, lvl) =>
      if leafHome e ≠ 0 ∨ leafPres e then some .prot
      else match s.checkPart e lvl (b * 65536) 8 use domain false with | .error f => some f.code | .ok _ => none)

/-- The first load whose part of an area faults, with its code. -/
def State.partFault (s : State) (die : Nat) (domain : BitVec 8) (ps : List (Nat × AreaPart)) (use : Use) : Option (LoadId × FaultCode) :=
  ps.findSome? (fun p => (s.areaFault die domain p.1 p.2.bytes.length use).map (fun c => (p.2.load, c)))

/-- A region's save area (R409): the image body, and the region's state when it holds any, whose bytes the manual gives no places for. -/
def regionArea (r : Region) (im : Image) (tag : Nat) : List Byte :=
  let state : List Byte :=
    if im.kind = 1 then (if Config.sealedHoldsState im.opid im.bytes r.sealedInputs then Config.sealedState im.opid im.bytes r.sealedInputs else [])
    else if r.holdsState im || !r.idle im then Config.regionState tag else []
  let has := if im.kind = 1 then Config.sealedHoldsState im.opid im.bytes r.sealedInputs else r.holdsState im || !r.idle im
  ofDwords [BitVec.ofNat 64 (0xC4 * 2 ^ 56 + has.toNat * 2 ^ 55), BitVec.ofNat 64 state.length, 0, 0, 0, 0, 0, 0] ++ im.bytes ++ state

/-- Regions of loads on some dies, with their save areas. -/
def State.regionAreas (s : State) (ls : List LoadId) (on : Nat → Bool) : List (LoadId × RegionId × Nat × List Byte) :=
  (ls.flatMap (fun l => ((s.load l).regions.filter (fun r => on r.region.die)).map (fun r => (l, r)))).zipIdx.map (fun e =>
    let r := s.region e.1.2.region
    (e.1.1, e.1.2.region, r.saveVa.toNat, match r.image with | some im => regionArea r im (s.drawn + e.2) | none => []))

/-- The fault of a save's areas on some dies, if any: the load it stops and the code (R407). -/
def State.saveFault (s : State) (die : Nat) (domain : BitVec 8) (area : Nat) (ls : List LoadId) (on : Nat → Bool) : Option (LoadId × FaultCode) :=
  match s.areaFault die domain area 4096 .store, ls.head? with
  | some c, some l => some (l, c)
  | _, _ =>
    match s.partFault die domain ((placeParts (area + 4096) (s.areaParts ls)).filter (fun p => on p.2.die)) .store with
    | some f => some f
    | none => (s.regionAreas ls on).findSome? (fun r => (s.areaFault r.2.1.die (s.load r.1).domain r.2.2.1 r.2.2.2.length .store).map (fun c => (r.1, c)))

/-! ## Step 5 (R403) -/

/-- What a graph's saved form takes from some dies. -/
def State.takePart (s : State) (g : SavedGraph) (ls : List LoadId) (on : Nat → Bool) : SavedGraph :=
  let ids := (ls.flatMap s.tasksOf).filter (fun i => on i.die)
  let kept := ids.map (fun i => (i, s.carriedTask i))
  let plds := match (ls.head?).bind (fun l => (s.die l.die).preempt) with | some p => p.plds | none => []
  { g with
    tasks := g.tasks ++ kept.map (fun k => (k.1, k.2.1))
    strands := g.strands ++ kept.flatMap (fun k => [(k.1.strand .dawn, k.2.2.1), (k.1.strand .dusk, k.2.2.2)])
    events := g.events ++ ids.map (fun i => (i, s.taskEvents i))
    plds := g.plds ++ plds.filter (fun a => on a.who.die)
    chans := g.chans ++ ((ls.flatMap s.chansOf).filter (fun c => on (s.chan c).src.die)).map (fun c => (c, s.chan c))
    ports := g.ports ++ s.ports.entries.filter (fun e => on e.1.die && (match e.2.chan with | some c => ls.contains c.load | none => false))
    regions := g.regions ++ (s.regions.entries.filter (fun e => on e.1.die && (match e.2.load with | some l => ls.contains l | none => false))).map (fun e =>
      (e.1, if e.2.status = .closing then { e.2 with status := .running } else e.2)) }

/-- Entries of strands that are saved keep the load they belong to (R381). -/
def Die.holdEntries (d : Die) (l : StrandId → Option LoadId) : Die :=
  let f (e : FqEntry) : FqEntry := match e.of with | .strand w => (match l w with | some x => { e with saved := some x } | none => e) | _ => e
  { d with fqPending := d.fqPending.map f, fqOpen := d.fqOpen.map f }

/-- Step 5 of a save on some dies (R403, R407): its parts are written, and what stands there moves to Saved. -/
def State.savePart (s0 : State) (die queue area : Nat) (on : Nat → Bool) : State :=
  let q : QueueId := ⟨die, queue⟩
  let ls := s0.savable q
  let s := ls.foldl (fun x l => (s0.partDies [l] l.die).foldl (fun y d => if on d then y.parkPlds die ls d else y) x) s0
  let dom := s.queueDomain die queue
  let g := s.takePart (s.saved.get q { area := BitVec.ofNat 64 area }) ls on
  let ids := (ls.flatMap s.tasksOf).filter (fun i => on i.die)
  let ps := (placeParts (area + 4096) (s.areaParts ls)).filter (fun p => on p.2.die)
  let s1 := ps.foldl (fun x p => x.writeVirtual die dom p.1 p.2.bytes) s
  let s2 := (s.regionAreas ls on).foldl (fun x r => x.writeVirtual r.2.1.die (s.load r.1).domain r.2.2.1 r.2.2.2) s1
  { s2 with
    drawn := s2.drawn + 16777216
    saved := s2.saved.set q g
    tasks := s2.tasks.mapVals (fun i t => if ids.contains i then { t with status := .saved } else t)
    strands := s2.strands.mapVals (fun i st => if ids.contains i.task then { st with status := .saved } else st)
    regions := s2.regions.mapVals (fun i r => match r.load with | some l => if on i.die && ls.contains l then { r with status := .saved } else r | none => r)
    dies := s2.dies.mapVals (fun _ d => d.holdEntries (fun w => if ids.contains w.task then some (s.task w.task).load else none)) }

/-- The area's header (R407). -/
def areaHeader (nload bytes : Nat) : List Byte :=
  ofDwords [BitVec.ofNat 64 (0xC3 * 2 ^ 56 + 2 ^ 52 + nload % 512 * 2 ^ 43), BitVec.ofNat 64 bytes] ++ List.replicate 4080 0

/-- The end of step 5: the header is written and the graph's loads are Saved. -/
def State.finishSave (s : State) (die queue area bytes : Nat) : State :=
  let q : QueueId := ⟨die, queue⟩
  let ls := s.savable q
  let g := s.saved.get q { area := BitVec.ofNat 64 area }
  let whole := (g.strands.filter (fun e => e.1.core == .dawn && (e.2.whole || g.strands.any (fun x => x.1 == e.1.task.strand .dusk && x.2.whole)))).length
  let s1 := s.writeVirtual die (s.queueDomain die queue) area (areaHeader ls.length bytes)
  let s2 : State := { s1 with
    saved := s1.saved.set q { g with header := true, loads := ls.map (fun l => (l, { s.load l with gating := [] })) }
    loads := s1.loads.mapVals (fun i l => if ls.contains i then { l with status := .saved, gating := [] } else l) }
  (s2.updQueue q (fun r => { r with graph := r.graph.map (fun x => { x with saved := true }) })).updDie die (fun d =>
    { d with prState := 3, prWhole := BitVec.ofNat 12 whole })

/-- Step 5 of a save that no gang shares, or the stop of a load whose area faults (R407). -/
def State.saveAll (s : State) (die : Nat) (p : Preempt) : State :=
  let q : QueueId := ⟨die, p.queue⟩
  let ls := s.savable q
  match s.saveFault die (s.queueDomain die p.queue) p.area.toNat ls (fun _ => true) with
  | some f => s.stopLoad f.1 die 0 (codeRecord f.2.num)
  | none =>
    let bytes := s.areaBytes ls
    ({ s with saved := s.saved.erase q }.savePart die p.queue p.area.toNat (fun _ => true)).finishSave die p.queue p.area.toNat bytes

/-- Whether no rehash is in progress on some dies (R263). -/
def State.diesNormal (s : State) (ds : List Nat) : Bool := ds.all (fun d => (s.die d).phase == 0)

/-- PREEMPT_QUIESCENT of the part of a save on die `index` (R403 steps 3 to 5, R406): first its tasks have stopped, then it is at rest; a save that
no gang shares is then written, once no rehash is in progress (R266). -/
def eventQuiescent (s : State) : State :=
  let die := s.event.die
  let part := s.event.index
  match (s.die die).preempt with
  | some p =>
    let ls := s.savable ⟨die, p.queue⟩
    if p.restore ∨ p.begun = false ∨ (s.die die).prState = 3 ∨ ¬ (s.partDies ls die).contains part then s
    else if (p.restAt.find? part).isNone then
      if s.partStopped ls part then
        let at' := p.restAt.set part s.clock
        (s.updDie die (fun d => { d with
          preempt := some { p with restAt := at' }
          prState := if (s.partDies ls die).all (fun k => (at'.find? k).isSome) then 2 else d.prState })).parkPlds die ls part
      else s
    else if (s.graphGang ls).isNone ∧ s.partAtRest ls part = true ∧ s.diesNormal (s.partDies ls die) = true then s.saveAll die p
    else s
  | none => s

/-- PREEMPT_SAVE_COMPLETE: step 6 of a save (R403); the records of its loads stay in the layout-record caches (R250). Where every load of the graph
has stopped since step 5, nothing is left to release. -/
def eventSaveComplete (s : State) : State :=
  let die := s.event.die
  match (s.die die).preempt with
  | some p =>
    let q : QueueId := ⟨die, p.queue⟩
    let result := if (s.die die).prWhole = 0 then 1 else 2
    if p.restore ∨ (s.die die).prState ≠ 3 then s
    else
      match s.saved.find? q with
      | some g =>
        if g.header = false then s
        else
          let ids := g.tasks.map Prod.fst
          let s1 := (g.loads.map Prod.fst).foldl (fun x l => x.vacate l) s
          ({ s1 with tasks := ⟨s1.tasks.entries.filter (fun e => !ids.contains e.1)⟩
                     strands := ⟨s1.strands.entries.filter (fun e => !ids.contains e.1.task)⟩ } : State).endRequest die p.queue 4 result
      | none => s.endRequest die p.queue 4 result
  | none => s

/-! ## Restoring (R410) -/

/-- What a restore finds in its area. -/
inductive AreaCheck where
  | ok (images : List (TaskId × List Byte))
  | mismatch
  | faults (l : LoadId) (c : FaultCode)

/-- Whether a register image belongs to a task (R408, R410): its MAGIC and image base. -/
def imageAgrees (t : Task) (bs : List Byte) : Bool := bytesAt bs 7 1 == 0xC5 && BitVec.ofNat 64 (bytesAt bs 16 8) == t.image

/-- Step 1 of a restore: the area's header and every image are read and checked (R410). -/
def State.checkArea (s : State) (die : Nat) (g : SavedGraph) (area : Nat) (first : LoadId) : AreaCheck :=
  let dom := s.queueDomain die first.queue
  match s.readVirtual die dom area 16 with
  | none => .faults first ((s.areaFault die dom area 16 .load).getD .xlate)
  | some h =>
    if bytesAt h 7 1 ≠ 0xC3 ∨ bytesAt h 6 1 / 16 ≠ 1 ∨ bits (bytesAt h 0 8) 51 43 ≠ g.loads.length then .mismatch
    else
      (g.parts.foldl (fun (acc : Nat × AreaCheck) p =>
        (acc.1 + p.2.1,
          match acc.2, p.2.2 with
          | .ok l, some i =>
            (match s.readVirtual die dom acc.1 p.2.1 with
              | none => .faults p.1 ((s.areaFault die dom acc.1 p.2.1 .load).getD .xlate)
              | some bs => match (g.tasks.find? (fun t => t.1 == i)) with | some t => if imageAgrees t.2 bs then .ok (l ++ [(i, bs)]) else .mismatch | none => .mismatch)
          | x, _ => x)) (area + 4096, .ok [])).2

/-- Whether ranges of a grant meet. -/
def rangesMeet (a n b m : Nat) : Bool := n ≠ 0 && m ≠ 0 && decide (a < b + m) && decide (b < a + n)

/-- Whether a saved task's slot and grants are free (R208, R226, R410). -/
def State.slotFree (s : State) (i : TaskId) (t : Task) : Bool :=
  (s.task i).status == .free && s.tilePowered i.tileId &&
  (s.occupants i.tileId).all (fun o =>
    o.load.die == t.load.die && o.load.queue == t.load.queue && !rangesMeet o.tmBase o.tmSize t.tmBase t.tmSize &&
    !rangesMeet o.vBase o.hdr.vframe t.vBase t.hdr.vframe && !rangesMeet o.evBase o.hdr.events t.evBase t.hdr.events &&
    o.accTiles.all (fun a => !t.accTiles.contains a) && o.hdr.inports &&& t.hdr.inports == 0 && o.hdr.outports &&& t.hdr.outports == 0) &&
  decide (t.tmBase + t.tmSize + s.reserved i.tileId none ≤ Config.tileMemBytes)

/-- Whether the channels of a saved graph have their tiles' memory free (R208, R334). -/
def State.queuesFit (s : State) (g : SavedGraph) : Bool :=
  let homes := (g.chans.flatMap (fun c => c.2.dests.map DestQueue.home)).eraseDups
  homes.all (fun t =>
    let own := (g.chans.map (fun c => (c.2.dests.filter (fun d => d.home == t)).length * c.2.depth * 64)).sum
    let top := (((s.occupants t).map (fun o => o.tmBase + o.tmSize)) ++ ((g.tasks.filter (fun e => e.1.tileId == t)).map (fun e => e.2.tmBase + e.2.tmSize))).foldl max 0
    decide (top + s.reserved t none + own ≤ Config.tileMemBytes))

/-- Step 2 of a restore: whether all that a saved graph held on some dies is free (R410). -/
def State.partFree (s : State) (g : SavedGraph) (on : Nat → Bool) : Bool :=
  g.tasks.all (fun e => !on e.1.die || s.slotFree e.1 e.2) &&
  g.regions.all (fun e => !on e.1.die || ((s.region e.1).load.isNone && s.regionPowered e.1)) &&
  g.ports.all (fun e => !on e.1.die || (s.port e.1).chan.isNone) && s.queuesFit g

/-- A saved task put back in its slot, still Saved (R410 step 5): its registers and memory come from its image. -/
def State.placeTask (s : State) (g : SavedGraph) (i : TaskId) (t : Task) (bs : List Byte) : State :=
  let strandOf (c : CoreId) : Strand := match g.strands.find? (fun e => e.1 == i.strand c) with | some e => e.2 | none => {}
  let r := fromImage bs t (strandOf .dawn) (strandOf .dusk)
  let s1 := s.writeTile i.tileId t.tmBase ((bs.drop (imageBytes t.hdr + 196608)).take t.tmSize)
  let s2 := s1.setTask i { r.1 with status := .saved, badV := t.badV, badK := t.badK, acc := r.1.acc.mapVals (fun k a => { a with bad := (t.accTile k).bad }) }
  let s3 := s2.setStrand (i.strand .dawn) { r.2.1 with status := .saved, badRegs := (strandOf .dawn).badRegs }
  let s4 := s3.setStrand (i.strand .dusk) { r.2.2 with status := .saved, badRegs := (strandOf .dusk).badRegs }
  s4.putEvents i (match g.events.find? (fun e => e.1 == i) with | some e => e.2 | none => [])

/-- Steps 3 to 5 of a restore on some dies (R410): channels, regions and tasks are put back, still Saved. -/
def State.loadPart (s : State) (g : SavedGraph) (images : List (TaskId × List Byte)) (on : Nat → Bool) : State :=
  let s1 := (g.chans.filter (fun c => on c.2.src.die)).foldl (fun x c => x.setChan c.1 c.2) s
  let s2 := (g.ports.filter (fun p => on p.1.die)).foldl (fun x p => x.setPort p.1 p.2) s1
  let s3 := (g.regions.filter (fun r => on r.1.die)).foldl (fun x r => x.setRegion r.1 { r.2 with status := .saved }) s2
  (images.filter (fun e => on e.1.die)).foldl (fun x e =>
    match g.tasks.find? (fun t => t.1 == e.1) with | some t => x.placeTask g e.1 t.2 e.2 | none => x) s3

/-- Step 3 of a restore: whether every region's image is fetched again and verified (R324, R410). -/
def State.imagesHold (s : State) (g : SavedGraph) (on : Nat → Bool) : Bool :=
  let types (p : PortId) : Option Word32 :=
    match g.ports.find? (fun e => e.1 == p) with
    | some e => (e.2.chan.bind (fun c => (g.chans.find? (fun x => x.1 == c)).map Prod.snd)).map (fun c => if p.out then c.stype else c.dtype)
    | none => none
  g.regions.all (fun r => !on r.1.die || (s.acceptImage types r.1 (s.regionDomain r.2) r.2.imageVa.toNat r.2.clksel).isSome)

/-- A restored entry awaits its answer again, and an answer kept for it applies (R381), with LAST and ACCEPTED (R377). -/
def State.applyKept (s : State) (die : Nat) (e : FqEntry) : State :=
  match e.kept with
  | none => s
  | some (a, v) =>
    match s.act die e a v with
    | .ok t => (t.updDie die (fun d => { d with fqOpen := d.fqOpen.filter (fun x => x.seq ≠ e.seq || x.of ≠ e.of) })).answered die 0
    | .error k => s.answered die k

/-- Entries of strands that are restored. -/
def State.releaseEntries (s : State) (ids : List TaskId) : State :=
  let mine (e : FqEntry) : Bool := match e.of with | .strand w => e.saved.isSome && ids.contains w.task | _ => false
  let f (e : FqEntry) : FqEntry := if mine e then { e with saved := none, kept := none } else e
  let kept := s.dies.entries.flatMap (fun d => (d.2.fqOpen.filter (fun e => mine e && e.kept.isSome)).map (fun e => (d.1, { e with saved := none })))
  let s1 : State := { s with dies := s.dies.mapVals (fun _ d => { d with fqPending := d.fqPending.map f, fqOpen := d.fqOpen.map f }) }
  kept.foldl (fun x e => x.applyKept e.1 e.2) s1

/-- A strand as it runs on after a restore (R410): one at a gate point stands at its section's first word again, with that section's needs. -/
def Strand.resumed (st : Strand) (status : StrandStatus) : Strand := { st with status := status, gate := none, whole := false }

/-- Step 6 of a restore on some dies (R410): deferred PLDs are translated and sent again, commands translate again, and tasks, strands and regions
return to what they were. -/
def State.resumePart (s : State) (g : SavedGraph) (on : Nat → Bool) : State :=
  let ids := (g.tasks.map Prod.fst).filter (fun i => on i.die)
  let plds := g.plds.filter (fun a => on a.who.die)
  let s1 : State := { s with
    net := s.net ++ plds.map Access.unsent
    tasks := s.tasks.mapVals (fun i t => match g.tasks.find? (fun e => e.1 == i && on i.die) with | some e => { t with status := e.2.status } | none => t)
    strands := s.strands.mapVals (fun i st => match g.strands.find? (fun e => e.1 == i && on i.die) with | some e => st.resumed e.2.status | none => st)
    regions := s.regions.mapVals (fun i r => match g.regions.find? (fun e => e.1 == i && on i.die) with | some e => { r with status := e.2.status, still := false } | none => r) }
  let s2 := (plds.map (fun a => a.who.die)).eraseDups.foldl State.resendPlds s1
  let s3 := ids.foldl (fun x i => ((x.task i).moraine.queue.filter (fun c => !c.finished)).foldl (fun y c => y.retranslate i c.seq) x) s2
  s3.releaseEntries ids

/-- What of a saved graph belongs to loads that are still Saved. -/
def State.stillSaved (s : State) (g : SavedGraph) : SavedGraph :=
  let p (l : LoadId) : Bool := (s.load l).status == .saved
  let mine (i : TaskId) : Bool := match g.tasks.find? (fun t => t.1 == i) with | some t => p t.2.load | none => false
  { g with loads := g.loads.filter (fun e => p e.1), tasks := g.tasks.filter (fun e => p e.2.load), strands := g.strands.filter (fun e => mine e.1.task)
           events := g.events.filter (fun e => mine e.1), plds := g.plds.filter (fun a => mine a.who.task), chans := g.chans.filter (fun e => p e.1.load)
           ports := g.ports.filter (fun e => match e.2.chan with | some c => p c.load | none => false)
           regions := g.regions.filter (fun e => match e.2.load with | some l => p l | none => false) }

/-- The end of a restore: its loads are what they were (R410 step 6). -/
def State.finishRestore (s : State) (die queue : Nat) (g : SavedGraph) : State :=
  let q : QueueId := ⟨die, queue⟩
  let s1 := g.loads.foldl (fun x e => x.updLoad e.1 (fun l => { l with status := e.2.status, gating := [] })) s
  (({ s1 with saved := s1.saved.erase q } : State).updQueue q (fun r => { r with graph := r.graph.map (fun x => { x with saved := false }) })).endRequest die queue 0 3

/-- The dies on which a saved graph held tasks, channel sources or regions. -/
def SavedGraph.dies (g : SavedGraph) : List Nat :=
  (g.tasks.map (fun e => e.1.die) ++ g.chans.map (fun e => e.2.src.die) ++ g.regions.map (fun e => e.1.die)).eraseDups

/-- The loads of a saved graph, of which the first stands for its area. -/
def SavedGraph.first (g : SavedGraph) (q : QueueId) : LoadId := match g.loads with | e :: _ => e.1 | [] => ⟨q.die, q.queue, 0⟩

/-- PREEMPT_RESTORE_COMPLETE of a graph that no gang shares (R410): refused when the area or an image does not agree, else once everything it held is
free. It waits while a rehash is in progress on a die of the graph (R263, R266). -/
def eventRestoreComplete (s : State) : State :=
  let die := s.event.die
  match (s.die die).preempt with
  | some p =>
    let q : QueueId := ⟨die, p.queue⟩
    match s.saved.find? q with
    | some all =>
      if p.restore = false ∨ (s.graphGang (all.loads.map Prod.fst)).isSome ∨ s.diesNormal (die :: all.dies) = false then s
      else
        match s.checkArea die all p.area.toNat (all.first q) with
        | .mismatch => s.endRequest die p.queue (if all.header then 4 else 0) 6
        | .faults l c => s.stopLoad l die 0 (codeRecord c.num)
        | .ok images =>
          let g := s.stillSaved all
          if s.partFree g (fun _ => true) = false then s
          else if s.imagesHold g (fun _ => true) = false then s.endRequest die p.queue 4 6
          else ((s.loadPart g images (fun _ => true)).resumePart g (fun _ => true)).finishRestore die p.queue g
    | none => s
  | none => s

/-! ## The events -/

/-- PREEMPT_QTO_EXPIRE. -/
def execPreemptQtoExpire (s : State) : Host.Outcome State Fault Refusal := .next (eventQtoExpire s)
/-- REGION_STILL_TIMEOUT. -/
def execRegionStillTimeout (s : State) : Host.Outcome State Fault Refusal := .next (eventStillTimeout s)
/-- PREEMPT_QUIESCENT. -/
def execPreemptQuiescent (s : State) : Host.Outcome State Fault Refusal := .next (s.onSystemPlane eventQuiescent)
/-- PREEMPT_SAVE_COMPLETE. -/
def execPreemptSaveComplete (s : State) : Host.Outcome State Fault Refusal := .next (eventSaveComplete s)
/-- PREEMPT_RESTORE_COMPLETE. -/
def execPreemptRestoreComplete (s : State) : Host.Outcome State Fault Refusal := .next (eventRestoreComplete s)

end Sys2Proof.Machine
end

