-- ==== Sys2Proof/Machine/Deadlock.lean ====
section
/-! DEFINITION. What the machine counts cycle by cycle beside its clock: the deadlock detectors (R389), the idle cycles of a plane (R262) and the
cycles of a save (R403); and the wait-for trace of a detector (R390, R416). -/

namespace Sys2Proof.Machine

/-! ## Endpoints of a wait -/

/-- What a wait-for word names (R390). -/
inductive WaitPoint where
  | strand (w : StrandId)
  | engine (i : TaskId) (e : Engine)
  | region (r : RegionId)
  | queue (c : ChanId) (k : Nat)
deriving DecidableEq, Repr

/-- Why an endpoint waits, with the port and channel concerned (R390): the CAUSE code, and where the trace goes on. -/
structure Wait where
  cause : Nat
  port : Nat := 0
  chan : Nat := 0
  elem : Nat := 0
  next : Option WaitPoint := none

/-- The task on a tile that declared a port (R25, R208). -/
def State.portOwner (s : State) (p : PortId) : Option TaskId :=
  ((List.range Config.slotsPerTile).map (fun k => (⟨p.die, p.index, k⟩ : TaskId))).find? (fun i =>
    (s.task i).status ≠ .free && (if p.out then (s.task i).hdr.outports else (s.task i).hdr.inports).getLsbD p.port)

/-- The task whose Moraine command is bound to a streamer endpoint. -/
def State.streamerOwner (s : State) (p : PortId) : Option TaskId :=
  ((List.range Config.slotsPerTile).map (fun k => (⟨p.die, p.index, k⟩ : TaskId))).find? (fun i =>
    (s.task i).moraine.queue.any (fun c => streamerOf i.tileId c == some p))

/-- The endpoint at a channel's source (R390). -/
def State.sourceOf (s : State) (c : ChanId) : Option WaitPoint :=
  let p := (s.chan c).src
  match p.kind with
  | .region => some (.region ⟨p.die, p.index⟩)
  | .tile => (s.portOwner p).map (fun i => .strand (i.strand .dusk))
  | .streamer => (s.streamerOwner p).map (fun i => .engine i .moraine)

/-- The lowest-numbered destination of a channel that is off (R390). -/
def State.offQueue (s : State) (c : ChanId) : Option WaitPoint :=
  ((s.chan c).dests.zipIdx.find? (fun d => d.1.off)).map (fun d => .queue c d.2)

/-- The endpoint of an engine number in a task. -/
def partner (i : TaskId) : Engine → WaitPoint
  | .dawn => .strand (i.strand .dawn)
  | .dusk => .strand (i.strand .dusk)
  | e => .engine i e

/-- An engine by its number (R7). -/
def engineOfNum (n : Nat) : Engine := Engine.ofBits (BitVec.ofNat 2 n)

/-- A wait at a port: empty input or output that is off. -/
def State.portWait (s : State) (p : PortId) : Wait :=
  match (s.port p).chan with
  | none => { cause := 0 }
  | some c =>
    if p.out then { cause := 2, port := 16 + p.port, chan := c.idx, next := s.offQueue c }
    else { cause := 1, port := p.port, chan := c.idx, next := s.sourceOf c }

/-- Whether a register of a strand waits for a deferred PLD (R290, R390). -/
def State.awaitsPresence (s : State) (w : StrandId) (i : Nat) : Bool := s.net.any (fun a => a.who == w && a.kind == .pld && a.stage == .deferred && a.dest == some i)

/-- The wait of a hold (R390). -/
def State.holdWait (s : State) (w : StrandId) (h : Hold) : Wait :=
  match h with
  | .port p => s.portWait p
  | .portCmd p => s.portWait p
  | .token k => { cause := 3, next := some (partner w.task (engineOfNum (k / 3))) }
  | .queueEmpty _ => { cause := 4, next := some (.strand (w.task.strand w.core.other)) }
  | .queueFull _ => { cause := 4, next := some (.strand (w.task.strand w.core.other)) }
  | .reg i => if s.awaitsPresence w i then { cause := 5 } else { cause := 0 }
  | .slots e => { cause := 7, next := some (.engine w.task e) }
  | .needs e => { cause := 10, next := some (partner w.task e) }
  | _ => { cause := 0 }

/-- The wait of a strand. -/
def State.strandWait (s : State) (w : StrandId) : Wait :=
  let st := s.strand w
  match st.status, st.park, st.heldBy with
  | .ended, _, _ => { cause := 8 }
  | .faulted, _, _ => { cause := 9 }
  | .parked, some p, _ => if p.counter.isSome then { cause := 6 } else (match p.causes.head? with | some h => s.holdWait w h.1 | none => { cause := 0 })
  | .held, _, some h => s.holdWait w h
  | _, _, _ => { cause := 0 }

/-- The wait of an engine's oldest command. -/
def State.engineWait (s : State) (i : TaskId) (e : Engine) : Wait :=
  match ((s.task i).engineState e).queue with
  | [] => { cause := 0 }
  | c :: _ =>
    if c.started = false then (if popMet (s.task i) e c then { cause := 0 } else { cause := 3, next := some (partner i (tokenField c.word.pop).1) })
    else if e = .serac then
      match (smmPorts c).find? (fun p => decide (c.blocksStaged.get p.1 0 * s.blockLength i p.2 ≤ c.progress)) with
      | some p => s.portWait (tilePort i.tileId false p.2)
      | none => { cause := 0 }
    else
      match streamerOf i.tileId c with
      | some p => if p.out then (if s.roomAt p = 0 then s.portWait p else { cause := 0 }) else (if (s.inToks p).isEmpty then s.portWait p else { cause := 0 })
      | none => { cause := 0 }

/-- The element slot of a region that a port belongs to (R356, R390): the SOURCE of an input port, the element that feeds an output port; 0 in a
sealed region, which has no elements. -/
def Region.portSlot (r : Region) (out : Bool) (port : Nat) : Nat :=
  match r.image with
  | some im =>
    let ns := if im.kind = 2 then nodesOf im.body else []
    let mine (n : Node) : Bool :=
      if out then (edgesFrom n).any (fun e => e.slot == 1016 + port) else n.opn == 0x01 && fld n.w.param 2 0 == port
    ((ns.find? mine).map Node.slot).getD 0
  | none => 0

/-- The wait of a region: its lowest output port that cannot hand its token on, or the lowest input port with nothing to take. -/
def State.regionWait (s : State) (r : RegionId) : Wait :=
  let g := s.region r
  let blocked (n : Nat) : Bool := match g.links.get (linkKey (1016 + n) 0) [] with | t :: _ => (s.portTake (regionPort r true n) t).isNone | [] => false
  match (List.range 8).find? blocked with
  | some n => { s.portWait (regionPort r true n) with elem := g.portSlot true n }
  | none =>
    match (List.range 8).find? (fun n => (match g.image with | some im => im.inmask.getLsbD n | none => false) && (s.inToks (regionPort r false n)).isEmpty) with
    | some n => { s.portWait (regionPort r false n) with elem := g.portSlot false n }
    | none => { cause := 0 }

/-- The wait of a destination queue: its consumer (R416). -/
def State.queueWait (s : State) (c : ChanId) (k : Nat) : Wait :=
  match (s.chan c).dests[k]? with
  | none => { cause := 0 }
  | some d =>
    { cause := 0, port := d.port.port, chan := c.idx
      next := match d.port.kind with
        | .region => some (.region ⟨d.port.die, d.port.index⟩)
        | .tile => (s.portOwner d.port).map (fun i => if seracNames (s.task i) d.port.port then .engine i .serac else .strand (i.strand .dusk))
        | .streamer => (s.streamerOwner d.port).map (fun i => .engine i .moraine) }

/-- The wait of an endpoint. -/
def State.waitOf (s : State) : WaitPoint → Wait
  | .strand w => s.strandWait w
  | .engine i e => s.engineWait i e
  | .region r => s.regionWait r
  | .queue c k => s.queueWait c k

/-- The task that an endpoint belongs to. -/
def State.taskOf (s : State) : WaitPoint → Option TaskId
  | .strand w => some w.task
  | .engine i _ => some i
  | .region _ => none
  | .queue c k =>
    match (s.chan c).dests[k]? with
    | some d => (match d.port.kind with | .region => none | .tile => s.portOwner d.port | .streamer => s.streamerOwner d.port)
    | none => none

/-- A wait-for word (R390, R416). -/
def State.waitWord (s : State) (e : WaitPoint) : Word64 :=
  let w := s.waitOf e
  let slot := match s.taskOf e with | some i => i.slot | none => 0
  let place (kind die region index engine : Nat) : Nat :=
    kind * 2 ^ 60 + w.cause % 16 * 2 ^ 56 + die % 256 * 2 ^ 48 + region * 2 ^ 47 + index % 64 * 2 ^ 41 + engine * 2 ^ 39 + slot % 4 * 2 ^ 37 + w.port % 32 * 2 ^ 32 + w.elem % 1024 * 2 ^ 22 + w.chan % 8192
  BitVec.ofNat 64 (match e with
    | .strand x => place (x.core.engine.num + 1) x.die 0 x.tile x.core.engine.num
    | .engine i g => place (g.num + 1) i.die 0 i.tile g.num
    | .region r => place 5 r.die 1 r.region 0
    | .queue c k =>
      match (s.chan c).dests[k]? with
      | some d => place 6 d.port.die (if d.port.kind = .region then 1 else 0) d.port.index 0
      | none => 0)

/-- A trace from an endpoint (R390): it ends at an endpoint that waits on nothing or is already listed. -/
def State.traceFrom (s : State) : Nat → Option WaitPoint → List WaitPoint → List WaitPoint
  | 0, _, seen => seen.reverse
  | _ + 1, none, seen => seen.reverse
  | fuel + 1, some e, seen => if seen.contains e then seen.reverse else s.traceFrom fuel (s.waitOf e).next (e :: seen)

/-! ## Waiters (R389, R390) -/

/-- Live tasks of a load on a die. -/
def State.liveOn (s : State) (l : LoadId) (die : Nat) : List TaskId := s.tasks.keysWhere (fun i t => t.live && t.load == l && i.die == die)

/-- Whether a wait is one that lets a detector fire. -/
def Wait.counts (w : Wait) (strand : Bool) : Bool := if strand then [1, 2, 3, 4, 5, 6, 10].contains w.cause else [1, 2, 3].contains w.cause

/-- Waiters of a load on a die: since when each waits, tile, slot and engine, and the endpoint (R390). -/
def State.waiters (s : State) (l : LoadId) (die : Nat) : List ((Nat × Nat × Nat × Nat) × WaitPoint) :=
  (s.liveOn l die).flatMap (fun i =>
    ([CoreId.dawn, CoreId.dusk].filter (fun c => (s.strandWait (i.strand c)).counts true)).map (fun c =>
      let st := s.strand (i.strand c)
      let since := match st.park with | some p => if p.counter.isSome then p.since else st.heldSince | none => st.heldSince
      ((since, i.tile, i.slot, c.engine.num), WaitPoint.strand (i.strand c))) ++
    ([Engine.serac, Engine.moraine].filter (fun e => (s.engineWait i e).counts false)).map (fun e =>
      ((match ((s.task i).engineState e).queue with | c :: _ => c.waitSince | [] => 0, i.tile, i.slot, e.num), WaitPoint.engine i e)))

/-- Lexicographic order of waiters. -/
def earlierWait (a b : Nat × Nat × Nat × Nat) : Bool :=
  decide (a.1 < b.1) || (a.1 == b.1 && (decide (a.2.1 < b.2.1) || (a.2.1 == b.2.1 && (decide (a.2.2.1 < b.2.2.1) || (a.2.2.1 == b.2.2.1 && decide (a.2.2.2 ≤ b.2.2.2))))))

/-- The waiter that has waited longest. -/
def firstWaiter : List ((Nat × Nat × Nat × Nat) × WaitPoint) → Option WaitPoint
  | [] => none
  | x :: xs => some (xs.foldl (fun m y => if earlierWait m.1 y.1 then m else y) x).2

/-! ## Cycle by cycle -/

/-- Dies on which a load has tiles or regions. -/
def Load.dies (l : Load) : List Nat := (l.tiles.map (fun t => t.tile.die) ++ l.regions.map (fun r => r.region.die)).eraseDups

/-- Whether a tile of a load is halted, on whatever die (R389, R396). -/
def State.loadHalted (s : State) (l : Load) : Bool := l.tiles.any (fun t => (s.die t.tile.die).tilehalt.getLsbD t.tile.tile)

/-- Whether a channel has an endpoint on a die. -/
def Channel.on (c : Channel) (die : Nat) : Bool := c.src.die == die || c.dests.any (fun d => d.port.die == die)

/-- Whether nothing of a load has moved on a die between two states (R389): no issue, no token, no firing, no progress of a command. -/
def unmoved (a b : State) (l : LoadId) (die : Nat) : Bool :=
  (a.liveOn l die == b.liveOn l die) &&
  (b.liveOn l die).all (fun i => (a.task i).serac == (b.task i).serac && (a.task i).moraine == (b.task i).moraine &&
    (a.strand (i.strand .dawn)).lastIssue == (b.strand (i.strand .dawn)).lastIssue && (a.strand (i.strand .dusk)).lastIssue == (b.strand (i.strand .dusk)).lastIssue) &&
  b.chans.entries.all (fun e => decide (e.1.load ≠ l) || !e.2.on die || decide (a.chan e.1 = e.2)) &&
  b.regions.entries.all (fun e => decide (e.2.load ≠ some l) || e.1.die != die ||
    ((a.region e.1).elems == e.2.elems && (a.region e.1).links == e.2.links && (a.region e.1).sealedIn == e.2.sealedIn && (a.region e.1).sealedOut == e.2.sealedOut))

/-- A detector after a cycle (R389). Cycles of a rehash and of a halted tile do not count. -/
def State.watchDetector (before s : State) (l : LoadId) (x : Load) (die : Nat) (d : Detector) : Detector :=
  if (s.die die).phase ≠ 0 ∨ s.loadHalted x then d
  else if unmoved before s l die ∧ (s.waiters l die).isEmpty = false then { d with quiet := d.quiet + 1 }
  else { d with quiet := 0 }

/-- The detectors of a load after a cycle. -/
def State.watchLoad (before s : State) (l : LoadId) (x : Load) : Load :=
  let ds := x.dies.filter x.runsOn
  if ds.isEmpty then x
  else { x with detectors := ds.map (fun die => s.watchDetector before l x die ((x.detectors.find? (fun d => d.die == die)).getD { die := die })) }

/-- What waits on a plane: accesses with how far they have gone, and packets that are not acknowledged. -/
def State.traffic (s : State) (p : Nat) : List (Nat × AccessStage) × List (ChanId × List (BitVec 16 × List Nat)) :=
  ((s.net.filter (fun a => a.stage != .deferred && a.onPlane p)).map (fun a => (a.num, a.stage)),
   (s.chans.entries.map (fun e => (e.1, (e.2.unacked.filter (fun k => k.sent && k.plane == p)).map (fun k => (k.seq, k.acked))))).filter (fun e => !e.2.isEmpty))

/-- Idle cycles of the planes after a cycle (R262). -/
def watchPlanes (before s : State) : Map Nat Nat :=
  ⟨((List.range 4).filter (fun p => let t := s.traffic p; !(t.1.isEmpty && t.2.isEmpty) && t == before.traffic p)).map (fun p => (p, s.planeIdle.get p 0 + 1))⟩

/-- The cycles of a save after a cycle (R396, R403): none counts while a tile of the graph is halted. -/
def State.watchSave (s : State) (die : Nat) (d : Die) : Die :=
  match d.preempt with
  | some p =>
    if p.begun ∧ p.restore = false ∧ d.prState = 1 ∧
        s.loads.entries.all (fun e => decide (e.1.die ≠ die) || decide (e.1.queue ≠ p.queue) || !s.loadHalted e.2) = true then
      { d with preempt := some { p with counted := p.counted + 1 } }
    else d
  | none => d

/-- A strand after a cycle: while a full command queue holds it, R216's two conditions are tracked in every cycle. -/
def State.watchStrand (s : State) (i : StrandId) (st : Strand) : Strand :=
  match st.status, st.heldBy with
  | .held, some (.slots e) => { st with cmdqOnly := st.cmdqOnly && s.popOnly i.task e }
  | _, _ => st

/-- What a cycle that led from one state to the next adds to the machine's counts. -/
def State.watch (before s : State) : State :=
  { s with strands := s.strands.mapVals s.watchStrand, loads := s.loads.mapVals (s.watchLoad before), dies := s.dies.mapVals s.watchSave, planeIdle := watchPlanes before s }

/-! ## Firing -/

/-- The entry of a detector that fires (R379, R389, R390). It concerns the tasks of the wait-for words it names (R381). -/
def State.deadlockEntry (s : State) (l : LoadId) (die : Nat) : FqEntry :=
  let tr := s.traceFrom 65536 (firstWaiter (s.waiters l die)) []
  { of := .deadlock l ((tr.take 8).filterMap s.taskOf).eraseDups, kind := 3, record := deadlockRecord, queue := l.queue, load := l.load
    extra := BitVec.ofNat 32 tr.length, body := (tr.take 8).map s.waitWord }

/-- A load's detector on a die changed. -/
def State.updDetector (s : State) (l : LoadId) (die : Nat) (f : Detector → Detector) : State :=
  s.updLoad l (fun x => { x with detectors := x.detectors.map (fun d => if d.die = die then f d else d) })

/-- DEADLOCK_DETECT of a load on a die (R389): after a quiet window the report is raised and the detector is silent until it is answered; a report
that finds the ring full is dropped, and another window begins (R378). -/
def eventDeadlock (s : State) : State :=
  let l := s.event.load
  let die := s.event.die
  match (s.load l).detectors.find? (fun d => d.die == die) with
  | some d =>
    if (s.load l).runsOn die ∧ d.silent = false ∧ 2 ^ (s.die die).ddwin.toNat ≤ d.quiet ∧ (s.waiters l die).isEmpty = false then
      if (s.die die).ringReady ∧ (s.die die).fqPending = [] then
        (s.updDetector l die (fun x => { x with quiet := 0, silent := true })).raiseEntry die (s.deadlockEntry l die)
      else s.updDetector l die (fun x => { x with quiet := 0 })
    else s
  | none => s

/-- DEADLOCK_DETECT. -/
def execDeadlockDetect (s : State) : Host.Outcome State Fault Refusal := .next (eventDeadlock s)

end Sys2Proof.Machine
end

