-- ==== Sys2Proof/Machine/Control.lean ====
section
/-! DEFINITION. Control transfers, hardware loops, queue, token, event, dispatch and narrow-format instructions, 0x40 to
0x55 (R88 to R104). -/

namespace Sys2Proof.Machine

/-! ## Transfers -/

/-- The relative target of a long-immediate form (R88). -/
def relative (w : Fields) : M Word64 := do
  return (← get).wordAddr + BitVec.ofInt 64 (4 * imm25 w)

/-- A register target: on Dusk, within the 4 GiB window of the transferring word (R88). -/
def registerTarget (o : Opnd) : M Word64 := do
  let a := (← get).wordAddr
  match ← theCore with
  | .dawn => source o
  | .dusk => return BitVec.ofNat 64 (fld a 63 32 * 2 ^ 32 + (← source o).toNat % 2 ^ 32)

/-- The refusal of a target at which no word of the strand's stream begins (R56, R88). -/
def checkTarget (target : Word64) : M Unit := do
  let s ← get
  trapIf (s.wordSection s.cur.strand target).isNone
    { code := .illegalEnc, info := s.me.pc, addr := some target, resume := some s.me.pc }

/-- The return address of a call: the next word in fall-through order (R88). -/
def returnAddress : M Word64 := do
  let s ← get
  let st := s.me
  let next := s.wordAddr + 12
  if next.toNat < st.sectStart.toNat + 12 * st.sectLen then return next
  else
    let h := BitVec.ofNat 64 ((next.toNat + 7) / 8 * 8)
    match s.readVirtual64 s.cur.strand.die (s.load s.myTask.load).domain h.toNat with
    | some x => return if fld x 63 60 = 9 then h + 8 else h
    | none => return h

/-- The link written and the call depth raised (R89). -/
def linkCall (d : Opnd) : M Unit := do
  destine d (← returnAddress)
  modStrand (fun st => { st with depth := st.depth + 1 })

/-- pc := relative target (R89). -/
def bodyBr (w : Fields) : M Flow := do
  let t ← relative w
  checkTarget t
  return .goto t true
def execBr (w : Fields) (s : State) : Host.Outcome State Fault Refusal := issue (.br w) (bodyBr w) s

/-- pc := register target of A (R89). -/
def bodyJmp (w : Fields) : M Flow := do
  let t ← registerTarget w.a
  checkTarget t
  return .goto t true
def execJmp (w : Fields) (s : State) : Host.Outcome State Fault Refusal := issue (.jmp w) (bodyJmp w) s

/-- The link, the depth, and the relative target (R89). -/
def bodyCall (w : Fields) : M Flow := do
  let t ← relative w
  checkTarget t
  linkCall w.d
  return .goto t false
def execCall (w : Fields) (s : State) : Host.Outcome State Fault Refusal := issue (.call w) (bodyCall w) s

/-- A is read before D is written (R89). -/
def bodyCallr (w : Fields) : M Flow := do
  let t ← registerTarget w.a
  checkTarget t
  linkCall w.d
  return .goto t false
def execCallr (w : Fields) (s : State) : Host.Outcome State Fault Refusal := issue (.callr w) (bodyCallr w) s

/-- The depth lowered, then the register target (R89); loops are judged at the depth after it (R91). -/
def bodyRet (w : Fields) : M Flow := do
  let t ← registerTarget w.a
  checkTarget t
  modStrand (fun st => { st with depth := st.depth - 1 })
  return .goto t true
def execRet (w : Fields) (s : State) : Host.Outcome State Fault Refusal := issue (.ret w) (bodyRet w) s

/-- A loop entered, or its body skipped (R90). DESIGN CHOICE (log entry 29): an end word outside the section is looked at
when the word executes, since it depends on where the strand stands; a bad imm25 is a decoding check. -/
def bodyLoop (w : Fields) : M Flow := do
  let stop ← relative w
  let st ← theStrand
  trapIf (decide (st.sectStart.toNat + 12 * st.sectLen ≤ stop.toNat)) (illegal 0x45 w 5)
  let count := (← source w.a).extractLsb' 0 32
  if count = 0 then return .fallFrom stop
  else
    trapIf (decide (2 ≤ st.loops.length)) (illegal 0x45 w 0)
    modStrand (fun x => { x with loops := { start := st.pc + 12, last := stop, count := count, depth := st.depth } :: x.loops })
    return .fall
def execLoop (w : Fields) (s : State) : Host.Outcome State Fault Refusal := issue (.loop w) (bodyLoop w) s

/-- A branch on one CQ entry (R92). -/
def bodyBcq (w : Fields) : M Flow := do
  let v ← popQueue .cq
  let t ← relative w
  if (v == 1) != (w.mod == 1) then
    checkTarget t
    return .goto t true
  else return .fall
def execBcq (w : Fields) (s : State) : Host.Outcome State Fault Refusal := issue (.bcq w) (bodyBcq w) s

/-! ## Queues -/

/-- Pushes by MOD (R93). -/
def bodyQpush (w : Fields) : M Flow := do
  match w.mod.toNat with
  | 0 => destine w.d (← source w.a)
  | 1 =>
    let a ← source w.a
    let b ← source w.b
    destine w.d a
    destine w.d b
  | _ => destine w.d (if ← predOf w.a then 1 else 0)
  return .fall
def execQpush (w : Fields) (s : State) : Host.Outcome State Fault Refusal := issue (.qpush w) (bodyQpush w) s

/-- The whole oldest entry of the queue that an operand names (R94). -/
def popWhole (o : Opnd) : M Word64 :=
  match o with
  | .queue k => match queueOfCode k with | some q => popQueue q | none => return 0
  | _ => return 0

/-- Pops by MOD (R94). -/
def bodyQpop (w : Fields) : M Flow := do
  match w.mod.toNat with
  | 0 => destine w.d (← source w.a)
  | 1 =>
    let v ← popWhole w.a
    destine w.d (v.extractLsb' 0 32 |>.zeroExtend 64)
    destine w.c (v.extractLsb' 32 32 |>.zeroExtend 64)
  | _ => writePred (opndIndex w.d) ((← popWhole w.a) != 0)
  return .fall
def execQpop (w : Fields) (s : State) : Host.Outcome State Fault Refusal := issue (.qpop w) (bodyQpop w) s

/-- D := entries of a queue at the start of the cycle (R95). -/
def bodyQcount (w : Fields) : M Flow := do
  let s ← get
  let n := match w.a with | .queue k => (match queueOfCode k with | some q => s.startLen s.cur.strand.task q | none => 0) | _ => 0
  destine w.d (BitVec.ofNat 64 n)
  return .fall
def execQcount (w : Fields) (s : State) : Host.Outcome State Fault Refusal := issue (.qcount w) (bodyQcount w) s

/-! ## Tokens -/

/-- Hold until the count is present, then subtract it (R96). -/
def bodyTwait (w : Fields) : M Flow := do
  let k := tokenIndex (Engine.ofBits (w.mod.extractLsb' 0 2)) (← theCore).engine
  let n := fld w.e 5 0
  let t ← theTask
  holdUnless (decide (n ≤ t.token k)) (.token k)
  modify (fun s => s.popTokens s.cur.strand.task k n)
  modStrand (fun st => st.endCombining none)
  return .fall
def execTwait (w : Fields) (s : State) : Host.Outcome State Fault Refusal := issue (.twait w) (bodyTwait w) s

/-- A push of the count at retirement (R96). -/
def bodyTsig (w : Fields) : M Flow := do
  let k := tokenIndex (← theCore).engine (Engine.ofBits (w.mod.extractLsb' 0 2))
  modify (fun s => s.updCur (fun c => { c with pushes := c.pushes ++ [(k, fld w.e 5 0)] }))
  return .fall
def execTsig (w : Fields) (s : State) : Host.Outcome State Fault Refusal := issue (.tsig w) (bodyTsig w) s

/-- D := a counter at the start of the cycle (R97). -/
def bodyTread (w : Fields) : M Flow := do
  let k := fld w.e 13 0
  let s ← get
  destine w.d (BitVec.ofNat 64 (s.startToken s.cur.strand.task k))
  return .fall
def execTread (w : Fields) (s : State) : Host.Outcome State Fault Refusal := issue (.tread w) (bodyTread w) s

/-! ## Parking, ending, yielding -/

/-- The absolute number of a task's event counter (R24). -/
def eventNumber (o : Opnd) : M Nat := do return (← theTask).evBase + opndIndex o

/-- The strand parks on a counter (R98). -/
def bodySuspend (w : Fields) : M Flow := do
  let t ← relative w
  checkTarget t
  let n ← eventNumber w.a
  let v ← source w.b
  return .parks { counter := some n, threshold := v.extractLsb' 0 32, cont := t }
def execSuspend (w : Fields) (s : State) : Host.Outcome State Fault Refusal := issue (.suspend w) (bodySuspend w) s

/-- The strand ends (R99). -/
def execEndStrand (w : Fields) (s : State) : Host.Outcome State Fault Refusal := issue (.endStrand w) (return .ended) s

/-- A NOP with YLD = 1 (R100): the strand's turn ends (R45). -/
def bodyYield : M Flow := do
  modStrand (fun st => { st with yielded := true })
  return .fall
def execYield (w : Fields) (s : State) : Host.Outcome State Fault Refusal := issue (.yield w) bodyYield s

/-! ## Event counters -/

/-- D := the counter at the start of the cycle (R101). -/
def bodyEvrd (w : Fields) : M Flow := do
  destine w.d ((← theEvent (← eventNumber w.a)).zeroExtend 64)
  return .fall
def execEvrd (w : Fields) (s : State) : Host.Outcome State Fault Refusal := issue (.evrd w) (bodyEvrd w) s

/-- An increment at the end of the cycle (R101, R102). -/
def bodyEvadd (w : Fields) : M Flow := do
  let n ← eventNumber w.a
  let v ← source w.b
  modify (fun s => s.updCur (fun c => { c with evAdds := c.evAdds ++ [(n, v.extractLsb' 0 32)] }))
  return .fall
def execEvadd (w : Fields) (s : State) : Host.Outcome State Fault Refusal := issue (.evadd w) (bodyEvadd w) s

/-- A set at the end of the cycle (R101, R102). -/
def bodyEvset (w : Fields) : M Flow := do
  let n ← eventNumber w.a
  let v ← source w.b
  modify (fun s => s.updCur (fun c => { c with evSets := c.evSets ++ [(n, v.extractLsb' 0 32)] }))
  return .fall
def execEvset (w : Fields) (s : State) : Host.Outcome State Fault Refusal := issue (.evset w) (bodyEvset w) s

/-! ## Dispatch and narrow formats -/

/-- A raise of the group count of the task's grid on its way (R103, R211); GRAISE_APPLY delivers its result. -/
def bodyGraise (w : Fields) : M Flow := do
  let v ← source w.a
  modify (fun s =>
    { s with raises := s.raises ++ [{ num := s.nextAccess, who := s.cur.strand, load := s.myTask.load, grid := s.myTask.grid
                                      value := v.extractLsb' 0 32, dest := w.d }]
             nextAccess := s.nextAccess + 1 })
  return .fall
def execGraise (w : Fields) (s : State) : Host.Outcome State Fault Refusal := issue (.graise w) (bodyGraise w) s

/-- The group count of a task's grid (R210). -/
def State.groupCount (s : State) (t : Task) : Word32 := ((s.load t.load).grids.getD t.grid {}).count

/-- D := the group count (R103). -/
def bodyGread (w : Fields) : M Flow := do
  let s ← get
  destine w.d ((s.groupCount s.myTask).zeroExtend 64)
  return .fall
def execGread (w : Fields) (s : State) : Host.Outcome State Fault Refusal := issue (.gread w) (bodyGread w) s

/-- nfd := A[5:0] (R104). INFO holds a refused register's value also where only a bit above 5 is wrong (DEDUCED, log entry
27: the rule's last clause, "such a code", is read as every code that the rule refuses). -/
def bodySetnf (w : Fields) : M Flow := do
  let v ← source w.a
  trapIf (decide (63 < v.toNat) || !nfValid (v.extractLsb' 0 6)) (refuseValue 0x54 w 2 v)
  modTask (fun t => { t with nf := t.nf.set (opndIndex w.d) (v.extractLsb' 0 6) })
  return .fall
def execSetnf (w : Fields) (s : State) : Host.Outcome State Fault Refusal := issue (.setnf w) (bodySetnf w) s

end Sys2Proof.Machine
end

