-- ==== Sys2Proof/Machine/FaultEvents.lean ====
section
/-! DEFINITION. Events of the fault system: entries written (R378), loads that stop for damaged state and become Stopped (R386 to R388), and what
scrubbing finds (R388). -/

namespace Sys2Proof.Machine

/-- FAULT_ENTRY_WRITE: the oldest waiting entry of a die is written when the ring has room (R378). -/
def eventEntryWrite (s : State) : State := if (s.die s.event.die).ringReady then s.writeEntry s.event.die else s

/-- LOAD_STOP of a load whose shared control state is found damaged (R387): CODE 0x13. -/
def eventLoadStop (s : State) : State :=
  let l := s.event.load
  if stoppable l (s.load l) ∧ (s.loads.find? l).isSome then s.stopLoad l s.event.die 0 (codeRecord FaultCode.eccUncorr.num) else s

/-- Whether the entry of a stopping load still waits to be written (R378). -/
def State.stopUnwritten (s : State) (l : LoadId) : Bool := s.dies.entries.any (fun d => d.2.fqPending.any (fun e => e.of == .load l && e.kind == 1))

/-- LOAD_STOPPED: a stopping load whose entry is written and whose accesses have been performed or dropped enters Stopped (R386). -/
def eventLoadStopped (s : State) : State :=
  let l := s.event.load
  if (s.load l).stopping ∧ s.stopUnwritten l = false ∧ s.settled l then s.finish l .stopped else s

/-- Whether a strand's read of a granule has been sent and not performed, or waits in a save to be sent again. -/
def State.readInFlight (s : State) (g : Nat) : Bool :=
  let reads (a : Access) : Bool :=
    a.stage != .done && ((a.kind.reads && granuleOf a.pa == g) || (a.kind == .stf && granuleOf a.flagPa == g))
  s.net.any reads || s.saved.entries.any (fun e => e.2.plds.any reads) ||
  s.dies.entries.any (fun d => match d.2.preempt with | some p => p.plds.any reads | none => false)

/-- SCRUB_UNCORRECTABLE: scrubbing finds a damaged granule of HBM4 (R388, R446). DESIGN CHOICE (log entry 25): it finds none of which
a strand's read is in flight; a strand's fault is precise at its load (R387), which has issued. -/
def eventScrub (s : State) : State :=
  let pa := s.event.addr / 64 * 64
  if placeOf pa = .hbm ∧ s.diePresent (dieOf pa) = true ∧ pa < 2 ^ 52 ∧ s.readInFlight (pa / 64) = false then
    ({ s with damaged := if s.damaged.contains pa then s.damaged else pa :: s.damaged } : State).raiseEntry (dieOf pa)
      { of := .granule, kind := 4, tile := (Config.stopRecord 256 4).toNat % 32, body := [BitVec.ofNat 64 pa]
        record := s.restamp ⟨dieOf pa, 0⟩ ⟨Config.stopRecord 256 0, Config.stopRecord 256 1, Config.stopRecord 256 2, Config.stopRecord 256 3⟩ }
  else s

/-- FAULT_ENTRY_WRITE. -/
def execFaultEntryWrite (s : State) : Host.Outcome State Fault Refusal := .next (eventEntryWrite s)
/-- LOAD_STOP. -/
def execLoadStop (s : State) : Host.Outcome State Fault Refusal := .next (eventLoadStop s)
/-- LOAD_STOPPED. -/
def execLoadStopped (s : State) : Host.Outcome State Fault Refusal := .next (eventLoadStopped s)
/-- SCRUB_UNCORRECTABLE. -/
def execScrubUncorrectable (s : State) : Host.Outcome State Fault Refusal := .next (eventScrub s)

end Sys2Proof.Machine
end

