-- ==== Sys2Proof/Machine/Gang.lean ====
section
/-! DEFINITION. Arm-then-commit over the dies of a gang (R430 to R434): starting a load, saving a graph and restoring it, member by member. -/

namespace Sys2Proof.Machine

/-! ## Members -/

/-- A load's gang changed. -/
def State.updGang (s : State) (l : LoadId) (f : Gang → Gang) : State := s.updLoad l (fun x => { x with gang := x.gang.map f })

/-- The die of a gang's member. -/
def Gang.dieOf (g : Gang) (m : Nat) : Option Nat := g.members[m]?

/-- The queue that a load's graph runs on. -/
def queueIdOf (l : LoadId) : QueueId := ⟨l.die, l.queue⟩

/-- Loads that a round of a kind concerns: the load itself, the covered loads of its graph, or its saved ones. -/
def State.roundLoads (s : State) (l : LoadId) (k : GangKind) : List LoadId :=
  match k with
  | .start => [l]
  | .save => s.savable (queueIdOf l)
  | .restore => match s.saved.find? (queueIdOf l) with | some g => g.loads.map Prod.fst | none => []

/-- The dies that a member acts for: its own, and for the leader every die of the round that is no member's. -/
def State.memberDies (s : State) (l : LoadId) (g : Gang) (d : Nat) : List Nat :=
  if d = l.die then d :: (s.partDies (s.roundLoads l g.kind) l.die).filter (fun x => !g.members.contains x) else [d]

/-- Whether a round waits on a member (R431): a rehash, or a halted tile of a load there. -/
def State.memberWaits (s : State) (ls : List LoadId) (dies : List Nat) : Bool :=
  dies.any (fun d => (s.die d).phase != 0 || ls.any (fun l => (s.load l).tiles.any (fun t => t.tile.die == d && (s.die d).tilehalt.getLsbD t.tile.tile)))

/-- Length of a round's window in cycles of the leader (R431). -/
def State.windowOf (s : State) (l : LoadId) (g : Gang) : Nat :=
  match g.kind, (s.die l.die).preempt with
  | .save, some p => p.qto + 2 ^ g.logwin
  | _, _ => 2 ^ g.logwin

/-! ## Records (R434) -/

/-- The lowest-indexed member that is not in a list, with its index. -/
def Gang.firstLate (g : Gang) (ok : List Nat) : Nat × Nat :=
  match (g.members.zipIdx.find? (fun x => !ok.contains x.1)) with | some x => (x.2, x.1) | none => (0, 0)

/-- A gang record written, and the queue's message after it. -/
def State.gangRecord (s : State) (l : LoadId) (g : Gang) (event : Nat) (ok : List Nat) : State :=
  let late := g.firstLate ok
  let dw0 : Word64 := BitVec.ofNat 64 (event * 2 ^ 56 + late.1 % 256 * 2 ^ 48 + late.2 % 256 * 2 ^ 40 + g.epoch.toNat)
  let dw1 : Word64 := BitVec.ofNat 64 (ok.length * 2 ^ 32)
  (s.writeVirtual l.die (s.load l).domain (g.report.toNat + 64 * (g.epoch.toNat % 8)) (ofDwords [dw0, dw1, 0, 0, 0, 0, 0, 0])).signalQueue l.die l.queue
    (s.queue (queueIdOf l)).vector.toNat

/-! ## Arming and preparing -/

/-- Whether the leader may begin a round of a kind. -/
def State.roundDue (s : State) (l : LoadId) (k : GangKind) : Bool :=
  let x := s.load l
  match k, (s.die l.die).preempt with
  | .start, _ => x.status == .armed && !x.stopping && x.gating.isEmpty
  | .save, some p => !p.restore && !p.begun && p.queue == l.queue && (s.graphGang (s.roundLoads l .save)).any (fun g => g.1 == l) &&
      (s.roundLoads l .save).all (fun i => (s.load i).gang.all (fun g => g.phase == 0)) && !(s.loads.entries.any (fun e => queueIdOf e.1 == (queueIdOf l) && e.2.status == .configuring))
  | .restore, some p => p.restore && !p.begun && p.queue == l.queue && (s.graphGang (s.roundLoads l .restore)).any (fun g => g.1 == l)
  | _, none => false

/-- A round begins: EPOCH rises and the window starts (R431 step 1). -/
def State.beginRound (s : State) (l : LoadId) (k : GangKind) : State :=
  let s1 := s.updGang l (fun g => { g with epoch := g.epoch + 1, kind := k, phase := 1, window := s.clock, prepared := [], acks := [], acted := [], committed := [], inTime := [] })
  let begun (d : Die) : Die := { d with preempt := d.preempt.map (fun p => { p with begun := true }) }
  match k with
  | .start => s1
  | .save => ({ s1 with saved := s1.saved.erase (queueIdOf l) } : State).updDie l.die (fun d => { begun d with prState := 1 })
  | .restore => s1.updDie l.die begun

/-- A member begins to prepare (R431): for a save it gates its sources, for a restore it puts its part back. -/
def State.prepare (s : State) (l : LoadId) (g : Gang) (d : Nat) : State :=
  let dies := s.memberDies l g d
  let ready (t : State) : State := t.updGang l (fun x => { x with prepared := x.prepared ++ [d] })
  match g.kind with
  | .start => if (s.load l).status = .armed ∧ s.startReady l then ready s else s
  | .save => if s.saveMayBegin (queueIdOf l) dies then ready (s.gateSources (queueIdOf l) dies) else s
  | .restore =>
    match s.saved.find? (queueIdOf l), (s.die l.die).preempt with
    | some sg, some p =>
      match s.checkArea l.die sg p.area.toNat (sg.first (queueIdOf l)) with
      | .mismatch => (s.updGang l (fun x => { x with phase := 0 })).endRequest l.die l.queue (if sg.header then 4 else 0) 6
      | .faults k c => s.stopLoad k l.die 0 (codeRecord c.num)
      | .ok images =>
        let sg := s.stillSaved sg
        if s.partFree sg dies.contains = false then s
        else if s.imagesHold sg dies.contains = false then (s.updGang l (fun x => { x with phase := 0 })).endRequest l.die l.queue 4 6
        else ready (s.loadPart sg images dies.contains)
    | _, _ => s

/-- GANG_ARM of a load's gang (R431): with no round in progress the leader begins one of kind `index` (0 start, 1 save, 2 restore); in an armed
round the member prepares. -/
def eventGangArm (s : State) : State :=
  let l := s.event.load
  match (s.load l).gang with
  | none => s
  | some g =>
    let k : GangKind := match s.event.index with | 0 => .start | 1 => .save | _ => .restore
    if g.phase = 0 then (if g.window ≤ s.clock ∧ (s.die l.die).phase = 0 ∧ s.roundDue l k then s.beginRound l k else s)
    else
      match g.dieOf s.event.member with
      | some d => if g.phase = 1 ∧ ¬ g.prepared.contains d ∧ s.memberWaits (s.roundLoads l g.kind) (s.memberDies l g d) = false then s.prepare l g d else s
      | none => s

/-- GANG_ACK of a member that has prepared (R431): for a save, once its part is at rest. -/
def eventGangAck (s : State) : State :=
  let l := s.event.load
  match (s.load l).gang with
  | none => s
  | some g =>
    match g.dieOf s.event.member with
    | some d =>
      let dies := s.memberDies l g d
      let ls := s.roundLoads l g.kind
      if g.phase = 1 ∧ g.prepared.contains d ∧ ¬ g.acks.contains d ∧ s.memberWaits ls dies = false ∧ (g.kind ≠ .save ∨ dies.all (s.partAtRest ls) = true) then
        s.updGang l (fun x => { x with acks := x.acks ++ [d] })
      else s
    | none => s

/-! ## Committing -/

/-- A member acts (R431): its part enters Running, is saved, or resumes. -/
def State.actFor (s : State) (l : LoadId) (g : Gang) (d : Nat) : State :=
  let dies := s.memberDies l g d
  let acted (t : State) : State := t.updGang l (fun x => { x with acted := x.acted ++ [d] })
  match g.kind with
  | .start =>
    let s1 := acted (if g.acted.isEmpty then s.loadCounts l else s)
    { s1 with regions := s1.regions.mapVals (fun i r => if r.load = some l ∧ i.die = d ∧ r.status = .loaded then { r with status := .running } else r) }
  | .save =>
    match (s.die l.die).preempt with
    | some p =>
      match s.saveFault l.die (s.queueDomain l.die l.queue) p.area.toNat (s.roundLoads l .save) dies.contains with
      | some f => s.stopLoad f.1 l.die 0 (codeRecord f.2.num)
      | none => acted ((s.savePart l.die l.queue p.area.toNat dies.contains).updDie l.die (fun x => { x with prState := 3 }))
    | none => s
  | .restore => match s.saved.find? (queueIdOf l) with | some sg => acted (s.resumePart (s.stillSaved sg) dies.contains) | none => s

/-- GANG_COMMIT reaches a member, once every member has acknowledged (R431 steps 2 and 3). -/
def eventGangCommit (s : State) : State :=
  let l := s.event.load
  match (s.load l).gang with
  | none => s
  | some g =>
    match g.dieOf s.event.member with
    | some d =>
      let s1 := if g.phase = 1 ∧ g.members.all (fun m => g.acks.contains m) then s.updGang l (fun x => { x with phase := 2, window := s.clock }) else s
      match (s1.load l).gang with
      | some h =>
        if (h.phase = 2 ∨ h.phase = 3) ∧ ¬ h.acted.contains d ∧ s1.memberWaits (s1.roundLoads l h.kind) (s1.memberDies l h d) = false then s1.actFor l h d else s1
      | none => s1
    | none => s

/-- A round is done (R431). -/
def State.endRound (s : State) (l : LoadId) (g : Gang) : State :=
  let s0 := if g.phase = 3 then s.gangRecord l g 4 g.inTime else s
  let s1 := s0.updGang l (fun x => { x with phase := 0, window := 0 })
  match g.kind, (s.die l.die).preempt, s.saved.find? (queueIdOf l) with
  | .start, _, _ => s1.startLoad l
  | .save, some p, _ => s1.finishSave l.die l.queue p.area.toNat (s.areaBytes (s.roundLoads l .save))
  | .restore, _, some sg => s1.finishRestore l.die l.queue (s.stillSaved sg)
  | _, _, _ => s1

/-- GANG_COMMITTED of a member that has acted; after the last the round is done (R431). -/
def eventGangCommitted (s : State) : State :=
  let l := s.event.load
  match (s.load l).gang with
  | none => s
  | some g =>
    match g.dieOf s.event.member with
    | some d =>
      if (g.phase = 2 ∨ g.phase = 3) ∧ g.acted.contains d ∧ ¬ g.committed.contains d then
        let h := { g with committed := g.committed ++ [d] }
        let s1 := s.updGang l (fun _ => h)
        if h.members.all (fun m => h.committed.contains m) then s1.endRound l h else s1
      else s
    | none => s

/-! ## Late members -/

/-- The record of a split (R433). -/
def splitRecord (member epoch : Nat) : Record :=
  { codeRecord FaultCode.gangSplit.num with dw2 := BitVec.ofNat 64 member, dw3 := BitVec.ofNat 64 (epoch * 2 ^ 32 + (Config.stopRecord FaultCode.gangSplit.num 3).toNat % 2 ^ 32) }

/-- A split (R433): the load stops, and a save leaves an area without its header. -/
def State.split (s : State) (l : LoadId) (g : Gang) : State :=
  let area := match (s.die l.die).preempt with | some p => p.area | none => 0
  let s1 := (s.gangRecord l g 5 g.committed).stopLoad l l.die 0 (splitRecord (g.firstLate g.committed).2 g.epoch.toNat)
  let s2 := s1.updGang l (fun x => { x with phase := 0 })
  if g.kind = .save then { s2 with saved := s2.saved.set (queueIdOf l) { area := area } } else s2

/-- The EVENT code of an aborted round (R434). -/
def GangKind.abortEvent : GangKind → Nat
  | .start => 1
  | .save => 2
  | .restore => 3

/-- GANG_WINDOW_EXPIRE (R431): an armed round aborts, a commit is sent again, and after that the gang is split. -/
def eventGangExpire (s : State) : State :=
  let l := s.event.load
  match (s.load l).gang with
  | none => s
  | some g =>
    if s.clock < g.window + s.windowOf l g then s
    else if g.phase = 1 then (s.gangRecord l g g.kind.abortEvent g.acks).updGang l (fun x => { x with phase := 4 })
    else if g.phase = 2 then s.updGang l (fun x => { x with phase := 3, window := s.clock, inTime := x.committed })
    else if g.phase = 3 then s.split l g
    else s

/-- A restore's part taken away again (R431). -/
def State.unloadPart (s : State) (g : SavedGraph) (on : Nat → Bool) : State :=
  let ids := (g.tasks.map Prod.fst).filter (fun i => on i.die)
  let regs := (g.regions.map Prod.fst).filter (fun r => on r.die)
  let chans := (g.chans.filter (fun c => on c.2.src.die)).map Prod.fst
  let ports := (g.ports.map Prod.fst).filter (fun p => on p.die)
  { s with tasks := ⟨s.tasks.entries.filter (fun e => !ids.contains e.1)⟩
           strands := ⟨s.strands.entries.filter (fun e => !ids.contains e.1.task)⟩
           regions := s.regions.mapVals (fun i r => if regs.contains i then s.freeRegion i r else r)
           chans := ⟨s.chans.entries.filter (fun e => !chans.contains e.1)⟩
           ports := s.ports.mapVals (fun i p => if ports.contains i then { p with chan := none, dest := 0 } else p) }

/-- A member undoes its preparation (R431). -/
def State.undo (s : State) (l : LoadId) (g : Gang) (d : Nat) : State :=
  match g.kind with
  | .start => s
  | .save => s.reopen l.die l.queue (s.memberDies l g d).contains
  | .restore => match s.saved.find? (queueIdOf l) with | some sg => s.unloadPart (s.stillSaved sg) (s.memberDies l g d).contains | none => s

/-- An aborted round whose members have all undone their preparation (R431). -/
def State.endAbort (s : State) (l : LoadId) (g : Gang) : State :=
  let s1 := s.updGang l (fun x => { x with phase := 0, window := s.clock + 2 ^ g.logwin })
  match g.kind with
  | .start => s1
  | .save => ({ s1 with saved := s1.saved.erase (queueIdOf l) } : State).endRequest l.die l.queue 0 4
  | .restore => s1.endRequest l.die l.queue 4 4

/-- GANG_ABORT reaches a member (R431 step 4). -/
def eventGangAbort (s : State) : State :=
  let l := s.event.load
  match (s.load l).gang with
  | none => s
  | some g =>
    if g.phase ≠ 4 then s
    else
      match g.dieOf s.event.member with
      | some d =>
        let s1 := if g.prepared.contains d then (s.undo l g d).updGang l (fun x => { x with prepared := x.prepared.erase d }) else s
        if g.prepared.erase d = [] then s1.endAbort l g else s1
      | none => s

/-! ## The events -/

/-- GANG_ARM. -/
def execGangArm (s : State) : Host.Outcome State Fault Refusal := .next (s.onSystemPlane eventGangArm)
/-- GANG_ACK. -/
def execGangAck (s : State) : Host.Outcome State Fault Refusal := .next (s.onSystemPlane eventGangAck)
/-- GANG_COMMIT. -/
def execGangCommit (s : State) : Host.Outcome State Fault Refusal := .next (s.onSystemPlane eventGangCommit)
/-- GANG_COMMITTED. -/
def execGangCommitted (s : State) : Host.Outcome State Fault Refusal := .next (s.onSystemPlane eventGangCommitted)
/-- GANG_ABORT. -/
def execGangAbort (s : State) : Host.Outcome State Fault Refusal := .next (s.onSystemPlane eventGangAbort)
/-- GANG_WINDOW_EXPIRE. -/
def execGangWindowExpire (s : State) : Host.Outcome State Fault Refusal := .next (eventGangExpire s)

end Sys2Proof.Machine
end

