-- ==== Sys2Proof/Machine/HostAccess.lean ====
section
/-! DEFINITION. What a host function does to a module (R435 to R442): writes and reads of the control space, requests through BAR2, atomics and
Function Level Resets; and the events that are one register write. -/

namespace Sys2Proof.Machine

/-! ## Functions -/

/-- Whether a host function can reach its module: firmware runs, the function exists and its port's link is up (R435, R443). -/
def State.hostUp (s : State) (f : HostFn) : Bool :=
  (s.pkg f.pkg).boot == .running && decide (f.port < 2) && decide (f.func ≤ 64) && !(s.pkg f.pkg).linkDown.contains f.port

/-- Whether any die of a function's module has frozen it (R382). -/
def State.hostFrozen (s : State) (f : HostFn) : Bool := (List.range 8).any (fun d => (s.die (8 * f.pkg + d)).isFrozen f)

/-- Whether a die belongs to a function's module. -/
def ownDie (f : HostFn) (die : Nat) : Bool := die / 8 == f.pkg

/-- The graph queue whose registers a control-space offset names (R438). -/
def queueAt (o : Nat) : Option Nat := if 0x100000 ≤ o ∧ o < 0x120000 then some ((o - 0x100000) / 32) else none

/-- Whether a graph queue is assigned to a function (R436, R441). -/
def State.assigned (s : State) (f : HostFn) (die q : Nat) : Bool := s.queueOwner die q == (f.port, f.func)

/-! ## The control space -/

/-- The freeze of a function whose control-space access meets a hole, or is treated as one (R382, R438). -/
def State.freezeAt (s : State) (f : HostFn) (die o : Nat) : State := s.freeze die f 0xFF (BitVec.ofNat 64 (die % 8 * 2 ^ 32 + o))

/-- A write of `len` bytes of a die's control space by a host function (R436, R438, R442): ignored, refused, or a violation. A virtual
function's window holds the graph-queue block alone. -/
def State.hostWriteReg (s : State) (f : HostFn) (die o : Nat) (v : Word64) (len : Nat := 8) : State :=
  if s.hostUp f = false ∨ ownDie f die = false ∨ s.hostFrozen f then s
  else if f.func ≠ 0 then
    match queueAt o with
    | some q => if o % 8 ≠ 0 ∨ len ≠ 8 then s.freezeAt f die o else if s.assigned f die q then s.ctrlWrite (.host f) die o v else s
    | none => s
  else if ctrlRegister o = false ∨ len ≠ 8 then s.freezeAt f die o
  else if o = 0x400008 then s.claim f
  else if s.isOwner f = false then s.reject f.pkg
  else s.ctrlWrite (.host f) die o v

/-- What a completion brings back to a function. -/
def State.completes (s : State) (f : HostFn) (aborted : Bool) (data : List Byte) : State := { s with replies := s.replies ++ [⟨f, aborted, data⟩] }

/-- A read of `len` bytes of a die's control space by a host function (R436, R438, R442). -/
def State.hostReadReg (s : State) (f : HostFn) (die o len : Nat) : State :=
  if s.hostUp f = false ∨ ownDie f die = false then s
  else if s.hostFrozen f then s.completes f true []
  else if f.func ≠ 0 then
    match queueAt o with
    | some q =>
      if o % 8 ≠ 0 ∨ len ≠ 8 then (s.freezeAt f die o).completes f true []
      else s.completes f false (natToBytes 8 (if s.assigned f die q then (s.ctrlRead (.host f) die o).1.toNat else 0))
    | none => s
  else if ctrlRegister o = false ∨ len ≠ 8 then (s.freezeAt f die o).completes f true []
  else
    let r := s.ctrlRead (.host f) die o
    r.2.completes f false (natToBytes 8 r.1.toNat)

/-! ## Requests through BAR2 (R436, R437) -/

/-- CAUSE of a kind-2 entry (R384): the PROT cause, 0xFF for a hole; for a failure that the manual gives no code a free value. -/
def State.freezeCause (s : State) (x : XFault) : Nat × State :=
  match x.code with
  | .prot => (x.cause, s)
  | .absent => if x.cause = 3 then (0xFF, s) else (s.draw.1.toNat % 256, s.draw.2)
  | _ => (s.draw.1.toNat % 256, s.draw.2)

/-- A request that fails its checks: the die freezes the function (R382). -/
def State.hostViolates (s : State) (die : Nat) (f : HostFn) (va : Nat) (x : XFault) : State :=
  let c := s.freezeCause x
  c.2.freeze die f c.1 (BitVec.ofNat 64 va)

/-- Whether access `k` of a request may be performed: not done, its plane carries traffic, and no access to its home on its plane that the function
sent earlier is still to be performed (R257). -/
def State.hostMayPerform (s : State) (h : HostRequest) (k : Nat) : Bool :=
  let route (x : HostRequest) (pa : Nat) : Nat × Nat × Nat := (s.planeOf x.die pa, homeOf pa)
  match h.left.find? (fun p => p.1 == k) with
  | none => false
  | some p =>
    s.pathUp h.die p.2.1 &&
    s.hostReqs.all (fun x => x.fn != h.fn || decide (h.num < x.num) ||
      x.left.all (fun q => (x.num == h.num && decide (k ≤ q.1)) || route x q.2.1 != route h p.2.1))

/-- Access `k` of a request in flight performed. -/
def State.hostStep (s : State) (num k : Nat) : State :=
  match s.hostReqs.find? (fun h => h.num == num) with
  | some h => if s.hostMayPerform h k then let r := s.hostAccess h k; r.1.putHost r.2 else s
  | none => s

/-- A memory request of a function through BAR2, translated and checked by a die of its module; it waits while a rehash is in progress there (R263),
and until its walks can travel. -/
def State.hostMemory (s : State) (f : HostFn) (die va len : Nat) (write : Bool) (data : List Byte) : State :=
  let n := if write then data.length else len
  let cut := requestPieces va n
  if s.hostUp f = false ∨ ownDie f die = false ∨ 2 ^ 46 < va + n ∨ (s.die die).phase ≠ 0 then s
  else if s.hostFrozen f then (if write then s else s.completes f true [])
  else if cut.any (fun p => !s.walkUp die (s.fnDomain f) p.1) then s
  else
    match s.hostParts die (s.fnDomain f) (if write then .store else .load) cut with
    | .error x => if write then s.hostViolates die f va x else (s.hostViolates die f va x).completes f true []
    | .ok ps =>
      { s with hostReqs := s.hostReqs ++ [{ num := s.nextAccess, fn := f, die := die, write := write, data := data, parts := ps }], nextAccess := s.nextAccess + 1 }

/-- Every access of a new request performed at once, where each may be. -/
def State.hostWhole (s : State) (num : Nat) : State :=
  match s.hostReqs.find? (fun h => h.num == num) with
  | some h => (List.range h.parts.length).foldl (fun x k => x.hostStep num k) s
  | none => s

/-- HOST_MEMORY_REQUEST (R435, R436): through BAR2, or with `wide` a read, or write, of the control space through BAR0. A request through BAR2 is
checked and, with `source` absent, performed whole; with `source` 0 it stays in flight, and with `source` n + 1 access `index` of request n is
performed (R257, R258). -/
def eventHostMemory (s : State) : State :=
  let e := s.event
  if e.wide then (if e.flag then s.hostWriteReg e.fn e.die e.addr (BitVec.ofNat 64 (bytesToNat e.data)) e.data.length else s.hostReadReg e.fn e.die e.addr e.len)
  else
    match e.source with
    | none => (s.hostMemory e.fn e.die e.addr e.len e.flag e.data).hostWhole s.nextAccess
    | some 0 => s.hostMemory e.fn e.die e.addr e.len e.flag e.data
    | some (n + 1) => s.hostStep n e.index

/-- The access kind that a host atomic is performed as (R435). -/
def atomicKind : HostAtomicOp → AccessKind
  | .fetchAdd => .atadd
  | .swap => .atswp
  | .cas => .atcas

/-- A host atomic at its L2 home (R435). It waits while a rehash is in progress, but for one that was on a lost plane: that is aborted, performed or
not (R263, R265). -/
def State.hostAtomic (s : State) (f : HostFn) (die va len : Nat) (op : HostAtomicOp) (v cmp : Word64) (performed : Bool) : State :=
  if s.hostUp f = false ∨ ownDie f die = false ∨ 2 ^ 46 < va + len ∨ ¬ (len = 4 ∨ len = 8) ∨ va % len ≠ 0 then s
  else if s.hostFrozen f then (if (s.die die).phase = 0 then s.completes f true [] else s)
  else if s.walkUp die (s.fnDomain f) va = false then s
  else
    match s.hostPart die (s.fnDomain f) .atomic (va, len) with
    | .error x => if (s.die die).phase = 0 then (s.hostViolates die f va x).completes f true [] else s
    | .ok (pa, e) =>
      let dead := match s.rehash with | some r => r.lost && r.retire.contains (s.planeOf die pa) && r.told.contains die && !r.drained.contains die | none => false
      if dead = false ∧ ((s.die die).phase ≠ 0 ∨ s.pathUp die pa = false) then s
      else if s.isDamaged pa len then s.completes f true []
      else
        let old := (s.homeRead pa len (leafKey e)).1
        let a : Access := { num := 0, who := default, addr := 0, kind := atomicKind op, va := BitVec.ofNat 64 va, pa := pa, size := len, signed := false, plane := 0
                            data := v, expect := cmp }
        let t := if op = .cas ∧ old.toNat ≠ cmp.toNat % 2 ^ (8 * len) then s else s.homeWrite pa len (leafKey e) (BitVec.ofNat 64 (atomicNew a old.toNat))
        if dead then (if performed then t else s).completes f true [] else t.completes f false (natToBytes len old.toNat)

/-- HOST_ATOMIC; of one on a lost plane `flag` says whether it was performed. -/
def eventHostAtomic (s : State) : State :=
  let e := s.event
  s.hostAtomic e.fn e.die e.addr e.len e.op e.value e.value2 e.flag

/-- FUNCTION_LEVEL_RESET (R382, R435): a freeze that ACTION 0x5 left in place ends; of a physical function its virtual functions are unfrozen too. -/
def eventFlr (s : State) : State :=
  let f := s.event.fn
  { s with dies := s.dies.mapVals (fun i d =>
      if i / 8 ≠ f.pkg then d
      else
        let mine (x : Nat × Nat) : Bool := x.1 == f.port && ((x.2 == f.func && d.frozenHard.contains x) || (f.func == 0 && x.2 != 0))
        { d with frozen := d.frozen.filter (fun x => !mine x), frozenHard := d.frozenHard.filter (fun x => !mine x) }) }

/-! ## Events that are one register write -/

/-- Control-space offset of a system register (R438). -/
def sysOffset (n : Nat) : Nat := 0x1000 + 8 * n

/-- A write of the event's value by its function. -/
def State.eventWrite (s : State) (o : Nat) : State := s.hostWriteReg s.event.fn s.event.die o s.event.value

/-- REGISTER_WRITE: a host function's write of any doubleword of the control space, or with `flag` firmware's of a translation root or of PMAPNEXT
(R256, R438). -/
def eventRegisterWrite (s : State) : State :=
  let o := s.event.addr
  if s.event.flag then
    (if (0x200000 ≤ o ∧ o < 0x200800) ∨ (sysOffset 0x18 ≤ o ∧ o < sysOffset 0x20) then s.ctrlWrite .firmware s.event.die o s.event.value else s)
  else s.eventWrite o

/-- GRAPH_QUEUE_ENABLE: a write of dw1 of a graph queue (R218). -/
def eventQueueEnable (s : State) : State := s.eventWrite (0x100000 + 32 * s.event.queue + 8)
/-- GRAPH_QUEUE_TAIL_WRITE: a write of dw2 of a graph queue (R218). -/
def eventTailWrite (s : State) : State := s.eventWrite (0x100000 + 32 * s.event.queue + 16)
/-- XINV_START: a write of XINV dw1 (R247). -/
def eventXinvStart (s : State) : State := s.eventWrite (sysOffset 0x21)
/-- REGION_SWAP_REQUEST: a write of RSWAP dw1 (R338). -/
def eventSwapRequest (s : State) : State := s.eventWrite (0x20000 + 32 * s.event.region + 8)
/-- PREEMPT_SAVE_REQUEST: a write of PREQ dw1 that asks for a save, or with `flag` a save that has waited begins (R397, R398). -/
def eventSaveRequest (s : State) : State :=
  if s.event.flag then s.beginSave s.event.die else if s.event.value.getLsbD 63 = false then s.eventWrite 0x10008 else s
/-- PREEMPT_RESTORE_REQUEST: a write of PREQ dw1 that asks for a restore (R397, R398). -/
def eventRestoreRequest (s : State) : State := if s.event.value.getLsbD 63 then s.eventWrite 0x10008 else s
/-- FQCTL_ENABLE: a write of FQCTL (R377). -/
def eventFqctl (s : State) : State := s.eventWrite (sysOffset 0x31)
/-- TILEHALT_WRITE (R396). -/
def eventTilehalt (s : State) : State := s.eventWrite (sysOffset 0x60)
/-- OWN_CLAIM (R442). -/
def eventOwnClaim (s : State) : State := s.eventWrite 0x400008
/-- OWN_HANDOVER (R442). -/
def eventOwnHand (s : State) : State := s.eventWrite 0x400010
/-- PWRTILE_WRITE (R449). -/
def eventPwrTile (s : State) : State := s.eventWrite (sysOffset 0x80)
/-- PWRREG_WRITE (R449). -/
def eventPwrReg (s : State) : State := s.eventWrite (sysOffset 0x81)

/-- A response of the fault queue with a given ACTION: FQRESP0 is written, then FQRESP1 (R380, R381). -/
def State.respondWith (s : State) (action : Nat) : State :=
  if fld s.event.value 31 28 = action then
    (s.eventWrite (sysOffset 0x33)).hostWriteReg s.event.fn s.event.die (sysOffset 0x34) s.event.value2
  else s

/-! ## The events -/

/-- HOST_MEMORY_REQUEST. -/
def execHostMemoryRequest (s : State) : Host.Outcome State Fault Refusal := .next (eventHostMemory s)
/-- HOST_ATOMIC. -/
def execHostAtomic (s : State) : Host.Outcome State Fault Refusal := .next (eventHostAtomic s)
/-- FUNCTION_LEVEL_RESET. -/
def execFunctionLevelReset (s : State) : Host.Outcome State Fault Refusal := .next (eventFlr s)
/-- REGISTER_WRITE. -/
def execRegisterWrite (s : State) : Host.Outcome State Fault Refusal := .next (eventRegisterWrite s)
/-- GRAPH_QUEUE_ENABLE. -/
def execGraphQueueEnable (s : State) : Host.Outcome State Fault Refusal := .next (eventQueueEnable s)
/-- GRAPH_QUEUE_TAIL_WRITE. -/
def execGraphQueueTailWrite (s : State) : Host.Outcome State Fault Refusal := .next (eventTailWrite s)
/-- XINV_START. -/
def execXinvStart (s : State) : Host.Outcome State Fault Refusal := .next (eventXinvStart s)
/-- REGION_SWAP_REQUEST. -/
def execRegionSwapRequest (s : State) : Host.Outcome State Fault Refusal := .next (eventSwapRequest s)
/-- PREEMPT_SAVE_REQUEST. -/
def execPreemptSaveRequest (s : State) : Host.Outcome State Fault Refusal := .next (eventSaveRequest s)
/-- PREEMPT_RESTORE_REQUEST. -/
def execPreemptRestoreRequest (s : State) : Host.Outcome State Fault Refusal := .next (eventRestoreRequest s)
/-- FQCTL_ENABLE. -/
def execFqctlEnable (s : State) : Host.Outcome State Fault Refusal := .next (eventFqctl s)
/-- TILEHALT_WRITE. -/
def execTilehaltWrite (s : State) : Host.Outcome State Fault Refusal := .next (eventTilehalt s)
/-- OWN_CLAIM. -/
def execOwnClaim (s : State) : Host.Outcome State Fault Refusal := .next (eventOwnClaim s)
/-- OWN_HANDOVER. -/
def execOwnHandover (s : State) : Host.Outcome State Fault Refusal := .next (eventOwnHand s)
/-- PWRTILE_WRITE. -/
def execPwrtileWrite (s : State) : Host.Outcome State Fault Refusal := .next (eventPwrTile s)
/-- PWRREG_WRITE. -/
def execPwrregWrite (s : State) : Host.Outcome State Fault Refusal := .next (eventPwrReg s)
/-- FQ_RESUME. -/
def execFqResume (s : State) : Host.Outcome State Fault Refusal := .next (s.respondWith 1)
/-- FQ_RESUME_STACK. -/
def execFqResumeStack (s : State) : Host.Outcome State Fault Refusal := .next (s.respondWith 2)
/-- FQ_RESUME_AT. -/
def execFqResumeAt (s : State) : Host.Outcome State Fault Refusal := .next (s.respondWith 3)
/-- FQ_KILL. -/
def execFqKill (s : State) : Host.Outcome State Fault Refusal := .next (s.respondWith 4)
/-- FQ_STOP_LOAD. -/
def execFqStopLoad (s : State) : Host.Outcome State Fault Refusal := .next (s.respondWith 5)
/-- FQ_CONTINUE. -/
def execFqContinue (s : State) : Host.Outcome State Fault Refusal := .next (s.respondWith 6)

end Sys2Proof.Machine
end

