-- ==== Sys2Proof/Machine/Links.lean ====
section
/-! DEFINITION. Links and the rack ring: widths, turnaround and retraining (R426 to R428), slots taken in order (R422) and trimmed packets (R425). -/

namespace Sys2Proof.Machine

/-! ## Widths (R426 to R428) -/

/-- The package before or after one on the rack ring (R421). -/
def ringNeighbour (present : List Nat) (pkg : Nat) (up : Bool) : Nat :=
  let l := if up then present else present.reverse
  match l.dropWhile (· ≠ pkg) with
  | _ :: q :: _ => q
  | _ => l.headD pkg

/-- The other end of a link: its die and link number (R420, R421, R428). -/
def State.peer (s : State) (die l : Nat) : Nat × Nat :=
  let p := die / 8
  match l with
  | 0 => (8 * p + (die % 8 + 1) % 8, 1)
  | 1 => (8 * p + (die % 8 + 7) % 8, 0)
  | 2 => (8 * ringNeighbour s.present p false + die % 8, 3)
  | _ => (8 * ringNeighbour s.present p true + die % 8, 2)

/-- A link changed. -/
def State.updLink (s : State) (die plane l : Nat) (f : Link → Link) : State :=
  let x := f (s.link die plane l)
  s.updDie die (fun d => { d with links := d.links.set (4 * plane + l) x })

/-- Minimum width of a link (R427). -/
def minLanes (l : Nat) : Nat := if l < 2 then 16 else 8

/-- Widths that a link trains to, or has. -/
def Link.widths (x : Link) : Nat × Nat := match x.next with | some w => (w.1.toNat, w.2.toNat) | none => (x.txw.toNat, x.rxw.toNat)

/-- New widths for a link and, seen from the other side, for its peer. -/
def State.trainTo (s : State) (die plane l : Nat) (tx rx : Nat) : State :=
  let q := s.peer die l
  (s.updLink die plane l (fun x => { x with next := some (BitVec.ofNat 8 tx, BitVec.ofNat 8 rx) })).updLink q.1 plane q.2
    (fun x => { x with next := some (BitVec.ofNat 8 rx, BitVec.ofNat 8 tx) })

/-- Firmware retires the plane of a link that no turnaround can bring back to its minimum width, in planned mode (R262, R427). -/
def State.retireNarrow (s : State) (plane l tx rx : Nat) : State :=
  if tx + rx < 2 * minLanes l ∧ s.planeLive plane ∧ (List.range 4).any (fun k => k ≠ plane && s.planeLive k) = true ∧
      ¬ (s.rehash.getD {}).retire.contains plane then s.retirePlane plane false
  else s

/-- LANE_REMOVE: `lanes` lanes are removed from the transmitting (`flag`) or receiving direction of a link (R426). -/
def eventLaneRemove (s : State) : State :=
  let e := s.event
  if 4 ≤ e.plane ∨ 4 ≤ e.link ∨ s.linkUp e.die e.plane e.link = false ∨ nominalLanes e.die e.plane e.link = 0 then s
  else
    let w := (s.link e.die e.plane e.link).widths
    let tx := if e.flag then w.1 - e.lanes else w.1
    let rx := if e.flag then w.2 else w.2 - e.lanes
    (s.trainTo e.die e.plane e.link tx rx).retireNarrow e.plane e.link tx rx

/-- LINK_TURNAROUND: `lanes` lanes of the transmitting (`flag`) or receiving direction carry the other one (R427). -/
def eventTurnaround (s : State) : State :=
  let e := s.event
  if 4 ≤ e.plane ∨ 4 ≤ e.link ∨ s.linkUp e.die e.plane e.link = false ∨ nominalLanes e.die e.plane e.link = 0 then s
  else
    let w := (s.link e.die e.plane e.link).widths
    let from' := if e.flag then w.1 else w.2
    if from' < e.lanes then s
    else if e.flag then s.trainTo e.die e.plane e.link (w.1 - e.lanes) (w.2 + e.lanes)
    else s.trainTo e.die e.plane e.link (w.1 + e.lanes) (w.2 - e.lanes)

/-- LINK_RETRAIN_COMPLETE of one end of a link: its new widths, one more retrain, and `index` more link-level retries (R426, R428). -/
def eventRetrain (s : State) : State :=
  let e := s.event
  match (s.link e.die e.plane e.link).next with
  | none => s
  | some w =>
    s.updLink e.die e.plane e.link (fun x =>
      { x with txw := w.1, rxw := w.2, next := none, retrains := if x.retrains = 0xFFFF then x.retrains else x.retrains + 1
               crcretry := BitVec.ofNat 24 (min (2 ^ 24 - 1) (x.crcretry.toNat + e.index)) })

/-! ## Slots (R422, R425) -/

/-- The path of the event's plane, source package `pkg` and destination package `dest`. -/
def State.eventPath (s : State) : RingKey := ⟨s.event.plane, s.event.pkg, s.event.dest⟩

/-- RING_SLOT_ARRIVE of link sequence `seq` at its destination station: taken when it is the next expected, the buffer has room (`flag`) and no
trimmed packet is awaited; else refused, to come round again. `wide`: a trimmed header, for which the source is asked to send again. -/
def eventSlotArrive (s : State) : State :=
  let k := s.eventPath
  let p := s.ring.get k {}
  let q := s.event.seq % 4096
  if k.plane < 4 ∧ k.src ≠ k.dst ∧ s.present.contains k.src ∧ s.present.contains k.dst = true ∧ (q + 4096 - p.expect.toNat) % 4096 < 256 then
    if q = p.expect.toNat ∧ p.trimmed = none ∧ s.event.wide then
      ({ s with ring := s.ring.set k { p with trimmed := some q } } : State).monitor (8 * k.dst + 2 * k.plane) 3 1
    else if q = p.expect.toNat ∧ p.trimmed = none ∧ s.event.flag then
      { s with ring := s.ring.set k { p with expect := p.expect + 1, refused := p.refused.filter (· ≠ q) } }
    else { s with ring := s.ring.set k { p with refused := if p.refused.contains q then p.refused else p.refused ++ [q] } }
  else s

/-- INCAST_RESEND: the payload of a trimmed packet arrives and is passed on (R425). -/
def eventResend (s : State) : State :=
  let k := s.eventPath
  let p := s.ring.get k {}
  match p.trimmed with
  | some q => { s with ring := s.ring.set k { p with trimmed := none, expect := p.expect + 1, refused := p.refused.filter (· ≠ q) } }
  | none => s

/-! ## The events -/

/-- LANE_REMOVE. -/
def execLaneRemove (s : State) : Host.Outcome State Fault Refusal := .next (eventLaneRemove s)
/-- LINK_TURNAROUND. -/
def execLinkTurnaround (s : State) : Host.Outcome State Fault Refusal := .next (eventTurnaround s)
/-- LINK_RETRAIN_COMPLETE. -/
def execLinkRetrainComplete (s : State) : Host.Outcome State Fault Refusal := .next (eventRetrain s)
/-- RING_SLOT_ARRIVE. -/
def execRingSlotArrive (s : State) : Host.Outcome State Fault Refusal := .next (eventSlotArrive s)
/-- INCAST_RESEND. -/
def execIncastResend (s : State) : Host.Outcome State Fault Refusal := .next (eventResend s)

end Sys2Proof.Machine
end

