-- ==== Sys2Proof/Machine/Platform.lean ====
section
/-! DEFINITION. The module's management: boot, recovery and the firmware mailbox (R443 to R445), vacancy of the owner (R442), power and clock
(R448, R449), resets, and the presence of a package on the rack ring (R440). -/

namespace Sys2Proof.Machine

/-! ## Firmware images (R443) -/

/-- The body offset of a container, and its SVN (R323, R443). -/
def imageSvn (bs : List Byte) : BitVec 8 := bs.getD headerBytes 0

/-- Whether a firmware container passes the checks of R443: a container of KIND 3, both vendor signatures, and a version not below the fused one. -/
def firmwareOk (bs : List Byte) : Bool :=
  let h := toDwords (bs.take headerBytes)
  let n := fld (dw h 1) 63 32
  fld (dw h 0) 63 48 == 0x46C9 && fld (dw h 0) 47 44 == 1 && fld (dw h 0) 43 40 == 3 && fld (dw h 0) 29 0 == 0 && fld (dw h 1) 31 8 == 0 &&
  fld (dw h 2) 25 0 == 0 && [12, 13, 14, 15].all (fun k => dw h k == 0) && decide (headerBytes + n ≤ bs.length) &&
  signedBy Config.vendorKeys (bs.take (headerBytes + n)) ((bs.drop (signatureAt n)).take signatureBytes) && decide (Config.rollbackFloor.toNat ≤ (imageSvn bs).toNat)

/-- The dies of a package. -/
def diesOf (pkg : Nat) : List Nat := (List.range 8).map (fun d => 8 * pkg + d)

/-- Tiles and regions that passed their test, powered by firmware (R449). -/
def State.powerAll (s : State) (pkg : Nat) : State :=
  (diesOf pkg).foldl (fun x d =>
    let regs := Config.regionsPassed d
    ((List.range Config.regionsPerDie).filter (fun r => regs.getLsbD r)).foldl (fun y r => y.updRegion ⟨d, r⟩ (fun g => { g with status := .empty }))
      (x.updDie d (fun y => { y with pwrtile := Config.tilesPassed d, pwrreg := regs }))) s

/-- BOOT of a module held in reset (R443, R444): its firmware runs, or it takes the recovery path. -/
def eventBoot (s : State) : State :=
  let p := s.event.pkg
  let k := s.pkg p
  if k.boot ≠ .held then s
  else if firmwareOk k.flash then (s.setPkg p { k with boot := .running, svn := imageSvn k.flash }).powerAll p
  else s.setPkg p { k with boot := .recovery }

/-! ## Resets -/

/-- A module reset (R444, R448): everything on its dies is lost; its flash and key store stay. A module that was not alone leaves the ring until its
links train again. -/
def State.resetModule (s : State) (pkg : Nat) : State :=
  let here (d : Nat) : Bool := d / 8 == pkg
  let k := s.pkg pkg
  let s0 := s.killTasks (fun _ t => here t.load.die)
  { s0 with
    strands := ⟨s0.strands.entries.filter (fun e => !here e.1.die)⟩
    tasks := ⟨s0.tasks.entries.filter (fun e => !here e.1.die)⟩
    tiles := ⟨s0.tiles.entries.filter (fun e => !here e.1.die) ++ (diesOf pkg).flatMap (fun d => (List.range Config.tilesPerDie).map (fun t => (⟨d, t⟩, { resetAt := s.clock })))⟩
    ports := ⟨s0.ports.entries.filter (fun e => !here e.1.die)⟩
    chans := ⟨s0.chans.entries.filter (fun e => !here e.1.load.die)⟩
    regions := ⟨s0.regions.entries.filter (fun e => !here e.1.die)⟩
    loads := ⟨s0.loads.entries.filter (fun e => !here e.1.die)⟩
    queues := ⟨s0.queues.entries.filter (fun e => !here e.1.die)⟩
    dies := ⟨s0.dies.entries.filter (fun e => !here e.1)⟩
    pkgs := s0.pkgs.set pkg { flash := k.flash, keyStore := k.keyStore }
    net := s0.net.filter (fun a => !here a.who.die)
    raises := s0.raises.filter (fun r => !here r.load.die && !here r.who.die)
    saved := ⟨s0.saved.entries.filter (fun e => !here e.1.die)⟩
    ring := ⟨s0.ring.entries.filter (fun e => e.1.src != pkg && e.1.dst != pkg)⟩
    mem := Memory.clear s0.mem (8 * pkg * dieSpan) (8 * (pkg + 1) * dieSpan)
    full := s0.full.filter (fun a => !here (dieOf a))
    keytag := ⟨s0.keytag.entries.filter (fun e => !here (dieOf (64 * e.1)))⟩
    damaged := s0.damaged.filter (fun a => !here (dieOf a))
    hostReqs := s0.hostReqs.filter (fun h => h.fn.pkg ≠ pkg)
    rehash := if s0.present = [pkg] ∨ s0.systemPlane = none then none else s0.rehash
    present := if s0.present = [pkg] then [pkg] else s0.present.filter (· ≠ pkg) }

/-- FW_RECOVERY: on the recovery path the physical function of port 0 has staged an image (`data`); when it passes, it is written to flash and the
module resets (R444). -/
def eventRecovery (s : State) : State :=
  let p := s.event.pkg
  let k := s.pkg p
  if k.boot = .recovery ∧ s.event.fn = ⟨p, 0, 0⟩ ∧ ¬ k.linkDown.contains 0 ∧ firmwareOk s.event.data = true then
    (s.setPkg p { k with flash := s.event.data }).resetModule p
  else s

/-- THERMAL_THROTTLE of a die (R448). -/
def eventThrottle (s : State) : State := s.updDie s.event.die (fun d => { d with throttle := d.throttle + 1 })

/-- THERMAL_RESET of a module (R448). -/
def eventThermalReset (s : State) : State := s.resetModule s.event.pkg

/-! ## The firmware mailbox (R445) -/

/-- Whether the mailbox takes a command from a function (R445): the owner, while firmware runs. -/
def State.mailboxOpen (s : State) (f : HostFn) : Bool := s.hostUp f && s.isOwner f && !s.hostFrozen f

/-- MB_INSTALL_KEY: slot `index` of the key store, signed under the vendor slot (R445). -/
def eventInstallKey (s : State) : State :=
  let e := s.event
  if s.mailboxOpen e.fn ∧ 1 ≤ e.index ∧ e.index ≤ 15 ∧ signedBy Config.vendorKeys (BitVec.ofNat 8 e.index :: e.data ++ e.data2) e.data3 = true then
    s.updPkg e.fn.pkg (fun p => { p with keyStore := p.keyStore.set e.index (e.data, e.data2) })
  else s

/-- What Attest measures and signs (R445). -/
def State.attestation (s : State) (pkg : Nat) (nonce : List Byte) : List Byte :=
  let p := s.pkg pkg
  let keys := (List.range 16).flatMap (fun k => match p.keyPair k with | some x => x.1 ++ x.2 | none => [])
  let images := s.regions.entries.flatMap (fun r => if r.1.die / 8 = pkg then (match r.2.image with | some im => Config.sha3 im.bytes | none => []) else [])
  let body := Config.sha3 Config.romBytes ++ Config.sha3 p.flash ++ Config.sha3 keys ++ images ++ nonce
  body ++ Config.deviceSign body

/-- MB_ATTEST of a 32-byte nonce (R445). -/
def eventAttest (s : State) : State :=
  let e := s.event
  if s.mailboxOpen e.fn ∧ e.data.length = 32 then s.updPkg e.fn.pkg (fun p => { p with response := s.attestation e.fn.pkg e.data }) else s

/-- The granules of a die that were written under a key slot hold its ciphertext from now on (R245). -/
def State.sealGranules (s : State) (die : Nat) (slot : BitVec 4) : State :=
  (s.keytag.keysWhere (fun g t => t == slot && dieOf (64 * g) == die)).foldl (fun x g =>
    { x with mem := Memory.writeBytes x.mem (64 * g) (x.granuleView g 0), keytag := x.keytag.erase g }) s

/-- MB_LOAD_ENC_KEY: key slot `index` on every die of the module takes the two 32-byte keys of AES-256 XTS (R245, R445). -/
def eventLoadEncKey (s : State) : State :=
  let e := s.event
  if s.mailboxOpen e.fn ∧ 1 ≤ e.index ∧ e.index ≤ 15 ∧ e.data.length = 64 then
    (diesOf e.fn.pkg).foldl (fun x d => (x.sealGranules d (BitVec.ofNat 4 e.index)).updDie d (fun y => { y with keys := y.keys.set e.index e.data })) s
  else s

/-- MB_UPDATE_FW: an image that passes is written to flash and runs from the next reset on (R444, R445). -/
def eventUpdateFw (s : State) : State :=
  let e := s.event
  if s.mailboxOpen e.fn ∧ firmwareOk e.data = true then s.updPkg e.fn.pkg (fun p => { p with flash := e.data }) else s

/-! ## Links to hosts and the owner (R442) -/

/-- HOST_LINK_DOWN of a port, or with `flag` its return. -/
def eventHostLink (s : State) : State :=
  let e := s.event
  s.updPkg e.pkg (fun p => { p with linkDown := if e.flag then p.linkDown.filter (· ≠ e.port) else if p.linkDown.contains e.port then p.linkDown else e.port :: p.linkDown })

/-- OWNER_VACANCY_TIMEOUT: the owner's link has stayed down for 1 s (R442). -/
def eventVacancy (s : State) : State :=
  let p := s.event.pkg
  let k := s.pkg p
  if k.valid ∧ k.linkDown.contains k.port then (s.setPkg p { k with valid := false, gen := k.gen + 1, only := none }).disableRings p else s

/-! ## Power and clocks (R449) -/

/-- POWER_UP_COMPLETE of a tile, or with `flag` of a region, number `index`. -/
def eventPowerUp (s : State) : State :=
  let e := s.event
  let d := s.die e.die
  if e.flag then
    if d.risingRegions.contains e.index then
      (s.setDie e.die { d with risingRegions := d.risingRegions.filter (· ≠ e.index), pwrreg := d.pwrreg ||| BitVec.ofNat 48 (2 ^ e.index) }).updRegion
        ⟨e.die, e.index⟩ (fun g => { g with status := .empty })
    else s
  else if d.risingTiles.contains e.index then
    s.setDie e.die { d with risingTiles := d.risingTiles.filter (· ≠ e.index), pwrtile := d.pwrtile ||| BitVec.ofNat 24 (2 ^ e.index) }
  else s

/-- TILE_CLOCK_GATE of tile `index`: its slots are free and its engines have been idle for 1,024 cycles. -/
def eventClockGate (s : State) : State :=
  let t : TileId := ⟨s.event.die, s.event.index⟩
  if s.tilePowered t ∧ (s.occupants t).isEmpty ∧ (s.tile t).busyAt + 1024 ≤ s.clock then s.updTile t (fun x => { x with clockGated := true }) else s

/-! ## The rack ring (R440) -/

/-- PKG_INDEX_CLASH: a module meets another with its own index; its bridge links stay down. -/
def eventClash (s : State) : State :=
  let p := s.event.pkg
  if (s.pkg p).boot = .running ∧ (s.present = [p] ∨ ¬ s.present.contains p) then s.updPkg p (fun k => { k with clash := true }) else s

/-- A package number put in its place in rising order. -/
def insertRising (p : Nat) : List Nat → List Nat
  | [] => [p]
  | q :: qs => if p < q then p :: q :: qs else q :: insertRising p qs

/-- The plane map and status that the dies of a package take from the ring they join, so that every die holds the same (R253, R256, log entry 40). -/
def Die.joined (d ring : Die) : Die := { d with live := ring.live, pmap := ring.pmap, pmapNext := ring.pmapNext, gen := ring.gen, lost := ring.lost }

/-- BRIDGE_LINK_TRAINED: a package joins the rack ring. -/
def eventBridge (s : State) : State :=
  let p := s.event.pkg
  if p < 32 ∧ (s.pkg p).boot = .running ∧ (s.pkg p).clash = false ∧ ¬ s.present.contains p ∧ s.rehash = none then
    let ring := match s.present with | q :: _ => s.die (8 * q) | [] => {}
    (diesOf p).foldl (fun x d => x.updDie d (fun y => if s.present.isEmpty then y else y.joined ring)) { s with present := insertRising p s.present }
  else s

/-! ## The events -/

/-- BOOT. -/
def execBoot (s : State) : Host.Outcome State Fault Refusal := .next (eventBoot s)
/-- FW_RECOVERY. -/
def execFwRecovery (s : State) : Host.Outcome State Fault Refusal := .next (eventRecovery s)
/-- MB_INSTALL_KEY. -/
def execMbInstallKey (s : State) : Host.Outcome State Fault Refusal := .next (eventInstallKey s)
/-- MB_ATTEST. -/
def execMbAttest (s : State) : Host.Outcome State Fault Refusal := .next (eventAttest s)
/-- MB_LOAD_ENC_KEY. -/
def execMbLoadEncKey (s : State) : Host.Outcome State Fault Refusal := .next (eventLoadEncKey s)
/-- MB_UPDATE_FW. -/
def execMbUpdateFw (s : State) : Host.Outcome State Fault Refusal := .next (eventUpdateFw s)
/-- HOST_LINK_DOWN. -/
def execHostLinkDown (s : State) : Host.Outcome State Fault Refusal := .next (eventHostLink s)
/-- OWNER_VACANCY_TIMEOUT. -/
def execOwnerVacancyTimeout (s : State) : Host.Outcome State Fault Refusal := .next (eventVacancy s)
/-- POWER_UP_COMPLETE. -/
def execPowerUpComplete (s : State) : Host.Outcome State Fault Refusal := .next (eventPowerUp s)
/-- TILE_CLOCK_GATE. -/
def execTileClockGate (s : State) : Host.Outcome State Fault Refusal := .next (eventClockGate s)
/-- THERMAL_THROTTLE. -/
def execThermalThrottle (s : State) : Host.Outcome State Fault Refusal := .next (eventThrottle s)
/-- THERMAL_RESET. -/
def execThermalReset (s : State) : Host.Outcome State Fault Refusal := .next (eventThermalReset s)
/-- PKG_INDEX_CLASH. -/
def execPkgIndexClash (s : State) : Host.Outcome State Fault Refusal := .next (eventClash s)
/-- BRIDGE_LINK_TRAINED. -/
def execBridgeLinkTrained (s : State) : Host.Outcome State Fault Refusal := .next (eventBridge s)

end Sys2Proof.Machine
end

