-- ==== Sys2Proof/Machine/Special.lean ====
section
/-! DEFINITION. The special functions of R162: e^x, ln x, 1/x, 1/sqrt x and tanh x, rounded once. The transcendental
ones are computed in fixed point with 720 fraction bits, whose error lies far below the distance of any of their values
from a rounding breakpoint of the three formats (log entry 6). -/

namespace Sys2Proof.Machine

/-- Fraction bits of the fixed point. -/
def fixBits : Nat := 720

/-- The product of two fixed-point numbers. -/
def fixMul (a b : Nat) : Nat := a * b / 2 ^ fixBits

/-- The sum of y^n / n! from a term on. -/
def expTerms (y : Nat) : Nat → Nat → Nat → Nat
  | 0, _, _ => 0
  | fuel + 1, n, term => term + expTerms y fuel (n + 1) (fixMul term y / (n + 1))

/-- A number squared k times. -/
def squared : Nat → Nat → Nat
  | 0, x => x
  | k + 1, x => squared k (fixMul x x)

/-- e^x for a fixed-point x of at most 256: the series at x / 2^16, squared sixteen times. -/
def fixExp (x : Nat) : Nat := squared 16 (expTerms (x / 2 ^ 16) 100 0 (2 ^ fixBits))

/-- The sum of z^(2k+1) / (2k+1), with the power so far. -/
def atanhTerms (z2 : Nat) : Nat → Nat → Nat → Nat
  | 0, _, _ => 0
  | fuel + 1, k, power => power / (2 * k + 1) + atanhTerms z2 fuel (k + 1) (fixMul power z2)

/-- ln of a ratio a / b from 1 to 2: twice the inverse hyperbolic tangent of (a - b) / (a + b). -/
def fixLn (a b : Nat) : Nat :=
  let z := (a - b) * 2 ^ fixBits / (a + b)
  2 * atanhTerms (fixMul z z) 240 0 z

/-- The fixed-point magnitude of m * 2^e, at most `cap`. -/
def fixOf (m : Nat) (e : Int) (cap : Nat) : Nat :=
  if 0 ≤ (Nat.log2 m : Int) + e - 9 then cap * 2 ^ fixBits else min (cap * 2 ^ fixBits) (m * 2 ^ (e + fixBits).toNat)

/-- e^x, near (R162). Beyond +-200 every format overflows or underflows as at +-200. -/
def nearExp : Num → Near
  | .nan => (.nan, false)
  | .inf true => (.fin false 0 0, false)
  | .inf false => (.inf false, false)
  | .fin neg m e =>
    if m = 0 then (.fin false 1 0, false)
    else
      let x := fixExp (fixOf m e 200)
      (.fin false (if neg then 2 ^ (2 * fixBits) / x else x) (-fixBits), true)

/-- ln x, near (R162). -/
def nearLog : Num → Near
  | .nan => (.nan, false)
  | .inf true => (.nan, false)
  | .inf false => (.inf false, false)
  | .fin neg m e =>
    if m = 0 then (.inf true, false)
    else if neg then (.nan, false)
    else
      let l := Nat.log2 m
      let k : Int := (l : Int) + e
      if m = 2 ^ l ∧ k = 0 then (.fin false 0 0, false)
      else
        let v : Int := (fixLn m (2 ^ l) : Int) + k * (fixLn 2 1 : Int)
        (.fin (decide (v < 0)) v.natAbs (-fixBits), true)

/-- 1/x (R162). -/
def nearRcp (v : Num) : Near := (Num.fin false 1 0).div v

/-- 1/sqrt x, near: the floor of 2^100 over the root, and whether it is short (R162). -/
def nearRsq : Num → Near
  | .nan => (.nan, false)
  | .inf true => (.nan, false)
  | .inf false => (.fin false 0 0, false)
  | .fin neg m e =>
    if m = 0 then (.inf neg, false)
    else if neg then (.nan, false)
    else
      let m2 := if e % 2 = 0 then m else 2 * m
      let e2 : Int := if e % 2 = 0 then e else e - 1
      let r := isqrt (2 ^ 200 / m2) 101 0
      (.fin false r (-100 - e2 / 2), r * r * m2 != 2 ^ 200)

/-- tanh x, near: (E - 1) / (E + 1) of E = e^(2|x|) (R162). Beyond +-100 every rounding is as at +-100. -/
def nearTanh : Num → Near
  | .nan => (.nan, false)
  | .inf neg => (.fin neg 1 0, false)
  | .fin neg m e =>
    if m = 0 then (.fin neg 0 0, false)
    else
      let x := fixExp (2 * fixOf m e 100)
      (.fin neg ((x - 2 ^ fixBits) * 2 ^ fixBits / (x + 2 ^ fixBits)) (-fixBits), true)

/-- A special function of one W operand, rounded once (R162). -/
def special (w : Fields) (g : Num → Near) : M Flow := do
  let f := plainFormat w.fmt.toNat
  let a ← operandW f w.a
  writeLanes w (a.map (fun x => let r := g (decodeNum f (elemOf f x)); cellOf f (round r.1 f (Rnd.ofMod w.mod.toNat) r.2)))
  return .fall

def execVexp (w : Fields) (s : State) : Host.Outcome State Fault Refusal := issue (.vexp w) (special w nearExp) s
def execVlog (w : Fields) (s : State) : Host.Outcome State Fault Refusal := issue (.vlog w) (special w nearLog) s
def execVrcp (w : Fields) (s : State) : Host.Outcome State Fault Refusal := issue (.vrcp w) (special w nearRcp) s
def execVrsq (w : Fields) (s : State) : Host.Outcome State Fault Refusal := issue (.vrsq w) (special w nearRsq) s
def execVtanh (w : Fields) (s : State) : Host.Outcome State Fault Refusal := issue (.vtanh w) (special w nearTanh) s

end Sys2Proof.Machine
end

