-- ==== Sys2Proof/Machine/System.lean ====
section
/-! DEFINITION. The system instructions 0xF0 to 0xF9 (R391 to R396), and an unassigned opcode (R54). -/

namespace Sys2Proof.Machine

/-- The half of a 64-bit register that an instruction reads (R392). -/
def halfOf (w : Fields) (core : CoreId) (v : Word64) : Word64 :=
  match core with
  | .dawn => v
  | .dusk => if w.mod = 1 then v >>> 32 else v &&& 0xFFFFFFFF#64

/-- SYSRD (R391, R392). -/
def bodySysrd (w : Fields) : M Flow := do
  let s ← get
  destine w.d (halfOf w s.cur.strand.core (s.sysRead .load s.cur.strand.die (fld w.e 11 0)))
  return .fall
def execSysrd (w : Fields) (s : State) : Host.Outcome State Fault Refusal := issue (.sysrd w) (bodySysrd w) s

/-- SYSWR (R391, R392): all 64 bits on Dawn, one half on Dusk, where only the upper half starts an action. -/
def bodySyswr (w : Fields) : M Flow := do
  let v ← source w.a
  let s ← get
  let who := s.cur.strand
  let hi := w.mod == 1
  let (x, mask, starts) : Word64 × Word64 × Bool := match who.core with
    | .dawn => (v, allBits, true)
    | .dusk => if hi then (v <<< 32, 0xFFFFFFFF00000000#64, true) else (v, 0xFFFFFFFF#64, false)
  modify (fun s => s.sysWrite .load who.die (fld w.e 11 0) x mask starts)
  return .fall
def execSyswr (w : Fields) (s : State) : Host.Outcome State Fault Refusal := issue (.syswr w) (bodySyswr w) s

/-- SETSTK (R393). -/
def bodySetstk (w : Fields) : M Flow := do
  let a ← source w.a
  let b ← source w.b
  let t ← theTask
  let top := t.tmBase + t.tmSize
  trapIf (a.toNat % 8 != 0 || decide (top < a.toNat) || decide (a.toNat < t.tmBase)) (refuseValue 0xF2 w 2 a)
  trapIf (b.toNat % 8 != 0 || decide (a.toNat < b.toNat) || decide (b.toNat < t.tmBase)) (refuseValue 0xF2 w 3 b)
  modStrand (fun st => { st with stkbase := a, stklim := b })
  return .fall
def execSetstk (w : Fields) (s : State) : Host.Outcome State Fault Refusal := issue (.setstk w) (bodySetstk w) s

/-- TRAP (R394). -/
def bodyTrap (w : Fields) : M Flow := do
  let a ← source w.a
  let s ← get
  trapWith { code := .trap, info := a, detail := w.e.zeroExtend 32, resume := some (s.wordAddr + 12) }
def execTrap (w : Fields) (s : State) : Host.Outcome State Fault Refusal := issue (.trap w) (bodyTrap w) s

/-- BKPT (R394). -/
def bodyBkpt (w : Fields) : M Flow := do
  let s ← get
  trapIf ((s.die s.cur.strand.die).dbgen.getLsbD s.cur.strand.tile)
    { code := .bkpt, detail := w.e.zeroExtend 32, resume := some (s.wordAddr + 12) }
  return .fall
def execBkpt (w : Fields) (s : State) : Host.Outcome State Fault Refusal := issue (.bkpt w) (bodyBkpt w) s

/-- A monitor counter's number (R395). -/
def monitorIndex (op : BitVec 8) (w : Fields) (v : Word64) : M Nat := do
  trapIf (decide (fld v 31 4 ≠ 0)) (refuseValue op w 2 v)
  return fld v 3 0

/-- MONRD (R395, R447). -/
def bodyMonrd (w : Fields) : M Flow := do
  let k ← monitorIndex 0xF5 w (← source w.a)
  let s ← get
  let r := s.readMonitor s.cur.strand.die k
  set r.2
  destine w.d (halfOf w s.cur.strand.core r.1)
  return .fall
def execMonrd (w : Fields) (s : State) : Host.Outcome State Fault Refusal := issue (.monrd w) (bodyMonrd w) s

/-- MONCFG (R395, R447). -/
def bodyMoncfg (w : Fields) : M Flow := do
  let k ← monitorIndex 0xF6 w (← source w.a)
  let v ← source w.b
  trapIf (decide (fld v 31 18 ≠ 0) || !monitorSource (fld v 15 0)) (refuseValue 0xF6 w 3 v)
  modify (fun s => s.configureMonitor s.cur.strand.die k v)
  return .fall
def execMoncfg (w : Fields) (s : State) : Host.Outcome State Fault Refusal := issue (.moncfg w) (bodyMoncfg w) s

/-- The target of CTXSV and CTXLD and the image's address (R395): the status that ends it at once, or the target. -/
def contextTarget (op : BitVec 8) (w : Fields) : M (Except Nat TaskId × Nat) := do
  let a ← source w.a
  let b ← source w.b
  trapIf (decide (fld a 31 2 ≠ 0)) (refuseValue op w 2 a)
  let s ← get
  let who := s.cur.strand
  let i : TaskId := ⟨who.die, who.tile, fld a 1 0⟩
  let z := imageBytes (s.task i).hdr
  trapIf (decide (b.toNat % 64 ≠ 0)) { code := .misalign, loc := 3, info := b, detail := BitVec.ofNat 32 z }
  if i = who.task ∨ (s.task i).status = .free then return (.error 2, b.toNat)
  else
    match tileCheck s.myTask s.me (isStackPointer w.b) b.toNat z z 64 with
    | some t => trapWith { t with loc := 3 }
    | none =>
      if s.quiescent i then
        afterOwn b.toNat z
        return (.ok i, b.toNat)
      else return (.error 1, b.toNat)

/-- CTXSV (R395). -/
def bodyCtxsv (w : Fields) : M Flow := do
  match (← contextTarget 0xF7 w) with
  | (.error n, _) => destine w.d (BitVec.ofNat 64 n)
  | (.ok i, b) =>
    modify (fun s => ((s.saveContext i).2).writeTile i.tileId b (s.saveContext i).1)
    destine w.d 0
  return .fall
def execCtxsv (w : Fields) (s : State) : Host.Outcome State Fault Refusal := issue (.ctxsv w) (bodyCtxsv w) s

/-- CTXLD (R395). -/
def bodyCtxld (w : Fields) : M Flow := do
  match (← contextTarget 0xF8 w) with
  | (.error n, _) => destine w.d (BitVec.ofNat 64 n)
  | (.ok i, b) =>
    let s ← get
    trapIf (s.isDamaged (tilePa i.tileId b) (imageBytes (s.task i).hdr)) (eccTrap 2 (BitVec.ofNat 64 b) 3)
    match s.loadContext i (s.readTile i.tileId b (imageBytes (s.task i).hdr)) with
    | none => destine w.d 3
    | some t => set t; destine w.d 0
  return .fall
def execCtxld (w : Fields) (s : State) : Host.Outcome State Fault Refusal := issue (.ctxld w) (bodyCtxld w) s

/-- HALT (R396). -/
def bodyHalt (_ : Fields) : M Flow := do
  modify (fun s => s.updDie s.cur.strand.die (fun d => { d with tilehalt := d.tilehalt ||| BitVec.ofNat 24 (2 ^ s.cur.strand.tile) }))
  return .fall
def execHalt (w : Fields) (s : State) : Host.Outcome State Fault Refusal := issue (.halt w) (bodyHalt w) s

/-- An unassigned opcode: ILLEGAL_ENC by step 1 of R57 (R54). -/
def execUnassigned (op : BitVec 8) (w : Fields) (s : State) : Host.Outcome State Fault Refusal :=
  issue (.unassigned op w) (return .fall) s

end Sys2Proof.Machine
end

