-- ==== Sys2Proof/Machine/Dispatch.lean ====
section
/-! DEFINITION. One arm per instruction. -/

namespace Sys2Proof.Machine

def exec (i : Instr) (s : State) : Host.Outcome State Fault Refusal :=
  match i with
  | .nop w => Sys2Proof.Machine.execNop w s
  | .mov w => Sys2Proof.Machine.execMov w s
  | .movi w => Sys2Proof.Machine.execMovi w s
  | .movhi w => Sys2Proof.Machine.execMovhi w s
  | .add w => Sys2Proof.Machine.execAdd w s
  | .sub w => Sys2Proof.Machine.execSub w s
  | .mul w => Sys2Proof.Machine.execMul w s
  | .mulh w => Sys2Proof.Machine.execMulh w s
  | .div w => Sys2Proof.Machine.execDiv w s
  | .rem w => Sys2Proof.Machine.execRem w s
  | .and w => Sys2Proof.Machine.execAnd w s
  | .or w => Sys2Proof.Machine.execOr w s
  | .xor w => Sys2Proof.Machine.execXor w s
  | .andn w => Sys2Proof.Machine.execAndn w s
  | .shl w => Sys2Proof.Machine.execShl w s
  | .shr w => Sys2Proof.Machine.execShr w s
  | .sar w => Sys2Proof.Machine.execSar w s
  | .rol w => Sys2Proof.Machine.execRol w s
  | .min w => Sys2Proof.Machine.execMin w s
  | .max w => Sys2Proof.Machine.execMax w s
  | .abs w => Sys2Proof.Machine.execAbs w s
  | .neg w => Sys2Proof.Machine.execNeg w s
  | .clz w => Sys2Proof.Machine.execClz w s
  | .popc w => Sys2Proof.Machine.execPopc w s
  | .bfx w => Sys2Proof.Machine.execBfx w s
  | .bfi w => Sys2Proof.Machine.execBfi w s
  | .sel w => Sys2Proof.Machine.execSel w s
  | .cmp w => Sys2Proof.Machine.execCmp w s
  | .plog w => Sys2Proof.Machine.execPlog w s
  | .psave w => Sys2Proof.Machine.execPsave w s
  | .prest w => Sys2Proof.Machine.execPrest w s
  | .cvtsx w => Sys2Proof.Machine.execCvtsx w s
  | .lea w => Sys2Proof.Machine.execLea w s
  | .mad w => Sys2Proof.Machine.execMad w s
  | .ldt w => Sys2Proof.Machine.execLdt w s
  | .stt w => Sys2Proof.Machine.execStt w s
  | .fadd w => Sys2Proof.Machine.execFadd w s
  | .fsub w => Sys2Proof.Machine.execFsub w s
  | .fmul w => Sys2Proof.Machine.execFmul w s
  | .ffma w => Sys2Proof.Machine.execFfma w s
  | .fmin w => Sys2Proof.Machine.execFmin w s
  | .fmax w => Sys2Proof.Machine.execFmax w s
  | .fabs w => Sys2Proof.Machine.execFabs w s
  | .fneg w => Sys2Proof.Machine.execFneg w s
  | .fcmp w => Sys2Proof.Machine.execFcmp w s
  | .fcvt w => Sys2Proof.Machine.execFcvt w s
  | .fdiv w => Sys2Proof.Machine.execFdiv w s
  | .fsqrt w => Sys2Proof.Machine.execFsqrt w s
  | .frcp w => Sys2Proof.Machine.execFrcp w s
  | .br w => Sys2Proof.Machine.execBr w s
  | .jmp w => Sys2Proof.Machine.execJmp w s
  | .call w => Sys2Proof.Machine.execCall w s
  | .callr w => Sys2Proof.Machine.execCallr w s
  | .ret w => Sys2Proof.Machine.execRet w s
  | .loop w => Sys2Proof.Machine.execLoop w s
  | .bcq w => Sys2Proof.Machine.execBcq w s
  | .qpush w => Sys2Proof.Machine.execQpush w s
  | .qpop w => Sys2Proof.Machine.execQpop w s
  | .qcount w => Sys2Proof.Machine.execQcount w s
  | .twait w => Sys2Proof.Machine.execTwait w s
  | .tsig w => Sys2Proof.Machine.execTsig w s
  | .suspend w => Sys2Proof.Machine.execSuspend w s
  | .endStrand w => Sys2Proof.Machine.execEndStrand w s
  | .yield w => Sys2Proof.Machine.execYield w s
  | .evrd w => Sys2Proof.Machine.execEvrd w s
  | .evadd w => Sys2Proof.Machine.execEvadd w s
  | .evset w => Sys2Proof.Machine.execEvset w s
  | .graise w => Sys2Proof.Machine.execGraise w s
  | .gread w => Sys2Proof.Machine.execGread w s
  | .setnf w => Sys2Proof.Machine.execSetnf w s
  | .tread w => Sys2Proof.Machine.execTread w s
  | .ldg w => Sys2Proof.Machine.execLdg w s
  | .stg w => Sys2Proof.Machine.execStg w s
  | .ldc w => Sys2Proof.Machine.execLdc w s
  | .pld w => Sys2Proof.Machine.execPld w s
  | .pst w => Sys2Proof.Machine.execPst w s
  | .prst w => Sys2Proof.Machine.execPrst w s
  | .stf w => Sys2Proof.Machine.execStf w s
  | .atadd w => Sys2Proof.Machine.execAtadd w s
  | .atand w => Sys2Proof.Machine.execAtand w s
  | .ator w => Sys2Proof.Machine.execAtor w s
  | .atxor w => Sys2Proof.Machine.execAtxor w s
  | .atmin w => Sys2Proof.Machine.execAtmin w s
  | .atmax w => Sys2Proof.Machine.execAtmax w s
  | .atswp w => Sys2Proof.Machine.execAtswp w s
  | .atcas w => Sys2Proof.Machine.execAtcas w s
  | .amaxx w => Sys2Proof.Machine.execAmaxx w s
  | .atfadd w => Sys2Proof.Machine.execAtfadd w s
  | .atfmax w => Sys2Proof.Machine.execAtfmax w s
  | .fence w => Sys2Proof.Machine.execFence w s
  | .lfence w => Sys2Proof.Machine.execLfence w s
  | .pref w => Sys2Proof.Machine.execPref w s
  | .vld w => Sys2Proof.Machine.execVld w s
  | .vst w => Sys2Proof.Machine.execVst w s
  | .vlds w => Sys2Proof.Machine.execVlds w s
  | .vsts w => Sys2Proof.Machine.execVsts w s
  | .vldt w => Sys2Proof.Machine.execVldt w s
  | .vstt w => Sys2Proof.Machine.execVstt w s
  | .vmov w => Sys2Proof.Machine.execVmov w s
  | .vbcs w => Sys2Proof.Machine.execVbcs w s
  | .vadd w => Sys2Proof.Machine.execVadd w s
  | .vsub w => Sys2Proof.Machine.execVsub w s
  | .vmul w => Sys2Proof.Machine.execVmul w s
  | .vfma w => Sys2Proof.Machine.execVfma w s
  | .vmin w => Sys2Proof.Machine.execVmin w s
  | .vmax w => Sys2Proof.Machine.execVmax w s
  | .vabs w => Sys2Proof.Machine.execVabs w s
  | .vneg w => Sys2Proof.Machine.execVneg w s
  | .vand w => Sys2Proof.Machine.execVand w s
  | .vor w => Sys2Proof.Machine.execVor w s
  | .vxor w => Sys2Proof.Machine.execVxor w s
  | .vshl w => Sys2Proof.Machine.execVshl w s
  | .vshr w => Sys2Proof.Machine.execVshr w s
  | .vsar w => Sys2Proof.Machine.execVsar w s
  | .vcmp w => Sys2Proof.Machine.execVcmp w s
  | .vsel w => Sys2Proof.Machine.execVsel w s
  | .klog w => Sys2Proof.Machine.execKlog w s
  | .kmov w => Sys2Proof.Machine.execKmov w s
  | .vrotr w => Sys2Proof.Machine.execVrotr w s
  | .vrotc w => Sys2Proof.Machine.execVrotc w s
  | .vbcr w => Sys2Proof.Machine.execVbcr w s
  | .vbcc w => Sys2Proof.Machine.execVbcc w s
  | .vredr w => Sys2Proof.Machine.execVredr w s
  | .vredc w => Sys2Proof.Machine.execVredc w s
  | .vscnr w => Sys2Proof.Machine.execVscnr w s
  | .vscnc w => Sys2Proof.Machine.execVscnc w s
  | .vcvt w => Sys2Proof.Machine.execVcvt w s
  | .vqnt w => Sys2Proof.Machine.execVqnt w s
  | .vdqnt w => Sys2Proof.Machine.execVdqnt w s
  | .vexp w => Sys2Proof.Machine.execVexp w s
  | .vlog w => Sys2Proof.Machine.execVlog w s
  | .vrcp w => Sys2Proof.Machine.execVrcp w s
  | .vrsq w => Sys2Proof.Machine.execVrsq w s
  | .vtanh w => Sys2Proof.Machine.execVtanh w s
  | .vextr w => Sys2Proof.Machine.execVextr w s
  | .vins w => Sys2Proof.Machine.execVins w s
  | .vpop w => Sys2Proof.Machine.execVpop w s
  | .vpush w => Sys2Proof.Machine.execVpush w s
  | .pscl w => Sys2Proof.Machine.execPscl w s
  | .vswz w => Sys2Proof.Machine.execVswz w s
  | .smm w => Sys2Proof.Machine.execSmm w s
  | .smmz w => Sys2Proof.Machine.execSmmz w s
  | .saccrd w => Sys2Proof.Machine.execSaccrd w s
  | .saccwr w => Sys2Proof.Machine.execSaccwr w s
  | .saccz w => Sys2Proof.Machine.execSaccz w s
  | .sscl w => Sys2Proof.Machine.execSscl w s
  | .smode w => Sys2Proof.Machine.execSmode w s
  | .sprog w => Sys2Proof.Machine.execSprog w s
  | .sbfly w => Sys2Proof.Machine.execSbfly w s
  | .schain w => Sys2Proof.Machine.execSchain w s
  | .sstr w => Sys2Proof.Machine.execSstr w s
  | .sbwl w => Sys2Proof.Machine.execSbwl w s
  | .saccv w => Sys2Proof.Machine.execSaccv w s
  | .svacc w => Sys2Proof.Machine.execSvacc w s
  | .mcpy w => Sys2Proof.Machine.execMcpy w s
  | .mcpy2 w => Sys2Proof.Machine.execMcpy2 w s
  | .mgth w => Sys2Proof.Machine.execMgth w s
  | .msct w => Sys2Proof.Machine.execMsct w s
  | .mspg w => Sys2Proof.Machine.execMspg w s
  | .mfill w => Sys2Proof.Machine.execMfill w s
  | .mm2c w => Sys2Proof.Machine.execMm2c w s
  | .mc2m w => Sys2Proof.Machine.execMc2m w s
  | .mnest w => Sys2Proof.Machine.execMnest w s
  | .mstat w => Sys2Proof.Machine.execMstat w s
  | .pthr w => Sys2Proof.Machine.execPthr w s
  | .peos w => Sys2Proof.Machine.execPeos w s
  | .pord w => Sys2Proof.Machine.execPord w s
  | .pstat w => Sys2Proof.Machine.execPstat w s
  | .ptst w => Sys2Proof.Machine.execPtst w s
  | .pdrn w => Sys2Proof.Machine.execPdrn w s
  | .ptyp w => Sys2Proof.Machine.execPtyp w s
  | .sysrd w => Sys2Proof.Machine.execSysrd w s
  | .syswr w => Sys2Proof.Machine.execSyswr w s
  | .setstk w => Sys2Proof.Machine.execSetstk w s
  | .trap w => Sys2Proof.Machine.execTrap w s
  | .bkpt w => Sys2Proof.Machine.execBkpt w s
  | .monrd w => Sys2Proof.Machine.execMonrd w s
  | .moncfg w => Sys2Proof.Machine.execMoncfg w s
  | .ctxsv w => Sys2Proof.Machine.execCtxsv w s
  | .ctxld w => Sys2Proof.Machine.execCtxld w s
  | .halt w => Sys2Proof.Machine.execHalt w s
  | .unassigned op w => Sys2Proof.Machine.execUnassigned op w s
  | .elSource w => Sys2Proof.Machine.execElSource w s
  | .elSink w => Sys2Proof.Machine.execElSink w s
  | .elCopy w => Sys2Proof.Machine.execElCopy w s
  | .elQbuf w => Sys2Proof.Machine.execElQbuf w s
  | .elConst w => Sys2Proof.Machine.execElConst w s
  | .elAdd w => Sys2Proof.Machine.execElAdd w s
  | .elSub w => Sys2Proof.Machine.execElSub w s
  | .elMul w => Sys2Proof.Machine.execElMul w s
  | .elFma w => Sys2Proof.Machine.execElFma w s
  | .elMin w => Sys2Proof.Machine.execElMin w s
  | .elMax w => Sys2Proof.Machine.execElMax w s
  | .elLogic w => Sys2Proof.Machine.execElLogic w s
  | .elCmp w => Sys2Proof.Machine.execElCmp w s
  | .elCvt w => Sys2Proof.Machine.execElCvt w s
  | .elLut w => Sys2Proof.Machine.execElLut w s
  | .elUnpack w => Sys2Proof.Machine.execElUnpack w s
  | .elPack w => Sys2Proof.Machine.execElPack w s
  | .elZenc w => Sys2Proof.Machine.execElZenc w s
  | .elZdec w => Sys2Proof.Machine.execElZdec w s
  | .elDelta w => Sys2Proof.Machine.execElDelta w s
  | .elBqnt w => Sys2Proof.Machine.execElBqnt w s
  | .elBdqnt w => Sys2Proof.Machine.execElBdqnt w s
  | .elExpadd w => Sys2Proof.Machine.execElExpadd w s
  | .elTopk w => Sys2Proof.Machine.execElTopk w s
  | .elCount w => Sys2Proof.Machine.execElCount w s
  | .elSteer w => Sys2Proof.Machine.execElSteer w s
  | .elMerge w => Sys2Proof.Machine.execElMerge w s
  | .elCarry w => Sys2Proof.Machine.execElCarry w s
  | .suspendWake => Sys2Proof.Machine.execSuspendWake s
  | .autoPark => Sys2Proof.Machine.execAutoPark s
  | .autoParkWake => Sys2Proof.Machine.execAutoParkWake s
  | .graiseApply => Sys2Proof.Machine.execGraiseApply s
  | .globalAccessPerform => Sys2Proof.Machine.execGlobalAccessPerform s
  | .globalReplyArrival => Sys2Proof.Machine.execGlobalReplyArrival s
  | .globalAckArrival => Sys2Proof.Machine.execGlobalAckArrival s
  | .fenceRetire => Sys2Proof.Machine.execFenceRetire s
  | .translationWalkComplete => Sys2Proof.Machine.execTranslationWalkComplete s
  | .layoutRecordCacheFill => Sys2Proof.Machine.execLayoutRecordCacheFill s
  | .seracCommandStart => Sys2Proof.Machine.execSeracCommandStart s
  | .seracBlockStaged => Sys2Proof.Machine.execSeracBlockStaged s
  | .seracCommandComplete => Sys2Proof.Machine.execSeracCommandComplete s
  | .moraineCommandStart => Sys2Proof.Machine.execMoraineCommandStart s
  | .moraineCommandComplete => Sys2Proof.Machine.execMoraineCommandComplete s
  | .gridDispatch => Sys2Proof.Machine.execGridDispatch s
  | .taskStrandsStart => Sys2Proof.Machine.execTaskStrandsStart s
  | .taskDone => Sys2Proof.Machine.execTaskDone s
  | .taskSlotFree => Sys2Proof.Machine.execTaskSlotFree s
  | .graphQueueEnable => Sys2Proof.Machine.execGraphQueueEnable s
  | .graphQueueTailWrite => Sys2Proof.Machine.execGraphQueueTailWrite s
  | .graphEntryRead => Sys2Proof.Machine.execGraphEntryRead s
  | .loadConfigure => Sys2Proof.Machine.execLoadConfigure s
  | .regionImageVerified => Sys2Proof.Machine.execRegionImageVerified s
  | .loadStart => Sys2Proof.Machine.execLoadStart s
  | .loadComplete => Sys2Proof.Machine.execLoadComplete s
  | .loadExit => Sys2Proof.Machine.execLoadExit s
  | .graphComplete => Sys2Proof.Machine.execGraphComplete s
  | .xinvStart => Sys2Proof.Machine.execXinvStart s
  | .xinvComplete => Sys2Proof.Machine.execXinvComplete s
  | .planeRetirePlanned => Sys2Proof.Machine.execPlaneRetirePlanned s
  | .planeFaultDetect => Sys2Proof.Machine.execPlaneFaultDetect s
  | .planeStallTimeout => Sys2Proof.Machine.execPlaneStallTimeout s
  | .rehashStop => Sys2Proof.Machine.execRehashStop s
  | .rehashDrained => Sys2Proof.Machine.execRehashDrained s
  | .rehashCommit => Sys2Proof.Machine.execRehashCommit s
  | .rehashCommitted => Sys2Proof.Machine.execRehashCommitted s
  | .rehashResume => Sys2Proof.Machine.execRehashResume s
  | .channelPacketSend => Sys2Proof.Machine.execChannelPacketSend s
  | .channelPacketArrive => Sys2Proof.Machine.execChannelPacketArrive s
  | .channelAck => Sys2Proof.Machine.execChannelAck s
  | .channelOff => Sys2Proof.Machine.execChannelOff s
  | .channelOn => Sys2Proof.Machine.execChannelOn s
  | .elementSpecialToken => Sys2Proof.Machine.execElementSpecialToken s
  | .regionOutputPortTake => Sys2Proof.Machine.execRegionOutputPortTake s
  | .regionConfigError => Sys2Proof.Machine.execRegionConfigError s
  | .regionSwapRequest => Sys2Proof.Machine.execRegionSwapRequest s
  | .regionSwapImageChecked => Sys2Proof.Machine.execRegionSwapImageChecked s
  | .regionSwapIdle => Sys2Proof.Machine.execRegionSwapIdle s
  | .regionSwapTimeout => Sys2Proof.Machine.execRegionSwapTimeout s
  | .preemptSaveRequest => Sys2Proof.Machine.execPreemptSaveRequest s
  | .preemptRestoreRequest => Sys2Proof.Machine.execPreemptRestoreRequest s
  | .preemptQtoExpire => Sys2Proof.Machine.execPreemptQtoExpire s
  | .regionStillTimeout => Sys2Proof.Machine.execRegionStillTimeout s
  | .preemptQuiescent => Sys2Proof.Machine.execPreemptQuiescent s
  | .preemptSaveComplete => Sys2Proof.Machine.execPreemptSaveComplete s
  | .preemptRestoreComplete => Sys2Proof.Machine.execPreemptRestoreComplete s
  | .faultEntryWrite => Sys2Proof.Machine.execFaultEntryWrite s
  | .fqctlEnable => Sys2Proof.Machine.execFqctlEnable s
  | .fqResume => Sys2Proof.Machine.execFqResume s
  | .fqResumeStack => Sys2Proof.Machine.execFqResumeStack s
  | .fqResumeAt => Sys2Proof.Machine.execFqResumeAt s
  | .fqKill => Sys2Proof.Machine.execFqKill s
  | .fqStopLoad => Sys2Proof.Machine.execFqStopLoad s
  | .fqContinue => Sys2Proof.Machine.execFqContinue s
  | .deadlockDetect => Sys2Proof.Machine.execDeadlockDetect s
  | .loadStop => Sys2Proof.Machine.execLoadStop s
  | .loadStopped => Sys2Proof.Machine.execLoadStopped s
  | .scrubUncorrectable => Sys2Proof.Machine.execScrubUncorrectable s
  | .hostMemoryRequest => Sys2Proof.Machine.execHostMemoryRequest s
  | .hostAtomic => Sys2Proof.Machine.execHostAtomic s
  | .functionLevelReset => Sys2Proof.Machine.execFunctionLevelReset s
  | .registerWrite => Sys2Proof.Machine.execRegisterWrite s
  | .tilehaltWrite => Sys2Proof.Machine.execTilehaltWrite s
  | .ownClaim => Sys2Proof.Machine.execOwnClaim s
  | .ownHandover => Sys2Proof.Machine.execOwnHandover s
  | .ownerVacancyTimeout => Sys2Proof.Machine.execOwnerVacancyTimeout s
  | .boot => Sys2Proof.Machine.execBoot s
  | .fwRecovery => Sys2Proof.Machine.execFwRecovery s
  | .mbInstallKey => Sys2Proof.Machine.execMbInstallKey s
  | .mbAttest => Sys2Proof.Machine.execMbAttest s
  | .mbLoadEncKey => Sys2Proof.Machine.execMbLoadEncKey s
  | .mbUpdateFw => Sys2Proof.Machine.execMbUpdateFw s
  | .pwrtileWrite => Sys2Proof.Machine.execPwrtileWrite s
  | .pwrregWrite => Sys2Proof.Machine.execPwrregWrite s
  | .powerUpComplete => Sys2Proof.Machine.execPowerUpComplete s
  | .tileClockGate => Sys2Proof.Machine.execTileClockGate s
  | .thermalThrottle => Sys2Proof.Machine.execThermalThrottle s
  | .thermalReset => Sys2Proof.Machine.execThermalReset s
  | .laneRemove => Sys2Proof.Machine.execLaneRemove s
  | .linkTurnaround => Sys2Proof.Machine.execLinkTurnaround s
  | .pkgIndexClash => Sys2Proof.Machine.execPkgIndexClash s
  | .ringSlotArrive => Sys2Proof.Machine.execRingSlotArrive s
  | .incastResend => Sys2Proof.Machine.execIncastResend s
  | .gangArm => Sys2Proof.Machine.execGangArm s
  | .gangAck => Sys2Proof.Machine.execGangAck s
  | .gangCommit => Sys2Proof.Machine.execGangCommit s
  | .gangCommitted => Sys2Proof.Machine.execGangCommitted s
  | .gangAbort => Sys2Proof.Machine.execGangAbort s
  | .gangWindowExpire => Sys2Proof.Machine.execGangWindowExpire s
  | .sealedOperatorFire => Sys2Proof.Machine.execSealedOperatorFire s
  | .linkRetrainComplete => Sys2Proof.Machine.execLinkRetrainComplete s
  | .hostLinkDown => Sys2Proof.Machine.execHostLinkDown s
  | .bridgeLinkTrained => Sys2Proof.Machine.execBridgeLinkTrained s

end Sys2Proof.Machine
end

