-- ==== Sys2Proof/Machine/Run.lean ====
section
/-! DEFINITION. One cycle of the agenda: the turns of those who act in it, which are a core's issue selector (R213, R44, R45),
an element at its region clock, or an event; and the end of the cycle. -/

namespace Sys2Proof.Machine

/-- An outcome with its next state changed. -/
def onNext (f : State → State) : Host.Outcome State Fault Refusal → Host.Outcome State Fault Refusal
  | .next s => .next (f s)
  | x => x

/-- Whether a strand word has DUAL = 1. -/
def isDual (i : Instr) : Bool := (fieldsOf i).dual

/-- The second word of a pair whose first stands at the strand's pc, when it lies in the same section (R44). -/
def State.fetchMate (s : State) (who : StrandId) : Option Instr :=
  let st := s.strand who
  if st.pc.toNat + 12 < st.sectStart.toNat + 12 * st.sectLen then s.fetch who (st.pc + 12) else none

/-- The cursor at a strand, with the second word of its pair. -/
def State.atStrand (s : State) (who : StrandId) (mate : Option Instr) : State :=
  s.updCur (fun _ => { strand := who, mate := mate })

/-- A stop that a pair's second word caused (R32). -/
def Stop.ofSecond : Stop → Stop
  | .trap t => .trap { t with second := true }
  | h => h

/-- A pair: both words, then its retirement; a stop of either leaves neither's effects (R32, R44). -/
def runPair (who : StrandId) (i m : Instr) (s : State) : Host.Outcome State Fault Refusal :=
  match exec i (s.atStrand who (some m)) with
  | .next t =>
    match t.cur.stop with
    | some x => .next (s.applyStop who x)
    | none =>
      let start : PairStart := { preds := (s.strand who).preds, depth := (s.strand who).depth, slots := (s.task who.task).slots }
      match exec m (t.updCur (fun c => { c with mate := none, pair := some start })) with
      | .next u =>
        match u.cur.stop with
        | some x => .next (s.applyStop who x.ofSecond)
        | none => .next u
      | x => x
  | x => x

/-- The word or pair at a strand's pc issues, is held or faults. -/
def runAt (who : StrandId) (s : State) : Host.Outcome State Fault Refusal :=
  match s.fetch who (s.strand who).pc with
  | none => .fault .imageUnreadable
  | some i =>
    if isDual i then
      match s.fetchMate who with
      | some m => runPair who i m s
      | none => exec i (s.atStrand who none)
    else exec i (s.atStrand who none)

/-- A strand's turn: a header still to be entered, then its word (R18, R20, R58). -/
def strandTurn (who : StrandId) (s : State) : Host.Outcome State Fault Refusal :=
  if (s.strand who).atHeader then
    let t := s.enterHeader who (s.strand who).pc (s.strand who).mark
    if t.canIssue who = false then .next t
    else if (t.strand who).atHeader then .fault .imageUnreadable
    else runAt who t
  else runAt who s

/-- Whether a strand may be selected (R30, R213): Ready or Held, its task running, not stopped at a gate point or whole
for a pre-emption (R399, R404). -/
def State.selectable (s : State) (who : StrandId) : Bool :=
  let st := s.strand who
  s.canIssue who && (s.task who.task).status == .running && (s.task who.task).started && st.gate.isNone && !st.whole

/-- Whether strand a ranks above strand b (R213, R45). -/
def State.ranksAbove (s : State) (a b : StrandId) : Bool :=
  let x := s.strand a
  let y := s.strand b
  let last (st : Strand) : Nat := match st.lastIssue with | none => 0 | some c => c + 1
  if x.yielded ≠ y.yielded then !x.yielded
  else decide (last x < last y) || (last x == last y && decide (a.slot < b.slot))

/-- Insertion into a ranked list. -/
def State.rankInsert (s : State) (a : StrandId) : List StrandId → List StrandId
  | [] => [a]
  | b :: bs => if s.ranksAbove a b then a :: b :: bs else b :: s.rankInsert a bs

/-- The strands that a core selects from, in rank order (R213). A halted or unpowered tile has none (R396, R449). -/
def State.ranked (s : State) (t : TileId) (c : CoreId) : List StrandId :=
  if (s.die t.die).tilehalt.getLsbD t.tile ∨ s.tilePowered t = false then []
  else
    (((List.range Config.slotsPerTile).map (fun k => (⟨t.die, t.tile, k, c⟩ : StrandId))).filter (fun i => s.selectable i)).foldr
      (fun a l => s.rankInsert a l) []

/-- YLD counts for one cycle (R45): cleared for every strand of a core but those that issued. -/
def State.clearYields (s : State) (t : TileId) (c : CoreId) (issued : List StrandId) : State :=
  { s with strands := s.strands.mapVals (fun i st =>
      if i.tileId = t ∧ i.core = c ∧ issued.contains i = false ∧ st.yielded then { st with yielded := false } else st) }

/-- The word at a strand's head, past a header that is still to be entered. -/
def State.headWord (s : State) (who : StrandId) : Option Instr :=
  let t := if (s.strand who).atHeader then s.enterHeader who (s.strand who).pc (s.strand who).mark else s
  t.fetch who (t.strand who).pc

/-- The limits of R213 that a word counts towards: vector, memory, Serac command, Moraine command, port, divider, float
divider. -/
def issueLimits (i : Instr) : List Nat :=
  let op := (opOf i).toNat
  (if opVector op then [0] else []) ++ (if opMemory op then [1] else []) ++
  (match (formOf .dusk i).cmd with | some .serac => [2] | some _ => [3] | none => []) ++ (if opPort op then [4] else []) ++
  (match i with
    | .div _ => [5]
    | .rem _ => [5]
    | .fdiv _ => [6]
    | .fsqrt _ => [6]
    | .frcp _ => [6]
    | _ => [])

/-- Whether a strand may take a core's second issue position beside the one that issued first (R213): a single word that
breaks no limit together with the first, of a strand that did not yield before one that did not. -/
def State.maySecond (s : State) (who first : StrandId) (limits : List Nat) (firstYielded : Bool) : Bool :=
  match s.headWord who with
  | some i => decide (who ≠ first) && !isDual i && (issueLimits i).all (fun l => !limits.contains l) && (!(s.strand who).yielded || firstYielded)
  | none => false

/-- The second issue position of a core (R213): the ranked strands in turn, until one issues. -/
def coreSecond (t : TileId) (c : CoreId) (first : StrandId) (limits : List Nat) (firstYielded : Bool) :
    List StrandId → State → Host.Outcome State Fault Refusal
  | [], s => .next (s.clearYields t c [first])
  | who :: rest, s =>
    if s.maySecond who first limits firstYielded then
      match strandTurn who s with
      | .next u => if (u.strand who).status = .held then coreSecond t c first limits firstYielded rest u else .next (u.clearYields t c [first, who])
      | x => x
    else coreSecond t c first limits firstYielded rest s

/-- A core's issue positions (R213): the ranked strands in turn, until one is not held; a pair takes both positions. -/
def coreTry (t : TileId) (c : CoreId) : List StrandId → State → Host.Outcome State Fault Refusal
  | [], s => .next (s.clearYields t c [])
  | who :: rest, s =>
    match strandTurn who s with
    | .next u =>
      if (u.strand who).status = .held then coreTry t c rest u
      else
        match s.headWord who with
        | some i => if isDual i then .next (u.clearYields t c [who]) else coreSecond t c who (issueLimits i) (s.strand who).yielded rest u
        | none => .next (u.clearYields t c [who])
    | x => x

/-- A core selects once in a cycle (R213). -/
def coreTurn (t : TileId) (c : CoreId) (s : State) : Host.Outcome State Fault Refusal :=
  if s.work.cores.contains (t, c) then .next s
  else coreTry t c (s.ranked t c) { s with work := { s.work with cores := s.work.cores ++ [(t, c)] } }

/-- The element word in a slot of a region's image (R348). -/
def State.fetchElement (s : State) (r : RegionId) (slot : Nat) : Option Instr :=
  match (s.region r).image with
  | some im => (match decodeElement (im.body.getD slot 0) with | .ok i => some i | .error _ => none)
  | none => none

/-- One turn. -/
def runTurn (t : Turn) (s : State) : Host.Outcome State Fault Refusal :=
  match t with
  | .core die tile c => coreTurn ⟨die, tile⟩ c s
  | .element die region slot =>
    match s.fetchElement ⟨die, region⟩ slot with
    | some i => exec i (s.updCur (fun c => { c with region := ⟨die, region⟩, slot := slot }))
    | none => .next s
  | .event i args => exec i { s with event := args }

/-- The turns of a cycle in order. -/
def runTurns : List Turn → State → Host.Outcome State Fault Refusal
  | [], s => .next s
  | t :: ts, s =>
    match runTurn t s with
    | .next u => runTurns ts u
    | x => x

/-- Whether a turn is a Dusk core's. Those come last in their cycle: where both strands write one narrow format, the Dusk code
stands (R104). -/
def Turn.ofDusk : Turn → Bool
  | .core _ _ .dusk => true
  | _ => false

/-- A cycle passes: the clock advances by one. -/
def State.tick (s : State) : State := { s with clock := s.clock + 1 }

/-- The end of a cycle that began at `before`: what the cycle left to its end applies (R16, R102), the clock advances, and the
counts that run with it are kept (R216, R262, R389, R403). -/
def endCycle (before s : State) : State := State.watch before s.commit.tick

/-- A step is one cycle: the turns that the agenda gives it, or an idle cycle (log entry 1). -/
def runStep (s : State) : Host.Outcome State Fault Refusal :=
  match s.agenda with
  | [] => .next (endCycle s s)
  | ts :: rest => onNext (endCycle s) (runTurns (ts.filter (fun t => !t.ofDusk) ++ ts.filter Turn.ofDusk) { s with agenda := rest })

/-! ## Placing one instruction -/

/-- A header that declares everything, for one word placed from outside. -/
def fullHeader : ProgHeader :=
  { aregs := 64, sregs := 64, vframe := 1024, masks := 16, events := 64, accs := 8, inports := 0xFF, outports := 0xFF
    tilemem := 16, astack := 4, sstack := 4, dawnEntry := 0, duskEntry := 0 }

/-- The core that a placed word runs on: the one its form admits, Dawn when it admits both (R48). -/
def placedCore (i : Instr) : CoreId := (formOf .dawn i).core.getD .dawn

/-- One strand word as a running program on tile 0 of die 0 (log entry 5): two tables that map the first GiB, a section
of that one word at 0x10000 and the end of the stream, a load and a task whose strand stands at the word, and the core's turn next. -/
def State.placeWord (s : State) (v : Word96) : State :=
  let c := placedCore (decodeStrand v)
  let who : StrandId := ⟨0, 0, 0, c⟩
  let header : Nat := 9 * 2 ^ 60 + 1 * 2 ^ 40
  let m0 := Memory.writeBytes s.mem 0x100000 (natToBytes 8 0x2001)
  let m1 := Memory.writeBytes m0 0x2000 (natToBytes 8 (0xFF * 2 ^ 56 + 0x83))
  let m2 := Memory.writeBytes m1 0x10000 (natToBytes 8 header)
  let m3 := Memory.writeBytes m2 0x10008 (natToBytes 12 v.toNat)
  let m4 := Memory.writeBytes m3 0x10018 (natToBytes 8 (15 * 2 ^ 60))
  let s1 := { s with mem := m4, keytag := {}, present := 0 :: s.present, work := {}, agenda := [.core 0 0 c] :: s.agenda }
  let s2 := s1.updDie 0 (fun d => { d with roots := d.roots.set 0 0x100000, pwrtile := d.pwrtile ||| 1, tilehalt := d.tilehalt &&& ~~~ 1 })
  let s3 := s2.setLoad ⟨0, 0, 0⟩ { status := .running }
  let s4 := s3.setTask ⟨0, 0, 0⟩ { status := .running, started := true, image := 0x10000, hdr := fullHeader, accTiles := [0, 1, 2, 3, 4, 5, 6, 7] }
  s4.setStrand who { status := .ready, pc := 0x10008, sect := 0, sectStart := 0x10008, sectLen := 1 }

/-- One element word in slot 0 of region 0 of die 0, whose turn is next (log entry 5). -/
def State.placeElement (s : State) (v : Word64) : State :=
  { s with agenda := [.element 0 0 0] :: s.agenda }.setRegion ⟨0, 0⟩
    { status := .running, load := some ⟨0, 0, 0⟩, verified := true, image := some { kind := 2, body := [v] } }

/-- The instruction of a table word placed where the next step takes its instruction. -/
def State.place (s : State) (nbits w : Nat) : State :=
  if nbits = 64 then s.placeElement (BitVec.ofNat 64 w) else s.placeWord (BitVec.ofNat 96 w)

end Sys2Proof.Machine
end

