-- ==== Sys2Proof/Machine/Step.lean ====
section
/-! DEFINITION. One step of the machine, and one instruction placed where the next step takes it. -/

namespace Sys2Proof.Machine

/-- One step (Machine/Run.lean). -/
def step : State → Host.Outcome State Fault Refusal := runStep

/-- The state in which the next step runs one table word (Machine/Run.lean). -/
def State.withFetchWord (s : State) (nbits w : Nat) : State := s.place nbits w

end Sys2Proof.Machine
end

