-- ==== Sys2Proof/Safety.lean ====
section
/-! DEFINITION. What counts as a safe run, in the terms that claims use: memory in its canonical form, a word that issues,
what the operands of a word give it, and the effect of a word: every value it leaves behind, with all the rest as it was. -/

namespace Sys2Proof.Machine

/-- Memory is in its canonical form. -/
def State.MemoryCanonical (s : State) : Prop := Memory.wf s.mem = true

/-! ## A word that issues -/

/-- Token pushes of a strand word's own PUSH field (R16). -/
def ownPushes (core : CoreId) (w : Fields) : List (Nat × Nat) :=
  if (tokenField w.push).2 = 0 then [] else [(tokenIndex core.engine (tokenField w.push).1, (tokenField w.push).2)]

/-- Token takings of a strand word's own POP field (R16). -/
def ownPops (core : CoreId) (w : Fields) : List (Nat × Nat) :=
  if (tokenField w.pop).2 = 0 then [] else [(tokenIndex (tokenField w.pop).1 core.engine, (tokenField w.pop).2)]

/-- A word under the cursor issues, alone: its strand is Ready or Held and has no refused PST behind it (R291), it passes the checks of R57,
its guard is true (R37), nothing of R21 holds it, no register it reads is damaged (R388), and the tokens it pushes, `more` among
them, keep their counters within 63 with the others of the cycle (R16). -/
structure Issues (i : Instr) (s : State) (more : List (Nat × Nat) := []) : Prop where
  able : s.canIssue s.cur.strand = true
  mate : s.cur.mate = none
  pair : s.cur.pair = none
  pushes : s.cur.pushes = []
  sets : s.cur.evSets = []
  adds : s.cur.evAdds = []
  accepted : wordTrap s.cur.strand.core s.myTask (s.load s.myTask.load).priv i false none true = none
  unheld : s.commonHold s.cur.strand i (formOf s.cur.strand.core i) (fieldsOf i) = none
  answered : s.me.refusedPst = none
  guarded : s.guardTrue (fieldsOf i) = true
  settled : s.pendingHold s.cur.strand (formOf s.cur.strand.core i) (fieldsOf i) = none
  room : s.queueHold s.cur.strand i (formOf s.cur.strand.core i) (fieldsOf i) = none
  sound : damagedTrap s.me s.myTask (opOf i) ((formOf s.cur.strand.core i).reads (fieldsOf i)) = none
  tokens : s.overflow s.cur.strand.task (more ++
    (if (formOf s.cur.strand.core i).cmd.isSome then [] else ownPushes s.cur.strand.core (fieldsOf i)) ++
    s.me.fences.flatMap FenceWait.pushes) = none

/-! ## Operands -/

/-- Entries of a queue as 64-bit values, oldest first (R12). -/
def Task.entries (t : Task) : QueueName → List Word64
  | .aq => t.aq
  | .bq => t.bq
  | .cq => t.cq.map (fun b => if b then 1 else 0)

/-- The queue that an operand names, if it names one (R12, R39). -/
def queueOf : Opnd → List QueueName
  | .queue k => (queueOfCode k).toList
  | _ => []

/-- What a source gives its word when the word's earlier sources have popped `pops` (R11, R12, R67): a register, a short
immediate, a special register, or the oldest entry of a queue, in W bits. -/
def State.valueOf (s : State) (pops : List QueueName) (o : Opnd) : Word64 :=
  let c := s.cur.strand.core
  match o with
  | .reg i => toWidth c (s.me.regs.get i.toNat 0).toNat
  | .scalar _ i => toWidth c (s.me.regs.get i.toNat 0).toNat
  | .imm v => intToWidth c v.toInt
  | .special k => s.special s.cur.strand s.me.pc k.toNat
  | .queue k =>
    match queueOfCode k with
    | some q => toWidth c ((s.myTask.entries q).getD (pops.count q) 0).toNat
    | none => 0

/-- The values of A, B and C, read in that order. -/
def State.valueA (s : State) (w : Fields) : Word64 := s.valueOf [] w.a
def State.valueB (s : State) (w : Fields) : Word64 := s.valueOf (queueOf w.a) w.b
def State.valueC (s : State) (w : Fields) : Word64 := s.valueOf (queueOf w.a ++ queueOf w.b) w.c

/-- The same in an FP32 position, where a short immediate is its FP32 value (R67). -/
def State.floatOf (s : State) (pops : List QueueName) (o : Opnd) : Nat :=
  match o with
  | .imm v => round (Num.ofInt v.toInt) .f32 .rne
  | o => (s.valueOf pops o).toNat % 2 ^ 32

/-! ## Effects -/

/-- What a word changes: each list gives a place and what it then holds, the last entry for a place deciding. -/
structure Effect where
  /-- Tokens taken from counters, and given to counters at the end of the cycle. -/
  takes : List (Nat × Nat) := []
  gives : List (Nat × Nat) := []
  regs : List (Nat × Word64) := []
  preds : List (Nat × Bool) := []
  vecs : List (Nat × List Word32) := []
  masks : List (Nat × BitVec 1024) := []
  nfs : List (Nat × BitVec 6) := []
  /-- Event counters of the tile, numbered absolutely, that the end of the cycle sets and increments. -/
  sets : List (Nat × Word32) := []
  adds : List (Nat × Word32) := []
  /-- Queue entries popped and pushed. -/
  pops : List QueueName := []
  pushes : List (QueueName × Word64) := []
  /-- Bytes stored from a physical address on. -/
  stores : List (Nat × List Byte) := []
  sends : List Access := []
  raises : List Raise := []
  serac : List Command := []
  moraine : List Command := []
  /-- Moraine status slots. -/
  slots : List (Nat × BitVec 128) := []
  stack : Option (Word64 × Word64) := none
  /-- Added to the call depth. -/
  depth : BitVec 16 := 0
  fences : List FenceWait := []
  /-- Ports and channels. -/
  streams : State → State := id
  /-- Registers of dies. -/
  dies : Nat → Die → Die := fun _ d => d

/-- What a place holds after a list of changes. -/
def latest {κ α : Type} [DecidableEq κ] : List (κ × α) → κ → α → α
  | [], _, d => d
  | x :: xs, k, d => latest xs k (if x.1 = k then x.2 else d)

/-- A byte after stores. -/
def storedByte (a : Nat) : List (Nat × List Byte) → Byte → Byte
  | [], b => b
  | w :: ws, b => storedByte a ws (if w.1 ≤ a ∧ a < w.1 + w.2.length then w.2.getD (a - w.1) 0 else b)

/-- What a queue takes in of a value (R12). -/
def entryOf : QueueName → Word64 → Word64
  | .cq, v => if v.getLsbD 0 then 1 else 0
  | _, v => v

/-- What a cycle leaves to its end once a word with this effect has issued: its counter changes, with Dusk's sets apart, and its tokens
(R16, R102), and the queue entries it has moved (R13, R95). -/
def CycleWork.with' (w : CycleWork) (e : Effect) (who : StrandId) : CycleWork :=
  let on (l : List (Nat × Word32)) : List (TileId × Nat × Word32) := l.map (fun x => (who.tileId, x.1, x.2))
  { w with
    sets := if who.core = .dawn then w.sets ++ on e.sets else w.sets
    duskSets := if who.core = .dusk then w.duskSets ++ on e.sets else w.duskSets
    adds := w.adds ++ on e.adds
    pushes := w.pushes ++ e.gives.map (fun p => (who.task, p.1, p.2))
    pops := w.pops ++ e.takes.map (fun p => (who.task, p.1, p.2))
    queued := w.queued ++ e.pushes.map (fun p => (who.task, p.1))
    taken := w.taken ++ e.pops.map (fun q => (who.task, q)) }

/-- Between s and t the word under the cursor of s has had this effect, and what the effect does not name is as it was:
registers, predicates, vector, mask and accumulator registers, narrow formats, token and event counters, queues, special
registers, every byte of memory, accesses, ports and channels, registers of dies, and every other strand, task and tile.
Left open are the program counter and what goes with it (section, needs, loops, status, counts of held cycles, retired
marks, entries of a task that drains, entries on their way to a fault queue), and what later reads may combine with (R273,
R275). -/
structure Does (e : Effect) (s t : State) : Prop where
  tokens : ∀ k, (t.task s.cur.strand.task).token k = s.myTask.token k - pushSum e.takes k
  work : t.work = s.work.with' e s.cur.strand
  regs : ∀ r, (t.strand s.cur.strand).regs.get r 0 = latest e.regs r (s.me.regs.get r 0)
  preds : ∀ k, k ≠ 0 → (t.strand s.cur.strand).preds.getLsbD k = latest e.preds k (s.me.preds.getLsbD k)
  vecs : ∀ n, (t.task s.cur.strand.task).v.get n [] = latest e.vecs n (s.myTask.v.get n [])
  masks : ∀ n, (t.task s.cur.strand.task).k.get n 0 = latest e.masks n (s.myTask.k.get n 0)
  nfs : ∀ n, (t.task s.cur.strand.task).nf.get n 0 = latest e.nfs n (s.myTask.nf.get n 0)
  counters : ∀ n, t.counter s.cur.strand.tileId n = s.counter s.cur.strand.tileId n
  queues : (t.task s.cur.strand.task).status = .running → ∀ q,
    (t.task s.cur.strand.task).entries q = (s.myTask.entries q).drop (e.pops.count q) ++
      (e.pushes.filter (fun p => p.1 == q)).map (fun p => entryOf q p.2)
  memory : ∀ a, Memory.read t.mem a = storedByte a e.stores (Memory.read s.mem a)
  net : t.net = s.net ++ e.sends
  raises : t.raises = s.raises ++ e.raises
  serac : (t.task s.cur.strand.task).serac.queue = s.myTask.serac.queue ++ e.serac
  moraine : (t.task s.cur.strand.task).moraine.queue = s.myTask.moraine.queue ++ e.moraine
  slots : ∀ n, (t.task s.cur.strand.task).slots.get n 0 = latest e.slots n (s.myTask.slots.get n 0)
  stack : ((t.strand s.cur.strand).stkbase, (t.strand s.cur.strand).stklim) = e.stack.getD (s.me.stkbase, s.me.stklim)
  fault : (t.strand s.cur.strand).faultCode = s.me.faultCode
  depth : (t.strand s.cur.strand).depth = s.me.depth + e.depth
  fences : (t.strand s.cur.strand).fences = s.me.fences ++ e.fences
  ports : t.ports = (e.streams s).ports
  chans : t.chans = (e.streams s).chans
  dies : ∀ d, { t.die d with fqPending := [] } = { e.dies d (s.die d) with fqPending := [] }
  accs : (t.task s.cur.strand.task).acc = s.myTask.acc
  header : (t.task s.cur.strand.task).hdr = s.myTask.hdr
  group : (t.task s.cur.strand.task).group = s.myTask.group
  bases : ((t.task s.cur.strand.task).tmBase, (t.task s.cur.strand.task).vBase, (t.task s.cur.strand.task).evBase) =
    (s.myTask.tmBase, s.myTask.vBase, s.myTask.evBase)
  modes : ((t.task s.cur.strand.task).mode, (t.task s.cur.strand.task).oscale, (t.task s.cur.strand.task).strides) =
    (s.myTask.mode, s.myTask.oscale, s.myTask.strides)
  strands : ∀ i, i ≠ s.cur.strand → (t.strand i).regs = (s.strand i).regs ∧ (t.strand i).preds = (s.strand i).preds ∧
    (t.strand i).pc = (s.strand i).pc ∧ (t.strand i).status = (s.strand i).status
  tasks : ∀ i, i ≠ s.cur.strand.task → t.task i = s.task i
  tiles : ∀ i, i ≠ s.cur.strand.tileId → t.tile i = s.tile i
  presence : t.full = s.full
  keys : t.keytag = s.keytag
  rest : t.regions = s.regions ∧ t.loads = s.loads ∧ t.queues = s.queues ∧ t.pkgs = s.pkgs ∧ t.saved = s.saved

/-- The word i completes at s with an effect. -/
def Completes (i : Instr) (s : State) (e : Effect) : Prop := ∃ t, exec i s = .next t ∧ Does e s t

/-- The effect of a result in a destination, over an effect that has already been had (R12, R67). -/
def Effect.toDest (e : Effect) (core : CoreId) (d : Opnd) (v : Word64) : Effect :=
  match d with
  | .reg i => { e with regs := e.regs ++ [(i.toNat, toWidth core v.toNat)] }
  | .scalar _ i => { e with regs := e.regs ++ [(i.toNat, toWidth core v.toNat)] }
  | .queue k => (match queueOfCode k with | some q => { e with pushes := e.pushes ++ [(q, toWidth core v.toNat)] } | none => e)
  | _ => e

/-- What every executed strand word but an engine command does besides: its POP and PUSH (R16), and the queue entries that
its sources take (R13). -/
def ownEffect (s : State) (w : Fields) (os : List Opnd) : Effect :=
  { takes := ownPops s.cur.strand.core w, gives := ownPushes s.cur.strand.core w, pops := os.flatMap queueOf }

/-- The word i completes at s with a result in D, its POP and PUSH, and the pops of its sources. -/
def Yields (i : Instr) (s : State) (os : List Opnd) (v : Word64) : Prop :=
  Completes i s ((ownEffect s (fieldsOf i) os).toDest s.cur.strand.core (fieldsOf i).d v)

/-! ## Integer results, in the manual's words -/

/-- An operation on the low bits of a value at the operation width of FMT, extended to W (R68): .u32 by zeros, else by the
sign; FMT 000 works at W. -/
def onWidth (c : CoreId) (fmt : Nat) (f : (w : Nat) → BitVec w → BitVec w) (x : Word64) : Word64 :=
  match c, fmt with
  | .dawn, 0 => f 64 x
  | .dawn, 2 => (f 32 (x.setWidth 32)).setWidth 64
  | .dawn, _ => (f 32 (x.setWidth 32)).signExtend 64
  | .dusk, _ => (f 32 (x.setWidth 32)).setWidth 64

/-- A value as the integer that FMT reads (R68). -/
def asInt (c : CoreId) (fmt : Nat) (x : Word64) : Int :=
  match c, fmt with
  | .dawn, 0 => x.toInt
  | _, 2 => ((x.setWidth 32).toNat : Int)
  | _, _ => (x.setWidth 32).toInt

/-- The integers that FMT holds (R68). -/
def leastInt (c : CoreId) (fmt : Nat) : Int := match c, fmt with | .dawn, 0 => -2 ^ 63 | _, 2 => 0 | _, _ => -2 ^ 31
def greatestInt (c : CoreId) (fmt : Nat) : Int := match c, fmt with | .dawn, 0 => 2 ^ 63 - 1 | _, 2 => 2 ^ 32 - 1 | _, _ => 2 ^ 31 - 1

/-- An integer result: clamped under MOD 001, else wrapped, and extended to W (R68). -/
def intResult (c : CoreId) (w : Fields) (r : Int) : Word64 :=
  onWidth c w.fmt.toNat (fun _ x => x)
    (BitVec.ofInt 64 (if w.mod = 1 then max (leastInt c w.fmt.toNat) (min (greatestInt c w.fmt.toNat) r) else r))

/-- A field of m bits from bit `pos` of u, at the bottom, extended by its sign or by zeros (R74). -/
def fieldAt (w : Nat) (signed : Bool) (pos len : Nat) (u : BitVec w) : BitVec w :=
  if len = 0 ∨ w ≤ pos then 0
  else
    let m := min len (w - pos)
    if signed then ((u >>> pos) <<< (w - m)).sshiftRight (w - m) else ((u >>> pos) <<< (w - m)) >>> (w - m)

/-- u with the m bits from bit `pos` replaced by the low bits of b (R74). -/
def fieldInto (w : Nat) (pos len : Nat) (u b : BitVec w) : BitVec w :=
  if len = 0 ∨ w ≤ pos then u
  else
    let mask := ((BitVec.allOnes w) >>> (w - min len (w - pos))) <<< pos
    (u &&& ~~~mask) ||| ((b <<< pos) &&& mask)

/-- Leading zeros and one bits of u, as numbers of u's width (R74). -/
def leadingZeros (w : Nat) (u : BitVec w) : BitVec w :=
  BitVec.ofNat w (((List.range w).reverse.takeWhile (fun k => !u.getLsbD k)).length)
def onesCount (w : Nat) (u : BitVec w) : BitVec w := BitVec.ofNat w (((List.range w).filter (fun k => u.getLsbD k)).length)

/-- The 25 bits of a long immediate (R41). -/
def longBits (w : Fields) : BitVec 25 := encodeOpnd w.c ++ w.e

/-! ## Addresses -/

/-- The address of a memory form (R42): base and index, or base and displacement, or the base alone before a
post-increment; W bits. -/
def State.address (s : State) (w : Fields) : Word64 :=
  let c := s.cur.strand.core
  let base := s.valueOf [] w.a
  match w.b with
  | .scalar _ _ => toWidth c (base + s.valueOf [] w.b).toNat
  | _ => if w.mod.getLsbD 2 then base else toWidth c (base + w.e.signExtend 64).toNat

/-- What a post-increment leaves in the base register (R42). -/
def State.baseAfter (s : State) (w : Fields) : List (Nat × Word64) :=
  match w.b with
  | .scalar _ _ => []
  | _ => if w.mod.getLsbD 2 then [(opndIndex w.a, toWidth s.cur.strand.core (s.valueOf [] w.a + w.e.signExtend 64).toNat)] else []

/-- The access of n bytes at tile-local address a is admitted (R28): aligned; within the stack window when its base is the
stack pointer; within the task's allocation. -/
def State.tileAdmits (s : State) (w : Fields) (a n : Nat) : Prop :=
  a % n = 0 ∧ (isStackPointer w.a = true → s.me.stklim.toNat ≤ a ∧ a + n ≤ s.me.stkbase.toNat) ∧
  s.myTask.tmBase ≤ a ∧ a + n ≤ s.myTask.tmBase + s.myTask.tmSize

/-! ## Where the strand goes -/

/-- The strand under the cursor of s stands, in t, at the next word in order (R58): the word lies inside its section and no
loop ends at it (R91). -/
def State.inOrder (s : State) : Prop :=
  (s.me.pc + 12).toNat < s.me.sectStart.toNat + 12 * s.me.sectLen ∧
  ∀ l ∈ s.me.loops.head?, ¬ (l.depth = s.me.depth ∧ l.last = s.me.pc)

/-- The strand that s names, in t. -/
def State.strandOf (t s : State) : Strand := t.strand s.cur.strand

/-- The word i transfers to a target (R88): it completes with an effect and its strand stands at the target. -/
def Transfers (i : Instr) (s : State) (e : Effect) (target : Word64) : Prop :=
  ∃ t, exec i s = .next t ∧ Does e s t ∧ (t.strandOf s).pc = target ∧ (t.strandOf s).status = .ready

/-- Where the word after the present one in fall-through order begins (R88): in its section, else at the first word after
the next section header, or at a header that is none. -/
def State.returnPoint (s : State) : Word64 :=
  let next := s.me.pc + 12
  if next.toNat < s.me.sectStart.toNat + 12 * s.me.sectLen then next
  else
    let h : Word64 := BitVec.ofNat 64 ((next.toNat + 7) / 8 * 8)
    match s.readVirtual64 s.cur.strand.die (s.load s.myTask.load).domain h.toNat with
    | some x => if x.extractLsb' 60 4 = 9#4 then h + 8 else h
    | none => h

/-- A register target (R88): all of it on Dawn; on Dusk its 32 bits within the 4 GiB window of the word. -/
def State.registerGoal (s : State) (o : Opnd) : Word64 :=
  match s.cur.strand.core with
  | .dawn => s.valueOf [] o
  | .dusk => (s.me.pc.extractLsb' 32 32) ++ (s.valueOf [] o).extractLsb' 0 32

/-- A relative target (R88). -/
def State.relativeGoal (s : State) (w : Fields) : Word64 := s.me.pc + ((longBits w).signExtend 64 <<< 2)

/-! ## Formats and lanes -/

/-- The format of an FMT code with the task's narrow formats (R46); none when the code names an nf register that holds 0. -/
def Task.formatAt (t : Task) (code : Nat) : Option Format :=
  if 10 ≤ code ∧ code ≤ 13 then (if t.nf.get (code - 10) 0 = 0 then none else some (.b8 (t.nf.get (code - 10) 0))) else some (plainFormat code)

/-- The cells that a W operand gives (R137): a register's, or one value in every lane. -/
def State.lanesOf (s : State) (pops : List QueueName) (f : Format) (o : Opnd) : List Word32 :=
  match o with
  | .reg i => s.myTask.vec i.toNat
  | .imm v =>
    List.replicate laneCount (BitVec.ofNat 32 (match f with
      | .f32 => round (Num.ofInt v.toInt) f .rne
      | .bf16 => round (Num.ofInt v.toInt) f .rne
      | .f16 => round (Num.ofInt v.toInt) f .rne
      | f => (v.toInt % (2 ^ f.bits : Nat)).toNat))
  | o => List.replicate laneCount (BitVec.ofNat 32 ((s.valueOf pops o).toNat % 2 ^ f.bits))

/-- A vector register after its lanes are written under the word's lane control (R138): without a mask every lane is; with
one, a lane of the mask is written and another keeps its cell, or is zero under E[5]. -/
def State.underMask (s : State) (w : Fields) (cells : List Word32) : List Word32 :=
  if w.e.getLsbD 4 then
    let m := s.myTask.k.get (fld w.e 3 0) 0
    (cells.zip (s.myTask.vec (opndIndex w.d))).zipIdx.map (fun x => if m.getLsbD x.2 then x.1.1 else if w.e.getLsbD 5 then 0 else x.1.2)
  else cells

/-- A mask register after a result is written under the word's lane control (R138, R150). -/
def State.maskUnder (s : State) (w : Fields) (r : BitVec 1024) : BitVec 1024 :=
  if w.e.getLsbD 4 then
    let m := s.myTask.k.get (fld w.e 3 0) 0
    (r &&& m) ||| (if w.e.getLsbD 5 then 0 else (s.myTask.k.get (opndIndex w.d) 0 &&& ~~~m))
  else r

/-- The word i completes with cells in its vector destination under its lane control. -/
def YieldsLanes (i : Instr) (s : State) (os : List Opnd) (cells : List Word32) : Prop :=
  Completes i s { ownEffect s (fieldsOf i) os with vecs := [(opndIndex (fieldsOf i).d, s.underMask (fieldsOf i) cells)] }

/-! ## Lanes, in the manual's words -/

/-- Every vector register that has been written holds 1,024 cells (R134). -/
def State.VectorsWhole (s : State) : Prop := ∀ i n, ((s.task i).v.get n []) = [] ∨ ((s.task i).v.get n []).length = 1024

/-- An element in its cell (R134): narrow signed integers by the sign, other narrow elements by zeros. -/
def asCell (f : Format) (code : Nat) : Word32 :=
  match f with
  | .int true w => (BitVec.ofNat w code).signExtend 32
  | f => BitVec.ofNat 32 (code % 2 ^ f.bits)

/-- The element in a cell, as a code and as an integer (R134, R139). -/
def codeIn (f : Format) (x : Word32) : Nat := x.toNat % 2 ^ f.bits
def intIn (f : Format) (x : Word32) : Int :=
  if f.signed then (BitVec.ofNat f.bits (codeIn f x)).toInt else (codeIn f x : Int)

/-- An integer lane result (R68, R139): clamped under MOD 001, else wrapped. -/
def intCell (f : Format) (mod : Nat) (r : Int) : Word32 :=
  let lo : Int := if f.signed then -2 ^ (f.bits - 1) else 0
  let hi : Int := if f.signed then 2 ^ (f.bits - 1) - 1 else 2 ^ f.bits - 1
  asCell f ((if mod = 1 then max lo (min hi r) else r) % (2 ^ f.bits : Nat)).toNat

/-- Whether an FMT code names .f32, .bf16 or .f16. -/
def isFloating (fmt : BitVec 4) : Bool := 7 ≤ fmt.toNat && fmt.toNat ≤ 9

/-- One lane of an arithmetic instruction (R139): a floating function on codes, or an integer function. -/
def cellResult (fmt : BitVec 4) (mod : Nat) (fp : Nat → Nat → Nat → Nat) (int : Int → Int → Int → Int) (a b c : Word32) : Word32 :=
  let f := plainFormat fmt.toNat
  if isFloating fmt then asCell f (fp (codeIn f a) (codeIn f b) (codeIn f c)) else intCell f mod (int (intIn f a) (intIn f b) (intIn f c))

def laneResult (w : Fields) (fp : Nat → Nat → Nat → Nat) (int : Int → Int → Int → Int) (a b c : Word32) : Word32 :=
  cellResult w.fmt w.mod.toNat fp int a b c

/-- The cell of a row and column (R134). -/
def cellAt (v : List Word32) (r c : Nat) : Word32 := v.getD (64 * r + c) 0

/-- A register from its cells by row and column (R134). -/
def fromCells (g : Nat → Nat → Word32) : List Word32 := (List.range 1024).map (fun l => g (l / 64) (l % 64))

/-- The combining functions of R157. -/
def combining (w : Fields) (mod : Nat) (x y : Word32) : Word32 :=
  let f := plainFormat w.fmt.toNat
  match mod with
  | 0 => laneResult { w with mod := 0 } (fun a b _ => round ((decodeNum f a).add .rne (decodeNum f b)) f .rne) (fun a b _ => a + b) x y 0
  | 2 => laneResult { w with mod := 0 } (fun a b _ => minMaxCode f false a b) (fun a b _ => min a b) x y 0
  | 4 => x &&& y
  | 5 => x ||| y
  | _ => laneResult { w with mod := 0 } (fun a b _ => minMaxCode f true a b) (fun a b _ => max a b) x y 0

/-- The halving of R157 on a line: t[0] when h has run through the list. -/
def halved (comb : Word32 → Word32 → Word32) (hs : List Nat) (t : Nat → Word32) : Word32 :=
  (hs.foldl (fun (u : Nat → Word32) h => fun i => if i < h then comb (u i) (u (i + h)) else u i) t) 0

/-- The doubling of R158 on a line: its elements when h has run through the list. -/
def doubled (comb : Word32 → Word32 → Word32) (hs : List Nat) (t : Nat → Word32) : Nat → Word32 :=
  hs.foldl (fun (u : Nat → Word32) h => fun i => if h ≤ i then comb (u (i - h)) (u i) else u i) t

/-- The address of an element of a vector access (R142 to R146), swizzled by the register row or, transposed, the memory row. -/
def elementAt (trans : Bool) (swz size stride base r c : Nat) : Nat :=
  let rho := if trans then c else r
  let a := (if trans then base + c * stride + r * size else base + r * stride + c * size) % 2 ^ 32
  if swz = 1 then a ^^^ ((rho &&& 31) <<< 7) else if swz = 2 then a ^^^ ((rho &&& 7) <<< 4) else a

/-- The address and the stride of a vector access (R144, R145): the stride is B of a strided form, else a row of the register. -/
def State.vectorBase (s : State) (w : Fields) (strided : Bool) : Nat :=
  (if strided then s.address { w with b := .reg 0 } else s.address w).toNat
def State.vectorStride (s : State) (w : Fields) (strided : Bool) (f : Format) : Nat :=
  if strided then (s.valueOf [] w.b).toNat else 64 * f.bytes

/-- A vector access is admitted (R142): aligned in base and stride, every byte within the stack window when the base is the stack
pointer, and within the allocation. -/
def State.vectorAdmits (s : State) (w : Fields) (strided trans : Bool) (f : Format) : Prop :=
  let base := s.vectorBase w strided
  let stride := s.vectorStride w strided f
  let unit := if trans then 16 * f.bytes else if f.bytes = 1 then 64 else 128
  base % unit = 0 ∧ stride % unit = 0 ∧
  ∀ r c k, r < 16 → c < 64 → k < f.bytes →
    let a := elementAt trans (fld w.mod 1 0) f.bytes stride base r c + k
    (isStackPointer w.a = true → s.me.stklim.toNat ≤ a ∧ a < s.me.stkbase.toNat) ∧ s.myTask.tmBase ≤ a ∧ a < s.myTask.tmBase + s.myTask.tmSize

/-- What a post-increment leaves in the base of a vector form (R42). -/
def State.vectorBaseAfter (s : State) (w : Fields) (strided : Bool) : List (Nat × Word64) :=
  s.baseAfter (if strided then { w with b := .reg 0 } else w)

/-! ## Global accesses -/

/-- An access of z bytes at a virtual address is let through (R240 to R244): its block is translated, and the leaf admits the
use from the strand's load; `pa` is where it goes. -/
def State.Admits (s : State) (va z : Nat) (u : Use) (pa : Nat) (leaf : Word64) : Prop :=
  ∃ e, s.lookup s.cur.strand va = .ok e ∧ e.leaf = leaf ∧
    s.checkPart e.leaf e.level va z u (s.load s.myTask.load).domain (s.load s.myTask.load).priv = .ok pa

/-- The data address of a word that sends n global accesses passes steps 1 to 4 of R286. -/
structure State.Reaches (s : State) (w : Fields) (z : Nat) (u : Use) (plain : Bool) (pa : Nat) (leaf : Word64) (n : Nat := 1) : Prop where
  walk : s.me.walk = none
  few : s.incomplete s.cur.strand + n ≤ 64
  steady : (s.die s.cur.strand.die).phase = 0
  aligned : (s.address w).toNat % z = 0
  admitted : s.Admits (s.address w).toNat z u pa leaf
  counter : ∀ d t n, placeOf pa = .counter d t n → plain = true ∧ z = 4

/-- The access that a word sends to its data address (R246, R255, R260): the next number, its plane by the plane map, the key
of its leaf, and its translation pinned. -/
def State.access (s : State) (w : Fields) (kind : AccessKind) (z pa : Nat) (leaf : Word64) : Access :=
  { num := s.nextAccess, who := s.cur.strand, addr := s.me.pc, kind := kind, va := s.address w, pa := pa, size := z, signed := false
    plane := s.planeOf s.cur.strand.die pa, keyid := leafKey leaf, blocks := [(s.address w).toNat / 65536]
    domain := (s.load s.myTask.load).domain }

/-- The word i completes having sent one access, with its base as R42 leaves it. -/
def Sends (i : Instr) (s : State) (os : List Opnd) (a : Access) : Prop :=
  Completes i s { ownEffect s (fieldsOf i) os with regs := s.baseAfter (fieldsOf i), sends := [a] }

/-- What a precise fault of a word leaves (R32): its strand Faulted with the record, which is on its way to the die's fault
queue, and the point where it resumes; memory, accesses, and the strand's registers and predicates are as they were. -/
def FaultsTo (i : Instr) (s : State) (code : FaultCode) (loc : Nat) (info : Word64) (detail : Nat) (resume : Word64) : Prop :=
  ∃ t f, exec i s = .next t ∧ (t.strand s.cur.strand).status = .faulted ∧ (t.strand s.cur.strand).fault = some f ∧ f.code = code ∧
    f.resume = resume ∧ fld f.record.dw0 63 56 = code.num ∧ fld f.record.dw0 55 54 = s.cur.strand.core.engine.num ∧
    fld f.record.dw0 51 51 = 0 ∧ fld f.record.dw0 39 32 = loc ∧ fld f.record.dw0 31 0 = s.myTask.group.toNat ∧
    f.record.dw1 = s.me.pc ∧ f.record.dw2 = info ∧ fld f.record.dw3 63 32 = detail ∧ t.mem = s.mem ∧ t.net = s.net ∧
    (t.strand s.cur.strand).regs = s.me.regs ∧ (t.strand s.cur.strand).preds = s.me.preds ∧ (t.strand s.cur.strand).pc = s.me.pc ∧
    t.task s.cur.strand.task = s.myTask ∧
    (∃ e, (t.die s.cur.strand.die).fqPending = (s.die s.cur.strand.die).fqPending ++ [e] ∧ e.kind = 0 ∧ e.record = f.record)

/-- A precise fault after which the strand resumes at the faulting word (R34). -/
def Faults (i : Instr) (s : State) (code : FaultCode) (loc : Nat) (info : Word64) (detail : Nat) : Prop :=
  FaultsTo i s code loc info detail s.me.pc

/-! ## Streams -/

/-- Elements among tokens, each with the scale code in force at it; the scale codes among them (R164). -/
def scaledElems : List Tok → BitVec 8 → List (Word32 × BitVec 8)
  | [], _ => []
  | .elem x :: ts, e => (x, e) :: scaledElems ts e
  | .scale k :: ts, _ => scaledElems ts k
  | .pscl k :: ts, _ => scaledElems ts k
  | _ :: ts, e => scaledElems ts e

def scaleCodes : List Tok → List (BitVec 8)
  | [] => []
  | .scale k :: ts => k :: scaleCodes ts
  | .pscl k :: ts => k :: scaleCodes ts
  | _ :: ts => scaleCodes ts

/-- What a VPOP of m elements takes of a queue (R164): up to its m-th element, or all before an end-of-stream that comes first;
no poison among it. -/
structure PopTakes (toks : List Tok) (m : Nat) (taken rest : List Tok) : Prop where
  split : toks = taken ++ rest
  plain : ∀ t ∈ taken, t ≠ .eos ∧ ∀ o, t ≠ .poison o
  ends : (elemCount taken = m ∧ ∃ x, taken.getLast? = some (.elem x)) ∨ (elemCount taken < m ∧ rest.head? = some .eos)

/-- The port that E names (R166). -/
def State.fieldPort (s : State) (w : Fields) : PortId := tilePort s.cur.strand.tileId (w.e.getLsbD 4) (fld w.e 2 0)

/-- The port that a port operand names (R39). -/
def State.operandPort (s : State) (out : Bool) (o : Opnd) : PortId := tilePort s.cur.strand.tileId out (opndPort o)

/-- The first k tokens of an input port taken, and its scale register written (R164, R343, R345). -/
def takingTokens (p : PortId) (k : Nat) (scale : BitVec 8) (s : State) : State :=
  (s.consume p k).updPort p (fun q => { q with scale := scale })

/-! ## Engine commands -/

/-- A command word issues (R16, R183, R215): its command enters its engine's queue with the next number, the values captured at
issue, and the narrow formats as they stand; its POP and PUSH wait for the engine. `e` holds what else issue does. -/
def Enqueues (i : Instr) (s : State) (e : Effect) (c : Command) : Prop :=
  let x := s.myTask.engineState (match s.cur.strand.core with | .dusk => .serac | .dawn => .moraine)
  let c1 := { c with instr := i, seq := x.nextSeq, addr := s.me.pc, waitSince := s.clock, nf := s.myTask.nf }
  Completes i s (match s.cur.strand.core with
    | .dusk => { e with serac := [c1] }
    | .dawn => { e with moraine := [c1] })

/-- What is the same in every command before its values are captured. -/
def blankCommand (i : Instr) : Command := { seq := 0, instr := i, addr := 0 }

/-- A Moraine command's extents pass R306: the tile-local ones lie in the allocation, and the global ones translate to `parts`. -/
def State.extentsPass (s : State) (c : Command) (parts : List Part) : Prop :=
  (∀ e ∈ s.extentsOf s.cur.strand.tileId c, e.inTile = true → e.len ≠ 0 →
    (s.myTask.tmBase : Int) ≤ e.lo ∧ e.lo + e.len ≤ (s.myTask.tmBase + s.myTask.tmSize : Nat)) ∧
  s.translateExtents (fun va => s.lookup s.cur.strand va) (s.load s.myTask.load).domain (s.load s.myTask.load).priv
    (s.extentsOf s.cur.strand.tileId c) = .ok parts

/-- A Moraine word's command enters (R305, R306, R310): its extents pass, and the status slot that E names is cleared. -/
def EnqueuesMoraine (i : Instr) (s : State) (os : List Opnd) (c : Command) : Prop :=
  ∀ parts, s.extentsPass { c with instr := i, nf := s.myTask.nf } parts →
    Enqueues i s { pops := os.flatMap queueOf, slots := if (fieldsOf i).e.getLsbD 11 then [(fld (fieldsOf i).e 10 7, 0)] else [] }
      { c with parts := parts }

/-- The descriptor at a tile-local address (R307): aligned, in the allocation, written by no access of the strand that is still to be performed
(R237), of its kind, and sound. -/
structure State.Describes (s : State) (a : Nat) (kind : Nat) (bad : List Word64 → Option Nat) (d : List Word64) : Prop where
  aligned : a % 64 = 0
  inside : s.myTask.tmBase ≤ a ∧ a + 64 ≤ s.myTask.tmBase + s.myTask.tmSize
  free : s.ownAhead s.cur.strand a 64 = false
  intact : s.isDamaged (tilePa s.cur.strand.tileId a) 64 = false
  bytes : d = toDwords (s.readTile s.cur.strand.tileId a 64)
  kind : fld (dw d 0) 63 60 = kind
  good : bad d = none

/-! ## Elements -/

/-- The element i fires in its slot (R352, R353): the heads of positions `ps` leave, the tokens of b go to its targets, and its own
state becomes e; nothing else in the machine changes. -/
def Fires (i : Instr) (s : State) (w : ElemWord) (ps : List Nat) (b : Batch) (e : Element) : Prop :=
  exec i s = .next (s.setRegion s.cur.region { (((s.region s.cur.region).take s.cur.slot ps).place w b) with
    elems := (s.region s.cur.region).elems.set s.cur.slot e, moved := s.clock })

/-- The last operand of an arithmetic element: a cell, or its parameter as one (R359). -/
def lastOperand (w : ElemWord) (x : Word32) : Word32 :=
  if w.param.getLsbD 24 then
    (if w.fmt = 7 then (w.param.extractLsb' 0 16) ++ (0 : BitVec 16)
     else if isFloating w.fmt then (w.param.extractLsb' 0 16).setWidth 32 else (w.param.extractLsb' 0 16).signExtend 32)
  else x

/-- A list in falling order of a ranking that puts the earlier of two equals first (R364). -/
def Ranked (below : Word32 → Word32 → Bool) (l : List (Word32 × Nat)) : Prop :=
  l.Pairwise (fun x y => below y.1 x.1 = true ∨ (below x.1 y.1 = false ∧ x.2 < y.2))

/-- What a record element releases in a state, and what a token makes of it before any release. -/
def ElemOp.released (op : ElemOp) (e : Element) : List Batch := match op.rec' with | some r => r.release e | none => []
def ElemOp.taking (op : ElemOp) (e : Element) (x : Word32) : Element := match op.rec' with | some r => (r.take { e with openRec := true } x).1 | none => e

/-- One bits among the low n bits. -/
def onesIn (n : Nat) (x : Word32) : Nat := ((List.range n).filter (fun k => x.getLsbD k)).length

/-! ## Engine commands that complete -/

/-- The word of a command captured nothing but its fields; its PUSH goes from its engine (R16). -/
def commandPushes (e : Engine) (c : Command) : List (Nat × Nat) :=
  if (tokenField c.word.push).2 = 0 then [] else [(tokenIndex e (tokenField c.word.push).1, (tokenField c.word.push).2)]

/-- Between s and t a command of an engine has completed (R16, R24): it has left its queue, and its completion increment and its
PUSH stand among what the end of the cycle applies; registers and predicates of strands, accesses and every other task are as they were. -/
structure Finished (e : Engine) (i : TaskId) (c : Command) (s t : State) : Prop where
  queue : ((t.task i).engineState e).queue = ((s.task i).engineState e).queue.filter (fun d => d.seq ≠ c.seq)
  counters : ∀ n, t.counter i.tileId n = s.counter i.tileId n
  tokens : ∀ k, (t.task i).token k = (s.task i).token k
  work : t.work = { s.work with
    adds := s.work.adds ++ (if c.null = false ∧ c.word.e.getLsbD 6 = true then [(i.tileId, (s.task i).evBase + fld c.word.e 5 0, 1)] else [])
    pushes := s.work.pushes ++ (commandPushes e c).map (fun p => (i, p.1, p.2)) }
  strands : ∀ j, (t.strand j).regs = (s.strand j).regs ∧ (t.strand j).preds = (s.strand j).preds ∧ (t.strand j).pc = (s.strand j).pc
  tasks : ∀ j, j ≠ i → t.task j = s.task j
  net : t.net = s.net

/-- The PUSH of a command keeps its counter within 63 with the others of the cycle (R16). -/
abbrev State.PushFits (s : State) (e : Engine) (i : TaskId) (c : Command) : Prop :=
  s.overflow i (commandPushes e c) = none

/-- The two sums of a pair of a butterfly stage, in the stage format, as FP32 bits (R192). -/
def pairSum (f : Format) (u x v y : Num) : Word32 :=
  BitVec.ofNat 32 (round (decodeNum f (round ((u.mul x).add .rne (v.mul y)) f .rne)) .f32 .rne)

/-- The addition to an accumulator element of a group (R131): the group's exact sum, rounded once, times its two scales, or NaN
when a scale is. -/
def groupAddend (xs ys : List Num) (ea eb : Nat) : Num :=
  if ea = 0xFF ∨ eb = 0xFF then .nan
  else
    let sum := (xs.zip ys).foldl (fun acc p => acc.add .rne (p.1.mul p.2)) (.fin false 0 0)
    decodeNum .f32 (round (((decodeNum .f32 (round sum .f32 .rne)).scale ((ea : Int) - 127)).scale ((eb : Int) - 127)) .f32 .rne)

/-! ## Hosts -/

/-- A host function may write the registers of a die (R436, R442): its module runs, the die is its own, it is not frozen, and it is its
owner's physical function. -/
abbrev State.Owns (s : State) (f : HostFn) (die : Nat) : Prop :=
  s.hostUp f = true ∧ die / 8 = f.pkg ∧ s.hostFrozen f = false ∧ s.isOwner f = true

/-- The response of the event names an open entry of its die (R380): the newest of its SEQ that is not kept. -/
abbrev State.Answers (s : State) (action : Nat) (e : FqEntry) : Prop :=
  s.Owns s.event.fn s.event.die ∧ fld s.event.value 31 28 = action ∧
  (s.die s.event.die).fqOpen.reverse.find? (fun x => x.seq == s.event.value.extractLsb' 32 32 && x.kept.isNone) = some e ∧ s.entrySaved e = false

/-- The response has been taken (R377, R380): the entry is answered and the count of accepted responses is one higher. -/
structure AnswerTaken (s t : State) : Prop where
  last : (t.die s.event.die).fqLast = 0
  accepted : (t.die s.event.die).fqAccepted = (s.die s.event.die).fqAccepted + 1
  memory : t.mem = s.mem

end Sys2Proof.Machine
end

