-- ==== Sys2Proof/Certificates/Slice0/Obligations.lean ====
section
/-! DEFINITION. The statements: what the manual says of encodings, of every instruction, of steps and of the machine. -/

open Sys2Proof Sys2Proof.Machine

/-! ## Encoding -/

/-- A well-formed instruction that has words is read back from its words, with every field as it was (R35, R36, R39, R41, R48 to R55, R348, R357). -/
def Obligations.DecodeOfEncode : Prop :=
  ∀ (i : Instr) (bs : List Byte), i.wf = true → encode i = some bs → decode bs = .ok i

/-- Every 96-bit word is a strand word, and writing that word again gives the same 96 bits (R35, R36, R39, R48). -/
def Obligations.EncodeOfDecode : Prop :=
  ∀ v : Word96, ∃ op w, (decodeStrand v).strandWord = some (op, w) ∧ encodeStrand op w = v

/-- Words written out from the manual's encodings decode to the instructions they stand for: VFMA with both guards, POP and PUSH; STT with an index;
PLD with a post-increment; SMMZ with a port; TRAP; and the elements BQNT and SUB (R36, R39, R48, R348, R357). An unassigned OP decodes to the word
that faults, with its fields (R48); an empty slot, a data slot and every reserved OPN are no element (R348, R358). -/
def Obligations.DecodedWords : Prop :=
  (let plain : Fields := { fmt := 0, mod := 0, g0 := 0, g1 := 0, pop := 0, push := 0, hint := 0, dual := false, yld := false
                           d := .reg 0, a := .reg 0, b := .reg 0, c := .reg 0, e := 0 }
   decodeStrand 0x8B803ACD000600400E030000#96 =
     .vfma { plain with fmt := 8, g0 := 3, g1 := 0x15, pop := 9, push := 10, d := .reg 12, a := .reg 4, b := .reg 7, c := .reg 12 } ∧
   decodeStrand 0x23000000000001EC12020000#96 = .stt { plain with a := .reg 30, b := .scalar 0 9, c := .reg 8 } ∧
   decodeStrand 0x630800000001805000000008#96 = .pld { plain with mod := 4, d := .reg 3, a := .reg 5, e := 8 } ∧
   decodeStrand 0xC10000028001004A26018000#96 = .smmz { plain with push := 5, d := .reg 2, a := .reg 4, b := .queue 0x13, c := .reg 6 } ∧
   decodeStrand 0xF3000000000000300000002A#96 = .trap { plain with a := .reg 3, e := 0x2A } ∧
   decodeElement 0x6284030001200007#64 =
     .ok (.elBqnt { fmt := 10, mod := 0, t0 := { valid := true, slot := 3, pos := 0 }, t1 := { valid := false, slot := 0, pos := 0 }, param := 0x1200007 }) ∧
   decodeElement 0x25C7F80000000000#64 =
     .ok (.elSub { fmt := 7, mod := 0, t0 := { valid := true, slot := 1016, pos := 0 }, t1 := { valid := false, slot := 0, pos := 0 }, param := 0 })) ∧
  ((∀ (op : BitVec 8) (w : Fields), unassignedOpcode op = true → decodeStrand (encodeStrand op w) = .unassigned op w) ∧
   (∀ v : Word64, v.extractLsb' 58 6 = 0#6 → decodeElement v = .error .emptySlot) ∧
   (∀ v : Word64, v.extractLsb' 58 6 = 0x3E#6 → decodeElement v = .error .dataSlot) ∧
   (∀ v : Word64, v.extractLsb' 58 6 ∈ [6#6, 7#6, 23#6, 29#6, 30#6, 31#6] ∨ (35#6 ≤ v.extractLsb' 58 6 ∧ v.extractLsb' 58 6 ≠ 0x3E#6) →
     decodeElement v = .error .reservedElement))

/-! ## Reset, memory, steps -/

/-- What the manual gives at reset: no task, all task state and event counters zero (R9, R24), graph queues, fault rings and registers of a die zero
with DDWIN 20 (R218, R377, R389), the plane map n mod 4 with four live planes (R256), every region Gated and every tile and region without power
(R325, R449). Reset memory has the canonical form (the model's own representation of R233's bytes). -/
def Obligations.ResetState : Prop :=
  ((∀ i, (State.reset.task i).status = .free) ∧ (∀ i, (State.reset.strand i).status = .absent) ∧
   (∀ i n, State.reset.counter i n = 0) ∧
   (∀ q, (State.reset.queue q).enable = false ∧ (State.reset.queue q).head = 0 ∧ (State.reset.queue q).tail = 0) ∧
   (∀ d, (State.reset.die d).fqEnable = false ∧ (State.reset.die d).ddwin = 20 ∧ (State.reset.die d).live = 0xF ∧
     (State.reset.die d).pwrtile = 0 ∧ (State.reset.die d).pwrreg = 0 ∧ (State.reset.die d).tilehalt = 0) ∧
   (∀ d k, k < 8 → State.reset.sysRead .load d (0x10 + k) = 0xE4E4E4E4E4E4E4E4#64) ∧
   (∀ r, (State.reset.region r).status = .gated)) ∧
  (State.reset.MemoryCanonical)

/-- Every step from every state keeps the canonical form of memory (the model's own representation of R233's bytes). -/
def Obligations.StepKeepsMemoryCanonical : Prop :=
  ∀ s t, s.MemoryCanonical → step s = .next t → t.MemoryCanonical

/-- At reset, and after every step from a state in which they do, the vector registers that have been written hold 1,024 cells (R134). -/
def Obligations.StepKeepsVectorsWhole : Prop :=
  State.reset.VectorsWhole ∧ ∀ s t, s.VectorsWhole → step s = .next t → t.VectorsWhole

/-- A cycle that one core's turn fills runs the word at the pc of the strand that the core ranks first: the twelve bytes that stand there, read
through the load's domain, are decoded and executed with the cursor at the strand; the core's second issue position follows with the strands ranked
below, and the cycle ends (R35, R213). A word without DUAL whose strand is not held. -/
def Obligations.StepRunsTheWord : Prop :=
  ∀ (s u : State) (die tile : Nat) (c : CoreId) (rest : List (List Turn)) (who : StrandId) (others : List StrandId) (bs : List Byte) (i : Instr),
    s.agenda = [.core die tile c] :: rest → s.work.cores.contains (⟨die, tile⟩, c) = false →
    let s1 : State := { s with agenda := rest, work := { s.work with cores := s.work.cores ++ [(⟨die, tile⟩, c)] } }
    ({ s with agenda := rest } : State).ranked ⟨die, tile⟩ c = who :: others →
    (s.strand who).atHeader = false →
    s1.readVirtual who.die (s.load (s.task who.task).load).domain (s.strand who).pc.toNat 12 = some bs →
    decode bs = .ok i → bs.length = 12 → (fieldsOf i).dual = false →
    exec i (s1.atStrand who none) = .next u → (u.strand who).status ≠ .held →
    step s = onNext (endCycle s) (coreSecond ⟨die, tile⟩ c who (issueLimits i) (s.strand who).yielded others u) ∧
    (others = [] → step s = .next (endCycle s (u.clearYields ⟨die, tile⟩ c [who])))

/-- A pair runs as its first word, then its second on the state the first leaves, and both retire together; a stop of either leaves the state before
the pair and applies the stop to it (R32, R44). A cycle that one element's turn fills runs the word of its slot, and an event's turn runs the event
with what it concerns (R348, R353); the turns of a cycle run one after another, those of Dusk cores last (R104), and the cycle then ends. With no
turn given a cycle passes and nothing runs. What a cycle leaves to its end then happens (R16, R22, R102): a counter takes the last of the cycle's
sets of it, those of Dusk coming last, and then every increment, modulo 2^32; a token counter takes every push, within its six bits; a strand parked
on a counter whose threshold the new value reaches is woken; and the clock advances by one. Memory, scalar registers and accesses stand as they did. -/
def Obligations.StepRunsTurns : Prop :=
  (∀ (s : State) (who : StrandId) (i m : Instr) (t : State), exec i (s.atStrand who (some m)) = .next t →
     (∀ x, t.cur.stop = some x → runPair who i m s = .next (s.applyStop who x)) ∧
     (t.cur.stop = none →
       let start : PairStart := { preds := (s.strand who).preds, depth := (s.strand who).depth, slots := (s.task who.task).slots }
       ∀ u, exec m (t.updCur (fun c => { c with mate := none, pair := some start })) = .next u →
         (∀ x, u.cur.stop = some x → runPair who i m s = .next (s.applyStop who x.ofSecond)) ∧
         (u.cur.stop = none → runPair who i m s = .next u))) ∧
  ((∀ (s u : State) (die region slot : Nat) (rest : List (List Turn)) (im : Image) (i : Instr),
     s.agenda = [.element die region slot] :: rest → (s.region ⟨die, region⟩).image = some im → decodeElement (im.body.getD slot 0) = .ok i →
     exec i (({ s with agenda := rest } : State).updCur (fun c => { c with region := ⟨die, region⟩, slot := slot })) = .next u →
     step s = .next (endCycle s u)) ∧
   (∀ (s u : State) (i : Instr) (x : EventArgs) (rest : List (List Turn)), s.agenda = [.event i x] :: rest →
     exec i { s with agenda := rest, event := x } = .next u → step s = .next (endCycle s u)) ∧
   (∀ (s u v : State) (a b : Turn) (rest : List (List Turn)), s.agenda = [a, b] :: rest → a.ofDusk = false →
     runTurn a { s with agenda := rest } = .next u → runTurn b u = .next v → step s = .next (endCycle s v)) ∧
   (∀ (s u v : State) (a b : Turn) (rest : List (List Turn)), s.agenda = [a, b] :: rest → a.ofDusk = true → b.ofDusk = false →
     runTurn b { s with agenda := rest } = .next u → runTurn a u = .next v → step s = .next (endCycle s v)) ∧
   (∀ s : State, s.agenda = [] → step s = .next (endCycle s s))) ∧
  (∀ (s : State),
     (∀ t n, s.commit.counter t n =
       ((s.work.adds.filter (fun x => x.1 == t && x.2.1 == n)).map (fun x => x.2.2)).foldl (· + ·)
         (latest ((s.work.sets ++ s.work.duskSets).map (fun x => ((x.1, x.2.1), x.2.2))) (t, n) (s.counter t n))) ∧
     (∀ i k, (s.commit.task i).token k = ((s.work.pushes.filter (fun p => p.1 == i && p.2.1 == k)).map (fun p => p.2.2)).foldl
       (fun v n => (v + n) % 64) ((s.task i).token k)) ∧
     (∀ w p n, (s.strand w).status = .parked → (s.strand w).park = some p → p.counter = some n →
       (s.commit.strand w).park = some (if suspensionMet (s.commit.counter w.tileId n) p.threshold then { p with woken := true } else p)) ∧
     (∀ w, (s.commit.strand w).regs = (s.strand w).regs ∧ (s.commit.strand w).status = (s.strand w).status) ∧
     s.commit.mem = s.mem ∧ s.commit.net = s.net ∧ s.commit.work = {} ∧ (∀ b, (endCycle b s).clock = s.clock + 1))

/-! ## Scalar words -/

/-- R71, R72 (with R67, R68): ADD, SUB, MUL, MULH, MAD, MIN, MAX, ABS, NEG, DIV and REM, in every operand form: D receives the result at the
operation width, clamped under MOD 001 and wrapped otherwise; a quotient by zero is all ones as a signed number and the greatest as an unsigned one,
and its remainder is A; the least signed number over -1 is itself, remainder 0. -/
def Obligations.IntegerArithmetic : Prop :=
  ∀ (w : Fields) (s : State),
    let c := s.cur.strand.core
    let x := asInt c w.fmt.toNat (s.valueA w)
    let y := asInt c w.fmt.toNat (s.valueB w)
    let z := asInt c w.fmt.toNat (s.valueC w)
    let wide : Int := if c = .dawn ∧ w.fmt = 0 then 2 ^ 64 else 2 ^ 32
    let quot : Int := if y = 0 then (if w.fmt = 2 then greatestInt c 2 else -1)
      else if w.fmt ≠ 2 ∧ x = leastInt c w.fmt.toNat ∧ y = -1 then x else x.tdiv y
    let rem : Int := if y = 0 then x else if w.fmt ≠ 2 ∧ x = leastInt c w.fmt.toNat ∧ y = -1 then 0 else x.tmod y
    let two (i : Instr) (r : Int) : Prop := Issues i s → Yields i s [w.a, w.b] (intResult c w r)
    two (.add w) (x + y + w.e.toInt) ∧ two (.sub w) (x - y - w.e.toInt) ∧ two (.mul w) (x * y) ∧ two (.mulh w) (x * y / wide) ∧
    two (.min w) (min x y) ∧ two (.max w) (max x y) ∧ two (.div w) quot ∧ two (.rem w) rem ∧
    (Issues (.mad w) s → Yields (.mad w) s [w.a, w.b, w.c] (intResult c w (x * y + z))) ∧
    (Issues (.abs w) s → Yields (.abs w) s [w.a] (intResult c w (x.natAbs : Int))) ∧
    (Issues (.neg w) s → Yields (.neg w) s [w.a] (intResult c w (-x)))

/-- R73, R74 (with R67, R68): AND, OR, XOR, ANDN, SHL, SHR, SAR, ROL, CLZ, POPC, BFX and BFI, in every operand form: D receives the bits at the
operation width; a shift by the width or more gives zeros, or sign bits for SAR; a bit field of length 0 or beyond the width is empty. -/
def Obligations.LogicShiftsAndFields : Prop :=
  ∀ (w : Fields) (s : State),
    let c := s.cur.strand.core
    let x := s.valueA w
    let y := s.valueB w
    let pos := fld w.e 6 0
    let len := fld w.e 13 7
    let two (i : Instr) (f : (k : Nat) → BitVec k → BitVec k) : Prop := Issues i s → Yields i s [w.a, w.b] (onWidth c w.fmt.toNat f x)
    let one (i : Instr) (f : (k : Nat) → BitVec k → BitVec k) : Prop := Issues i s → Yields i s [w.a] (onWidth c w.fmt.toNat f x)
    two (.and w) (fun k u => u &&& y.setWidth k) ∧ two (.or w) (fun k u => u ||| y.setWidth k) ∧ two (.xor w) (fun k u => u ^^^ y.setWidth k) ∧
    two (.andn w) (fun k u => u &&& ~~~(y.setWidth k)) ∧
    two (.shl w) (fun _ u => u <<< y.toNat) ∧ two (.shr w) (fun _ u => u >>> y.toNat) ∧ two (.sar w) (fun _ u => u.sshiftRight y.toNat) ∧
    two (.rol w) (fun _ u => u.rotateLeft y.toNat) ∧
    one (.clz w) leadingZeros ∧ one (.popc w) onesCount ∧
    one (.bfx w) (fun k u => fieldAt k (w.fmt ≠ 2) pos len u) ∧
    two (.bfi w) (fun k u => fieldInto k pos len u (y.setWidth k))

/-- R70, R75, R76, R78, R80 (with R41, R67): MOV, MOVI, MOVHI, CVTSX, LEA, SEL and PSAVE, in every operand form. R77, R79, R80, R85 (with R9, R67):
CMP, PLOG, PREST and FCMP write predicates; a compare writes its condition to pd and then the complement to pc; p0 is not written. FCMP is unordered
when a source is NaN. -/
def Obligations.MovesAndPredicates : Prop :=
  (∀ (w : Fields) (s : State),
     let x := s.valueA w
     let y := s.valueB w
     let sign := w.fmt.getLsbD 0
     let chunk : Nat := 16 * fld w.mod 1 0
     let index : Word64 := if w.fmt = 1 then (y.setWidth 32).signExtend 64 else if w.fmt = 2 then (y.setWidth 32).setWidth 64 else y
     (Issues (.mov w) s → Yields (.mov w) s [w.a] x) ∧
     (Issues (.movi w) s → Yields (.movi w) s [] ((longBits w).signExtend 64)) ∧
     (Issues (.movhi w) s → Yields (.movhi w) s [w.a]
       ((x &&& ~~~((0xFFFF : Word64) <<< chunk)) ||| (((longBits w).setWidth 16).setWidth 64 <<< chunk))) ∧
     (Issues (.cvtsx w) s → Yields (.cvtsx w) s [w.a]
       (if w.fmt.toNat ≤ 2 then (if sign then (x.setWidth 32).signExtend 64 else (x.setWidth 32).setWidth 64)
        else if w.fmt.toNat ≤ 4 then (if sign then (x.setWidth 16).signExtend 64 else (x.setWidth 16).setWidth 64)
        else if sign then (x.setWidth 8).signExtend 64 else (x.setWidth 8).setWidth 64)) ∧
     (Issues (.lea w) s → Yields (.lea w) s [w.a, w.b] (x + (index <<< (s.valueC w).toNat) + w.e.signExtend 64)) ∧
     (Issues (.sel w) s → Yields (.sel w) s [w.a, w.b] (if s.me.pred (opndIndex w.c) then x else y)) ∧
     (Issues (.psave w) s → Yields (.psave w) s [] ((s.me.preds.extractLsb' 8 8).setWidth 64))) ∧
  (∀ (w : Fields) (s : State),
     let k : Nat := if s.cur.strand.core = .dawn ∧ w.fmt = 0 then 64 else 32
     let u : BitVec k := (s.valueA w).setWidth k
     let v : BitVec k := (s.valueB w).setWidth k
     let cond : Bool := match w.mod.toNat with
       | 0 => u == v
       | 1 => u != v
       | 2 => u.slt v
       | 3 => u.sle v
       | 4 => u.ult v
       | 5 => u.ule v
       | 6 => u &&& v != 0
       | _ => u &&& v == 0
     let a := s.me.pred (opndIndex w.a)
     let b := s.me.pred (opndIndex w.b)
     let logic : Bool := match w.mod.toNat with
       | 0 => a && b
       | 1 => a || b
       | 2 => a != b
       | 3 => a && !b
       | 4 => !(a && b)
       | 5 => !(a || b)
       | 6 => a == b
       | _ => a || !b
     let f := decodeNum .f32 (s.floatOf [] w.a)
     let g := decodeNum .f32 (s.floatOf (queueOf w.a) w.b)
     let un := f.isNan || g.isNan
     let fcond : Bool := match w.mod.toNat with
       | 0 => !un && f.eq g
       | 1 => un || !f.eq g
       | 2 => !un && f.lt g
       | 3 => !un && (f.lt g || f.eq g)
       | 4 => un
       | _ => !un
     (Issues (.cmp w) s → Completes (.cmp w) s { ownEffect s w [w.a, w.b] with preds := [(opndIndex w.d, cond), (opndIndex w.c, !cond)] }) ∧
     (Issues (.plog w) s → Completes (.plog w) s { ownEffect s w [] with preds := [(opndIndex w.d, logic)] }) ∧
     (Issues (.prest w) s → Completes (.prest w) s
       { ownEffect s w [w.a] with preds := (List.range 8).map (fun i => (8 + i, (s.valueA w).getLsbD i)) }) ∧
     (Issues (.fcmp w) s → Completes (.fcmp w) s { ownEffect s w [w.a, w.b] with preds := [(opndIndex w.d, fcond), (opndIndex w.c, !fcond)] }))

/-- R81 to R84 (with R67): FADD, FSUB, FMUL, FFMA, FDIV, FSQRT and FRCP round their exact result once by MOD; FMIN and FMAX take the smaller and the
larger, a number before a NaN; FABS clears the sign bit and FNEG inverts it. R86: FCVT converts between .f32 and another format whose nf register, if
it names one, is not 0. -/
def Obligations.ScalarFloatingPoint : Prop :=
  ∀ (w : Fields) (s : State),
    let m := Rnd.ofMod w.mod.toNat
    let x := s.floatOf [] w.a
    let y := s.floatOf (queueOf w.a) w.b
    let z := s.floatOf (queueOf w.a ++ queueOf w.b) w.c
    let nx := decodeNum .f32 x
    let ny := decodeNum .f32 y
    let nz := decodeNum .f32 z
    let once (p : Machine.Num × Bool) : Nat := round p.1 .f32 m p.2
    let one : Machine.Num := decodeNum .f32 0x3F800000
    let two (i : Instr) (r : Nat) : Prop := Issues i s → Yields i s [w.a, w.b] (BitVec.ofNat 64 r)
    two (.fadd w) (round (nx.add m ny) .f32 m) ∧ two (.fsub w) (round (nx.add m ny.negate) .f32 m) ∧ two (.fmul w) (round (nx.mul ny) .f32 m) ∧
    two (.fdiv w) (once (nx.div ny)) ∧
    (Issues (.ffma w) s → Yields (.ffma w) s [w.a, w.b, w.c] (BitVec.ofNat 64 (round ((nx.mul ny).add m nz) .f32 m))) ∧
    (Issues (.fsqrt w) s → Yields (.fsqrt w) s [w.a] (BitVec.ofNat 64 (once nx.sqrt))) ∧
    (Issues (.frcp w) s → Yields (.frcp w) s [w.a] (BitVec.ofNat 64 (once (one.div nx)))) ∧
    two (.fmin w) (minMaxCode .f32 false x y) ∧ two (.fmax w) (minMaxCode .f32 true x y) ∧
    (Issues (.fabs w) s → Yields (.fabs w) s [w.a] ((BitVec.ofNat 32 x &&& 0x7FFFFFFF#32).setWidth 64)) ∧
    (Issues (.fneg w) s → Yields (.fneg w) s [w.a] ((BitVec.ofNat 32 x ^^^ 0x80000000#32).setWidth 64)) ∧
    (∀ d f, Issues (.fcvt w) s → s.myTask.formatAt w.fmt.toNat = some d → s.myTask.formatAt (fld w.e 3 0) = some f →
      Yields (.fcvt w) s [w.a] (BitVec.ofNat 64 (convertCode f d w.mod.toNat
        ((if fld w.e 3 0 = 7 then x else (s.valueA w).toNat) % 2 ^ f.bits))))

/-! ## Tile memory -/

/-- R87 (with R28, R42, R237): LDT at an address that R28 admits, to which no access of the strand through the global window is still to be
performed, reads its bytes, lowest first, extends them by FMT into D, and leaves a post-incremented base; memory is as it was. R28, R32, R33: LDT at
an address that is not a multiple of its size faults MISALIGN; aligned, and based on the stack pointer outside the stack window, STACK_LIMIT; else
outside the task's allocation, TILEMEM_BOUNDS: the strand is Faulted with the code, WHERE 2, INFO the address and DETAIL the size in its record,
resumes at the word, and registers and memory are as they were. -/
def Obligations.TileLoadsAndFaults : Prop :=
  (∀ (w : Fields) (s : State),
     let c := s.cur.strand.core
     let n := accessSize (coreWidth c) w.fmt.toNat
     let a := (s.address w).toNat
     let v := (((List.range n).map (fun i => (Memory.read s.mem (tilePa s.cur.strand.tileId a + i)).toNat * 256 ^ i)).sum)
     Issues (.ldt w) s → s.tileAdmits w a n → s.ownAhead s.cur.strand a n = false → s.isDamaged (tilePa s.cur.strand.tileId a) n = false →
     Completes (.ldt w) s (({ ownEffect s w [] with regs := s.baseAfter w } : Effect).toDest c w.d
       (if w.fmt ∈ [1#4, 3#4, 5#4] then BitVec.ofInt 64 ((BitVec.ofNat (8 * n) v).toInt) else BitVec.ofNat 64 v))) ∧
  (∀ (w : Fields) (s : State),
     let who := s.cur.strand
     let n := accessSize (coreWidth who.core) w.fmt.toNat
     let a := (s.address w).toNat
     let stacked := isStackPointer w.a = true ∧ (a < s.me.stklim.toNat ∨ s.me.stkbase.toNat < a + n)
     let outside := a < s.myTask.tmBase ∨ s.myTask.tmBase + s.myTask.tmSize < a + n
     let faults (code : FaultCode) : Prop := ∃ t f, exec (.ldt w) s = .next t ∧ (t.strand who).status = .faulted ∧ (t.strand who).fault = some f ∧
       f.code = code ∧ f.resume = s.me.pc ∧ fld f.record.dw0 63 56 = code.num ∧ fld f.record.dw0 39 32 = 2 ∧ f.record.dw1 = s.me.pc ∧
       f.record.dw2 = BitVec.ofNat 64 a ∧ fld f.record.dw3 63 32 = n ∧ t.mem = s.mem ∧ (t.strand who).regs = s.me.regs ∧
       (∃ e, (t.die who.die).fqPending = (s.die who.die).fqPending ++ [e] ∧ e.kind = 0 ∧ e.record = f.record)
     Issues (.ldt w) s →
     (a % n ≠ 0 → faults .misalign) ∧ (a % n = 0 → stacked → faults .stackLimit) ∧
     (a % n = 0 → ¬ stacked → outside → faults .tilememBounds))

/-- R87 (with R28, R42, R237): STT at an address that R28 admits, to which no access of the strand through the global window is still to be
performed, stores the low bytes of C there, lowest first, and leaves a post-incremented base; every other byte of memory is as it was. Memory is in
its canonical form. -/
def Obligations.TileStoresWrite : Prop :=
  ∀ (w : Fields) (s : State),
    let c := s.cur.strand.core
    let n := accessSize (coreWidth c) w.fmt.toNat
    let a := (s.address w).toNat
    s.MemoryCanonical → Issues (.stt w) s → s.tileAdmits w a n → s.ownAhead s.cur.strand a n = false →
    Completes (.stt w) s { ownEffect s w [w.c] with
      regs := s.baseAfter w
      stores := [(tilePa s.cur.strand.tileId a, (List.range n).map (fun i => (s.valueOf [] w.c).extractLsb' (8 * i) 8))] }

/-! ## Control -/

/-- R88, R89 (with R56, R91): BR and JMP go to their target; CALL and CALLR put the return address into D, A having been read before, and raise the
call depth; RET lowers it. The target is a word of the strand's own stream. R56, R88: a transfer to an address at which no word of the strand's own
stream begins faults ILLEGAL_ENC: ADDR is the target, WHERE 0, INFO the address of the word, at which the strand resumes; nothing else changes in the
strand's registers or in memory. -/
def Obligations.ControlTransfers : Prop :=
  (∀ (w : Fields) (s : State),
     let own (os : List Opnd) := ownEffect s w os
     let linked (os : List Opnd) : Effect := { (own os).toDest s.cur.strand.core w.d s.returnPoint with depth := 1 }
     let there (a : Word64) : Prop := (s.wordSection s.cur.strand a).isSome = true
     (Issues (.br w) s → there (s.relativeGoal w) → Transfers (.br w) s (own []) (s.relativeGoal w)) ∧
     (Issues (.jmp w) s → there (s.registerGoal w.a) → Transfers (.jmp w) s (own [w.a]) (s.registerGoal w.a)) ∧
     (Issues (.call w) s → there (s.relativeGoal w) → Transfers (.call w) s (linked []) (s.relativeGoal w)) ∧
     (Issues (.callr w) s → there (s.registerGoal w.a) → Transfers (.callr w) s (linked [w.a]) (s.registerGoal w.a)) ∧
     (Issues (.ret w) s → there (s.registerGoal w.a) → Transfers (.ret w) s { own [w.a] with depth := -1 } (s.registerGoal w.a))) ∧
  (∀ (w : Fields) (s : State),
     let who := s.cur.strand
     let refused (i : Instr) (target : Word64) : Prop := Issues i s → s.wordSection who target = none →
       ∃ t f, exec i s = .next t ∧ (t.strand who).status = .faulted ∧ (t.strand who).fault = some f ∧ f.code = .illegalEnc ∧
         f.resume = s.me.pc ∧ f.record.dw1 = target ∧ fld f.record.dw0 39 32 = 0 ∧ f.record.dw2 = s.me.pc ∧ t.mem = s.mem ∧
         (t.strand who).regs = s.me.regs ∧ (t.strand who).depth = s.me.depth
     refused (.br w) (s.relativeGoal w) ∧ refused (.jmp w) (s.registerGoal w.a) ∧ refused (.call w) (s.relativeGoal w) ∧
     refused (.callr w) (s.registerGoal w.a) ∧ refused (.ret w) (s.registerGoal w.a))

/-- R90, R91, R92 (with R41, R88): LOOP with a count that is not 0 and at most one loop in progress enters a loop whose body is the words after it up
to its target, and goes on with the first; with a count of 0 it goes on behind the body. BCQ takes one CQ entry and branches when that entry is 1
under MOD 000 and 0 under MOD 001, else goes on. R58, R91, R18, R20, R99 (by NOP, R50): a word without a transfer goes on with the next word of its
section; where the innermost loop of its call depth ends at it, that loop's count goes down by one and the strand goes back to its start; at the end
of the section the strand enters the next header, aligned to 8 bytes: kind 9 with a higher number and sound fields takes it to the word after the
header, under the header's needs, and the section left is its retired mark. -/
def Obligations.LoopsAndOrder : Prop :=
  (∀ (w : Fields) (s : State),
     let own (os : List Opnd) := ownEffect s w os
     let stop := s.relativeGoal w
     let count := (s.valueA w).extractLsb' 0 32
     let inside := stop.toNat < s.me.sectStart.toNat + 12 * s.me.sectLen
     (Issues (.loop w) s → inside → count ≠ 0 → s.me.loops.length < 2 → s.inOrder →
       ∃ t, exec (.loop w) s = .next t ∧ Does (own [w.a]) s t ∧ (t.strandOf s).pc = s.me.pc + 12 ∧
         (t.strandOf s).loops = { start := s.me.pc + 12, last := stop, count := count, depth := s.me.depth } :: s.me.loops) ∧
     (Issues (.loop w) s → inside → count = 0 → (stop + 12).toNat < s.me.sectStart.toNat + 12 * s.me.sectLen →
       (∀ l ∈ s.me.loops.head?, ¬ (l.depth = s.me.depth ∧ l.last = stop)) →
       ∃ t, exec (.loop w) s = .next t ∧ Does (own [w.a]) s t ∧ (t.strandOf s).pc = stop + 12 ∧ (t.strandOf s).loops = s.me.loops) ∧
     (∀ v rest, s.myTask.cq = v :: rest → Issues (.bcq w) s →
       let taken : Bool := if w.mod = 1 then !v else v
       (taken = true → (s.wordSection s.cur.strand (s.relativeGoal w)).isSome = true →
         Transfers (.bcq w) s { own [] with pops := [.cq] } (s.relativeGoal w)) ∧
       (taken = false → Completes (.bcq w) s { own [] with pops := [.cq] }))) ∧
  (∀ (w : Fields) (s : State), Issues (.nop w) s →
     let st := s.me
     let past := s.me.sectStart.toNat + 12 * s.me.sectLen ≤ (s.me.pc + 12).toNat
     let header : Word64 := BitVec.ofNat 64 (((st.pc + 12).toNat + 7) / 8 * 8)
     (s.inOrder → ∃ t, exec (.nop w) s = .next t ∧ Does (ownEffect s w []) s t ∧ (t.strandOf s).pc = st.pc + 12 ∧ (t.strandOf s).sect = st.sect) ∧
     (∀ l ls, st.loops = l :: ls → l.depth = st.depth → l.last = st.pc → l.count ≠ 1 →
       ∃ t, exec (.nop w) s = .next t ∧ Does (ownEffect s w []) s t ∧ (t.strandOf s).pc = l.start ∧
         (t.strandOf s).loops = { l with count := l.count - 1 } :: ls) ∧
     (∀ h, past → (∀ l ∈ st.loops.head?, ¬ (l.depth = st.depth ∧ l.last = st.pc)) →
       s.readVirtual64 s.cur.strand.die (s.load s.myTask.load).domain header.toNat = some h → fld h 63 60 = 9 → st.sect < fld h 59 50 →
       headerRefused s.myTask.hdr.ncarry h = false →
       ∃ t, exec (.nop w) s = .next t ∧ Does (ownEffect s w []) s t ∧ (t.strandOf s).pc = header + 8 ∧ (t.strandOf s).sect = fld h 59 50 ∧
         (t.strandOf s).needs = headerNeeds s.cur.strand.core h ∧ (t.strandOf s).mark = some st.sect))

/-- R93, R94, R95 (with R12, R13): QPUSH pushes A, or A and then B, or a predicate; QPOP puts the oldest entry into D, or its two halves into D and
C, or whether it is not zero into a predicate; QCOUNT counts the entries that stood there at the start of the cycle. R96, R97 (with R15, R16): TWAIT
takes its count when the counter has it after the word's own POP; TSIG gives its count when it retires; TREAD reads a counter as it stood at the
start of the cycle. -/
def Obligations.QueuesAndTokens : Prop :=
  (∀ (w : Fields) (s : State),
     let c := s.cur.strand.core
     let own (os : List Opnd) := ownEffect s w os
     (Issues (.qpush w) s → w.mod = 0 → Completes (.qpush w) s ((own [w.a]).toDest c w.d (s.valueA w))) ∧
     (Issues (.qpush w) s → w.mod = 1 → Completes (.qpush w) s (((own [w.a, w.b]).toDest c w.d (s.valueA w)).toDest c w.d (s.valueB w))) ∧
     (Issues (.qpush w) s → w.mod = 2 → Completes (.qpush w) s ((own []).toDest c w.d (if s.me.pred (opndIndex w.a) then 1 else 0))) ∧
     (∀ q, queueOf w.a = [q] → Issues (.qpop w) s →
       let v := (s.myTask.entries q).getD 0 0
       (w.mod = 0 → Completes (.qpop w) s ((own [w.a]).toDest c w.d v)) ∧
       (w.mod = 1 → Completes (.qpop w) s (((own [w.a]).toDest c w.d ((v.extractLsb' 0 32).setWidth 64)).toDest c w.c ((v.extractLsb' 32 32).setWidth 64))) ∧
       (w.mod = 2 → Completes (.qpop w) s { own [w.a] with preds := [(opndIndex w.d, v != 0)] }) ) ∧
     (∀ q, queueOf w.a = [q] → Issues (.qcount w) s → Completes (.qcount w) s ((own []).toDest c w.d (BitVec.ofNat 64
       ((s.myTask.entries q).length - s.work.queued.count (s.cur.strand.task, q) + s.work.taken.count (s.cur.strand.task, q)))))) ∧
  (∀ (w : Fields) (s : State),
     let me := s.cur.strand.core.engine
     let other := Engine.ofBits (w.mod.extractLsb' 0 2)
     let n := fld w.e 5 0
     let own := ownEffect s w []
     (Issues (.twait w) s → n ≤ s.myTask.token (tokenIndex other me) - pushSum own.takes (tokenIndex other me) →
       Completes (.twait w) s { own with takes := own.takes ++ [(tokenIndex other me, n)] }) ∧
     (Issues (.tsig w) s [(tokenIndex me other, n)] → Completes (.tsig w) s { own with gives := (tokenIndex me other, n) :: own.gives }) ∧
     (Issues (.tread w) s → Yields (.tread w) s [] (BitVec.ofNat 64 (s.myTask.token (fld w.e 13 0) +
       pushSum ((s.work.pops.filter (fun p => p.1 == s.cur.strand.task)).map Prod.snd) (fld w.e 13 0)))))

/-- R98, R99, R100, R50 (with R22, R30, R45): SUSPEND parks its strand on a counter, and the end of the cycle marks it to be woken when that counter,
as a signed distance, has reached the threshold; END ends the strand; YIELD yields; NOP does nothing. R101, R102 (with R24): EVRD reads a counter of
the task, and EVADD and EVSET leave an increment and a set of it to the end of the cycle. R103, R104 (with R211): GRAISE sends its value to the group
count of the task's grid and leaves D to the answer; GREAD reads that count; SETNF writes a narrow format of 6 bits whose code is one. -/
def Obligations.StrandsAndCounters : Prop :=
  (∀ (w : Fields) (s : State),
     let n := s.myTask.evBase + opndIndex w.a
     let threshold := (s.valueB w).extractLsb' 0 32
     let goal := s.relativeGoal w
     (Issues (.suspend w) s → (s.wordSection s.cur.strand goal).isSome = true →
       ∃ t, exec (.suspend w) s = .next t ∧ Does (ownEffect s w [w.b]) s t ∧ (t.strandOf s).status = .parked ∧
         (t.strandOf s).park = some { counter := some n, threshold := threshold, cont := goal, since := s.clock } ∧
         ∀ p, (t.commit.strandOf s).park = some p → p.woken = decide (0 ≤ (t.commit.counter s.cur.strand.tileId n - threshold).toInt)) ∧
     (Issues (.endStrand w) s → ∃ t, exec (.endStrand w) s = .next t ∧ Does (ownEffect s w []) s t ∧ (t.strandOf s).status = .ended ∧
       (t.strandOf s).mark = some s.me.sect) ∧
     (Issues (.yield w) s → s.inOrder → ∃ t, exec (.yield w) s = .next t ∧ Does (ownEffect s w []) s t ∧ (t.strandOf s).yielded = true ∧
       (t.strandOf s).pc = s.me.pc + 12) ∧
     (Issues (.nop w) s → Completes (.nop w) s (ownEffect s w []))) ∧
  (∀ (w : Fields) (s : State),
     let n := s.myTask.evBase + opndIndex w.a
     let old := s.counter s.cur.strand.tileId n
     let v := (s.valueB w).extractLsb' 0 32
     (Issues (.evrd w) s → Yields (.evrd w) s [] (old.setWidth 64)) ∧
     (Issues (.evadd w) s → Completes (.evadd w) s { ownEffect s w [w.b] with adds := [(n, v)] }) ∧
     (Issues (.evset w) s → Completes (.evset w) s { ownEffect s w [w.b] with sets := [(n, v)] })) ∧
  (∀ (w : Fields) (s : State),
     let v := s.valueA w
     (Issues (.graise w) s → Completes (.graise w) s { ownEffect s w [w.a] with raises :=
       [{ num := s.nextAccess, who := s.cur.strand, load := s.myTask.load, grid := s.myTask.grid, value := v.extractLsb' 0 32, dest := w.d }] }) ∧
     (Issues (.gread w) s → Yields (.gread w) s [] ((((s.load s.myTask.load).grids.getD s.myTask.grid {}).count).setWidth 64)) ∧
     (Issues (.setnf w) s → v.toNat < 64 → nfValid (v.extractLsb' 0 6) = true →
       Completes (.setnf w) s { ownEffect s w [w.a] with nfs := [(opndIndex w.d, v.extractLsb' 0 6)] }))

/-! ## Global memory -/

/-- R284 to R288, R273, R275: LDG and LDC at an address that R286 lets through send one read of the access's bytes, whose reply D waits for, extended
by FMT; STG sends C there and retires. An LDG may take its bytes from an earlier LDG of its granule and key that nothing has ended, the word's own
POP or its section's needs among it, and that no later LDG has overtaken on one of the bytes, unless its address is tainted. R292 to R294: STF sends
its data and its flag together: C to the data address, and an increment of the word or event counter that D addresses, which must be aligned to 8
bytes or 4, admitted for its kind, and intact. Both count among the strand's 64. -/
def Obligations.GlobalStores : Prop :=
  (∀ (w : Fields) (s : State) (pa : Nat) (leaf : Word64),
     let z := accessSize 64 w.fmt.toNat
     let dest := scalarIndex w.d
     let sg : Bool := decide (w.fmt ∈ [1#4, 3#4, 5#4])
     let apart (c : CombineSource) : Bool := c.granule != pa / 64 || decide (c.offset + c.size ≤ pa % 64) || decide (pa % 64 + z ≤ c.offset)
     let earlier := if taintedAddress s.me w = true ∨ (tokenField w.pop).2 ≠ 0 ∨ s.me.needs ≠ [] then []
       else (s.me.sources.zipIdx.filter (fun c => c.1.live && c.1.granule == pa / 64 && c.1.key == leafKey leaf &&
         (s.me.sources.drop (c.2 + 1)).all apart)).map (fun c => c.1.access)
     (Issues (.ldg w) s → s.Reaches w z .load true pa leaf → s.isDamaged pa z = false →
       Sends (.ldg w) s [] { s.access w .ldg z pa leaf with signed := sg, dest := dest, sources := earlier }) ∧
     (Issues (.ldc w) s → s.Reaches w z .load true pa leaf → s.isDamaged pa z = false →
       Sends (.ldc w) s [] { s.access w .ldc z pa leaf with signed := sg, dest := dest }) ∧
     (Issues (.stg w) s → s.Reaches w z .store true pa leaf → Sends (.stg w) s [w.c] { s.access w .stg z pa leaf with data := s.valueOf [] w.c })) ∧
  (∀ (w : Fields) (s : State) (pa fpa : Nat) (leaf fleaf : Word64),
     let z := accessSize 64 w.fmt.toNat
     let event := w.mod.getLsbD 0
     let flag := (s.valueOf (queueOf w.c) w.d).toNat
     Issues (.stf w) s → s.Reaches w z .store true pa leaf 2 → s.isDamaged fpa (if event then 4 else 8) = false → flag % (if event then 4 else 8) = 0 →
     s.Admits flag (if event then 4 else 8) (if event then .flagEvent else .flagMem) fpa fleaf →
     Sends (.stf w) s [w.c, w.d] { s.access w .stf z pa leaf with
       data := s.valueOf [] w.c, flagPa := fpa, flagEv := event, flagKey := leafKey fleaf, flagPlane := s.planeOf s.cur.strand.die fpa
       blocks := [(s.address w).toNat / 65536, flag / 65536] })

/-- R289 to R291: PLD sends a presence read, whose destination waits for a full word; PRST sends a reset and retires; PST sends its fill and holds,
and retires when its home has filled the word; when the home has refused it, it faults WRITE_ONCE. R295, R296: every atomic sends one access of 8
bytes under FMT 000 and 4 otherwise, with its operand C and, for ATCAS, the value of D that it expects; D waits for the old value, sign-extended
under .s32. ATMIN and ATMAX compare as unsigned numbers under .u32. -/
def Obligations.PresenceAndAtomics : Prop :=
  (∀ (w : Fields) (s : State) (pa : Nat) (leaf : Word64),
     (Issues (.pld w) s → s.Reaches w 8 .presLoad false pa leaf → s.isDamaged pa 8 = false →
       Sends (.pld w) s [] { s.access w .pld 8 pa leaf with dest := scalarIndex w.d }) ∧
     (Issues (.prst w) s → s.Reaches w 8 .presStore false pa leaf → Sends (.prst w) s [] (s.access w .prst 8 pa leaf)) ∧
     (Issues (.pst w) s → s.me.pst = none → s.Reaches w 8 .presStore false pa leaf →
       ∃ t, exec (.pst w) s = .next t ∧ t.net = s.net ++ [{ s.access w .pst 8 pa leaf with data := s.valueOf [] w.c }] ∧
         (t.strandOf s).status = .held ∧ (t.strandOf s).pc = s.me.pc ∧ (t.strandOf s).pst = some { access := s.nextAccess, addr := s.me.pc, va := s.address w } ∧ (t.strandOf s).regs = s.me.regs ∧
         t.mem = s.mem ∧ t.task s.cur.strand.task = s.myTask) ∧
     (∀ p, Issues (.pst w) s → s.me.pst = some p → p.addr = s.me.pc → p.refused = some false →
       Completes (.pst w) s { ownEffect s w [w.c] with regs := s.baseAfter w }) ∧
     (∀ p, Issues (.pst w) s → s.me.pst = some p → p.addr = s.me.pc → p.refused = some true → Faults (.pst w) s .writeOnce 2 (s.address w) 0)) ∧
  (∀ (w : Fields) (s : State) (pa : Nat) (leaf : Word64),
     let z : Nat := if w.fmt = 0 then 8 else 4
     let base (kind : AccessKind) : Access := { s.access w kind z pa leaf with
       data := s.valueOf [] w.c, expect := if w.fmt = 2 then 1 else 0, signed := w.fmt == 1, dest := scalarIndex w.d }
     let sends (i : Instr) (a : Access) : Prop := Issues i s → s.Reaches w z .atomic false pa leaf → s.isDamaged pa z = false → Sends i s [w.c] a
     sends (.atadd w) (base .atadd) ∧ sends (.atand w) (base .atand) ∧ sends (.ator w) (base .ator) ∧ sends (.atxor w) (base .atxor) ∧
     sends (.atmin w) (base .atmin) ∧ sends (.atmax w) (base .atmax) ∧ sends (.atswp w) (base .atswp) ∧
     sends (.atfadd w) (base .atfadd) ∧ sends (.atfmax w) (base .atfmax) ∧
     sends (.atcas w) { base .atcas with expect := s.valueOf (queueOf w.c) w.d } ∧
     (Issues (.amaxx w) s → s.Reaches w z .atomic false pa leaf → s.isDamaged pa z = false →
       Sends (.amaxx w) s [] { base .amaxx with data := 0 }))

/-- R261, R276, R297 to R299: FENCE and LFENCE that push no token issue and are outstanding; on Dawn a FENCE wider than the task waits for the
strand's earlier accesses, and LFENCE does. One that pushes waits in its place, and goes on with its PUSH once what it orders is met (the wait in
place is the model's reading of R16, log entry 17). PREF sends a prefetch to a cached leaf of L2 and nothing elsewhere or where it would fault. R286,
R287, R244, R240 (by LDG and STG): a misaligned data address faults MISALIGN; an address at or beyond 2^56 faults XLATE with cause 1; a walk that
failed faults XLATE with the cause and level it found; a leaf that does not admit the use faults PROT or ABSENT with the cause; nothing is sent. A
translation that the tile does not hold makes the word wait for a walk. -/
def Obligations.FencesPrefetchAndFaults : Prop :=
  (∀ (w : Fields) (s : State) (pa : Nat) (leaf : Word64),
     let c := s.cur.strand.core
     let spans : Prop := c = .dawn ∧ w.mod ≠ 0
     let f : FenceWait := { lfence := false, scope := if c = .dawn ∧ w.mod ≠ 0 then scopeOf w.mod else .task, before := if c = .dawn ∧ w.mod ≠ 0 then s.nextAccess else 0 }
     let l : FenceWait := { lfence := true, before := s.nextAccess }
     let fresh : Prop := s.me.fences.find? (fun x => x.own == some s.me.pc) = none
     let waits (i : Instr) (x : FenceWait) : Prop := ∃ t, exec i s = .next t ∧ (t.strandOf s).fences = s.me.fences ++ [{ x with own := some s.me.pc }] ∧
       (t.strandOf s).status = .held ∧ (t.strandOf s).pc = s.me.pc ∧ (t.strandOf s).regs = s.me.regs ∧ t.mem = s.mem ∧ t.net = s.net ∧ t.work = s.work
     let goes (i : Instr) : Prop := ∃ t, exec i s = .next t ∧ (t.strandOf s).fences = s.me.fences.filter (fun x => x.own != some s.me.pc) ∧
       Does (ownEffect s w []) s { t with strands := t.strands.set s.cur.strand { (t.strandOf s) with fences := s.me.fences } }
     (Issues (.fence w) s → (tokenField w.push).2 = 0 → (spans → (s.die s.cur.strand.die).phase = 0) →
       Completes (.fence w) s { ownEffect s w [] with fences := [f] }) ∧
     (Issues (.lfence w) s → (tokenField w.push).2 = 0 → Completes (.lfence w) s { ownEffect s w [] with fences := [l] }) ∧
     (Issues (.fence w) s → (tokenField w.push).2 ≠ 0 → (spans → (s.die s.cur.strand.die).phase = 0) → fresh → waits (.fence w) f) ∧
     (Issues (.lfence w) s → (tokenField w.push).2 ≠ 0 → fresh → waits (.lfence w) l) ∧
     (∀ x, s.me.fences.find? (fun y => y.own == some s.me.pc) = some x → x.met = true → (tokenField w.push).2 ≠ 0 →
       (Issues (.fence w) s → goes (.fence w)) ∧ (Issues (.lfence w) s → goes (.lfence w))) ∧
     (Issues (.pref w) s → s.Reaches w 1 .load true pa leaf → Completes (.pref w) s { ownEffect s w [] with
       regs := s.baseAfter w
       sends := if leafHome leaf = 0 ∧ leafCache leaf = 1 then [s.access w .pref 1 pa leaf] else [] }) ∧
     (∀ x, Issues (.pref w) s → s.me.walk = none → s.incomplete s.cur.strand < 64 →
       (s.die s.cur.strand.die).phase = 0 → s.lookup s.cur.strand (s.address w).toNat = .error (.inl x) →
       Completes (.pref w) s { ownEffect s w [] with regs := s.baseAfter w })) ∧
  (∀ (w : Fields) (s : State),
     let z := accessSize 64 w.fmt.toNat
     let a := s.address w
     let ready : Prop := s.me.walk = none ∧ s.incomplete s.cur.strand < 64 ∧ (s.die s.cur.strand.die).phase = 0
     let dom := (s.load s.myTask.load).domain
     Issues (.ldg w) s → ready →
     (a.toNat % z ≠ 0 → Faults (.ldg w) s .misalign 2 a z) ∧
     (a.toNat % z = 0 → 2 ^ 56 ≤ a.toNat → ∃ d, Faults (.ldg w) s .xlate 2 a d ∧ d / 2 ^ 24 = 1) ∧
     (a.toNat % z = 0 → a.toNat < 2 ^ 56 → s.myTile.cached dom (a.toNat / 65536) = none →
       (∀ cause level, s.me.walkFailed = some (a.toNat / 65536, cause, level) → Faults (.ldg w) s .xlate 2 a (XFault.detail ⟨.xlate, cause, level⟩).toNat) ∧
       (s.me.walkFailed = none → (s.myTile.tcache.length < 2048) →
         ∃ t, exec (.ldg w) s = .next t ∧ (t.strandOf s).status = .held ∧ (t.strandOf s).walk = some (a.toNat / 65536) ∧ (t.strandOf s).pc = s.me.pc ∧
           t.net = s.net ∧ t.mem = s.mem ∧ (t.strandOf s).regs = s.me.regs)) ∧
     (∀ e x, a.toNat % z = 0 → a.toNat < 2 ^ 56 → s.myTile.cached dom (a.toNat / 65536) = some e →
       s.checkPart e.leaf e.level a.toNat z .load dom (s.load s.myTask.load).priv = .error x → Faults (.ldg w) s x.code 2 a x.detail.toNat))

/-! ## Vectors -/

/-- R142 to R146, R134: VLD, VLDS and VLDT admitted by R142 put the element at each lane's swizzled address into its cell, and leave a
post-incremented base; memory is as it was. R141 to R146, R134: VST, VSTS and VSTT admitted by R142 store the low bytes of each cell at its lane's
swizzled address, in increasing row and then column, and leave a post-incremented base; every other byte is as it was. Memory is in its canonical
form. -/
def Obligations.VectorMemory : Prop :=
  (∀ (w : Fields) (s : State) (f : Format), s.myTask.formatAt w.fmt.toNat = some f →
     let loads (i : Instr) (strided trans : Bool) : Prop :=
       let base := s.vectorBase w strided
       let at_ (r c : Nat) : Nat := tilePa s.cur.strand.tileId (elementAt trans (fld w.mod 1 0) f.bytes (s.vectorStride w strided f) base r c)
       Issues i s → s.vectorAdmits w strided trans f → (∀ r c, r < 16 → c < 64 → s.isDamaged (at_ r c) f.bytes = false) →
       Completes i s { ownEffect s w [] with
         regs := s.vectorBaseAfter w strided
         vecs := [(opndIndex w.d, fromCells (fun r c => asCell f (((List.range f.bytes).map (fun k => (Memory.read s.mem (at_ r c + k)).toNat * 256 ^ k)).sum)))] }
     loads (.vld w) false false ∧ loads (.vlds w) true false ∧ loads (.vldt w) true true) ∧
  (∀ (w : Fields) (s : State) (f : Format), s.myTask.formatAt w.fmt.toNat = some f → s.MemoryCanonical → s.VectorsWhole →
     let stores (i : Instr) (strided trans : Bool) : Prop :=
       let base := s.vectorBase w strided
       let at_ (r c : Nat) : Nat := tilePa s.cur.strand.tileId (elementAt trans (fld w.mod 1 0) f.bytes (s.vectorStride w strided f) base r c)
       let v := s.myTask.vec (opndIndex w.c)
       Issues i s → s.vectorAdmits w strided trans f →
       Completes i s { ownEffect s w [] with
         regs := s.vectorBaseAfter w strided
         stores := (List.range 1024).map (fun l => (at_ (l / 64) (l % 64), (List.range f.bytes).map (fun k => (cellAt v (l / 64) (l % 64)).extractLsb' (8 * k) 8))) }
     stores (.vst w) false false ∧ stores (.vsts w) true false ∧ stores (.vstt w) true true)

/-- R139, R148 (with R137, R138): VADD, VSUB, VMUL, VFMA, VMIN, VMAX, VABS and VNEG compute every lane in FMT, rounded once by MOD or clamped or
wrapped, and write D under the word's lane control. -/
def Obligations.VectorArithmetic : Prop :=
  ∀ (w : Fields) (s : State),
    let f := plainFormat w.fmt.toNat
    let m := Rnd.ofMod w.mod.toNat
    let n := decodeNum f
    let A := s.lanesOf [] f w.a
    let B := s.lanesOf [] f w.b
    let C := s.lanesOf [] f w.c
    let one (i : Instr) (fp : Nat → Nat) (int : Int → Int) : Prop :=
      Issues i s → YieldsLanes i s [] (A.map (fun a => laneResult w (fun x _ _ => fp x) (fun x _ _ => int x) a 0 0))
    let two (i : Instr) (fp : Nat → Nat → Nat) (int : Int → Int → Int) : Prop :=
      Issues i s → YieldsLanes i s [] ((A.zip B).map (fun p => laneResult w (fun x y _ => fp x y) (fun x y _ => int x y) p.1 p.2 0))
    two (.vadd w) (fun x y => round ((n x).add m (n y)) f m) (fun x y => x + y) ∧
    two (.vsub w) (fun x y => round ((n x).add m (n y).negate) f m) (fun x y => x - y) ∧
    two (.vmul w) (fun x y => round ((n x).mul (n y)) f m) (fun x y => if w.mod = 2 then x * y / (2 ^ f.bits : Nat) else x * y) ∧
    two (.vmin w) (minMaxCode f false) (fun x y => min x y) ∧ two (.vmax w) (minMaxCode f true) (fun x y => max x y) ∧
    one (.vabs w) (fun x => x % 2 ^ (f.bits - 1)) (fun x => (x.natAbs : Int)) ∧
    one (.vneg w) (fun x => x ^^^ 2 ^ (f.bits - 1)) (fun x => -x) ∧
    (Issues (.vfma w) s → YieldsLanes (.vfma w) s [] ((A.zip (B.zip C)).map (fun p =>
      laneResult w (fun x y z => round (((n x).mul (n y)).add m (n z)) f m) (fun x y z => x * y + z) p.1 p.2.1 p.2.2)))

/-- R149, R151, R153 (with R134, R137, R138): VAND, VOR, VXOR, VSHL, VSHR, VSAR, VSEL, VMOV and VBCS. A shift by the width or more gives zeros, or
sign bits for VSAR. R150, R152 (with R138): VCMP writes each lane's condition to its bit of kd under lane control; KLOG applies its function to all
bits; KMOV copies a mask, inserts or extracts 32 bits, counts the bits, or finds the lowest. -/
def Obligations.VectorBitsMovesAndMasks : Prop :=
  (∀ (w : Fields) (s : State),
     let f := plainFormat w.fmt.toNat
     let A := s.lanesOf [] .raw w.a
     let B := s.lanesOf [] .raw w.b
     let bits (i : Instr) (g : Word32 → Word32 → Word32) : Prop := Issues i s → YieldsLanes i s [] ((A.zip B).map (fun p => g p.1 p.2))
     let shift (i : Instr) (g : (k : Nat) → BitVec k → Nat → BitVec k) : Prop :=
       Issues i s → YieldsLanes i s [] (((s.lanesOf [] f w.a).zip (s.lanesOf [] f w.b)).map (fun p => asCell f (g f.bits (BitVec.ofNat f.bits (codeIn f p.1)) p.2.toNat).toNat))
     bits (.vand w) (fun x y => x &&& y) ∧ bits (.vor w) (fun x y => x ||| y) ∧ bits (.vxor w) (fun x y => x ^^^ y) ∧
     shift (.vshl w) (fun _ x n => x <<< n) ∧ shift (.vshr w) (fun _ x n => x >>> n) ∧ shift (.vsar w) (fun _ x n => x.sshiftRight n) ∧
     (Issues (.vsel w) s → YieldsLanes (.vsel w) s []
       ((A.zip B).zipIdx.map (fun p => if (s.myTask.k.get (opndIndex w.c) 0).getLsbD p.2 then p.1.1 else p.1.2))) ∧
     (Issues (.vmov w) s → YieldsLanes (.vmov w) s [] A) ∧
     (∀ g, s.myTask.formatAt w.fmt.toNat = some g → Issues (.vbcs w) s →
       YieldsLanes (.vbcs w) s [w.a] (List.replicate 1024 (asCell g ((s.valueA w).toNat % 2 ^ g.bits))))) ∧
  (∀ (w : Fields) (s : State), s.VectorsWhole →
     let f := plainFormat w.fmt.toNat
     let a (l : Nat) : Word32 := (s.lanesOf [] f w.a).getD l 0
     let b (l : Nat) : Word32 := (s.lanesOf [] f w.b).getD l 0
     let k (o : Opnd) : BitVec 1024 := s.myTask.k.get (opndIndex o) 0
     let cond (x y : Word32) : Bool :=
       let u := BitVec.ofNat f.bits (codeIn f x)
       let v := BitVec.ofNat f.bits (codeIn f y)
       let p := decodeNum f (codeIn f x)
       let q := decodeNum f (codeIn f y)
       let un := p.isNan || q.isNan
       if isFloating w.fmt then
         (match w.mod.toNat with
           | 0 => !un && p.eq q
           | 1 => un || !p.eq q
           | 2 => !un && p.lt q
           | 3 => !un && (p.lt q || p.eq q)
           | 4 => un
           | _ => !un)
       else
         match w.mod.toNat with
           | 0 => u == v
           | 1 => u != v
           | 2 => u.slt v
           | 3 => u.sle v
           | 4 => u.ult v
           | 5 => u.ule v
           | 6 => u &&& v != 0
           | _ => u &&& v == 0
     let logic : BitVec 1024 := match w.mod.toNat with
       | 0 => k w.a &&& k w.b
       | 1 => k w.a ||| k w.b
       | 2 => k w.a ^^^ k w.b
       | 3 => k w.a &&& ~~~(k w.b)
       | 4 => ~~~(k w.a &&& k w.b)
       | 5 => ~~~(k w.a ||| k w.b)
       | 6 => ~~~(k w.a ^^^ k w.b)
       | _ => k w.a ||| ~~~(k w.b)
     let word := 32 * (s.valueB w).toNat % 1024
     let first := ((List.range 1024).find? (fun l => (k w.a).getLsbD l)).getD 1024
     (Issues (.vcmp w) s → ∃ r : BitVec 1024, (∀ l, l < 1024 → r.getLsbD l = cond (a l) (b l)) ∧
       Completes (.vcmp w) s { ownEffect s w [] with masks := [(opndIndex w.d, s.maskUnder w r)] }) ∧
     (Issues (.klog w) s → Completes (.klog w) s { ownEffect s w [] with masks := [(opndIndex w.d, logic)] }) ∧
     (Issues (.kmov w) s → w.mod = 0 → Completes (.kmov w) s { ownEffect s w [] with masks := [(opndIndex w.d, k w.a)] }) ∧
     (Issues (.kmov w) s → w.mod = 1 → ∃ r : BitVec 1024,
       (∀ l, l < 1024 → r.getLsbD l = if word ≤ l ∧ l < word + 32 then (s.valueA w).getLsbD (l - word) else (k w.d).getLsbD l) ∧
       Completes (.kmov w) s { ownEffect s w [w.a, w.b] with masks := [(opndIndex w.d, r)] }) ∧
     (Issues (.kmov w) s → w.mod = 2 → Yields (.kmov w) s [w.b]
       (((k w.a).extractLsb' (32 * (((s.valueOf [] w.b).toNat) % 32)) 32).setWidth 64)) ∧
     (Issues (.kmov w) s → w.mod = 3 → Yields (.kmov w) s [] (BitVec.ofNat 64 (((List.range 1024).filter (fun l => (k w.a).getLsbD l)).length))) ∧
     (Issues (.kmov w) s → w.mod = 4 → Yields (.kmov w) s [] (BitVec.ofNat 64 first)))

/-- R154, R155, R156 (with R134, R138): VEXTR, VINS, VSWZ, VROTR, VROTC, VBCR and VBCC, cell by cell. R157, R158 (with R134, R138): VREDR and VREDC
give every cell of a row or column the value that the halving of R157 leaves in t[0]; VSCNR and VSCNC give each cell the value that the doubling of
R158 leaves there. -/
def Obligations.PermutesAndReductions : Prop :=
  (∀ (w : Fields) (s : State), s.VectorsWhole →
     let A := s.myTask.vec (opndIndex w.a)
     let B := s.myTask.vec (opndIndex w.b)
     let n := (s.valueOf [] w.b).toNat
     let yields (i : Instr) (g : Nat → Nat → Word32) : Prop := Issues i s → YieldsLanes i s [w.b] (fromCells g)
     (Issues (.vextr w) s → (1024 * opndIndex w.a + n % 1024) ∉ s.myTask.badV → Yields (.vextr w) s [w.b] ((A.getD (n % 1024) 0).setWidth 64)) ∧
     (Issues (.vins w) s → Completes (.vins w) s { ownEffect s w [w.a, w.b] with
       vecs := [(opndIndex w.d, (s.myTask.vec (opndIndex w.d)).zipIdx.map (fun x =>
         if x.2 = (s.valueB w).toNat % 1024 then (s.valueA w).extractLsb' 0 32 else x.1))] }) ∧
     (w.mod = 0 → yields (.vswz w) (fun r c => cellAt A r ((cellAt B r c).toNat % 64))) ∧
     (w.mod = 1 → yields (.vswz w) (fun r c => cellAt A ((cellAt B r c).toNat % 16) c)) ∧
     (w.mod = 2 → yields (.vswz w) (fun r c => cellAt A r (c ^^^ (n % 64)))) ∧
     (w.mod = 0 → yields (.vrotr w) (fun r c => cellAt A r ((c + 64 - n % 64) % 64))) ∧
     (w.mod = 1 → yields (.vrotr w) (fun r c => if n ≤ c then cellAt A r (c - n) else 0)) ∧
     (w.mod = 0 → yields (.vrotc w) (fun r c => cellAt A ((r + 16 - n % 16) % 16) c)) ∧
     (w.mod = 1 → yields (.vrotc w) (fun r c => if n ≤ r then cellAt A (r - n) c else 0)) ∧
     yields (.vbcr w) (fun r _ => cellAt A r (n % 64)) ∧ yields (.vbcc w) (fun _ c => cellAt A (n % 16) c)) ∧
  (∀ (w : Fields) (s : State), s.VectorsWhole →
     let f := plainFormat w.fmt.toNat
     let A := s.myTask.vec (opndIndex w.a)
     let comb := combining w w.mod.toNat
     let elem (x : Word32) : Word32 :=
       if w.mod = 3 then
         (if isFloating w.fmt then asCell f (codeIn f x % 2 ^ (f.bits - 1)) else intCell f 1 ((intIn f x).natAbs : Int))
       else asCell f (codeIn f x)
     let plain (x : Word32) : Word32 := asCell f (codeIn f x)
     let row (r : Nat) (i : Nat) : Word32 := if w.mod = 3 then (if i = 0 then 0 else plain (cellAt A r (i - 1))) else plain (cellAt A r i)
     let col (c : Nat) (i : Nat) : Word32 := if w.mod = 3 then (if i = 0 then 0 else plain (cellAt A (i - 1) c)) else plain (cellAt A i c)
     let sum := combining w (if w.mod = 3 then 0 else w.mod.toNat)
     (Issues (.vredr w) s → YieldsLanes (.vredr w) s [] (fromCells (fun r _ => halved comb [32, 16, 8, 4, 2, 1] (fun i => elem (cellAt A r i))))) ∧
     (Issues (.vredc w) s → YieldsLanes (.vredc w) s [] (fromCells (fun _ c => halved comb [8, 4, 2, 1] (fun i => elem (cellAt A i c))))) ∧
     (Issues (.vscnr w) s → YieldsLanes (.vscnr w) s [] (fromCells (fun r c => doubled sum [1, 2, 4, 8, 16, 32] (row r) c))) ∧
     (Issues (.vscnc w) s → YieldsLanes (.vscnc w) s [] (fromCells (fun r c => doubled sum [1, 2, 4, 8] (col c) r))))

/-- R159, R160, R161 (with R127, R134): VCVT, VQNT and VDQNT complete, under conditions on the state and the operands alone: the word issues, and an
nf register that it names as a format is not 0. VCVT converts each lane between two formats, codes of one format staying as they are; VQNT scales
each group by its own current scale, codes into D and scale codes into C; VDQNT multiplies each code by its group's scale and rounds. R162: VEXP,
VLOG, VRCP, VRSQ and VTANH complete in every state in which they issue: they round the value of their function once in each lane and write D under
the word's lane control, with the special operands of R162's table: NaN gives NaN; exp of -∞ is +0; ln of ±0 is -∞ and of a negative number NaN; 1/±0
is ±∞; 1/√ of ±0 is ±∞; tanh of ±∞ is ±1. The value of a transcendental function is the model's fixed-point approximation of it (log entry 6). -/
def Obligations.ConversionsAndFunctions : Prop :=
  (∀ (w : Fields) (s : State), s.VectorsWhole →
     let m := Rnd.ofMod w.mod.toNat
     let g := 32 * 2 ^ fld w.e 11 10
     let A := s.myTask.vec (opndIndex w.a)
     let group (src d : Format) (j : Nat) : Nat × List Nat :=
       currentScale d m (((A.drop (g * j)).take g).map (fun x => decodeNum src (codeIn src x)))
     (∀ d f, s.myTask.formatAt w.fmt.toNat = some d → s.myTask.formatAt (fld w.e 9 6) = some f → Issues (.vcvt w) s →
       ∃ t, exec (.vcvt w) s = .next t ∧ Does { ownEffect s w [] with
         vecs := [(opndIndex w.d, s.underMask w ((s.lanesOf [] f w.a).map (fun x =>
           asCell d (if f = d then codeIn f x else convertCode f d w.mod.toNat (codeIn f x)))))] } s t) ∧
     (∀ d, s.myTask.formatAt w.fmt.toNat = some d → Issues (.vqnt w) s →
       let src := plainFormat (fld w.e 9 6)
       ∃ t, exec (.vqnt w) s = .next t ∧ Does { ownEffect s w [] with
         vecs := [(opndIndex w.d, (List.range (1024 / g)).flatMap (fun j => (group src d j).2.map (asCell d))),
                  (opndIndex w.c, (List.range 1024).map (fun j => if j < 1024 / g then BitVec.ofNat 32 (group src d j).1 else 0))] } s t) ∧
     (∀ f, s.myTask.formatAt (fld w.e 9 6) = some f → Issues (.vdqnt w) s →
       let d := plainFormat w.fmt.toNat
       let scale (l : Nat) : Nat := (((s.myTask.vec (opndIndex w.c)).getD (l / g) 0).toNat) % 256
       ∃ t, exec (.vdqnt w) s = .next t ∧ Does { ownEffect s w [] with
         vecs := [(opndIndex w.d, A.zipIdx.map (fun x => asCell d (if scale x.2 = 0xFF then d.nanCode
           else round ((decodeNum f (codeIn f x.1)).scale ((scale x.2 : Int) - 127)) d m)))] } s t)) ∧
  (∀ (w : Fields) (s : State),
     let f := plainFormat w.fmt.toNat
     let A := s.lanesOf [] f w.a
     let lanes (g : Machine.Num → Machine.Num × Bool) : Effect := { ownEffect s w [] with vecs := [(opndIndex w.d, s.underMask w
       (A.map (fun x => asCell f (round (g (decodeNum f (codeIn f x))).1 f (Rnd.ofMod w.mod.toNat) (g (decodeNum f (codeIn f x))).2))))] }
     (Issues (.vexp w) s → ∃ t, exec (.vexp w) s = .next t ∧ Does (lanes nearExp) s t) ∧
     (Issues (.vlog w) s → ∃ t, exec (.vlog w) s = .next t ∧ Does (lanes nearLog) s t) ∧
     (Issues (.vrcp w) s → ∃ t, exec (.vrcp w) s = .next t ∧ Does (lanes (fun x => (Machine.Num.fin false 1 0).div x)) s t) ∧
     (Issues (.vrsq w) s → ∃ t, exec (.vrsq w) s = .next t ∧ Does (lanes nearRsq) s t) ∧
     (Issues (.vtanh w) s → ∃ t, exec (.vtanh w) s = .next t ∧ Does (lanes nearTanh) s t) ∧
     (∀ g ∈ [nearExp, nearLog, nearRsq, nearTanh], g .nan = (.nan, false)) ∧
     (∀ n e, nearExp (.fin n 0 e) = (.fin false 1 0, false) ∧ nearLog (.fin n 0 e) = (.inf true, false) ∧ nearRsq (.fin n 0 e) = (.inf n, false) ∧
       nearTanh (.fin n 0 e) = (.fin n 0 0, false)) ∧
     (∀ m e, m ≠ 0 → nearLog (.fin true m e) = (.nan, false) ∧ nearRsq (.fin true m e) = (.nan, false)) ∧
     nearExp (.inf false) = (.inf false, false) ∧ nearExp (.inf true) = (.fin false 0 0, false) ∧ nearLog (.inf false) = (.inf false, false) ∧
     nearLog (.inf true) = (.nan, false) ∧ nearRsq (.inf false) = (.fin false 0 0, false) ∧ nearRsq (.inf true) = (.nan, false) ∧
     (∀ n, nearTanh (.inf n) = (.fin n 1 0, false)))

/-! ## Ports and engine commands -/

/-- R163, R164 (with R134): VPOP on a bound port that no Serac command names takes what R164 says of the queue, writes the elements, or their
dequantised values under MOD 010, into the first lanes and zeros into the rest of its rows, under MOD 001 the scale codes into C (D and C different),
and the code in force into the port's scale register. R164, R163: VPOP with poison before its last element faults POISON_IN at the port operand, with
the origin word and the port code, and takes nothing; with neither enough elements nor an end-of-stream it is held. -/
def Obligations.PortsPop : Prop :=
  (∀ (w : Fields) (s : State) (f : Format) (taken rest : List Tok), s.VectorsWhole → s.myTask.formatAt w.fmt.toNat = some f →
     let p := s.operandPort false w.a
     let m := 64 * (s.valueOf [] w.b).toNat
     let xs := scaledElems taken (s.port p).scale
     let codes := scaleCodes taken
     let cell (x : Word32 × BitVec 8) : Word32 :=
       if w.mod = 2 then BitVec.ofNat 32 (round (scaled (decodeNum f (codeIn f x.1)) x.2.toNat) .f32 .rne) else asCell f (codeIn f x.1)
     let old (o : Opnd) (l : Nat) : Word32 := (s.myTask.vec (opndIndex o)).getD l 0
     let lanes := (List.range 1024).map (fun l => if l < xs.length then cell (xs.getD l (0, 0)) else if l < m then 0 else old w.d l)
     let scales := (List.range 1024).map (fun l => if l < codes.length then (codes.getD l 0).setWidth 32 else old w.c l)
     Issues (.vpop w) s → (s.boundTo p).isSome = true → seracNames s.myTask (opndPort w.a) = false →
     1 ≤ (s.valueOf [] w.b).toNat → (s.valueOf [] w.b).toNat ≤ 16 → portAgrees s.myTask w false (s.portType p) = true →
     PopTakes (s.inToks p) m taken rest → (w.mod = 1 → opndIndex w.c ≠ opndIndex w.d) →
     Completes (.vpop w) s { ownEffect s w [w.b] with
       vecs := (opndIndex w.d, lanes) :: (if w.mod = 1 then [(opndIndex w.c, scales)] else [])
       streams := takingTokens p taken.length (codes.getLastD (s.port p).scale) }) ∧
  (∀ (w : Fields) (s : State) (taken rest : List Tok),
     let p := s.operandPort false w.a
     let n := (s.valueOf [] w.b).toNat
     Issues (.vpop w) s → (s.myTask.formatAt w.fmt.toNat).isSome = true → (s.boundTo p).isSome = true → seracNames s.myTask (opndPort w.a) = false →
     1 ≤ n → n ≤ 16 → portAgrees s.myTask w false (s.portType p) = true → s.inToks p = taken ++ rest → elemCount taken < 64 * n →
     (∀ t ∈ taken, t ≠ .eos ∧ ∀ o, t ≠ .poison o) →
     (∀ o, rest.head? = some (.poison o) → Faults (.vpop w) s .poisonIn 2 o (0x10 + opndPort w.a)) ∧
     (rest = [] → ∃ t, exec (.vpop w) s = .next t ∧ (t.strandOf s).status = .held ∧ (t.strandOf s).heldBy = some (.port p) ∧ (t.strandOf s).pc = s.me.pc ∧
       t.task s.cur.strand.task = s.myTask ∧ t.chans = s.chans ∧ t.ports = s.ports))

/-- R163, R165, R128 (with R334, R450): VPUSH with room sends lanes 0 to m - 1 in order, as they stand, with a scale token before each group under
MOD 001, or quantised against the port's scale register under MOD 010; PSCL writes the port's scale register and, on an output port of a delayed
channel, sends the code; PEOS and PORD send their token. -/
def Obligations.PortsPush : Prop :=
  ∀ (w : Fields) (s : State) (f : Format), s.myTask.formatAt w.fmt.toNat = some f →
    let p := s.operandPort true w.d
    let n := (s.valueOf [] w.b).toNat
    let a := (s.myTask.vec (opndIndex w.a)).take (64 * n)
    let g := (typeGroup (s.portType p)).getD 1
    let count := (s.port p).sclCount
    let code (j : Nat) : BitVec 8 := ((s.myTask.vec (opndIndex w.c)).getD j 0).extractLsb' 0 8
    let plain := a.map (fun x => Tok.elem (BitVec.ofNat 32 (codeIn f x)))
    let quant := a.foldl (fun (acc : List Tok × Word64) x =>
      let q := delayedQuant f .rne (s.port p).scale.toNat (decodeNum .f32 x.toNat) acc.2
      (acc.1 ++ [.elem (BitVec.ofNat 32 q.1)], q.2)) ([], (s.port p).status)
    let groups (l : Nat) : Nat := ((List.range l).filter (fun i => (count + i) % g = 0)).length
    let grouped := a.zipIdx.flatMap (fun x => (if (count + x.2) % g = 0 then [.scale (code (groups x.2))] else []) ++
      [Tok.elem (BitVec.ofNat 32 (codeIn f x.1))])
    let toks := if w.mod = 1 then grouped else if w.mod = 2 then quant.1 else plain
    let q := s.fieldPort w
    let v := (s.valueOf [] w.a).extractLsb' 0 8
    (Issues (.vpush w) s → s.VectorsWhole → 1 ≤ n → n ≤ 16 → portAgrees s.myTask w true (s.portType p) = true →
      (∃ id c, s.boundTo p = some (id, c) ∧ (sendBeats c toks).length ≤ c.room) →
      Completes (.vpush w) s { ownEffect s w [w.b] with streams := fun u => (u.sendOn p toks).updPort p (fun y =>
        { y with sclCount := if w.mod = 1 then (count + 64 * n) % g else y.sclCount, status := if w.mod = 2 then quant.2 else y.status }) }) ∧
    (Issues (.pscl w) s → s.delayedOut q = false →
      Completes (.pscl w) s { ownEffect s w [w.a] with streams := fun u => u.updPort q (fun y => { y with scale := v }) }) ∧
    (Issues (.pscl w) s → s.delayedOut q = true → 1 ≤ s.roomAt q →
      Completes (.pscl w) s { ownEffect s w [w.a] with streams := fun u => (u.sendOn q [.pscl v]).updPort q (fun y => { y with scale := v }) }) ∧
    (Issues (.peos w) s → 1 ≤ s.roomAt p → Completes (.peos w) s { ownEffect s w [] with streams := fun u => u.sendOn p [.eos] }) ∧
    (Issues (.pord w) s → 1 ≤ s.roomAt p → Completes (.pord w) s { ownEffect s w [] with streams := fun u => u.sendOn p [.order] })

/-- R341, R343 to R346: PTHR sets a port's threshold and counter and clears its count; PSTAT reads the status word, the count of elements or half of
the scale status word; PTST tests room or occupancy, an end-of-stream or a poison at the head; PDRN takes the queue up to and with an end-of-stream
and says whether there was one; PTYP reads a type word, 0 for a port without a channel. -/
def Obligations.PortReads : Prop :=
  ∀ (w : Fields) (s : State),
    let p := s.fieldPort w
    let v := (s.valueOf [] w.b).extractLsb' 0 32
    let head := (s.inToks p).head?
    let bound := (s.boundTo p).isSome
    let chan : Channel := ((s.boundTo p).map Prod.snd).getD {}
    let status : Nat := if bound = false then 0
      else if p.out then 2 ^ 31 + (if chan.dests.any (fun d => d.off) then 2 ^ 28 else 0) + min 65535 chan.outq.length
      else 2 ^ 31 + (if head = some .eos then 2 ^ 30 else 0) + (if ∃ o, head = some (.poison o) then 2 ^ 29 else 0) + min 65535 (s.inQueue p).occupancy
    let scaleStatus : Word64 := if bound = false then 0 else if p.out then (s.port p).status
      else if chan.stype ≠ chan.dtype ∧ typeSkind chan.dtype = 3 then chan.status else 0
    let test : Bool := bound && (match w.mod.toNat with
      | 0 => if p.out then decide (v.toNat ≤ s.roomAt p) else decide (v.toNat ≤ (s.inQueue p).occupancy)
      | 1 => head == some .eos
      | _ => match head with | some (.poison _) => true | _ => false)
    let i := s.operandPort false w.a
    (Issues (.pthr w) s → v.toNat < 65536 → Completes (.pthr w) s { ownEffect s w [w.b] with
      streams := fun u => u.updPort p (fun y => { y with threshold := v.extractLsb' 0 16, counter := s.myTask.evBase + opndIndex w.a, count := 0 }) }) ∧
    (Issues (.pstat w) s → Yields (.pstat w) s [] (match w.mod.toNat with
      | 0 => BitVec.ofNat 64 status
      | 1 => (s.port p).moved.setWidth 64
      | 2 => (scaleStatus.extractLsb' 0 32).setWidth 64
      | _ => (scaleStatus.extractLsb' 32 32).setWidth 64)) ∧
    (Issues (.ptst w) s → Completes (.ptst w) s { ownEffect s w (if w.mod = 0 then [w.b] else []) with
      preds := [(opndIndex w.d, test), (opndIndex w.c, !test)] }) ∧
    (∀ taken rest, Issues (.pdrn w) s → seracNames s.myTask (opndPort w.a) = false → s.inToks i = taken ++ rest →
      (∀ t ∈ taken.dropLast, t ≠ .eos) → (∀ t ∈ taken, ∀ o, t ≠ .poison o) → (taken.getLast? = some .eos ∨ (rest = [] ∧ Tok.eos ∉ taken)) →
      Completes (.pdrn w) s (({ ownEffect s w [] with streams := takingTokens i taken.length ((scaleCodes taken).getLastD (s.port i).scale) } : Effect).toDest
        s.cur.strand.core w.d (if taken.getLast? = some .eos then 1 else 0))) ∧
    (Issues (.ptyp w) s → Yields (.ptyp w) s []
      ((if bound = false then (0 : Word32) else if p.out != (w.mod == 1) then chan.stype else chan.dtype).setWidth 64))

/-- R170, R183 to R190 (with R16, R215): SMM, SMMZ, SACCRD, SACCWR, SACCZ, SSCL, SMODE, SACCV and SVACC enter Serac's queue with the values that R183
captures; SPROG reads PROG, POISON and BUSY of a tile at once. R198 to R203 (with R16, R215): SBFLY, SCHAIN, SSTR and SBWL enter Serac's queue: a
configuration word that R199 and R203 admit, a MOD of theirs, tile ranges within the declared tiles that overlap only as R203 admits, and the handle
words of operands in scalar-register form. -/
def Obligations.SeracCommandsEnter : Prop :=
  (∀ (w : Fields) (s : State),
     let a := s.valueOf [] w.a
     let b := s.valueOf [] w.b
     let c := s.valueOf [] w.c
     let low (v : Word64) : Word64 := (v.extractLsb' 0 32).setWidth 64
     let ty (o : Opnd) : Word32 := s.portType (s.operandPort false o)
     let fits (o : Opnd) : Prop := match o with
       | .queue _ => (s.boundTo (s.operandPort false o)).isSome = true ∧ smmFormat (typeFmt (ty o)) = true ∧ typeSkind (ty o) < 2 ∧
           (typeSkind (ty o) = 1 → (low c).toNat % 65536 % (32 * 2 ^ typeGsz (ty o)) = 0)
       | _ => True
     let taken (o : Opnd) : Word64 := match o with | .queue _ => 0 | o => s.valueOf [] o
     let apart : Prop := ∀ x y, w.a = .queue x → w.b = .queue y → portNumber x ≠ portNumber y
     let q := (low b).toNat
     let n := (low (s.valueOf (queueOf w.b) w.c)).toNat
     let acc := s.myTask.acc.get (opndIndex w.a) {}
     (∀ i, i = .smm w ∨ i = .smmz w → Issues i s → fits w.a → fits w.b → apart →
       Enqueues i s {} { blankCommand i with va := taken w.a, vb := taken w.b, vc := low c }) ∧
     (Issues (.saccrd w) s → c.toNat < 65536 → Enqueues (.saccrd w) s {} { blankCommand (.saccrd w) with vb := b, vc := c }) ∧
     (Issues (.saccwr w) s → b.toNat < 65536 → Enqueues (.saccwr w) s {} { blankCommand (.saccwr w) with va := a, vb := b }) ∧
     (Issues (.saccz w) s → Enqueues (.saccz w) s {} (blankCommand (.saccz w))) ∧
     (Issues (.sscl w) s → a.toNat < 256 → Enqueues (.sscl w) s { pops := queueOf w.a } { blankCommand (.sscl w) with va := a }) ∧
     (Issues (.smode w) s → a.toNat < 4 → Enqueues (.smode w) s { pops := queueOf w.a } { blankCommand (.smode w) with va := a }) ∧
     (∀ i v, (i = .saccv w ∧ v = opndIndex w.d) ∨ (i = .svacc w ∧ v = opndIndex w.a) → Issues i s → 1 ≤ n → q + n ≤ 16 →
       v + n ≤ s.myTask.hdr.vframe → v + n ≤ 1024 → (∀ k, k < n → pendingVec s.myTask (v + k) (i == .saccv w) = false) →
       Enqueues i s { pops := queueOf w.b ++ queueOf w.c } { blankCommand i with vb := BitVec.ofNat 64 q, vc := BitVec.ofNat 64 n }) ∧
     (Issues (.sprog w) s → acc.badState = false → Yields (.sprog w) s []
       (BitVec.ofNat 64 ((if acc.busy then 2 ^ 17 else 0) + (if acc.poison then 2 ^ 16 else 0) + acc.prog.toNat)))) ∧
  (∀ (w : Fields) (s : State),
     let a := s.valueOf [] w.a
     let b := s.valueOf (queueOf w.a) w.b
     let cfg := ((s.valueOf [] w.c).extractLsb' 0 32).setWidth 64
     let handle (o : Opnd) : Word64 := match o with | .scalar _ _ => s.valueOf [] o | _ => 0
     let logn := fld cfg 3 0
     let stages := fld cfg 19 16
     let first := fld cfg 15 12
     let sound (chain : Bool) : Prop := cfg.getLsbD 31 = false ∧ cfg.getLsbD 11 = false ∧ 1 ≤ logn ∧ logn ≤ 14 ∧
       (if chain then first + stages ≤ 15 ∧ (fld cfg 30 28 = 0 ∨ stages ≠ 0) else stages = 0 ∧ fld cfg 30 28 = 0 ∧ first < logn)
     let n := (b.extractLsb' 0 32).toNat
     (∀ i chain, (i = .sbfly w ∧ chain = false) ∨ (i = .schain w ∧ chain = true) → Issues i s → sound chain →
       (formOf .dusk i).mods.contains w.mod.toNat = true → rangeTrap (opOf i) w s.myTask.hdr.accs (tileRanges w cfg) = none →
       Enqueues i s {} { blankCommand i with vd := handle w.d, va := handle w.a, vb := handle w.b, vc := cfg }) ∧
     (Issues (.sstr w) s → 1 ≤ n → n ≤ 8 → opndIndex w.d + n ≤ 16 →
       Enqueues (.sstr w) s { pops := queueOf w.a ++ queueOf w.b } { blankCommand (.sstr w) with va := a, vb := BitVec.ofNat 64 n }) ∧
     (Issues (.sbwl w) s → Enqueues (.sbwl w) s {} { blankCommand (.sbwl w) with va := a, vb := s.valueOf [] w.b }))

/-- R304 to R318 (with R16, R215, R241): the Moraine commands enter their queue with the values and the descriptor captured at issue and the
translations of their extents pinned; MSTAT reads half of a status slot. -/
def Obligations.MoraineCommandsEnter : Prop :=
  ∀ (w : Fields) (s : State),
    let d := s.valueOf [] w.d
    let a := s.valueOf [] w.a
    let b := s.valueOf [] w.b
    let c := s.valueOf (queueOf w.b) w.c
    let shape := s.valueOf [] w.b
    let ty (out : Bool) : Word32 := s.portType (streamerPort s.cur.strand.tileId out b.toNat)
    let scl := w.mod.getLsbD 1
    let streams (i : Instr) (out : Bool) : Prop := Issues i s → b.toNat < 16 →
      (∃ x, s.boundTo (streamerPort s.cur.strand.tileId out b.toNat) = some x ∧ x.1.load = s.myTask.load) → c.toNat < 2 ^ 32 → formatMatches s.myTask w.fmt.toNat (ty out) = true → (scl = true ↔ typeSkind (ty out) = 1 ∨ typeSkind (ty out) = 2) →
      (scl = true → w.fmt ≠ 0 ∧ w.fmt ≠ 14) →
      EnqueuesMoraine i s [w.b, w.c] { blankCommand i with vd := if scl then d else 0, va := a, vb := b, vc := c }
    (Issues (.mcpy w) s → b.toNat < 2 ^ 32 → EnqueuesMoraine (.mcpy w) s [w.b] { blankCommand (.mcpy w) with vd := d, va := a, vb := b }) ∧
    (Issues (.mfill w) s → b.toNat < 2 ^ 32 → EnqueuesMoraine (.mfill w) s [w.b, w.c] { blankCommand (.mfill w) with vd := d, vb := b, vc := c }) ∧
    (Issues (.mcpy2 w) s → fld shape 63 48 = 0 → fld shape 31 0 ≤ 2 ^ 24 →
      EnqueuesMoraine (.mcpy2 w) s [] { blankCommand (.mcpy2 w) with vd := d, va := a, desc := nestOfShape shape (s.valueOf [] w.c) }) ∧
    (∀ x, Issues (.mnest w) s → s.Describes b.toNat 1 nestBad x →
      EnqueuesMoraine (.mnest w) s [] { blankCommand (.mnest w) with vd := d, va := a, desc := x }) ∧
    (∀ x, Issues (.mgth w) s → s.Describes (s.valueOf [] w.c).toNat 2 indexBad x →
      EnqueuesMoraine (.mgth w) s [] { blankCommand (.mgth w) with vd := d, va := a, vb := b, desc := x }) ∧
    (∀ x, Issues (.msct w) s → s.Describes (s.valueOf [] w.c).toNat 2 indexBad x →
      EnqueuesMoraine (.msct w) s [] { blankCommand (.msct w) with vd := d, va := a, vb := b, desc := x }) ∧
    (∀ x, Issues (.mspg w) s → s.Describes (s.valueOf [] w.c).toNat 3 sparseBad x →
      EnqueuesMoraine (.mspg w) s [] { blankCommand (.mspg w) with vd := d, va := a, vb := b, desc := x }) ∧
    streams (.mm2c w) true ∧ streams (.mc2m w) false ∧
    (Issues (.mstat w) s → a.toNat < 16 → Yields (.mstat w) s [w.a]
      (let v := s.myTask.slots.get a.toNat 0
       if w.mod = 0 then v.extractLsb' 0 64 else v.extractLsb' 64 64))

/-! ## System words and exceptions -/

/-- R391, R392 (with R256, R247, R377, R396, R394, R449): SYSRD gives D the register of its number, on Dusk one half of it. R391, R392 (with R377,
R247, R394, R396): SYSWR in a privileged load writes the register of its number on the strand's die, all of it on Dawn and one half on Dusk; a write
to XINV dw1 starts an invalidation on Dawn or as the upper half on Dusk, unless 16 are outstanding; DDWIN takes only 16 to 30; a register that a
privileged load does not write is left. -/
def Obligations.SystemRegisters : Prop :=
  (∀ (w : Fields) (s : State),
     let die := s.cur.strand.die
     let d := s.die die
     let half (v : Word64) : Word64 := match s.cur.strand.core with
       | .dawn => v
       | .dusk => ((if w.mod = 1 then v.extractLsb' 32 32 else v.extractLsb' 0 32)).setWidth 64
     let reads (n : Nat) (v : Word64) : Prop := fld w.e 11 0 = n → Yields (.sysrd w) s [] (half v)
     Issues (.sysrd w) s →
     reads 0x000 d.plstat ∧ (∀ k, k < 8 → reads (0x010 + k) (pmapWord d.pmap k)) ∧ (∀ k, k < 8 → reads (0x018 + k) 0) ∧
     reads 0x020 0 ∧ reads 0x021 0 ∧ reads 0x022 (d.issued ++ d.done) ∧ reads 0x030 d.fqbase ∧
     reads 0x031 ((BitVec.ofBool d.fqEnable ++ d.fqLogsize ++ d.fqVector : BitVec 17) ++ (0 : BitVec 47)) ∧
     reads 0x032 (d.fqHead ++ d.fqTail) ∧ reads 0x033 0 ∧ reads 0x034 0 ∧ reads 0x035 (d.fqAccepted ++ d.fqLast.setWidth 32) ∧
     reads 0x040 (d.ddwin.setWidth 64) ∧ (∀ p k, p < 2 → k < 2 → reads (0x050 + 2 * p + k) (d.frzstat p k)) ∧ reads 0x060 (d.tilehalt.setWidth 64) ∧
     reads 0x070 (d.dbgen.setWidth 64) ∧ reads 0x080 (d.pwrtile.setWidth 64) ∧ reads 0x081 (d.pwrreg.setWidth 64)) ∧
  (∀ (w : Fields) (s : State),
     let die := s.cur.strand.die
     let v := s.valueOf [] w.a
     let new (old : Word64) : Word64 := match s.cur.strand.core with
       | .dawn => v
       | .dusk => if w.mod = 1 then v.extractLsb' 0 32 ++ old.extractLsb' 0 32 else old.extractLsb' 32 32 ++ v.extractLsb' 0 32
     let starts : Bool := s.cur.strand.core == .dawn || w.mod == 1
     let writes (n : Nat) (f : Die → Die) : Prop := fld w.e 11 0 = n →
       Completes (.syswr w) s { ownEffect s w [w.a] with dies := fun k d => if k = die then f d else d }
     Issues (.syswr w) s →
     writes 0x020 (fun d => { d with xinv0 := new d.xinv0 }) ∧
     writes 0x021 (fun d => if starts = false ∨ d.issued - d.done = 16 then d else { d with
       issued := d.issued + 1
       invs := d.invs ++ [{ domain := d.xinv0.extractLsb' 56 8, block := fld d.xinv0 55 16, nblk := (new 0).extractLsb' 32 32 }] }) ∧
     writes 0x030 (fun d => if d.fqEnable then d else { d with fqbase := new d.fqbase }) ∧
     writes 0x031 (fun d => d.writeFqctl (new ((BitVec.ofBool d.fqEnable ++ d.fqLogsize ++ d.fqVector : BitVec 17) ++ (0 : BitVec 47)))) ∧
     writes 0x032 (fun d => { d with fqTail := (new (d.fqHead ++ d.fqTail)).extractLsb' 0 32 }) ∧
     writes 0x033 (fun d => { d with fqResp0 := new d.fqResp0 }) ∧
     writes 0x040 (fun d => let x := (new (d.ddwin.setWidth 64)).extractLsb' 0 6; if 16 ≤ x ∧ x ≤ 30 then { d with ddwin := x } else d) ∧
     writes 0x060 (fun d => { d with tilehalt := (new (d.tilehalt.setWidth 64)).extractLsb' 0 24 }) ∧
     writes 0x070 (fun d => { d with dbgen := (new (d.dbgen.setWidth 64)).extractLsb' 0 24 }) ∧
     (∀ n, n = 0 ∨ (0x10 ≤ n ∧ n < 0x20) ∨ n = 0x22 ∨ n = 0x35 ∨ (0x50 ≤ n ∧ n < 0x54) ∨ n = 0x80 ∨ n = 0x81 → writes n id))

/-- R393, R395, R396, R447: SETSTK sets the stack window when it is aligned and inside the allocation; MONCFG sets a monitor counter; MONRD reads
one, of which a counter that counts what the model does not show holds a free value (log entry 4); HALT halts its tile. R394 (with R32, R34): TRAP
faults TRAP with A as INFO and E as DETAIL, and resumes behind itself; BKPT faults BKPT in the same way on a tile whose DBGEN bit is set, and does
nothing elsewhere. -/
def Obligations.TrapsMonitorsAndHalt : Prop :=
  (∀ (w : Fields) (s : State),
     let die := s.cur.strand.die
     let a := s.valueOf [] w.a
     let b := s.valueOf (queueOf w.a) w.b
     let n := a.toNat % 16
     let m := (s.die die).monitors.get n {}
     let half (v : Word64) : Word64 := match s.cur.strand.core with
       | .dawn => v
       | .dusk => ((if w.mod = 1 then v.extractLsb' 32 32 else v.extractLsb' 0 32)).setWidth 64
     let one (f : Die → Die) (k : Nat) (d : Die) : Die := if k = die then f d else d
     (Issues (.setstk w) s → a.toNat % 8 = 0 → s.myTask.tmBase ≤ a.toNat → a.toNat ≤ s.myTask.tmBase + s.myTask.tmSize → b.toNat % 8 = 0 →
       b.toNat ≤ a.toNat → s.myTask.tmBase ≤ b.toNat → Completes (.setstk w) s { ownEffect s w [w.a, w.b] with stack := some (a, b) }) ∧
     (Issues (.monrd w) s → fld a 31 4 = 0 → (m.en = false ∨ monitorExact m.src.toNat = true) → Yields (.monrd w) s [w.a] (half m.value)) ∧
     (Issues (.monrd w) s → fld a 31 4 = 0 → m.en = true → monitorExact m.src.toNat = false → ∃ v,
       Completes (.monrd w) s (({ ownEffect s w [w.a] with dies := one (fun d => { d with monitors := d.monitors.set n { m with value := v } }) } : Effect).toDest
         s.cur.strand.core w.d (half v))) ∧
     (Issues (.moncfg w) s → fld a 31 4 = 0 → fld b 31 18 = 0 → monitorSource (fld b 15 0) = true →
       let set : Monitor := { en := b.getLsbD 16, src := b.extractLsb' 0 16, value := if b.getLsbD 17 then 0 else m.value }
       Completes (.moncfg w) s { ownEffect s w [w.a, w.b] with dies := one (fun d => { d with monitors := d.monitors.set n set }) }) ∧
     (Issues (.halt w) s → Completes (.halt w) s
       { ownEffect s w [] with dies := one (fun d => { d with tilehalt := d.tilehalt ||| BitVec.ofNat 24 (2 ^ s.cur.strand.tile) }) })) ∧
  (∀ (w : Fields) (s : State),
     let debug := (s.die s.cur.strand.die).dbgen.getLsbD s.cur.strand.tile
     (Issues (.trap w) s → FaultsTo (.trap w) s .trap 0 (s.valueOf [] w.a) w.e.toNat (s.me.pc + 12)) ∧
     (Issues (.bkpt w) s → debug = true → FaultsTo (.bkpt w) s .bkpt 0 0 w.e.toNat (s.me.pc + 12)) ∧
     (Issues (.bkpt w) s → debug = false → Completes (.bkpt w) s (ownEffect s w [])))

/-- R57, R32, R33: a word that stands alone and fails one of the checks faults precisely, with the first failing check's code, WHERE, INFO and
DETAIL; every strand word, unassigned opcodes among them. R48, R54, R57, R40, R10, R33: the order of the checks: an unassigned opcode faults
ILLEGAL_ENC; a word of the other core WRONG_CORE; a privileged word in an unprivileged load PRIV once its fields are legal; a register at or beyond
the header's declaration REG_LIMIT with its number and class. INFO and DETAIL of the first three hold the word. -/
def Obligations.RefusedWords : Prop :=
  (∀ (i : Instr) (s : State) (x : Trap), i.strandWord.isSome = true → s.canIssue s.cur.strand = true → s.cur.pair = none → s.cur.mate = none →
     wordTrap s.cur.strand.core s.myTask (s.load s.myTask.load).priv i false none (s.guardTrue (fieldsOf i)) = some x → Faults i s x.code x.loc x.info x.detail.toNat) ∧
  (∀ (c : CoreId) (t : Task) (priv ex : Bool) (i : Instr) (op : BitVec 8) (w : Fields), i.strandWord = some (op, w) → w.dual = false →
     let f := formOf c i
     let word (code : FaultCode) (x : Trap) : Prop := x.code = code ∧ x.loc = 0 ∧ x.info = (encodeStrand op w).extractLsb' 0 64 ∧
       x.detail = (encodeStrand op w).extractLsb' 64 32
     let legal : Prop := unassignedOpcode op = false ∧ (f.core = none ∨ f.core = some c) ∧ (refusals c f w (stageOrder op ex)).all (fun r => !r.2) = true
     (unassignedOpcode op = true → ∃ x, wordTrap c t priv i false none ex = some x ∧ word .illegalEnc x) ∧
     (unassignedOpcode op = false → f.core = some c.other → ∃ x, wordTrap c t priv i false none ex = some x ∧ word .wrongCore x) ∧
     (legal → f.priv = true → priv = false → ∃ x, wordTrap c t priv i false none ex = some x ∧ word .priv x) ∧
     (legal → f.specialDest w = none → (f.priv = false ∨ priv = true) → op ≠ 0xF0#8 → op ≠ 0xF1#8 → ∀ k, w.d = .reg k → (f.d = .d ∨ f.d = .rd) →
       (match c with | .dawn => t.hdr.aregs | .dusk => t.hdr.sregs) ≤ k.toNat → ∃ x, wordTrap c t priv i false none ex = some x ∧
         x.code = .regLimit ∧ x.loc = 1 ∧ x.info = k.setWidth 64 ∧ x.detail = (match c with | .dawn => 0 | .dusk => 1)))

/-- R21, R32, R44: what a held word leaves: its strand Held at the word, with the cause and one more held cycle; registers, tokens, queues, memory
and accesses as they were. Shown for a token, a queue entry, a register that a load still owes, a section's needs, and a memory word behind a FENCE
(R297). R37, R38, R16: a word whose guard is false retires with only its POP and PUSH; an engine command then enters its queue as one that does
nothing but them. -/
def Obligations.HeldWordsAndFalseGuards : Prop :=
  (∀ (i : Instr) (s : State), i.strandWord.isSome = true → s.canIssue s.cur.strand = true → s.cur.pair = none → s.cur.mate = none →
     wordTrap s.cur.strand.core s.myTask (s.load s.myTask.load).priv i false none (s.guardTrue (fieldsOf i)) = none →
     let c := s.cur.strand.core
     let w := fieldsOf i
     let f := formOf c i
     let held (h : Hold) : Prop := ∃ t, exec i s = .next t ∧ (t.strandOf s).status = .held ∧ (t.strandOf s).heldBy = some h ∧ (t.strandOf s).pc = s.me.pc ∧
       (t.strandOf s).heldCount = s.me.heldCount + 1 ∧ (t.strandOf s).regs = s.me.regs ∧ (t.strandOf s).preds = s.me.preds ∧
       t.task s.cur.strand.task = s.myTask ∧ t.mem = s.mem ∧ t.net = s.net ∧ t.tiles = s.tiles ∧ t.work = s.work
     let first : Prop := s.commonHold s.cur.strand i f w = none ∧ s.me.refusedPst = none ∧ s.guardTrue w = true
     (∀ n, s.me.needs.find? (fun n => !s.needMet s.cur.strand n) = some n → held (.needs n.1)) ∧
     (s.me.needs.all (fun n => s.needMet s.cur.strand n) = true → s.me.fences = [] → s.me.pst = none → f.cmd = none → (tokenField w.pop).2 ≠ 0 →
       s.myTask.token (tokenIndex (tokenField w.pop).1 c.engine) < (tokenField w.pop).2 → held (.token (tokenIndex (tokenField w.pop).1 c.engine))) ∧
     (∀ x, s.me.needs.all (fun n => s.needMet s.cur.strand n) = true → s.me.pst = none → s.me.fences = [x] → x.lfence = false → x.own ≠ some s.me.pc →
       opMemory (opOf i).toNat = true → held .fence) ∧
     (first → ∀ r, (scalarsOf (f.reads w ++ f.writes w)).find? (fun r => s.pendingScalar s.cur.strand r) = some r → held (.reg r)) ∧
     (first → s.pendingHold s.cur.strand f w = none → ∀ q, (queuesPopped i f w).head? = some q → s.myTask.queueLen q = 0 → held (.queueEmpty q))) ∧
  (∀ (i : Instr) (s : State), i.strandWord.isSome = true → s.canIssue s.cur.strand = true → s.cur.pair = none → s.cur.mate = none →
     s.cur.pushes = [] → s.cur.evSets = [] → s.cur.evAdds = [] →
     wordTrap s.cur.strand.core s.myTask (s.load s.myTask.load).priv i false none false = none →
     let c := s.cur.strand.core
     let w := fieldsOf i
     let f := formOf c i
     s.commonHold s.cur.strand i f w = none → s.me.refusedPst = none → s.guardTrue w = false →
     (f.cmd = none → s.overflow s.cur.strand.task (ownPushes c w ++ s.me.fences.flatMap FenceWait.pushes) = none →
       Completes i s { takes := ownPops c w, gives := ownPushes c w }) ∧
     (∀ e, f.cmd = some e → s.overflow s.cur.strand.task (s.me.fences.flatMap FenceWait.pushes) = none →
       ∃ t, exec i s = .next t ∧ ∃ x, ((t.task s.cur.strand.task).engineState e).queue = (s.myTask.engineState e).queue ++ [x] ∧
         x.instr = i ∧ x.null = true ∧ x.addr = s.me.pc ∧ x.seq = (s.myTask.engineState e).nextSeq ∧
         (t.strandOf s).regs = s.me.regs ∧ t.mem = s.mem))

/-- R395, R408: CTXSV of itself or of a free slot answers 2, of a task that is not quiescent 1, else it writes the target's register image at a
64-byte-aligned tile-local address inside its own allocation and answers 0. CTXLD puts the registers of such an image back, with the rest of the
context that the image stands for (log entry 7), gives each strand the state that the image records, and answers 0; it answers 3 when the program or
its declarations differ. -/
def Obligations.ContextWords : Prop :=
  ∀ (w : Fields) (s : State),
    let c := s.cur.strand.core
    let a := s.valueOf [] w.a
    let b := (s.valueOf [] w.b).toNat
    let i : TaskId := ⟨s.cur.strand.die, s.cur.strand.tile, a.toNat % 4⟩
    let z := imageBytes (s.task i).hdr
    let self : Prop := i = s.cur.strand.task ∨ (s.task i).status = .free
    let place : Prop := s.myTask.tmBase ≤ b ∧ b + z ≤ s.myTask.tmBase + s.myTask.tmSize ∧ isStackPointer w.b = false
    let answers (x : Instr) (n : Word64) : Prop := Completes x s ((ownEffect s w [w.a]).toDest c w.d n)
    let bytes := s.readTile i.tileId b z
    let free : Prop := s.ownAhead s.cur.strand b z = false
    fld a 31 2 = 0 → b % 64 = 0 →
    (∀ x, x = .ctxsv w ∨ x = .ctxld w → Issues x s → (self → answers x 2) ∧ (¬ self → place → s.quiescent i = false → answers x 1)) ∧
    (Issues (.ctxsv w) s → s.MemoryCanonical → ¬ self → place → s.quiescent i = true → free →
      Completes (.ctxsv w) s (({ ownEffect s w [w.a] with stores := [(tilePa i.tileId b, (s.saveContext i).1)] } : Effect).toDest c w.d 0)) ∧
    (Issues (.ctxld w) s → ¬ self → place → s.quiescent i = true → free → s.isDamaged (tilePa i.tileId b) z = false →
      (s.loadContext i bytes = none → answers (.ctxld w) 3) ∧
      (∀ x, s.contextOf bytes = some x → bytesAt bytes 7 1 = 0xC5 → bytesAt bytes 6 1 / 16 = 1 → bytesAt bytes 16 8 = (s.task i).image.toNat →
        x.task.hdr = (s.task i).hdr →
          let d0 : Word64 := BitVec.ofNat 64 (bytesAt bytes 0 8)
          let stands (u st : Strand) (code : Nat) : Prop :=
            (code = 1 ∨ code = 5 → u.status = .ready) ∧ (code = 2 → u.status = .parked) ∧ (code = 3 → u.status = .faulted) ∧ (code = 4 → u.status = .ended) ∧
            u.pc = (match st.park with | some p => if st.status = .parked ∧ (code = 1 ∨ code = 5) then p.cont else st.pc | none => st.pc)
          ∃ t, exec (.ctxld w) s = .next t ∧ t.mem = s.mem ∧
          (t.task i).group.toNat = bytesAt bytes 12 4 ∧ (t.task i).aq = x.task.aq ∧ (t.task i).bq = x.task.bq ∧ (t.task i).cq = x.task.cq ∧
          (t.task i).tokens = x.task.tokens ∧ (t.task i).slots = x.task.slots ∧ (t.task i).mode = x.task.mode ∧
          stands (t.strand (i.strand .dawn)) x.dawn (fld d0 49 46) ∧ stands (t.strand (i.strand .dusk)) x.dusk (fld d0 45 42) ∧
          (∀ k, k < (s.task i).hdr.aregs → ((t.strand (i.strand .dawn)).regs.get k 0).toNat = bytesAt bytes (2048 + 8 * k) 8) ∧
          (∀ k, k < (s.task i).hdr.sregs → ((t.strand (i.strand .dusk)).regs.get k 0).toNat = bytesAt bytes (2048 + 8 * (s.task i).hdr.aregs + 4 * k) 4) ∧
          (∀ k, k < x.events.length → t.counter i.tileId ((s.task i).evBase + k) = x.events.getD k 0)))

/-- R393: SETSTK sets the stack's base and limit to A and B when both are multiples of 8 and lie in order inside the allocation; else it faults
ILLEGAL_ENC with WHERE 2 and A as INFO when A fails, and with WHERE 3 and B as INFO otherwise; DETAIL holds the word's bits [95:64], as R33 says for
its code. -/
def Obligations.SetstkChecks : Prop :=
  ∀ (w : Fields) (s : State),
    let a := s.valueOf [] w.a
    let b := s.valueOf (queueOf w.a) w.b
    let top := s.myTask.tmBase + s.myTask.tmSize
    let top96 := ((encodeStrand 0xF2#8 w).extractLsb' 64 32).toNat
    let aOk : Prop := a.toNat % 8 = 0 ∧ s.myTask.tmBase ≤ a.toNat ∧ a.toNat ≤ top
    let bOk : Prop := b.toNat % 8 = 0 ∧ s.myTask.tmBase ≤ b.toNat ∧ b.toNat ≤ a.toNat
    Issues (.setstk w) s →
    (aOk → bOk → Completes (.setstk w) s { ownEffect s w [w.a, w.b] with stack := some (a, b) }) ∧
    (¬ aOk → Faults (.setstk w) s .illegalEnc 2 a top96) ∧ (aOk → ¬ bOk → Faults (.setstk w) s .illegalEnc 3 b top96)

/-! ## Elements -/

/-- R351 to R353, R372: the region clock of every element but SOURCE, SINK and QBUF (COPY, CONST, ADD, SUB, MUL, FMA, MIN, MAX, LOGIC, CMP, CVT, LUT,
UNPACK, PACK, ZENC, ZDEC, DELTA, BQNT, BDQNT, EXPADD, TOPK, COUNT, STEER, MERGE, CARRY) in a region that runs: while emissions wait, the next leaves
when its links have room; else, with data at every position that it reads, it fires, and its first emission leaves; BDQNT takes a scale token into
its latch. An emission for a full link leaves in the same clock as its consumer's move when that makes room, and waits when no consumer moves. R353
to R355: ELEMENT_SPECIAL_TOKEN on an element whose emissions have left: an order token, or a scale token that it does not take, at its lowest such
position is consumed and forwarded behind the release of the record that it ends; else poison is taken into a record, or consumed with the other
heads and passed on; else an end-of-stream on every position is consumed and forwarded behind the release; data against an end-of-stream raises
poison of this element. -/
def Obligations.ElementClocks : Prop :=
  (∀ (i : Instr) (s : State) (w : ElemWord) (op : ElemOp),
     let r := s.region s.cur.region
     let e := r.elems.get s.cur.slot {}
     let head (p : Nat) : Option Tok := (r.link s.cur.slot p).head?
     elemOpOf i (s.imageBody s.cur.region) = some (w, op) → s.holdsElement i = true →
     (∀ b bs, e.emit = b :: bs → r.fits w b = true → Fires i s w [] b { e with emit := bs }) ∧
     (∀ b bs, e.emit = b :: bs → r.fits w b = false → (∀ c ∈ r.waitsOn w b, c ≠ s.cur.slot → s.moveOf s.cur.region c = none) → exec i s = .next s) ∧
     (∀ b bs c k, e.emit = b :: bs → r.waitsOn w b = [c] → c ≠ s.cur.slot → s.moveOf s.cur.region c = some k → r.fits k.1 (k.2.out.headD []) = true →
       let gone := (r.take c k.2.takes).place k.1 (k.2.out.headD [])
       gone.fits w b = true → exec i s = .next (({ s with drawn := s.drawn + k.2.draws.toNat } : State).setRegion s.cur.region { (gone.place w b) with
         elems := (r.elems.set s.cur.slot { e with emit := bs }).set c { k.2.next with emit := k.2.out.drop 1 }, moved := s.clock })) ∧
     (e.emit = [] → ∀ xs : List Word32, (op.reads e head).map head = xs.map (fun x => some (.elem x)) →
       r.fits w ((op.firing e xs).2.headD []) = true →
       Fires i s w (op.reads e head) ((op.firing e xs).2.headD [])
         { (op.firing e xs).1 with firings := (op.firing e xs).1.firings + 1, emit := (op.firing e xs).2.drop 1 }) ∧
     (∀ k, e.emit = [] → op.takesScale = true → op.reads e head = [0] → head 0 = some (.scale k) → Fires i s w [0] [] { e with latch := k })) ∧
  (∀ (s : State) (im : Image) (i : Instr) (w : ElemWord) (op : ElemOp),
     let id : RegionId := ⟨s.event.die, s.event.region⟩
     let slot := s.event.slot
     let r := s.region id
     let e := r.elems.get slot {}
     let head (p : Nat) : Option Tok := (r.link slot p).head?
     let u := op.reads e head
     let after (ps : List Nat) (b : Batch) (x : Element) : Prop :=
       exec .elementSpecialToken s = .next (s.setRegion id { ((r.take slot ps).place w b) with elems := r.elems.set slot x, moved := s.clock })
     let release : List Batch := match op.rec' with | some rop => (e.endRecord rop).2 | none => []
     let ended (eos : Bool) : Element := match op.rec' with | some rop => (e.endRecord rop).1 | none => op.ends eos e
     let plain : Prop := ∀ p ∈ u, head p ≠ some .order ∧ ∀ k, head p ≠ some (.scale k) ∧ head p ≠ some (.pscl k)
     let clean : Prop := ∀ p ∈ u, ∀ o, head p ≠ some (.poison o)
     r.image = some im → im.kind = 2 → r.status = .running → r.still = false → decodeElement (im.body.getD slot 0) = .ok i →
     elemOpOf i im.body = some (w, op) → e.emit = [] →
     (∀ p ps, u = p :: ps → head p = some .order → r.fits w ((release ++ [both .order]).headD []) = true →
       after [p] ((release ++ [both .order]).headD []) { ended false with emit := (release ++ [both .order]).drop 1 }) ∧
     (∀ p ps k, u = p :: ps → op.takesScale = false → head p = some (.scale k) → r.fits w (both (.scale k)) = true → after [p] (both (.scale k)) e) ∧
     (∀ o, plain → op.rec' = none → u = [0] → head 0 = some (.poison o) → r.fits w (both (.poison o)) = true → after [0] (both (.poison o)) e) ∧
     (plain → clean → u ≠ [] → (∀ p ∈ u, head p = some .eos) → r.fits w ((release ++ [both .eos]).headD []) = true →
       after u ((release ++ [both .eos]).headD []) { ended true with emit := (release ++ [both .eos]).drop 1 }) ∧
     (∀ x, plain → clean → u = [0, 1] → head 0 = some (.elem x) → head 1 = some .eos →
       let origin : Word64 := BitVec.ofNat 64 (0x01 * 2 ^ 56 + id.die / 8 % 32 * 2 ^ 51 + id.die % 8 * 2 ^ 48 + 2 ^ 47 + id.region % 64 * 2 ^ 41 +
         slot % 1024 * 2 ^ 29 + e.firings % 2 ^ 29)
       r.fits w (both (.poison origin)) = true → after [0] (both (.poison origin)) e))

/-- R357, R359, R360, R363, R365 (with R139, R148, R149, R159, R161): what the elements without a record emit when they fire, and what they read: the
arithmetic of the vector instructions of their names on positions 0 up, with the parameter as the last operand under IMM; the choices of STEER, MERGE
and CARRY by bit 0 of the control; BDQNT by its latch; EXPADD by its run's factor. -/
def Obligations.ElementResults : Prop :=
  ∀ (w : ElemWord) (e : Element) (x y z k : Word32) (body : List Word64) (head : Nat → Option Tok),
    let f := formatOfElem w
    let p := plainFormat w.fmt.toNat
    let m := Rnd.ofMod w.mod.toNat
    let n := decodeNum p
    let imm := w.param.getLsbD 24
    let emits (op : ElemOp) (xs : List Word32) (r : Word32) : Prop := op.firing e xs = (e, [[(0, .elem r), (1, .elem r)]])
    let args2 : List Word32 := if imm then [x] else [x, y]
    let args3 : List Word32 := if imm then [x, y] else [x, y, z]
    let y' := lastOperand w y
    let arith (fp : Nat → Nat → Nat) (int : Int → Int → Int) : Word32 :=
      cellResult w.fmt w.mod.toNat (fun a b _ => fp a b) (fun a b _ => int a b) x y' 0
    let entry : Nat := 2 ^ fld w.param 11 10
    let index := (x >>> fld w.param 9 5).toNat % 2 ^ (fld w.param 14 12 + 1)
    let byte (j : Nat) : Nat := ((body.getD (fld w.param 24 15 + j / 4) 0).toNat / 256 ^ (j % 4)) % 256
    let table := ((List.range entry).map (fun j => byte (index * entry + j) * 256 ^ j)).sum
    let src := elemFormat 10 w.param
    let factor : Nat := if e.left = 0 then k.toNat % 256 else e.value.toNat
    emits copyOp [x] x ∧
    (w.fmt.toNat ≤ 9 → emits (constOp w) [x] (if w.fmt = 7 then w.param.extractLsb' 0 16 ++ (0 : BitVec 16)
      else if isFloating w.fmt then (w.param.extractLsb' 0 16).setWidth 32 else intCell p 0 w.param.toInt)) ∧
    (w.fmt.toNat ≤ 9 →
      emits (addOp w) args2 (arith (fun a b => round ((n a).add m (n b)) p m) (fun a b => a + b)) ∧
      emits (subOp w) args2 (arith (fun a b => round ((n a).add m (n b).negate) p m) (fun a b => a - b)) ∧
      emits (mulOp w) args2 (arith (fun a b => round ((n a).mul (n b)) p m) (fun a b => if w.mod = 2 then a * b / (2 ^ p.bits : Nat) else a * b)) ∧
      emits (minOp w) args2 (cellResult w.fmt w.mod.toNat (fun a b _ => minMaxCode p false a b) (fun a b _ => min a b) x y' 0) ∧
      emits (maxOp w) args2 (cellResult w.fmt w.mod.toNat (fun a b _ => minMaxCode p true a b) (fun a b _ => max a b) x y' 0) ∧
      emits (fmaOp w) args3 (cellResult w.fmt w.mod.toNat (fun a b c => round (((n a).mul (n b)).add m (n c)) p m) (fun a b c => a * b + c)
        x y (lastOperand w z))) ∧
    (w.fmt = 0 → imm = false → (w.mod = 0 → emits (logicOp w) [x, y] (x &&& y)) ∧ (w.mod = 1 → emits (logicOp w) [x, y] (x ||| y)) ∧
      (w.mod = 2 → emits (logicOp w) [x, y] (x ^^^ y)) ∧ (w.mod = 3 → emits (logicOp w) [x, y] (x <<< y.toNat)) ∧
      (w.mod = 4 → emits (logicOp w) [x, y] (x >>> y.toNat)) ∧ (w.mod = 5 → emits (logicOp w) [x, y] (x.sshiftRight y.toNat))) ∧
    (w.fmt = 1 → imm = false → (w.mod = 0 → emits (cmpOp w) [x, y] (if x = y then 1 else 0)) ∧ (w.mod = 2 → emits (cmpOp w) [x, y] (if x.slt y then 1 else 0)) ∧
      (w.mod = 4 → emits (cmpOp w) [x, y] (if x.ult y then 1 else 0))) ∧
    (w.fmt = 7 → imm = false → w.mod = 2 → emits (cmpOp w) [x, y] (if (n x.toNat).lt (n y.toNat) = true then 1 else 0)) ∧
    emits (cvtOp w) [x] (asCell f (convertCode (elemFormat (fld w.param 3 0) w.param) f w.mod.toNat (codeIn (elemFormat (fld w.param 3 0) w.param) x))) ∧
    emits (lutOp w body) [x] (if w.fmt = 3 ∨ w.fmt = 5 then (BitVec.ofNat (8 * entry) table).signExtend 32 else BitVec.ofNat 32 table) ∧
    emits (bdqntOp w) [x] (asCell f (if e.latch = 0xFF then round .nan f m
      else round ((decodeNum src (codeIn src x)).scale ((e.latch.toNat : Int) - 127)) f m)) ∧
    (expaddOp w).reads e head = (if e.left = 0 then [0, 1] else [0]) ∧
    (expaddOp w).firing e (if e.left = 0 then [x, k] else [x]) =
      ({ e with value := BitVec.ofNat 32 factor, left := (if e.left = 0 then fld w.param 15 0 else e.left) - 1 },
       [both (.elem (asCell f (round ((decodeNum f (codeIn f x)).scale ((factor : Int) - (fld w.param 24 17 : Nat))) f m)))]) ∧
    steerOp.reads e head = [0, 3] ∧ steerOp.firing e [x, k] = (e, [[(if k.getLsbD 0 then 0 else 1, .elem x)]]) ∧
    (head 3 = some (.elem k) → mergeOp.reads e head = [if k.getLsbD 0 then 1 else 0, 3]) ∧ emits mergeOp [x, k] x ∧
    (e.inLoop = false → carryOp.reads e head = [0] ∧ carryOp.firing e [x] = ({ e with inLoop := true }, [both (.elem x)])) ∧
    (e.inLoop = true → head 3 = some (.elem k) → carryOp.reads e head = (if k.getLsbD 0 then [1, 3] else [3]) ∧
      carryOp.firing e [x, k] = (e, [both (.elem x)]) ∧ carryOp.firing e [k] = ({ e with inLoop := false }, []))

/-- R354, R361 to R364 (with R127): the record elements. A ZENC, BQNT or TOPK record that reaches its length releases; ZENC its mask and the cells
that are not zero, BQNT its group's scale and codes, TOPK the highest values with their indices, COUNT its count, PACK its last partial word; ZDEC
spreads its values over its mask; UNPACK and PACK cut and join fields; DELTA keeps its running value. A record with poison releases poison of the
first origin only. -/
def Obligations.RecordElements : Prop :=
  ∀ (w : ElemWord) (e : Element) (x : Word32),
    let f := formatOfElem w
    let tokens (l : List Word32) : List Batch := l.map (fun v => both (.elem v))
    let group := fld w.param 5 0 + 1
    let b := fld w.param 4 0 + 1
    let rlen := fld w.param 20 5
    let zero (v : Word32) : Bool := cellZero w v
    let after : Element := { e with openRec := true, held := e.held ++ [.elem x], taken := e.taken + 1 }
    let cells := e.cells ++ [x]
    let src := plainFormat (fld w.param 3 0)
    let q := currentScale f (Rnd.ofMod w.mod.toNat) (cells.map (fun v => decodeNum src (codeIn src v)))
    let stops (l : List Batch) : List Batch := match e.origin with | none => l | some o => if l = [] then [both (.poison o)] else l.map (fun y => y.map (fun t => (t.1, .poison o)))
    let reset : Element := e.fresh
    let mask := (cells.zipIdx.map (fun v => if zero v.1 then 0 else 2 ^ v.2)).sum
    let bits := e.bits + x.toNat * 2 ^ e.nbits
    let joined := e.bits + x.toNat % 2 ^ b * 2 ^ e.nbits
    (group ≤ e.taken + 1 → (zencOp w).firing e [x] = (reset, stops (tokens (BitVec.ofNat 32 mask :: cells.filter (fun v => !zero v))))) ∧
    (e.taken + 1 < group → (zencOp w).firing e [x] = (after, [])) ∧
    (32 ≤ e.taken + 1 → (bqntOp w).firing e [x] = (reset, stops (both (.scale (BitVec.ofNat 8 q.1)) :: tokens (q.2.map (asCell f))))) ∧
    (e.taken + 1 < 32 → (bqntOp w).firing e [x] = (after, [])) ∧
    (fld w.param 21 6 ≤ e.taken + 1 → ∃ l, Ranked (ranksBelow w) l ∧ l.Perm cells.zipIdx ∧
      (topkOp w).firing e [x] = (reset, stops ((l.take group).map (fun v => [(0, .elem v.1), (1, .elem (BitVec.ofNat 32 v.2))])))) ∧
    (e.taken + 1 < fld w.param 21 6 → (topkOp w).firing e [x] = (after, [])) ∧
    (e.taken = 0 → (zdecOp w).taking e x = { e with openRec := true, value := x, left := onesIn group x, taken := 1 }) ∧
    (∀ g, g < group → ((zdecOp w).released { e with taken := group + 1 }).getD g [] =
      both (.elem (if e.value.getLsbD g then e.cells.getD (onesIn g e.value) 0 else 0))) ∧
    (rlen = 0 ∨ e.taken + 1 < rlen → (packOp w).firing e [x] =
      ({ e with openRec := true, bits := if 32 ≤ e.nbits + b then joined / 2 ^ 32 else joined, nbits := if 32 ≤ e.nbits + b then e.nbits + b - 32 else e.nbits + b, taken := e.taken + 1 },
       if 32 ≤ e.nbits + b then [both (.elem (BitVec.ofNat 32 joined))] else [])) ∧
    (packOp w).released e = (if e.nbits = 0 then [] else [both (.elem (BitVec.ofNat 32 e.bits))]) ∧
    (rlen = 0 → e.nbits < b → (unpackOp w).firing e [x] =
      (let n := (e.nbits + 32) / b
       ({ e with openRec := true, bits := bits / 2 ^ (b * n), nbits := e.nbits + 32 - b * n, taken := e.taken + 1, made := e.made + n },
        tokens ((List.range n).map (fun j => let v := BitVec.ofNat b (bits / 2 ^ (b * j)); if w.fmt = 1 then v.signExtend 32 else v.setWidth 32))))) ∧
    (fld w.param 15 0 = 0 → (deltaOp w).firing e [x] = (if w.mod = 1 then
        ({ e with openRec := true, value := x, taken := e.taken + 1 }, tokens [asCell f ((x - e.value).toNat)])
      else ({ e with openRec := true, value := e.value + x, taken := e.taken + 1 }, tokens [asCell f ((e.value + x).toNat)]))) ∧
    (fld w.param 15 0 = 0 → (countOp w).firing e [x] =
      ({ e with openRec := true, taken := e.taken + 1, made := e.made + (if w.mod = 1 ∧ zero x = true then 0 else 1) }, [])) ∧
    (countOp w).released e = [both (.elem (BitVec.ofNat 32 e.made))]

/-- R356, R357, R386: SOURCE passes one token of its port a clock, data as cells and others as themselves; SINK consumes one token, and poison stops
the load; QBUF emits its oldest token and takes one when it has room. -/
def Obligations.PortElements : Prop :=
  ∀ (s : State) (w : ElemWord),
    let id := s.cur.region
    let r := s.region id
    let e := r.elems.get s.cur.slot {}
    let p : PortId := ⟨id.die, .region, id.region, false, fld w.param 2 0⟩
    let token (t : Tok) : Tok := match t with
      | .elem x => .elem (asCell (typeFormat (s.portType p)) (x.toNat % 2 ^ (typeFormat (s.portType p)).bits))
      | .pscl k => .scale k
      | t => t
    let fired : Element := { e with firings := e.firings + 1, emit := [] }
    (∀ t, s.holdsElement (.elSource w) = true → (s.inToks p).head? = some t → r.gatedIn = false → r.fits w (both (token t)) = true →
      exec (.elSource w) s = .next ((s.consume p 1).setRegion id { (r.place w (both (token t))) with elems := r.elems.set s.cur.slot fired, moved := s.clock })) ∧
    (s.holdsElement (.elSource w) = true → (s.inToks p = [] ∨ r.gatedIn = true) → exec (.elSource w) s = .next s) ∧
    (∀ t, s.holdsElement (.elSink w) = true → (r.link s.cur.slot 0).head? = some t → (∀ o, t ≠ .poison o) → Fires (.elSink w) s w [0] [] fired) ∧
    (∀ o l, s.holdsElement (.elSink w) = true → (r.link s.cur.slot 0).head? = some (.poison o) → r.load = some l → (s.load l).stopping = false →
      (s.load l).status = .running → ∃ t, exec (.elSink w) s = .next t ∧ (t.load l).stopping = true ∧ t.mem = s.mem) ∧
    (∀ t, s.holdsElement (.elQbuf w) = true → e.held = [] → (r.link s.cur.slot 0).head? = some t → 0 < fld w.param 12 0 →
      Fires (.elQbuf w) s w [0] [] { fired with held := [t] }) ∧
    (∀ o ts, s.holdsElement (.elQbuf w) = true → e.held = o :: ts → r.fits w (both o) = true → r.link s.cur.slot 0 = [] →
      Fires (.elQbuf w) s w [] (both o) { e with held := ts, emit := [] })

/-! ## Events of strands and accesses -/

/-- R22, R23, R216: SUSPEND_WAKE makes a parked strand Ready at the point that its SUSPEND gave when its condition has been met; AUTO_PARK parks a
strand held for more than 4,096 cycles, or, when nothing but a full command queue holds it in a task whose other strand and engines can never drain
it, has it take CMDQ_DEADLOCK; AUTO_PARK_WAKE makes it Ready at its held word when one of its causes has changed; GRAISE_APPLY makes COUNT the larger
value and gives D what it was. Nothing else changes. R16, R241, R249 to R251, R261: FENCE_RETIRE, when every access that a fence orders has
completed, ends it, whose push of tokens the end of the cycle then applies, or lets the word that waits in its place go on; LFENCE also drops the
records of its load on its tile. TRANSLATION_WALK_COMPLETE enters the translation in its tile's cache, or leaves the failure of R241 for the access;
LAYOUT_RECORD_CACHE_FILL enters a record of a running load, as memory holds it. -/
def Obligations.StrandAndFenceEvents : Prop :=
  (∀ s : State,
     let who := s.event.who
     let st := s.strand who
     let ready : Strand := { st with status := .ready, park := none, heldCount := 0, heldBy := none, cmdqOnly := false }
     (∀ p n, st.park = some p → p.counter = some n → p.woken = true → st.status = .parked →
       ∃ t, exec .suspendWake s = .next t ∧ (t.strand who).status = .ready ∧ (t.strand who).park = none ∧ (t.strand who).pc = p.cont ∧
         (t.strand who).regs = st.regs ∧ (t.strand who).preds = st.preds ∧ t.mem = s.mem ∧ t.tiles = s.tiles ∧ t.net = s.net) ∧
     (∀ h, st.heldBy = some h → st.status = .held → 4096 < st.heldCount → st.cmdqOnly = false →
       exec .autoPark s = .next (s.setStrand who { st with
         status := .parked, heldCount := 0, heldBy := none, cmdqOnly := false
         park := some { cont := st.pc, causes := (s.holdsOf who h).map (fun x => (x, s.causeKey who x)), since := s.clock } })) ∧
     (∀ e, st.heldBy = some (.slots e) → st.status = .held → 4096 < st.heldCount → st.cmdqOnly = true →
       ∃ t f, exec .autoPark s = .next t ∧ (t.strand who).status = .faulted ∧ (t.strand who).fault = some f ∧ f.code = .cmdqDeadlock ∧
         f.resume = st.pc ∧ f.record.dw1 = st.pc ∧ (t.strand who).regs = st.regs ∧ t.mem = s.mem) ∧
     (∀ p, st.park = some p → p.counter = none → st.status = .parked → (∃ c ∈ p.causes, s.causeKey who c.1 ≠ c.2) →
       exec .autoParkWake s = .next (s.setStrand who ready)) ∧
     (∀ r i, s.raises.find? (fun r => r.num == s.event.access) = some r → scalarIndex r.dest = some i →
       let g := (s.load r.load).grids.getD r.grid {}
       ∃ t, exec .graiseApply s = .next t ∧ t.raises = s.raises.filter (fun x => x.num ≠ r.num) ∧
         (r.grid < (s.load r.load).grids.length → ((t.load r.load).grids.getD r.grid {}).count = if g.count.toNat < r.value.toNat then r.value else g.count) ∧
         (t.strand r.who).regs.get i 0 = toWidth r.who.core g.count.toNat ∧
         (∀ j, j ≠ i → (t.strand r.who).regs.get j 0 = (s.strand r.who).regs.get j 0) ∧ t.mem = s.mem ∧ t.tiles = s.tiles ∧ t.net = s.net)) ∧
  (∀ s : State,
     let who := s.event.who
     let st := s.strand who
     let dom := (s.load (s.task who.task).load).domain
     let cache := (s.tile who.tileId).tcache
     let ends (f : FenceWait) : State := { (s.updStrand who (fun x => { x with
         fences := if f.own = some st.pc then listSet x.fences s.event.index (fun y => { y with met := true }) else x.fences.eraseIdx s.event.index })) with
       work := { s.work with pushes := s.work.pushes ++ f.pushes.map (fun p => (who.task, p.1, p.2)) } }
     (∀ f, st.fences[s.event.index]? = some f → st.status ≠ .saved → f.lfence = false → s.parkedBefore who f = false →
       (∀ a ∈ s.net, a.who = who → a.left = none → f.before ≤ a.num) → exec .fenceRetire s = .next (ends f)) ∧
     (∀ f, st.fences[s.event.index]? = some f → st.status ≠ .saved → f.lfence = true →
       (∀ a ∈ s.net, a.who = who → a.left = none → f.before ≤ a.num ∨ a.stage = .done ∨ a.kind = .ldg ∨ a.kind = .ldc ∨ a.kind = .pld ∨ a.kind = .pref) →
       exec .fenceRetire s = .next ((ends f).updTile who.tileId (fun x =>
           { x with lcache := x.lcache.filter (fun e => e.load ≠ (s.task who.task).load) }))) ∧
     (∀ b leaf lvl, st.walk = some b → (s.die who.die).phase = 0 → s.walkUp who.die dom (b * 65536) = true → s.walkTables who.die dom (b * 65536) = .ok (leaf, lvl) →
       (∀ e ∈ cache, e.covers dom (b / (pageSize lvl / 65536) * (pageSize lvl / 65536)) = false) → cache.length < cacheEntries →
       exec .translationWalkComplete s = .next ((s.updTile who.tileId (fun x => { x with tcache := cache ++
         [{ domain := dom, block := b / (pageSize lvl / 65536) * (pageSize lvl / 65536), level := lvl, leaf := leaf }] })).updStrand who
         (fun x => { x with walk := none }))) ∧
     (∀ b f, st.walk = some b → (s.die who.die).phase = 0 → s.walkUp who.die dom (b * 65536) = true → s.walkTables who.die dom (b * 65536) = .error f →
       exec .translationWalkComplete s = .next (s.updStrand who (fun x => { x with walk := none, walkFailed := some (b, f.cause, f.level) }))) ∧
     (let l := s.load s.event.load
      let va := l.lrtab.toNat + 64 * s.event.handle
      ∀ p, l.status = .running → l.stopping = false → s.event.handle < l.lrcount → (s.die who.die).phase = 0 →
       (∃ x ∈ l.tiles, x.tile = who.tileId) → (s.tile who.tileId).layout s.event.load s.event.handle = none →
       l.lrparts.find? (fun p => p.block == va / 65536) = some p → s.pathUp who.die (leafPa p.leaf p.level va) = true → s.isDamaged (leafPa p.leaf p.level va) 64 = false →
       exec .layoutRecordCacheFill s = .next (s.updTile who.tileId (fun x => { x with
         lcache := x.lcache ++ [{ load := s.event.load, handle := s.event.handle, dws := toDwords (s.readPa (leafPa p.leaf p.level va) 64 (leafKey p.leaf)) }] }))))

/-- R236, R257, R272, R280, R281, R288 to R295: GLOBAL_ACCESS_PERFORM on an access whose turn it is by R257 and whose plane is live. A load takes the
bytes of its home; a store writes them; an atomic does both, the two as one; PLD of a full word takes it and of an empty one waits there, or is gone
when its task has been killed; PST writes an empty word, which becomes full, and is refused by a full one; PRST makes a word empty; STF's data first,
its flag after. Here the home is a byte of HBM or of a tile that is awake, and no byte read is damaged; the rest of memory, the strand and every
other access keep their state. -/
def Obligations.AccessesPerformed : Prop :=
  ∀ (s : State) (a : Access),
    let old := bytesToNat (s.readPa a.pa a.size a.keyid)
    let w := 8 * a.size
    let x := a.data.toNat % 2 ^ w
    let waits (b : Access) : Bool := b.stage == .deferred && b.pa == a.pa
    let answers (v : Word64) (b : Access) : Access := if b.num = a.num then { b with stage := .done, reply := v, blocks := [] } else b
    let stores (v : Nat) (r : Word64) : Prop := ∃ t, exec .globalAccessPerform s = .next t ∧
      t.mem = (s.writePa a.pa (natToBytes a.size v) a.keyid).mem ∧ t.net = s.net.map (answers r) ∧ t.full = s.full ∧ t.tasks = s.tasks ∧ t.loads = s.loads
    s.net.find? (fun b => b.num == s.event.access && decide (b.who = s.event.who)) = some a → a.size ≤ 8 →
    (placeOf a.pa = .hbm ∨ ∃ n o, placeOf a.pa = .tile n o) → s.wakeAt a.pa = s → s.isDamaged a.pa a.size = false →
    (s.event.flag = false → a.stage = .sent → s.event.source = none → s.mayPerform a = true → s.travels a a.plane = true →
      (a.kind = .ldg → ∃ t, exec .globalAccessPerform s = .next t ∧ t.net = s.net.map (answers (BitVec.ofNat 64 old)) ∧ t.mem = s.mem ∧ t.full = s.full) ∧
      (a.kind = .ldc → exec .globalAccessPerform s = .next { s with net := s.net.map (answers (BitVec.ofNat 64 old)) }) ∧
      (a.kind = .pref → exec .globalAccessPerform s = .next { s with net := s.net.map (answers 0) }) ∧
      (a.kind = .stg → stores a.data.toNat 0) ∧
      (a.kind = .atadd → stores ((old + x) % 2 ^ w) (BitVec.ofNat 64 old)) ∧
      (a.kind = .atand → stores (old &&& x) (BitVec.ofNat 64 old)) ∧
      (a.kind = .ator → stores (old ||| x) (BitVec.ofNat 64 old)) ∧
      (a.kind = .atxor → stores (old ^^^ x) (BitVec.ofNat 64 old)) ∧
      (a.kind = .atmin → stores (if a.expect = 1 then min x old else if sext w x < sext w old then x else old) (BitVec.ofNat 64 old)) ∧
      (a.kind = .atmax → stores (if a.expect = 1 then max x old else if sext w old < sext w x then x else old) (BitVec.ofNat 64 old)) ∧
      (a.kind = .atswp → stores x (BitVec.ofNat 64 old)) ∧
      (a.kind = .atcas → old = a.expect.toNat % 2 ^ w → stores x (BitVec.ofNat 64 old)) ∧
      (a.kind = .atcas → old ≠ a.expect.toNat % 2 ^ w → exec .globalAccessPerform s = .next { s with net := s.net.map (answers (BitVec.ofNat 64 old)) }) ∧
      (a.kind = .atfadd → stores (round ((decodeNum .f32 old).add .rne (decodeNum .f32 x)) .f32 .rne) (BitVec.ofNat 64 old)) ∧
      (a.kind = .atfmax → stores (minMaxCode .f32 true old x) (BitVec.ofNat 64 old)) ∧
      (a.kind = .amaxx → stores 0 (BitVec.ofNat 64 old)) ∧
      (a.kind = .pld → a.size = 8 → a.pa ∈ s.full → exec .globalAccessPerform s = .next { s with net := s.net.map (answers (BitVec.ofNat 64 old)) }) ∧
      (a.kind = .pld → a.pa ∉ s.full → (s.task a.who.task).status = .killed → exec .globalAccessPerform s = .next { s with net := s.net.filter (fun b => b.num ≠ a.num) }) ∧
      (a.kind = .pld → a.pa ∉ s.full → (s.task a.who.task).status ≠ .killed →
        exec .globalAccessPerform s = .next { s with net := s.net.map (fun b => if b.num = a.num then { b with stage := .deferred } else b) }) ∧
      (a.kind = .pst → a.size = 8 → a.pa ∉ s.full → s.net.filter waits = [] → ∃ t, exec .globalAccessPerform s = .next t ∧
        t.mem = (s.writePa a.pa (natToBytes 8 a.data.toNat) a.keyid).mem ∧ t.full = a.pa :: s.full ∧ t.net = s.net.map (answers 0)) ∧
      (a.kind = .pst → a.pa ∈ s.full → exec .globalAccessPerform s = .next { s with
        net := s.net.map (fun b => if b.num = a.num then { b with stage := .done, reply := 0, blocks := [], refused := true } else b) }) ∧
      (a.kind = .prst → exec .globalAccessPerform s = .next { s with full := s.full.filter (fun p => p ≠ a.pa), net := s.net.map (answers 0) }) ∧
      (a.kind = .stf → ∃ t, exec .globalAccessPerform s = .next t ∧ t.mem = (s.writePa a.pa (natToBytes a.size a.data.toNat) a.keyid).mem ∧
        t.net = s.net.map (fun b => if b.num = a.num then { b with stage := .flag } else b))) ∧
    (s.event.flag = true → a.stage = .flag → s.mayFlag a = true → s.travels a a.flagPlane = true → placeOf a.flagPa = .hbm → ∃ t, exec .globalAccessPerform s = .next t ∧
      t.mem = (s.writePa a.flagPa (natToBytes 8 ((bytesToNat (s.readPa a.flagPa 8 a.flagKey) + 1) % 2 ^ 64)) a.flagKey).mem ∧
      t.net = s.net.map (answers 0) ∧ t.full = s.full) ∧
    (∀ n c o, s.event.flag = true → a.stage = .flag → s.mayFlag a = true → s.travels a a.flagPlane = true → placeOf a.flagPa = .counter n c o →
      exec .globalAccessPerform s = .next { s.addEvent ⟨dieOf a.flagPa, n⟩ c 1 with net := s.net.map (answers 0) })

/-- R260, R285, R291: GLOBAL_REPLY_ARRIVAL gives a register its value, by the sign or by zeros, and ends the access; GLOBAL_ACK_ARRIVAL ends a store,
and a PST learns from it whether it was refused. -/
def Obligations.AnswersArrive : Prop :=
  ∀ (s : State) (a : Access),
    let v : Word64 := if a.signed then BitVec.ofInt 64 (sext (8 * a.size) a.reply.toNat) else BitVec.ofNat 64 (a.reply.toNat % 2 ^ (8 * a.size))
    s.net.find? (fun b => b.num == s.event.access && decide (b.who = s.event.who)) = some a → a.stage = .done → s.mayAnswer a = true →
    s.travels a a.plane = true →
    (∀ i, a.kind.replied = true → a.dest = some i → i < 1024 → ∃ t, exec .globalReplyArrival s = .next t ∧
      t.net = s.net.filter (fun b => b.num ≠ a.num) ∧ (t.strand a.who).regs = (s.strand a.who).regs.set i (toWidth a.who.core v.toNat) ∧
      (t.strand a.who).preds = (s.strand a.who).preds ∧ (t.strand a.who).pc = (s.strand a.who).pc ∧ t.mem = s.mem ∧ t.full = s.full) ∧
    (a.kind.replied = false → ∃ t, exec .globalAckArrival s = .next t ∧ t.net = s.net.filter (fun b => b.num ≠ a.num) ∧
      (t.strand a.who).pst = (s.strand a.who).pst.map (fun p => if p.access = a.num then { p with refused := some a.refused } else p) ∧
      (t.strand a.who).regs = (s.strand a.who).regs ∧ t.mem = s.mem ∧ t.full = s.full)

/-! ## Engines at work -/

/-- R16, R169, R172 to R176, R178, R181, R188, R374: SERAC_COMMAND_START, when a command's turn has come and its records are cached and pass, takes
its POP and starts it; nothing else but its busy tile changes. SERAC_BLOCK_STAGED of one beat of plain elements of an unscaled input port adds them
to the block that is arriving; a block that is then whole joins the staging buffer, with the code 0x7F for every lane. R215, R303, R308, R310, R313:
MORAINE_COMMAND_START, when a command's turn has come, takes its POP and starts it; MORAINE_COMMAND_COMPLETE completes a null command, and a command
whose units are done, whose status slot it writes; MFILL and MCPY of a few bytes of tile memory run whole: the bytes of the pattern, or of the
source, stand at the destination, and no other byte changes. Under event.flag one access of a unit is performed by itself: one of MCPY's reads writes
nothing. -/
def Obligations.EnginesWork : Prop :=
  (∀ (s : State) (c : Command),
     let i := s.event.who.task
     let pops := if c.popTaken ∨ (tokenField c.word.pop).2 = 0 then [] else [(tokenIndex (tokenField c.word.pop).1 .serac, (tokenField c.word.pop).2)]
     (∀ before rs, headCommand (s.task i).serac.queue = some (before, c) → s.startTurn i .serac = true → s.recordsReady i c = true →
       s.startFault i c = .ok rs → ∃ t, exec .seracCommandStart s = .next t ∧
         (∀ k, (t.task i).token k = (s.task i).token k - pushSum pops k) ∧
         (t.task i).serac.queue.map Command.seq = (s.task i).serac.queue.map Command.seq ∧
         (∀ d ∈ (t.task i).serac.queue, d.seq = c.seq → d.started = true ∧ d.popTaken = true) ∧
         t.mem = s.mem ∧ t.strands = s.strands ∧ t.net = s.net ∧ t.ports = s.ports ∧ t.chans = s.chans) ∧
     (∀ (opnd port nb : Nat) (ys xs : List Word32) (x : Beat) (rest : List Beat),
       let p := tilePort i.tileId false port
       let b := c.blocksStaged.get opnd 0
       let first := ((((s.task i).serac.queue.find? (fun d => d.started)).map Command.seq) == some c.seq)
       (s.task i).serac.queue.find? (fun d => d.seq == s.event.command) = some c → (smmPorts c).find? (fun p => p.1 == s.event.index) = some (opnd, port) →
       c.started = true → s.atStop i c = false → s.mayStage i c first opnd port = true → s.event.len = 1 →
       typeSkind (s.portType p) = 0 → nb = min 32 (fld c.vc 15 0 - b * 32) → nb ≠ 0 → (s.inQueue p).beats = x :: rest → x.toks = xs.map Tok.elem → xs ≠ [] →
       c.arriving.get opnd [] = ys.map Tok.elem →
       (ys.length + xs.length < 128 * nb → exec .seracBlockStaged s = .next ((s.consume p xs.length).updCommand i .serac c.seq (fun d => { d with
         arriving := d.arriving.set opnd ((ys ++ xs).map Tok.elem), waitSince := s.clock }))) ∧
       (ys.length + xs.length = 128 * nb → exec .seracBlockStaged s = .next (((s.consume p xs.length).updPort p (fun q => q)).updCommand i .serac c.seq (fun d => { d with
         staged := d.staged.set opnd (d.staged.get opnd [] ++ List.replicate 128 (.scale 0x7F) ++ (ys ++ xs).map Tok.elem)
         blocksStaged := d.blocksStaged.set opnd (b + 1), arriving := d.arriving.set opnd [], waitSince := s.clock }))))) ∧
  (∀ (s : State) (c : Command),
     let i := s.event.who.task
     let pops := if c.popTaken ∨ (tokenField c.word.pop).2 = 0 then [] else [(tokenIndex (tokenField c.word.pop).1 .moraine, (tokenField c.word.pop).2)]
     (∀ before, headCommand (s.task i).moraine.queue = some (before, c) → s.startTurn i .moraine = true → ∃ t, exec .moraineCommandStart s = .next t ∧
       (∀ k, (t.task i).token k = (s.task i).token k - pushSum pops k) ∧
       (t.task i).moraine.queue = (s.task i).moraine.queue.map (fun d => if d.seq = c.seq then { d with popTaken := true, started := true, waitSince := s.clock } else d) ∧
       t.mem = s.mem ∧ t.strands = s.strands ∧ t.net = s.net ∧ t.ports = s.ports ∧ t.chans = s.chans) ∧
     ((s.task i).moraine.queue.find? (fun d => d.seq == s.event.command) = some c → s.event.flag = false → s.moraineMayGo i c = true → s.PushFits .moraine i c →
       (c.null = true → ∃ t, exec .moraineCommandComplete s = .next t ∧ Finished .moraine i c s t ∧ t.mem = s.mem ∧ (t.task i).slots = (s.task i).slots) ∧
       (c.null = false → streamerOf i.tileId c = none → unitCount c ≤ c.progress → ∃ t, exec .moraineCommandComplete s = .next t ∧
         Finished .moraine i c s t ∧ t.mem = s.mem ∧
         (∀ n, (t.task i).slots.get n 0 = if c.word.e.getLsbD 11 = true ∧ n = fld c.word.e 10 7 then
             BitVec.ofNat 32 (min c.oor (2 ^ 32 - 1)) ++ BitVec.ofNat 32 (min c.neg (2 ^ 32 - 1)) ++ (1 : BitVec 1) ++ BitVec.ofBool c.eosSeen ++
               BitVec.ofBool c.poisoned.isSome ++ (0 : BitVec 13) ++ BitVec.ofNat 16 (min c.trunc 65535) ++ BitVec.ofNat 32 c.items
           else (s.task i).slots.get n 0)) ∧
       (∀ w n, c.null = false → c.instr = .mfill w → w.mod.getLsbD 1 = true → s.event.len = 0 → c.progress = 0 → c.flights = [] → c.vb.toNat = n → 0 < n → c.vd.toNat % 64 + n ≤ 64 →
         (∃ x o, placeOf (tilePa i.tileId c.vd.toNat) = .tile x o) → s.gatedAt (tilePa i.tileId c.vd.toNat) = false → ∃ t, exec .moraineCommandComplete s = .next t ∧
         Finished .moraine i c s t ∧ t.mem = (s.writePa (tilePa i.tileId c.vd.toNat) ((List.range n).map (fun j => c.vc.extractLsb' (8 * (j % 8)) 8)) 0).mem) ∧
       (∀ w n, c.null = false → c.instr = .mcpy w → w.mod.getLsbD 0 = true → w.mod.getLsbD 1 = true → s.event.len = 0 → c.progress = 0 → c.flights = [] → c.vb.toNat = n → 0 < n →
         c.vd.toNat % 64 + n ≤ 64 → c.va.toNat % 8 + n ≤ 8 → (∃ x o, placeOf (tilePa i.tileId c.vd.toNat) = .tile x o) →
         (∃ x o, placeOf (tilePa i.tileId c.va.toNat) = .tile x o) → s.gatedAt (tilePa i.tileId c.vd.toNat) = false → s.gatedAt (tilePa i.tileId c.va.toNat) = false →
         s.isDamaged (tilePa i.tileId c.va.toNat) n = false → ∃ t, exec .moraineCommandComplete s = .next t ∧ Finished .moraine i c s t ∧
         t.mem = (s.writePa (tilePa i.tileId c.vd.toNat) (s.readPa (tilePa i.tileId c.va.toNat) n 0) 0).mem)) ∧
     (∀ w, (s.task i).moraine.queue.find? (fun d => d.seq == s.event.command) = some c → c.instr = .mcpy w → s.event.flag = true →
       s.moraineMayPerform i c s.event.index s.event.len = true → s.event.len < (unitOf c s.event.index []).readAccesses.length →
       ∃ t, exec .moraineCommandComplete s = .next t ∧ t.mem = s.mem ∧ t.net = s.net ∧ (∀ j, (t.strand j).regs = (s.strand j).regs)))

/-- R8, R16, R24, R127, R131, R169, R184 to R189, R201, R202: SERAC_COMMAND_COMPLETE of the oldest command, once it has started. A null command only
completes; SACCZ clears its tile, SSCL, SMODE and SSTR set Serac's modes, SACCV gives vector registers parts of a tile, SACCRD writes a tile to a
record's elements divided by OSCALE; SMM and SMMZ add one accumulation group to every element of their tile (with event.len 1). Nothing else changes.
Cell (i, j) of a tile is record element (row + i, col + j), or (row + j, col + i) under KAXIS = 1. R191, R192: a butterfly stage of stride 2^x over a
row of N elements. Pair q = u·2^x + v of elements a = u·2^(x+1) + v and a + 2^x gives w00·x_a + w01·x_b and w10·x_a + w11·x_b, each rounded once to
the stage format, with the four weights of the pair from 4q. -/
def Obligations.SeracCompletes : Prop :=
  (∀ (s : State) (c : Command),
     let i := s.event.who.task
     (s.task i).serac.queue.head? = some c → c.started = true → s.atStop i c = false → (s.task i).live = true → s.PushFits .serac i c →
     (c.null = true → ∃ t, exec .seracCommandComplete s = .next t ∧ Finished .serac i c s t ∧ t.mem = s.mem ∧ (t.task i).acc = (s.task i).acc ∧
       (t.task i).v = (s.task i).v) ∧
     (∀ w, c.null = false → c.instr = .saccz w → ∃ t, exec .seracCommandComplete s = .next t ∧ Finished .serac i c s t ∧ t.mem = s.mem ∧
       (t.task i).acc = (s.task i).acc.set (opndIndex w.d) { (s.task i).accTile (opndIndex w.d) with elems := [], prog := 0, poison := false, bad := [], badState := false }) ∧
     (∀ w, c.null = false → c.instr = .sscl w → ∃ t, exec .seracCommandComplete s = .next t ∧ Finished .serac i c s t ∧ t.mem = s.mem ∧
       (t.task i).oscale = c.va.extractLsb' 0 8 ∧ (t.task i).mode = (s.task i).mode ∧ (t.task i).acc = (s.task i).acc) ∧
     (∀ w, c.null = false → c.instr = .smode w → ∃ t, exec .seracCommandComplete s = .next t ∧ Finished .serac i c s t ∧ t.mem = s.mem ∧
       (t.task i).mode = c.va.extractLsb' 0 2 ∧ (t.task i).oscale = (s.task i).oscale ∧ (t.task i).acc = (s.task i).acc) ∧
     (∀ w, c.null = false → c.instr = .sstr w → ∃ t, exec .seracCommandComplete s = .next t ∧ Finished .serac i c s t ∧ t.mem = s.mem ∧
       ∀ k, (t.task i).strides.get k 0 = if opndIndex w.d ≤ k ∧ k < opndIndex w.d + c.vb.toNat then c.va.extractLsb' (4 * (k - opndIndex w.d)) 4
         else (s.task i).strides.get k 0) ∧
     (∀ (r : LayoutRec) (row col x y : Nat), x < 128 → y < 128 → (r.tileCells row col).getD (128 * x + y) none =
       if r.kaxis then r.element (row + y) (col + x) else r.element (row + x) (col + y)) ∧
     (∀ w, c.null = false → c.instr = .saccv w →
       (∀ b ∈ ((s.task i).accTile (opndIndex w.a)).bad, b < 1024 * c.vb.toNat ∨ 1024 * (c.vb.toNat + c.vc.toNat) ≤ b) → ((s.task i).accTile (opndIndex w.a)).poison = false →
       ∃ t, exec .seracCommandComplete s = .next t ∧ Finished .serac i c s t ∧ t.mem = s.mem ∧
         ∀ n, (t.task i).v.get n [] = if opndIndex w.d ≤ n ∧ n < opndIndex w.d + c.vc.toNat then
             (List.range 1024).map (fun l => ((s.task i).accTile (opndIndex w.a)).cells.getD (1024 * (c.vb.toNat + (n - opndIndex w.d)) + l) 0)
           else (s.task i).v.get n []) ∧
     (∀ w r, c.null = false → c.instr = .saccrd w → c.record 3 = some r → ((s.task i).accTile (opndIndex w.a)).bad = [] →
       ((s.task i).accTile (opndIndex w.a)).poison = false → (s.task i).oscale ≠ 0xFF →
       ∃ t, exec .seracCommandComplete s = .next t ∧ Finished .serac i c s t ∧ (∀ n, (t.task i).accTile n = (s.task i).accTile n) ∧
         t.mem = (s.writeCells i.tileId r.format (r.tileCells (fld c.vb 31 16) (fld c.vc 15 0)) (((s.task i).accTile (opndIndex w.a)).cells.map (fun x =>
           round ((decodeNum .f32 x.toNat).scale (127 - ((s.task i).oscale.toNat : Int))) r.format (Rnd.ofMod w.mod.toNat)))).mem) ∧
     (∀ w hi, c.null = false → (c.instr = .smm w ∨ c.instr = .smmz w) → s.event.len = 1 → s.stopRequested i = false →
       c.progress < fld c.vc 15 0 → hi = min (fld c.vc 15 0) (c.progress + s.groupLength i c) → hi ≤ s.stagedK i c →
       let old (n : Nat) : Nat := if c.progress = 0 ∧ c.instr = .smmz w then 0 else (((s.task i).accTile (opndIndex w.d)).cells.getD n 0).toNat
       let pa := s.panel i c 2 c.progress hi
       let pb := s.panel i c 3 c.progress hi
       ∃ t, exec .seracCommandComplete s = .next t ∧ t.mem = s.mem ∧ (∀ j, (t.strand j).regs = (s.strand j).regs) ∧
         ∀ r k, r < 128 → k < 128 → ((t.task i).accTile (opndIndex w.d)).cells.getD (128 * r + k) 0 =
           BitVec.ofNat 32 (round ((decodeNum .f32 (old (128 * r + k))).add .rne
             (groupAddend (pa.vals.getD r []) (pb.vals.getD k []) (pa.codes.getD r 0x7F) (pb.codes.getD k 0x7F))) .f32 .rne))) ∧
  (∀ (f : Format) (n x u v : Nat) (w row : Array Machine.Num),
     let zero : Machine.Num := .fin false 0 0
     let a := u * 2 ^ (x + 1) + v
     let b := a + 2 ^ x
     let q := u * 2 ^ x + v
     v < 2 ^ x → b < n →
     (stageRow f n x w row).length = n ∧
     (stageRow f n x w row).getD a 0 = pairSum f (w.getD (4 * q) zero) (row.getD a zero) (w.getD (4 * q + 1) zero) (row.getD b zero) ∧
     (stageRow f n x w row).getD b 0 = pairSum f (w.getD (4 * q + 2) zero) (row.getD a zero) (w.getD (4 * q + 3) zero) (row.getD b zero))

/-- R314 to R317: what each unit of a Moraine command reads, writes and counts. MCPY moves the bytes of an aligned 4 KiB of its destination; MNEST
and MCPY2 move run i1 of row (i2, i3) by their strides; MGTH and MSCT move row j of the dense side and row t of the table, or fill or skip when t is
out of range; MSPG moves the values between two row pointers and pads. -/
def Obligations.MoraineUnits : Prop :=
  ∀ (c : Command) (k t u : Nat),
    let w := c.word
    let src := w.mod.getLsbD 0
    let dst := w.mod.getLsbD 1
    let d (n : Nat) : Word64 := c.desc.getD n 0
    let swz (inTile : Bool) : Nat := if inTile then fld w.e 13 12 else 0
    let run (inTile : Bool) (lo : Int) (len : Nat) : Run := { inTile := inTile, lo := lo, len := len }
    let strided (n : Nat) : Int := (k : Int) * (d n).toInt
    (∀ x, c.instr = .mcpy x → c.vd.toNat % 4096 = 0 → 4096 * (k + 1) ≤ c.vb.toNat → unitOf c k [] =
      { read := some (run src (c.va.toNat + 4096 * k : Nat) 4096), write := some (run dst (c.vd.toNat + 4096 * k : Nat) 4096), items := 4096 }) ∧
    (∀ x i1 i2 i3, (c.instr = .mnest x ∨ c.instr = .mcpy2 x) → i1 < nestCount c.desc 1 → i2 < nestCount c.desc 2 →
      let k := (i3 * nestCount c.desc 2 + i2) * nestCount c.desc 1 + i1
      unitOf c k [] =
        { read := some { inTile := src, lo := (c.va.toNat : Int) + (i1 * (d 1).toInt + i2 * (d 3).toInt + i3 * (d 5).toInt), len := fld (d 0) 24 0, swz := swz src, rho := i1 }
          write := some { inTile := dst, lo := (c.vd.toNat : Int) + (i1 * (d 2).toInt + i2 * (d 4).toInt + i3 * (d 6).toInt), len := fld (d 0) 24 0, swz := swz dst, rho := i1 }
          items := 1 }) ∧
    (∀ x, c.instr = .mgth x → t < fld (d 1) 31 0 → unitOf c k [t] =
      { read := some (run src ((c.va.toNat : Int) + t * (d 2).toInt) (fld (d 0) 31 0)), items := 1
        write := some { inTile := dst, lo := (c.vd.toNat : Int) + strided 3, len := fld (d 0) 31 0, swz := swz dst, rho := k } }) ∧
    (∀ x, c.instr = .mgth x → fld (d 1) 31 0 ≤ t → unitOf c k [t] =
      { tail := (List.range (fld (d 0) 31 0)).map (fun j => (d 4).extractLsb' (8 * (j % 8)) 8), oor := 1
        write := some { inTile := dst, lo := (c.vd.toNat : Int) + strided 3, len := fld (d 0) 31 0, swz := swz dst, rho := k } }) ∧
    (∀ x, c.instr = .msct x → t < fld (d 1) 31 0 → unitOf c k [t] =
      { read := some { inTile := src, lo := (c.va.toNat : Int) + strided 3, len := fld (d 0) 31 0, swz := swz src, rho := k }, items := 1
        write := some (run dst ((c.vd.toNat : Int) + t * (d 2).toInt) (fld (d 0) 31 0)) }) ∧
    (∀ x, c.instr = .msct x → fld (d 1) 31 0 ≤ t → unitOf c k [t] = { oor := 1 }) ∧
    (∀ x e, c.instr = .mspg x → sparseSize (d 0) = e → u ≤ fld (d 1) 31 0 → u - t ≤ fld (d 0) 31 0 → t < u → unitOf c k [t, u] =
      { read := some (run src ((c.va.toNat + t * e : Nat) : Int) ((u - t) * e)), items := u - t
        tail := (List.replicate (fld (d 0) 31 0 - (u - t)) (natToBytes e (d 4).toNat)).flatten
        write := some { inTile := dst, lo := (c.vd.toNat : Int) + strided 3, len := fld (d 0) 31 0 * e, swz := swz dst, rho := k } })

/-- R185: when SACCZ acts on a tile, every element of it is +0, PROG is 0 and POISON is 0. -/
def Obligations.SacczClears : Prop :=
  ∀ (s : State) (c : Command) (w : Fields),
    let i := s.event.who.task
    (s.task i).serac.queue.head? = some c → c.started = true → s.atStop i c = false → (s.task i).live = true → c.null = false → c.instr = .saccz w →
    ∃ t, exec .seracCommandComplete s = .next t ∧ (∀ k, k < 16384 → ((t.task i).accTile (opndIndex w.d)).cells.getD k 1 = 0) ∧
      ((t.task i).accTile (opndIndex w.d)).prog = 0 ∧ ((t.task i).accTile (opndIndex w.d)).poison = false

/-- R117: a scale byte e from 0x00 to 0xFE has the value 2^(e - 127), and 0xFF is NaN. -/
def Obligations.ScaleBytes : Prop :=
  (∀ e : Nat, e < 0xFF → decodeNum .sc e = .fin false 1 ((e : Int) - 127)) ∧ decodeNum .sc 0xFF = .nan

/-! ## Tasks, loads and graphs -/

/-- R27, R30, R61, R208 to R210: GRID_DISPATCH of a grid whose next offer no other grid contends for places the grid's next index: a Running task in
the lowest free slot of the taker with its grants, its memory the data segment and zeros, its event counters 0, both strands Ready at their entries
with their stack pointers at their stacks' bases; the grid's next index rises by one. TASK_STRANDS_START lets both strands issue when their time has
come. R31, R34, R211, R212, R227: TASK_DONE of a Draining task whose engines have nothing left and whose strands have no record unanswered counts it
in its load, and its discarded tokens with it; TASK_SLOT_FREE of a Done task, or of a Killed one that has nothing on its way, frees its slot and its
grants: nothing of it or its strands is left, and what a Done task has sent is no longer the slot's. -/
def Obligations.TasksBeginAndEnd : Prop :=
  (∀ s : State,
     let l := s.event.load
     let grid := s.event.grid
     let g := (s.load l).grids.getD grid {}
     let h := g.hdr
     (∀ pos tile i m v e accs data, s.taker l grid = some (pos, tile) → grid < (s.load l).grids.length →
       (∀ x ∈ s.loads.entries, ∀ k, k < x.2.grids.length → (x.1, k) ≠ (l, grid) → ∀ p, s.taker x.1 k = some p → p.2 ≠ tile) →
       s.freeSlot tile = some i → s.grants tile h = some (m, v, e, accs) →
       s.readVirtual l.die (s.load l).domain (g.base.toNat + h.dataoff) h.datasize = some data → h.datasize ≤ h.tilemem * 4096 → s.MemoryCanonical →
       ∃ t, exec .gridDispatch s = .next t ∧ (t.task i).status = .running ∧ (t.task i).load = l ∧ (t.task i).grid = grid ∧ (t.task i).group = g.next ∧
         (t.task i).tmBase = m ∧ (t.task i).vBase = v ∧ (t.task i).evBase = e ∧ (t.task i).accTiles = accs ∧ (t.task i).hdr = h ∧
         (∀ k, (t.task i).token k = 0) ∧ (t.task i).started = false ∧
         (let top := m + h.tilemem * 4096
          let mid := top - h.sstack * 256
          (t.strand (i.strand .dusk)).status = .ready ∧ (t.strand (i.strand .dusk)).pc = g.base + h.duskEntry ∧
          (t.strand (i.strand .dusk)).stkbase = BitVec.ofNat 64 top ∧ (t.strand (i.strand .dusk)).stklim = BitVec.ofNat 64 mid ∧
          (t.strand (i.strand .dusk)).regs.get 30 0 = BitVec.ofNat 64 (top % 2 ^ 32) ∧
          (t.strand (i.strand .dawn)).status = .ready ∧ (t.strand (i.strand .dawn)).pc = g.base + h.dawnEntry ∧
          (t.strand (i.strand .dawn)).stkbase = BitVec.ofNat 64 mid ∧ (t.strand (i.strand .dawn)).stklim = BitVec.ofNat 64 (mid - h.astack * 256) ∧
          (t.strand (i.strand .dawn)).regs.get 30 0 = BitVec.ofNat 64 (mid % 2 ^ 64)) ∧
         (∀ k, k < h.events → t.counter tile (e + k) = 0) ∧ (∀ k, (k < e ∨ e + h.events ≤ k) → t.counter tile k = s.counter tile k) ∧
         (∀ k, k < h.tilemem * 4096 → Memory.read t.mem (tilePa tile m + k) = data.getD k 0) ∧
         (∀ a, (a < tilePa tile m ∨ tilePa tile m + h.tilemem * 4096 ≤ a) → Memory.read t.mem a = Memory.read s.mem a) ∧
         ((t.load l).grids.getD grid {}).next = g.next + 1 ∧ (∀ j, j ≠ i → t.task j = s.task j) ∧ t.net = s.net) ∧
     (let i := s.event.who.task
      (s.task i).status = .running → (s.task i).started = false → (s.task i).startAt ≤ s.clock →
       exec .taskStrandsStart s = .next (s.setTask i { s.task i with started := true }))) ∧
  (∀ s : State,
     let i := s.event.who.task
     let t := s.task i
     let l := s.load t.load
     (t.status = .draining → t.serac.queue = [] → t.moraine.queue = [] → t.serac.pending = [] → t.moraine.pending = [] →
       (∀ c, (s.strand (i.strand c)).fault = none ∧ (s.strand (i.strand c)).waiting = []) →
       exec .taskDone s = .next ((s.setTask i { t with status := .done }).setLoad t.load { l with
         tasksDone := l.tasksDone + 1, discarded := l.discarded + BitVec.ofNat 32 t.discarded
         firstDisc := if t.discarded ≠ 0 ∧ l.firstDisc = 0xFFFFFFFF then t.group else l.firstDisc
         trigDone := if l.trigv = true ∧ t.grid = l.trigg then l.trigDone + 1 else l.trigDone
         trigRisen := l.trigRisen || (l.trigv && t.grid == l.trigg && l.trigDone + 1 == l.trigcnt) })) ∧
     (t.status = .done ∨ (t.status = .killed ∧ (∀ a ∈ s.net, a.who.task ≠ i) ∧ ∀ r ∈ s.raises, r.who.task ≠ i) →
       ∃ u, exec .taskSlotFree s = .next u ∧ u.task i = {} ∧ u.strand (i.strand .dawn) = {} ∧ u.strand (i.strand .dusk) = {} ∧ u.mem = s.mem ∧ u.loads = s.loads ∧
         (∀ j, j ≠ i → u.task j = s.task j) ∧ (∀ n, u.counter i.tileId n = s.counter i.tileId n) ∧
         u.net.map Access.num = s.net.map Access.num ∧ ∀ a ∈ u.net, a.who.task = i → a.left ≠ none ∧ a.dest = none ∨ a ∈ s.net))

/-- R219 to R221: GRAPH_ENTRY_READ takes a queue's next entry with its graph descriptor and lists its loads; without WVALID load 0 is reached at
once, and with it once the other queue has completed enough graphs; a graph whose own fields are wrong has load 0 refused for reason 0x01. R225,
R229: GRAPH_COMPLETE of a graph whose loads are all final writes the completion record of each and ends the graph: COMPLETED rises by one, LASTSTAT
and LASTLOAD name the first Refused or Stopped load, and the graph's loads are gone. Here it has one load and asks for no interrupt. -/
def Obligations.GraphsRun : Prop :=
  (∀ s : State,
     let q : QueueId := ⟨s.event.die, s.event.queue⟩
     let r := s.queue q
     let dom := s.queueDomain q.die q.queue
     (∀ e h vas, r.graph = none → r.enable = true → r.head ≠ r.tail → s.readDwords q.die dom (r.base.toNat + 32 * (r.head.toNat % 2 ^ r.logsize.toNat)) 4 = some e →
       entryClean e = true → s.readDwords q.die dom (fld (e.getD 0 0) 55 0) 8 = some h → s.readDwords q.die dom (fld (e.getD 0 0) 55 0 + 64) (fld (h.getD 0 0) 51 44 + 1) = some vas →
       vas.length = fld (h.getD 0 0) 51 44 + 1 → (∀ v ∈ vas, fld v 63 56 = 0 ∧ fld v 6 0 = 0) → (e.getD 1 0).getLsbD 63 = false →
       ∃ t g, exec .graphEntryRead s = .next t ∧ (t.queue q).head = r.head + 1 ∧ (t.queue q).tail = r.tail ∧ (t.queue q).graph = some g ∧ g.started = true ∧
         g.nloads = fld (h.getD 0 0) 51 44 + 1 ∧ g.irq = (e.getD 1 0).getLsbD 0 ∧ t.mem = s.mem ∧
         (∀ k, k < vas.length → (t.load (graphLoad q k)).status = (if k = 0 then .configuring else .queued) ∧ (t.load (graphLoad q k)).va = BitVec.ofNat 64 (fld (vas.getD k 0) 55 0) ∧
           (t.load (graphLoad q k)).reason = (if k = 0 ∧ graphClean (fld (e.getD 0 0) 55 0) h = false then 1 else 0))) ∧
     (∀ g, r.graph = some g → g.started = false → g.wvalid = true → ((s.queue ⟨q.die, g.waitq⟩).completed - g.waitcnt).msb = false → (s.load (graphLoad q 0)).status = .queued →
       exec .graphEntryRead s = .next ((s.updQueue q (fun x => { x with graph := some { g with started := true } })).updLoad (graphLoad q 0) (fun l => { l with status := .configuring }))) ∧
     (∀ g, r.graph = some g → g.started = false → g.wvalid = true → ((s.queue ⟨q.die, g.waitq⟩).completed - g.waitcnt).msb = true → exec .graphEntryRead s = .next s)) ∧
  (∀ (s : State) (g : Graph) (p : Part),
     let q : QueueId := ⟨s.event.die, s.event.queue⟩
     let l := s.load (graphLoad q 0)
     let named : Bool := l.status == .refused || l.status == .stopped
     let state : Nat := match l.status with | .complete => 1 | .refused => 2 | .stopped => 3 | .exited => 4 | _ => 0
     let record : List Word64 :=
       [BitVec.ofNat 8 state ++ (if named then BitVec.ofNat 8 l.reason else 0) ++ (if l.status = .refused then BitVec.ofNat 16 l.entry else 0) ++ (0 : BitVec 32),
        l.tasksDone ++ l.tasksKilled, l.discarded ++ l.firstDisc, 0] ++
       (if l.status = .stopped then [l.record.dw0, l.record.dw1, l.record.dw2, l.record.dw3] else [0, 0, 0, 0])
     (s.queue q).graph = some g → g.saved = false → g.nloads = 1 → l.status.final = true → g.irq = false →
     (g.records = false → ∃ t, exec .graphComplete s = .next t ∧ t.mem = s.mem ∧ t.tasks = s.tasks ∧
       t.queue q = { s.queue q with graph := none, completed := (s.queue q).completed + 1, lastload := 0, laststat := if l.status = .refused then 1 else if l.status = .stopped then 2 else 0 } ∧
       ∀ e ∈ t.loads.entries, ¬ (e.1.die = q.die ∧ e.1.queue = q.queue)) ∧
     (g.records = true → g.parts.find? (fun x => x.block == g.statusVa.toNat / 65536) = some p → ∃ t, exec .graphComplete s = .next t ∧
       t.mem = (s.writePa (leafPa p.leaf p.level g.statusVa.toNat) (ofDwords record) (leafKey p.leaf)).mem ∧ (t.queue q).graph = none ∧ t.tasks = s.tasks))

/-- R224 to R228: LOAD_CONFIGURE refuses a load with the first failure in the order of the reasons, and the Queued loads after it are Skipped; else
it takes the tables and is Armed. REGION_IMAGE_VERIFIED configures a region from its image, or refuses its load with reason 0x05. LOAD_START makes an
Armed load Running, its regions with it, and reaches the next load; LOAD_COMPLETE and LOAD_EXIT end it. -/
def Obligations.LoadStates : Prop :=
  ∀ s : State,
    let l := s.event.load
    let x := s.load l
    let next : LoadId := ⟨l.die, l.queue, l.load + 1⟩
    (∀ tb f, x.status = .configuring → x.stopping = false → x.reason = 0 → s.pinRecords l = (s, true) → s.readTables l = some tb →
      firstFailure (s.failures tb l) = some f → f.1 ≤ 5 → ∃ t, exec .loadConfigure s = .next t ∧ (t.load l).status = .refused ∧ (t.load l).reason = f.1 ∧ (t.load l).entry = f.2 ∧
        t.mem = s.mem ∧ t.tasks = s.tasks ∧
        (∀ k y, l.load < k → s.loads.find? ⟨l.die, l.queue, k⟩ = some y → y.status = .queued → (t.load ⟨l.die, l.queue, k⟩).status = .skipped)) ∧
    (∀ tb, x.status = .configuring → x.stopping = false → x.reason = 0 → s.pinRecords l = (s, true) → s.readTables l = some tb →
      firstFailure (s.failures tb l) = none → tb.regionEntries = [] → s.free l tb = true → s.outranked l tb = false →
      ∃ t, exec .loadConfigure s = .next t ∧ (t.load l).status = .armed ∧ (t.load l).tiles = tb.tileEntries.map (fun w => ⟨tileOf w, tileGrid w⟩) ∧
        (t.load l).grids.length = tb.gridEntries.length ∧ (t.load l).priv = (tb.d.getD 0 0).getLsbD 51 ∧ (t.load l).nchan = tb.nchan ∧ t.mem = s.mem ∧ t.tasks = s.tasks ∧ t.strands = s.strands) ∧
    (let id : RegionId := ⟨s.event.die, s.event.region⟩
     let r := s.region id
     ∀ k tb, r.load = some k → (s.load k).status = .configuring → r.verified = false → s.readTables k = some tb →
      exec .regionImageVerified s = .next (match s.acceptImage tb.types id (s.load k).domain r.imageVa.toNat r.clksel with
        | some im => s.setRegion id { r with image := some im, verified := true, status := if r.status = .fetching then .loaded else r.status }
        | none => s.refuse k (5, r.entry))) ∧
    (x.status = .armed → x.gang = none → x.stopping = false → x.gating = [] → s.startReady l = true →
      ∃ t, exec .loadStart s = .next t ∧ (t.load l).status = .running ∧ t.mem = s.mem ∧ t.tasks = s.tasks ∧
        (∀ i r, s.regions.find? i = some r → t.region i = if r.load = some l ∧ r.status = .loaded then { r with status := .running } else r) ∧
        (∀ g, (s.queue ⟨l.die, l.queue⟩).graph = some g → l.load + 1 < g.nloads → (s.load next).status = .queued → (t.load next).status = .configuring)) ∧
    (x.status = .running → x.exitv = false → x.stopping = false → x.gating = [] → s.earlierFinal l = true → (∀ k, k < x.grids.length → s.gridComplete l k = true) → s.settled l = true →
      (∀ e ∈ s.chans.entries, e.1.load = l → e.2.quiet = true) → (∀ e ∈ s.regions.entries, e.2.load = some l → e.2.quiet = true) →
      ∃ t, exec .loadComplete s = .next t ∧ (t.load l).status = .complete ∧ t.mem = s.mem ∧ t.tasks = s.tasks ∧ (∀ e ∈ t.chans.entries, e.1.load ≠ l) ∧
        (∀ e ∈ t.regions.entries, e.2.load ≠ some l)) ∧
    (x.status = .running → x.exitv = true → x.stopping = false → x.gating = [] → x.exiting = true → s.settled l = true → s.earlierFinal l = true →
      ∃ t, exec .loadExit s = .next t ∧ (t.load l).status = .exited ∧ t.mem = s.mem ∧ t.tasks = s.tasks ∧ (∀ e ∈ t.chans.entries, e.1.load ≠ l))

/-! ## Hosts and responses -/

/-- R218, R247, R338, R377, R396 to R398, R438, R441, R442, R449: what the writes of registers that are events do, for the owner host of the die. A
graph queue is enabled with its size, priority and vector, from 0, and its TAIL moves within its size; an invalidation is outstanding; a running
region has a swap asked for, a busy one has RESULT 5; the fault queue is enabled from 0; tiles are halted; ownership is claimed and handed over, with
a new generation and every fault queue of the module disabled; tiles and regions rise to power, or lose it unless a load holds them; a save gates the
sources of a queue's graph, and a restore is asked for. -/
def Obligations.RegisterEvents : Prop :=
  ∀ s : State,
    let e := s.event
    let f := e.fn
    let v := e.value
    let d := s.die e.die
    let q : QueueId := ⟨e.die, e.queue⟩
    let r : RegionId := ⟨e.die, e.region⟩
    let g := s.region r
    let p := s.pkg f.pkg
    (s.Owns f e.die → e.queue < 4096 → v.getLsbD 63 = true → 4 ≤ fld v 59 55 → fld v 59 55 ≤ 16 → (s.queue q).enable = false →
      exec .graphQueueEnable s = .next (s.setQueue q { s.queue q with
        logsize := v.extractLsb' 55 5, prio := v.extractLsb' 60 3, vector := v.extractLsb' 44 11, enable := true, head := 0, tail := 0, completed := 0 })) ∧
    (s.Owns f e.die → e.queue < 4096 → ((v.extractLsb' 0 32 : Word32) - (s.queue q).head).toNat ≤ 2 ^ (s.queue q).logsize.toNat →
      exec .graphQueueTailWrite s = .next (s.setQueue q { s.queue q with tail := v.extractLsb' 0 32 })) ∧
    (s.Owns f e.die → d.issued - d.done ≠ 16 → exec .xinvStart s = .next (s.setDie e.die { d with
      issued := d.issued + 1, invs := d.invs ++ [{ domain := d.xinv0.extractLsb' 56 8, block := fld d.xinv0 55 16, nblk := v.extractLsb' 32 32 }] })) ∧
    (∀ l, s.Owns f e.die → e.region < 48 → g.status = .running → g.swap = none → g.load = some l → s.preempting l = false →
      exec .regionSwapRequest s = .next (s.setRegion r { g with swap := some { va := g.swapAddr.zeroExtend 64, clksel := fld v 5 0 } })) ∧
    (s.Owns f e.die → e.region < 48 → g.status ≠ .running → exec .regionSwapRequest s = .next (s.setRegion r { g with result := 5 })) ∧
    (s.Owns f e.die → v.getLsbD 63 = true → 4 ≤ fld v 62 58 → fld v 62 58 ≤ 16 → d.fqEnable = false → exec .fqctlEnable s = .next (s.setDie e.die { d with
      fqEnable := true, fqLogsize := v.extractLsb' 58 5, fqVector := v.extractLsb' 47 11, fqHead := 0, fqTail := 0 })) ∧
    (s.Owns f e.die → exec .tilehaltWrite s = .next (s.setDie e.die { d with tilehalt := v.extractLsb' 0 24 })) ∧
    (s.hostUp f = true → e.die / 8 = f.pkg → s.hostFrozen f = false → f.func = 0 → p.valid = false → (p.only = none ∨ p.only = some f.port) →
      ∃ t, exec .ownClaim s = .next t ∧ t.pkg f.pkg = { p with valid := true, port := f.port, gen := p.gen + 1, only := none } ∧
        (∀ k x, s.dies.find? k = some x → (t.die k).fqEnable = (if k / 8 = f.pkg then false else x.fqEnable)) ∧ t.mem = s.mem ∧ t.tasks = s.tasks) ∧
    (s.hostUp f = true → e.die / 8 = f.pkg → s.hostFrozen f = false → f.func = 0 → p.valid = true → p.port ≠ f.port → p.reject ≠ 0xFFFF →
      exec .ownClaim s = .next (s.setPkg f.pkg { p with reject := p.reject + 1 })) ∧
    (s.Owns f e.die → v.getLsbD 63 = true → ∃ t, exec .ownHandover s = .next t ∧
      t.pkg f.pkg = { p with valid := false, gen := p.gen + 1, only := some (v.getLsbD 62).toNat } ∧
      (∀ k x, s.dies.find? k = some x → (t.die k).fqEnable = (if k / 8 = f.pkg then false else x.fqEnable)) ∧ t.mem = s.mem ∧ t.tasks = s.tasks) ∧
    (s.Owns f e.die → ∃ t, exec .pwrtileWrite s = .next t ∧ t.loads = s.loads ∧ ∀ k, k < 24 →
      (t.die e.die).pwrtile.getLsbD k = (d.pwrtile.getLsbD k && (v.getLsbD k || s.tileHeld ⟨e.die, k⟩)) ∧
      (k ∈ (t.die e.die).risingTiles ↔ (v.getLsbD k = true ∧ (d.pwrtile.getLsbD k = false ∨ k ∈ d.risingTiles)) ∨
        (v.getLsbD k = false ∧ d.pwrtile.getLsbD k = true ∧ k ∈ d.risingTiles))) ∧
    (s.Owns f e.die → ∃ t, exec .pwrregWrite s = .next t ∧ t.loads = s.loads ∧ t.mem = s.mem ∧ ∀ k, k < 48 →
      (t.die e.die).pwrreg.getLsbD k = (d.pwrreg.getLsbD k && (v.getLsbD k || s.regionHeld ⟨e.die, k⟩)) ∧
      (k ∈ (t.die e.die).risingRegions ↔ (v.getLsbD k = true ∧ (d.pwrreg.getLsbD k = false ∨ k ∈ d.risingRegions)) ∨
        (v.getLsbD k = false ∧ d.pwrreg.getLsbD k = true ∧ k ∈ d.risingRegions))) ∧
    (∀ n, e.flag = true → n < 256 → e.addr = 0x200000 + 8 * n → exec .registerWrite s = .next (s.setDie e.die { d with
      roots := d.roots.set n ((v.extractLsb' 12 40).zeroExtend 52 <<< 12) })) ∧
    (∀ n, e.flag = false → s.Owns f e.die → n ≤ 64 → e.addr = 0x401000 + 8 * n → exec .registerWrite s = .next (s.setPkg f.pkg { p with
      fdom := p.fdom.set (0, n) (v.extractLsb' 0 8) })) ∧
    (let k := fld v 59 48
     let ls := s.savable ⟨e.die, k⟩
     s.Owns f e.die → e.flag = false → v.getLsbD 63 = false → d.prState ≠ 1 → d.prState ≠ 2 → d.prState ≠ 3 → d.prState ≠ 5 → d.preempt = none → ls ≠ [] →
      s.areaOk e.die (s.queueDomain e.die k) (d.preq0.toNat % 2 ^ 56) (s.areaBytes ls) = true → s.graphGang ls = none → s.saveMayBegin ⟨e.die, k⟩ [e.die] = true →
      ∃ t p, exec .preemptSaveRequest s = .next t ∧ (t.die e.die).preempt = some p ∧ p.restore = false ∧ p.queue = k ∧ p.begun = true ∧ (t.die e.die).prState = 1 ∧
        (t.die e.die).prResult = 0 ∧ (t.die e.die).prQueue = BitVec.ofNat 12 k ∧ t.mem = s.mem ∧ t.tasks = s.tasks ∧ (∀ l ∈ ls, e.die ∈ (t.load l).gating)) ∧
    (let k := fld v 59 48
     ∀ x, s.Owns f e.die → v.getLsbD 63 = true → d.prState ≠ 1 → d.prState ≠ 2 → d.prState ≠ 3 → d.prState ≠ 5 → d.preempt = none → s.saved.find? ⟨e.die, k⟩ = some x →
      s.areaOk e.die (s.queueDomain e.die k) (d.preq0.toNat % 2 ^ 56) x.bytes = true →
      ∃ p, p.restore = true ∧ p.queue = k ∧ exec .preemptRestoreRequest s = .next (s.setDie e.die { d with
        preempt := some p, prQueue := BitVec.ofNat 12 k, prResult := 0, prState := 5 }))

/-- R34, R380, R381, R394 (by the response register of R377): a resume answers the open entry of a strand's fault: the strand goes on at its resume
point, or behind a TRAP or BKPT, or at the address given; sr.fault holds the code, the entry is answered and counted. A task may be killed and a load
stopped instead; an unknown sequence number answers 1, an action that its kind does not admit 2, and nothing else changes. R34, R377, R380 to R382,
R389: the six actions of a response to an open entry. RESUME lets a faulted strand go on where it stopped; RESUME_STACK also sets its stack limit;
RESUME_AT sends it to an address of its stream; KILL ends its task; STOP_LOAD stops its load, whose record has the cycle of the stop; CONTINUE lets a
frozen function go on, or does nothing to a reported deadlock. -/
def Obligations.ResponsesToFaults : Prop :=
  (∀ (s : State) (die : Nat) (who : StrandId) (e : FqEntry) (f : StrandFault),
     let d := s.die die
     let seq := d.fqResp0.extractLsb' 32 32
     let action := fld d.fqResp0 31 28
     let found := d.fqOpen.reverse.find? (fun x => x.seq == seq && x.kept.isNone)
     let t := s.respond die
     let answered : Prop := (t.die die).fqLast = 0 ∧ (t.die die).fqAccepted = d.fqAccepted + 1 ∧ (t.die die).fqOpen = d.fqOpen.erase e
     (found = none → (t.die die).fqLast = 1 ∧ (t.die die).fqOpen = d.fqOpen ∧ t.strands = s.strands ∧ t.tasks = s.tasks) ∧
     (found = some e → kindAdmits e.kind action = false → (t.die die).fqLast = 2 ∧ (t.die die).fqOpen = d.fqOpen ∧ t.strands = s.strands ∧ t.tasks = s.tasks) ∧
     (found = some e → e.kind = 0 → e.of = .strand who → e.saved = none → (s.task who.task).status = .running → (s.strand who).status = .faulted →
       (s.strand who).fault = some f → f.retry = .none → f.park = none → (s.strand who).waiting = [] → who.die = die →
       (action = 1 → f.code ≠ .trap → f.code ≠ .bkpt → answered ∧ (t.strand who).status = .ready ∧ (t.strand who).pc = (s.strand who).pc ∧
         (t.strand who).faultCode.toNat = f.code.num ∧ (t.strand who).fault = none ∧ (t.strand who).regs = (s.strand who).regs) ∧
       (action = 1 → f.code = .trap ∨ f.code = .bkpt →
         ((s.strand who).pc + 12).toNat < (s.strand who).sectStart.toNat + 12 * (s.strand who).sectLen →
         (∀ l ∈ (s.strand who).loops.head?, ¬ (l.depth = (s.strand who).depth ∧ l.last = (s.strand who).pc)) →
         answered ∧ (t.strand who).status = .ready ∧ (t.strand who).pc = (s.strand who).pc + 12) ∧
       (action = 3 → (s.wordSection who d.fqResp1).isSome = true → answered ∧ (t.strand who).status = .ready ∧ (t.strand who).pc = d.fqResp1) ∧
       (action = 3 → s.wordSection who d.fqResp1 = none → (t.die die).fqLast = 3 ∧ (t.strand who) = s.strand who))) ∧
  (∀ (s : State) (e : FqEntry) (w : StrandId) (x : StrandFault),
     let st := s.strand w
     let ready : Strand := { st with status := .ready, fault := none, faultCode := BitVec.ofNat 8 x.code.num }
     let faulted : Prop := e.of = .strand w ∧ e.kind = 0 ∧ st.status = .faulted ∧ st.fault = some x ∧ x.park = none ∧ x.retry = .none ∧ st.waiting = []
     (s.Answers 1 e → faulted → x.code ≠ .trap → x.code ≠ .bkpt → ∃ t, exec .fqResume s = .next t ∧ AnswerTaken s t ∧ t.strand w = ready) ∧
     (s.Answers 2 e → faulted → x.code ≠ .trap → x.code ≠ .bkpt → st.stkbase.toNat % 8 = 0 → s.event.value2.toNat % 8 = 0 → (s.task w.task).tmBase ≤ s.event.value2.toNat →
       s.event.value2.toNat ≤ st.stkbase.toNat → st.stkbase.toNat ≤ (s.task w.task).tmBase + (s.task w.task).tmSize →
       ∃ t, exec .fqResumeStack s = .next t ∧ AnswerTaken s t ∧ t.strand w = { ready with stklim := s.event.value2 }) ∧
     (s.Answers 3 e → faulted → (s.wordSection w s.event.value2).isSome = true →
       ∃ t, exec .fqResumeAt s = .next t ∧ AnswerTaken s t ∧ (t.strand w).status = .ready ∧ (t.strand w).fault = none ∧ (t.strand w).pc = s.event.value2 ∧
         (t.strand w).regs = st.regs ∧ (t.strand w).faultCode = BitVec.ofNat 8 x.code.num) ∧
     (s.Answers 4 e → e.of = .strand w → e.kind = 0 → (s.task w.task).live = true → (s.tasks.find? w.task).isSome = true → (s.strands.find? w).isSome = true →
       ∃ t, exec .fqKill s = .next t ∧ AnswerTaken s t ∧ (t.task w.task).status = .killed ∧ (t.task w.task).serac.queue = [] ∧ (t.task w.task).moraine.queue = [] ∧
         (t.strand w).status = .ended) ∧
     (s.Answers 5 e → e.of = .strand w → e.kind = 0 → (s.load (s.task w.task).load).status.final = false → (s.load (s.task w.task).load).stopping = false →
       ∃ t, exec .fqStopLoad s = .next t ∧ AnswerTaken s t ∧ (t.load (s.task w.task).load).stopping = true ∧ (t.load (s.task w.task).load).record = s.restamp ⟨s.event.die, e.tile⟩ e.record) ∧
     (∀ f, s.Answers 6 e → e.of = .host f → e.kind = 2 → ∃ t, exec .fqContinue s = .next t ∧ AnswerTaken s t ∧
       (t.die s.event.die).frozen = (s.die s.event.die).frozen.filter (fun y => y ≠ (f.port, f.func)) ∧ t.tasks = s.tasks) ∧
     (∀ l ts, s.Answers 6 e → e.of = .deadlock l ts → e.kind = 3 → ∃ t, exec .fqContinue s = .next t ∧ AnswerTaken s t ∧ t.tasks = s.tasks ∧ t.strands = s.strands))

/-- R382, R383, R435 to R438: a host function's request to memory within one granule of HBM or of a tile reads or writes it, at once or after it has
been in flight; a fetch-and-add and a swap answer the old value; a request that the translation refuses freezes the function and raises an entry; a
read of a register answers it; a read of a hole of the control space freezes; a Function Level Reset ends what ACTION 0x5 left. -/
def Obligations.HostRequests : Prop :=
  ∀ (s : State) (pa : Nat) (leaf : Word64),
    let e := s.event
    let f := e.fn
    let key := leafKey leaf
    let n := if e.flag then e.data.length else e.len
    let reaches (u : Use) : Prop := s.hostUp f = true ∧ e.die / 8 = f.pkg ∧ s.hostFrozen f = false ∧ (s.die e.die).phase = 0 ∧ e.addr + n ≤ 2 ^ 46 ∧ 0 < n ∧ e.addr % 64 + n ≤ 64 ∧
      s.walkUp e.die (s.fnDomain f) e.addr = true ∧ s.pathUp e.die pa = true ∧ s.hostReqs = [] ∧
      (∃ lvl, s.walkTables e.die (s.fnDomain f) e.addr = .ok (leaf, lvl) ∧ s.checkPart leaf lvl e.addr n u (s.fnDomain f) false = .ok pa) ∧
      (placeOf pa = .hbm ∨ ∃ x o, placeOf pa = .tile x o)
    let answered (data : List Byte) (t : State) : Prop := t.replies = s.replies ++ [⟨f, false, data⟩]
    (e.wide = false → e.flag = false → e.source = none → reaches .load → s.isDamaged pa e.len = false →
      exec .hostMemoryRequest s = .next { s with replies := s.replies ++ [⟨f, false, s.readPa pa e.len key⟩], nextAccess := s.nextAccess + 1 }) ∧
    (e.wide = false → e.source = some 0 → reaches (if e.flag then .store else .load) → exec .hostMemoryRequest s = .next { s with
      hostReqs := [{ num := s.nextAccess, fn := f, die := e.die, write := e.flag, data := e.data, parts := [(pa, n, leaf)] }], nextAccess := s.nextAccess + 1 }) ∧
    (∀ h, e.wide = false → e.source = some (h.num + 1) → e.index = 0 → s.hostReqs = [h] → h.parts = [(pa, n, leaf)] → h.done = [] → h.got = [] → h.bad = false → h.write = false →
      s.pathUp h.die pa = true → (placeOf pa = .hbm ∨ ∃ x o, placeOf pa = .tile x o) → s.isDamaged pa n = false →
      exec .hostMemoryRequest s = .next { s with hostReqs := [], replies := s.replies ++ [⟨h.fn, false, s.readPa pa n key⟩] }) ∧
    (e.wide = false → e.flag = true → e.source = none → reaches .store → ∃ t, exec .hostMemoryRequest s = .next t ∧ t.mem = (s.writePa pa e.data key).mem ∧ t.replies = s.replies ∧ t.tasks = s.tasks) ∧
    (∀ x, e.wide = false → e.flag = false → (e.source = none ∨ e.source = some 0) → s.walkUp e.die (s.fnDomain f) e.addr = true → s.hostUp f = true → e.die / 8 = f.pkg → s.hostFrozen f = false → (s.die e.die).phase = 0 → e.addr + e.len ≤ 2 ^ 46 → 0 < e.len → e.addr % 64 + e.len ≤ 64 →
      s.walkTables e.die (s.fnDomain f) e.addr = .error x → ∃ t, exec .hostMemoryRequest s = .next t ∧ (f.port, f.func) ∈ (t.die e.die).frozen ∧
        t.replies = s.replies ++ [⟨f, true, []⟩] ∧ t.mem = s.mem) ∧
    (e.wide = true → e.flag = false → s.Owns f e.die → e.addr = sysOffset 0x60 → e.len = 8 →
      exec .hostMemoryRequest s = .next { s with replies := s.replies ++ [⟨f, false, natToBytes 8 (s.die e.die).tilehalt.toNat⟩] }) ∧
    (e.wide = true → e.flag = false → s.Owns f e.die → ctrlRegister e.addr = false → ∃ t, exec .hostMemoryRequest s = .next t ∧ (f.port, f.func) ∈ (t.die e.die).frozen ∧
      t.replies = s.replies ++ [⟨f, true, []⟩] ∧ t.mem = s.mem) ∧
    (e.flag = false → (e.len = 4 ∨ e.len = 8) → e.addr % e.len = 0 → reaches .atomic → s.isDamaged pa e.len = false →
      let old := bytesToNat (s.readPa pa e.len key)
      (e.op = .fetchAdd → ∃ t, exec .hostAtomic s = .next t ∧ answered (natToBytes e.len old) t ∧
        t.mem = (s.writePa pa (natToBytes e.len ((old + e.value.toNat % 2 ^ (8 * e.len)) % 2 ^ (8 * e.len))) key).mem) ∧
      (e.op = .swap → ∃ t, exec .hostAtomic s = .next t ∧ answered (natToBytes e.len old) t ∧ t.mem = (s.writePa pa (natToBytes e.len e.value.toNat) key).mem) ∧
      (e.op = .cas → old ≠ e.value2.toNat % 2 ^ (8 * e.len) → ∃ t, exec .hostAtomic s = .next t ∧ answered (natToBytes e.len old) t ∧ t.mem = s.mem)) ∧
    (∀ k d, s.dies.find? k = some d → ∃ t, exec .functionLevelReset s = .next t ∧ t.mem = s.mem ∧ t.tasks = s.tasks ∧
      (k / 8 ≠ f.pkg → t.die k = d) ∧
      (k / 8 = f.pkg → (f.port, f.func) ∈ d.frozenHard → (f.port, f.func) ∉ (t.die k).frozen ∧ (f.port, f.func) ∉ (t.die k).frozenHard) ∧
      (k / 8 = f.pkg → f.func = 0 → ∀ y, y ≠ 0 → (f.port, y) ∉ (t.die k).frozen))

/-! ## Planes, faults, channels, pre-emption and the module -/

/-- R247, R256, R262 to R266: a planned retirement or restoration, a fault or a stall of 2^16 cycles begins a rehash, and firmware names a plane to
be restored in every die's next map; while a plane is live for its messages, STOP sets a die's PHASE to 1, DRAINED to 2 once nothing of the die is on
its way or, of a plane that is lost, has been told so, a read to be sent again, COMMIT takes the new map and live planes, counts GEN and sets 3,
unless the map names a dead plane, when firmware's default takes its place; COMMITTED reports, and RESUME sets 0. XINV_COMPLETE drops the range of an
invalidation from every cache, and completes the oldest once its pins are gone. -/
def Obligations.PlanesAndInvalidations : Prop :=
  ∀ s : State,
    let p := s.event.plane
    let d := s.event.die
    let x := s.die d
    let spare : Prop := (∃ k, k < 4 ∧ k ≠ p ∧ s.planeLive k = true) ∧ ∀ k ∈ s.ringDies, (s.die k).phase ≠ 3
    let up : Prop := s.systemPlane.isSome = true
    (s.rehash = none → p < 4 → s.event.flag = false → s.planeLive p = true → spare →
      exec .planeRetirePlanned s = .next { s with rehash := some { retire := [p], restore := [], lost := false } }) ∧
    (s.rehash = none → p < 4 → s.event.flag = true → s.planeLive p = false → ∃ t, exec .planeRetirePlanned s = .next t ∧ t.rehash = some { restore := [p] } ∧ t.mem = s.mem ∧ t.tasks = s.tasks ∧
      (∀ k, k ∈ s.ringDies → ∃ n, n < 256 ∧ ((t.die k).pmapNext.get n (BitVec.ofNat 2 n)).toNat = p) ∧ (∀ k, k ∉ s.ringDies → t.die k = s.die k)) ∧
    (s.rehash = none → s.planeLive p = true → spare → exec .planeFaultDetect s = .next { s with rehash := some { retire := [p], restore := [], lost := true } }) ∧
    (s.rehash = none → 65536 ≤ s.planeIdle.get p 0 → s.planeLive p = true → spare →
      exec .planeStallTimeout s = .next { s with rehash := some { retire := [p], restore := [], lost := true } }) ∧
    (s.planeIdle.get p 0 < 65536 → exec .planeStallTimeout s = .next s) ∧
    (∀ r, s.rehash = some r → d ∉ r.told → d ∈ s.ringDies → up → exec .rehashStop s = .next ({ s with rehash := some { r with told := r.told ++ [d] } }.setDie d
      { x with phase := 1, lost := r.lost })) ∧
    (∀ r, s.rehash = some r → d ∈ r.told → d ∉ r.drained → s.event.flag = false → up → (∀ a ∈ s.net, a.who.die = d → a.resend = true) → (∀ h ∈ s.hostReqs, h.die ≠ d) →
      exec .rehashDrained s = .next { s.setDie d { x with phase := 2 } with rehash := some { r with drained := r.drained ++ [d] } }) ∧
    (∀ r, s.rehash = some r → d ∈ r.told → d ∉ r.drained → r.lost = false → up → (∃ a ∈ s.net, a.who.die = d ∧ a.resend = false) →
      exec .rehashDrained s = .next (s.setDie d { x with phase := 2 })) ∧
    (∀ r a, s.rehash = some r → d ∈ r.told → d ∉ r.drained → s.event.flag = false → up → r.lost = true → s.net = [a] → a.who.die = d → a.resend = false → a.plane ∈ r.retire → a.kind = .ldg →
      s.hostReqs = [] → exec .rehashDrained s = .next { s.setDie d { x with phase := 2 } with net := [a.again], rehash := some { r with drained := r.drained ++ [d] } }) ∧
    (∀ r, s.rehash = some r → (∀ k ∈ s.ringDies, k ∈ r.drained) → x.phase = 2 → d ∈ r.drained → up → (∀ n, n < 256 → (x.liveAfter r).getLsbD ((x.pmapNext.get n (BitVec.ofNat 2 n)).toNat) = true) →
      exec .rehashCommit s = .next ({ s with rehash := some { r with behind := r.behind.filter (fun k => k ≠ d) } }.setDie d
        { x with pmap := x.pmapNext, live := x.liveAfter r, gen := x.gen + 1 + BitVec.ofNat 32 (r.behind.count d), phase := 3 })) ∧
    (∀ r n, s.rehash = some r → (∀ k ∈ s.ringDies, k ∈ r.drained) → x.phase = 2 → d ∈ r.drained → up → n < 256 → (x.liveAfter r).getLsbD ((x.pmapNext.get n (BitVec.ofNat 2 n)).toNat) = false →
      exec .rehashCommit s = .next (s.setDie d { x with pmapNext := defaultMap x.pmap (x.liveAfter r) })) ∧
    (∀ r, s.rehash = some r → x.phase = 3 → d ∉ r.committed → d ∈ r.drained → up →
      exec .rehashCommitted s = .next { s with rehash := some { r with committed := r.committed ++ [d] } }) ∧
    (∀ r, s.rehash = some r → (∀ k ∈ s.ringDies, k ∈ r.committed) → d ∉ r.resumed → d ∈ s.ringDies → up → ∃ t, exec .rehashResume s = .next t ∧ (t.die d).phase = 0 ∧ t.mem = s.mem ∧
      t.rehash = (if s.ringDies.all (fun k => (r.resumed ++ [d]).contains k) then none else some { r with resumed := r.resumed ++ [d] }) ∧
      t.net.map Access.num = s.net.map Access.num ∧ ((∀ a ∈ s.net, a.awaits = false) → ∀ a ∈ t.net, a.who.die = d → a.resend = false)) ∧
    (∀ v rest, s.event.flag = true → up → x.phase = 0 → x.invs = v :: rest → v.dropped = false → ∃ t w, exec .xinvComplete s = .next t ∧ (t.die d).invs = w :: rest ∧ w.dropped = true ∧
      w.domain = v.domain ∧ w.block = v.block ∧ w.nblk = v.nblk ∧ t.mem = s.mem ∧ (∀ i y, s.tiles.find? i = some y → (t.tile i).tcache = y.tcache.filter (fun e => !v.hitsPage e))) ∧
    (∀ v rest, s.event.flag = false → x.phase = 0 → x.invs = v :: rest → v.dropped = true → s.pinsGone v = true →
      exec .xinvComplete s = .next (s.setDie d { x with invs := rest, done := x.done + 1 })) ∧
    (∀ v rest, s.event.flag = false → x.invs = v :: rest → v.dropped = false → exec .xinvComplete s = .next s)

/-- R378, R379, R386 to R389: FAULT_ENTRY_WRITE writes the oldest waiting entry at HEAD and HEAD rises, with a message to the owner; LOAD_STOP of a
load whose shared state is damaged closes it and raises its entry, and LOAD_STOPPED makes it Stopped once that has been written and its accesses are
over; SCRUB_UNCORRECTABLE raises a kind-4 entry for a granule of HBM4 of which no strand's read is in flight (the model's choice, log entry 25);
DEADLOCK_DETECT raises a kind-3 entry after a quiet window. -/
def Obligations.FaultSystem : Prop :=
  ∀ s : State,
    let die := s.event.die
    let x := s.die die
    let l := s.event.load
    (∀ e rest, x.fqPending = e :: rest → x.fqEnable = true → (x.fqHead - x.fqTail).toNat < 2 ^ x.fqLogsize.toNat → e.kind < 8 →
      let extra := if e.kind = 1 then (match e.of with | .load k => (s.load k).extra | _ => e.extra) else e.extra
      let at' := x.fqbase.toNat / 128 * 128 + 128 * (x.fqHead.toNat % 2 ^ x.fqLogsize.toNat)
      let dws : List Word64 := [e.record.dw0, e.record.dw1, e.record.dw2, e.record.dw3,
        BitVec.ofNat 5 (die / 8) ++ BitVec.ofNat 3 (die % 8) ++ BitVec.ofNat 5 e.tile ++ BitVec.ofNat 3 e.kind ++ BitVec.ofNat 12 e.queue ++ BitVec.ofNat 8 e.load ++ (0 : BitVec 28),
        x.fqHead ++ extra, 0, 0]
      ∃ t, exec .faultEntryWrite s = .next t ∧ (t.die die).fqHead = x.fqHead + 1 ∧ (t.die die).fqPending = rest ∧ t.mem = s.mem ∧ t.tasks = s.tasks ∧
        (∀ k, k < 8 → t.hostMem.get (die / 8, at' + 8 * k) 0 = dws.getD k 0 ∧ t.hostMem.get (die / 8, at' + 64 + 8 * k) 0 = e.body.getD k 0) ∧
        ((s.pkg (die / 8)).valid = true → t.msix = s.msix ++ [⟨die / 8, (s.pkg (die / 8)).port, 0, x.fqVector.toNat⟩])) ∧
    (x.fqEnable = false → exec .faultEntryWrite s = .next s) ∧
    ((s.loads.find? l).isSome = true → (s.load l).status = .running → (s.load l).stopping = false → x.preempt = none → (s.die l.die).preempt = none →
      ∃ t, exec .loadStop s = .next t ∧ (t.load l).stopping = true ∧ (t.load l).reason = 0x13 ∧ t.mem = s.mem ∧
        (∃ e, (t.die die).fqPending.getLast? = some e ∧ e.of = .load l ∧ e.kind = 1 ∧ e.queue = l.queue ∧ e.load = l.load)) ∧
    ((s.load l).stopping = true → (∀ d ∈ s.dies.entries, ∀ e ∈ d.2.fqPending, e.of = .load l → e.kind ≠ 1) →
      s.settled l = true → ∃ t, exec .loadStopped s = .next t ∧ (t.load l).status = .stopped ∧ (t.load l).stopping = false ∧ t.mem = s.mem ∧
        (∀ k y, l.load < k → s.loads.find? ⟨l.die, l.queue, k⟩ = some y → y.status = .queued → (t.load ⟨l.die, l.queue, k⟩).status = .skipped) ∧ (∀ e ∈ t.chans.entries, e.1.load ≠ l)) ∧
    (let pa := s.event.addr / 64 * 64
     placeOf pa = .hbm → s.diePresent (dieOf pa) = true → pa < 2 ^ 52 → s.readInFlight (pa / 64) = false → ∃ t, exec .scrubUncorrectable s = .next t ∧ pa ∈ t.damaged ∧ t.mem = s.mem ∧
      (∃ e, (t.die (dieOf pa)).fqPending = (s.die (dieOf pa)).fqPending ++ [e] ∧ e.kind = 4 ∧ e.body = [BitVec.ofNat 64 pa])) ∧
    (∀ d, (s.load l).detectors.find? (fun y => y.die == die) = some d → (s.load l).runsOn die = true → d.silent = false → 2 ^ x.ddwin.toNat ≤ d.quiet → s.waiters l die ≠ [] →
      x.ringReady = true → x.fqPending = [] → ∃ t e, exec .deadlockDetect s = .next t ∧ (t.die die).fqPending = [e] ∧ e.kind = 3 ∧ fld e.record.dw0 63 56 = FaultCode.deadlock.num ∧ t.mem = s.mem ∧
        t.tasks = s.tasks ∧ (∀ y ∈ (t.load l).detectors, y.die = die → y.silent = true ∧ y.quiet = 0))

/-- R259, R334 to R336, R341, R450: a channel without a converter sends its next beat as a packet with the next sequence number when every
destination has a place for it, one with a converter the beats that it has made, and a packet of before a rehash is sent again first; a packet in
order joins its destination's queue, and one landed again is discarded; the last acknowledgement frees it; OFF stops the source and ON, at ONTH, lets
it go on. R325, R327, R338, R339, R356: a region's output port takes a token into its partial beat or sends it; a sealed operator takes the next
token of an input port while it holds no more than its BUF; a configuration error makes the region Failed; a swap closes a region whose new image is
accepted, and, once it is idle without state, it is Swapping, and then the new image runs; else it is refused, with RESULT 2, 3 or, 2^20 region
clocks after it closed (of 2.0 GHz tile cycles: log entry 33), 4. -/
def Obligations.ChannelsAndRegions : Prop :=
  (∀ s : State,
     let id := s.event.chan
     let c := s.chan id
     let n := s.event.dest
     (∀ b rest plane, s.mayOffer id c = true → c.converts = false → (∀ p ∈ c.unacked, p.sent = true) → c.waiting = [] → c.outq = b :: rest → s.stripe c.src.die c.nextSeq = some plane → 1 ≤ c.depth →
       (∀ d ∈ c.dests, d.occupancy + c.unacked.length + 1 ≤ c.depth) → exec .channelPacketSend s = .next (s.setChan id { c with
         outq := rest, nextSeq := c.nextSeq + 1, unacked := c.unacked ++ [{ seq := c.nextSeq, beat := { b with toks := b.toks.map inBand }, plane := plane }] })) ∧
     (∀ b rest plane, s.mayOffer id c = true → (∀ p ∈ c.unacked, p.sent = true) → c.waiting = b :: rest → s.stripe c.src.die c.nextSeq = some plane → c.destRoom = 1 →
       exec .channelPacketSend s = .next (s.setChan id { c with waiting := rest, nextSeq := c.nextSeq + 1, unacked := c.unacked ++ [{ seq := c.nextSeq, beat := b, plane := plane }] })) ∧
     (∀ p plane, s.mayOffer id c = true → c.unacked.find? (fun p => !p.sent) = some p → s.stripe c.src.die p.seq = some plane → exec .channelPacketSend s = .next (s.setChan id { c with
       unacked := c.unacked.map (fun q => if q.seq = p.seq then { q with sent := true, plane := plane } else q) })) ∧
     (s.mayOffer id c = false → exec .channelPacketSend s = .next s) ∧
     (∀ p d, c.unacked.find? (fun p => p.seq.toNat == s.event.seq) = some p → c.dests[n]? = some d → s.packetTravels c p = true → p.seq = d.expect → d.early = [] → s.wakeTile d.home = s →
       (s.port d.port).threshold = 0 → exec .channelPacketArrive s = .next (s.setChan id { c with dests := listSet c.dests n (fun _ => { d with
         beats := d.beats ++ [p.beat], expect := d.expect + 1, offSent := d.offSent || (decide (c.offth ≤ d.beats.length + 1) && !d.off) }) })) ∧
     (∀ p d, c.unacked.find? (fun p => p.seq.toNat == s.event.seq) = some p → c.dests[n]? = some d → d.landed p.seq = true → exec .channelPacketArrive s = .next s) ∧
     (∀ p d, c.unacked.find? (fun p => p.seq.toNat == s.event.seq) = some p → c.dests[n]? = some d → d.landed p.seq = true → n ∉ p.acked → s.packetTravels c p = true →
       (c.dests.length ≤ p.acked.length + 1 → (s.port c.src).threshold = 0 → exec .channelAck s = .next (s.setChan id { c with unacked := c.unacked.filter (fun q => q.seq ≠ p.seq) })) ∧
       (p.acked.length + 1 < c.dests.length → exec .channelAck s = .next (s.setChan id { c with
         unacked := c.unacked.map (fun q => if q.seq = p.seq then { q with acked := n :: p.acked } else q) }))) ∧
     exec .channelOff s = .next (s.setChan id { c with dests := listSet c.dests n (fun d => if d.offSent = true then { d with off := true } else d) }) ∧
     exec .channelOn s = .next (s.setChan id { c with dests := listSet c.dests n (fun d =>
       if d.off = true ∧ d.occupancy ≤ c.onth then { d with off := false, offSent := false } else d) })) ∧
  (∀ s : State,
     let id : RegionId := ⟨s.event.die, s.event.region⟩
     let r := s.region id
     let n := s.event.port
     let key := linkKey (1016 + n) 0
     let p := regionPort id true n
     (∀ t ts k c, r.links.get key [] = t :: ts → (r.status = .running ∨ r.status = .closing) → r.still = false → s.boundTo p = some (k, c) → isData t = false → 2 ≤ c.room →
       ∃ u, exec .regionOutputPortTake s = .next u ∧ (u.region id).links.get key [] = ts ∧ (u.chan k).partialBeat = [] ∧ u.mem = s.mem ∧
         (u.chan k).outq = c.outq ++ (if c.partialBeat.isEmpty then [] else [⟨c.partialBeat, false⟩]) ++ [⟨[t], false⟩]) ∧
     (∀ v ts k c, r.links.get key [] = Tok.elem v :: ts → (r.status = .running ∨ r.status = .closing) → r.still = false → s.boundTo p = some (k, c) →
       c.partialBeat.length + 1 < beatElems (typeFormat c.stype) → ∃ u, exec .regionOutputPortTake s = .next u ∧ (u.region id).links.get key [] = ts ∧ u.mem = s.mem ∧
         (u.chan k).partialBeat = c.partialBeat ++ [.elem (BitVec.ofNat 32 (elemOf (typeFormat c.stype) v))] ∧ (u.chan k).outq = c.outq) ∧
     (∀ im t ts, s.event.flag = false → r.image = some im → im.kind = 1 → r.still = false → (r.status = .running ∨ r.status = .closing) → r.gatedIn = false →
       s.inToks (regionPort id false n) = t :: ts →
       let y : Region := { r with moved := s.clock, sealedIn := r.sealedIn.set n (r.sealedIn.get n [] ++ [graphToken (s.portType (regionPort id false n)) t]) }
       exec .sealedOperatorFire s = .next (if y.sealedPending im ≤ im.buf then (s.consume (regionPort id false n) 1).setRegion id y else s)) ∧
     (r.status = .running → ∃ u, exec .regionConfigError s = .next u ∧ (u.region id).status = .failed ∧ u.mem = s.mem ∧ u.tasks = s.tasks) ∧
     (∀ w, r.swap = some w → r.status = .running → w.image = none → (s.die id.die).phase = 0 →
       exec .regionSwapImageChecked s = .next (s.setRegion id (match s.acceptImage s.boundTypes id (s.regionDomain r) w.va.toNat w.clksel with
         | none => { r with result := 2, swap := none }
         | some im => { r with status := .closing, gatedIn := true, swap := some { w with image := some im, closed := true, since := s.clock } }))) ∧
     (∀ w old im, r.swap = some w → r.image = some old → w.image = some im → r.status = .closing → w.closed = true → s.regionIdle id r old = true → r.holdsState old = true →
       exec .regionSwapIdle s = .next (s.setRegion id { r with status := .running, gatedIn := false, swap := none, result := 3 })) ∧
     (∀ w old im, r.swap = some w → r.image = some old → w.image = some im → r.status = .closing → w.closed = true → s.regionIdle id r old = true → r.holdsState old = false →
       ∃ u, exec .regionSwapIdle s = .next u ∧ (u.region id).status = .swapping ∧ (u.region id).image = some im ∧ (u.region id).clksel = w.clksel ∧ (u.region id).swap = some w ∧
         (u.region id).elems = {} ∧ u.tasks = s.tasks) ∧
     (∀ w old im, r.swap = some w → r.image = some old → w.image = some im → r.status = .swapping →
       exec .regionSwapIdle s = .next (s.setRegion id { r with status := .running, gatedIn := false, swap := none, result := 1, swaps := r.swaps + 1 })) ∧
     (∀ w old, r.swap = some w → r.image = some old → r.status = .closing → w.closed = true → s.regionIdle id r old = false →
       exec .regionSwapTimeout s = .next (if w.since + regionCycles r.clksel (2 ^ 20) ≤ s.clock then s.setRegion id { r with status := .running, gatedIn := false, swap := none, result := 4 } else s)))

/-- R397, R398, R403 to R406, R410, R430, R431: a save's strands that have not stopped within its count are stopped whole; once the tasks have
stopped a region of an element graph is still when it has moved nothing for 64 of its clocks, or after 2^16, and a sealed one when it is idle, else
its load stops; when every die's tasks have stopped STATE is 2, and when the graph is at rest it is written and its loads are Saved, STATE 3; the
save ends with STATE 4 and RESULT 1 or 2, and a restore with STATE 0 and RESULT 3. A gang starts a load by arm and commit: a round begins, each
member prepares, acknowledges, acts and reports; after the last report the load is Running. A window that ends aborts an armed round, and a commit is
sent once more. -/
def Obligations.PreemptionAndGangs : Prop :=
  ∀ s : State,
    let die := s.event.die
    let x := s.die die
    let l := s.event.load
    let y := s.load l
    let up : Prop := s.systemPlane.isSome = true
    (∀ p, x.preempt = some p → p.restore = false → p.begun = true → p.qto ≤ p.counted → x.prState = 1 → ∃ t q, exec .preemptQtoExpire s = .next t ∧ (t.die die).preempt = some q ∧ q.expired = true ∧ t.mem = s.mem ∧
      (∀ i, i ∈ (s.savable ⟨die, p.queue⟩).flatMap s.tasksOf → (s.task i).live = true → i.die ∈ (s.load (s.task i).load).gating → ∀ c, (s.strand (i.strand c)).stopped = false →
        (t.strand (i.strand c)).whole = true ∧ (t.strand (i.strand c)).status = (if (s.strand (i.strand c)).status = .held then .ready else (s.strand (i.strand c)).status))) ∧
    (let id : RegionId := ⟨die, s.event.region⟩
     let r := s.region id
     ∀ k im p t, r.load = some k → r.image = some im → (s.die k.die).preempt = some p → p.restore = false → p.queue = k.queue → r.still = false → (r.status = .running ∨ r.status = .closing) →
      s.stepThreeEnd p k.die id.die = some t →
      (im.kind ≠ 1 → exec .regionStillTimeout s = .next (if r.moved + regionCycles r.clksel 64 ≤ s.clock ∨ t + regionCycles r.clksel 65536 ≤ s.clock then
        s.setRegion id { r with still := true } else s)) ∧
      (im.kind = 1 → ∃ u, exec .regionStillTimeout s = .next u ∧
        (if s.regionIdle id r im = true then u = s.setRegion id { r with still := true }
         else if t + regionCycles r.clksel 65536 ≤ s.clock then ((s.load k).status.final = false → (u.load k).stopping = true) else u = s))) ∧
    (∀ p, x.preempt = some p → p.restore = false → p.begun = true → x.prState = 1 → s.partDies (s.savable ⟨die, p.queue⟩) die = [die] → s.event.index = die → p.restAt.find? die = none → up →
      s.partStopped (s.savable ⟨die, p.queue⟩) die = true → ∃ t q, exec .preemptQuiescent s = .next t ∧ (t.die die).prState = 2 ∧ (t.die die).preempt = some q ∧ (q.restAt.find? die).isSome = true ∧ t.mem = s.mem) ∧
    (∀ p, x.preempt = some p → p.restore = false → p.begun = true → x.prState = 2 → die ∈ s.partDies (s.savable ⟨die, p.queue⟩) die → s.event.index = die → (p.restAt.find? die).isSome = true → up → s.diesNormal (s.partDies (s.savable ⟨die, p.queue⟩) die) = true →
      s.graphGang (s.savable ⟨die, p.queue⟩) = none → s.partAtRest (s.savable ⟨die, p.queue⟩) die = true →
      s.saveFault die (s.queueDomain die p.queue) p.area.toNat (s.savable ⟨die, p.queue⟩) (fun _ => true) = none → ∃ t, exec .preemptQuiescent s = .next t ∧ (t.die die).prState = 3 ∧
        (∀ k ∈ s.savable ⟨die, p.queue⟩, (s.loads.find? k).isSome = true → (t.load k).status = .saved)) ∧
    (∀ p g, x.preempt = some p → s.saved.find? ⟨die, p.queue⟩ = some g → p.restore = false → x.prState = 3 → g.header = true → ∃ t, exec .preemptSaveComplete s = .next t ∧ (t.die die).prState = 4 ∧
      (t.die die).prResult = (if x.prWhole = 0 then 1 else 2) ∧ (t.die die).preempt = none ∧ t.mem = s.mem ∧ (∀ i ∈ g.tasks.map Prod.fst, t.task i = {})) ∧
    (∀ p g images, x.preempt = some p → s.saved.find? ⟨die, p.queue⟩ = some g → p.restore = true → s.graphGang (g.loads.map Prod.fst) = none → s.diesNormal (die :: g.dies) = true →
      s.checkArea die g p.area.toNat (g.first ⟨die, p.queue⟩) = .ok images → s.partFree (s.stillSaved g) (fun _ => true) = true → s.imagesHold (s.stillSaved g) (fun _ => true) = true →
      ∃ t, exec .preemptRestoreComplete s = .next t ∧ (t.die die).prState = 0 ∧ (t.die die).prResult = 3 ∧ (t.die die).preempt = none ∧ t.saved.find? ⟨die, p.queue⟩ = none) ∧
    (∀ g, y.gang = some g → g.phase = 0 → s.event.index = 0 → g.window ≤ s.clock → (s.die l.die).phase = 0 → y.status = .armed → y.stopping = false → y.gating = [] → up →
      exec .gangArm s = .next (s.setLoad l { y with gang := some { g with
        epoch := g.epoch + 1, kind := .start, phase := 1, window := s.clock, prepared := [], acks := [], acted := [], committed := [], inTime := [] } })) ∧
    (∀ g d, y.gang = some g → g.phase = 1 → g.kind = .start → g.members[s.event.member]? = some d → d ∉ g.prepared → s.memberWaits [l] (s.memberDies l g d) = false → y.status = .armed → s.startReady l = true → up →
      exec .gangArm s = .next (s.setLoad l { y with gang := some { g with prepared := g.prepared ++ [d] } })) ∧
    (∀ g d, y.gang = some g → g.phase = 1 → g.kind = .start → g.members[s.event.member]? = some d → d ∈ g.prepared → d ∉ g.acks → s.memberWaits [l] (s.memberDies l g d) = false → up →
      exec .gangAck s = .next (s.setLoad l { y with gang := some { g with acks := g.acks ++ [d] } })) ∧
    (∀ g d, y.gang = some g → g.phase = 2 → g.kind = .start → g.members[s.event.member]? = some d → d ∉ g.acted → s.memberWaits [l] (s.memberDies l g d) = false → up →
      ∃ t, exec .gangCommit s = .next t ∧ (t.load l).gang = some { g with acted := g.acted ++ [d] } ∧ t.mem = s.mem ∧ t.tasks = s.tasks) ∧
    (∀ g d, y.gang = some g → g.phase = 2 → g.kind = .start → g.members[s.event.member]? = some d → d ∈ g.acted → d ∉ g.committed → up →
      ((∃ m ∈ g.members, m ∉ g.committed ∧ m ≠ d) → exec .gangCommitted s = .next (s.setLoad l { y with gang := some { g with committed := g.committed ++ [d] } })) ∧
      ((∀ m ∈ g.members, m ∈ g.committed ∨ m = d) → ∃ t, exec .gangCommitted s = .next t ∧ (t.load l).status = .running ∧ t.mem = s.mem ∧ t.tasks = s.tasks)) ∧
    (∀ g, y.gang = some g → g.phase = 2 → s.clock ≥ g.window + s.windowOf l g →
      exec .gangWindowExpire s = .next (s.setLoad l { y with gang := some { g with phase := 3, window := s.clock, inTime := g.committed } })) ∧
    (∀ g, y.gang = some g → g.phase = 1 → s.clock ≥ g.window + s.windowOf l g → ∃ t, exec .gangWindowExpire s = .next t ∧ (t.load l).gang = some { g with phase := 4 }) ∧
    (∀ g, y.gang = some g → s.clock < g.window + s.windowOf l g → exec .gangWindowExpire s = .next s) ∧
    (∀ g d, y.gang = some g → g.phase = 4 → g.kind = .start → g.members[s.event.member]? = some d → g.prepared = [d] → up →
      exec .gangAbort s = .next (s.setLoad l { y with gang := some { g with prepared := [], phase := 0, window := s.clock + 2 ^ g.logwin } }))

/-- R440, R442 to R445, R448, R449: BOOT runs firmware that passes, or takes the recovery path, on which FW_RECOVERY stages another image; the
mailbox installs keys, attests, loads encryption keys and updates firmware; the owner's vacancy frees the module; power-ups complete, an idle tile's
clock stops; throttling counts; a thermal reset loses everything of the module but its flash and key store; a package joins the ring unless its index
clashes, and its dies take the ring's plane map (the model's reading, log entry 40); and, R422, R425 to R428, lanes are removed or turned round and
take effect when the link has retrained; slots are taken in order or come round again. -/
def Obligations.PlatformAndLinks : Prop :=
  ∀ s : State,
    let e := s.event
    let k := s.pkg e.pkg
    let f := e.fn
    let d := s.die e.die
    let lk := s.link e.die e.plane e.link
    (k.boot = .held → ∃ t, exec .boot s = .next t ∧ t.mem = s.mem ∧
      t.pkg e.pkg = (if firmwareOk k.flash = true then { k with boot := .running, svn := imageSvn k.flash } else { k with boot := .recovery }) ∧
      (∀ n, n < 8 → (t.die (8 * e.pkg + n)).pwrtile = (if firmwareOk k.flash = true then Config.tilesPassed (8 * e.pkg + n) else (s.die (8 * e.pkg + n)).pwrtile) ∧
        (t.die (8 * e.pkg + n)).pwrreg = (if firmwareOk k.flash = true then Config.regionsPassed (8 * e.pkg + n) else (s.die (8 * e.pkg + n)).pwrreg))) ∧
    (k.boot = .recovery → f = ⟨e.pkg, 0, 0⟩ → 0 ∉ k.linkDown → ∃ t, exec .fwRecovery s = .next t ∧
      t.pkg e.pkg = (if firmwareOk e.data = true then { flash := e.data, keyStore := k.keyStore } else k)) ∧
    (s.mailboxOpen f = true → 1 ≤ e.index → e.index ≤ 15 → ∃ t, exec .mbInstallKey s = .next t ∧ t.mem = s.mem ∧
      t.pkg f.pkg = (if signedBy Config.vendorKeys (BitVec.ofNat 8 e.index :: e.data ++ e.data2) e.data3 = true then
        { s.pkg f.pkg with keyStore := (s.pkg f.pkg).keyStore.set e.index (e.data, e.data2) } else s.pkg f.pkg)) ∧
    (s.mailboxOpen f = true → e.data.length = 32 → exec .mbAttest s = .next (s.setPkg f.pkg { s.pkg f.pkg with response := s.attestation f.pkg e.data })) ∧
    (s.mailboxOpen f = true → 1 ≤ e.index → e.index ≤ 15 → s.keytag.entries = [] → e.data.length = 64 → ∃ t, exec .mbLoadEncKey s = .next t ∧ t.mem = s.mem ∧
      (∀ n, n < 8 → (t.die (8 * f.pkg + n)).keys = (s.die (8 * f.pkg + n)).keys.set e.index e.data)) ∧
    (s.mailboxOpen f = true → ∃ t, exec .mbUpdateFw s = .next t ∧ t.mem = s.mem ∧
      t.pkg f.pkg = (if firmwareOk e.data = true then { s.pkg f.pkg with flash := e.data } else s.pkg f.pkg)) ∧
    (e.flag = false → e.port ∉ k.linkDown → exec .hostLinkDown s = .next (s.setPkg e.pkg { k with linkDown := e.port :: k.linkDown })) ∧
    (k.valid = true → k.port ∈ k.linkDown → ∃ t, exec .ownerVacancyTimeout s = .next t ∧ t.pkg e.pkg = { k with valid := false, gen := k.gen + 1, only := none } ∧ t.mem = s.mem) ∧
    (e.flag = false → e.index ∈ d.risingTiles → exec .powerUpComplete s = .next (s.setDie e.die { d with
      risingTiles := d.risingTiles.filter (fun t => t ≠ e.index), pwrtile := d.pwrtile ||| BitVec.ofNat 24 (2 ^ e.index) })) ∧
    (e.flag = true → e.index ∈ d.risingRegions → ∃ t, exec .powerUpComplete s = .next t ∧ (t.region ⟨e.die, e.index⟩).status = .empty ∧
      (t.die e.die).pwrreg = d.pwrreg ||| BitVec.ofNat 48 (2 ^ e.index) ∧ t.mem = s.mem) ∧
    (s.tilePowered ⟨e.die, e.index⟩ = true → s.occupants ⟨e.die, e.index⟩ = [] → (s.tile ⟨e.die, e.index⟩).busyAt + 1024 ≤ s.clock →
      exec .tileClockGate s = .next (s.updTile ⟨e.die, e.index⟩ (fun x => { x with clockGated := true }))) ∧
    exec .thermalThrottle s = .next (s.setDie e.die { d with throttle := d.throttle + 1 }) ∧
    (∃ t, exec .thermalReset s = .next t ∧ t.pkg e.pkg = { flash := k.flash, keyStore := k.keyStore } ∧
      (∀ n, n < 8 → t.die (8 * e.pkg + n) = {} ∧ (∀ i, t.region ⟨8 * e.pkg + n, i⟩ = {}) ∧ (∀ i j, t.task ⟨8 * e.pkg + n, i, j⟩ = {}) ∧ (∀ i, t.queue ⟨8 * e.pkg + n, i⟩ = {})) ∧
      (∀ a ∈ t.mem, a.1 < 8 * e.pkg * dieSpan ∨ 8 * (e.pkg + 1) * dieSpan ≤ a.1)) ∧
    (k.boot = .running → s.present = [e.pkg] → exec .pkgIndexClash s = .next (s.setPkg e.pkg { k with clash := true })) ∧
    (e.pkg < 32 → k.boot = .running → k.clash = false → e.pkg ∉ s.present → s.rehash = none → ∃ t, exec .bridgeLinkTrained s = .next t ∧ t.present = insertRising e.pkg s.present ∧ t.mem = s.mem ∧
      (∀ q rest n, s.present = q :: rest → n < 8 → (t.die (8 * e.pkg + n)).pmap = (s.die (8 * q)).pmap ∧ (t.die (8 * e.pkg + n)).live = (s.die (8 * q)).live ∧
        (t.die (8 * e.pkg + n)).gen = (s.die (8 * q)).gen)) ∧
    (e.plane < 4 → e.link < 4 → s.linkUp e.die e.plane e.link = true → nominalLanes e.die e.plane e.link ≠ 0 → 2 * minLanes e.link + e.lanes ≤ lk.widths.1 + lk.widths.2 →
      ∃ t, (exec .laneRemove s = .next t ∧ (t.link e.die e.plane e.link).next = some (if e.flag then (BitVec.ofNat 8 (lk.widths.1 - e.lanes), BitVec.ofNat 8 lk.widths.2)
        else (BitVec.ofNat 8 lk.widths.1, BitVec.ofNat 8 (lk.widths.2 - e.lanes)))) ∧ t.mem = s.mem) ∧
    (e.plane < 4 → e.link < 4 → s.linkUp e.die e.plane e.link = true → nominalLanes e.die e.plane e.link ≠ 0 → e.flag = true → e.lanes ≤ lk.widths.1 →
      ∃ t, exec .linkTurnaround s = .next t ∧ (t.link e.die e.plane e.link).next = some (BitVec.ofNat 8 (lk.widths.1 - e.lanes), BitVec.ofNat 8 (lk.widths.2 + e.lanes)) ∧ t.mem = s.mem) ∧
    (∀ w, lk.next = some w → lk.retrains ≠ 0xFFFF → ∃ t, exec .linkRetrainComplete s = .next t ∧ (t.link e.die e.plane e.link).txw = w.1 ∧ (t.link e.die e.plane e.link).rxw = w.2 ∧
      (t.link e.die e.plane e.link).next = none ∧ (t.link e.die e.plane e.link).retrains = lk.retrains + 1 ∧ t.mem = s.mem) ∧
    (let key : RingKey := ⟨e.plane, e.pkg, e.dest⟩
     let path := s.ring.get key {}
     let q := e.seq % 4096
     (e.plane < 4 → e.pkg ≠ e.dest → e.pkg ∈ s.present → e.dest ∈ s.present → e.wide = false → e.flag = true → path.trimmed = none → q = path.expect.toNat →
      exec .ringSlotArrive s = .next { s with ring := s.ring.set key { path with expect := path.expect + 1, refused := path.refused.filter (fun y => y ≠ q) } }) ∧
     (e.plane < 4 → e.pkg ≠ e.dest → e.pkg ∈ s.present → e.dest ∈ s.present → (q + 4096 - path.expect.toNat) % 4096 < 256 → q ≠ path.expect.toNat → q ∉ path.refused →
      exec .ringSlotArrive s = .next { s with ring := s.ring.set key { path with refused := path.refused ++ [q] } }) ∧
     (∀ y, path.trimmed = some y → exec .incastResend s = .next { s with ring := s.ring.set key { path with
      trimmed := none, expect := path.expect + 1, refused := path.refused.filter (fun z => z ≠ y) } }))
end

