-- ==== Sys2Proof/Laws/State.lean ====
section
/-! SUPPORT. One lemma per component per update: what an update writes reads back, and every other component is as it was. -/

namespace Sys2Proof.Machine

/-! ## Strand -/

theorem strand_setStrand (s : State) (i j : StrandId) (x : Strand) : (s.setStrand i x).strand j = if j = i then x else s.strand j := Map.get_set _ _ _ _ _
@[simp] theorem strand_setStrand_same (s : State) (i : StrandId) (x : Strand) : (s.setStrand i x).strand i = x := Map.get_set_same _ _ _ _
theorem strand_setStrand_ne (s : State) {i j : StrandId} (x : Strand) (h : j ≠ i) : (s.setStrand i x).strand j = s.strand j := Map.get_set_ne _ _ _ h
theorem strand_updStrand (s : State) (i j : StrandId) (g : Strand → Strand) : (s.updStrand i g).strand j = if j = i then g (s.strand i) else s.strand j := Map.get_set _ _ _ _ _
@[simp] theorem strand_updStrand_same (s : State) (i : StrandId) (g : Strand → Strand) : (s.updStrand i g).strand i = g (s.strand i) := Map.get_set_same _ _ _ _
theorem strand_updStrand_ne (s : State) {i j : StrandId} (g : Strand → Strand) (h : j ≠ i) : (s.updStrand i g).strand j = s.strand j := Map.get_set_ne _ _ _ h
@[simp] theorem tasks_setStrand (s : State) (i : StrandId) (x : Strand) : (s.setStrand i x).tasks = s.tasks := rfl
@[simp] theorem task_setStrand (s : State) (i : StrandId) (x : Strand) (j : TaskId) : (s.setStrand i x).task j = s.task j := rfl
@[simp] theorem tasks_updStrand (s : State) (i : StrandId) (g : Strand → Strand) : (s.updStrand i g).tasks = s.tasks := rfl
@[simp] theorem task_updStrand (s : State) (i : StrandId) (g : Strand → Strand) (j : TaskId) : (s.updStrand i g).task j = s.task j := rfl
@[simp] theorem tiles_setStrand (s : State) (i : StrandId) (x : Strand) : (s.setStrand i x).tiles = s.tiles := rfl
@[simp] theorem tile_setStrand (s : State) (i : StrandId) (x : Strand) (j : TileId) : (s.setStrand i x).tile j = s.tile j := rfl
@[simp] theorem tiles_updStrand (s : State) (i : StrandId) (g : Strand → Strand) : (s.updStrand i g).tiles = s.tiles := rfl
@[simp] theorem tile_updStrand (s : State) (i : StrandId) (g : Strand → Strand) (j : TileId) : (s.updStrand i g).tile j = s.tile j := rfl
@[simp] theorem ports_setStrand (s : State) (i : StrandId) (x : Strand) : (s.setStrand i x).ports = s.ports := rfl
@[simp] theorem port_setStrand (s : State) (i : StrandId) (x : Strand) (j : PortId) : (s.setStrand i x).port j = s.port j := rfl
@[simp] theorem ports_updStrand (s : State) (i : StrandId) (g : Strand → Strand) : (s.updStrand i g).ports = s.ports := rfl
@[simp] theorem port_updStrand (s : State) (i : StrandId) (g : Strand → Strand) (j : PortId) : (s.updStrand i g).port j = s.port j := rfl
@[simp] theorem chans_setStrand (s : State) (i : StrandId) (x : Strand) : (s.setStrand i x).chans = s.chans := rfl
@[simp] theorem chan_setStrand (s : State) (i : StrandId) (x : Strand) (j : ChanId) : (s.setStrand i x).chan j = s.chan j := rfl
@[simp] theorem chans_updStrand (s : State) (i : StrandId) (g : Strand → Strand) : (s.updStrand i g).chans = s.chans := rfl
@[simp] theorem chan_updStrand (s : State) (i : StrandId) (g : Strand → Strand) (j : ChanId) : (s.updStrand i g).chan j = s.chan j := rfl
@[simp] theorem regions_setStrand (s : State) (i : StrandId) (x : Strand) : (s.setStrand i x).regions = s.regions := rfl
@[simp] theorem region_setStrand (s : State) (i : StrandId) (x : Strand) (j : RegionId) : (s.setStrand i x).region j = s.region j := rfl
@[simp] theorem regions_updStrand (s : State) (i : StrandId) (g : Strand → Strand) : (s.updStrand i g).regions = s.regions := rfl
@[simp] theorem region_updStrand (s : State) (i : StrandId) (g : Strand → Strand) (j : RegionId) : (s.updStrand i g).region j = s.region j := rfl
@[simp] theorem loads_setStrand (s : State) (i : StrandId) (x : Strand) : (s.setStrand i x).loads = s.loads := rfl
@[simp] theorem load_setStrand (s : State) (i : StrandId) (x : Strand) (j : LoadId) : (s.setStrand i x).load j = s.load j := rfl
@[simp] theorem loads_updStrand (s : State) (i : StrandId) (g : Strand → Strand) : (s.updStrand i g).loads = s.loads := rfl
@[simp] theorem load_updStrand (s : State) (i : StrandId) (g : Strand → Strand) (j : LoadId) : (s.updStrand i g).load j = s.load j := rfl
@[simp] theorem queues_setStrand (s : State) (i : StrandId) (x : Strand) : (s.setStrand i x).queues = s.queues := rfl
@[simp] theorem queue_setStrand (s : State) (i : StrandId) (x : Strand) (j : QueueId) : (s.setStrand i x).queue j = s.queue j := rfl
@[simp] theorem queues_updStrand (s : State) (i : StrandId) (g : Strand → Strand) : (s.updStrand i g).queues = s.queues := rfl
@[simp] theorem queue_updStrand (s : State) (i : StrandId) (g : Strand → Strand) (j : QueueId) : (s.updStrand i g).queue j = s.queue j := rfl
@[simp] theorem dies_setStrand (s : State) (i : StrandId) (x : Strand) : (s.setStrand i x).dies = s.dies := rfl
@[simp] theorem die_setStrand (s : State) (i : StrandId) (x : Strand) (j : Nat) : (s.setStrand i x).die j = s.die j := rfl
@[simp] theorem dies_updStrand (s : State) (i : StrandId) (g : Strand → Strand) : (s.updStrand i g).dies = s.dies := rfl
@[simp] theorem die_updStrand (s : State) (i : StrandId) (g : Strand → Strand) (j : Nat) : (s.updStrand i g).die j = s.die j := rfl
@[simp] theorem pkgs_setStrand (s : State) (i : StrandId) (x : Strand) : (s.setStrand i x).pkgs = s.pkgs := rfl
@[simp] theorem pkg_setStrand (s : State) (i : StrandId) (x : Strand) (j : Nat) : (s.setStrand i x).pkg j = s.pkg j := rfl
@[simp] theorem pkgs_updStrand (s : State) (i : StrandId) (g : Strand → Strand) : (s.updStrand i g).pkgs = s.pkgs := rfl
@[simp] theorem pkg_updStrand (s : State) (i : StrandId) (g : Strand → Strand) (j : Nat) : (s.updStrand i g).pkg j = s.pkg j := rfl
@[simp] theorem clock_setStrand (s : State) (i : StrandId) (x : Strand) : (s.setStrand i x).clock = s.clock := rfl
@[simp] theorem clock_updStrand (s : State) (i : StrandId) (g : Strand → Strand) : (s.updStrand i g).clock = s.clock := rfl
@[simp] theorem agenda_setStrand (s : State) (i : StrandId) (x : Strand) : (s.setStrand i x).agenda = s.agenda := rfl
@[simp] theorem agenda_updStrand (s : State) (i : StrandId) (g : Strand → Strand) : (s.updStrand i g).agenda = s.agenda := rfl
@[simp] theorem work_setStrand (s : State) (i : StrandId) (x : Strand) : (s.setStrand i x).work = s.work := rfl
@[simp] theorem work_updStrand (s : State) (i : StrandId) (g : Strand → Strand) : (s.updStrand i g).work = s.work := rfl
@[simp] theorem cur_setStrand (s : State) (i : StrandId) (x : Strand) : (s.setStrand i x).cur = s.cur := rfl
@[simp] theorem cur_updStrand (s : State) (i : StrandId) (g : Strand → Strand) : (s.updStrand i g).cur = s.cur := rfl
@[simp] theorem event_setStrand (s : State) (i : StrandId) (x : Strand) : (s.setStrand i x).event = s.event := rfl
@[simp] theorem event_updStrand (s : State) (i : StrandId) (g : Strand → Strand) : (s.updStrand i g).event = s.event := rfl
@[simp] theorem drawn_setStrand (s : State) (i : StrandId) (x : Strand) : (s.setStrand i x).drawn = s.drawn := rfl
@[simp] theorem drawn_updStrand (s : State) (i : StrandId) (g : Strand → Strand) : (s.updStrand i g).drawn = s.drawn := rfl
@[simp] theorem mem_setStrand (s : State) (i : StrandId) (x : Strand) : (s.setStrand i x).mem = s.mem := rfl
@[simp] theorem mem_updStrand (s : State) (i : StrandId) (g : Strand → Strand) : (s.updStrand i g).mem = s.mem := rfl
@[simp] theorem full_setStrand (s : State) (i : StrandId) (x : Strand) : (s.setStrand i x).full = s.full := rfl
@[simp] theorem full_updStrand (s : State) (i : StrandId) (g : Strand → Strand) : (s.updStrand i g).full = s.full := rfl
@[simp] theorem keytag_setStrand (s : State) (i : StrandId) (x : Strand) : (s.setStrand i x).keytag = s.keytag := rfl
@[simp] theorem keytag_updStrand (s : State) (i : StrandId) (g : Strand → Strand) : (s.updStrand i g).keytag = s.keytag := rfl
@[simp] theorem damaged_setStrand (s : State) (i : StrandId) (x : Strand) : (s.setStrand i x).damaged = s.damaged := rfl
@[simp] theorem damaged_updStrand (s : State) (i : StrandId) (g : Strand → Strand) : (s.updStrand i g).damaged = s.damaged := rfl
@[simp] theorem net_setStrand (s : State) (i : StrandId) (x : Strand) : (s.setStrand i x).net = s.net := rfl
@[simp] theorem net_updStrand (s : State) (i : StrandId) (g : Strand → Strand) : (s.updStrand i g).net = s.net := rfl
@[simp] theorem nextAccess_setStrand (s : State) (i : StrandId) (x : Strand) : (s.setStrand i x).nextAccess = s.nextAccess := rfl
@[simp] theorem nextAccess_updStrand (s : State) (i : StrandId) (g : Strand → Strand) : (s.updStrand i g).nextAccess = s.nextAccess := rfl
@[simp] theorem raises_setStrand (s : State) (i : StrandId) (x : Strand) : (s.setStrand i x).raises = s.raises := rfl
@[simp] theorem raises_updStrand (s : State) (i : StrandId) (g : Strand → Strand) : (s.updStrand i g).raises = s.raises := rfl
@[simp] theorem present_setStrand (s : State) (i : StrandId) (x : Strand) : (s.setStrand i x).present = s.present := rfl
@[simp] theorem present_updStrand (s : State) (i : StrandId) (g : Strand → Strand) : (s.updStrand i g).present = s.present := rfl
@[simp] theorem rehash_setStrand (s : State) (i : StrandId) (x : Strand) : (s.setStrand i x).rehash = s.rehash := rfl
@[simp] theorem rehash_updStrand (s : State) (i : StrandId) (g : Strand → Strand) : (s.updStrand i g).rehash = s.rehash := rfl
@[simp] theorem planeIdle_setStrand (s : State) (i : StrandId) (x : Strand) : (s.setStrand i x).planeIdle = s.planeIdle := rfl
@[simp] theorem planeIdle_updStrand (s : State) (i : StrandId) (g : Strand → Strand) : (s.updStrand i g).planeIdle = s.planeIdle := rfl
@[simp] theorem ring_setStrand (s : State) (i : StrandId) (x : Strand) : (s.setStrand i x).ring = s.ring := rfl
@[simp] theorem ring_updStrand (s : State) (i : StrandId) (g : Strand → Strand) : (s.updStrand i g).ring = s.ring := rfl
@[simp] theorem saved_setStrand (s : State) (i : StrandId) (x : Strand) : (s.setStrand i x).saved = s.saved := rfl
@[simp] theorem saved_updStrand (s : State) (i : StrandId) (g : Strand → Strand) : (s.updStrand i g).saved = s.saved := rfl
@[simp] theorem contexts_setStrand (s : State) (i : StrandId) (x : Strand) : (s.setStrand i x).contexts = s.contexts := rfl
@[simp] theorem contexts_updStrand (s : State) (i : StrandId) (g : Strand → Strand) : (s.updStrand i g).contexts = s.contexts := rfl
@[simp] theorem hostMem_setStrand (s : State) (i : StrandId) (x : Strand) : (s.setStrand i x).hostMem = s.hostMem := rfl
@[simp] theorem hostMem_updStrand (s : State) (i : StrandId) (g : Strand → Strand) : (s.updStrand i g).hostMem = s.hostMem := rfl
@[simp] theorem hostReqs_setStrand (s : State) (i : StrandId) (x : Strand) : (s.setStrand i x).hostReqs = s.hostReqs := rfl
@[simp] theorem hostReqs_updStrand (s : State) (i : StrandId) (g : Strand → Strand) : (s.updStrand i g).hostReqs = s.hostReqs := rfl
@[simp] theorem msix_setStrand (s : State) (i : StrandId) (x : Strand) : (s.setStrand i x).msix = s.msix := rfl
@[simp] theorem msix_updStrand (s : State) (i : StrandId) (g : Strand → Strand) : (s.updStrand i g).msix = s.msix := rfl
@[simp] theorem replies_setStrand (s : State) (i : StrandId) (x : Strand) : (s.setStrand i x).replies = s.replies := rfl
@[simp] theorem replies_updStrand (s : State) (i : StrandId) (g : Strand → Strand) : (s.updStrand i g).replies = s.replies := rfl

/-! ## Task -/

theorem task_setTask (s : State) (i j : TaskId) (x : Task) : (s.setTask i x).task j = if j = i then x else s.task j := Map.get_set _ _ _ _ _
@[simp] theorem task_setTask_same (s : State) (i : TaskId) (x : Task) : (s.setTask i x).task i = x := Map.get_set_same _ _ _ _
theorem task_setTask_ne (s : State) {i j : TaskId} (x : Task) (h : j ≠ i) : (s.setTask i x).task j = s.task j := Map.get_set_ne _ _ _ h
theorem task_updTask (s : State) (i j : TaskId) (g : Task → Task) : (s.updTask i g).task j = if j = i then g (s.task i) else s.task j := Map.get_set _ _ _ _ _
@[simp] theorem task_updTask_same (s : State) (i : TaskId) (g : Task → Task) : (s.updTask i g).task i = g (s.task i) := Map.get_set_same _ _ _ _
theorem task_updTask_ne (s : State) {i j : TaskId} (g : Task → Task) (h : j ≠ i) : (s.updTask i g).task j = s.task j := Map.get_set_ne _ _ _ h
@[simp] theorem strands_setTask (s : State) (i : TaskId) (x : Task) : (s.setTask i x).strands = s.strands := rfl
@[simp] theorem strand_setTask (s : State) (i : TaskId) (x : Task) (j : StrandId) : (s.setTask i x).strand j = s.strand j := rfl
@[simp] theorem strands_updTask (s : State) (i : TaskId) (g : Task → Task) : (s.updTask i g).strands = s.strands := rfl
@[simp] theorem strand_updTask (s : State) (i : TaskId) (g : Task → Task) (j : StrandId) : (s.updTask i g).strand j = s.strand j := rfl
@[simp] theorem tiles_setTask (s : State) (i : TaskId) (x : Task) : (s.setTask i x).tiles = s.tiles := rfl
@[simp] theorem tile_setTask (s : State) (i : TaskId) (x : Task) (j : TileId) : (s.setTask i x).tile j = s.tile j := rfl
@[simp] theorem tiles_updTask (s : State) (i : TaskId) (g : Task → Task) : (s.updTask i g).tiles = s.tiles := rfl
@[simp] theorem tile_updTask (s : State) (i : TaskId) (g : Task → Task) (j : TileId) : (s.updTask i g).tile j = s.tile j := rfl
@[simp] theorem ports_setTask (s : State) (i : TaskId) (x : Task) : (s.setTask i x).ports = s.ports := rfl
@[simp] theorem port_setTask (s : State) (i : TaskId) (x : Task) (j : PortId) : (s.setTask i x).port j = s.port j := rfl
@[simp] theorem ports_updTask (s : State) (i : TaskId) (g : Task → Task) : (s.updTask i g).ports = s.ports := rfl
@[simp] theorem port_updTask (s : State) (i : TaskId) (g : Task → Task) (j : PortId) : (s.updTask i g).port j = s.port j := rfl
@[simp] theorem chans_setTask (s : State) (i : TaskId) (x : Task) : (s.setTask i x).chans = s.chans := rfl
@[simp] theorem chan_setTask (s : State) (i : TaskId) (x : Task) (j : ChanId) : (s.setTask i x).chan j = s.chan j := rfl
@[simp] theorem chans_updTask (s : State) (i : TaskId) (g : Task → Task) : (s.updTask i g).chans = s.chans := rfl
@[simp] theorem chan_updTask (s : State) (i : TaskId) (g : Task → Task) (j : ChanId) : (s.updTask i g).chan j = s.chan j := rfl
@[simp] theorem regions_setTask (s : State) (i : TaskId) (x : Task) : (s.setTask i x).regions = s.regions := rfl
@[simp] theorem region_setTask (s : State) (i : TaskId) (x : Task) (j : RegionId) : (s.setTask i x).region j = s.region j := rfl
@[simp] theorem regions_updTask (s : State) (i : TaskId) (g : Task → Task) : (s.updTask i g).regions = s.regions := rfl
@[simp] theorem region_updTask (s : State) (i : TaskId) (g : Task → Task) (j : RegionId) : (s.updTask i g).region j = s.region j := rfl
@[simp] theorem loads_setTask (s : State) (i : TaskId) (x : Task) : (s.setTask i x).loads = s.loads := rfl
@[simp] theorem load_setTask (s : State) (i : TaskId) (x : Task) (j : LoadId) : (s.setTask i x).load j = s.load j := rfl
@[simp] theorem loads_updTask (s : State) (i : TaskId) (g : Task → Task) : (s.updTask i g).loads = s.loads := rfl
@[simp] theorem load_updTask (s : State) (i : TaskId) (g : Task → Task) (j : LoadId) : (s.updTask i g).load j = s.load j := rfl
@[simp] theorem queues_setTask (s : State) (i : TaskId) (x : Task) : (s.setTask i x).queues = s.queues := rfl
@[simp] theorem queue_setTask (s : State) (i : TaskId) (x : Task) (j : QueueId) : (s.setTask i x).queue j = s.queue j := rfl
@[simp] theorem queues_updTask (s : State) (i : TaskId) (g : Task → Task) : (s.updTask i g).queues = s.queues := rfl
@[simp] theorem queue_updTask (s : State) (i : TaskId) (g : Task → Task) (j : QueueId) : (s.updTask i g).queue j = s.queue j := rfl
@[simp] theorem dies_setTask (s : State) (i : TaskId) (x : Task) : (s.setTask i x).dies = s.dies := rfl
@[simp] theorem die_setTask (s : State) (i : TaskId) (x : Task) (j : Nat) : (s.setTask i x).die j = s.die j := rfl
@[simp] theorem dies_updTask (s : State) (i : TaskId) (g : Task → Task) : (s.updTask i g).dies = s.dies := rfl
@[simp] theorem die_updTask (s : State) (i : TaskId) (g : Task → Task) (j : Nat) : (s.updTask i g).die j = s.die j := rfl
@[simp] theorem pkgs_setTask (s : State) (i : TaskId) (x : Task) : (s.setTask i x).pkgs = s.pkgs := rfl
@[simp] theorem pkg_setTask (s : State) (i : TaskId) (x : Task) (j : Nat) : (s.setTask i x).pkg j = s.pkg j := rfl
@[simp] theorem pkgs_updTask (s : State) (i : TaskId) (g : Task → Task) : (s.updTask i g).pkgs = s.pkgs := rfl
@[simp] theorem pkg_updTask (s : State) (i : TaskId) (g : Task → Task) (j : Nat) : (s.updTask i g).pkg j = s.pkg j := rfl
@[simp] theorem clock_setTask (s : State) (i : TaskId) (x : Task) : (s.setTask i x).clock = s.clock := rfl
@[simp] theorem clock_updTask (s : State) (i : TaskId) (g : Task → Task) : (s.updTask i g).clock = s.clock := rfl
@[simp] theorem agenda_setTask (s : State) (i : TaskId) (x : Task) : (s.setTask i x).agenda = s.agenda := rfl
@[simp] theorem agenda_updTask (s : State) (i : TaskId) (g : Task → Task) : (s.updTask i g).agenda = s.agenda := rfl
@[simp] theorem work_setTask (s : State) (i : TaskId) (x : Task) : (s.setTask i x).work = s.work := rfl
@[simp] theorem work_updTask (s : State) (i : TaskId) (g : Task → Task) : (s.updTask i g).work = s.work := rfl
@[simp] theorem cur_setTask (s : State) (i : TaskId) (x : Task) : (s.setTask i x).cur = s.cur := rfl
@[simp] theorem cur_updTask (s : State) (i : TaskId) (g : Task → Task) : (s.updTask i g).cur = s.cur := rfl
@[simp] theorem event_setTask (s : State) (i : TaskId) (x : Task) : (s.setTask i x).event = s.event := rfl
@[simp] theorem event_updTask (s : State) (i : TaskId) (g : Task → Task) : (s.updTask i g).event = s.event := rfl
@[simp] theorem drawn_setTask (s : State) (i : TaskId) (x : Task) : (s.setTask i x).drawn = s.drawn := rfl
@[simp] theorem drawn_updTask (s : State) (i : TaskId) (g : Task → Task) : (s.updTask i g).drawn = s.drawn := rfl
@[simp] theorem mem_setTask (s : State) (i : TaskId) (x : Task) : (s.setTask i x).mem = s.mem := rfl
@[simp] theorem mem_updTask (s : State) (i : TaskId) (g : Task → Task) : (s.updTask i g).mem = s.mem := rfl
@[simp] theorem full_setTask (s : State) (i : TaskId) (x : Task) : (s.setTask i x).full = s.full := rfl
@[simp] theorem full_updTask (s : State) (i : TaskId) (g : Task → Task) : (s.updTask i g).full = s.full := rfl
@[simp] theorem keytag_setTask (s : State) (i : TaskId) (x : Task) : (s.setTask i x).keytag = s.keytag := rfl
@[simp] theorem keytag_updTask (s : State) (i : TaskId) (g : Task → Task) : (s.updTask i g).keytag = s.keytag := rfl
@[simp] theorem damaged_setTask (s : State) (i : TaskId) (x : Task) : (s.setTask i x).damaged = s.damaged := rfl
@[simp] theorem damaged_updTask (s : State) (i : TaskId) (g : Task → Task) : (s.updTask i g).damaged = s.damaged := rfl
@[simp] theorem net_setTask (s : State) (i : TaskId) (x : Task) : (s.setTask i x).net = s.net := rfl
@[simp] theorem net_updTask (s : State) (i : TaskId) (g : Task → Task) : (s.updTask i g).net = s.net := rfl
@[simp] theorem nextAccess_setTask (s : State) (i : TaskId) (x : Task) : (s.setTask i x).nextAccess = s.nextAccess := rfl
@[simp] theorem nextAccess_updTask (s : State) (i : TaskId) (g : Task → Task) : (s.updTask i g).nextAccess = s.nextAccess := rfl
@[simp] theorem raises_setTask (s : State) (i : TaskId) (x : Task) : (s.setTask i x).raises = s.raises := rfl
@[simp] theorem raises_updTask (s : State) (i : TaskId) (g : Task → Task) : (s.updTask i g).raises = s.raises := rfl
@[simp] theorem present_setTask (s : State) (i : TaskId) (x : Task) : (s.setTask i x).present = s.present := rfl
@[simp] theorem present_updTask (s : State) (i : TaskId) (g : Task → Task) : (s.updTask i g).present = s.present := rfl
@[simp] theorem rehash_setTask (s : State) (i : TaskId) (x : Task) : (s.setTask i x).rehash = s.rehash := rfl
@[simp] theorem rehash_updTask (s : State) (i : TaskId) (g : Task → Task) : (s.updTask i g).rehash = s.rehash := rfl
@[simp] theorem planeIdle_setTask (s : State) (i : TaskId) (x : Task) : (s.setTask i x).planeIdle = s.planeIdle := rfl
@[simp] theorem planeIdle_updTask (s : State) (i : TaskId) (g : Task → Task) : (s.updTask i g).planeIdle = s.planeIdle := rfl
@[simp] theorem ring_setTask (s : State) (i : TaskId) (x : Task) : (s.setTask i x).ring = s.ring := rfl
@[simp] theorem ring_updTask (s : State) (i : TaskId) (g : Task → Task) : (s.updTask i g).ring = s.ring := rfl
@[simp] theorem saved_setTask (s : State) (i : TaskId) (x : Task) : (s.setTask i x).saved = s.saved := rfl
@[simp] theorem saved_updTask (s : State) (i : TaskId) (g : Task → Task) : (s.updTask i g).saved = s.saved := rfl
@[simp] theorem contexts_setTask (s : State) (i : TaskId) (x : Task) : (s.setTask i x).contexts = s.contexts := rfl
@[simp] theorem contexts_updTask (s : State) (i : TaskId) (g : Task → Task) : (s.updTask i g).contexts = s.contexts := rfl
@[simp] theorem hostMem_setTask (s : State) (i : TaskId) (x : Task) : (s.setTask i x).hostMem = s.hostMem := rfl
@[simp] theorem hostMem_updTask (s : State) (i : TaskId) (g : Task → Task) : (s.updTask i g).hostMem = s.hostMem := rfl
@[simp] theorem hostReqs_setTask (s : State) (i : TaskId) (x : Task) : (s.setTask i x).hostReqs = s.hostReqs := rfl
@[simp] theorem hostReqs_updTask (s : State) (i : TaskId) (g : Task → Task) : (s.updTask i g).hostReqs = s.hostReqs := rfl
@[simp] theorem msix_setTask (s : State) (i : TaskId) (x : Task) : (s.setTask i x).msix = s.msix := rfl
@[simp] theorem msix_updTask (s : State) (i : TaskId) (g : Task → Task) : (s.updTask i g).msix = s.msix := rfl
@[simp] theorem replies_setTask (s : State) (i : TaskId) (x : Task) : (s.setTask i x).replies = s.replies := rfl
@[simp] theorem replies_updTask (s : State) (i : TaskId) (g : Task → Task) : (s.updTask i g).replies = s.replies := rfl

/-! ## Tile -/

theorem tile_setTile (s : State) (i j : TileId) (x : Tile) : (s.setTile i x).tile j = if j = i then x else s.tile j := Map.get_set _ _ _ _ _
@[simp] theorem tile_setTile_same (s : State) (i : TileId) (x : Tile) : (s.setTile i x).tile i = x := Map.get_set_same _ _ _ _
theorem tile_setTile_ne (s : State) {i j : TileId} (x : Tile) (h : j ≠ i) : (s.setTile i x).tile j = s.tile j := Map.get_set_ne _ _ _ h
theorem tile_updTile (s : State) (i j : TileId) (g : Tile → Tile) : (s.updTile i g).tile j = if j = i then g (s.tile i) else s.tile j := Map.get_set _ _ _ _ _
@[simp] theorem tile_updTile_same (s : State) (i : TileId) (g : Tile → Tile) : (s.updTile i g).tile i = g (s.tile i) := Map.get_set_same _ _ _ _
theorem tile_updTile_ne (s : State) {i j : TileId} (g : Tile → Tile) (h : j ≠ i) : (s.updTile i g).tile j = s.tile j := Map.get_set_ne _ _ _ h
@[simp] theorem strands_setTile (s : State) (i : TileId) (x : Tile) : (s.setTile i x).strands = s.strands := rfl
@[simp] theorem strand_setTile (s : State) (i : TileId) (x : Tile) (j : StrandId) : (s.setTile i x).strand j = s.strand j := rfl
@[simp] theorem strands_updTile (s : State) (i : TileId) (g : Tile → Tile) : (s.updTile i g).strands = s.strands := rfl
@[simp] theorem strand_updTile (s : State) (i : TileId) (g : Tile → Tile) (j : StrandId) : (s.updTile i g).strand j = s.strand j := rfl
@[simp] theorem tasks_setTile (s : State) (i : TileId) (x : Tile) : (s.setTile i x).tasks = s.tasks := rfl
@[simp] theorem task_setTile (s : State) (i : TileId) (x : Tile) (j : TaskId) : (s.setTile i x).task j = s.task j := rfl
@[simp] theorem tasks_updTile (s : State) (i : TileId) (g : Tile → Tile) : (s.updTile i g).tasks = s.tasks := rfl
@[simp] theorem task_updTile (s : State) (i : TileId) (g : Tile → Tile) (j : TaskId) : (s.updTile i g).task j = s.task j := rfl
@[simp] theorem ports_setTile (s : State) (i : TileId) (x : Tile) : (s.setTile i x).ports = s.ports := rfl
@[simp] theorem port_setTile (s : State) (i : TileId) (x : Tile) (j : PortId) : (s.setTile i x).port j = s.port j := rfl
@[simp] theorem ports_updTile (s : State) (i : TileId) (g : Tile → Tile) : (s.updTile i g).ports = s.ports := rfl
@[simp] theorem port_updTile (s : State) (i : TileId) (g : Tile → Tile) (j : PortId) : (s.updTile i g).port j = s.port j := rfl
@[simp] theorem chans_setTile (s : State) (i : TileId) (x : Tile) : (s.setTile i x).chans = s.chans := rfl
@[simp] theorem chan_setTile (s : State) (i : TileId) (x : Tile) (j : ChanId) : (s.setTile i x).chan j = s.chan j := rfl
@[simp] theorem chans_updTile (s : State) (i : TileId) (g : Tile → Tile) : (s.updTile i g).chans = s.chans := rfl
@[simp] theorem chan_updTile (s : State) (i : TileId) (g : Tile → Tile) (j : ChanId) : (s.updTile i g).chan j = s.chan j := rfl
@[simp] theorem regions_setTile (s : State) (i : TileId) (x : Tile) : (s.setTile i x).regions = s.regions := rfl
@[simp] theorem region_setTile (s : State) (i : TileId) (x : Tile) (j : RegionId) : (s.setTile i x).region j = s.region j := rfl
@[simp] theorem regions_updTile (s : State) (i : TileId) (g : Tile → Tile) : (s.updTile i g).regions = s.regions := rfl
@[simp] theorem region_updTile (s : State) (i : TileId) (g : Tile → Tile) (j : RegionId) : (s.updTile i g).region j = s.region j := rfl
@[simp] theorem loads_setTile (s : State) (i : TileId) (x : Tile) : (s.setTile i x).loads = s.loads := rfl
@[simp] theorem load_setTile (s : State) (i : TileId) (x : Tile) (j : LoadId) : (s.setTile i x).load j = s.load j := rfl
@[simp] theorem loads_updTile (s : State) (i : TileId) (g : Tile → Tile) : (s.updTile i g).loads = s.loads := rfl
@[simp] theorem load_updTile (s : State) (i : TileId) (g : Tile → Tile) (j : LoadId) : (s.updTile i g).load j = s.load j := rfl
@[simp] theorem queues_setTile (s : State) (i : TileId) (x : Tile) : (s.setTile i x).queues = s.queues := rfl
@[simp] theorem queue_setTile (s : State) (i : TileId) (x : Tile) (j : QueueId) : (s.setTile i x).queue j = s.queue j := rfl
@[simp] theorem queues_updTile (s : State) (i : TileId) (g : Tile → Tile) : (s.updTile i g).queues = s.queues := rfl
@[simp] theorem queue_updTile (s : State) (i : TileId) (g : Tile → Tile) (j : QueueId) : (s.updTile i g).queue j = s.queue j := rfl
@[simp] theorem dies_setTile (s : State) (i : TileId) (x : Tile) : (s.setTile i x).dies = s.dies := rfl
@[simp] theorem die_setTile (s : State) (i : TileId) (x : Tile) (j : Nat) : (s.setTile i x).die j = s.die j := rfl
@[simp] theorem dies_updTile (s : State) (i : TileId) (g : Tile → Tile) : (s.updTile i g).dies = s.dies := rfl
@[simp] theorem die_updTile (s : State) (i : TileId) (g : Tile → Tile) (j : Nat) : (s.updTile i g).die j = s.die j := rfl
@[simp] theorem pkgs_setTile (s : State) (i : TileId) (x : Tile) : (s.setTile i x).pkgs = s.pkgs := rfl
@[simp] theorem pkg_setTile (s : State) (i : TileId) (x : Tile) (j : Nat) : (s.setTile i x).pkg j = s.pkg j := rfl
@[simp] theorem pkgs_updTile (s : State) (i : TileId) (g : Tile → Tile) : (s.updTile i g).pkgs = s.pkgs := rfl
@[simp] theorem pkg_updTile (s : State) (i : TileId) (g : Tile → Tile) (j : Nat) : (s.updTile i g).pkg j = s.pkg j := rfl
@[simp] theorem clock_setTile (s : State) (i : TileId) (x : Tile) : (s.setTile i x).clock = s.clock := rfl
@[simp] theorem clock_updTile (s : State) (i : TileId) (g : Tile → Tile) : (s.updTile i g).clock = s.clock := rfl
@[simp] theorem agenda_setTile (s : State) (i : TileId) (x : Tile) : (s.setTile i x).agenda = s.agenda := rfl
@[simp] theorem agenda_updTile (s : State) (i : TileId) (g : Tile → Tile) : (s.updTile i g).agenda = s.agenda := rfl
@[simp] theorem work_setTile (s : State) (i : TileId) (x : Tile) : (s.setTile i x).work = s.work := rfl
@[simp] theorem work_updTile (s : State) (i : TileId) (g : Tile → Tile) : (s.updTile i g).work = s.work := rfl
@[simp] theorem cur_setTile (s : State) (i : TileId) (x : Tile) : (s.setTile i x).cur = s.cur := rfl
@[simp] theorem cur_updTile (s : State) (i : TileId) (g : Tile → Tile) : (s.updTile i g).cur = s.cur := rfl
@[simp] theorem event_setTile (s : State) (i : TileId) (x : Tile) : (s.setTile i x).event = s.event := rfl
@[simp] theorem event_updTile (s : State) (i : TileId) (g : Tile → Tile) : (s.updTile i g).event = s.event := rfl
@[simp] theorem drawn_setTile (s : State) (i : TileId) (x : Tile) : (s.setTile i x).drawn = s.drawn := rfl
@[simp] theorem drawn_updTile (s : State) (i : TileId) (g : Tile → Tile) : (s.updTile i g).drawn = s.drawn := rfl
@[simp] theorem mem_setTile (s : State) (i : TileId) (x : Tile) : (s.setTile i x).mem = s.mem := rfl
@[simp] theorem mem_updTile (s : State) (i : TileId) (g : Tile → Tile) : (s.updTile i g).mem = s.mem := rfl
@[simp] theorem full_setTile (s : State) (i : TileId) (x : Tile) : (s.setTile i x).full = s.full := rfl
@[simp] theorem full_updTile (s : State) (i : TileId) (g : Tile → Tile) : (s.updTile i g).full = s.full := rfl
@[simp] theorem keytag_setTile (s : State) (i : TileId) (x : Tile) : (s.setTile i x).keytag = s.keytag := rfl
@[simp] theorem keytag_updTile (s : State) (i : TileId) (g : Tile → Tile) : (s.updTile i g).keytag = s.keytag := rfl
@[simp] theorem damaged_setTile (s : State) (i : TileId) (x : Tile) : (s.setTile i x).damaged = s.damaged := rfl
@[simp] theorem damaged_updTile (s : State) (i : TileId) (g : Tile → Tile) : (s.updTile i g).damaged = s.damaged := rfl
@[simp] theorem net_setTile (s : State) (i : TileId) (x : Tile) : (s.setTile i x).net = s.net := rfl
@[simp] theorem net_updTile (s : State) (i : TileId) (g : Tile → Tile) : (s.updTile i g).net = s.net := rfl
@[simp] theorem nextAccess_setTile (s : State) (i : TileId) (x : Tile) : (s.setTile i x).nextAccess = s.nextAccess := rfl
@[simp] theorem nextAccess_updTile (s : State) (i : TileId) (g : Tile → Tile) : (s.updTile i g).nextAccess = s.nextAccess := rfl
@[simp] theorem raises_setTile (s : State) (i : TileId) (x : Tile) : (s.setTile i x).raises = s.raises := rfl
@[simp] theorem raises_updTile (s : State) (i : TileId) (g : Tile → Tile) : (s.updTile i g).raises = s.raises := rfl
@[simp] theorem present_setTile (s : State) (i : TileId) (x : Tile) : (s.setTile i x).present = s.present := rfl
@[simp] theorem present_updTile (s : State) (i : TileId) (g : Tile → Tile) : (s.updTile i g).present = s.present := rfl
@[simp] theorem rehash_setTile (s : State) (i : TileId) (x : Tile) : (s.setTile i x).rehash = s.rehash := rfl
@[simp] theorem rehash_updTile (s : State) (i : TileId) (g : Tile → Tile) : (s.updTile i g).rehash = s.rehash := rfl
@[simp] theorem planeIdle_setTile (s : State) (i : TileId) (x : Tile) : (s.setTile i x).planeIdle = s.planeIdle := rfl
@[simp] theorem planeIdle_updTile (s : State) (i : TileId) (g : Tile → Tile) : (s.updTile i g).planeIdle = s.planeIdle := rfl
@[simp] theorem ring_setTile (s : State) (i : TileId) (x : Tile) : (s.setTile i x).ring = s.ring := rfl
@[simp] theorem ring_updTile (s : State) (i : TileId) (g : Tile → Tile) : (s.updTile i g).ring = s.ring := rfl
@[simp] theorem saved_setTile (s : State) (i : TileId) (x : Tile) : (s.setTile i x).saved = s.saved := rfl
@[simp] theorem saved_updTile (s : State) (i : TileId) (g : Tile → Tile) : (s.updTile i g).saved = s.saved := rfl
@[simp] theorem contexts_setTile (s : State) (i : TileId) (x : Tile) : (s.setTile i x).contexts = s.contexts := rfl
@[simp] theorem contexts_updTile (s : State) (i : TileId) (g : Tile → Tile) : (s.updTile i g).contexts = s.contexts := rfl
@[simp] theorem hostMem_setTile (s : State) (i : TileId) (x : Tile) : (s.setTile i x).hostMem = s.hostMem := rfl
@[simp] theorem hostMem_updTile (s : State) (i : TileId) (g : Tile → Tile) : (s.updTile i g).hostMem = s.hostMem := rfl
@[simp] theorem hostReqs_setTile (s : State) (i : TileId) (x : Tile) : (s.setTile i x).hostReqs = s.hostReqs := rfl
@[simp] theorem hostReqs_updTile (s : State) (i : TileId) (g : Tile → Tile) : (s.updTile i g).hostReqs = s.hostReqs := rfl
@[simp] theorem msix_setTile (s : State) (i : TileId) (x : Tile) : (s.setTile i x).msix = s.msix := rfl
@[simp] theorem msix_updTile (s : State) (i : TileId) (g : Tile → Tile) : (s.updTile i g).msix = s.msix := rfl
@[simp] theorem replies_setTile (s : State) (i : TileId) (x : Tile) : (s.setTile i x).replies = s.replies := rfl
@[simp] theorem replies_updTile (s : State) (i : TileId) (g : Tile → Tile) : (s.updTile i g).replies = s.replies := rfl

/-! ## Port -/

theorem port_setPort (s : State) (i j : PortId) (x : Port) : (s.setPort i x).port j = if j = i then x else s.port j := Map.get_set _ _ _ _ _
@[simp] theorem port_setPort_same (s : State) (i : PortId) (x : Port) : (s.setPort i x).port i = x := Map.get_set_same _ _ _ _
theorem port_setPort_ne (s : State) {i j : PortId} (x : Port) (h : j ≠ i) : (s.setPort i x).port j = s.port j := Map.get_set_ne _ _ _ h
theorem port_updPort (s : State) (i j : PortId) (g : Port → Port) : (s.updPort i g).port j = if j = i then g (s.port i) else s.port j := Map.get_set _ _ _ _ _
@[simp] theorem port_updPort_same (s : State) (i : PortId) (g : Port → Port) : (s.updPort i g).port i = g (s.port i) := Map.get_set_same _ _ _ _
theorem port_updPort_ne (s : State) {i j : PortId} (g : Port → Port) (h : j ≠ i) : (s.updPort i g).port j = s.port j := Map.get_set_ne _ _ _ h
@[simp] theorem strands_setPort (s : State) (i : PortId) (x : Port) : (s.setPort i x).strands = s.strands := rfl
@[simp] theorem strand_setPort (s : State) (i : PortId) (x : Port) (j : StrandId) : (s.setPort i x).strand j = s.strand j := rfl
@[simp] theorem strands_updPort (s : State) (i : PortId) (g : Port → Port) : (s.updPort i g).strands = s.strands := rfl
@[simp] theorem strand_updPort (s : State) (i : PortId) (g : Port → Port) (j : StrandId) : (s.updPort i g).strand j = s.strand j := rfl
@[simp] theorem tasks_setPort (s : State) (i : PortId) (x : Port) : (s.setPort i x).tasks = s.tasks := rfl
@[simp] theorem task_setPort (s : State) (i : PortId) (x : Port) (j : TaskId) : (s.setPort i x).task j = s.task j := rfl
@[simp] theorem tasks_updPort (s : State) (i : PortId) (g : Port → Port) : (s.updPort i g).tasks = s.tasks := rfl
@[simp] theorem task_updPort (s : State) (i : PortId) (g : Port → Port) (j : TaskId) : (s.updPort i g).task j = s.task j := rfl
@[simp] theorem tiles_setPort (s : State) (i : PortId) (x : Port) : (s.setPort i x).tiles = s.tiles := rfl
@[simp] theorem tile_setPort (s : State) (i : PortId) (x : Port) (j : TileId) : (s.setPort i x).tile j = s.tile j := rfl
@[simp] theorem tiles_updPort (s : State) (i : PortId) (g : Port → Port) : (s.updPort i g).tiles = s.tiles := rfl
@[simp] theorem tile_updPort (s : State) (i : PortId) (g : Port → Port) (j : TileId) : (s.updPort i g).tile j = s.tile j := rfl
@[simp] theorem chans_setPort (s : State) (i : PortId) (x : Port) : (s.setPort i x).chans = s.chans := rfl
@[simp] theorem chan_setPort (s : State) (i : PortId) (x : Port) (j : ChanId) : (s.setPort i x).chan j = s.chan j := rfl
@[simp] theorem chans_updPort (s : State) (i : PortId) (g : Port → Port) : (s.updPort i g).chans = s.chans := rfl
@[simp] theorem chan_updPort (s : State) (i : PortId) (g : Port → Port) (j : ChanId) : (s.updPort i g).chan j = s.chan j := rfl
@[simp] theorem regions_setPort (s : State) (i : PortId) (x : Port) : (s.setPort i x).regions = s.regions := rfl
@[simp] theorem region_setPort (s : State) (i : PortId) (x : Port) (j : RegionId) : (s.setPort i x).region j = s.region j := rfl
@[simp] theorem regions_updPort (s : State) (i : PortId) (g : Port → Port) : (s.updPort i g).regions = s.regions := rfl
@[simp] theorem region_updPort (s : State) (i : PortId) (g : Port → Port) (j : RegionId) : (s.updPort i g).region j = s.region j := rfl
@[simp] theorem loads_setPort (s : State) (i : PortId) (x : Port) : (s.setPort i x).loads = s.loads := rfl
@[simp] theorem load_setPort (s : State) (i : PortId) (x : Port) (j : LoadId) : (s.setPort i x).load j = s.load j := rfl
@[simp] theorem loads_updPort (s : State) (i : PortId) (g : Port → Port) : (s.updPort i g).loads = s.loads := rfl
@[simp] theorem load_updPort (s : State) (i : PortId) (g : Port → Port) (j : LoadId) : (s.updPort i g).load j = s.load j := rfl
@[simp] theorem queues_setPort (s : State) (i : PortId) (x : Port) : (s.setPort i x).queues = s.queues := rfl
@[simp] theorem queue_setPort (s : State) (i : PortId) (x : Port) (j : QueueId) : (s.setPort i x).queue j = s.queue j := rfl
@[simp] theorem queues_updPort (s : State) (i : PortId) (g : Port → Port) : (s.updPort i g).queues = s.queues := rfl
@[simp] theorem queue_updPort (s : State) (i : PortId) (g : Port → Port) (j : QueueId) : (s.updPort i g).queue j = s.queue j := rfl
@[simp] theorem dies_setPort (s : State) (i : PortId) (x : Port) : (s.setPort i x).dies = s.dies := rfl
@[simp] theorem die_setPort (s : State) (i : PortId) (x : Port) (j : Nat) : (s.setPort i x).die j = s.die j := rfl
@[simp] theorem dies_updPort (s : State) (i : PortId) (g : Port → Port) : (s.updPort i g).dies = s.dies := rfl
@[simp] theorem die_updPort (s : State) (i : PortId) (g : Port → Port) (j : Nat) : (s.updPort i g).die j = s.die j := rfl
@[simp] theorem pkgs_setPort (s : State) (i : PortId) (x : Port) : (s.setPort i x).pkgs = s.pkgs := rfl
@[simp] theorem pkg_setPort (s : State) (i : PortId) (x : Port) (j : Nat) : (s.setPort i x).pkg j = s.pkg j := rfl
@[simp] theorem pkgs_updPort (s : State) (i : PortId) (g : Port → Port) : (s.updPort i g).pkgs = s.pkgs := rfl
@[simp] theorem pkg_updPort (s : State) (i : PortId) (g : Port → Port) (j : Nat) : (s.updPort i g).pkg j = s.pkg j := rfl
@[simp] theorem clock_setPort (s : State) (i : PortId) (x : Port) : (s.setPort i x).clock = s.clock := rfl
@[simp] theorem clock_updPort (s : State) (i : PortId) (g : Port → Port) : (s.updPort i g).clock = s.clock := rfl
@[simp] theorem agenda_setPort (s : State) (i : PortId) (x : Port) : (s.setPort i x).agenda = s.agenda := rfl
@[simp] theorem agenda_updPort (s : State) (i : PortId) (g : Port → Port) : (s.updPort i g).agenda = s.agenda := rfl
@[simp] theorem work_setPort (s : State) (i : PortId) (x : Port) : (s.setPort i x).work = s.work := rfl
@[simp] theorem work_updPort (s : State) (i : PortId) (g : Port → Port) : (s.updPort i g).work = s.work := rfl
@[simp] theorem cur_setPort (s : State) (i : PortId) (x : Port) : (s.setPort i x).cur = s.cur := rfl
@[simp] theorem cur_updPort (s : State) (i : PortId) (g : Port → Port) : (s.updPort i g).cur = s.cur := rfl
@[simp] theorem event_setPort (s : State) (i : PortId) (x : Port) : (s.setPort i x).event = s.event := rfl
@[simp] theorem event_updPort (s : State) (i : PortId) (g : Port → Port) : (s.updPort i g).event = s.event := rfl
@[simp] theorem drawn_setPort (s : State) (i : PortId) (x : Port) : (s.setPort i x).drawn = s.drawn := rfl
@[simp] theorem drawn_updPort (s : State) (i : PortId) (g : Port → Port) : (s.updPort i g).drawn = s.drawn := rfl
@[simp] theorem mem_setPort (s : State) (i : PortId) (x : Port) : (s.setPort i x).mem = s.mem := rfl
@[simp] theorem mem_updPort (s : State) (i : PortId) (g : Port → Port) : (s.updPort i g).mem = s.mem := rfl
@[simp] theorem full_setPort (s : State) (i : PortId) (x : Port) : (s.setPort i x).full = s.full := rfl
@[simp] theorem full_updPort (s : State) (i : PortId) (g : Port → Port) : (s.updPort i g).full = s.full := rfl
@[simp] theorem keytag_setPort (s : State) (i : PortId) (x : Port) : (s.setPort i x).keytag = s.keytag := rfl
@[simp] theorem keytag_updPort (s : State) (i : PortId) (g : Port → Port) : (s.updPort i g).keytag = s.keytag := rfl
@[simp] theorem damaged_setPort (s : State) (i : PortId) (x : Port) : (s.setPort i x).damaged = s.damaged := rfl
@[simp] theorem damaged_updPort (s : State) (i : PortId) (g : Port → Port) : (s.updPort i g).damaged = s.damaged := rfl
@[simp] theorem net_setPort (s : State) (i : PortId) (x : Port) : (s.setPort i x).net = s.net := rfl
@[simp] theorem net_updPort (s : State) (i : PortId) (g : Port → Port) : (s.updPort i g).net = s.net := rfl
@[simp] theorem nextAccess_setPort (s : State) (i : PortId) (x : Port) : (s.setPort i x).nextAccess = s.nextAccess := rfl
@[simp] theorem nextAccess_updPort (s : State) (i : PortId) (g : Port → Port) : (s.updPort i g).nextAccess = s.nextAccess := rfl
@[simp] theorem raises_setPort (s : State) (i : PortId) (x : Port) : (s.setPort i x).raises = s.raises := rfl
@[simp] theorem raises_updPort (s : State) (i : PortId) (g : Port → Port) : (s.updPort i g).raises = s.raises := rfl
@[simp] theorem present_setPort (s : State) (i : PortId) (x : Port) : (s.setPort i x).present = s.present := rfl
@[simp] theorem present_updPort (s : State) (i : PortId) (g : Port → Port) : (s.updPort i g).present = s.present := rfl
@[simp] theorem rehash_setPort (s : State) (i : PortId) (x : Port) : (s.setPort i x).rehash = s.rehash := rfl
@[simp] theorem rehash_updPort (s : State) (i : PortId) (g : Port → Port) : (s.updPort i g).rehash = s.rehash := rfl
@[simp] theorem planeIdle_setPort (s : State) (i : PortId) (x : Port) : (s.setPort i x).planeIdle = s.planeIdle := rfl
@[simp] theorem planeIdle_updPort (s : State) (i : PortId) (g : Port → Port) : (s.updPort i g).planeIdle = s.planeIdle := rfl
@[simp] theorem ring_setPort (s : State) (i : PortId) (x : Port) : (s.setPort i x).ring = s.ring := rfl
@[simp] theorem ring_updPort (s : State) (i : PortId) (g : Port → Port) : (s.updPort i g).ring = s.ring := rfl
@[simp] theorem saved_setPort (s : State) (i : PortId) (x : Port) : (s.setPort i x).saved = s.saved := rfl
@[simp] theorem saved_updPort (s : State) (i : PortId) (g : Port → Port) : (s.updPort i g).saved = s.saved := rfl
@[simp] theorem contexts_setPort (s : State) (i : PortId) (x : Port) : (s.setPort i x).contexts = s.contexts := rfl
@[simp] theorem contexts_updPort (s : State) (i : PortId) (g : Port → Port) : (s.updPort i g).contexts = s.contexts := rfl
@[simp] theorem hostMem_setPort (s : State) (i : PortId) (x : Port) : (s.setPort i x).hostMem = s.hostMem := rfl
@[simp] theorem hostMem_updPort (s : State) (i : PortId) (g : Port → Port) : (s.updPort i g).hostMem = s.hostMem := rfl
@[simp] theorem hostReqs_setPort (s : State) (i : PortId) (x : Port) : (s.setPort i x).hostReqs = s.hostReqs := rfl
@[simp] theorem hostReqs_updPort (s : State) (i : PortId) (g : Port → Port) : (s.updPort i g).hostReqs = s.hostReqs := rfl
@[simp] theorem msix_setPort (s : State) (i : PortId) (x : Port) : (s.setPort i x).msix = s.msix := rfl
@[simp] theorem msix_updPort (s : State) (i : PortId) (g : Port → Port) : (s.updPort i g).msix = s.msix := rfl
@[simp] theorem replies_setPort (s : State) (i : PortId) (x : Port) : (s.setPort i x).replies = s.replies := rfl
@[simp] theorem replies_updPort (s : State) (i : PortId) (g : Port → Port) : (s.updPort i g).replies = s.replies := rfl

/-! ## Channel -/

theorem chan_setChan (s : State) (i j : ChanId) (x : Channel) : (s.setChan i x).chan j = if j = i then x else s.chan j := Map.get_set _ _ _ _ _
@[simp] theorem chan_setChan_same (s : State) (i : ChanId) (x : Channel) : (s.setChan i x).chan i = x := Map.get_set_same _ _ _ _
theorem chan_setChan_ne (s : State) {i j : ChanId} (x : Channel) (h : j ≠ i) : (s.setChan i x).chan j = s.chan j := Map.get_set_ne _ _ _ h
theorem chan_updChan (s : State) (i j : ChanId) (g : Channel → Channel) : (s.updChan i g).chan j = if j = i then g (s.chan i) else s.chan j := Map.get_set _ _ _ _ _
@[simp] theorem chan_updChan_same (s : State) (i : ChanId) (g : Channel → Channel) : (s.updChan i g).chan i = g (s.chan i) := Map.get_set_same _ _ _ _
theorem chan_updChan_ne (s : State) {i j : ChanId} (g : Channel → Channel) (h : j ≠ i) : (s.updChan i g).chan j = s.chan j := Map.get_set_ne _ _ _ h
@[simp] theorem strands_setChan (s : State) (i : ChanId) (x : Channel) : (s.setChan i x).strands = s.strands := rfl
@[simp] theorem strand_setChan (s : State) (i : ChanId) (x : Channel) (j : StrandId) : (s.setChan i x).strand j = s.strand j := rfl
@[simp] theorem strands_updChan (s : State) (i : ChanId) (g : Channel → Channel) : (s.updChan i g).strands = s.strands := rfl
@[simp] theorem strand_updChan (s : State) (i : ChanId) (g : Channel → Channel) (j : StrandId) : (s.updChan i g).strand j = s.strand j := rfl
@[simp] theorem tasks_setChan (s : State) (i : ChanId) (x : Channel) : (s.setChan i x).tasks = s.tasks := rfl
@[simp] theorem task_setChan (s : State) (i : ChanId) (x : Channel) (j : TaskId) : (s.setChan i x).task j = s.task j := rfl
@[simp] theorem tasks_updChan (s : State) (i : ChanId) (g : Channel → Channel) : (s.updChan i g).tasks = s.tasks := rfl
@[simp] theorem task_updChan (s : State) (i : ChanId) (g : Channel → Channel) (j : TaskId) : (s.updChan i g).task j = s.task j := rfl
@[simp] theorem tiles_setChan (s : State) (i : ChanId) (x : Channel) : (s.setChan i x).tiles = s.tiles := rfl
@[simp] theorem tile_setChan (s : State) (i : ChanId) (x : Channel) (j : TileId) : (s.setChan i x).tile j = s.tile j := rfl
@[simp] theorem tiles_updChan (s : State) (i : ChanId) (g : Channel → Channel) : (s.updChan i g).tiles = s.tiles := rfl
@[simp] theorem tile_updChan (s : State) (i : ChanId) (g : Channel → Channel) (j : TileId) : (s.updChan i g).tile j = s.tile j := rfl
@[simp] theorem ports_setChan (s : State) (i : ChanId) (x : Channel) : (s.setChan i x).ports = s.ports := rfl
@[simp] theorem port_setChan (s : State) (i : ChanId) (x : Channel) (j : PortId) : (s.setChan i x).port j = s.port j := rfl
@[simp] theorem ports_updChan (s : State) (i : ChanId) (g : Channel → Channel) : (s.updChan i g).ports = s.ports := rfl
@[simp] theorem port_updChan (s : State) (i : ChanId) (g : Channel → Channel) (j : PortId) : (s.updChan i g).port j = s.port j := rfl
@[simp] theorem regions_setChan (s : State) (i : ChanId) (x : Channel) : (s.setChan i x).regions = s.regions := rfl
@[simp] theorem region_setChan (s : State) (i : ChanId) (x : Channel) (j : RegionId) : (s.setChan i x).region j = s.region j := rfl
@[simp] theorem regions_updChan (s : State) (i : ChanId) (g : Channel → Channel) : (s.updChan i g).regions = s.regions := rfl
@[simp] theorem region_updChan (s : State) (i : ChanId) (g : Channel → Channel) (j : RegionId) : (s.updChan i g).region j = s.region j := rfl
@[simp] theorem loads_setChan (s : State) (i : ChanId) (x : Channel) : (s.setChan i x).loads = s.loads := rfl
@[simp] theorem load_setChan (s : State) (i : ChanId) (x : Channel) (j : LoadId) : (s.setChan i x).load j = s.load j := rfl
@[simp] theorem loads_updChan (s : State) (i : ChanId) (g : Channel → Channel) : (s.updChan i g).loads = s.loads := rfl
@[simp] theorem load_updChan (s : State) (i : ChanId) (g : Channel → Channel) (j : LoadId) : (s.updChan i g).load j = s.load j := rfl
@[simp] theorem queues_setChan (s : State) (i : ChanId) (x : Channel) : (s.setChan i x).queues = s.queues := rfl
@[simp] theorem queue_setChan (s : State) (i : ChanId) (x : Channel) (j : QueueId) : (s.setChan i x).queue j = s.queue j := rfl
@[simp] theorem queues_updChan (s : State) (i : ChanId) (g : Channel → Channel) : (s.updChan i g).queues = s.queues := rfl
@[simp] theorem queue_updChan (s : State) (i : ChanId) (g : Channel → Channel) (j : QueueId) : (s.updChan i g).queue j = s.queue j := rfl
@[simp] theorem dies_setChan (s : State) (i : ChanId) (x : Channel) : (s.setChan i x).dies = s.dies := rfl
@[simp] theorem die_setChan (s : State) (i : ChanId) (x : Channel) (j : Nat) : (s.setChan i x).die j = s.die j := rfl
@[simp] theorem dies_updChan (s : State) (i : ChanId) (g : Channel → Channel) : (s.updChan i g).dies = s.dies := rfl
@[simp] theorem die_updChan (s : State) (i : ChanId) (g : Channel → Channel) (j : Nat) : (s.updChan i g).die j = s.die j := rfl
@[simp] theorem pkgs_setChan (s : State) (i : ChanId) (x : Channel) : (s.setChan i x).pkgs = s.pkgs := rfl
@[simp] theorem pkg_setChan (s : State) (i : ChanId) (x : Channel) (j : Nat) : (s.setChan i x).pkg j = s.pkg j := rfl
@[simp] theorem pkgs_updChan (s : State) (i : ChanId) (g : Channel → Channel) : (s.updChan i g).pkgs = s.pkgs := rfl
@[simp] theorem pkg_updChan (s : State) (i : ChanId) (g : Channel → Channel) (j : Nat) : (s.updChan i g).pkg j = s.pkg j := rfl
@[simp] theorem clock_setChan (s : State) (i : ChanId) (x : Channel) : (s.setChan i x).clock = s.clock := rfl
@[simp] theorem clock_updChan (s : State) (i : ChanId) (g : Channel → Channel) : (s.updChan i g).clock = s.clock := rfl
@[simp] theorem agenda_setChan (s : State) (i : ChanId) (x : Channel) : (s.setChan i x).agenda = s.agenda := rfl
@[simp] theorem agenda_updChan (s : State) (i : ChanId) (g : Channel → Channel) : (s.updChan i g).agenda = s.agenda := rfl
@[simp] theorem work_setChan (s : State) (i : ChanId) (x : Channel) : (s.setChan i x).work = s.work := rfl
@[simp] theorem work_updChan (s : State) (i : ChanId) (g : Channel → Channel) : (s.updChan i g).work = s.work := rfl
@[simp] theorem cur_setChan (s : State) (i : ChanId) (x : Channel) : (s.setChan i x).cur = s.cur := rfl
@[simp] theorem cur_updChan (s : State) (i : ChanId) (g : Channel → Channel) : (s.updChan i g).cur = s.cur := rfl
@[simp] theorem event_setChan (s : State) (i : ChanId) (x : Channel) : (s.setChan i x).event = s.event := rfl
@[simp] theorem event_updChan (s : State) (i : ChanId) (g : Channel → Channel) : (s.updChan i g).event = s.event := rfl
@[simp] theorem drawn_setChan (s : State) (i : ChanId) (x : Channel) : (s.setChan i x).drawn = s.drawn := rfl
@[simp] theorem drawn_updChan (s : State) (i : ChanId) (g : Channel → Channel) : (s.updChan i g).drawn = s.drawn := rfl
@[simp] theorem mem_setChan (s : State) (i : ChanId) (x : Channel) : (s.setChan i x).mem = s.mem := rfl
@[simp] theorem mem_updChan (s : State) (i : ChanId) (g : Channel → Channel) : (s.updChan i g).mem = s.mem := rfl
@[simp] theorem full_setChan (s : State) (i : ChanId) (x : Channel) : (s.setChan i x).full = s.full := rfl
@[simp] theorem full_updChan (s : State) (i : ChanId) (g : Channel → Channel) : (s.updChan i g).full = s.full := rfl
@[simp] theorem keytag_setChan (s : State) (i : ChanId) (x : Channel) : (s.setChan i x).keytag = s.keytag := rfl
@[simp] theorem keytag_updChan (s : State) (i : ChanId) (g : Channel → Channel) : (s.updChan i g).keytag = s.keytag := rfl
@[simp] theorem damaged_setChan (s : State) (i : ChanId) (x : Channel) : (s.setChan i x).damaged = s.damaged := rfl
@[simp] theorem damaged_updChan (s : State) (i : ChanId) (g : Channel → Channel) : (s.updChan i g).damaged = s.damaged := rfl
@[simp] theorem net_setChan (s : State) (i : ChanId) (x : Channel) : (s.setChan i x).net = s.net := rfl
@[simp] theorem net_updChan (s : State) (i : ChanId) (g : Channel → Channel) : (s.updChan i g).net = s.net := rfl
@[simp] theorem nextAccess_setChan (s : State) (i : ChanId) (x : Channel) : (s.setChan i x).nextAccess = s.nextAccess := rfl
@[simp] theorem nextAccess_updChan (s : State) (i : ChanId) (g : Channel → Channel) : (s.updChan i g).nextAccess = s.nextAccess := rfl
@[simp] theorem raises_setChan (s : State) (i : ChanId) (x : Channel) : (s.setChan i x).raises = s.raises := rfl
@[simp] theorem raises_updChan (s : State) (i : ChanId) (g : Channel → Channel) : (s.updChan i g).raises = s.raises := rfl
@[simp] theorem present_setChan (s : State) (i : ChanId) (x : Channel) : (s.setChan i x).present = s.present := rfl
@[simp] theorem present_updChan (s : State) (i : ChanId) (g : Channel → Channel) : (s.updChan i g).present = s.present := rfl
@[simp] theorem rehash_setChan (s : State) (i : ChanId) (x : Channel) : (s.setChan i x).rehash = s.rehash := rfl
@[simp] theorem rehash_updChan (s : State) (i : ChanId) (g : Channel → Channel) : (s.updChan i g).rehash = s.rehash := rfl
@[simp] theorem planeIdle_setChan (s : State) (i : ChanId) (x : Channel) : (s.setChan i x).planeIdle = s.planeIdle := rfl
@[simp] theorem planeIdle_updChan (s : State) (i : ChanId) (g : Channel → Channel) : (s.updChan i g).planeIdle = s.planeIdle := rfl
@[simp] theorem ring_setChan (s : State) (i : ChanId) (x : Channel) : (s.setChan i x).ring = s.ring := rfl
@[simp] theorem ring_updChan (s : State) (i : ChanId) (g : Channel → Channel) : (s.updChan i g).ring = s.ring := rfl
@[simp] theorem saved_setChan (s : State) (i : ChanId) (x : Channel) : (s.setChan i x).saved = s.saved := rfl
@[simp] theorem saved_updChan (s : State) (i : ChanId) (g : Channel → Channel) : (s.updChan i g).saved = s.saved := rfl
@[simp] theorem contexts_setChan (s : State) (i : ChanId) (x : Channel) : (s.setChan i x).contexts = s.contexts := rfl
@[simp] theorem contexts_updChan (s : State) (i : ChanId) (g : Channel → Channel) : (s.updChan i g).contexts = s.contexts := rfl
@[simp] theorem hostMem_setChan (s : State) (i : ChanId) (x : Channel) : (s.setChan i x).hostMem = s.hostMem := rfl
@[simp] theorem hostMem_updChan (s : State) (i : ChanId) (g : Channel → Channel) : (s.updChan i g).hostMem = s.hostMem := rfl
@[simp] theorem hostReqs_setChan (s : State) (i : ChanId) (x : Channel) : (s.setChan i x).hostReqs = s.hostReqs := rfl
@[simp] theorem hostReqs_updChan (s : State) (i : ChanId) (g : Channel → Channel) : (s.updChan i g).hostReqs = s.hostReqs := rfl
@[simp] theorem msix_setChan (s : State) (i : ChanId) (x : Channel) : (s.setChan i x).msix = s.msix := rfl
@[simp] theorem msix_updChan (s : State) (i : ChanId) (g : Channel → Channel) : (s.updChan i g).msix = s.msix := rfl
@[simp] theorem replies_setChan (s : State) (i : ChanId) (x : Channel) : (s.setChan i x).replies = s.replies := rfl
@[simp] theorem replies_updChan (s : State) (i : ChanId) (g : Channel → Channel) : (s.updChan i g).replies = s.replies := rfl

/-! ## Region -/

theorem region_setRegion (s : State) (i j : RegionId) (x : Region) : (s.setRegion i x).region j = if j = i then x else s.region j := Map.get_set _ _ _ _ _
@[simp] theorem region_setRegion_same (s : State) (i : RegionId) (x : Region) : (s.setRegion i x).region i = x := Map.get_set_same _ _ _ _
theorem region_setRegion_ne (s : State) {i j : RegionId} (x : Region) (h : j ≠ i) : (s.setRegion i x).region j = s.region j := Map.get_set_ne _ _ _ h
theorem region_updRegion (s : State) (i j : RegionId) (g : Region → Region) : (s.updRegion i g).region j = if j = i then g (s.region i) else s.region j := Map.get_set _ _ _ _ _
@[simp] theorem region_updRegion_same (s : State) (i : RegionId) (g : Region → Region) : (s.updRegion i g).region i = g (s.region i) := Map.get_set_same _ _ _ _
theorem region_updRegion_ne (s : State) {i j : RegionId} (g : Region → Region) (h : j ≠ i) : (s.updRegion i g).region j = s.region j := Map.get_set_ne _ _ _ h
@[simp] theorem strands_setRegion (s : State) (i : RegionId) (x : Region) : (s.setRegion i x).strands = s.strands := rfl
@[simp] theorem strand_setRegion (s : State) (i : RegionId) (x : Region) (j : StrandId) : (s.setRegion i x).strand j = s.strand j := rfl
@[simp] theorem strands_updRegion (s : State) (i : RegionId) (g : Region → Region) : (s.updRegion i g).strands = s.strands := rfl
@[simp] theorem strand_updRegion (s : State) (i : RegionId) (g : Region → Region) (j : StrandId) : (s.updRegion i g).strand j = s.strand j := rfl
@[simp] theorem tasks_setRegion (s : State) (i : RegionId) (x : Region) : (s.setRegion i x).tasks = s.tasks := rfl
@[simp] theorem task_setRegion (s : State) (i : RegionId) (x : Region) (j : TaskId) : (s.setRegion i x).task j = s.task j := rfl
@[simp] theorem tasks_updRegion (s : State) (i : RegionId) (g : Region → Region) : (s.updRegion i g).tasks = s.tasks := rfl
@[simp] theorem task_updRegion (s : State) (i : RegionId) (g : Region → Region) (j : TaskId) : (s.updRegion i g).task j = s.task j := rfl
@[simp] theorem tiles_setRegion (s : State) (i : RegionId) (x : Region) : (s.setRegion i x).tiles = s.tiles := rfl
@[simp] theorem tile_setRegion (s : State) (i : RegionId) (x : Region) (j : TileId) : (s.setRegion i x).tile j = s.tile j := rfl
@[simp] theorem tiles_updRegion (s : State) (i : RegionId) (g : Region → Region) : (s.updRegion i g).tiles = s.tiles := rfl
@[simp] theorem tile_updRegion (s : State) (i : RegionId) (g : Region → Region) (j : TileId) : (s.updRegion i g).tile j = s.tile j := rfl
@[simp] theorem ports_setRegion (s : State) (i : RegionId) (x : Region) : (s.setRegion i x).ports = s.ports := rfl
@[simp] theorem port_setRegion (s : State) (i : RegionId) (x : Region) (j : PortId) : (s.setRegion i x).port j = s.port j := rfl
@[simp] theorem ports_updRegion (s : State) (i : RegionId) (g : Region → Region) : (s.updRegion i g).ports = s.ports := rfl
@[simp] theorem port_updRegion (s : State) (i : RegionId) (g : Region → Region) (j : PortId) : (s.updRegion i g).port j = s.port j := rfl
@[simp] theorem chans_setRegion (s : State) (i : RegionId) (x : Region) : (s.setRegion i x).chans = s.chans := rfl
@[simp] theorem chan_setRegion (s : State) (i : RegionId) (x : Region) (j : ChanId) : (s.setRegion i x).chan j = s.chan j := rfl
@[simp] theorem chans_updRegion (s : State) (i : RegionId) (g : Region → Region) : (s.updRegion i g).chans = s.chans := rfl
@[simp] theorem chan_updRegion (s : State) (i : RegionId) (g : Region → Region) (j : ChanId) : (s.updRegion i g).chan j = s.chan j := rfl
@[simp] theorem loads_setRegion (s : State) (i : RegionId) (x : Region) : (s.setRegion i x).loads = s.loads := rfl
@[simp] theorem load_setRegion (s : State) (i : RegionId) (x : Region) (j : LoadId) : (s.setRegion i x).load j = s.load j := rfl
@[simp] theorem loads_updRegion (s : State) (i : RegionId) (g : Region → Region) : (s.updRegion i g).loads = s.loads := rfl
@[simp] theorem load_updRegion (s : State) (i : RegionId) (g : Region → Region) (j : LoadId) : (s.updRegion i g).load j = s.load j := rfl
@[simp] theorem queues_setRegion (s : State) (i : RegionId) (x : Region) : (s.setRegion i x).queues = s.queues := rfl
@[simp] theorem queue_setRegion (s : State) (i : RegionId) (x : Region) (j : QueueId) : (s.setRegion i x).queue j = s.queue j := rfl
@[simp] theorem queues_updRegion (s : State) (i : RegionId) (g : Region → Region) : (s.updRegion i g).queues = s.queues := rfl
@[simp] theorem queue_updRegion (s : State) (i : RegionId) (g : Region → Region) (j : QueueId) : (s.updRegion i g).queue j = s.queue j := rfl
@[simp] theorem dies_setRegion (s : State) (i : RegionId) (x : Region) : (s.setRegion i x).dies = s.dies := rfl
@[simp] theorem die_setRegion (s : State) (i : RegionId) (x : Region) (j : Nat) : (s.setRegion i x).die j = s.die j := rfl
@[simp] theorem dies_updRegion (s : State) (i : RegionId) (g : Region → Region) : (s.updRegion i g).dies = s.dies := rfl
@[simp] theorem die_updRegion (s : State) (i : RegionId) (g : Region → Region) (j : Nat) : (s.updRegion i g).die j = s.die j := rfl
@[simp] theorem pkgs_setRegion (s : State) (i : RegionId) (x : Region) : (s.setRegion i x).pkgs = s.pkgs := rfl
@[simp] theorem pkg_setRegion (s : State) (i : RegionId) (x : Region) (j : Nat) : (s.setRegion i x).pkg j = s.pkg j := rfl
@[simp] theorem pkgs_updRegion (s : State) (i : RegionId) (g : Region → Region) : (s.updRegion i g).pkgs = s.pkgs := rfl
@[simp] theorem pkg_updRegion (s : State) (i : RegionId) (g : Region → Region) (j : Nat) : (s.updRegion i g).pkg j = s.pkg j := rfl
@[simp] theorem clock_setRegion (s : State) (i : RegionId) (x : Region) : (s.setRegion i x).clock = s.clock := rfl
@[simp] theorem clock_updRegion (s : State) (i : RegionId) (g : Region → Region) : (s.updRegion i g).clock = s.clock := rfl
@[simp] theorem agenda_setRegion (s : State) (i : RegionId) (x : Region) : (s.setRegion i x).agenda = s.agenda := rfl
@[simp] theorem agenda_updRegion (s : State) (i : RegionId) (g : Region → Region) : (s.updRegion i g).agenda = s.agenda := rfl
@[simp] theorem work_setRegion (s : State) (i : RegionId) (x : Region) : (s.setRegion i x).work = s.work := rfl
@[simp] theorem work_updRegion (s : State) (i : RegionId) (g : Region → Region) : (s.updRegion i g).work = s.work := rfl
@[simp] theorem cur_setRegion (s : State) (i : RegionId) (x : Region) : (s.setRegion i x).cur = s.cur := rfl
@[simp] theorem cur_updRegion (s : State) (i : RegionId) (g : Region → Region) : (s.updRegion i g).cur = s.cur := rfl
@[simp] theorem event_setRegion (s : State) (i : RegionId) (x : Region) : (s.setRegion i x).event = s.event := rfl
@[simp] theorem event_updRegion (s : State) (i : RegionId) (g : Region → Region) : (s.updRegion i g).event = s.event := rfl
@[simp] theorem drawn_setRegion (s : State) (i : RegionId) (x : Region) : (s.setRegion i x).drawn = s.drawn := rfl
@[simp] theorem drawn_updRegion (s : State) (i : RegionId) (g : Region → Region) : (s.updRegion i g).drawn = s.drawn := rfl
@[simp] theorem mem_setRegion (s : State) (i : RegionId) (x : Region) : (s.setRegion i x).mem = s.mem := rfl
@[simp] theorem mem_updRegion (s : State) (i : RegionId) (g : Region → Region) : (s.updRegion i g).mem = s.mem := rfl
@[simp] theorem full_setRegion (s : State) (i : RegionId) (x : Region) : (s.setRegion i x).full = s.full := rfl
@[simp] theorem full_updRegion (s : State) (i : RegionId) (g : Region → Region) : (s.updRegion i g).full = s.full := rfl
@[simp] theorem keytag_setRegion (s : State) (i : RegionId) (x : Region) : (s.setRegion i x).keytag = s.keytag := rfl
@[simp] theorem keytag_updRegion (s : State) (i : RegionId) (g : Region → Region) : (s.updRegion i g).keytag = s.keytag := rfl
@[simp] theorem damaged_setRegion (s : State) (i : RegionId) (x : Region) : (s.setRegion i x).damaged = s.damaged := rfl
@[simp] theorem damaged_updRegion (s : State) (i : RegionId) (g : Region → Region) : (s.updRegion i g).damaged = s.damaged := rfl
@[simp] theorem net_setRegion (s : State) (i : RegionId) (x : Region) : (s.setRegion i x).net = s.net := rfl
@[simp] theorem net_updRegion (s : State) (i : RegionId) (g : Region → Region) : (s.updRegion i g).net = s.net := rfl
@[simp] theorem nextAccess_setRegion (s : State) (i : RegionId) (x : Region) : (s.setRegion i x).nextAccess = s.nextAccess := rfl
@[simp] theorem nextAccess_updRegion (s : State) (i : RegionId) (g : Region → Region) : (s.updRegion i g).nextAccess = s.nextAccess := rfl
@[simp] theorem raises_setRegion (s : State) (i : RegionId) (x : Region) : (s.setRegion i x).raises = s.raises := rfl
@[simp] theorem raises_updRegion (s : State) (i : RegionId) (g : Region → Region) : (s.updRegion i g).raises = s.raises := rfl
@[simp] theorem present_setRegion (s : State) (i : RegionId) (x : Region) : (s.setRegion i x).present = s.present := rfl
@[simp] theorem present_updRegion (s : State) (i : RegionId) (g : Region → Region) : (s.updRegion i g).present = s.present := rfl
@[simp] theorem rehash_setRegion (s : State) (i : RegionId) (x : Region) : (s.setRegion i x).rehash = s.rehash := rfl
@[simp] theorem rehash_updRegion (s : State) (i : RegionId) (g : Region → Region) : (s.updRegion i g).rehash = s.rehash := rfl
@[simp] theorem planeIdle_setRegion (s : State) (i : RegionId) (x : Region) : (s.setRegion i x).planeIdle = s.planeIdle := rfl
@[simp] theorem planeIdle_updRegion (s : State) (i : RegionId) (g : Region → Region) : (s.updRegion i g).planeIdle = s.planeIdle := rfl
@[simp] theorem ring_setRegion (s : State) (i : RegionId) (x : Region) : (s.setRegion i x).ring = s.ring := rfl
@[simp] theorem ring_updRegion (s : State) (i : RegionId) (g : Region → Region) : (s.updRegion i g).ring = s.ring := rfl
@[simp] theorem saved_setRegion (s : State) (i : RegionId) (x : Region) : (s.setRegion i x).saved = s.saved := rfl
@[simp] theorem saved_updRegion (s : State) (i : RegionId) (g : Region → Region) : (s.updRegion i g).saved = s.saved := rfl
@[simp] theorem contexts_setRegion (s : State) (i : RegionId) (x : Region) : (s.setRegion i x).contexts = s.contexts := rfl
@[simp] theorem contexts_updRegion (s : State) (i : RegionId) (g : Region → Region) : (s.updRegion i g).contexts = s.contexts := rfl
@[simp] theorem hostMem_setRegion (s : State) (i : RegionId) (x : Region) : (s.setRegion i x).hostMem = s.hostMem := rfl
@[simp] theorem hostMem_updRegion (s : State) (i : RegionId) (g : Region → Region) : (s.updRegion i g).hostMem = s.hostMem := rfl
@[simp] theorem hostReqs_setRegion (s : State) (i : RegionId) (x : Region) : (s.setRegion i x).hostReqs = s.hostReqs := rfl
@[simp] theorem hostReqs_updRegion (s : State) (i : RegionId) (g : Region → Region) : (s.updRegion i g).hostReqs = s.hostReqs := rfl
@[simp] theorem msix_setRegion (s : State) (i : RegionId) (x : Region) : (s.setRegion i x).msix = s.msix := rfl
@[simp] theorem msix_updRegion (s : State) (i : RegionId) (g : Region → Region) : (s.updRegion i g).msix = s.msix := rfl
@[simp] theorem replies_setRegion (s : State) (i : RegionId) (x : Region) : (s.setRegion i x).replies = s.replies := rfl
@[simp] theorem replies_updRegion (s : State) (i : RegionId) (g : Region → Region) : (s.updRegion i g).replies = s.replies := rfl

/-! ## Load -/

theorem load_setLoad (s : State) (i j : LoadId) (x : Load) : (s.setLoad i x).load j = if j = i then x else s.load j := Map.get_set _ _ _ _ _
@[simp] theorem load_setLoad_same (s : State) (i : LoadId) (x : Load) : (s.setLoad i x).load i = x := Map.get_set_same _ _ _ _
theorem load_setLoad_ne (s : State) {i j : LoadId} (x : Load) (h : j ≠ i) : (s.setLoad i x).load j = s.load j := Map.get_set_ne _ _ _ h
theorem load_updLoad (s : State) (i j : LoadId) (g : Load → Load) : (s.updLoad i g).load j = if j = i then g (s.load i) else s.load j := Map.get_set _ _ _ _ _
@[simp] theorem load_updLoad_same (s : State) (i : LoadId) (g : Load → Load) : (s.updLoad i g).load i = g (s.load i) := Map.get_set_same _ _ _ _
theorem load_updLoad_ne (s : State) {i j : LoadId} (g : Load → Load) (h : j ≠ i) : (s.updLoad i g).load j = s.load j := Map.get_set_ne _ _ _ h
@[simp] theorem strands_setLoad (s : State) (i : LoadId) (x : Load) : (s.setLoad i x).strands = s.strands := rfl
@[simp] theorem strand_setLoad (s : State) (i : LoadId) (x : Load) (j : StrandId) : (s.setLoad i x).strand j = s.strand j := rfl
@[simp] theorem strands_updLoad (s : State) (i : LoadId) (g : Load → Load) : (s.updLoad i g).strands = s.strands := rfl
@[simp] theorem strand_updLoad (s : State) (i : LoadId) (g : Load → Load) (j : StrandId) : (s.updLoad i g).strand j = s.strand j := rfl
@[simp] theorem tasks_setLoad (s : State) (i : LoadId) (x : Load) : (s.setLoad i x).tasks = s.tasks := rfl
@[simp] theorem task_setLoad (s : State) (i : LoadId) (x : Load) (j : TaskId) : (s.setLoad i x).task j = s.task j := rfl
@[simp] theorem tasks_updLoad (s : State) (i : LoadId) (g : Load → Load) : (s.updLoad i g).tasks = s.tasks := rfl
@[simp] theorem task_updLoad (s : State) (i : LoadId) (g : Load → Load) (j : TaskId) : (s.updLoad i g).task j = s.task j := rfl
@[simp] theorem tiles_setLoad (s : State) (i : LoadId) (x : Load) : (s.setLoad i x).tiles = s.tiles := rfl
@[simp] theorem tile_setLoad (s : State) (i : LoadId) (x : Load) (j : TileId) : (s.setLoad i x).tile j = s.tile j := rfl
@[simp] theorem tiles_updLoad (s : State) (i : LoadId) (g : Load → Load) : (s.updLoad i g).tiles = s.tiles := rfl
@[simp] theorem tile_updLoad (s : State) (i : LoadId) (g : Load → Load) (j : TileId) : (s.updLoad i g).tile j = s.tile j := rfl
@[simp] theorem ports_setLoad (s : State) (i : LoadId) (x : Load) : (s.setLoad i x).ports = s.ports := rfl
@[simp] theorem port_setLoad (s : State) (i : LoadId) (x : Load) (j : PortId) : (s.setLoad i x).port j = s.port j := rfl
@[simp] theorem ports_updLoad (s : State) (i : LoadId) (g : Load → Load) : (s.updLoad i g).ports = s.ports := rfl
@[simp] theorem port_updLoad (s : State) (i : LoadId) (g : Load → Load) (j : PortId) : (s.updLoad i g).port j = s.port j := rfl
@[simp] theorem chans_setLoad (s : State) (i : LoadId) (x : Load) : (s.setLoad i x).chans = s.chans := rfl
@[simp] theorem chan_setLoad (s : State) (i : LoadId) (x : Load) (j : ChanId) : (s.setLoad i x).chan j = s.chan j := rfl
@[simp] theorem chans_updLoad (s : State) (i : LoadId) (g : Load → Load) : (s.updLoad i g).chans = s.chans := rfl
@[simp] theorem chan_updLoad (s : State) (i : LoadId) (g : Load → Load) (j : ChanId) : (s.updLoad i g).chan j = s.chan j := rfl
@[simp] theorem regions_setLoad (s : State) (i : LoadId) (x : Load) : (s.setLoad i x).regions = s.regions := rfl
@[simp] theorem region_setLoad (s : State) (i : LoadId) (x : Load) (j : RegionId) : (s.setLoad i x).region j = s.region j := rfl
@[simp] theorem regions_updLoad (s : State) (i : LoadId) (g : Load → Load) : (s.updLoad i g).regions = s.regions := rfl
@[simp] theorem region_updLoad (s : State) (i : LoadId) (g : Load → Load) (j : RegionId) : (s.updLoad i g).region j = s.region j := rfl
@[simp] theorem queues_setLoad (s : State) (i : LoadId) (x : Load) : (s.setLoad i x).queues = s.queues := rfl
@[simp] theorem queue_setLoad (s : State) (i : LoadId) (x : Load) (j : QueueId) : (s.setLoad i x).queue j = s.queue j := rfl
@[simp] theorem queues_updLoad (s : State) (i : LoadId) (g : Load → Load) : (s.updLoad i g).queues = s.queues := rfl
@[simp] theorem queue_updLoad (s : State) (i : LoadId) (g : Load → Load) (j : QueueId) : (s.updLoad i g).queue j = s.queue j := rfl
@[simp] theorem dies_setLoad (s : State) (i : LoadId) (x : Load) : (s.setLoad i x).dies = s.dies := rfl
@[simp] theorem die_setLoad (s : State) (i : LoadId) (x : Load) (j : Nat) : (s.setLoad i x).die j = s.die j := rfl
@[simp] theorem dies_updLoad (s : State) (i : LoadId) (g : Load → Load) : (s.updLoad i g).dies = s.dies := rfl
@[simp] theorem die_updLoad (s : State) (i : LoadId) (g : Load → Load) (j : Nat) : (s.updLoad i g).die j = s.die j := rfl
@[simp] theorem pkgs_setLoad (s : State) (i : LoadId) (x : Load) : (s.setLoad i x).pkgs = s.pkgs := rfl
@[simp] theorem pkg_setLoad (s : State) (i : LoadId) (x : Load) (j : Nat) : (s.setLoad i x).pkg j = s.pkg j := rfl
@[simp] theorem pkgs_updLoad (s : State) (i : LoadId) (g : Load → Load) : (s.updLoad i g).pkgs = s.pkgs := rfl
@[simp] theorem pkg_updLoad (s : State) (i : LoadId) (g : Load → Load) (j : Nat) : (s.updLoad i g).pkg j = s.pkg j := rfl
@[simp] theorem clock_setLoad (s : State) (i : LoadId) (x : Load) : (s.setLoad i x).clock = s.clock := rfl
@[simp] theorem clock_updLoad (s : State) (i : LoadId) (g : Load → Load) : (s.updLoad i g).clock = s.clock := rfl
@[simp] theorem agenda_setLoad (s : State) (i : LoadId) (x : Load) : (s.setLoad i x).agenda = s.agenda := rfl
@[simp] theorem agenda_updLoad (s : State) (i : LoadId) (g : Load → Load) : (s.updLoad i g).agenda = s.agenda := rfl
@[simp] theorem work_setLoad (s : State) (i : LoadId) (x : Load) : (s.setLoad i x).work = s.work := rfl
@[simp] theorem work_updLoad (s : State) (i : LoadId) (g : Load → Load) : (s.updLoad i g).work = s.work := rfl
@[simp] theorem cur_setLoad (s : State) (i : LoadId) (x : Load) : (s.setLoad i x).cur = s.cur := rfl
@[simp] theorem cur_updLoad (s : State) (i : LoadId) (g : Load → Load) : (s.updLoad i g).cur = s.cur := rfl
@[simp] theorem event_setLoad (s : State) (i : LoadId) (x : Load) : (s.setLoad i x).event = s.event := rfl
@[simp] theorem event_updLoad (s : State) (i : LoadId) (g : Load → Load) : (s.updLoad i g).event = s.event := rfl
@[simp] theorem drawn_setLoad (s : State) (i : LoadId) (x : Load) : (s.setLoad i x).drawn = s.drawn := rfl
@[simp] theorem drawn_updLoad (s : State) (i : LoadId) (g : Load → Load) : (s.updLoad i g).drawn = s.drawn := rfl
@[simp] theorem mem_setLoad (s : State) (i : LoadId) (x : Load) : (s.setLoad i x).mem = s.mem := rfl
@[simp] theorem mem_updLoad (s : State) (i : LoadId) (g : Load → Load) : (s.updLoad i g).mem = s.mem := rfl
@[simp] theorem full_setLoad (s : State) (i : LoadId) (x : Load) : (s.setLoad i x).full = s.full := rfl
@[simp] theorem full_updLoad (s : State) (i : LoadId) (g : Load → Load) : (s.updLoad i g).full = s.full := rfl
@[simp] theorem keytag_setLoad (s : State) (i : LoadId) (x : Load) : (s.setLoad i x).keytag = s.keytag := rfl
@[simp] theorem keytag_updLoad (s : State) (i : LoadId) (g : Load → Load) : (s.updLoad i g).keytag = s.keytag := rfl
@[simp] theorem damaged_setLoad (s : State) (i : LoadId) (x : Load) : (s.setLoad i x).damaged = s.damaged := rfl
@[simp] theorem damaged_updLoad (s : State) (i : LoadId) (g : Load → Load) : (s.updLoad i g).damaged = s.damaged := rfl
@[simp] theorem net_setLoad (s : State) (i : LoadId) (x : Load) : (s.setLoad i x).net = s.net := rfl
@[simp] theorem net_updLoad (s : State) (i : LoadId) (g : Load → Load) : (s.updLoad i g).net = s.net := rfl
@[simp] theorem nextAccess_setLoad (s : State) (i : LoadId) (x : Load) : (s.setLoad i x).nextAccess = s.nextAccess := rfl
@[simp] theorem nextAccess_updLoad (s : State) (i : LoadId) (g : Load → Load) : (s.updLoad i g).nextAccess = s.nextAccess := rfl
@[simp] theorem raises_setLoad (s : State) (i : LoadId) (x : Load) : (s.setLoad i x).raises = s.raises := rfl
@[simp] theorem raises_updLoad (s : State) (i : LoadId) (g : Load → Load) : (s.updLoad i g).raises = s.raises := rfl
@[simp] theorem present_setLoad (s : State) (i : LoadId) (x : Load) : (s.setLoad i x).present = s.present := rfl
@[simp] theorem present_updLoad (s : State) (i : LoadId) (g : Load → Load) : (s.updLoad i g).present = s.present := rfl
@[simp] theorem rehash_setLoad (s : State) (i : LoadId) (x : Load) : (s.setLoad i x).rehash = s.rehash := rfl
@[simp] theorem rehash_updLoad (s : State) (i : LoadId) (g : Load → Load) : (s.updLoad i g).rehash = s.rehash := rfl
@[simp] theorem planeIdle_setLoad (s : State) (i : LoadId) (x : Load) : (s.setLoad i x).planeIdle = s.planeIdle := rfl
@[simp] theorem planeIdle_updLoad (s : State) (i : LoadId) (g : Load → Load) : (s.updLoad i g).planeIdle = s.planeIdle := rfl
@[simp] theorem ring_setLoad (s : State) (i : LoadId) (x : Load) : (s.setLoad i x).ring = s.ring := rfl
@[simp] theorem ring_updLoad (s : State) (i : LoadId) (g : Load → Load) : (s.updLoad i g).ring = s.ring := rfl
@[simp] theorem saved_setLoad (s : State) (i : LoadId) (x : Load) : (s.setLoad i x).saved = s.saved := rfl
@[simp] theorem saved_updLoad (s : State) (i : LoadId) (g : Load → Load) : (s.updLoad i g).saved = s.saved := rfl
@[simp] theorem contexts_setLoad (s : State) (i : LoadId) (x : Load) : (s.setLoad i x).contexts = s.contexts := rfl
@[simp] theorem contexts_updLoad (s : State) (i : LoadId) (g : Load → Load) : (s.updLoad i g).contexts = s.contexts := rfl
@[simp] theorem hostMem_setLoad (s : State) (i : LoadId) (x : Load) : (s.setLoad i x).hostMem = s.hostMem := rfl
@[simp] theorem hostMem_updLoad (s : State) (i : LoadId) (g : Load → Load) : (s.updLoad i g).hostMem = s.hostMem := rfl
@[simp] theorem hostReqs_setLoad (s : State) (i : LoadId) (x : Load) : (s.setLoad i x).hostReqs = s.hostReqs := rfl
@[simp] theorem hostReqs_updLoad (s : State) (i : LoadId) (g : Load → Load) : (s.updLoad i g).hostReqs = s.hostReqs := rfl
@[simp] theorem msix_setLoad (s : State) (i : LoadId) (x : Load) : (s.setLoad i x).msix = s.msix := rfl
@[simp] theorem msix_updLoad (s : State) (i : LoadId) (g : Load → Load) : (s.updLoad i g).msix = s.msix := rfl
@[simp] theorem replies_setLoad (s : State) (i : LoadId) (x : Load) : (s.setLoad i x).replies = s.replies := rfl
@[simp] theorem replies_updLoad (s : State) (i : LoadId) (g : Load → Load) : (s.updLoad i g).replies = s.replies := rfl

/-! ## GraphQueue -/

theorem queue_setQueue (s : State) (i j : QueueId) (x : GraphQueue) : (s.setQueue i x).queue j = if j = i then x else s.queue j := Map.get_set _ _ _ _ _
@[simp] theorem queue_setQueue_same (s : State) (i : QueueId) (x : GraphQueue) : (s.setQueue i x).queue i = x := Map.get_set_same _ _ _ _
theorem queue_setQueue_ne (s : State) {i j : QueueId} (x : GraphQueue) (h : j ≠ i) : (s.setQueue i x).queue j = s.queue j := Map.get_set_ne _ _ _ h
theorem queue_updQueue (s : State) (i j : QueueId) (g : GraphQueue → GraphQueue) : (s.updQueue i g).queue j = if j = i then g (s.queue i) else s.queue j := Map.get_set _ _ _ _ _
@[simp] theorem queue_updQueue_same (s : State) (i : QueueId) (g : GraphQueue → GraphQueue) : (s.updQueue i g).queue i = g (s.queue i) := Map.get_set_same _ _ _ _
theorem queue_updQueue_ne (s : State) {i j : QueueId} (g : GraphQueue → GraphQueue) (h : j ≠ i) : (s.updQueue i g).queue j = s.queue j := Map.get_set_ne _ _ _ h
@[simp] theorem strands_setQueue (s : State) (i : QueueId) (x : GraphQueue) : (s.setQueue i x).strands = s.strands := rfl
@[simp] theorem strand_setQueue (s : State) (i : QueueId) (x : GraphQueue) (j : StrandId) : (s.setQueue i x).strand j = s.strand j := rfl
@[simp] theorem strands_updQueue (s : State) (i : QueueId) (g : GraphQueue → GraphQueue) : (s.updQueue i g).strands = s.strands := rfl
@[simp] theorem strand_updQueue (s : State) (i : QueueId) (g : GraphQueue → GraphQueue) (j : StrandId) : (s.updQueue i g).strand j = s.strand j := rfl
@[simp] theorem tasks_setQueue (s : State) (i : QueueId) (x : GraphQueue) : (s.setQueue i x).tasks = s.tasks := rfl
@[simp] theorem task_setQueue (s : State) (i : QueueId) (x : GraphQueue) (j : TaskId) : (s.setQueue i x).task j = s.task j := rfl
@[simp] theorem tasks_updQueue (s : State) (i : QueueId) (g : GraphQueue → GraphQueue) : (s.updQueue i g).tasks = s.tasks := rfl
@[simp] theorem task_updQueue (s : State) (i : QueueId) (g : GraphQueue → GraphQueue) (j : TaskId) : (s.updQueue i g).task j = s.task j := rfl
@[simp] theorem tiles_setQueue (s : State) (i : QueueId) (x : GraphQueue) : (s.setQueue i x).tiles = s.tiles := rfl
@[simp] theorem tile_setQueue (s : State) (i : QueueId) (x : GraphQueue) (j : TileId) : (s.setQueue i x).tile j = s.tile j := rfl
@[simp] theorem tiles_updQueue (s : State) (i : QueueId) (g : GraphQueue → GraphQueue) : (s.updQueue i g).tiles = s.tiles := rfl
@[simp] theorem tile_updQueue (s : State) (i : QueueId) (g : GraphQueue → GraphQueue) (j : TileId) : (s.updQueue i g).tile j = s.tile j := rfl
@[simp] theorem ports_setQueue (s : State) (i : QueueId) (x : GraphQueue) : (s.setQueue i x).ports = s.ports := rfl
@[simp] theorem port_setQueue (s : State) (i : QueueId) (x : GraphQueue) (j : PortId) : (s.setQueue i x).port j = s.port j := rfl
@[simp] theorem ports_updQueue (s : State) (i : QueueId) (g : GraphQueue → GraphQueue) : (s.updQueue i g).ports = s.ports := rfl
@[simp] theorem port_updQueue (s : State) (i : QueueId) (g : GraphQueue → GraphQueue) (j : PortId) : (s.updQueue i g).port j = s.port j := rfl
@[simp] theorem chans_setQueue (s : State) (i : QueueId) (x : GraphQueue) : (s.setQueue i x).chans = s.chans := rfl
@[simp] theorem chan_setQueue (s : State) (i : QueueId) (x : GraphQueue) (j : ChanId) : (s.setQueue i x).chan j = s.chan j := rfl
@[simp] theorem chans_updQueue (s : State) (i : QueueId) (g : GraphQueue → GraphQueue) : (s.updQueue i g).chans = s.chans := rfl
@[simp] theorem chan_updQueue (s : State) (i : QueueId) (g : GraphQueue → GraphQueue) (j : ChanId) : (s.updQueue i g).chan j = s.chan j := rfl
@[simp] theorem regions_setQueue (s : State) (i : QueueId) (x : GraphQueue) : (s.setQueue i x).regions = s.regions := rfl
@[simp] theorem region_setQueue (s : State) (i : QueueId) (x : GraphQueue) (j : RegionId) : (s.setQueue i x).region j = s.region j := rfl
@[simp] theorem regions_updQueue (s : State) (i : QueueId) (g : GraphQueue → GraphQueue) : (s.updQueue i g).regions = s.regions := rfl
@[simp] theorem region_updQueue (s : State) (i : QueueId) (g : GraphQueue → GraphQueue) (j : RegionId) : (s.updQueue i g).region j = s.region j := rfl
@[simp] theorem loads_setQueue (s : State) (i : QueueId) (x : GraphQueue) : (s.setQueue i x).loads = s.loads := rfl
@[simp] theorem load_setQueue (s : State) (i : QueueId) (x : GraphQueue) (j : LoadId) : (s.setQueue i x).load j = s.load j := rfl
@[simp] theorem loads_updQueue (s : State) (i : QueueId) (g : GraphQueue → GraphQueue) : (s.updQueue i g).loads = s.loads := rfl
@[simp] theorem load_updQueue (s : State) (i : QueueId) (g : GraphQueue → GraphQueue) (j : LoadId) : (s.updQueue i g).load j = s.load j := rfl
@[simp] theorem dies_setQueue (s : State) (i : QueueId) (x : GraphQueue) : (s.setQueue i x).dies = s.dies := rfl
@[simp] theorem die_setQueue (s : State) (i : QueueId) (x : GraphQueue) (j : Nat) : (s.setQueue i x).die j = s.die j := rfl
@[simp] theorem dies_updQueue (s : State) (i : QueueId) (g : GraphQueue → GraphQueue) : (s.updQueue i g).dies = s.dies := rfl
@[simp] theorem die_updQueue (s : State) (i : QueueId) (g : GraphQueue → GraphQueue) (j : Nat) : (s.updQueue i g).die j = s.die j := rfl
@[simp] theorem pkgs_setQueue (s : State) (i : QueueId) (x : GraphQueue) : (s.setQueue i x).pkgs = s.pkgs := rfl
@[simp] theorem pkg_setQueue (s : State) (i : QueueId) (x : GraphQueue) (j : Nat) : (s.setQueue i x).pkg j = s.pkg j := rfl
@[simp] theorem pkgs_updQueue (s : State) (i : QueueId) (g : GraphQueue → GraphQueue) : (s.updQueue i g).pkgs = s.pkgs := rfl
@[simp] theorem pkg_updQueue (s : State) (i : QueueId) (g : GraphQueue → GraphQueue) (j : Nat) : (s.updQueue i g).pkg j = s.pkg j := rfl
@[simp] theorem clock_setQueue (s : State) (i : QueueId) (x : GraphQueue) : (s.setQueue i x).clock = s.clock := rfl
@[simp] theorem clock_updQueue (s : State) (i : QueueId) (g : GraphQueue → GraphQueue) : (s.updQueue i g).clock = s.clock := rfl
@[simp] theorem agenda_setQueue (s : State) (i : QueueId) (x : GraphQueue) : (s.setQueue i x).agenda = s.agenda := rfl
@[simp] theorem agenda_updQueue (s : State) (i : QueueId) (g : GraphQueue → GraphQueue) : (s.updQueue i g).agenda = s.agenda := rfl
@[simp] theorem work_setQueue (s : State) (i : QueueId) (x : GraphQueue) : (s.setQueue i x).work = s.work := rfl
@[simp] theorem work_updQueue (s : State) (i : QueueId) (g : GraphQueue → GraphQueue) : (s.updQueue i g).work = s.work := rfl
@[simp] theorem cur_setQueue (s : State) (i : QueueId) (x : GraphQueue) : (s.setQueue i x).cur = s.cur := rfl
@[simp] theorem cur_updQueue (s : State) (i : QueueId) (g : GraphQueue → GraphQueue) : (s.updQueue i g).cur = s.cur := rfl
@[simp] theorem event_setQueue (s : State) (i : QueueId) (x : GraphQueue) : (s.setQueue i x).event = s.event := rfl
@[simp] theorem event_updQueue (s : State) (i : QueueId) (g : GraphQueue → GraphQueue) : (s.updQueue i g).event = s.event := rfl
@[simp] theorem drawn_setQueue (s : State) (i : QueueId) (x : GraphQueue) : (s.setQueue i x).drawn = s.drawn := rfl
@[simp] theorem drawn_updQueue (s : State) (i : QueueId) (g : GraphQueue → GraphQueue) : (s.updQueue i g).drawn = s.drawn := rfl
@[simp] theorem mem_setQueue (s : State) (i : QueueId) (x : GraphQueue) : (s.setQueue i x).mem = s.mem := rfl
@[simp] theorem mem_updQueue (s : State) (i : QueueId) (g : GraphQueue → GraphQueue) : (s.updQueue i g).mem = s.mem := rfl
@[simp] theorem full_setQueue (s : State) (i : QueueId) (x : GraphQueue) : (s.setQueue i x).full = s.full := rfl
@[simp] theorem full_updQueue (s : State) (i : QueueId) (g : GraphQueue → GraphQueue) : (s.updQueue i g).full = s.full := rfl
@[simp] theorem keytag_setQueue (s : State) (i : QueueId) (x : GraphQueue) : (s.setQueue i x).keytag = s.keytag := rfl
@[simp] theorem keytag_updQueue (s : State) (i : QueueId) (g : GraphQueue → GraphQueue) : (s.updQueue i g).keytag = s.keytag := rfl
@[simp] theorem damaged_setQueue (s : State) (i : QueueId) (x : GraphQueue) : (s.setQueue i x).damaged = s.damaged := rfl
@[simp] theorem damaged_updQueue (s : State) (i : QueueId) (g : GraphQueue → GraphQueue) : (s.updQueue i g).damaged = s.damaged := rfl
@[simp] theorem net_setQueue (s : State) (i : QueueId) (x : GraphQueue) : (s.setQueue i x).net = s.net := rfl
@[simp] theorem net_updQueue (s : State) (i : QueueId) (g : GraphQueue → GraphQueue) : (s.updQueue i g).net = s.net := rfl
@[simp] theorem nextAccess_setQueue (s : State) (i : QueueId) (x : GraphQueue) : (s.setQueue i x).nextAccess = s.nextAccess := rfl
@[simp] theorem nextAccess_updQueue (s : State) (i : QueueId) (g : GraphQueue → GraphQueue) : (s.updQueue i g).nextAccess = s.nextAccess := rfl
@[simp] theorem raises_setQueue (s : State) (i : QueueId) (x : GraphQueue) : (s.setQueue i x).raises = s.raises := rfl
@[simp] theorem raises_updQueue (s : State) (i : QueueId) (g : GraphQueue → GraphQueue) : (s.updQueue i g).raises = s.raises := rfl
@[simp] theorem present_setQueue (s : State) (i : QueueId) (x : GraphQueue) : (s.setQueue i x).present = s.present := rfl
@[simp] theorem present_updQueue (s : State) (i : QueueId) (g : GraphQueue → GraphQueue) : (s.updQueue i g).present = s.present := rfl
@[simp] theorem rehash_setQueue (s : State) (i : QueueId) (x : GraphQueue) : (s.setQueue i x).rehash = s.rehash := rfl
@[simp] theorem rehash_updQueue (s : State) (i : QueueId) (g : GraphQueue → GraphQueue) : (s.updQueue i g).rehash = s.rehash := rfl
@[simp] theorem planeIdle_setQueue (s : State) (i : QueueId) (x : GraphQueue) : (s.setQueue i x).planeIdle = s.planeIdle := rfl
@[simp] theorem planeIdle_updQueue (s : State) (i : QueueId) (g : GraphQueue → GraphQueue) : (s.updQueue i g).planeIdle = s.planeIdle := rfl
@[simp] theorem ring_setQueue (s : State) (i : QueueId) (x : GraphQueue) : (s.setQueue i x).ring = s.ring := rfl
@[simp] theorem ring_updQueue (s : State) (i : QueueId) (g : GraphQueue → GraphQueue) : (s.updQueue i g).ring = s.ring := rfl
@[simp] theorem saved_setQueue (s : State) (i : QueueId) (x : GraphQueue) : (s.setQueue i x).saved = s.saved := rfl
@[simp] theorem saved_updQueue (s : State) (i : QueueId) (g : GraphQueue → GraphQueue) : (s.updQueue i g).saved = s.saved := rfl
@[simp] theorem contexts_setQueue (s : State) (i : QueueId) (x : GraphQueue) : (s.setQueue i x).contexts = s.contexts := rfl
@[simp] theorem contexts_updQueue (s : State) (i : QueueId) (g : GraphQueue → GraphQueue) : (s.updQueue i g).contexts = s.contexts := rfl
@[simp] theorem hostMem_setQueue (s : State) (i : QueueId) (x : GraphQueue) : (s.setQueue i x).hostMem = s.hostMem := rfl
@[simp] theorem hostMem_updQueue (s : State) (i : QueueId) (g : GraphQueue → GraphQueue) : (s.updQueue i g).hostMem = s.hostMem := rfl
@[simp] theorem hostReqs_setQueue (s : State) (i : QueueId) (x : GraphQueue) : (s.setQueue i x).hostReqs = s.hostReqs := rfl
@[simp] theorem hostReqs_updQueue (s : State) (i : QueueId) (g : GraphQueue → GraphQueue) : (s.updQueue i g).hostReqs = s.hostReqs := rfl
@[simp] theorem msix_setQueue (s : State) (i : QueueId) (x : GraphQueue) : (s.setQueue i x).msix = s.msix := rfl
@[simp] theorem msix_updQueue (s : State) (i : QueueId) (g : GraphQueue → GraphQueue) : (s.updQueue i g).msix = s.msix := rfl
@[simp] theorem replies_setQueue (s : State) (i : QueueId) (x : GraphQueue) : (s.setQueue i x).replies = s.replies := rfl
@[simp] theorem replies_updQueue (s : State) (i : QueueId) (g : GraphQueue → GraphQueue) : (s.updQueue i g).replies = s.replies := rfl

/-! ## Die -/

theorem die_setDie (s : State) (i j : Nat) (x : Die) : (s.setDie i x).die j = if j = i then x else s.die j := Map.get_set _ _ _ _ _
@[simp] theorem die_setDie_same (s : State) (i : Nat) (x : Die) : (s.setDie i x).die i = x := Map.get_set_same _ _ _ _
theorem die_setDie_ne (s : State) {i j : Nat} (x : Die) (h : j ≠ i) : (s.setDie i x).die j = s.die j := Map.get_set_ne _ _ _ h
theorem die_updDie (s : State) (i j : Nat) (g : Die → Die) : (s.updDie i g).die j = if j = i then g (s.die i) else s.die j := Map.get_set _ _ _ _ _
@[simp] theorem die_updDie_same (s : State) (i : Nat) (g : Die → Die) : (s.updDie i g).die i = g (s.die i) := Map.get_set_same _ _ _ _
theorem die_updDie_ne (s : State) {i j : Nat} (g : Die → Die) (h : j ≠ i) : (s.updDie i g).die j = s.die j := Map.get_set_ne _ _ _ h
@[simp] theorem strands_setDie (s : State) (i : Nat) (x : Die) : (s.setDie i x).strands = s.strands := rfl
@[simp] theorem strand_setDie (s : State) (i : Nat) (x : Die) (j : StrandId) : (s.setDie i x).strand j = s.strand j := rfl
@[simp] theorem strands_updDie (s : State) (i : Nat) (g : Die → Die) : (s.updDie i g).strands = s.strands := rfl
@[simp] theorem strand_updDie (s : State) (i : Nat) (g : Die → Die) (j : StrandId) : (s.updDie i g).strand j = s.strand j := rfl
@[simp] theorem tasks_setDie (s : State) (i : Nat) (x : Die) : (s.setDie i x).tasks = s.tasks := rfl
@[simp] theorem task_setDie (s : State) (i : Nat) (x : Die) (j : TaskId) : (s.setDie i x).task j = s.task j := rfl
@[simp] theorem tasks_updDie (s : State) (i : Nat) (g : Die → Die) : (s.updDie i g).tasks = s.tasks := rfl
@[simp] theorem task_updDie (s : State) (i : Nat) (g : Die → Die) (j : TaskId) : (s.updDie i g).task j = s.task j := rfl
@[simp] theorem tiles_setDie (s : State) (i : Nat) (x : Die) : (s.setDie i x).tiles = s.tiles := rfl
@[simp] theorem tile_setDie (s : State) (i : Nat) (x : Die) (j : TileId) : (s.setDie i x).tile j = s.tile j := rfl
@[simp] theorem tiles_updDie (s : State) (i : Nat) (g : Die → Die) : (s.updDie i g).tiles = s.tiles := rfl
@[simp] theorem tile_updDie (s : State) (i : Nat) (g : Die → Die) (j : TileId) : (s.updDie i g).tile j = s.tile j := rfl
@[simp] theorem ports_setDie (s : State) (i : Nat) (x : Die) : (s.setDie i x).ports = s.ports := rfl
@[simp] theorem port_setDie (s : State) (i : Nat) (x : Die) (j : PortId) : (s.setDie i x).port j = s.port j := rfl
@[simp] theorem ports_updDie (s : State) (i : Nat) (g : Die → Die) : (s.updDie i g).ports = s.ports := rfl
@[simp] theorem port_updDie (s : State) (i : Nat) (g : Die → Die) (j : PortId) : (s.updDie i g).port j = s.port j := rfl
@[simp] theorem chans_setDie (s : State) (i : Nat) (x : Die) : (s.setDie i x).chans = s.chans := rfl
@[simp] theorem chan_setDie (s : State) (i : Nat) (x : Die) (j : ChanId) : (s.setDie i x).chan j = s.chan j := rfl
@[simp] theorem chans_updDie (s : State) (i : Nat) (g : Die → Die) : (s.updDie i g).chans = s.chans := rfl
@[simp] theorem chan_updDie (s : State) (i : Nat) (g : Die → Die) (j : ChanId) : (s.updDie i g).chan j = s.chan j := rfl
@[simp] theorem regions_setDie (s : State) (i : Nat) (x : Die) : (s.setDie i x).regions = s.regions := rfl
@[simp] theorem region_setDie (s : State) (i : Nat) (x : Die) (j : RegionId) : (s.setDie i x).region j = s.region j := rfl
@[simp] theorem regions_updDie (s : State) (i : Nat) (g : Die → Die) : (s.updDie i g).regions = s.regions := rfl
@[simp] theorem region_updDie (s : State) (i : Nat) (g : Die → Die) (j : RegionId) : (s.updDie i g).region j = s.region j := rfl
@[simp] theorem loads_setDie (s : State) (i : Nat) (x : Die) : (s.setDie i x).loads = s.loads := rfl
@[simp] theorem load_setDie (s : State) (i : Nat) (x : Die) (j : LoadId) : (s.setDie i x).load j = s.load j := rfl
@[simp] theorem loads_updDie (s : State) (i : Nat) (g : Die → Die) : (s.updDie i g).loads = s.loads := rfl
@[simp] theorem load_updDie (s : State) (i : Nat) (g : Die → Die) (j : LoadId) : (s.updDie i g).load j = s.load j := rfl
@[simp] theorem queues_setDie (s : State) (i : Nat) (x : Die) : (s.setDie i x).queues = s.queues := rfl
@[simp] theorem queue_setDie (s : State) (i : Nat) (x : Die) (j : QueueId) : (s.setDie i x).queue j = s.queue j := rfl
@[simp] theorem queues_updDie (s : State) (i : Nat) (g : Die → Die) : (s.updDie i g).queues = s.queues := rfl
@[simp] theorem queue_updDie (s : State) (i : Nat) (g : Die → Die) (j : QueueId) : (s.updDie i g).queue j = s.queue j := rfl
@[simp] theorem pkgs_setDie (s : State) (i : Nat) (x : Die) : (s.setDie i x).pkgs = s.pkgs := rfl
@[simp] theorem pkg_setDie (s : State) (i : Nat) (x : Die) (j : Nat) : (s.setDie i x).pkg j = s.pkg j := rfl
@[simp] theorem pkgs_updDie (s : State) (i : Nat) (g : Die → Die) : (s.updDie i g).pkgs = s.pkgs := rfl
@[simp] theorem pkg_updDie (s : State) (i : Nat) (g : Die → Die) (j : Nat) : (s.updDie i g).pkg j = s.pkg j := rfl
@[simp] theorem clock_setDie (s : State) (i : Nat) (x : Die) : (s.setDie i x).clock = s.clock := rfl
@[simp] theorem clock_updDie (s : State) (i : Nat) (g : Die → Die) : (s.updDie i g).clock = s.clock := rfl
@[simp] theorem agenda_setDie (s : State) (i : Nat) (x : Die) : (s.setDie i x).agenda = s.agenda := rfl
@[simp] theorem agenda_updDie (s : State) (i : Nat) (g : Die → Die) : (s.updDie i g).agenda = s.agenda := rfl
@[simp] theorem work_setDie (s : State) (i : Nat) (x : Die) : (s.setDie i x).work = s.work := rfl
@[simp] theorem work_updDie (s : State) (i : Nat) (g : Die → Die) : (s.updDie i g).work = s.work := rfl
@[simp] theorem cur_setDie (s : State) (i : Nat) (x : Die) : (s.setDie i x).cur = s.cur := rfl
@[simp] theorem cur_updDie (s : State) (i : Nat) (g : Die → Die) : (s.updDie i g).cur = s.cur := rfl
@[simp] theorem event_setDie (s : State) (i : Nat) (x : Die) : (s.setDie i x).event = s.event := rfl
@[simp] theorem event_updDie (s : State) (i : Nat) (g : Die → Die) : (s.updDie i g).event = s.event := rfl
@[simp] theorem drawn_setDie (s : State) (i : Nat) (x : Die) : (s.setDie i x).drawn = s.drawn := rfl
@[simp] theorem drawn_updDie (s : State) (i : Nat) (g : Die → Die) : (s.updDie i g).drawn = s.drawn := rfl
@[simp] theorem mem_setDie (s : State) (i : Nat) (x : Die) : (s.setDie i x).mem = s.mem := rfl
@[simp] theorem mem_updDie (s : State) (i : Nat) (g : Die → Die) : (s.updDie i g).mem = s.mem := rfl
@[simp] theorem full_setDie (s : State) (i : Nat) (x : Die) : (s.setDie i x).full = s.full := rfl
@[simp] theorem full_updDie (s : State) (i : Nat) (g : Die → Die) : (s.updDie i g).full = s.full := rfl
@[simp] theorem keytag_setDie (s : State) (i : Nat) (x : Die) : (s.setDie i x).keytag = s.keytag := rfl
@[simp] theorem keytag_updDie (s : State) (i : Nat) (g : Die → Die) : (s.updDie i g).keytag = s.keytag := rfl
@[simp] theorem damaged_setDie (s : State) (i : Nat) (x : Die) : (s.setDie i x).damaged = s.damaged := rfl
@[simp] theorem damaged_updDie (s : State) (i : Nat) (g : Die → Die) : (s.updDie i g).damaged = s.damaged := rfl
@[simp] theorem net_setDie (s : State) (i : Nat) (x : Die) : (s.setDie i x).net = s.net := rfl
@[simp] theorem net_updDie (s : State) (i : Nat) (g : Die → Die) : (s.updDie i g).net = s.net := rfl
@[simp] theorem nextAccess_setDie (s : State) (i : Nat) (x : Die) : (s.setDie i x).nextAccess = s.nextAccess := rfl
@[simp] theorem nextAccess_updDie (s : State) (i : Nat) (g : Die → Die) : (s.updDie i g).nextAccess = s.nextAccess := rfl
@[simp] theorem raises_setDie (s : State) (i : Nat) (x : Die) : (s.setDie i x).raises = s.raises := rfl
@[simp] theorem raises_updDie (s : State) (i : Nat) (g : Die → Die) : (s.updDie i g).raises = s.raises := rfl
@[simp] theorem present_setDie (s : State) (i : Nat) (x : Die) : (s.setDie i x).present = s.present := rfl
@[simp] theorem present_updDie (s : State) (i : Nat) (g : Die → Die) : (s.updDie i g).present = s.present := rfl
@[simp] theorem rehash_setDie (s : State) (i : Nat) (x : Die) : (s.setDie i x).rehash = s.rehash := rfl
@[simp] theorem rehash_updDie (s : State) (i : Nat) (g : Die → Die) : (s.updDie i g).rehash = s.rehash := rfl
@[simp] theorem planeIdle_setDie (s : State) (i : Nat) (x : Die) : (s.setDie i x).planeIdle = s.planeIdle := rfl
@[simp] theorem planeIdle_updDie (s : State) (i : Nat) (g : Die → Die) : (s.updDie i g).planeIdle = s.planeIdle := rfl
@[simp] theorem ring_setDie (s : State) (i : Nat) (x : Die) : (s.setDie i x).ring = s.ring := rfl
@[simp] theorem ring_updDie (s : State) (i : Nat) (g : Die → Die) : (s.updDie i g).ring = s.ring := rfl
@[simp] theorem saved_setDie (s : State) (i : Nat) (x : Die) : (s.setDie i x).saved = s.saved := rfl
@[simp] theorem saved_updDie (s : State) (i : Nat) (g : Die → Die) : (s.updDie i g).saved = s.saved := rfl
@[simp] theorem contexts_setDie (s : State) (i : Nat) (x : Die) : (s.setDie i x).contexts = s.contexts := rfl
@[simp] theorem contexts_updDie (s : State) (i : Nat) (g : Die → Die) : (s.updDie i g).contexts = s.contexts := rfl
@[simp] theorem hostMem_setDie (s : State) (i : Nat) (x : Die) : (s.setDie i x).hostMem = s.hostMem := rfl
@[simp] theorem hostMem_updDie (s : State) (i : Nat) (g : Die → Die) : (s.updDie i g).hostMem = s.hostMem := rfl
@[simp] theorem hostReqs_setDie (s : State) (i : Nat) (x : Die) : (s.setDie i x).hostReqs = s.hostReqs := rfl
@[simp] theorem hostReqs_updDie (s : State) (i : Nat) (g : Die → Die) : (s.updDie i g).hostReqs = s.hostReqs := rfl
@[simp] theorem msix_setDie (s : State) (i : Nat) (x : Die) : (s.setDie i x).msix = s.msix := rfl
@[simp] theorem msix_updDie (s : State) (i : Nat) (g : Die → Die) : (s.updDie i g).msix = s.msix := rfl
@[simp] theorem replies_setDie (s : State) (i : Nat) (x : Die) : (s.setDie i x).replies = s.replies := rfl
@[simp] theorem replies_updDie (s : State) (i : Nat) (g : Die → Die) : (s.updDie i g).replies = s.replies := rfl

/-! ## Package -/

theorem pkg_setPkg (s : State) (i j : Nat) (x : Package) : (s.setPkg i x).pkg j = if j = i then x else s.pkg j := Map.get_set _ _ _ _ _
@[simp] theorem pkg_setPkg_same (s : State) (i : Nat) (x : Package) : (s.setPkg i x).pkg i = x := Map.get_set_same _ _ _ _
theorem pkg_setPkg_ne (s : State) {i j : Nat} (x : Package) (h : j ≠ i) : (s.setPkg i x).pkg j = s.pkg j := Map.get_set_ne _ _ _ h
theorem pkg_updPkg (s : State) (i j : Nat) (g : Package → Package) : (s.updPkg i g).pkg j = if j = i then g (s.pkg i) else s.pkg j := Map.get_set _ _ _ _ _
@[simp] theorem pkg_updPkg_same (s : State) (i : Nat) (g : Package → Package) : (s.updPkg i g).pkg i = g (s.pkg i) := Map.get_set_same _ _ _ _
theorem pkg_updPkg_ne (s : State) {i j : Nat} (g : Package → Package) (h : j ≠ i) : (s.updPkg i g).pkg j = s.pkg j := Map.get_set_ne _ _ _ h
@[simp] theorem strands_setPkg (s : State) (i : Nat) (x : Package) : (s.setPkg i x).strands = s.strands := rfl
@[simp] theorem strand_setPkg (s : State) (i : Nat) (x : Package) (j : StrandId) : (s.setPkg i x).strand j = s.strand j := rfl
@[simp] theorem strands_updPkg (s : State) (i : Nat) (g : Package → Package) : (s.updPkg i g).strands = s.strands := rfl
@[simp] theorem strand_updPkg (s : State) (i : Nat) (g : Package → Package) (j : StrandId) : (s.updPkg i g).strand j = s.strand j := rfl
@[simp] theorem tasks_setPkg (s : State) (i : Nat) (x : Package) : (s.setPkg i x).tasks = s.tasks := rfl
@[simp] theorem task_setPkg (s : State) (i : Nat) (x : Package) (j : TaskId) : (s.setPkg i x).task j = s.task j := rfl
@[simp] theorem tasks_updPkg (s : State) (i : Nat) (g : Package → Package) : (s.updPkg i g).tasks = s.tasks := rfl
@[simp] theorem task_updPkg (s : State) (i : Nat) (g : Package → Package) (j : TaskId) : (s.updPkg i g).task j = s.task j := rfl
@[simp] theorem tiles_setPkg (s : State) (i : Nat) (x : Package) : (s.setPkg i x).tiles = s.tiles := rfl
@[simp] theorem tile_setPkg (s : State) (i : Nat) (x : Package) (j : TileId) : (s.setPkg i x).tile j = s.tile j := rfl
@[simp] theorem tiles_updPkg (s : State) (i : Nat) (g : Package → Package) : (s.updPkg i g).tiles = s.tiles := rfl
@[simp] theorem tile_updPkg (s : State) (i : Nat) (g : Package → Package) (j : TileId) : (s.updPkg i g).tile j = s.tile j := rfl
@[simp] theorem ports_setPkg (s : State) (i : Nat) (x : Package) : (s.setPkg i x).ports = s.ports := rfl
@[simp] theorem port_setPkg (s : State) (i : Nat) (x : Package) (j : PortId) : (s.setPkg i x).port j = s.port j := rfl
@[simp] theorem ports_updPkg (s : State) (i : Nat) (g : Package → Package) : (s.updPkg i g).ports = s.ports := rfl
@[simp] theorem port_updPkg (s : State) (i : Nat) (g : Package → Package) (j : PortId) : (s.updPkg i g).port j = s.port j := rfl
@[simp] theorem chans_setPkg (s : State) (i : Nat) (x : Package) : (s.setPkg i x).chans = s.chans := rfl
@[simp] theorem chan_setPkg (s : State) (i : Nat) (x : Package) (j : ChanId) : (s.setPkg i x).chan j = s.chan j := rfl
@[simp] theorem chans_updPkg (s : State) (i : Nat) (g : Package → Package) : (s.updPkg i g).chans = s.chans := rfl
@[simp] theorem chan_updPkg (s : State) (i : Nat) (g : Package → Package) (j : ChanId) : (s.updPkg i g).chan j = s.chan j := rfl
@[simp] theorem regions_setPkg (s : State) (i : Nat) (x : Package) : (s.setPkg i x).regions = s.regions := rfl
@[simp] theorem region_setPkg (s : State) (i : Nat) (x : Package) (j : RegionId) : (s.setPkg i x).region j = s.region j := rfl
@[simp] theorem regions_updPkg (s : State) (i : Nat) (g : Package → Package) : (s.updPkg i g).regions = s.regions := rfl
@[simp] theorem region_updPkg (s : State) (i : Nat) (g : Package → Package) (j : RegionId) : (s.updPkg i g).region j = s.region j := rfl
@[simp] theorem loads_setPkg (s : State) (i : Nat) (x : Package) : (s.setPkg i x).loads = s.loads := rfl
@[simp] theorem load_setPkg (s : State) (i : Nat) (x : Package) (j : LoadId) : (s.setPkg i x).load j = s.load j := rfl
@[simp] theorem loads_updPkg (s : State) (i : Nat) (g : Package → Package) : (s.updPkg i g).loads = s.loads := rfl
@[simp] theorem load_updPkg (s : State) (i : Nat) (g : Package → Package) (j : LoadId) : (s.updPkg i g).load j = s.load j := rfl
@[simp] theorem queues_setPkg (s : State) (i : Nat) (x : Package) : (s.setPkg i x).queues = s.queues := rfl
@[simp] theorem queue_setPkg (s : State) (i : Nat) (x : Package) (j : QueueId) : (s.setPkg i x).queue j = s.queue j := rfl
@[simp] theorem queues_updPkg (s : State) (i : Nat) (g : Package → Package) : (s.updPkg i g).queues = s.queues := rfl
@[simp] theorem queue_updPkg (s : State) (i : Nat) (g : Package → Package) (j : QueueId) : (s.updPkg i g).queue j = s.queue j := rfl
@[simp] theorem dies_setPkg (s : State) (i : Nat) (x : Package) : (s.setPkg i x).dies = s.dies := rfl
@[simp] theorem die_setPkg (s : State) (i : Nat) (x : Package) (j : Nat) : (s.setPkg i x).die j = s.die j := rfl
@[simp] theorem dies_updPkg (s : State) (i : Nat) (g : Package → Package) : (s.updPkg i g).dies = s.dies := rfl
@[simp] theorem die_updPkg (s : State) (i : Nat) (g : Package → Package) (j : Nat) : (s.updPkg i g).die j = s.die j := rfl
@[simp] theorem clock_setPkg (s : State) (i : Nat) (x : Package) : (s.setPkg i x).clock = s.clock := rfl
@[simp] theorem clock_updPkg (s : State) (i : Nat) (g : Package → Package) : (s.updPkg i g).clock = s.clock := rfl
@[simp] theorem agenda_setPkg (s : State) (i : Nat) (x : Package) : (s.setPkg i x).agenda = s.agenda := rfl
@[simp] theorem agenda_updPkg (s : State) (i : Nat) (g : Package → Package) : (s.updPkg i g).agenda = s.agenda := rfl
@[simp] theorem work_setPkg (s : State) (i : Nat) (x : Package) : (s.setPkg i x).work = s.work := rfl
@[simp] theorem work_updPkg (s : State) (i : Nat) (g : Package → Package) : (s.updPkg i g).work = s.work := rfl
@[simp] theorem cur_setPkg (s : State) (i : Nat) (x : Package) : (s.setPkg i x).cur = s.cur := rfl
@[simp] theorem cur_updPkg (s : State) (i : Nat) (g : Package → Package) : (s.updPkg i g).cur = s.cur := rfl
@[simp] theorem event_setPkg (s : State) (i : Nat) (x : Package) : (s.setPkg i x).event = s.event := rfl
@[simp] theorem event_updPkg (s : State) (i : Nat) (g : Package → Package) : (s.updPkg i g).event = s.event := rfl
@[simp] theorem drawn_setPkg (s : State) (i : Nat) (x : Package) : (s.setPkg i x).drawn = s.drawn := rfl
@[simp] theorem drawn_updPkg (s : State) (i : Nat) (g : Package → Package) : (s.updPkg i g).drawn = s.drawn := rfl
@[simp] theorem mem_setPkg (s : State) (i : Nat) (x : Package) : (s.setPkg i x).mem = s.mem := rfl
@[simp] theorem mem_updPkg (s : State) (i : Nat) (g : Package → Package) : (s.updPkg i g).mem = s.mem := rfl
@[simp] theorem full_setPkg (s : State) (i : Nat) (x : Package) : (s.setPkg i x).full = s.full := rfl
@[simp] theorem full_updPkg (s : State) (i : Nat) (g : Package → Package) : (s.updPkg i g).full = s.full := rfl
@[simp] theorem keytag_setPkg (s : State) (i : Nat) (x : Package) : (s.setPkg i x).keytag = s.keytag := rfl
@[simp] theorem keytag_updPkg (s : State) (i : Nat) (g : Package → Package) : (s.updPkg i g).keytag = s.keytag := rfl
@[simp] theorem damaged_setPkg (s : State) (i : Nat) (x : Package) : (s.setPkg i x).damaged = s.damaged := rfl
@[simp] theorem damaged_updPkg (s : State) (i : Nat) (g : Package → Package) : (s.updPkg i g).damaged = s.damaged := rfl
@[simp] theorem net_setPkg (s : State) (i : Nat) (x : Package) : (s.setPkg i x).net = s.net := rfl
@[simp] theorem net_updPkg (s : State) (i : Nat) (g : Package → Package) : (s.updPkg i g).net = s.net := rfl
@[simp] theorem nextAccess_setPkg (s : State) (i : Nat) (x : Package) : (s.setPkg i x).nextAccess = s.nextAccess := rfl
@[simp] theorem nextAccess_updPkg (s : State) (i : Nat) (g : Package → Package) : (s.updPkg i g).nextAccess = s.nextAccess := rfl
@[simp] theorem raises_setPkg (s : State) (i : Nat) (x : Package) : (s.setPkg i x).raises = s.raises := rfl
@[simp] theorem raises_updPkg (s : State) (i : Nat) (g : Package → Package) : (s.updPkg i g).raises = s.raises := rfl
@[simp] theorem present_setPkg (s : State) (i : Nat) (x : Package) : (s.setPkg i x).present = s.present := rfl
@[simp] theorem present_updPkg (s : State) (i : Nat) (g : Package → Package) : (s.updPkg i g).present = s.present := rfl
@[simp] theorem rehash_setPkg (s : State) (i : Nat) (x : Package) : (s.setPkg i x).rehash = s.rehash := rfl
@[simp] theorem rehash_updPkg (s : State) (i : Nat) (g : Package → Package) : (s.updPkg i g).rehash = s.rehash := rfl
@[simp] theorem planeIdle_setPkg (s : State) (i : Nat) (x : Package) : (s.setPkg i x).planeIdle = s.planeIdle := rfl
@[simp] theorem planeIdle_updPkg (s : State) (i : Nat) (g : Package → Package) : (s.updPkg i g).planeIdle = s.planeIdle := rfl
@[simp] theorem ring_setPkg (s : State) (i : Nat) (x : Package) : (s.setPkg i x).ring = s.ring := rfl
@[simp] theorem ring_updPkg (s : State) (i : Nat) (g : Package → Package) : (s.updPkg i g).ring = s.ring := rfl
@[simp] theorem saved_setPkg (s : State) (i : Nat) (x : Package) : (s.setPkg i x).saved = s.saved := rfl
@[simp] theorem saved_updPkg (s : State) (i : Nat) (g : Package → Package) : (s.updPkg i g).saved = s.saved := rfl
@[simp] theorem contexts_setPkg (s : State) (i : Nat) (x : Package) : (s.setPkg i x).contexts = s.contexts := rfl
@[simp] theorem contexts_updPkg (s : State) (i : Nat) (g : Package → Package) : (s.updPkg i g).contexts = s.contexts := rfl
@[simp] theorem hostMem_setPkg (s : State) (i : Nat) (x : Package) : (s.setPkg i x).hostMem = s.hostMem := rfl
@[simp] theorem hostMem_updPkg (s : State) (i : Nat) (g : Package → Package) : (s.updPkg i g).hostMem = s.hostMem := rfl
@[simp] theorem hostReqs_setPkg (s : State) (i : Nat) (x : Package) : (s.setPkg i x).hostReqs = s.hostReqs := rfl
@[simp] theorem hostReqs_updPkg (s : State) (i : Nat) (g : Package → Package) : (s.updPkg i g).hostReqs = s.hostReqs := rfl
@[simp] theorem msix_setPkg (s : State) (i : Nat) (x : Package) : (s.setPkg i x).msix = s.msix := rfl
@[simp] theorem msix_updPkg (s : State) (i : Nat) (g : Package → Package) : (s.updPkg i g).msix = s.msix := rfl
@[simp] theorem replies_setPkg (s : State) (i : Nat) (x : Package) : (s.setPkg i x).replies = s.replies := rfl
@[simp] theorem replies_updPkg (s : State) (i : Nat) (g : Package → Package) : (s.updPkg i g).replies = s.replies := rfl

/-! ## The cursor and memory -/

@[simp] theorem strands_updCur (s : State) (g : Cursor → Cursor) : (s.updCur g).strands = s.strands := rfl
@[simp] theorem strand_updCur (s : State) (g : Cursor → Cursor) (j : StrandId) : (s.updCur g).strand j = s.strand j := rfl
@[simp] theorem strands_setMem (s : State) (m : List Host.Cell) : (s.setMem m).strands = s.strands := rfl
@[simp] theorem strand_setMem (s : State) (m : List Host.Cell) (j : StrandId) : (s.setMem m).strand j = s.strand j := rfl
@[simp] theorem tasks_updCur (s : State) (g : Cursor → Cursor) : (s.updCur g).tasks = s.tasks := rfl
@[simp] theorem task_updCur (s : State) (g : Cursor → Cursor) (j : TaskId) : (s.updCur g).task j = s.task j := rfl
@[simp] theorem tasks_setMem (s : State) (m : List Host.Cell) : (s.setMem m).tasks = s.tasks := rfl
@[simp] theorem task_setMem (s : State) (m : List Host.Cell) (j : TaskId) : (s.setMem m).task j = s.task j := rfl
@[simp] theorem tiles_updCur (s : State) (g : Cursor → Cursor) : (s.updCur g).tiles = s.tiles := rfl
@[simp] theorem tile_updCur (s : State) (g : Cursor → Cursor) (j : TileId) : (s.updCur g).tile j = s.tile j := rfl
@[simp] theorem tiles_setMem (s : State) (m : List Host.Cell) : (s.setMem m).tiles = s.tiles := rfl
@[simp] theorem tile_setMem (s : State) (m : List Host.Cell) (j : TileId) : (s.setMem m).tile j = s.tile j := rfl
@[simp] theorem ports_updCur (s : State) (g : Cursor → Cursor) : (s.updCur g).ports = s.ports := rfl
@[simp] theorem port_updCur (s : State) (g : Cursor → Cursor) (j : PortId) : (s.updCur g).port j = s.port j := rfl
@[simp] theorem ports_setMem (s : State) (m : List Host.Cell) : (s.setMem m).ports = s.ports := rfl
@[simp] theorem port_setMem (s : State) (m : List Host.Cell) (j : PortId) : (s.setMem m).port j = s.port j := rfl
@[simp] theorem chans_updCur (s : State) (g : Cursor → Cursor) : (s.updCur g).chans = s.chans := rfl
@[simp] theorem chan_updCur (s : State) (g : Cursor → Cursor) (j : ChanId) : (s.updCur g).chan j = s.chan j := rfl
@[simp] theorem chans_setMem (s : State) (m : List Host.Cell) : (s.setMem m).chans = s.chans := rfl
@[simp] theorem chan_setMem (s : State) (m : List Host.Cell) (j : ChanId) : (s.setMem m).chan j = s.chan j := rfl
@[simp] theorem regions_updCur (s : State) (g : Cursor → Cursor) : (s.updCur g).regions = s.regions := rfl
@[simp] theorem region_updCur (s : State) (g : Cursor → Cursor) (j : RegionId) : (s.updCur g).region j = s.region j := rfl
@[simp] theorem regions_setMem (s : State) (m : List Host.Cell) : (s.setMem m).regions = s.regions := rfl
@[simp] theorem region_setMem (s : State) (m : List Host.Cell) (j : RegionId) : (s.setMem m).region j = s.region j := rfl
@[simp] theorem loads_updCur (s : State) (g : Cursor → Cursor) : (s.updCur g).loads = s.loads := rfl
@[simp] theorem load_updCur (s : State) (g : Cursor → Cursor) (j : LoadId) : (s.updCur g).load j = s.load j := rfl
@[simp] theorem loads_setMem (s : State) (m : List Host.Cell) : (s.setMem m).loads = s.loads := rfl
@[simp] theorem load_setMem (s : State) (m : List Host.Cell) (j : LoadId) : (s.setMem m).load j = s.load j := rfl
@[simp] theorem queues_updCur (s : State) (g : Cursor → Cursor) : (s.updCur g).queues = s.queues := rfl
@[simp] theorem queue_updCur (s : State) (g : Cursor → Cursor) (j : QueueId) : (s.updCur g).queue j = s.queue j := rfl
@[simp] theorem queues_setMem (s : State) (m : List Host.Cell) : (s.setMem m).queues = s.queues := rfl
@[simp] theorem queue_setMem (s : State) (m : List Host.Cell) (j : QueueId) : (s.setMem m).queue j = s.queue j := rfl
@[simp] theorem dies_updCur (s : State) (g : Cursor → Cursor) : (s.updCur g).dies = s.dies := rfl
@[simp] theorem die_updCur (s : State) (g : Cursor → Cursor) (j : Nat) : (s.updCur g).die j = s.die j := rfl
@[simp] theorem dies_setMem (s : State) (m : List Host.Cell) : (s.setMem m).dies = s.dies := rfl
@[simp] theorem die_setMem (s : State) (m : List Host.Cell) (j : Nat) : (s.setMem m).die j = s.die j := rfl
@[simp] theorem pkgs_updCur (s : State) (g : Cursor → Cursor) : (s.updCur g).pkgs = s.pkgs := rfl
@[simp] theorem pkg_updCur (s : State) (g : Cursor → Cursor) (j : Nat) : (s.updCur g).pkg j = s.pkg j := rfl
@[simp] theorem pkgs_setMem (s : State) (m : List Host.Cell) : (s.setMem m).pkgs = s.pkgs := rfl
@[simp] theorem pkg_setMem (s : State) (m : List Host.Cell) (j : Nat) : (s.setMem m).pkg j = s.pkg j := rfl
@[simp] theorem clock_updCur (s : State) (g : Cursor → Cursor) : (s.updCur g).clock = s.clock := rfl
@[simp] theorem clock_setMem (s : State) (m : List Host.Cell) : (s.setMem m).clock = s.clock := rfl
@[simp] theorem agenda_updCur (s : State) (g : Cursor → Cursor) : (s.updCur g).agenda = s.agenda := rfl
@[simp] theorem agenda_setMem (s : State) (m : List Host.Cell) : (s.setMem m).agenda = s.agenda := rfl
@[simp] theorem work_updCur (s : State) (g : Cursor → Cursor) : (s.updCur g).work = s.work := rfl
@[simp] theorem work_setMem (s : State) (m : List Host.Cell) : (s.setMem m).work = s.work := rfl
@[simp] theorem cur_updCur (s : State) (g : Cursor → Cursor) : (s.updCur g).cur = g s.cur := rfl
@[simp] theorem cur_setMem (s : State) (m : List Host.Cell) : (s.setMem m).cur = s.cur := rfl
@[simp] theorem event_updCur (s : State) (g : Cursor → Cursor) : (s.updCur g).event = s.event := rfl
@[simp] theorem event_setMem (s : State) (m : List Host.Cell) : (s.setMem m).event = s.event := rfl
@[simp] theorem drawn_updCur (s : State) (g : Cursor → Cursor) : (s.updCur g).drawn = s.drawn := rfl
@[simp] theorem drawn_setMem (s : State) (m : List Host.Cell) : (s.setMem m).drawn = s.drawn := rfl
@[simp] theorem mem_updCur (s : State) (g : Cursor → Cursor) : (s.updCur g).mem = s.mem := rfl
@[simp] theorem mem_setMem (s : State) (m : List Host.Cell) : (s.setMem m).mem = m := rfl
@[simp] theorem full_updCur (s : State) (g : Cursor → Cursor) : (s.updCur g).full = s.full := rfl
@[simp] theorem full_setMem (s : State) (m : List Host.Cell) : (s.setMem m).full = s.full := rfl
@[simp] theorem keytag_updCur (s : State) (g : Cursor → Cursor) : (s.updCur g).keytag = s.keytag := rfl
@[simp] theorem keytag_setMem (s : State) (m : List Host.Cell) : (s.setMem m).keytag = s.keytag := rfl
@[simp] theorem damaged_updCur (s : State) (g : Cursor → Cursor) : (s.updCur g).damaged = s.damaged := rfl
@[simp] theorem damaged_setMem (s : State) (m : List Host.Cell) : (s.setMem m).damaged = s.damaged := rfl
@[simp] theorem net_updCur (s : State) (g : Cursor → Cursor) : (s.updCur g).net = s.net := rfl
@[simp] theorem net_setMem (s : State) (m : List Host.Cell) : (s.setMem m).net = s.net := rfl
@[simp] theorem nextAccess_updCur (s : State) (g : Cursor → Cursor) : (s.updCur g).nextAccess = s.nextAccess := rfl
@[simp] theorem nextAccess_setMem (s : State) (m : List Host.Cell) : (s.setMem m).nextAccess = s.nextAccess := rfl
@[simp] theorem raises_updCur (s : State) (g : Cursor → Cursor) : (s.updCur g).raises = s.raises := rfl
@[simp] theorem raises_setMem (s : State) (m : List Host.Cell) : (s.setMem m).raises = s.raises := rfl
@[simp] theorem present_updCur (s : State) (g : Cursor → Cursor) : (s.updCur g).present = s.present := rfl
@[simp] theorem present_setMem (s : State) (m : List Host.Cell) : (s.setMem m).present = s.present := rfl
@[simp] theorem rehash_updCur (s : State) (g : Cursor → Cursor) : (s.updCur g).rehash = s.rehash := rfl
@[simp] theorem rehash_setMem (s : State) (m : List Host.Cell) : (s.setMem m).rehash = s.rehash := rfl
@[simp] theorem planeIdle_updCur (s : State) (g : Cursor → Cursor) : (s.updCur g).planeIdle = s.planeIdle := rfl
@[simp] theorem planeIdle_setMem (s : State) (m : List Host.Cell) : (s.setMem m).planeIdle = s.planeIdle := rfl
@[simp] theorem ring_updCur (s : State) (g : Cursor → Cursor) : (s.updCur g).ring = s.ring := rfl
@[simp] theorem ring_setMem (s : State) (m : List Host.Cell) : (s.setMem m).ring = s.ring := rfl
@[simp] theorem saved_updCur (s : State) (g : Cursor → Cursor) : (s.updCur g).saved = s.saved := rfl
@[simp] theorem saved_setMem (s : State) (m : List Host.Cell) : (s.setMem m).saved = s.saved := rfl
@[simp] theorem contexts_updCur (s : State) (g : Cursor → Cursor) : (s.updCur g).contexts = s.contexts := rfl
@[simp] theorem contexts_setMem (s : State) (m : List Host.Cell) : (s.setMem m).contexts = s.contexts := rfl
@[simp] theorem hostMem_updCur (s : State) (g : Cursor → Cursor) : (s.updCur g).hostMem = s.hostMem := rfl
@[simp] theorem hostMem_setMem (s : State) (m : List Host.Cell) : (s.setMem m).hostMem = s.hostMem := rfl
@[simp] theorem hostReqs_updCur (s : State) (g : Cursor → Cursor) : (s.updCur g).hostReqs = s.hostReqs := rfl
@[simp] theorem hostReqs_setMem (s : State) (m : List Host.Cell) : (s.setMem m).hostReqs = s.hostReqs := rfl
@[simp] theorem msix_updCur (s : State) (g : Cursor → Cursor) : (s.updCur g).msix = s.msix := rfl
@[simp] theorem msix_setMem (s : State) (m : List Host.Cell) : (s.setMem m).msix = s.msix := rfl
@[simp] theorem replies_updCur (s : State) (g : Cursor → Cursor) : (s.updCur g).replies = s.replies := rfl
@[simp] theorem replies_setMem (s : State) (m : List Host.Cell) : (s.setMem m).replies = s.replies := rfl

end Sys2Proof.Machine
end

