-- ==== Sys2Proof/Laws/Issue.lean ====
section
/-! SUPPORT. What issuing a word does: the body runs in State.begun, and what it answers retires. -/

namespace Sys2Proof.Machine

/-! ## Running bodies -/

@[simp] theorem run_pure {α : Type} (a : α) (s : State) : (pure a : M α) s = Except.ok (a, s) := rfl
@[simp] theorem run_bind {α β : Type} (m : M α) (k : α → M β) (s : State) :
    (m >>= k) s = match m s with | .ok (a, t) => k a t | .error e => .error e := by
  show (StateT.bind m k s) = _
  unfold StateT.bind
  show Except.bind (m s) _ = _
  cases m s <;> rfl
@[simp] theorem run_map {α β : Type} (f : α → β) (m : M α) (s : State) :
    (f <$> m) s = match m s with | .ok (a, t) => .ok (f a, t) | .error e => .error e := by
  show (StateT.map f m s) = _
  unfold StateT.map
  show Except.bind (m s) _ = _
  cases m s <;> rfl
@[simp] theorem run_get (s : State) : (get : M State) s = .ok (s, s) := rfl
@[simp] theorem run_set (u s : State) : (set u : M PUnit) s = .ok (.unit, u) := rfl
@[simp] theorem run_modify (f : State → State) (s : State) : (modify f : M PUnit) s = .ok (.unit, f s) := rfl
@[simp] theorem run_theCore (s : State) : theCore s = .ok (s.cur.strand.core, s) := rfl
@[simp] theorem run_theTask (s : State) : theTask s = .ok (s.myTask, s) := rfl
@[simp] theorem run_theStrand (s : State) : theStrand s = .ok (s.me, s) := rfl
@[simp] theorem run_modTask (f : Task → Task) (s : State) : modTask f s = .ok (.unit, s.updTask s.cur.strand.task f) := rfl
@[simp] theorem run_modStrand (f : Strand → Strand) (s : State) : modStrand f s = .ok (.unit, s.updStrand s.cur.strand f) := rfl
@[simp] theorem run_readReg (i : Nat) (s : State) : readReg i s = .ok (s.me.regs.get i 0, s) := rfl
@[simp] theorem run_holdOn {α : Type} (h : Hold) (s : State) : (holdOn h : M α) s = .error (.hold h) := rfl
@[simp] theorem run_trapWith {α : Type} (t : Trap) (s : State) : (trapWith t : M α) s = .error (.trap t) := rfl
@[simp] theorem run_holdUnless (c : Bool) (h : Hold) (s : State) :
    holdUnless c h s = if c then .ok (.unit, s) else .error (.hold h) := by
  unfold holdUnless; cases c <;> rfl
@[simp] theorem run_trapIf (c : Bool) (t : Trap) (s : State) : trapIf c t s = if c then .error (.trap t) else .ok (.unit, s) := by
  unfold trapIf; cases c <;> rfl
/-! ## The state in which a body runs -/

/-- The state with a strand's yield taken back. -/
def State.unyielded (s : State) : State := s.updStrand s.cur.strand (fun st => { st with yielded := false })

/-- The state after a word's POP (R16). -/
def State.popped (s : State) (i : Instr) : State :=
  let pop := tokenField (fieldsOf i).pop
  if (formOf s.cur.strand.core i).cmd.isSome ∨ pop.2 = 0 then s else s.popTokens s.cur.strand.task (tokenIndex pop.1 s.cur.strand.core.engine) pop.2

/-- The state in which the body of a word runs: the strand's yield taken back, the word's POP applied, and read combining
ended where the word takes a token or starts a section with needs (R273, R277). -/
def State.begun (s : State) (i : Instr) : State :=
  let s1 := s.unyielded.popped i
  if (s.unyielded.me.needs.isEmpty && (tokenField (fieldsOf i).pop).2 == 0) = true then s1
  else s1.updStrand s.cur.strand (fun st => st.endCombining none)

/-- The taint that a word leaves in the scalar registers it has written (R275). -/
def State.tainted (u : State) (core : CoreId) (i : Instr) (f : Form) (w : Fields) (tainted : Bool) : State :=
  match core with
  | .dusk => u
  | .dawn => u.updStrand u.cur.strand (fun st =>
      { st with taint := (scalarsOf (f.writes w)).foldl (fun b r =>
          let t := if some r = scalarIndex w.d then tainted || isTainting i else tainted
          let m : BitVec 64 := BitVec.ofNat 64 (2 ^ r)
          if t then b ||| m else b &&& ~~~ m) st.taint })

/-- What a body leaves when its word retires: taint, and the PUSH that retirement applies. -/
def State.ended (u : State) (s : State) (i : Instr) : State :=
  let f := formOf s.cur.strand.core i
  let w := fieldsOf i
  let u1 := u.tainted s.cur.strand.core i f w (s.me.readsTaint f w)
  if f.cmd.isSome then u1 else u1.updCur (fun c => { c with pushes := c.pushes ++ ownPushes s.cur.strand.core w })

/-! ## Issuing -/

theorem run_takeTokens (i : Instr) (s : State) :
    takeTokens s.cur.strand.core (formOf s.cur.strand.core i) (fieldsOf i) s = .ok (.unit, s.popped i) := by
  unfold takeTokens State.popped
  dsimp only
  split <;> simp_all

theorem run_putTokens (core : CoreId) (f : Form) (w : Fields) (s : State) :
    putTokens core f w s = .ok (.unit,
      if f.cmd.isSome then s else s.updCur (fun c => { c with pushes := c.pushes ++ ownPushes core w })) := by
  unfold putTokens ownPushes
  by_cases h : f.cmd.isSome = true
  · simp [h]
  · by_cases h2 : (tokenField w.push).2 = 0
    · simp [h, h2, State.updCur]
    · simp [h, h2]

theorem run_taintWritten (core : CoreId) (i : Instr) (f : Form) (w : Fields) (tainted : Bool) (s : State) :
    taintWritten core i f w tainted s = .ok (.unit, s.tainted core i f w tainted) := by
  cases core <;> rfl

theorem me_updStrand (s : State) (g : Strand → Strand) : (s.updStrand s.cur.strand g).me = g s.me :=
  strand_updStrand_same s s.cur.strand g

theorem strand_unyielded (s : State) (j : StrandId) :
    s.unyielded.strand j = { s.strand j with yielded := if j = s.cur.strand then false else (s.strand j).yielded } := by
  unfold State.unyielded
  rw [strand_updStrand]
  split
  · next h => rw [h]
  · rfl

theorem needMet_unyielded (s : State) (who : StrandId) (n : Engine × Nat) : s.unyielded.needMet who n = s.needMet who n := by
  unfold State.needMet
  cases n.1 <;> simp only [State.engineMark, strand_unyielded] <;> rfl

theorem me_unyielded (s : State) : s.unyielded.me = { s.me with yielded := false } := me_updStrand s _

theorem wordAddr_unyielded (s : State) : s.unyielded.wordAddr = s.wordAddr := by
  unfold State.wordAddr
  rw [me_unyielded]
  rfl

theorem commonHold_unyielded (s : State) (i : Instr) (f : Form) (w : Fields) :
    s.unyielded.commonHold s.cur.strand i f w = s.commonHold s.cur.strand i f w := by
  unfold State.commonHold
  simp only [needMet_unyielded, strand_unyielded, wordAddr_unyielded]
  rfl

theorem queueHold_unyielded (s : State) (i : Instr) (f : Form) (w : Fields) :
    s.unyielded.queueHold s.cur.strand i f w = s.queueHold s.cur.strand i f w := rfl

theorem pendingHold_unyielded (s : State) (f : Form) (w : Fields) :
    s.unyielded.pendingHold s.cur.strand f w = s.pendingHold s.cur.strand f w := rfl

/-- What ending a word leaves of its strand: only the taint may change. -/
theorem strand_tainted (u : State) (core : CoreId) (i : Instr) (f : Form) (w : Fields) (b : Bool) (j : StrandId) :
    ∃ x, (u.tainted core i f w b).strand j = { u.strand j with taint := x } := by
  cases core with
  | dusk => exact ⟨(u.strand j).taint, rfl⟩
  | dawn =>
    unfold State.tainted
    by_cases h : j = u.cur.strand
    · subst h; exact ⟨_, strand_updStrand_same _ _ _⟩
    · exact ⟨(u.strand j).taint, strand_updStrand_ne _ _ h⟩

theorem strand_ended (u s : State) (i : Instr) (j : StrandId) : ∃ x, (u.ended s i).strand j = { u.strand j with taint := x } := by
  obtain ⟨x, hx⟩ := strand_tainted u s.cur.strand.core i (formOf s.cur.strand.core i) (fieldsOf i)
    (s.me.readsTaint (formOf s.cur.strand.core i) (fieldsOf i)) j
  refine ⟨x, ?_⟩
  unfold State.ended
  dsimp only
  split <;> exact hx

theorem task_ended (u s : State) (i : Instr) (j : TaskId) : (u.ended s i).task j = u.task j := by
  unfold State.ended State.tainted
  dsimp only
  split <;> split <;> rfl

theorem cur_ended (u s : State) (i : Instr) : (u.ended s i).cur =
    { u.cur with pushes := u.cur.pushes ++ (if (formOf s.cur.strand.core i).cmd.isSome then [] else ownPushes s.cur.strand.core (fieldsOf i)) } := by
  unfold State.ended State.tainted
  dsimp only
  split <;> split <;> simp [*]

theorem overflow_congr {s u : State} {i : TaskId} (hw : u.work.pushes = s.work.pushes) (hk : ∀ k, u.startToken i k = s.startToken i k)
    (ps : List (Nat × Nat)) : u.overflow i ps = s.overflow i ps := by
  unfold State.overflow
  simp only [hw, hk]

theorem work_ended (u s : State) (i : Instr) : (u.ended s i).work = u.work := by
  unfold State.ended State.tainted
  dsimp only
  split <;> split <;> rfl

theorem startToken_ended (u s : State) (i : Instr) (t : TaskId) (k : Nat) : (u.ended s i).startToken t k = u.startToken t k := by
  unfold State.startToken
  rw [task_ended, work_ended]

/-- A word that issues runs its body in State.begun; what the body answers retires (R16, R21, R37, R57). -/
theorem issue_next {i : Instr} {body : M Flow} {s u : State} {flow : Flow} {more : List (Nat × Nat)} (h : Issues i s more)
    (hb : body (s.begun i) = .ok (flow, u)) (hs : u.cur.strand = s.cur.strand)
    (hq : u.cur.pushes = more) (hfe : u.me.fences = s.me.fences) (hst : u.me.status = s.me.status)
    (hw : u.work.pushes = s.work.pushes) (hk : ∀ k, u.startToken s.cur.strand.task k = s.startToken s.cur.strand.task k) :
    issue i body s = .next (((u.ended s i).retire [s.me.pc] s.me.pc ((fieldsOf i).yld || (u.ended s i).me.yielded) flow).clearCycle) := by
  have hun : s.unyielded.me = { s.me with yielded := false } := me_unyielded s
  have hc : s.unyielded.cur = s.cur := rfl
  have hbeg : takeTokens s.cur.strand.core (formOf s.cur.strand.core i) (fieldsOf i) s.unyielded = .ok (.unit, s.unyielded.popped i) := run_takeTokens i s.unyielded
  have hend : (if (s.unyielded.me.needs.isEmpty && (tokenField (fieldsOf i).pop).2 == 0) = true then (pure () : M Unit) else modStrand (fun st => st.endCombining none))
      (s.unyielded.popped i) = .ok (.unit, s.begun i) := by
    have hp : (s.unyielded.popped i).cur = s.cur := by
      unfold State.popped
      dsimp only
      split <;> rfl
    unfold State.begun
    dsimp only
    split
    · rfl
    · rw [run_modStrand, hp]
  have hdam : damagedTrap s.unyielded.me s.unyielded.myTask (opOf i) ((formOf s.cur.strand.core i).reads (fieldsOf i)) = none := by
    rw [hun]; exact h.sound
  have htaint : s.unyielded.me.readsTaint (formOf s.cur.strand.core i) (fieldsOf i) = s.me.readsTaint (formOf s.cur.strand.core i) (fieldsOf i) := by
    rw [hun]; rfl
  have hans : s.unyielded.me.refusedPst = none := by
    rw [hun]; exact h.answered
  have hguard : s.unyielded.guardTrue (fieldsOf i) = true := by
    have := h.guarded
    unfold State.guardTrue at this ⊢
    rw [hc, hun]
    exact this
  have hrun : runWord i body s.unyielded = .ok (flow, u.ended s i) := by
    unfold runWord
    simp only [run_bind, run_get, hc, commonHold_unyielded, h.unheld, hans, hbeg, hend, hguard, if_true, h.pair, Option.isSome_none, Bool.and_false,
      pendingHold_unyielded, queueHold_unyielded, h.settled, h.room, firstHold, hdam, hb, htaint, run_taintWritten,
      Bool.false_eq_true, if_false, run_putTokens, run_pure]
    rfl
  have hpush : pushCheck (u.ended s i) = .ok (.unit, u.ended s i) := by
    obtain ⟨x, hx⟩ := strand_ended u s i s.cur.strand
    have hcs : (u.ended s i).cur.strand = s.cur.strand := by rw [cur_ended, ← hs]
    have hf2 : (u.ended s i).me.fences = s.me.fences := by
      have : (u.ended s i).me = (u.ended s i).strand s.cur.strand := by
        show (u.ended s i).strand (u.ended s i).cur.strand = _
        rw [hcs]
      rw [this, hx, ← hfe]
      show (u.strand s.cur.strand).fences = (u.strand u.cur.strand).fences
      rw [hs]
    have hcp : (u.ended s i).cur.pushes = more ++ (if (formOf s.cur.strand.core i).cmd.isSome then [] else ownPushes s.cur.strand.core (fieldsOf i)) := by
      rw [cur_ended, hq]
    unfold pushCheck
    have hov : (u.ended s i).overflow s.cur.strand.task ((u.ended s i).cur.pushes ++ s.me.fences.flatMap FenceWait.pushes) = none := by
      rw [overflow_congr ((congrArg CycleWork.pushes (work_ended u s i)).trans hw) (fun k => (startToken_ended u s i _ k).trans (hk k)), hcp]
      exact h.tokens
    simp only [run_bind, run_get, hcs, hf2, hov, run_pure]
  have hable : (u.ended s i).canIssue s.cur.strand = true := by
    obtain ⟨x, hx⟩ := strand_ended u s i s.cur.strand
    have : (u.strand s.cur.strand).status = (s.strand s.cur.strand).status := by
      have := hst
      unfold State.me at this
      rwa [hs] at this
    unfold State.canIssue
    rw [hx, this]
    exact h.able
  unfold issue
  have hall : (do let flow ← runWord i body
                  pushCheck
                  return flow : M Flow) s.unyielded = .ok (flow, u.ended s i) := by
    simp [hrun, hpush]
  have hsun : s.updStrand s.cur.strand (fun st => { st with yielded := false }) = s.unyielded := rfl
  simp only [h.able, h.pair, h.mate, h.guarded, h.accepted, Option.isSome_none, Bool.true_eq_false, Bool.false_eq_true, if_false, StateT.run,
    hsun, hall, hable]

end Sys2Proof.Machine
end

