-- ==== Sys2Proof/Laws/Memory.lean ====
section
/-! SUPPORT. The basic laws of memory: a read after a write, and the canonical form. -/

namespace Sys2Proof.Machine

theorem Memory.wfFrom_mono {lo lo' : Nat} {m : List Host.Cell} (h : lo' ≤ lo) (hw : Memory.wfFrom lo m = true) :
    Memory.wfFrom lo' m = true := by
  cases m with
  | nil => rfl
  | cons c cs =>
    simp only [Memory.wfFrom, Bool.and_eq_true, decide_eq_true_eq] at hw ⊢
    exact ⟨⟨by omega, hw.1.2⟩, hw.2⟩

theorem Memory.read_below {lo a : Nat} {m : List Host.Cell} (hw : Memory.wfFrom lo m = true) (h : a < lo) :
    Memory.read m a = Memory.blank := by
  cases m with
  | nil => rfl
  | cons c cs =>
    simp only [Memory.wfFrom, Bool.and_eq_true, decide_eq_true_eq] at hw
    have h1 : c.1 ≠ a := by omega
    have h2 : a < c.1 := by omega
    simp [Memory.read, h1, h2]

theorem Memory.read_cons_same {a : Nat} {v : Byte} {cs : List Host.Cell} (hw : Memory.wfFrom (a + 1) cs = true) :
    Memory.read (Memory.cons a v cs) a = v := by
  unfold Memory.cons
  split
  · next h => rw [h]; exact Memory.read_below hw (by omega)
  · simp [Memory.read]

theorem Memory.read_cons_ne {a b : Nat} {v : Byte} {cs : List Host.Cell} (hw : Memory.wfFrom (a + 1) cs = true)
    (h : b ≠ a) : Memory.read (Memory.cons a v cs) b = Memory.read cs b := by
  unfold Memory.cons
  split
  · rfl
  · simp only [Memory.read]
    split
    · next h' => exact absurd h'.symm h
    · split
      · next h' => exact (Memory.read_below hw (by omega)).symm
      · rfl

theorem Memory.wfFrom_cons {lo a : Nat} {v : Byte} {cs : List Host.Cell} (hl : lo ≤ a)
    (hw : Memory.wfFrom (a + 1) cs = true) : Memory.wfFrom lo (Memory.cons a v cs) = true := by
  unfold Memory.cons
  split
  · exact Memory.wfFrom_mono (by omega) hw
  · next h => simp [Memory.wfFrom, hl, hw, h]

theorem Memory.wfFrom_write {lo a : Nat} {v : Byte} {m : List Host.Cell} (hl : lo ≤ a)
    (hw : Memory.wfFrom lo m = true) : Memory.wfFrom lo (Memory.write m a v) = true := by
  induction m generalizing lo with
  | nil => exact Memory.wfFrom_cons hl rfl
  | cons c cs ih =>
    have hw' := hw
    simp only [Memory.wfFrom, Bool.and_eq_true, decide_eq_true_eq] at hw
    simp only [Memory.write]
    split
    · next h =>
      refine Memory.wfFrom_cons hl ?_
      simp only [Memory.wfFrom, Bool.and_eq_true, decide_eq_true_eq]
      exact ⟨⟨by omega, hw.1.2⟩, hw.2⟩
    · split
      · next h => exact Memory.wfFrom_cons hl (h ▸ hw.2)
      · simp only [Memory.wfFrom, Bool.and_eq_true, decide_eq_true_eq]
        exact ⟨hw.1, ih (by omega) hw.2⟩

/-- A write keeps the canonical form. -/
theorem Memory.wf_write {m : List Host.Cell} (a : Nat) (v : Byte) (hw : Memory.wf m = true) :
    Memory.wf (Memory.write m a v) = true := Memory.wfFrom_write (Nat.zero_le a) hw

theorem Memory.read_write_from {lo a b : Nat} {v : Byte} {m : List Host.Cell} (hw : Memory.wfFrom lo m = true) :
    Memory.read (Memory.write m a v) b = if b = a then v else Memory.read m b := by
  induction m generalizing lo with
  | nil =>
    by_cases h : b = a
    · subst h; simpa [Memory.write] using Memory.read_cons_same (v := v) (cs := []) (a := b) rfl
    · simpa [Memory.write, h] using Memory.read_cons_ne (v := v) (cs := []) (a := a) rfl h
  | cons c cs ih =>
    simp only [Memory.wfFrom, Bool.and_eq_true, decide_eq_true_eq] at hw
    simp only [Memory.write]
    split
    · next h =>
      have hcs : Memory.wfFrom (a + 1) (c :: cs) = true := by
        simp only [Memory.wfFrom, Bool.and_eq_true, decide_eq_true_eq]; exact ⟨⟨by omega, hw.1.2⟩, hw.2⟩
      by_cases hb : b = a
      · subst hb; simpa using Memory.read_cons_same (v := v) hcs
      · simpa [hb] using Memory.read_cons_ne (v := v) hcs hb
    · split
      · next h1 h =>
        subst h
        by_cases hb : b = c.1
        · subst hb; simpa using Memory.read_cons_same (v := v) hw.2
        · rw [Memory.read_cons_ne hw.2 hb]
          simp only [hb, if_false, Memory.read, Ne.symm hb]
          split
          · next h' => exact Memory.read_below hw.2 (by omega)
          · rfl
      · next h1 h2 =>
        simp only [Memory.read]
        by_cases hb : b = a
        · subst hb
          simp only [h2, if_false, h1, if_true]
          simpa using ih hw.2
        · simp only [hb, if_false]
          split
          · rfl
          · split
            · rfl
            · simpa [hb] using ih hw.2

/-- Reading after one byte is written. -/
theorem Memory.read_write {m : List Host.Cell} (a b : Nat) (v : Byte) (hw : Memory.wf m = true) :
    Memory.read (Memory.write m a v) b = if b = a then v else Memory.read m b := Memory.read_write_from hw

/-- A write of several bytes keeps the canonical form. -/
theorem Memory.wf_writeBytes {m : List Host.Cell} (a : Nat) (bs : List Byte) (hw : Memory.wf m = true) :
    Memory.wf (Memory.writeBytes m a bs) = true := by
  induction bs generalizing m a with
  | nil => exact hw
  | cons b bs ih => exact ih (a + 1) (Memory.wf_write a b hw)

/-- A byte outside the written range reads as before. -/
theorem Memory.read_writeBytes_out {m : List Host.Cell} (a b : Nat) (bs : List Byte) (hw : Memory.wf m = true)
    (h : b < a ∨ a + bs.length ≤ b) : Memory.read (Memory.writeBytes m a bs) b = Memory.read m b := by
  induction bs generalizing m a with
  | nil => rfl
  | cons x xs ih =>
    simp only [Memory.writeBytes, List.length_cons] at h ⊢
    rw [ih (a + 1) (Memory.wf_write a x hw) (by omega), Memory.read_write a b x hw]
    rw [if_neg (by omega)]

/-- Reading back what was written. -/
theorem Memory.readBytes_writeBytes {m : List Host.Cell} (a : Nat) (bs : List Byte) (hw : Memory.wf m = true) :
    Memory.readBytes (Memory.writeBytes m a bs) a bs.length = bs := by
  induction bs generalizing m a with
  | nil => rfl
  | cons x xs ih =>
    simp only [Memory.writeBytes, List.length_cons, Memory.readBytes]
    rw [ih (a + 1) (Memory.wf_write a x hw),
      Memory.read_writeBytes_out (a + 1) a xs (Memory.wf_write a x hw) (by omega), Memory.read_write a a x hw]
    simp

theorem Memory.wfFrom_filter {lo : Nat} {m : List Host.Cell} (p : Host.Cell → Bool)
    (hw : Memory.wfFrom lo m = true) : Memory.wfFrom lo (m.filter p) = true := by
  induction m generalizing lo with
  | nil => rfl
  | cons c cs ih =>
    simp only [Memory.wfFrom, Bool.and_eq_true, decide_eq_true_eq] at hw
    simp only [List.filter]
    split
    · simp only [Memory.wfFrom, Bool.and_eq_true, decide_eq_true_eq]
      exact ⟨hw.1, ih hw.2⟩
    · exact Memory.wfFrom_mono (by omega) (ih hw.2)

/-- Clearing a range keeps the canonical form. -/
theorem Memory.wf_clear {m : List Host.Cell} (lo hi : Nat) (hw : Memory.wf m = true) :
    Memory.wf (Memory.clear m lo hi) = true := Memory.wfFrom_filter _ hw

/-- The bytes of a value make that value again. -/
theorem bytesToNat_natToBytes (n v : Nat) : bytesToNat (natToBytes n v) = v % 256 ^ n := by
  induction n generalizing v with
  | zero => simp [natToBytes, bytesToNat, Nat.mod_one]
  | succ n ih =>
    simp only [natToBytes, bytesToNat, ih, BitVec.toNat_ofNat]
    have : v % 256 ^ (n + 1) = v % 256 + 256 * (v / 256 % 256 ^ n) := by
      rw [Nat.pow_succ', Nat.mod_mul]
    simpa using this.symm

theorem length_natToBytes (n v : Nat) : (natToBytes n v).length = n := by
  induction n generalizing v with
  | zero => rfl
  | succ n ih => simp [natToBytes, ih]

end Sys2Proof.Machine
end

