-- ==== Sys2Proof/Laws/Retire.lean ====
section
/-! SUPPORT. What retirement does: where the strand goes next changes nothing that an instruction's effect names. -/

namespace Sys2Proof.Machine

/-- A strand keeps its registers, predicates, stack, fault code, call depth and fences. -/
structure Strand.Keeps (x y : Strand) : Prop where
  regs : y.regs = x.regs
  preds : y.preds = x.preds
  stkbase : y.stkbase = x.stkbase
  stklim : y.stklim = x.stklim
  fault : y.faultCode = x.faultCode
  depth : y.depth = x.depth
  fences : y.fences = x.fences

/-- A task keeps all but its engines' marks and, when it no longer runs, its status and queues. -/
structure Task.Keeps (x y : Task) : Prop where
  tokens : y.tokens = x.tokens
  v : y.v = x.v
  k : y.k = x.k
  nf : y.nf = x.nf
  acc : y.acc = x.acc
  slots : y.slots = x.slots
  serac : y.serac.queue = x.serac.queue
  moraine : y.moraine.queue = x.moraine.queue
  hdr : y.hdr = x.hdr
  group : y.group = x.group
  tmBase : y.tmBase = x.tmBase
  vBase : y.vBase = x.vBase
  evBase : y.evBase = x.evBase
  mode : y.mode = x.mode
  oscale : y.oscale = x.oscale
  strides : y.strides = x.strides
  queues : y.status = .running → x.status = .running ∧ y.aq = x.aq ∧ y.bq = x.bq ∧ y.cq = x.cq

/-- Between two states a strand has only gone on: nothing that an instruction's effect names has changed. -/
structure Onward (who : StrandId) (u t : State) : Prop where
  me : (u.strand who).Keeps (t.strand who)
  task : (u.task who.task).Keeps (t.task who.task)
  strands : ∀ i, i ≠ who → t.strand i = u.strand i
  tasks : ∀ i, i ≠ who.task → t.task i = u.task i
  tiles : t.tiles = u.tiles
  mem : t.mem = u.mem
  net : t.net = u.net
  raises : t.raises = u.raises
  ports : t.ports = u.ports
  chans : t.chans = u.chans
  dies : ∀ d, { t.die d with fqPending := [] } = { u.die d with fqPending := [] }
  full : t.full = u.full
  keytag : t.keytag = u.keytag
  regions : t.regions = u.regions
  loads : t.loads = u.loads
  queues : t.queues = u.queues
  pkgs : t.pkgs = u.pkgs
  saved : t.saved = u.saved
  cur : t.cur = u.cur
  work : t.work = u.work

theorem Strand.Keeps.refl (x : Strand) : x.Keeps x := ⟨rfl, rfl, rfl, rfl, rfl, rfl, rfl⟩
theorem Strand.Keeps.trans {x y z : Strand} (a : x.Keeps y) (b : y.Keeps z) : x.Keeps z :=
  ⟨b.regs.trans a.regs, b.preds.trans a.preds, b.stkbase.trans a.stkbase, b.stklim.trans a.stklim, b.fault.trans a.fault,
    b.depth.trans a.depth, b.fences.trans a.fences⟩
theorem Task.Keeps.refl (x : Task) : x.Keeps x :=
  ⟨rfl, rfl, rfl, rfl, rfl, rfl, rfl, rfl, rfl, rfl, rfl, rfl, rfl, rfl, rfl, rfl, fun h => ⟨h, rfl, rfl, rfl⟩⟩
theorem Task.Keeps.trans {x y z : Task} (a : x.Keeps y) (b : y.Keeps z) : x.Keeps z :=
  ⟨b.tokens.trans a.tokens, b.v.trans a.v, b.k.trans a.k, b.nf.trans a.nf, b.acc.trans a.acc, b.slots.trans a.slots,
    b.serac.trans a.serac, b.moraine.trans a.moraine, b.hdr.trans a.hdr, b.group.trans a.group, b.tmBase.trans a.tmBase,
    b.vBase.trans a.vBase, b.evBase.trans a.evBase, b.mode.trans a.mode, b.oscale.trans a.oscale, b.strides.trans a.strides,
    fun h => by
      obtain ⟨h1, h2, h3, h4⟩ := b.queues h
      obtain ⟨h5, h6, h7, h8⟩ := a.queues h1
      exact ⟨h5, h2.trans h6, h3.trans h7, h4.trans h8⟩⟩

theorem Onward.refl (who : StrandId) (u : State) : Onward who u u :=
  ⟨.refl _, .refl _, fun _ _ => rfl, fun _ _ => rfl, rfl, rfl, rfl, rfl, rfl, rfl, fun _ => rfl, rfl, rfl, rfl, rfl, rfl, rfl, rfl, rfl, rfl⟩

theorem Onward.trans {who : StrandId} {u v t : State} (a : Onward who u v) (b : Onward who v t) : Onward who u t where
  me := a.me.trans b.me
  task := a.task.trans b.task
  strands i h := (b.strands i h).trans (a.strands i h)
  tasks i h := (b.tasks i h).trans (a.tasks i h)
  tiles := b.tiles.trans a.tiles
  mem := b.mem.trans a.mem
  net := b.net.trans a.net
  raises := b.raises.trans a.raises
  ports := b.ports.trans a.ports
  chans := b.chans.trans a.chans
  dies d := (b.dies d).trans (a.dies d)
  full := b.full.trans a.full
  keytag := b.keytag.trans a.keytag
  regions := b.regions.trans a.regions
  loads := b.loads.trans a.loads
  queues := b.queues.trans a.queues
  pkgs := b.pkgs.trans a.pkgs
  saved := b.saved.trans a.saved
  cur := b.cur.trans a.cur
  work := b.work.trans a.work

theorem onward_updStrand (who : StrandId) (u : State) (g : Strand → Strand) (hg : (u.strand who).Keeps (g (u.strand who))) :
    Onward who u (u.updStrand who g) where
  me := by rw [strand_updStrand_same]; exact hg
  task := .refl _
  strands i h := strand_updStrand_ne _ _ h
  tasks _ _ := rfl
  tiles := rfl
  mem := rfl
  net := rfl
  raises := rfl
  ports := rfl
  chans := rfl
  dies _ := rfl
  full := rfl
  keytag := rfl
  regions := rfl
  loads := rfl
  queues := rfl
  pkgs := rfl
  saved := rfl
  cur := rfl
  work := rfl

theorem onward_updTask (who : StrandId) (u : State) (g : Task → Task) (hg : (u.task who.task).Keeps (g (u.task who.task))) :
    Onward who u (u.updTask who.task g) where
  me := .refl _
  task := by rw [task_updTask_same]; exact hg
  strands _ _ := rfl
  tasks i h := task_updTask_ne _ _ h
  tiles := rfl
  mem := rfl
  net := rfl
  raises := rfl
  ports := rfl
  chans := rfl
  dies _ := rfl
  full := rfl
  keytag := rfl
  regions := rfl
  loads := rfl
  queues := rfl
  pkgs := rfl
  saved := rfl
  cur := rfl
  work := rfl

theorem onward_raiseEntry (who : StrandId) (u : State) (die : Nat) (e : FqEntry) : Onward who u (u.raiseEntry die e) where
  me := .refl _
  task := .refl _
  strands _ _ := rfl
  tasks _ _ := rfl
  tiles := rfl
  mem := rfl
  net := rfl
  raises := rfl
  ports := rfl
  chans := rfl
  dies d := by
    unfold State.raiseEntry
    rw [die_updDie]
    split
    · next h => subst h; rfl
    · rfl
  full := rfl
  keytag := rfl
  regions := rfl
  loads := rfl
  queues := rfl
  pkgs := rfl
  saved := rfl
  cur := rfl
  work := rfl

/-- A strand that takes a precise fault keeps everything that an effect names (R32). -/
theorem onward_raisePrecise (who : StrandId) (u : State) (t : Trap) (a : Word64) : Onward who u (u.raisePrecise who t a) :=
  (onward_updStrand who u _ ⟨rfl, rfl, rfl, rfl, rfl, rfl, rfl⟩).trans (onward_raiseEntry who _ _ _)

theorem Task.Keeps.settle {t : Task} {c : CoreId} {e : EngineState} (h : e.queue = (t.engineOf c).queue) : t.Keeps (t.setEngine c e) := by
  cases c <;> exact ⟨rfl, rfl, rfl, rfl, rfl, rfl, by simp_all [Task.setEngine, Task.engineOf],
    by simp_all [Task.setEngine, Task.engineOf], rfl, rfl, rfl, rfl, rfl, rfl, rfl, rfl, fun h => ⟨h, rfl, rfl, rfl⟩⟩

theorem settleMarks_queue (e : EngineState) (ms : List MarkWait) : (settleMarks e ms).queue = e.queue := by
  induction ms generalizing e with
  | nil => rfl
  | cons m ms ih =>
    unfold settleMarks
    split
    · rw [ih]
    · rfl

theorem onward_leaveSection (who : StrandId) (u : State) : Onward who u (u.leaveSection who) :=
  (onward_updStrand who u _ ⟨rfl, rfl, rfl, rfl, rfl, rfl, rfl⟩).trans (onward_updTask who _
    (fun t => t.setEngine who.core (EngineState.settle { t.engineOf who.core with
      marks := (t.engineOf who.core).marks ++ [{ sect := (u.strand who).sect, before := (t.engineOf who.core).nextSeq }] }))
    (Task.Keeps.settle (settleMarks_queue _ _)))

theorem onward_drain (who : StrandId) (u : State) : Onward who u (u.drainIfEnded who.task) := by
  unfold State.drainIfEnded
  dsimp only
  split
  · exact onward_updTask who u (fun x => { x with status := .draining, discarded := x.aq.length + x.bq.length + x.cq.length, aq := [], bq := [], cq := [] })
      ⟨rfl, rfl, rfl, rfl, rfl, rfl, rfl, rfl, rfl, rfl, rfl, rfl, rfl, rfl, rfl, rfl, fun h => by simp at h⟩
  · exact .refl _ _

theorem onward_endStrand (who : StrandId) (u : State) : Onward who u (u.endStrand who) :=
  ((onward_leaveSection who u).trans (onward_updStrand who _ _ ⟨rfl, rfl, rfl, rfl, rfl, rfl, rfl⟩)).trans (onward_drain who _)

theorem onward_enterHeader (who : StrandId) (u : State) (a : Word64) (prev : Option Nat) : Onward who u (u.enterHeader who a prev) := by
  unfold State.enterHeader
  dsimp only
  split
  · exact onward_updStrand who u _ ⟨rfl, rfl, rfl, rfl, rfl, rfl, rfl⟩
  · split
    · have hs : ∀ (b : Bool) (h : Word64), Onward who u
          (if b = false ∨ headerRefused (u.task who.task).hdr.ncarry h = true then
            ((u.updStrand who (fun st => { st with pc := a + 8, atHeader := false, sect := fld h 59 50, sectStart := a + 8, sectLen := fld h 49 40 })).raisePrecise
              who (headerFault h) a).updStrand who (fun st => { st with pc := a, atHeader := true })
          else
            (u.updStrand who (fun st => { st with pc := a + 8, atHeader := false, sect := fld h 59 50, sectStart := a + 8, sectLen := fld h 49 40 })).updStrand
              who (fun st => { st with needs := headerNeeds who.core h
                                       gate := if h.getLsbD 6 ∧ (u.load (u.task who.task).load).gating.contains who.die ∧ st.whole = false then some (fld h 5 0) else none })) := by
        intro b h
        split
        · exact ((onward_updStrand who u _ ⟨rfl, rfl, rfl, rfl, rfl, rfl, rfl⟩).trans (onward_raisePrecise who _ _ _)).trans
            (onward_updStrand who _ _ ⟨rfl, rfl, rfl, rfl, rfl, rfl, rfl⟩)
        · exact (onward_updStrand who u _ ⟨rfl, rfl, rfl, rfl, rfl, rfl, rfl⟩).trans (onward_updStrand who _ _ ⟨rfl, rfl, rfl, rfl, rfl, rfl, rfl⟩)
      exact hs _ _
    · split
      · exact (onward_updStrand who u _ ⟨rfl, rfl, rfl, rfl, rfl, rfl, rfl⟩).trans (onward_endStrand who _)
      · exact (onward_updStrand who u _ ⟨rfl, rfl, rfl, rfl, rfl, rfl, rfl⟩).trans (onward_raisePrecise who _ _ _)

theorem onward_goTo (who : StrandId) (u : State) (a : Word64) (b : Bool) : Onward who u (u.goTo who a b) := by
  unfold State.goTo
  exact onward_updStrand who u _ ⟨rfl, rfl, rfl, rfl, rfl, rfl, rfl⟩

theorem onward_fallThrough (who : StrandId) (u : State) (ws : List Word64) (a : Word64) : Onward who u (u.fallThrough who ws a) := by
  unfold State.fallThrough
  dsimp only
  split
  · exact (onward_updStrand who u _ ⟨rfl, rfl, rfl, rfl, rfl, rfl, rfl⟩).trans (onward_updStrand who _ _ ⟨rfl, rfl, rfl, rfl, rfl, rfl, rfl⟩)
  · split
    · exact (onward_updStrand who u _ ⟨rfl, rfl, rfl, rfl, rfl, rfl, rfl⟩).trans (onward_updStrand who _ _ ⟨rfl, rfl, rfl, rfl, rfl, rfl, rfl⟩)
    · exact ((onward_updStrand who u _ ⟨rfl, rfl, rfl, rfl, rfl, rfl, rfl⟩).trans (onward_leaveSection who _)).trans (onward_enterHeader who _ _ _)

theorem onward_wake (who : StrandId) (u : State) (p : Park) : Onward who u (u.wake who p) := by
  unfold State.wake
  dsimp only
  split
  · exact onward_updStrand who u _ ⟨rfl, rfl, rfl, rfl, rfl, rfl, rfl⟩
  · exact (onward_updStrand who u _ ⟨rfl, rfl, rfl, rfl, rfl, rfl, rfl⟩).trans (onward_goTo who _ _ _)

theorem onward_parkOn (who : StrandId) (u : State) (p : Park) : Onward who u (u.parkOn who p) :=
  onward_updStrand who u _ ⟨rfl, rfl, rfl, rfl, rfl, rfl, rfl⟩

/-- What a retiring word leaves to the end of its cycle: its counters and its tokens (R16, R102). -/
def State.handedOver (u : State) : State :=
  (u.leaveCounters u.cur.strand.core u.cur.strand.tileId u.cur.evSets u.cur.evAdds).pushTokens u.cur.strand.task u.cur.pushes

/-- Retirement but for the counters and the tokens is onward (R91). -/
theorem onward_retire (u : State) (ws : List Word64) (a : Word64) (y : Bool) (flow : Flow) :
    Onward u.cur.strand u.handedOver (u.retire ws a y flow) := by
  unfold State.retire
  dsimp only
  cases flow with
  | fall => exact (onward_updStrand _ _ _ ⟨rfl, rfl, rfl, rfl, rfl, rfl, rfl⟩).trans (onward_fallThrough _ _ _ _)
  | fallFrom b => exact (onward_updStrand _ _ _ ⟨rfl, rfl, rfl, rfl, rfl, rfl, rfl⟩).trans (onward_fallThrough _ _ _ _)
  | goto t b =>
    exact ((onward_updStrand _ _ _ ⟨rfl, rfl, rfl, rfl, rfl, rfl, rfl⟩).trans (onward_updStrand _ _ _ ⟨rfl, rfl, rfl, rfl, rfl, rfl, rfl⟩)).trans
      (onward_goTo _ _ _ _)
  | ended => exact (onward_updStrand _ _ _ ⟨rfl, rfl, rfl, rfl, rfl, rfl, rfl⟩).trans (onward_endStrand _ _)
  | parks p => exact (onward_updStrand _ _ _ ⟨rfl, rfl, rfl, rfl, rfl, rfl, rfl⟩).trans (onward_parkOn _ _ _)

/-! ## Tokens -/

theorem token_setToken (t : Task) (k v j : Nat) : (t.setToken k v).token j = if j = k then v % 64 else t.token j := by
  unfold Task.setToken Task.token
  simp only [Map.get_set]
  split
  · simp
  · rfl

theorem token_lt (t : Task) (k : Nat) : t.token k < 64 := (t.tokens.get k 0).isLt

/-! ## Effects through retirement -/

/-- The counters and tokens of an effect and those that its word leaves at the end stand together (R16, R102). -/
theorem work_handedOver {e : Effect} {s u : State} (hc : u.cur.strand = s.cur.strand) (hw : u.work = s.work.with' e s.cur.strand) :
    u.handedOver.work = s.work.with' { e with sets := e.sets ++ u.cur.evSets, adds := e.adds ++ u.cur.evAdds, gives := e.gives ++ u.cur.pushes } s.cur.strand := by
  unfold State.handedOver State.pushTokens State.leaveCounters
  dsimp only
  rw [hw, hc]
  unfold CycleWork.with'
  cases s.cur.strand.core <;> simp [List.map_append, List.append_assoc]

/-- An effect had before retirement stands after it, with the counters and tokens that retirement gives. -/
theorem Does.retired {e : Effect} {s u : State} {ws : List Word64} {a : Word64} {y : Bool} {flow : Flow} (h : Does e s u)
    (hc : u.cur.strand = s.cur.strand) :
    Does { e with sets := e.sets ++ u.cur.evSets, adds := e.adds ++ u.cur.evAdds, gives := e.gives ++ u.cur.pushes } s ((u.retire ws a y flow).clearCycle) := by
  have ho := onward_retire u ws a y flow
  rw [hc] at ho
  have k : (u.task s.cur.strand.task).Keeps ((u.retire ws a y flow).task s.cur.strand.task) := ho.task
  exact
    { tokens := fun j => by
        have h1 := h.tokens j
        have h3 : ((u.retire ws a y flow).task s.cur.strand.task).token j = (u.task s.cur.strand.task).token j := by
          unfold Task.token; rw [k.tokens]
        show ((u.retire ws a y flow).task s.cur.strand.task).token j = _
        rw [h3, h1]
      work := ho.work.trans (work_handedOver hc h.work)
      regs := fun r => by show ((u.retire ws a y flow).strand _).regs.get r 0 = _; rw [ho.me.regs]; exact h.regs r
      preds := fun r hr => by show ((u.retire ws a y flow).strand _).preds.getLsbD r = _; rw [ho.me.preds]; exact h.preds r hr
      vecs := fun n => by show ((u.retire ws a y flow).task _).v.get n [] = _; rw [k.v]; exact h.vecs n
      masks := fun n => by show ((u.retire ws a y flow).task _).k.get n 0 = _; rw [k.k]; exact h.masks n
      nfs := fun n => by show ((u.retire ws a y flow).task _).nf.get n 0 = _; rw [k.nf]; exact h.nfs n
      counters := fun n => by
        show (((u.retire ws a y flow).tiles.get _ {}).events.get n 0) = _
        rw [ho.tiles]; exact h.counters n
      queues := fun hr q => by
        obtain ⟨h1, h2, h3, h4⟩ := k.queues hr
        have hq := h.queues h1 q
        rw [← hq]
        show ((u.retire ws a y flow).task _).entries q = _
        cases q <;> simp only [Task.entries, h2, h3, h4]
      memory := fun b => by show Memory.read (u.retire ws a y flow).mem b = _; rw [ho.mem]; exact h.memory b
      net := by show (u.retire ws a y flow).net = _; rw [ho.net]; exact h.net
      raises := by show (u.retire ws a y flow).raises = _; rw [ho.raises]; exact h.raises
      serac := by show ((u.retire ws a y flow).task _).serac.queue = _; rw [k.serac]; exact h.serac
      moraine := by show ((u.retire ws a y flow).task _).moraine.queue = _; rw [k.moraine]; exact h.moraine
      slots := fun n => by show ((u.retire ws a y flow).task _).slots.get n 0 = _; rw [k.slots]; exact h.slots n
      stack := by
        show (((u.retire ws a y flow).strand _).stkbase, ((u.retire ws a y flow).strand _).stklim) = _
        rw [ho.me.stkbase, ho.me.stklim]; exact h.stack
      fault := by show ((u.retire ws a y flow).strand _).faultCode = _; rw [ho.me.fault]; exact h.fault
      depth := by show ((u.retire ws a y flow).strand _).depth = _; rw [ho.me.depth]; exact h.depth
      fences := by show ((u.retire ws a y flow).strand _).fences = _; rw [ho.me.fences]; exact h.fences
      ports := by show (u.retire ws a y flow).ports = _; rw [ho.ports]; exact h.ports
      chans := by show (u.retire ws a y flow).chans = _; rw [ho.chans]; exact h.chans
      dies := fun d => (ho.dies d).trans (h.dies d)
      accs := by show ((u.retire ws a y flow).task _).acc = _; rw [k.acc]; exact h.accs
      header := by show ((u.retire ws a y flow).task _).hdr = _; rw [k.hdr]; exact h.header
      group := by show ((u.retire ws a y flow).task _).group = _; rw [k.group]; exact h.group
      bases := by
        have := h.bases
        show (((u.retire ws a y flow).task _).tmBase, ((u.retire ws a y flow).task _).vBase, ((u.retire ws a y flow).task _).evBase) = _
        rw [k.tmBase, k.vBase, k.evBase]; exact this
      modes := by
        have := h.modes
        show (((u.retire ws a y flow).task _).mode, ((u.retire ws a y flow).task _).oscale, ((u.retire ws a y flow).task _).strides) = _
        rw [k.mode, k.oscale, k.strides]; exact this
      strands := fun i hi => by
        have h1 : (u.retire ws a y flow).strand i = u.strand i := ho.strands i hi
        show ((u.retire ws a y flow).strand i).regs = _ ∧ ((u.retire ws a y flow).strand i).preds = _ ∧
          ((u.retire ws a y flow).strand i).pc = _ ∧ ((u.retire ws a y flow).strand i).status = _
        rw [h1]; exact h.strands i hi
      tasks := fun i hi => by
        have h1 : (u.retire ws a y flow).task i = u.task i := ho.tasks i hi
        exact h1.trans (h.tasks i hi)
      tiles := fun i hi => by
        show (u.retire ws a y flow).tiles.get i {} = _
        rw [ho.tiles]; exact h.tiles i hi
      presence := ho.full.trans h.presence
      keys := ho.keytag.trans h.keys
      rest := ⟨ho.regions.trans h.rest.1, ho.loads.trans h.rest.2.1, ho.queues.trans h.rest.2.2.1, ho.pkgs.trans h.rest.2.2.2.1,
        ho.saved.trans h.rest.2.2.2.2⟩ }

end Sys2Proof.Machine
end

