-- ==== Sys2Proof/Laws/Operand.lean ====
section
/-! SUPPORT. Reading operands and writing results: what source, sourceF32 and destine answer, and the effects they have. -/

namespace Sys2Proof.Machine

/-! ## A word that has only read -/

/-- u is s with the cursor's word begun: its yield taken back, tokens taken, queue entries popped, and what reads may combine with
ended; nothing else. -/
structure Reads (s u : State) (takes : List (Nat × Nat)) (pops : List QueueName) : Prop where
  cur : u.cur = s.cur
  clock : u.clock = s.clock
  tiles : u.tiles = s.tiles
  me : ∃ x, u.me = { s.me with yielded := false, sources := x }
  work : u.work = s.work.with' { takes := takes, pops := pops } s.cur.strand
  tokens : ∀ k, u.myTask.token k = s.myTask.token k - pushSum takes k
  task : ∃ m, u.myTask = { s.myTask with tokens := m, aq := s.myTask.aq.drop (pops.count .aq), bq := s.myTask.bq.drop (pops.count .bq)
                                         cq := s.myTask.cq.drop (pops.count .cq) }
  strands : ∀ i, i ≠ s.cur.strand → u.strand i = s.strand i
  tasks : ∀ i, i ≠ s.cur.strand.task → u.task i = s.task i
  mem : u.mem = s.mem
  net : u.net = s.net
  raises : u.raises = s.raises
  ports : u.ports = s.ports
  chans : u.chans = s.chans
  dies : u.dies = s.dies
  full : u.full = s.full
  keytag : u.keytag = s.keytag
  regions : u.regions = s.regions
  loads : u.loads = s.loads
  queues : u.queues = s.queues
  pkgs : u.pkgs = s.pkgs
  saved : u.saved = s.saved
  damaged : u.damaged = s.damaged
  nextAccess : u.nextAccess = s.nextAccess

theorem Reads.does {s u : State} {takes : List (Nat × Nat)} {pops : List QueueName} (h : Reads s u takes pops) :
    Does { takes := takes, pops := pops } s u := by
  obtain ⟨m, hm⟩ := h.task
  have hc := h.cur
  obtain ⟨x, hx⟩ := h.me
  have hst : u.strand s.cur.strand = { s.me with yielded := false, sources := x } := by rw [← hx]; unfold State.me; rw [hc]
  have htk : u.task s.cur.strand.task = u.myTask := by unfold State.myTask; rw [hc]
  exact
    { tokens := fun k => by rw [htk, h.tokens]
      work := h.work
      regs := fun r => by rw [hst]; rfl
      preds := fun k _ => by rw [hst]; rfl
      vecs := fun n => by rw [htk, hm]; rfl
      masks := fun n => by rw [htk, hm]; rfl
      nfs := fun n => by rw [htk, hm]; rfl
      counters := fun n => by unfold State.counter State.tile; rw [h.tiles]
      queues := fun _ q => by
        rw [htk, hm]
        cases q <;> simp [Task.entries, List.map_drop]
      memory := fun a => by rw [h.mem]; rfl
      net := by rw [h.net]; simp
      raises := by rw [h.raises]; simp
      serac := by rw [htk, hm]; simp
      moraine := by rw [htk, hm]; simp
      slots := fun n => by rw [htk, hm]; rfl
      stack := by rw [hst]; rfl
      fault := by rw [hst]
      depth := by rw [hst]; simp
      fences := by rw [hst]; simp
      ports := h.ports
      chans := h.chans
      dies := fun d => by unfold State.die; rw [h.dies]
      accs := by rw [htk, hm]
      header := by rw [htk, hm]
      group := by rw [htk, hm]
      bases := by rw [htk, hm]
      modes := by rw [htk, hm]
      strands := fun i hi => by rw [h.strands i hi]; exact ⟨rfl, rfl, rfl, rfl⟩
      tasks := h.tasks
      tiles := fun i _ => by unfold State.tile; rw [h.tiles]
      presence := h.full
      keys := h.keytag
      rest := ⟨h.regions, h.loads, h.queues, h.pkgs, h.saved⟩ }

/-- The tokens that a word's POP takes: a command's are taken when it starts. -/
def popsAtIssue (core : CoreId) (i : Instr) : List (Nat × Nat) :=
  if (formOf core i).cmd.isSome then [] else ownPops core (fieldsOf i)

/-- No tokens and no queue entries leave the cycle's work as it was. -/
theorem with'_none (w : CycleWork) (who : StrandId) : w.with' {} who = w := by
  unfold CycleWork.with'
  cases who.core <;> simp

theorem Reads.unyielded (s : State) : Reads s s.unyielded [] [] :=
  { cur := rfl, clock := rfl, tiles := rfl, me := ⟨s.me.sources, me_unyielded s⟩
    work := (with'_none s.work s.cur.strand).symm
    tokens := fun k => by show s.myTask.token k = _; simp [pushSum]
    task := ⟨s.myTask.tokens, rfl⟩
    strands := fun i hi => strand_updStrand_ne _ _ hi
    tasks := fun _ _ => rfl
    mem := rfl, net := rfl, raises := rfl, ports := rfl, chans := rfl, dies := rfl, full := rfl, keytag := rfl, regions := rfl
    loads := rfl, queues := rfl, pkgs := rfl, saved := rfl, damaged := rfl, nextAccess := rfl }

/-- Ending what reads may combine with reads nothing more. -/
theorem Reads.endCombining {s u : State} {takes : List (Nat × Nat)} {pops : List QueueName} (h : Reads s u takes pops) (g : Option Nat) :
    Reads s (u.updStrand s.cur.strand (fun st => st.endCombining g)) takes pops := by
  obtain ⟨x, hx⟩ := h.me
  have hm : (u.updStrand s.cur.strand (fun st => st.endCombining g)).me = u.me.endCombining g := by
    rw [← h.cur]; exact me_updStrand u _
  exact
    { cur := h.cur, clock := h.clock, tiles := h.tiles, work := h.work, tokens := h.tokens, task := h.task
      me := ⟨_, by rw [hm, hx]; rfl⟩
      strands := fun i hi => by rw [strand_updStrand_ne _ _ hi]; exact h.strands i hi
      tasks := h.tasks, mem := h.mem, net := h.net, raises := h.raises, ports := h.ports, chans := h.chans, dies := h.dies
      full := h.full, keytag := h.keytag, regions := h.regions, loads := h.loads, queues := h.queues, pkgs := h.pkgs, saved := h.saved
      damaged := h.damaged, nextAccess := h.nextAccess }

theorem Reads.popped (s : State) (i : Instr) : Reads s (s.unyielded.popped i) (popsAtIssue s.cur.strand.core i) [] := by
  unfold State.popped popsAtIssue ownPops
  have hc : s.unyielded.cur = s.cur := rfl
  rw [hc]
  by_cases hcmd : (formOf s.cur.strand.core i).cmd.isSome = true
  · simpa [hcmd] using Reads.unyielded s
  · by_cases h0 : (tokenField (fieldsOf i).pop).2 = 0
    · simpa [hcmd, h0] using Reads.unyielded s
    · simp only [hcmd, h0, or_self, Bool.false_eq_true, if_false]
      set k := tokenIndex (tokenField (fieldsOf i).pop).1 s.cur.strand.core.engine
      set n := (tokenField (fieldsOf i).pop).2
      have hr := Reads.unyielded s
      have ht : (s.unyielded.popTokens s.cur.strand.task k n).myTask = s.myTask.setToken k (s.myTask.token k - n) :=
        task_updTask_same s.unyielded s.cur.strand.task (fun t => t.setToken k (t.token k - n))
      exact { cur := rfl, clock := rfl, tiles := rfl, me := hr.me
              work := by
                show ({ s.work with pops := s.work.pops ++ [(s.cur.strand.task, k, n)] } : CycleWork) = _
                unfold CycleWork.with'
                cases s.cur.strand.core <;> simp
              tokens := fun j => by
                rw [ht, token_setToken]
                have := token_lt s.myTask k
                by_cases hj : j = k
                · subst hj; simp [pushSum]; omega
                · simp [hj, pushSum, Ne.symm hj]
              task := ⟨_, by rw [ht]; rfl⟩
              strands := hr.strands
              tasks := fun _ hi => task_updTask_ne s.unyielded (fun t => t.setToken k (t.token k - n)) hi
              mem := rfl, net := rfl, raises := rfl, ports := rfl, chans := rfl, dies := rfl, full := rfl, keytag := rfl, regions := rfl
              loads := rfl, queues := rfl, pkgs := rfl, saved := rfl, damaged := rfl, nextAccess := rfl }

theorem Reads.begun (s : State) (i : Instr) : Reads s (s.begun i) (popsAtIssue s.cur.strand.core i) [] := by
  unfold State.begun
  dsimp only
  split
  · exact Reads.popped s i
  · exact (Reads.popped s i).endCombining none

/-! ## Sources -/

/-- Whether the queue of an operand still has an entry for it. -/
def State.supplies (s : State) (pops : List QueueName) (o : Opnd) : Prop :=
  ∀ q ∈ queueOf o, pops.count q < s.poppable s.cur.strand.task q

theorem sext_toInt (v : BitVec 8) : sext 8 v.toNat = v.toInt := by
  rw [BitVec.toInt_eq_toNat_cond]
  unfold sext
  have := v.isLt
  split <;> split <;> omega

/-- A source answers its value and pops what it names (R11, R12, R67). -/
theorem Reads.source {s u : State} {takes : List (Nat × Nat)} {pops : List QueueName} (h : Reads s u takes pops)
    (hp : s.cur.pair = none) (o : Opnd) (ho : s.supplies pops o) :
    ∃ u', Machine.source o u = .ok (s.valueOf pops o, u') ∧ Reads s u' takes (pops ++ queueOf o) := by
  have hcore : u.cur.strand.core = s.cur.strand.core := by rw [h.cur]
  obtain ⟨x, hx⟩ := h.me
  have hregs : u.me.regs = s.me.regs := by rw [hx]
  cases o with
  | reg i =>
    refine ⟨u, ?_, by simpa [queueOf] using h⟩
    simp [Machine.source, State.valueOf, hcore, hregs]
  | scalar hi i =>
    refine ⟨u, ?_, by simpa [queueOf] using h⟩
    simp [Machine.source, State.valueOf, hcore, hregs]
  | imm v =>
    refine ⟨u, ?_, by simpa [queueOf] using h⟩
    simp [Machine.source, State.valueOf, hcore, sext_toInt]
  | special k =>
    refine ⟨u, ?_, by simpa [queueOf] using h⟩
    have hw : u.wordAddr = s.me.pc := by
      unfold State.wordAddr
      rw [h.cur, hp, hx]
      rfl
    have hspec : u.special u.cur.strand u.wordAddr k.toNat = s.special s.cur.strand s.me.pc k.toNat := by
      obtain ⟨m, hm⟩ := h.task
      rw [hw, h.cur]
      unfold State.special State.cycleOf State.tile
      have h1 : u.strand s.cur.strand = { s.me with yielded := false, sources := x } := by rw [← hx]; unfold State.me; rw [h.cur]
      have h2 : u.task s.cur.strand.task = u.myTask := by unfold State.myTask; rw [h.cur]
      rw [h1, h2, hm, h.clock, h.tiles]
      rfl
    simp [Machine.source, State.valueOf, hspec]
  | queue k =>
    cases hq : queueOfCode k with
    | none =>
      refine ⟨u, ?_, by simpa [queueOf, hq] using h⟩
      simp [Machine.source, State.valueOf, hq]
    | some q =>
      have ho := ho q (by simp [queueOf, hq])
      obtain ⟨m, hm⟩ := h.task
      have hpop : u.myTask.pop q = some ((s.myTask.entries q).getD (pops.count q) 0,
          { s.myTask with tokens := m, aq := s.myTask.aq.drop ((pops ++ [q]).count .aq), bq := s.myTask.bq.drop ((pops ++ [q]).count .bq)
                          cq := s.myTask.cq.drop ((pops ++ [q]).count .cq) }) := by
        rw [hm]
        cases q
        · have : pops.count .aq < s.myTask.aq.length := lt_of_lt_of_le ho (Nat.sub_le _ _)
          have hd := List.drop_eq_getElem_cons this
          simp only [Task.pop, hd, Task.entries, List.count_append, List.count_singleton]
          simp [List.getD_eq_getElem?_getD, this]
        · have : pops.count .bq < s.myTask.bq.length := lt_of_lt_of_le ho (Nat.sub_le _ _)
          have hd := List.drop_eq_getElem_cons this
          simp only [Task.pop, hd, Task.entries, List.count_append, List.count_singleton]
          simp [List.getD_eq_getElem?_getD, this]
        · have : pops.count .cq < s.myTask.cq.length := lt_of_lt_of_le ho (Nat.sub_le _ _)
          have hd := List.drop_eq_getElem_cons this
          simp only [Task.pop, hd, Task.entries, List.count_append, List.count_singleton]
          simp [List.getD_eq_getElem?_getD, this]
      have hlen : 0 < u.poppable u.cur.strand.task q := by
        have hq1 : u.work.queued = s.work.queued := by rw [h.work]; simp [CycleWork.with']
        have hq2 : (u.task s.cur.strand.task).queueLen q = (s.task s.cur.strand.task).queueLen q - pops.count q := by
          have : u.task s.cur.strand.task = u.myTask := by unfold State.myTask; rw [h.cur]
          rw [this, hm]
          cases q <;> simp [Task.queueLen] <;> rfl
        unfold State.poppable at ho ⊢
        rw [h.cur, hq1, hq2]
        omega
      set nt : Task := { s.myTask with
          tokens := m, aq := s.myTask.aq.drop ((pops ++ [q]).count .aq), bq := s.myTask.bq.drop ((pops ++ [q]).count .bq)
          cq := s.myTask.cq.drop ((pops ++ [q]).count .cq) } with hnt
      set v : State := u.updTask u.cur.strand.task (fun _ => nt) with hv
      have hvc : v.cur = s.cur := h.cur
      set v2 : State := v.updStrand s.cur.strand (fun st => st.endCombining none) with hv2
      refine ⟨{ v2 with work := { v2.work with taken := v2.work.taken ++ [(s.cur.strand.task, q)] } }, ?_, ?_⟩
      · have hc2 : v2.cur = s.cur := h.cur
        simp [Machine.source, State.valueOf, hq, popQueue, hpop, hcore, hlen, ← hv, hvc, ← hv2, hc2]
      · have ht : v.myTask = nt := task_updTask_same u u.cur.strand.task _
        have h1 : Reads s { v with work := { v.work with taken := v.work.taken ++ [(s.cur.strand.task, q)] } } takes (pops ++ queueOf (.queue k)) :=
          { cur := h.cur, clock := h.clock, tiles := h.tiles, me := h.me
            work := by
              show ({ u.work with taken := u.work.taken ++ [(s.cur.strand.task, q)] } : CycleWork) = _
              rw [h.work]
              unfold CycleWork.with'
              cases s.cur.strand.core <;> simp [queueOf, hq]
            tokens := fun j => by
              have := h.tokens j
              rw [hm] at this
              show v.myTask.token j = _
              rw [ht]
              exact this
            task := ⟨m, by show v.myTask = _; rw [ht, hnt]; simp [queueOf, hq]⟩
            strands := h.strands
            tasks := fun i hi => by
              show v.task i = _
              rw [hv, task_updTask_ne _ _ (by rw [h.cur]; exact hi)]; exact h.tasks i hi
            mem := h.mem, net := h.net, raises := h.raises, ports := h.ports, chans := h.chans, dies := h.dies, full := h.full
            keytag := h.keytag, regions := h.regions, loads := h.loads, queues := h.queues, pkgs := h.pkgs, saved := h.saved
            damaged := h.damaged, nextAccess := h.nextAccess }
        exact h1.endCombining none

/-! ## Destinations -/

/-- What a body leaves alone in its strand and cursor. -/
structure Within (s u : State) : Prop where
  cur : u.cur = s.cur
  given : u.work.pushes = s.work.pushes
  taken : ∀ k, u.startToken s.cur.strand.task k = s.startToken s.cur.strand.task k
  status : u.me.status = s.me.status
  fences : u.me.fences = s.me.fences
  raises : u.raises = s.raises

/-- A sum of pushes over two lists. -/
theorem pushSum_append (a b : List (Nat × Nat)) (k : Nat) : pushSum (a ++ b) k = pushSum a k + pushSum b k := by simp [pushSum]

/-- What a word has only read leaves its strand's cycle as it stood, when it takes no more tokens than there are (R16). -/
theorem Reads.within {s u : State} {takes : List (Nat × Nat)} {pops : List QueueName} (h : Reads s u takes pops)
    (ht : ∀ k, pushSum takes k ≤ s.myTask.token k) : Within s u := by
  obtain ⟨x, hx⟩ := h.me
  refine ⟨h.cur, by rw [h.work]; simp [CycleWork.with'], fun k => ?_, by rw [hx], by rw [hx], h.raises⟩
  have h1 := h.tokens k
  have h2 := ht k
  have h3 : u.task s.cur.strand.task = u.myTask := by unfold State.myTask; rw [h.cur]
  have h4 : pushSum (ofTask s.cur.strand.task u.work.pops) k = pushSum (ofTask s.cur.strand.task s.work.pops) k + pushSum takes k := by
    rw [h.work]
    show pushSum (ofTask _ (s.work.pops ++ takes.map (fun p => (s.cur.strand.task, p.1, p.2)))) k = _
    rw [show ofTask s.cur.strand.task (s.work.pops ++ takes.map (fun p => (s.cur.strand.task, p.1, p.2))) = ofTask s.cur.strand.task s.work.pops ++ takes by
      unfold ofTask
      simp [List.filter_append, List.filter_map, Function.comp_def]]
    exact pushSum_append _ _ _
  unfold State.startToken
  rw [h3, h4, h1]
  show _ = s.myTask.token k + _
  omega

theorem latest_append {κ α : Type} [DecidableEq κ] (l : List (κ × α)) (x : κ × α) (k : κ) (d : α) :
    latest (l ++ [x]) k d = if x.1 = k then x.2 else latest l k d := by
  induction l generalizing d with
  | nil => rfl
  | cons y l ih => exact ih _

/-- A scalar register written (R67). -/
theorem Does.writeReg {e : Effect} {s u : State} (h : Does e s u) (hw : Within s u) (i : Nat) (v : Word64) :
    ∃ u', Machine.writeReg i v u = .ok (.unit, u') ∧
      Does { e with regs := e.regs ++ [(i, toWidth s.cur.strand.core v.toNat)] } s u' ∧ Within s u' := by
  set g : Strand → Strand := fun st => { st with regs := st.regs.set i (toWidth u.cur.strand.core v.toNat), badRegs := st.badRegs.filter (· ≠ i) } with hg
  have hc : u.cur.strand = s.cur.strand := by rw [hw.cur]
  have hsame : (u.updStrand u.cur.strand g).strand s.cur.strand = g (u.strand s.cur.strand) := by rw [hc]; exact strand_updStrand_same _ _ _
  refine ⟨u.updStrand u.cur.strand g, by simp [Machine.writeReg, hg], ?_, ?_⟩
  · exact
      { tokens := h.tokens, work := h.work
        regs := fun r => by
          rw [hsame, latest_append]
          show (Map.set _ _ _).get r 0 = _
          rw [Map.get_set, hc, h.regs r]
          by_cases hr : r = i
          · subst hr; simp
          · rw [if_neg hr, if_neg (Ne.symm hr)]
        preds := fun k hk => by rw [hsame]; exact h.preds k hk
        vecs := h.vecs, masks := h.masks, nfs := h.nfs, counters := h.counters, queues := h.queues, memory := h.memory
        net := h.net, raises := h.raises, serac := h.serac, moraine := h.moraine, slots := h.slots
        stack := by rw [hsame]; exact h.stack
        fault := by rw [hsame]; exact h.fault
        depth := by rw [hsame]; exact h.depth
        fences := by rw [hsame]; exact h.fences
        ports := h.ports, chans := h.chans, dies := h.dies, accs := h.accs, header := h.header, group := h.group
        bases := h.bases, modes := h.modes
        strands := fun j hj => by rw [strand_updStrand_ne _ _ (by rw [hc]; exact hj)]; exact h.strands j hj
        tasks := h.tasks, tiles := h.tiles, presence := h.presence, keys := h.keys, rest := h.rest }
  · have hme : (u.updStrand u.cur.strand g).me = g u.me := me_updStrand _ _
    exact ⟨hw.cur, hw.given, hw.taken, by rw [hme]; exact hw.status, by rw [hme]; exact hw.fences, hw.raises⟩

/-- Whether a destination has room: it is no full queue (R13). -/
def State.takesIn (s u : State) (d : Opnd) : Prop :=
  ∀ q ∈ queueOf d, u.myTask.queueLen q + s.raisesInto s.cur.strand q < queueCap q

/-- An entry pushed (R12, R13). -/
theorem Does.pushQueue {e : Effect} {s u : State} (h : Does e s u) (hw : Within s u) (q : QueueName) (v : Word64)
    (hroom : u.myTask.queueLen q + s.raisesInto s.cur.strand q < queueCap q) :
    ∃ u', Machine.pushQueue q v u = .ok (.unit, u') ∧ Does { e with pushes := e.pushes ++ [(q, v)] } s u' ∧ Within s u' := by
  have hc : u.cur.strand = s.cur.strand := by rw [hw.cur]
  have hr : u.raisesInto u.cur.strand q = s.raisesInto s.cur.strand q := by unfold State.raisesInto; rw [hw.raises, hc]
  set v1 : State := u.updTask u.cur.strand.task (fun t => t.push q v) with hv1
  have hc1 : v1.cur = s.cur := hw.cur
  refine ⟨{ v1 with work := { v1.work with queued := v1.work.queued ++ [(s.cur.strand.task, q)] } },
    by simp [Machine.pushQueue, hr, hroom, ← hv1, hc1], ?_, ?_⟩
  · have keep : ∀ t : Task, (t.push q v).tokens = t.tokens ∧ (t.push q v).v = t.v ∧ (t.push q v).k = t.k ∧ (t.push q v).nf = t.nf ∧
        (t.push q v).serac = t.serac ∧ (t.push q v).moraine = t.moraine ∧ (t.push q v).slots = t.slots ∧ (t.push q v).acc = t.acc ∧
        (t.push q v).hdr = t.hdr ∧ (t.push q v).group = t.group ∧ (t.push q v).tmBase = t.tmBase ∧ (t.push q v).vBase = t.vBase ∧
        (t.push q v).evBase = t.evBase ∧ (t.push q v).mode = t.mode ∧ (t.push q v).oscale = t.oscale ∧ (t.push q v).strides = t.strides ∧
        (t.push q v).status = t.status := by
      intro t; cases q <;> exact ⟨rfl, rfl, rfl, rfl, rfl, rfl, rfl, rfl, rfl, rfl, rfl, rfl, rfl, rfl, rfl, rfl, rfl⟩
    have ht : ({ v1 with work := { v1.work with queued := v1.work.queued ++ [(s.cur.strand.task, q)] } } : State).task s.cur.strand.task =
        (u.task s.cur.strand.task).push q v := by
      show v1.task s.cur.strand.task = _
      rw [hv1, hc]; exact task_updTask_same _ _ _
    obtain ⟨k1, k2, k3, k4, k5, k6, k7, k8, k9, k10, k11, k12, k13, k14, k15, k16, k17⟩ := keep (u.task s.cur.strand.task)
    exact
      { tokens := fun k => by rw [ht]; unfold Task.token; rw [k1]; exact h.tokens k
        work := by
          show ({ u.work with queued := u.work.queued ++ [(s.cur.strand.task, q)] } : CycleWork) = _
          rw [h.work]
          unfold CycleWork.with'
          cases s.cur.strand.core <;> simp
        regs := h.regs, preds := h.preds
        vecs := fun n => by rw [ht, k2]; exact h.vecs n
        masks := fun n => by rw [ht, k3]; exact h.masks n
        nfs := fun n => by rw [ht, k4]; exact h.nfs n
        counters := h.counters
        queues := fun hs p => by
          rw [ht, k17] at hs
          have := h.queues hs p
          rw [ht]
          have he : ((u.task s.cur.strand.task).push q v).entries p = (u.task s.cur.strand.task).entries p ++ (if q == p then [entryOf p v] else []) := by
            cases q <;> cases p <;> simp [Task.push, Task.entries, entryOf]
          rw [he, this]
          by_cases hqp : (q == p) = true
          · simp [hqp, List.filter_append]
          · simp [hqp, List.filter_append]
        memory := h.memory, net := h.net, raises := h.raises
        serac := by rw [ht, k5]; exact h.serac
        moraine := by rw [ht, k6]; exact h.moraine
        slots := fun n => by rw [ht, k7]; exact h.slots n
        stack := h.stack, fault := h.fault, depth := h.depth, fences := h.fences, ports := h.ports, chans := h.chans, dies := h.dies
        accs := by rw [ht, k8]; exact h.accs
        header := by rw [ht, k9]; exact h.header
        group := by rw [ht, k10]; exact h.group
        bases := by rw [ht, k11, k12, k13]; exact h.bases
        modes := by rw [ht, k14, k15, k16]; exact h.modes
        strands := h.strands
        tasks := fun j hj => by
          show v1.task j = _
          rw [hv1, task_updTask_ne _ _ (by rw [hc]; exact hj)]; exact h.tasks j hj
        tiles := h.tiles, presence := h.presence, keys := h.keys, rest := h.rest }
  · refine ⟨hw.cur, hw.given, fun k => ?_, hw.status, hw.fences, hw.raises⟩
    have h1 : v1.task s.cur.strand.task = (u.task s.cur.strand.task).push q v := by rw [hv1, hc]; exact task_updTask_same _ _ _
    have h2 : ∀ t : Task, (t.push q v).token k = t.token k := by intro t; cases q <;> rfl
    rw [← hw.taken k]
    unfold State.startToken
    show (v1.task s.cur.strand.task).token k + _ = _
    rw [h1, h2]
    rfl

/-- A result in its destination (R12, R67). -/
theorem Does.destine {e : Effect} {s u : State} (h : Does e s u) (hw : Within s u) (d : Opnd) (v : Word64) (hroom : s.takesIn u d) :
    ∃ u', Machine.destine d v u = .ok (.unit, u') ∧ Does (e.toDest s.cur.strand.core d v) s u' ∧ Within s u' := by
  have hc : u.cur.strand.core = s.cur.strand.core := by rw [hw.cur]
  cases d with
  | reg i =>
    obtain ⟨u', h1, h2, h3⟩ := h.writeReg hw i.toNat v
    exact ⟨u', by simp [Machine.destine, h1], h2, h3⟩
  | scalar hi i =>
    obtain ⟨u', h1, h2, h3⟩ := h.writeReg hw i.toNat v
    exact ⟨u', by simp [Machine.destine, h1], h2, h3⟩
  | imm x => exact ⟨u, by simp [Machine.destine], h, hw⟩
  | special x => exact ⟨u, by simp [Machine.destine], h, hw⟩
  | queue k =>
    cases hq : queueOfCode k with
    | none => exact ⟨u, by simp [Machine.destine, hq], by simpa [Effect.toDest, hq] using h, hw⟩
    | some q =>
      obtain ⟨u', h1, h2, h3⟩ := h.pushQueue hw q (toWidth s.cur.strand.core v.toNat) (hroom q (by simp [queueOf, hq]))
      exact ⟨u', by simp [Machine.destine, hq, hc, h1], by simpa [Effect.toDest, hq] using h2, h3⟩

/-! ## Completion -/

theorem Does.ended {e : Effect} {s u : State} (h : Does e s u) (i : Instr) : Does e s (u.ended s i) := by
  have hs := strand_ended u s i
  have ht := task_ended u s i
  have hx : ∀ {β : Type} (f : State → β), (∀ v : State, (∀ g, f (v.updStrand u.cur.strand g) = f v)) → (∀ v : State, ∀ g, f (v.updCur g) = f v) →
      f (u.ended s i) = f u := by
    intro β f h1 h2
    unfold State.ended State.tainted
    dsimp only
    split <;> split <;> simp [h1, h2]
  obtain ⟨x, hme⟩ := hs s.cur.strand
  exact
    { tokens := fun k => by rw [ht]; exact h.tokens k
      work := by rw [work_ended]; exact h.work
      regs := fun r => by rw [hme]; exact h.regs r
      preds := fun k hk => by rw [hme]; exact h.preds k hk
      vecs := fun n => by rw [ht]; exact h.vecs n
      masks := fun n => by rw [ht]; exact h.masks n
      nfs := fun n => by rw [ht]; exact h.nfs n
      counters := fun n => by
        have : (u.ended s i).tiles = u.tiles := hx State.tiles (fun _ _ => rfl) (fun _ _ => rfl)
        unfold State.counter State.tile; rw [this]; exact h.counters n
      queues := fun hr q => by rw [ht] at hr ⊢; exact h.queues hr q
      memory := fun a => by rw [hx State.mem (fun _ _ => rfl) (fun _ _ => rfl)]; exact h.memory a
      net := by rw [hx State.net (fun _ _ => rfl) (fun _ _ => rfl)]; exact h.net
      raises := by rw [hx State.raises (fun _ _ => rfl) (fun _ _ => rfl)]; exact h.raises
      serac := by rw [ht]; exact h.serac
      moraine := by rw [ht]; exact h.moraine
      slots := fun n => by rw [ht]; exact h.slots n
      stack := by rw [hme]; exact h.stack
      fault := by rw [hme]; exact h.fault
      depth := by rw [hme]; exact h.depth
      fences := by rw [hme]; exact h.fences
      ports := by rw [hx State.ports (fun _ _ => rfl) (fun _ _ => rfl)]; exact h.ports
      chans := by rw [hx State.chans (fun _ _ => rfl) (fun _ _ => rfl)]; exact h.chans
      dies := fun d => by rw [hx (fun v => v.die d) (fun _ _ => rfl) (fun _ _ => rfl)]; exact h.dies d
      accs := by rw [ht]; exact h.accs
      header := by rw [ht]; exact h.header
      group := by rw [ht]; exact h.group
      bases := by rw [ht]; exact h.bases
      modes := by rw [ht]; exact h.modes
      strands := fun j hj => by
        obtain ⟨y, hy⟩ := hs j
        rw [hy]; exact h.strands j hj
      tasks := fun j hj => by rw [ht]; exact h.tasks j hj
      tiles := fun j hj => by rw [hx (fun v => v.tile j) (fun _ _ => rfl) (fun _ _ => rfl)]; exact h.tiles j hj
      presence := by rw [hx State.full (fun _ _ => rfl) (fun _ _ => rfl)]; exact h.presence
      keys := by rw [hx State.keytag (fun _ _ => rfl) (fun _ _ => rfl)]; exact h.keys
      rest := ⟨(hx State.regions (fun _ _ => rfl) (fun _ _ => rfl)).trans h.rest.1, (hx State.loads (fun _ _ => rfl) (fun _ _ => rfl)).trans h.rest.2.1,
        (hx State.queues (fun _ _ => rfl) (fun _ _ => rfl)).trans h.rest.2.2.1, (hx State.pkgs (fun _ _ => rfl) (fun _ _ => rfl)).trans h.rest.2.2.2.1,
        (hx State.saved (fun _ _ => rfl) (fun _ _ => rfl)).trans h.rest.2.2.2.2⟩ }

/-- The tokens that a word's PUSH gives when it retires: a command's are given when it completes. -/
def pushesAtIssue (core : CoreId) (i : Instr) : List (Nat × Nat) :=
  if (formOf core i).cmd.isSome then [] else ownPushes core (fieldsOf i)

/-- A word that issues completes with the effect of its body and its PUSH. -/
theorem issue_does {i : Instr} {body : M Flow} {s u : State} {flow : Flow} {e : Effect} (h : Issues i s)
    (hb : body (s.begun i) = .ok (flow, u)) (hd : Does e s u) (hw : Within s u) :
    ∃ t, issue i body s = .next t ∧ Does { e with gives := e.gives ++ pushesAtIssue s.cur.strand.core i } s t := by
  have hn := issue_next h hb (by rw [hw.cur]) (by rw [hw.cur]; exact h.pushes) hw.fences hw.status hw.given hw.taken
  refine ⟨_, hn, ?_⟩
  have hc := cur_ended u s i
  have hcp : (u.ended s i).cur.pushes = pushesAtIssue s.cur.strand.core i := by
    rw [hc, hw.cur, h.pushes]; rfl
  have hr := (hd.ended i).retired (ws := [s.me.pc]) (a := s.me.pc) (y := (fieldsOf i).yld || (u.ended s i).me.yielded)
    (flow := flow) (by rw [hc, hw.cur])
  rw [hcp, show (u.ended s i).cur.evSets = [] by rw [hc, hw.cur]; exact h.sets, show (u.ended s i).cur.evAdds = [] by rw [hc, hw.cur]; exact h.adds] at hr
  simpa using hr

end Sys2Proof.Machine
end

