-- ==== Sys2Proof/Machine/Consistency.lean ====
section
/-! DEFINITION. Which outcomes of a run's accesses the manual allows (R268 to R279): the order that each rule gives, the fence edges that a
scope keeps, and the performance order. A case is a list of accesses with the values they read and write. The machine's own events perform
accesses one by one and keep every one of these orders (GlobalEvents, MoraineRun, Issue); this file says what a program may rely on. -/

namespace Sys2Proof.Machine

/-! ## Parties and scopes (R270) -/

/-- Who performs accesses: an observer of R270. -/
inductive Observer where
  | strand (w : StrandId)
  | command (i : TaskId) (e : Engine) (seq : Nat)
  | region (r : RegionId)
  | host (f : HostFn)
deriving DecidableEq, Repr

/-- The task of an observer, where it has one. -/
def Observer.task : Observer → Option TaskId
  | .strand w => some w.task
  | .command i _ _ => some i
  | _ => none

/-- The die of an observer, where it has one. -/
def Observer.die : Observer → Option Nat
  | .strand w => some w.die
  | .command i _ _ => some i.die
  | .region r => some r.die
  | .host _ => none

/-- An observer with its owner domain. -/
structure Party where
  who : Observer
  domain : BitVec 8 := 0
deriving DecidableEq, Repr

/-- Whether a fence's scope contains a party, seen from the party that fences (R270). -/
def Scope.holds (sc : Scope) (own p : Party) : Bool :=
  match sc with
  | .task => p.who.task.isSome && p.who.task == own.who.task
  | .tile => p.who.task.isSome && p.who.task.map TaskId.tileId == own.who.task.map TaskId.tileId
  | .die => p.who.die.isSome && p.who.die == own.who.die
  | .package => p.who.die.isSome && p.who.die.map (· / 8) == own.who.die.map (· / 8)
  | .domain => p.domain == own.domain

/-! ## Accesses of a case (R268) -/

/-- An access: who performs it and at which place of its program order, the bytes it reads and writes with their values, and what it hangs on. -/
structure MemAccess where
  num : Nat
  by_ : Party
  pos : Nat := 0
  kind : AccessKind := .ldg
  /-- A tile-local access of a strand. -/
  inTile : Bool := false
  reads : List (Nat × Nat) := []
  writes : List (Nat × Nat) := []
  /-- Reads that its address or data depends on through registers (R274). -/
  data : List Nat := []
  /-- LDCs and PLDs that taint its address (R275). -/
  taint : List Nat := []
  /-- The LDG that it combines with (R273). -/
  source : Option Nat := none
  /-- The granule's write that an STF's increment follows (R281). -/
  flagOf : Option Nat := none
  /-- Of a command's access: the strand that issued the command, and where. -/
  issuer : Option (Observer × Nat) := none
deriving DecidableEq, Repr

/-- A fence of a strand. -/
structure CaseFence where
  by_ : Party
  pos : Nat
  scope : Scope
deriving DecidableEq, Repr

/-- An arc (R277): from a strand's place, or a command's completion, to a strand's place or a command's start. -/
structure CaseArc where
  src : Observer
  srcPos : Nat := 0
  dst : Observer
  dstPos : Nat := 0
deriving DecidableEq, Repr

/-- The accesses, fences and arcs of a run; a byte that `init` does not list is 0 at first. -/
structure Case where
  accesses : List MemAccess
  fences : List CaseFence := []
  arcs : List CaseArc := []
  init : List (Nat × Nat) := []
deriving DecidableEq, Repr

/-- An order between two accesses, with the fence it comes from. -/
structure OrderEdge where
  before : Nat
  after : Nat
  fence : Option CaseFence := none
deriving DecidableEq, Repr

/-! ## The orders (R272 to R279, R281) -/

/-- Whether a fence spans planes: one of tile scope or wider on Dawn (R261, R276). -/
def CaseFence.spans (f : CaseFence) : Bool := f.scope != .task && (match f.by_.who with | .strand w => w.core == .dawn | _ => false)

/-- Whether two accesses share a byte. -/
def MemAccess.meets (a b : MemAccess) : Bool := (a.reads ++ a.writes).any (fun x => (b.reads ++ b.writes).any (fun y => x.1 == y.1))

/-- Whether a strand's access stands before, or after, a place of its program order. -/
def MemAccess.precedes (a : MemAccess) (who : Observer) (pos : Nat) : Bool := decide (a.by_.who = who) && decide (a.pos < pos)
def MemAccess.follows (a : MemAccess) (who : Observer) (pos : Nat) : Bool := decide (a.by_.who = who) && decide (pos < a.pos)

/-- R276: the edges that a fence gives two accesses. -/
def CaseFence.orders (f : CaseFence) (a b : MemAccess) : Bool :=
  a.precedes f.by_.who f.pos &&
  ((b.follows f.by_.who f.pos && (if a.inTile then b.inTile else f.spans && !b.inTile)) ||
   (match b.issuer with | some i => decide (i.1 = f.by_.who) && decide (f.pos < i.2) && (a.inTile || f.spans) | none => false))

/-- R278: whether an arc's source carries an access, and the fence that makes it carry a global one. -/
def Case.carried (x : Case) (r : CaseArc) (a : MemAccess) : List (Option CaseFence) :=
  if a.by_.who ≠ r.src then []
  else
    match r.src with
    | .strand _ =>
      if r.srcPos < a.pos then []
      else if a.inTile then [none]
      else (x.fences.filter (fun f => decide (f.by_.who = r.src) && f.spans && decide (a.pos < f.pos) && decide (f.pos ≤ r.srcPos))).map some
    | _ => [none]

/-- R277: whether an arc's target orders an access after it. -/
def CaseArc.reaches (r : CaseArc) (b : MemAccess) : Bool :=
  decide (b.by_.who = r.dst) && (match r.dst with | .strand _ => decide (r.dstPos < b.pos) | _ => true)

/-- Every edge from one access to another. -/
def Case.edgesBetween (x : Case) (a b : MemAccess) : List OrderEdge :=
  let plain (c : Bool) : List OrderEdge := if c then [⟨a.num, b.num, none⟩] else []
  plain (decide (a.by_.who = b.by_.who) && decide (a.pos < b.pos) && a.meets b) ++
  plain (b.data.contains a.num && !b.writes.isEmpty) ++
  plain (b.taint.contains a.num) ++
  plain (b.flagOf == some a.num) ++
  (x.fences.filter (fun f => f.orders a b)).map (fun f => ⟨a.num, b.num, some f⟩) ++
  (x.arcs.filter (fun r => r.reaches b)).flatMap (fun r => (x.carried r a).map (fun f => ⟨a.num, b.num, f⟩))

/-- Every edge of a case. -/
def Case.edges (x : Case) : List OrderEdge := x.accesses.flatMap (fun a => x.accesses.flatMap (fun b => if a.num = b.num then [] else x.edgesBetween a b))

/-- Bytes that the strand of a fence, or a command it has issued, writes on either side of it. -/
def Case.writtenBy (x : Case) (f : CaseFence) : List Nat :=
  (x.accesses.filter (fun a => decide (a.by_.who = f.by_.who) || (match a.issuer with | some i => decide (i.1 = f.by_.who) | none => false))).flatMap
    (fun a => a.writes.map Prod.fst)

/-- R271, read fence by fence (DEDUCED, log entry 42): whether every initiator that reads a location written on the other side of a fence lies within its scope. -/
def Case.keeps (x : Case) (f : CaseFence) : Bool :=
  let ws := x.writtenBy f
  x.accesses.all (fun a => !a.reads.any (fun r => ws.contains r.1) || decide (a.by_.who = f.by_.who) || f.scope.holds f.by_ a.by_)

/-- The edges left after R271. -/
def Case.kept (x : Case) : List OrderEdge := x.edges.filter (fun e => match e.fence with | some f => x.keeps f | none => true)

/-! ## Read combining (R273) -/

/-- Whether an access may combine with an earlier LDG: its strand's, of its granule, itself untainted, with nothing between that ends combining. -/
def Case.mayCombine (x : Case) (b : MemAccess) (n : Nat) : Bool :=
  match x.accesses.find? (fun a => a.num == n) with
  | none => false
  | some a =>
    let granule (m : MemAccess) : List Nat := (m.reads ++ m.writes).map (fun p => granuleOf p.1)
    let between (m : MemAccess) : Bool := m.follows b.by_.who a.pos && m.precedes b.by_.who b.pos
    a.kind == .ldg && b.kind == .ldg && !a.inTile && !b.inTile && a.precedes b.by_.who b.pos && b.taint.isEmpty && granule b == granule a &&
    !x.accesses.any (fun m => between m && (m.kind == .ldc || m.kind == .pld || (!m.inTile && !m.writes.isEmpty && (granule m).any (granule a).contains))) &&
    !x.fences.any (fun f => decide (f.by_.who = b.by_.who) && decide (a.pos < f.pos) && decide (f.pos < b.pos))

/-! ## The performance order (R268) -/

/-- What a byte holds. -/
def byteNow (m : List (Nat × Nat)) (a : Nat) : Nat := ((m.find? (fun p => p.1 == a)).map Prod.snd).getD 0

/-- Whether an access reads what memory holds. -/
def MemAccess.agrees (a : MemAccess) (m : List (Nat × Nat)) : Bool := a.reads.all (fun r => byteNow m r.1 == r.2)

/-- Whether the accesses that are left can be performed, one access next and its combined reads with it, each edge kept and each read
returning the last write. -/
def Case.performs (x : Case) (edges : List OrderEdge) : Nat → List MemAccess → List (Nat × Nat) → Bool
  | 0, left, _ => left.isEmpty
  | fuel + 1, left, m =>
    left.isEmpty ||
    (left.filter (fun a => a.source.isNone)).any (fun a =>
      let now := left.filter (fun b => b.num == a.num || b.source == some a.num)
      let rest := left.filter (fun b => !(b.num == a.num || b.source == some a.num))
      now.all (fun b => b.agrees m) &&
      edges.all (fun e => !(now.any (fun b => b.num == e.after) && rest.any (fun b => b.num == e.before))) &&
      x.performs edges fuel rest (a.writes ++ m))

/-- R268: whether an outcome is allowed, each read having been performed by itself or combined as the case says. -/
def Case.allowed (x : Case) : Bool :=
  x.accesses.all (fun b => match b.source with | some n => x.mayCombine b n | none => true) &&
  x.performs x.kept (x.accesses.length + 1) x.accesses x.init

end Sys2Proof.Machine
end

