-- ==== Sys2Proof/Tests/Slice0.lean ====
section
/-! SUPPORT. Tests: terms that WellFormed refuses, words of the manual, litmus cases of the consistency model, single steps with results computed by hand from
the rules named, and for each statement with hypotheses states and operands that meet them. -/

namespace Sys2Proof.Tests
open Sys2Proof Sys2Proof.Machine

set_option maxRecDepth 100000
set_option Elab.async false
set_option linter.unusedVariables false

theorem test_reset_memory : Memory.wf State.reset.mem = true := by decide

/-! ## A small world -/

/-- The bytes of a number from an address on, without the zeros. -/
def cellsOf (x : Nat × Nat × Nat) : List Host.Cell :=
  (List.range x.2.1).filterMap (fun k => let b := x.2.2 / 256 ^ k % 256; if b = 0 then none else some (x.1 + k, BitVec.ofNat 8 b))

/-- A section header (R18): its number and its length in words. -/
def sectionHeader (num len : Nat) : Nat := 9 * 2 ^ 60 + num * 2 ^ 50 + len * 2 ^ 40

/-- Where the program image of the world begins, and its three words. -/
def imageAt : Nat := 0x10000

/-- The memory of the world (address, bytes, value): one leaf that maps the first GiB to itself and its root table, a program image (R25) with a section 5 of
three words and a section 7 of two, a data segment of 8 bytes, a load descriptor (R222) with a grid of three indices on one tile and a table of one layout
record, a graph of one load (R221) and a queue entry (R219), and two descriptors in the memory of tile 0 (R307). -/
def worldWords : List (Nat × Nat × Nat) :=
  [(0x2000, 8, 0xFF * 2 ^ 56 + 0x83),
   (0x10000, 8, 0xD7 * 2 ^ 56 + 1 * 2 ^ 52 + 7 * 2 ^ 49 + 7 * 2 ^ 46 + 16 * 2 ^ 35 + 8 * 2 ^ 30 + 8 * 2 ^ 23 + 4 * 2 ^ 19 + 0x0F * 2 ^ 11 + 0x0F * 2 ^ 3),
   (0x10008, 8, 2 * 2 ^ 52 + 2 * 2 ^ 40 + 2 * 2 ^ 28), (0x10010, 8, 48), (0x10018, 8, 48), (0x10020, 8, 256 * 2 ^ 24 + 8),
   (0x10030, 8, sectionHeader 5 3), (0x10060, 8, sectionHeader 7 2), (0x10080, 8, 15 * 2 ^ 60), (0x10100, 8, 0x0807060504030201),
   (0x20000, 8, 0xDA * 2 ^ 56 + 1 * 2 ^ 52 + 1 * 2 ^ 32 + 1 * 2 ^ 23), (0x20008, 8, 1 * 2 ^ 15), (0x20010, 8, 0x20300), (0x20018, 8, 0x20100), (0x20020, 8, 0x20200),
   (0x20100, 8, imageAt), (0x20108, 8, 3 * 2 ^ 32), (0x20300, 8, 0x1234),
   (0x20400, 8, 0xD9 * 2 ^ 56 + 1 * 2 ^ 52), (0x20408, 8, 0x20700), (0x20440, 8, 0x20000), (0x20500, 8, 0x20400),
   (0x30000, 8, 0x55),
   (0x100000, 8, 0x2001)]

def worldMem : List Host.Cell := worldWords.flatMap cellsOf

/-- The header of the world's programs. -/
def worldHeader : ProgHeader :=
  { aregs := 64, sregs := 64, vframe := 16, masks := 8, events := 8, accs := 4, inports := 0x0F, outports := 0x0F, tilemem := 2, astack := 2, sstack := 2
    dawnEntry := 48, duskEntry := 48, dataoff := 256, datasize := 8 }

def theLoad : LoadId := ⟨0, 0, 0⟩
def theTask : TaskId := ⟨0, 0, 0⟩
def dawn : StrandId := ⟨0, 0, 0, .dawn⟩
def dusk : StrandId := ⟨0, 0, 0, .dusk⟩

/-- A strand of the world at the first word of its section, with a few registers. -/
def worldStrand (c : CoreId) : Strand :=
  { status := .ready, pc := 0x10038, sect := 5, sectStart := 0x10038, sectLen := 3
    regs := ⟨[(1, 6), (2, 3), (3, 0x20000), (4, 0x1000), (5, 0x10068), (6, 8)]⟩
    stkbase := match c with | .dusk => 0x2000 | .dawn => 0x1E00, stklim := match c with | .dusk => 0x1E00 | .dawn => 0x1C00 }

def worldTask : Task :=
  { status := .running, started := true, load := theLoad, image := BitVec.ofNat 64 imageAt, hdr := worldHeader, accTiles := [0, 1, 2, 3], nf := ⟨[(0, 0x24)]⟩ }

def worldLoad : Load :=
  { status := .running, va := 0x20000, lrtab := 0x20300, lrcount := 1, lrparts := [⟨2, BitVec.ofNat 64 (0xFF * 2 ^ 56 + 0x83), 1⟩]
    grids := [{ base := BitVec.ofNat 64 imageAt, count := 3, next := 1, hdr := worldHeader }], tiles := [⟨⟨0, 0⟩, 0⟩] }

def worldDie : Die := { roots := ⟨[(0, 0x100000)]⟩, pwrtile := 3, pwrreg := 3 }

/-- A cached leaf of 64 KiB for block b. -/
def leafAt (b : Nat) (pa flags : Nat) : TransEntry := { domain := 0, block := b, level := 3, leaf := BitVec.ofNat 64 (0xFF * 2 ^ 56 + pa + flags) }

/-- Blocks 2 to 5 of domain 0 as tile 0 has them: memory that is cached and written, presence words, tile memory of tile 0, and its event counters. -/
def worldTile : Tile :=
  { tcache := [leafAt 2 0x20000 0x87, leafAt 3 0x30000 0xC3, leafAt 4 tileWindow 0x93, leafAt 5 (tileWindow + 0xC00000) 0x93] }

/-- One die with one running load, one task on tile 0 and its two strands; the cursor at a strand. -/
def world (c : CoreId) : State :=
  { State.reset with
    clock := 100, mem := worldMem, cur := { strand := ⟨0, 0, 0, c⟩ }
    strands := ⟨[(dawn, worldStrand .dawn), (dusk, worldStrand .dusk)]⟩, tasks := ⟨[(theTask, worldTask)]⟩, tiles := ⟨[(⟨0, 0⟩, worldTile)]⟩
    loads := ⟨[(theLoad, worldLoad)]⟩, dies := ⟨[(0, worldDie)]⟩, pkgs := ⟨[(0, { valid := true, boot := .running })]⟩
    queues := ⟨[(⟨0, 0⟩, { base := 0x20500, enable := true, logsize := 4 })]⟩ }

/-- The world with what an event concerns. -/
def worldEvent (x : EventArgs) : State := { world .dawn with event := x }
/-! ## States in which events run -/

/-- What an event about a strand of the world names. -/
def about (w : StrandId) : EventArgs := { who := w }

/-- A strand of the world changed. -/
def withStrand (w : StrandId) (f : Strand → Strand) (x : EventArgs := about w) : State := (worldEvent x).updStrand w f
def withTask (f : Task → Task) (x : EventArgs := about dawn) : State := (worldEvent x).updTask theTask f
def withLoad (f : Load → Load) (x : EventArgs := { load := theLoad }) : State := (worldEvent x).updLoad theLoad f
def withDie (f : Die → Die) (x : EventArgs := {}) : State := (worldEvent x).updDie 0 f

-- StrandEvents
def sSuspended : State := withStrand dawn (fun x => { x with status := .parked, park := some { counter := some 1, threshold := 2, cont := 0x10044, woken := true } })
def sHeldLong : State := withStrand dawn (fun x => { x with status := .held, heldCount := 4097, heldBy := some (.token 3) })
def sCmdq : State := withStrand dawn (fun x => { x with status := .held, heldCount := 4097, heldBy := some (.slots .serac), cmdqOnly := true })
def sParkedAuto : State := withStrand dawn (fun x => { x with status := .parked, park := some { causes := [(.token 3, 9)] } })
def sRaised : State := { worldEvent { access := 4 } with raises := [{ num := 4, who := dawn, load := theLoad, grid := 0, value := 9, dest := .reg 7 }] }

-- AccessesPerformed
def anAccess (k : AccessKind) (pa : Nat) : Access :=
  { num := 7, who := dawn, addr := 0x10038, kind := k, va := BitVec.ofNat 64 pa, pa := pa, size := 8, signed := false, plane := 0, data := 5, dest := some 7 }
def sAccess (a : Access) : State := { worldEvent { who := dawn, access := 7 } with net := [a] }
def sPerform : List State :=
  ([AccessKind.ldg, .ldc, .pref, .stg, .atadd, .atand, .ator, .atxor, .atmin, .atmax, .atswp, .atcas, .atfadd, .atfmax, .amaxx, .prst, .stf].map (fun k => sAccess (anAccess k 0x20100))) ++
  [sAccess { anAccess .atcas 0x20100 with expect := 0x10000 }, { sAccess (anAccess .pld 0x30000) with full := [0x30000] }, sAccess (anAccess .pld 0x30000),
   sAccess (anAccess .pst 0x30000), { sAccess (anAccess .pst 0x30000) with full := [0x30000] }]
def sFlagMemory : State := { worldEvent { who := dawn, access := 7, flag := true } with net := [{ anAccess .stf 0x20100 with stage := .flag, flagPa := 0x20200 }] }
def sFlagCounter : State := { worldEvent { who := dawn, access := 7, flag := true } with net := [{ anAccess .stf 0x20100 with stage := .flag, flagPa := counterPa ⟨0, 0⟩ 2, flagEv := true }] }

-- AnswersArrive
def sReply : State := sAccess { anAccess .ldg 0x20100 with stage := .done, reply := 77 }
def sAck : State := sAccess { anAccess .stg 0x20100 with stage := .done }

-- FencesWalksAndRecords
def sFence : State := { withStrand dawn (fun x => { x with fences := [{ lfence := false, before := 7, pushes := [(0, 1)] }] }) with net := [anAccess .stg 0x20100] }
def sLfence : State := { withStrand dawn (fun x => { x with fences := [{ lfence := true, before := 7 }] }) with net := [anAccess .ldg 0x20100] }
def sWalk : State := withStrand dawn (fun x => { x with walk := some 1 })
def sWalkFails : State := withStrand dawn (fun x => { x with walk := some 0x4000 })
def sFill : State := worldEvent { who := dawn, load := theLoad, handle := 0 }

-- engines
def plainWord : Fields :=
  { fmt := 0, mod := 0, g0 := 0, g1 := 0, pop := 0, push := 0, hint := 0, dual := false, yld := false, d := .reg 0, a := .reg 0, b := .reg 0, c := .reg 0, e := 0 }
def aCommand (i : Instr) : Command := { seq := 3, instr := i, addr := 0x10038 }
def seracAt (cs : List Command) (f : Task → Task := id) (x : EventArgs := about dusk) : State :=
  withTask (fun t => f { t with serac := { queue := cs, nextSeq := 9 }, tokens := ⟨[(1, 2)]⟩ }) x
def moraineAt (cs : List Command) (f : Task → Task := id) (x : EventArgs := { who := dawn, command := 3 }) : State :=
  withTask (fun t => f { t with moraine := { queue := cs, nextSeq := 9 } }) x
def sSeracStart : State := seracAt [aCommand (.saccz { plainWord with pop := 1 })]
def started (c : Command) : Command := { c with started := true, popTaken := true }
/-- A cell of a stream with a value. -/
def ones : List Tok := (List.range 128).map (fun _ => .elem 0x3F80)
def inPort (n : Nat) : PortId := tilePort ⟨0, 0⟩ false n
def aChannel (ty : Word32) (n : Nat) (beats : List Beat) : Channel := { stype := ty, dtype := ty, src := tilePort ⟨0, 1⟩ true n, dests := [{ port := inPort n, beats := beats }], depth := 16, offth := 12, onth := 4 }
def sStage : State :=
  { seracAt [{ started (aCommand (.smm { plainWord with a := .queue 0x10, b := .queue 0x11, c := .reg 6 })) with vc := 1 }] with
    ports := ⟨[(inPort 0, { chan := some ⟨theLoad, 0⟩ }), (inPort 1, { chan := some ⟨theLoad, 1⟩ })]⟩
    chans := ⟨[(⟨theLoad, 0⟩, aChannel (BitVec.ofNat 32 (8 * 2 ^ 28)) 0 [⟨ones, false⟩]), (⟨theLoad, 1⟩, aChannel (BitVec.ofNat 32 (8 * 2 ^ 28)) 1 [⟨ones, false⟩])]⟩
    event := { who := dusk, command := 3, index := 2 } }
def complete (i : Instr) (g : Command → Command := id) (f : Task → Task := id) : State := seracAt [g (started (aCommand i))] f { who := dusk, len := 1 }
def aRecord : List Word64 := [BitVec.ofNat 64 (7 * 2 ^ 44), 0x1000, 0, 512, 0, 0, 0, 0]
-- SeracCompletes
def sNull : State := complete (.saccz plainWord) (fun c => { c with null := true })
def sSaccz : State := complete (.saccz { plainWord with d := .reg 2 }) id (fun t => { t with acc := ⟨[(2, { prog := 5, poison := true })]⟩ })
def sSscl : State := complete (.sscl plainWord) (fun c => { c with va := 0x81 })
def sSmode : State := complete (.smode plainWord) (fun c => { c with va := 2 })
def sSstr : State := complete (.sstr { plainWord with d := .reg 4 }) (fun c => { c with va := 0x321, vb := 2 })
def sSaccv : State := complete (.saccv { plainWord with d := .reg 3, a := .reg 1 }) (fun c => { c with vb := 4, vc := 2 })
def sSaccrd : State := complete (.saccrd { plainWord with a := .reg 1 }) (fun c => { c with records := ⟨[(3, [BitVec.ofNat 64 0x1000, BitVec.ofNat 64 (2 * 2 ^ 48 + 2 * 2 ^ 32 + 8), BitVec.ofNat 64 (7 * 2 ^ 28), 0, 0, 0, 0, 0])]⟩ })
def smmCommand (i : Instr) : State :=
  { complete i (fun c => { c with vc := 8, blocksStaged := ⟨[(2, 1), (3, 1)]⟩, staged := ⟨[(2, List.replicate 128 (.scale 0x7F) ++ (List.range 1024).map (fun k => .elem (if k < 8 then 0x3F80 else 0))), (3, List.replicate 128 (.scale 0x7F) ++ (List.range 1024).map (fun _ => .elem 0x4000))]⟩ }) with
    ports := sStage.ports, chans := sStage.chans }
def sSmm : State := smmCommand (.smm { plainWord with d := .reg 1, a := .queue 0x10, b := .queue 0x11, c := .reg 6 })
def sSmmz : State := smmCommand (.smmz { plainWord with d := .reg 1, a := .queue 0x10, b := .queue 0x11, c := .reg 6 })

-- MoraineWorks
def mCommand (i : Instr) (g : Command → Command := id) (f : Task → Task := id) : State := moraineAt [g (started (aCommand i))] f
def sMoraineStart : State := moraineAt [aCommand (.mfill { plainWord with pop := 5 })] (fun t => { t with tokens := ⟨[(5, 2)]⟩ })
def sMoraineNull : State := mCommand (.mfill plainWord) (fun c => { c with null := true })
def sMoraineDone : State := mCommand (.mcpy { plainWord with mod := 3, e := BitVec.ofNat 14 (2 ^ 11 + 3 * 2 ^ 7) }) (fun c => { c with vb := 8, progress := 1, items := 8 })
def sFillBytes : State := mCommand (.mfill { plainWord with mod := 2 }) (fun c => { c with vd := 0x104, vb := 6, vc := 0x0807060504030201 })
def sCopyBytes : State := { mCommand (.mcpy { plainWord with mod := 3 }) (fun c => { c with vd := 0x104, vb := 6, va := 0x201 }) with mem := worldMem ++ cellsOf (tilePa ⟨0, 0⟩ 0x200, 8, 0x1122334455667788) }

-- TasksBegin, TasksEnd
def sDispatch : State := { worldEvent { load := theLoad, grid := 0 } with tasks := {}, strands := {} }
def sStart : State := withTask (fun t => { t with started := false, startAt := 90 })
def sDraining : State := withTask (fun t => { t with status := .draining, discarded := 2 })
def sTaskDone : State := withTask (fun t => { t with status := .done })

-- GraphEntries
def bareLoads (f : GraphQueue → GraphQueue) : State := { (worldEvent { die := 0, queue := 0 }).updQueue ⟨0, 0⟩ f with loads := {}, tasks := {}, strands := {} }
def sEntry : State := bareLoads (fun q => { q with tail := 1 })
def aGraph : Graph := { va := 0x20400, nloads := 1, loadVas := [0x20000], statusVa := 0x20700, irq := false, wvalid := false, waitq := 1, waitcnt := 3 }
def sWaitMet : State := (bareLoads (fun q => { q with graph := some { aGraph with wvalid := true } })).setQueue ⟨0, 1⟩ { completed := 3 } |>.setLoad theLoad {}
def sWaits : State := (bareLoads (fun q => { q with graph := some { aGraph with wvalid := true } })).setQueue ⟨0, 1⟩ { completed := 2 }

-- LoadStates
def aboutLoad : EventArgs := { load := theLoad }
def sRefuse : State := withLoad (fun _ => { status := .configuring, va := 0x20400 })
def sConfigure : State := { withLoad (fun _ => { status := .configuring, va := 0x20000 }) with tasks := {}, strands := {} }
def sArmed : State :=
  { (withLoad (fun l => { l with status := .armed })).setLoad ⟨0, 0, 1⟩ {} with
    queues := ⟨[(⟨0, 0⟩, { graph := some { aGraph with nloads := 2, started := true } })]⟩, regions := ⟨[(⟨0, 0⟩, { status := .loaded, load := some theLoad })]⟩ }
def bare (s : State) : State := { s with tasks := {}, strands := {} }
def sLoadDone : State := bare (withLoad (fun l => { l with grids := [{ count := 3, next := 3, hdr := worldHeader }] }))
def sExiting : State := bare (withLoad (fun l => { l with exitv := true, exiting := true }))

-- GraphsComplete
def sGraphDone (st : LoadStatus) (records : Bool) : State :=
  bare ({ (withLoad (fun l => { l with status := st, reason := 3, tasksDone := 3 }) { die := 0, queue := 0 }) with
    queues := ⟨[(⟨0, 0⟩, { graph := some { aGraph with records := records, parts := [⟨2, BitVec.ofNat 64 (0xFF * 2 ^ 56 + 0x83), 1⟩], started := true } })]⟩ })

-- Hosts
def owner : HostFn := ⟨0, 0, 0⟩
def hostEvent (x : EventArgs) : State := worldEvent { x with fn := owner }
def sQueueEnable : State := hostEvent { queue := 2, value := BitVec.ofNat 64 (2 ^ 63 + 5 * 2 ^ 60 + 6 * 2 ^ 55 + 7 * 2 ^ 44) }
def sTail : State := hostEvent { queue := 0, value := 3 }
def sXinv : State := (hostEvent { value := BitVec.ofNat 64 (2 * 2 ^ 32) }).updDie 0 (fun d => { d with xinv0 := BitVec.ofNat 64 (5 * 2 ^ 16) })
def aRegion : Region := { status := .running, load := some theLoad, swapAddr := 0x30000 }
def sSwap : State := { hostEvent { region := 0, value := 7 } with regions := ⟨[(⟨0, 0⟩, aRegion)]⟩ }
def sSwapBusy : State := hostEvent { region := 0, value := 7 }
def sFqctl : State := hostEvent { value := BitVec.ofNat 64 (2 ^ 63 + 5 * 2 ^ 58 + 9 * 2 ^ 47) }
def sHalt : State := hostEvent { value := 6 }
def sClaim : State := { hostEvent {} with pkgs := ⟨[(0, { boot := .running })]⟩ }
def sClaimRefused : State := { worldEvent { fn := ⟨0, 1, 0⟩ } with pkgs := ⟨[(0, { boot := .running, valid := true })]⟩ }
def sHandover : State := hostEvent { value := BitVec.ofNat 64 (2 ^ 63 + 2 ^ 62) }
def sPower : State := hostEvent { value := 0xC }
def sRoot : State := worldEvent { flag := true, addr := 0x200000 + 8 * 3, value := 0x123456789000 }
def sDomain : State := hostEvent { addr := 0x401000 + 8 * 2, value := 9 }
def sSave : State := (hostEvent { value := 0x100 }).updDie 0 (fun d => { d with preq0 := 0x200000 })
def aSaved : SavedGraph := { area := 0x200000, header := true, loads := [(theLoad, { status := .running, tiles := [⟨⟨0, 0⟩, 0⟩] })] }
def sRestore : State := { (hostEvent { value := BitVec.ofNat 64 (2 ^ 63) }).updDie 0 (fun d => { d with preq0 := 0x200000 }) with saved := ⟨[(⟨0, 0⟩, aSaved)]⟩ }

-- FaultAnswers, Responses
def aFault (code : FaultCode) : StrandFault := { code := code, record := {}, resume := 0x10038 }
def anEntry (of : EntryOf) (kind : Nat) : FqEntry := { of := of, kind := kind, seq := 8 }
def answerWith (action : Nat) (value2 : Word64) (e : FqEntry) (s : State) : State :=
  { s with event := { fn := owner, value := BitVec.ofNat 64 (8 * 2 ^ 32 + action * 2 ^ 28), value2 := value2 } }.updDie 0
    (fun d => { d with fqOpen := [e], fqResp0 := BitVec.ofNat 64 (8 * 2 ^ 32 + action * 2 ^ 28), fqResp1 := value2 })
def faulted (code : FaultCode) : State := withStrand dawn (fun x => { x with status := .faulted, fault := some (aFault code) })
def sResume : State := answerWith 1 0 (anEntry (.strand dawn) 0) (faulted .misalign)
def sResumeTrap : State := answerWith 1 0 (anEntry (.strand dawn) 0) (faulted .trap)
def sResumeStack : State := answerWith 2 0x1000 (anEntry (.strand dawn) 0) (faulted .stackLimit)
def sResumeAt : State := answerWith 3 0x10068 (anEntry (.strand dawn) 0) (faulted .misalign)
def sResumeBad : State := answerWith 3 0x10069 (anEntry (.strand dawn) 0) (faulted .misalign)
def sKill : State := answerWith 4 0 (anEntry (.strand dawn) 0) (faulted .misalign)
def sStopLoad : State := answerWith 5 0 (anEntry (.strand dawn) 0) (faulted .misalign)
def sContinue : State := answerWith 6 0 (anEntry (.host ⟨0, 0, 1⟩) 2) ((faulted .misalign).updDie 0 (fun d => { d with frozen := [(0, 1)] }))
def sContinueDeadlock : State := answerWith 6 0 (anEntry (.deadlock theLoad [theTask]) 3) (faulted .misalign)
def sUnknown : State := answerWith 1 0 { anEntry (.strand dawn) 0 with seq := 9 } (faulted .misalign)
def sWrongKind : State := answerWith 6 0 (anEntry (.strand dawn) 0) (faulted .misalign)

-- HostRequests
def sHostRead : State := hostEvent { addr := 0x20100, len := 8 }
def sHostWrite : State := hostEvent { addr := 0x20100, len := 8, flag := true, data := [1, 2, 3] }
def sHostBad : State := hostEvent { addr := 0x80000000, len := 8 }
def sHostReg : State := (hostEvent { addr := sysOffset 0x60, len := 8, wide := true }).updDie 0 (fun d => { d with tilehalt := 2 })
def sHostHole : State := hostEvent { addr := 0x9000, len := 8, wide := true }
def sHostAtomic (op : HostAtomicOp) (cmp : Word64) : State := hostEvent { addr := 0x20100, len := 8, op := op, value := 5, value2 := cmp }
def sFlr : State := (hostEvent {}).updDie 0 (fun d => { d with frozen := [(0, 0), (0, 3), (1, 1)], frozenHard := [(0, 0)] })

-- PlanesAndInvalidations
def onPlanes (x : EventArgs) (f : Die → Die := id) (r : Option Rehash := none) : State := { withDie f x with rehash := r }
def sRetire : State := onPlanes { plane := 1 }
def sRestorePlane : State := onPlanes { plane := 1, flag := true } (fun d => { d with live := 0xD })
def sStall : State := { onPlanes { plane := 2 } with planeIdle := ⟨[(2, 65536)]⟩ }
def allDies : List Nat := [0, 1, 2, 3, 4, 5, 6, 7]
def aRehash : Rehash := { retire := [1] }
def sStop : State := onPlanes {} id (some aRehash)
def sDrained : State := onPlanes {} (fun d => { d with phase := 1 }) (some { aRehash with told := allDies })
def sDraining' : State := { sDrained with net := [anAccess .stg 0x20100] }
def sCommit : State := onPlanes {} (fun d => { d with phase := 2, pmapNext := ⟨(List.range 256).map (fun n => (n, if n % 4 = 1 then 0 else BitVec.ofNat 2 n))⟩ }) (some { aRehash with told := allDies, drained := allDies })
def sCommitBad : State := onPlanes {} (fun d => { d with phase := 2 }) (some { aRehash with told := allDies, drained := allDies })
def sCommitted : State := onPlanes {} (fun d => { d with phase := 3 }) (some { aRehash with told := allDies, drained := allDies })
def sRehashResume : State := { onPlanes {} (fun d => { d with phase := 3, live := 0xD }) (some { aRehash with told := allDies, drained := allDies, committed := allDies }) with net := [{ anAccess .stg 0x20100 with resend := true }] }
def sRehashLast : State := { sRehashResume with rehash := some { aRehash with told := allDies, drained := allDies, committed := allDies, resumed := [1, 2, 3, 4, 5, 6, 7] } }
def anInvalidation : Invalidation := { domain := 0, block := 2, nblk := 1 }
def sXinvDrop : State := onPlanes { flag := true } (fun d => { d with invs := [anInvalidation], issued := 1 })
def sXinvDone : State := onPlanes {} (fun d => { d with invs := [{ anInvalidation with dropped := true }], issued := 1 })
def sXinvWaits : State := onPlanes {} (fun d => { d with invs := [anInvalidation], issued := 1 })

-- FaultSystem
def sWriteEntry : State := withDie (fun d => { d with fqEnable := true, fqLogsize := 4, fqbase := 0x4000, fqHead := 8, fqTail := 2, fqPending := [anEntry (.load theLoad) 1] })
def sNoRing : State := withDie (fun d => { d with fqPending := [anEntry (.load theLoad) 1] })
def sLoadStop : State := worldEvent aboutLoad
def sLoadStopped : State := (bare (withLoad (fun l => { l with stopping := true }))).setLoad ⟨0, 0, 1⟩ {}
def sScrub : State := worldEvent { addr := 0x20105 }
def sDeadlock : State :=
  ((withLoad (fun l => { l with detectors := [{ die := 0, quiet := 2 ^ 20 }] }) { load := theLoad, die := 0 }).updDie 0 (fun d => { d with fqEnable := true, fqLogsize := 4 })).updStrand dawn
    (fun x => { x with status := .parked, park := some { counter := some 1, threshold := 2, cont := 0x10044 } })

-- ChannelsMove
def aBeat (n : Nat) : Beat := ⟨(List.range 16).map (fun k => .elem (BitVec.ofNat 32 (n + k))), false⟩
def floats : Word32 := BitVec.ofNat 32 (7 * 2 ^ 28)
def onChannel (f : Channel → Channel) (x : EventArgs := { chan := ⟨theLoad, 0⟩ }) : State :=
  { worldEvent x with
    chans := ⟨[(⟨theLoad, 0⟩, f (aChannel floats 0 []))]⟩
    ports := ⟨[(inPort 0, { chan := some ⟨theLoad, 0⟩ }), (tilePort ⟨0, 1⟩ true 0, { chan := some ⟨theLoad, 0⟩ })]⟩ }
def sSend : State := onChannel (fun c => { c with outq := [aBeat 1, aBeat 2] })
def sSendOff : State := onChannel (fun c => { c with outq := [aBeat 1], dests := [{ port := inPort 0, off := true }] })
def sArrive : State := onChannel (fun c => { c with unacked := [{ seq := 0, beat := aBeat 1 }], nextSeq := 1 })
def sLandedAck : State := onChannel (fun c => { c with unacked := [{ seq := 0, beat := aBeat 1 }], nextSeq := 1, dests := [{ port := inPort 0, expect := 1, beats := [aBeat 1] }] })
def sAckFirst : State := onChannel (fun c => { c with unacked := [{ seq := 0, beat := aBeat 1 }], nextSeq := 1, dests := [{ port := inPort 0, expect := 1 }, { port := inPort 1, expect := 0 }] })
def sOn : State := onChannel (fun c => { c with dests := [{ port := inPort 0, off := true, offSent := true }] })

-- elements and regions
def theRegion : RegionId := ⟨0, 0⟩
/-- A region that runs a graph of the given words, with tokens on its links and the states of its elements. -/
def graphOf (body : List Word64) (links : List (Nat × List Tok)) (elems : List (Nat × Element) := []) (slot : Nat := 0) : State :=
  { worldEvent { region := 0, slot := slot } with
    cur := { strand := dawn, region := theRegion, slot := slot }
    regions := ⟨[(theRegion, { status := .running, load := some theLoad, verified := true, image := some { kind := 2, inmask := 1, outmask := 1, body := body }, links := ⟨links⟩, elems := ⟨elems⟩ })]⟩ }
/-- A word of an element (R348): operation, format, mode, a first target and a parameter. -/
def elemWord (opn fmt mod t0 param : Nat) : Word64 := BitVec.ofNat 64 (opn * 2 ^ 58 + fmt * 2 ^ 54 + mod * 2 ^ 51 + (2 ^ 12 + t0) * 2 ^ 38 + param)
def out : Nat := 4 * 1016
def feed (n : Nat) : List (Nat × List Tok) := (List.range n).map (fun p => (p, [.elem 0x3F800000]))
/-- The words of one element of each operation, in slot 0 with its results on output port 0. -/
def oneOfEach : List Word64 :=
  [elemWord 3 0 0 out 0, elemWord 5 1 0 out 9, elemWord 8 7 0 out 0, elemWord 9 7 0 out 0, elemWord 10 7 0 out 0, elemWord 11 7 0 out 0, elemWord 12 7 0 out 0, elemWord 13 7 0 out 0,
   elemWord 14 0 2 out 0, elemWord 15 7 2 out 0, elemWord 16 8 0 out 7, elemWord 17 0 0 out (2 ^ 15 + 2 * 2 ^ 10), elemWord 18 0 0 out 7, elemWord 19 0 0 out 7, elemWord 20 7 0 out 7,
   elemWord 21 7 0 out 7, elemWord 22 1 0 out 0, elemWord 24 10 0 out (0x24 * 2 ^ 19 + 7), elemWord 25 7 0 out (0x24 * 2 ^ 19 + 10), elemWord 26 7 0 out (127 * 2 ^ 17 + 8), elemWord 27 7 0 out (64 + 1),
   elemWord 28 7 0 out 0, elemWord 32 0 0 out 0, elemWord 33 0 0 out 0, elemWord 34 0 0 out 0]
def sFires : List State := oneOfEach.map (fun v => graphOf [v] (feed 4))
def sEmits : State := graphOf [elemWord 8 7 0 out 0] (feed 2) [(0, { emit := [both (.elem 5)] })]
def sNoRoom : State := graphOf [elemWord 8 7 0 out 0] (feed 2 ++ [(out, [.elem 1, .elem 2])]) [(0, { emit := [both (.elem 5)] })]
def sScale : State := graphOf [elemWord 25 7 0 out (0x24 * 2 ^ 19 + 10)] [(0, [.scale 0x80])]
-- special tokens
def sOrder : State := graphOf [elemWord 28 7 0 out 0] [(0, [.order])] [(0, { openRec := true, taken := 2, made := 2 })]
def sScaleOn : State := graphOf [elemWord 3 0 0 out 0] [(0, [.scale 0x80])]
def sPoison : State := graphOf [elemWord 3 0 0 out 0] [(0, [.poison 5])]
def sEos : State := graphOf [elemWord 8 7 0 out 0] [(0, [.eos]), (1, [.eos])]
def sEosRecord : State := graphOf [elemWord 28 7 0 out 0] [(0, [.eos])] [(0, { openRec := true, taken := 2, made := 2 })]
def sMixed : State := graphOf [elemWord 8 7 0 out 0] [(0, [.elem 1]), (1, [.eos])]
-- ports of a region
def regionIn : PortId := ⟨0, .region, 0, false, 0⟩
def regionOut : PortId := ⟨0, .region, 0, true, 0⟩
def withPorts (s : State) (toks : List Tok) : State :=
  { s with
    ports := ⟨[(regionIn, { chan := some ⟨theLoad, 0⟩ }), (regionOut, { chan := some ⟨theLoad, 1⟩ })]⟩
    chans := ⟨[(⟨theLoad, 0⟩, { stype := floats, dtype := floats, src := tilePort ⟨0, 1⟩ true 0, dests := [{ port := regionIn, beats := [⟨toks, false⟩] }], depth := 16, offth := 12, onth := 4 }),
               (⟨theLoad, 1⟩, { stype := floats, dtype := floats, src := regionOut, dests := [{ port := inPort 0 }], depth := 16, offth := 12, onth := 4 })]⟩ }
def sSource : State := withPorts (graphOf [elemWord 1 0 0 out 0] []) [.elem 0x3F800000]
def sSourceDry : State := graphOf [elemWord 1 0 0 out 0] []
def sSink : State := graphOf [elemWord 2 0 0 0 0] [(0, [.elem 5])]
def sSinkPoison : State := graphOf [elemWord 2 0 0 0 0] [(0, [.poison 5])]
def sQbufTakes : State := graphOf [elemWord 4 0 0 out 8] [(0, [.elem 5])]
def sQbufGives : State := graphOf [elemWord 4 0 0 out 8] [] [(0, { held := [.elem 5] })]
-- RegionsMove
def sTakeEos : State := withPorts (graphOf [] [(out, [.eos])]) []
def sTakeElem : State := withPorts (graphOf [] [(out, [.elem 1])]) []
def sealedRegion (r : Region) : State := { withPorts (worldEvent { region := 0 }) [.elem 5] with regions := ⟨[(theRegion, r)]⟩ }
def sSealed : State := sealedRegion { status := .running, load := some theLoad, image := some { kind := 1 } }
def sSwapRefused : State := sealedRegion { status := .running, load := some theLoad, image := some { kind := 2 }, swap := some { va := 0x40000000, clksel := 3 } }
def closing (e : List (Nat × Element)) : State :=
  sealedRegion { status := .closing, load := some theLoad, image := some { kind := 2, body := [elemWord 28 7 0 out 0] }, gatedIn := true, elems := ⟨e⟩, saveVa := 0x200000
                 swap := some { va := 0x30000, clksel := 3, image := some { kind := 2 }, closed := true } }
def sSwapHolds : State := closing [(0, { openRec := true, taken := 1 })]
def sSwapIdle : State := closing []

-- PreemptionAndGangs
def aSave : Preempt := { restore := false, queue := 0, area := 0x200000, qto := 50, counted := 60, begun := true }
def saving (f : Die → Die) (x : EventArgs := {}) : State := (withDie (fun d => f { d with preempt := some aSave, prState := 1 }) x).updLoad theLoad (fun l => { l with gating := [0] })
def sQto : State := saving id
def sStill : State := { saving (fun d => { d with preempt := some { aSave with restAt := ⟨[(0, 90)]⟩ } }) { region := 0 } with
  regions := ⟨[(theRegion, { status := .running, load := some theLoad, image := some { kind := 2 } })]⟩ }
def sStopped : State := ((saving id).updStrand dawn (fun x => { x with gate := some 0 })).updStrand dusk (fun x => { x with whole := true })
def sAtRest : State := bare (saving (fun d => { d with prState := 2, preempt := some { aSave with restAt := ⟨[(0, 90)]⟩ } }))
def sSaved : State := { saving (fun d => { d with prState := 3 }) with saved := ⟨[(⟨0, 0⟩, { aSaved with tasks := [(theTask, worldTask)] })]⟩ }
def areaCells : List Host.Cell := cellsOf (0x200000, 8, 0xC3 * 2 ^ 56 + 2 ^ 52 + 1 * 2 ^ 43)
def sRestoring : State :=
  { bare (withDie (fun d => { d with preempt := some { aSave with restore := true }, prState := 5 })) with
    saved := ⟨[(⟨0, 0⟩, aSaved)]⟩, mem := worldMem ++ areaCells, loads := ⟨[(theLoad, { status := .saved })]⟩ }
def aGang : Gang := { members := [0, 1] }
def onGang (g : Gang) (x : EventArgs := aboutLoad) : State := withLoad (fun l => { l with status := .armed, gang := some g }) x
def sArm : State := onGang aGang
def sPrepare : State := onGang { aGang with phase := 1 } { load := theLoad, member := 1 }
def sGangAck : State := onGang { aGang with phase := 1, prepared := [0, 1] } { load := theLoad, member := 1 }
def sGangCommit : State := onGang { aGang with phase := 2 } { load := theLoad, member := 1 }
def sGangFirst : State := onGang { aGang with phase := 2, acted := [0, 1] } { load := theLoad, member := 1 }
def sGangLast : State := onGang { aGang with phase := 2, acted := [0, 1], committed := [0] } { load := theLoad, member := 1 }
def late (s : State) : State := { s with clock := 5000 }
def sWindow (phase : Nat) : State := late (onGang { aGang with phase := phase })
def sWindowOpen : State := onGang { aGang with phase := 1 }
def sAbort : State := onGang { aGang with phase := 4, prepared := [1] } { load := theLoad, member := 1 }

-- PlatformAndLinks
def onModule (p : Package) (x : EventArgs := {}) : State := { worldEvent x with pkgs := ⟨[(0, p)]⟩ }
def sBoot : State := onModule {}
def sRecovery : State := onModule { boot := .recovery }
def sMailbox (x : EventArgs) : State := hostEvent x
def sVacant : State := onModule { valid := true, boot := .running, linkDown := [0] }
def sRising (flag : Bool) : State := (worldEvent { flag := flag, index := 5 }).updDie 0 (fun d => { d with risingTiles := [5], risingRegions := [5] })
def sIdleTile : State := { bare (worldEvent { index := 0 }) with clock := 2000 }
def sJoin : State := { worldEvent { pkg := 1 } with pkgs := ⟨[(1, { boot := .running })]⟩ }
def onLink (x : EventArgs) : State := worldEvent x
def sLane : State := onLink { plane := 0, link := 0, lanes := 1 }
def sTurn : State := onLink { plane := 0, link := 0, lanes := 4, flag := true }
def sTrain : State := (onLink { plane := 0, link := 0 }).updDie 0 (fun d => { d with links := ⟨[(0, { txw := 64, rxw := 64, nomw := 64, next := some (60, 64) })]⟩ })
def ringEvent (seq : Nat) (flag : Bool) (path : RingPath) : State :=
  { worldEvent { plane := 0, pkg := 0, dest := 1, seq := seq, flag := flag } with present := [0, 1], ring := ⟨[(⟨0, 0, 1⟩, path)]⟩ }
def sSlot : State := ringEvent 7 true { expect := 7, refused := [7] }
def sSlotEarly : State := ringEvent 9 true { expect := 7 }
def sIncast : State := ringEvent 0 false { expect := 7, trimmed := some 7, refused := [7] }
/-! ## Decoding

Every opcode and every element operation with its other fields zero, then the fields in words that the manual writes out. -/

/-- The opcodes of R49 (02_instruction_word.md). -/
def scalarOpcodes : List (BitVec 8 × Instr) :=
    [(0x00, .nop plainWord), (0x01, .mov plainWord), (0x02, .movi plainWord), (0x03, .movhi plainWord), (0x04, .add plainWord), (0x05, .sub plainWord), (0x06, .mul plainWord), (0x07, .mulh plainWord)] ++
    [(0x08, .div plainWord), (0x09, .rem plainWord), (0x0A, .and plainWord), (0x0B, .or plainWord), (0x0C, .xor plainWord), (0x0D, .andn plainWord), (0x0E, .shl plainWord), (0x0F, .shr plainWord)] ++
    [(0x10, .sar plainWord), (0x11, .rol plainWord), (0x12, .min plainWord), (0x13, .max plainWord), (0x14, .abs plainWord), (0x15, .neg plainWord), (0x16, .clz plainWord), (0x17, .popc plainWord)] ++
    [(0x18, .bfx plainWord), (0x19, .bfi plainWord), (0x1A, .sel plainWord), (0x1B, .cmp plainWord), (0x1C, .plog plainWord), (0x1D, .psave plainWord), (0x1E, .prest plainWord), (0x1F, .cvtsx plainWord)] ++
    [(0x20, .lea plainWord), (0x21, .mad plainWord), (0x22, .ldt plainWord), (0x23, .stt plainWord), (0x28, .fadd plainWord), (0x29, .fsub plainWord), (0x2A, .fmul plainWord), (0x2B, .ffma plainWord)] ++
    [(0x2C, .fmin plainWord), (0x2D, .fmax plainWord), (0x2E, .fabs plainWord), (0x2F, .fcmp plainWord), (0x30, .fcvt plainWord), (0x31, .fdiv plainWord), (0x32, .fsqrt plainWord), (0x33, .frcp plainWord)]
theorem test_decode_scalar : scalarOpcodes.all (fun x => decodeStrand (x.1 ++ 0#88) == x.2) = true := by decide +kernel

/-- The opcodes of R51 (02_instruction_word.md). -/
def controlOpcodes : List (BitVec 8 × Instr) :=
    [(0x40, .br plainWord), (0x41, .jmp plainWord), (0x42, .call plainWord), (0x43, .callr plainWord), (0x44, .ret plainWord), (0x45, .loop plainWord), (0x46, .bcq plainWord), (0x47, .qpush plainWord)] ++
    [(0x48, .qpop plainWord), (0x49, .qcount plainWord), (0x4A, .twait plainWord), (0x4B, .tsig plainWord), (0x4C, .suspend plainWord), (0x4D, .endStrand plainWord), (0x4E, .yield plainWord), (0x4F, .evrd plainWord)] ++
    [(0x50, .evadd plainWord), (0x51, .evset plainWord), (0x52, .graise plainWord), (0x53, .gread plainWord), (0x54, .setnf plainWord), (0x55, .tread plainWord)]
theorem test_decode_control : controlOpcodes.all (fun x => decodeStrand (x.1 ++ 0#88) == x.2) = true := by decide +kernel

/-- The opcodes of R52 (02_instruction_word.md). -/
def globalOpcodes : List (BitVec 8 × Instr) :=
    [(0x60, .ldg plainWord), (0x61, .stg plainWord), (0x62, .ldc plainWord), (0x63, .pld plainWord), (0x64, .pst plainWord), (0x65, .prst plainWord), (0x66, .stf plainWord), (0x67, .atadd plainWord)] ++
    [(0x68, .atand plainWord), (0x69, .ator plainWord), (0x6A, .atxor plainWord), (0x6B, .atmin plainWord), (0x6C, .atmax plainWord), (0x6D, .atswp plainWord), (0x6E, .atcas plainWord), (0x6F, .amaxx plainWord)] ++
    [(0x70, .atfadd plainWord), (0x71, .atfmax plainWord), (0x72, .fence plainWord), (0x73, .lfence plainWord), (0x74, .pref plainWord)]
theorem test_decode_global : globalOpcodes.all (fun x => decodeStrand (x.1 ++ 0#88) == x.2) = true := by decide +kernel

/-- The opcodes of R53 (02_instruction_word.md). -/
def vectorOpcodes : List (BitVec 8 × Instr) :=
    [(0x80, .vld plainWord), (0x81, .vst plainWord), (0x82, .vlds plainWord), (0x83, .vsts plainWord), (0x84, .vldt plainWord), (0x85, .vstt plainWord), (0x86, .vmov plainWord), (0x87, .vbcs plainWord)] ++
    [(0x88, .vadd plainWord), (0x89, .vsub plainWord), (0x8A, .vmul plainWord), (0x8B, .vfma plainWord), (0x8C, .vmin plainWord), (0x8D, .vmax plainWord), (0x8E, .vabs plainWord), (0x8F, .vneg plainWord)] ++
    [(0x90, .vand plainWord), (0x91, .vor plainWord), (0x92, .vxor plainWord), (0x93, .vshl plainWord), (0x94, .vshr plainWord), (0x95, .vsar plainWord), (0x96, .vcmp plainWord), (0x97, .vsel plainWord)] ++
    [(0x98, .klog plainWord), (0x99, .kmov plainWord), (0x9A, .vrotr plainWord), (0x9B, .vrotc plainWord), (0x9C, .vbcr plainWord), (0x9D, .vbcc plainWord), (0x9E, .vredr plainWord), (0x9F, .vredc plainWord)] ++
    [(0xA0, .vscnr plainWord), (0xA1, .vscnc plainWord), (0xA2, .vcvt plainWord), (0xA3, .vqnt plainWord), (0xA4, .vdqnt plainWord), (0xA5, .vexp plainWord), (0xA6, .vlog plainWord), (0xA7, .vrcp plainWord)] ++
    [(0xA8, .vrsq plainWord), (0xA9, .vtanh plainWord), (0xAA, .vextr plainWord), (0xAB, .vins plainWord), (0xAC, .vpop plainWord), (0xAD, .vpush plainWord), (0xAE, .pscl plainWord), (0xAF, .vswz plainWord)]
theorem test_decode_vector : vectorOpcodes.all (fun x => decodeStrand (x.1 ++ 0#88) == x.2) = true := by decide +kernel

/-- The opcodes of R54 (02_instruction_word.md). -/
def engineOpcodes : List (BitVec 8 × Instr) :=
    [(0xC0, .smm plainWord), (0xC1, .smmz plainWord), (0xC2, .saccrd plainWord), (0xC3, .saccwr plainWord), (0xC4, .saccz plainWord), (0xC5, .sscl plainWord), (0xC6, .smode plainWord), (0xC7, .sprog plainWord)] ++
    [(0xC8, .sbfly plainWord), (0xC9, .schain plainWord), (0xCA, .sstr plainWord), (0xCB, .sbwl plainWord), (0xCC, .saccv plainWord), (0xCD, .svacc plainWord), (0xD0, .mcpy plainWord), (0xD1, .mcpy2 plainWord)] ++
    [(0xD2, .mgth plainWord), (0xD3, .msct plainWord), (0xD4, .mspg plainWord), (0xD5, .mfill plainWord), (0xD6, .mm2c plainWord), (0xD7, .mc2m plainWord), (0xD8, .mnest plainWord), (0xD9, .mstat plainWord)]
theorem test_decode_engine : engineOpcodes.all (fun x => decodeStrand (x.1 ++ 0#88) == x.2) = true := by decide +kernel

/-- The opcodes of R55 (02_instruction_word.md). -/
def systemOpcodes : List (BitVec 8 × Instr) :=
    [(0xE0, .pthr plainWord), (0xE1, .peos plainWord), (0xE2, .pord plainWord), (0xE3, .pstat plainWord), (0xE4, .ptst plainWord), (0xE5, .pdrn plainWord), (0xE6, .ptyp plainWord), (0xF0, .sysrd plainWord)] ++
    [(0xF1, .syswr plainWord), (0xF2, .setstk plainWord), (0xF3, .trap plainWord), (0xF4, .bkpt plainWord), (0xF5, .monrd plainWord), (0xF6, .moncfg plainWord), (0xF7, .ctxsv plainWord), (0xF8, .ctxld plainWord)] ++
    [(0xF9, .halt plainWord)]
theorem test_decode_system : systemOpcodes.all (fun x => decodeStrand (x.1 ++ 0#88) == x.2) = true := by decide +kernel

/-- The operations of the element table (17_stream_elements.md), without targets. -/
def plainElement : ElemWord :=
  { fmt := 0, mod := 0, t0 := { valid := false, slot := 0, pos := 0 }, t1 := { valid := false, slot := 0, pos := 0 }, param := 0 }
def elementOperations : List (BitVec 6 × Instr) :=
    [(1, .elSource plainElement), (2, .elSink plainElement), (3, .elCopy plainElement), (4, .elQbuf plainElement), (5, .elConst plainElement), (8, .elAdd plainElement)] ++
    [(9, .elSub plainElement), (10, .elMul plainElement), (11, .elFma plainElement), (12, .elMin plainElement), (13, .elMax plainElement), (14, .elLogic plainElement)] ++
    [(15, .elCmp plainElement), (16, .elCvt plainElement), (17, .elLut plainElement), (18, .elUnpack plainElement), (19, .elPack plainElement), (20, .elZenc plainElement)] ++
    [(21, .elZdec plainElement), (22, .elDelta plainElement), (24, .elBqnt plainElement), (25, .elBdqnt plainElement), (26, .elExpadd plainElement), (27, .elTopk plainElement)] ++
    [(28, .elCount plainElement), (32, .elSteer plainElement), (33, .elMerge plainElement), (34, .elCarry plainElement)]
theorem test_decode_elements : elementOperations.all (fun x => (decodeElement (x.1 ++ 0#58)).toOption == some x.2) = true := by decide +kernel

/-- Words that the manual writes out, field by field: VFMA of 06, SUSPEND and VADD of 02 and 06, STF of 14, the copies of 15, ports of 16 and the trap of 20. -/
theorem test_decode_words :
    decodeStrand 0x8B803ACD000600400E030000#96 = .vfma { plainWord with fmt := 8, g0 := 3, g1 := 0x15, pop := 9, push := 10, d := .reg 12, a := .reg 4, b := .reg 7, c := .reg 12 } ∧
    decodeStrand 0x4C000000000000300A000006#96 = .suspend { plainWord with a := .reg 3, b := .reg 5, e := 6 } ∧
    decodeStrand 0x887000000001801C0A000012#96 = .vadd { plainWord with fmt := 7, d := .reg 3, a := .reg 1, b := .scalar 0 5, e := 0x12 } ∧
    decodeStrand 0x660A00000003004000014008#96 = .stf { plainWord with mod := 5, d := .reg 6, a := .reg 4, c := .reg 5, e := 8 } ∧
    decodeStrand 0x720400000000000000000000#96 = .fence { plainWord with mod := 2 } ∧
    decodeStrand 0xD40E000000008020060109C1#96 = .mspg { plainWord with mod := 7, d := .reg 1, a := .reg 2, b := .reg 3, c := .reg 4, e := 0x9C1 } ∧
    decodeStrand 0xE00000000000005004000003#96 = .pthr { plainWord with a := .reg 5, b := .reg 2, e := 3 } ∧
    decodeStrand 0xAC7000000001510802000000#96 = .vpop { plainWord with fmt := 7, d := .reg 2, a := .queue 0x10, b := .imm 1 } ∧
    decodeStrand 0xE50000000002510000000000#96 = .pdrn { plainWord with d := .reg 4, a := .queue 0x10 } ∧
    decodeStrand 0xC90000008302E03C08008000#96 = .schain { plainWord with push := 1, d := .scalar 0 5, a := .scalar 0 3, b := .scalar 0 4, c := .reg 2 } := by decide

/-- Elements of 17 and 19: SOURCE, UNPACK, LUT and EXPADD. -/
theorem test_decode_element_words :
    (decodeElement 0x0404010000000000#64).toOption = some (.elSource { plainElement with t0 := { valid := true, slot := 1, pos := 0 } }) ∧
    (decodeElement 0x4804020000000004#64).toOption = some (.elUnpack { plainElement with t0 := { valid := true, slot := 2, pos := 0 }, param := 4 }) ∧
    (decodeElement 0x6A07F80000FE0008#64).toOption = some (.elExpadd { plainElement with fmt := 8, t0 := { valid := true, slot := 1016, pos := 0 }, param := 0xFE0008 }) := by decide

/-- The encoder writes the same words, and bytes come back as they went (R35: parcels lowest first). -/
theorem test_encode_words :
    encodeStrand 0x4C { plainWord with a := .reg 3, b := .reg 5, e := 6 } = 0x4C000000000000300A000006#96 ∧
    encode (.endStrand { plainWord with pop := 5 }) = some [0, 0, 0, 0, 0, 0, 0, 0, 0x28, 0, 0, 0x4D] ∧
    decodeTableWord 96 (0x4D * 2 ^ 88) = some (.endStrand plainWord) ∧ decodeTableWord 64 (28 * 2 ^ 58) = some (.elCount plainElement) := by decide

/-! ## WellFormed refuses -/

/-- One ill-formed term for each check of Fields.wf, and what C holds under a long immediate. -/
theorem test_illformed_fields :
    (Instr.add plainWord).wf = true ∧ (Instr.add { plainWord with fmt := 0xF }).wf = false ∧ (Instr.ldg { plainWord with hint := 4 }).wf = false ∧
    (Instr.mov { plainWord with d := .queue 3 }).wf = false ∧ (Instr.mov { plainWord with a := .scalar 1 5 }).wf = false ∧ (Instr.add { plainWord with b := .special 0x13 }).wf = false ∧
    (Instr.mad { plainWord with c := .queue 0x20 }).wf = false ∧ (Instr.movi { plainWord with c := .queue 0x20 }).wf = true := by decide
/-- The two meanings of one opcode, and opcodes that have none. -/
theorem test_illformed_opcodes :
    (Instr.fabs { plainWord with mod := 1 }).wf = false ∧ (Instr.fneg plainWord).wf = false ∧ (Instr.fneg { plainWord with mod := 1 }).wf = true ∧
    (Instr.unassigned 0x24 plainWord).wf = true ∧ (Instr.unassigned 0x04 plainWord).wf = false := by decide
/-- Elements: a reserved format, an absent target that names a slot, a position of an output port. -/
theorem test_illformed_elements :
    (Instr.elAdd plainElement).wf = true ∧ (Instr.elAdd { plainElement with fmt := 0xB }).wf = false ∧
    (Instr.elAdd { plainElement with t0 := { valid := false, slot := 5, pos := 0 } }).wf = false ∧
    (Instr.elAdd { plainElement with t1 := { valid := true, slot := 1020, pos := 1 } }).wf = false := by decide

/-! ## The memory consistency model (R268 to R283, R302) -/

/-- Dawn, or Dusk, of slot 0 on a tile of a die, in domain 0. -/
def dawnOf (die tile : Nat) : Party := { who := .strand ⟨die, tile, 0, .dawn⟩ }
def duskOf (die tile : Nat) : Party := { who := .strand ⟨die, tile, 0, .dusk⟩ }
/-- A Moraine command of that slot. -/
def copyOf (die tile : Nat) : Party := { who := .command ⟨die, tile, 0⟩ .moraine 0 }
/-- A read, or a write, of one location; X is 0, Y 64 and F 128. -/
def rd (n : Nat) (p : Party) (pos loc v : Nat) : MemAccess := { num := n, by_ := p, pos := pos, reads := [(loc, v)] }
def wr (n : Nat) (p : Party) (pos loc v : Nat) : MemAccess := { num := n, by_ := p, pos := pos, kind := .stg, writes := [(loc, v)] }

/-- Case 1 (R283): unfenced message passing, a1 = 1 and a2 = 0. -/
theorem litmus_1 : Case.allowed { accesses := [wr 0 (dawnOf 0 0) 0 0 1, wr 1 (dawnOf 0 0) 1 128 1, rd 2 (dawnOf 0 1) 0 128 1, rd 3 (dawnOf 0 1) 1 0 0] } = true := by decide

/-- Case 2: the accesses with P1's read of F and last read of X. -/
def case2 (ld last : MemAccess) (fences : List CaseFence) : Case :=
  { accesses := [wr 0 (dawnOf 0 0) 0 0 1, wr 1 (dawnOf 0 0) 2 128 1, rd 2 (dawnOf 0 1) 0 0 0, ld, last]
    fences := { by_ := dawnOf 0 0, pos := 1, scope := .die } :: fences }
theorem litmus_2_ldg : (case2 (rd 3 (dawnOf 0 1) 1 128 1) { rd 4 (dawnOf 0 1) 4 0 0 with source := some 2 } []).allowed = true := by decide
theorem litmus_2_ldc : (case2 { rd 3 (dawnOf 0 1) 1 128 1 with kind := .ldc } { rd 4 (dawnOf 0 1) 4 0 0 with taint := [3] } []).allowed = false := by decide
theorem litmus_2_combined : (case2 { rd 3 (dawnOf 0 1) 1 128 1 with kind := .ldc } { rd 4 (dawnOf 0 1) 4 0 0 with source := some 2 } []).allowed = false := by decide
theorem litmus_2_fence : (case2 (rd 3 (dawnOf 0 1) 1 128 1) (rd 4 (dawnOf 0 1) 4 0 0) [{ by_ := dawnOf 0 1, pos := 2, scope := .die }]).allowed = false := by decide

/-- Case 3: store buffering by P0 and by P1 on a die, with fences of a scope, or none. -/
def case3 (die : Nat) (scope : Option Scope) : Case :=
  { accesses := [wr 0 (dawnOf 0 0) 0 0 1, rd 1 (dawnOf 0 0) 2 64 0, wr 2 (dawnOf die 1) 0 64 1, rd 3 (dawnOf die 1) 2 0 0]
    fences := match scope with
      | some sc => [{ by_ := dawnOf 0 0, pos := 1, scope := sc }, { by_ := dawnOf die 1, pos := 1, scope := sc }]
      | none => [] }
theorem litmus_3_unfenced : (case3 0 none).allowed = true := by decide
theorem litmus_3_die : (case3 0 (some .die)).allowed = false := by decide
theorem litmus_3_packages : (case3 8 (some .die)).allowed = true ∧ (case3 8 (some .domain)).allowed = false := by decide

/-- Case 4: independent reads of independent writes, and one half of it. -/
theorem litmus_4 : Case.allowed {
    accesses := [wr 0 (dawnOf 0 0) 0 0 1, wr 1 (dawnOf 0 1) 0 64 1, rd 2 (dawnOf 0 2) 0 0 1, rd 3 (dawnOf 0 2) 2 64 0, rd 4 (dawnOf 0 3) 0 64 1, rd 5 (dawnOf 0 3) 2 0 0]
    fences := [{ by_ := dawnOf 0 2, pos := 1, scope := .die }, { by_ := dawnOf 0 3, pos := 1, scope := .die }] } = false := by decide
theorem litmus_4_half : Case.allowed {
    accesses := [wr 0 (dawnOf 0 0) 0 0 1, wr 1 (dawnOf 0 1) 0 64 1, rd 2 (dawnOf 0 2) 0 0 1, rd 3 (dawnOf 0 2) 2 64 0]
    fences := [{ by_ := dawnOf 0 2, pos := 1, scope := .die }] } = true := by decide

/-- Case 5 with threshold 2: an STF of each granule, then the wake, then a read of one that returns old data. -/
theorem litmus_5 : Case.allowed {
    accesses := [wr 0 (dawnOf 0 0) 0 0 1, { wr 1 (dawnOf 0 0) 0 128 1 with flagOf := some 0 }, rd 2 (duskOf 0 5) 1 128 1, { rd 3 (duskOf 0 5) 2 0 0 with inTile := true, taint := [2] }] }
    = false := by decide

/-- Case 7: a store, a command that copies X to Y, and the read of Y after its wake returning 0; without the fence and with it. -/
def case7 (fences : List CaseFence) : Case :=
  { accesses := [wr 0 (dawnOf 0 0) 0 0 1, { rd 1 (copyOf 0 0) 0 0 0 with issuer := some ((dawnOf 0 0).who, 2) },
      { wr 2 (copyOf 0 0) 1 64 0 with data := [1], issuer := some ((dawnOf 0 0).who, 2) }, rd 3 (dawnOf 0 0) 4 64 0]
    fences := fences
    arcs := [{ src := (copyOf 0 0).who, dst := (dawnOf 0 0).who, dstPos := 3 }] }
theorem litmus_7 : (case7 []).allowed = true ∧ (case7 [{ by_ := dawnOf 0 0, pos := 1, scope := .tile }]).allowed = false := by decide

/-- The variant of R302: plain stores, a fence and one store to the counter of a consumer on tile 3, whose wake orders its read of the inbox. -/
def publish (scope : Scope) : Case :=
  { accesses := [wr 0 (dawnOf 0 4) 0 0 1, wr 1 (dawnOf 0 4) 2 128 1, { rd 2 (duskOf 0 3) 1 0 0 with inTile := true }]
    fences := [{ by_ := dawnOf 0 4, pos := 1, scope := scope }]
    arcs := [{ src := (dawnOf 0 4).who, srcPos := 2, dst := (duskOf 0 3).who, dstPos := 0 }] }
theorem litmus_publish : (publish .tile).allowed = true ∧ (publish .die).allowed = false := by decide
-- more states of events
def sRefuseTwo : State := sRefuse.setLoad ⟨0, 0, 1⟩ {}
def sMoraineRead : State := { mCommand (.mcpy { plainWord with mod := 3 }) (fun c => { c with vd := 0x104, vb := 6, va := 0x201 }) with event := { who := dawn, command := 3, flag := true } }
def bf16 : Word32 := BitVec.ofNat 32 (8 * 2 ^ 28)
def portStage (old : List Tok) : State :=
  { seracAt [{ started (aCommand (.smm { plainWord with a := .queue 0x10, b := .queue 0x11, c := .reg 6 })) with vc := 1, arriving := ⟨[(2, old)]⟩ }] with
    ports := ⟨[(inPort 0, { chan := some ⟨theLoad, 0⟩ }), (inPort 1, { chan := some ⟨theLoad, 1⟩ })]⟩
    chans := ⟨[(⟨theLoad, 0⟩, aChannel bf16 0 [⟨List.replicate 16 (.elem 0x3F80), false⟩]), (⟨theLoad, 1⟩, aChannel bf16 1 [])]⟩
    event := { who := dusk, command := 3, index := 2, len := 1 } }
def sStageBeat : State := portStage []
def sStageLast : State := portStage (List.replicate 112 (.elem 0x3F80))
/-- A region that waits for its image (R324), which the memory of sSwapOk holds. -/
def sHostSplit : State := hostEvent { addr := 0x20100, len := 8, source := some 0 }
def sHostPiece : State :=
  { hostEvent { addr := 0x20100, len := 8, source := some 1 } with hostReqs := [{ num := 0, fn := owner, die := 0, write := false, parts := [(0x20100, 8, BitVec.ofNat 64 (0xFF * 2 ^ 56 + 0x83))] }] }
def sFlrTwo : State := sFlr.setDie 8 {}
def sDrainLost : State := { onPlanes {} (fun d => { d with phase := 1 }) (some { aRehash with lost := true, told := allDies }) with net := [{ anAccess .ldg 0x20100 with plane := 1 }] }
def sSendWaiting : State := onChannel (fun c => { c with waiting := [aBeat 1], depth := 1 })
def sResend : State := onChannel (fun c => { c with unacked := [{ seq := 0, beat := aBeat 1, sent := false }], nextSeq := 1 })
def sSwapping : State := { sSwapIdle with regions := sSwapIdle.regions.mapVals (fun _ r => { r with status := .swapping }) }
def sSwapBusyRegion : State := { sSwapIdle with regions := sSwapIdle.regions.mapVals (fun _ r => { r with links := ⟨[(0, [.elem 1])]⟩ }) }
def sLinkDown : State := worldEvent { pkg := 0, port := 1 }
def sAlone : State := { worldEvent {} with present := [0] }
def sVerify : State := { withLoad (fun _ => { status := .configuring, va := 0x20000 }) { region := 0 } with regions := ⟨[(⟨0, 0⟩, { status := .fetching, load := some theLoad, imageVa := 0x30000, clksel := 2 })]⟩ }
def sStillQuiet : State := { sStill with clock := 6000 }
def sStillSealed : State := { sStill with regions := ⟨[(theRegion, { status := .running, load := some theLoad, image := some { kind := 1 } })]⟩ }
def sXinvGone : State := onPlanes {} (fun d => { d with invs := [{ domain := 0, block := 9, nblk := 1, dropped := true }], issued := 1 })
/-! ## Words -/

/-- Fields of a word: a destination, then sources. -/
def wD : Fields := { plainWord with d := .reg 7 }
def wA : Fields := { wD with a := .reg 1 }
def wB : Fields := { wA with b := .reg 2 }
def wC : Fields := { wB with c := .reg 6 }
/-- With a format; without a destination; with a port in E. -/
def inFmt (n : Nat) (w : Fields) : Fields := { w with fmt := BitVec.ofNat 4 n }
def inMod (n : Nat) (w : Fields) : Fields := { w with mod := BitVec.ofNat 3 n }
def withE (n : Nat) (w : Fields) : Fields := { w with e := BitVec.ofNat 14 n }
/-- A memory form: D, or C, its base, and no displacement. -/
def memD (base : Nat) : Fields := { plainWord with d := .reg 7, a := .reg (BitVec.ofNat 10 base) }
def memC (base : Nat) : Fields := { plainWord with a := .reg (BitVec.ofNat 10 base), c := .reg 2 }
def memDC (base : Nat) : Fields := { memC base with d := .reg 7 }

/-- A strand of the world at its word, with more tasks' state. -/
def worldWith (c : CoreId) (f : Task → Task) : State := (world c).updTask theTask f
def worldStr (c : CoreId) (f : Strand → Strand) : State := (world c).updStrand ⟨0, 0, 0, c⟩ f

/-- The world with channels: input and output port 0 of tile 0, and streamer endpoint 0, of FP32, with room and a beat of 16 elements and more. -/
def fp32 : Word32 := BitVec.ofNat 32 (7 * 2 ^ 28)
def numbered (n : Nat) : Beat := ⟨(List.range 16).map (fun k => .elem (BitVec.ofNat 32 (n + k))), false⟩
def streamsOf (beats : List Beat) (c : CoreId := .dusk) : State :=
  { world c with
    ports := ⟨[(tilePort ⟨0, 0⟩ false 0, { chan := some ⟨theLoad, 0⟩ }), (tilePort ⟨0, 0⟩ true 0, { chan := some ⟨theLoad, 1⟩ }),
               (streamerPort ⟨0, 0⟩ false 0, { chan := some ⟨theLoad, 2⟩ }), (streamerPort ⟨0, 0⟩ true 0, { chan := some ⟨theLoad, 3⟩ })]⟩
    chans := ⟨[(⟨theLoad, 0⟩, { stype := fp32, dtype := fp32, src := tilePort ⟨0, 1⟩ true 0, dests := [{ port := tilePort ⟨0, 0⟩ false 0, beats := beats }], depth := 16, offth := 12, onth := 4 }),
               (⟨theLoad, 1⟩, { stype := fp32, dtype := fp32, src := tilePort ⟨0, 0⟩ true 0, dests := [{ port := tilePort ⟨0, 1⟩ false 0 }], depth := 16, offth := 12, onth := 4 }),
               (⟨theLoad, 2⟩, { stype := fp32, dtype := fp32, src := tilePort ⟨0, 1⟩ true 1, dests := [{ port := streamerPort ⟨0, 0⟩ false 0 }], depth := 16, offth := 12, onth := 4 }),
               (⟨theLoad, 3⟩, { stype := fp32, dtype := fp32, src := streamerPort ⟨0, 0⟩ true 0, dests := [{ port := tilePort ⟨0, 1⟩ false 1 }], depth := 16, offth := 12, onth := 4 })]⟩ }
def fourBeats : List Beat := [numbered 0, numbered 16, numbered 32, numbered 48]

/-! ## Words that issue, decided -/

/-- `Issues`, as something to compute. -/
def issuesB (i : Instr) (s : State) (more : List (Nat × Nat) := []) : Bool :=
  let core := s.cur.strand.core
  let f := formOf core i
  let w := fieldsOf i
  s.canIssue s.cur.strand && s.cur.mate.isNone && s.cur.pair.isNone && s.cur.pushes.isEmpty && s.cur.evSets.isEmpty && s.cur.evAdds.isEmpty &&
  (wordTrap core s.myTask (s.load s.myTask.load).priv i false none true).isNone && (s.commonHold s.cur.strand i f w).isNone && s.me.refusedPst.isNone &&
  s.guardTrue w && (s.pendingHold s.cur.strand f w).isNone && (s.queueHold s.cur.strand i f w).isNone && (damagedTrap s.me s.myTask (opOf i) (f.reads w)).isNone &&
  (s.overflow s.cur.strand.task (more ++ (if f.cmd.isSome then [] else ownPushes core w) ++ s.me.fences.flatMap FenceWait.pushes)).isNone

theorem issues_of {i : Instr} {s : State} {more : List (Nat × Nat)} (h : issuesB i s more = true) : Issues i s more := by
  simp only [issuesB, Bool.and_eq_true, Option.isNone_iff_eq_none, List.isEmpty_iff] at h
  obtain ⟨⟨⟨⟨⟨⟨⟨⟨⟨⟨⟨⟨⟨a, b⟩, c⟩, d⟩, e⟩, f⟩, g⟩, k⟩, l⟩, m⟩, n⟩, o⟩, p⟩, q⟩ := h
  exact ⟨a, b, c, d, e, f, g, k, l, m, n, o, p, q⟩

theorem issues_all {l : List Instr} {s : State} (h : l.all (issuesB · s) = true) : ∀ i ∈ l, Issues i s :=
  fun i hi => issues_of (List.all_eq_true.mp h i hi)

/-- `State.Reaches`, as something to compute. -/
def reachesB (s : State) (w : Fields) (z : Nat) (u : Use) (plain : Bool) (pa : Nat) (leaf : Word64) (n : Nat := 1) : Bool :=
  s.me.walk.isNone && decide (s.incomplete s.cur.strand + n ≤ 64) && (s.die s.cur.strand.die).phase == 0 && (s.address w).toNat % z == 0 &&
  admitsB s (s.address w).toNat z u pa leaf && (match placeOf pa with | .counter _ _ _ => plain && z == 4 | _ => true)
where admitsB (s : State) (va z : Nat) (u : Use) (pa : Nat) (leaf : Word64) : Bool :=
  match s.lookup s.cur.strand va with
  | .ok e => e.leaf == leaf && (match s.checkPart e.leaf e.level va z u (s.load s.myTask.load).domain (s.load s.myTask.load).priv with | .ok p => p == pa | .error _ => false)
  | .error _ => false

theorem admits_of {s : State} {va z : Nat} {u : Use} {pa : Nat} {leaf : Word64} (h : reachesB.admitsB s va z u pa leaf = true) : s.Admits va z u pa leaf := by
  unfold reachesB.admitsB at h
  split at h
  · rename_i e he
    simp only [Bool.and_eq_true, beq_iff_eq] at h
    refine ⟨e, he, h.1, ?_⟩
    have h2 := h.2
    split at h2
    · rename_i p hp; rw [hp]; simp only [beq_iff_eq] at h2; rw [h2]
    · exact absurd h2 (by simp)
  · exact absurd h (by simp)

theorem reaches_of {s : State} {w : Fields} {z : Nat} {u : Use} {plain : Bool} {pa : Nat} {leaf : Word64} {n : Nat}
    (h : reachesB s w z u plain pa leaf n = true) : s.Reaches w z u plain pa leaf n := by
  simp only [reachesB, Bool.and_eq_true, Option.isNone_iff_eq_none, decide_eq_true_eq, beq_iff_eq] at h
  obtain ⟨⟨⟨⟨⟨a, b⟩, c⟩, d⟩, e⟩, f⟩ := h
  refine ⟨a, b, c, d, admits_of e, fun x y z' hp => ?_⟩
  rw [hp] at f
  simpa only [Bool.and_eq_true, beq_iff_eq] using f
/-! ## The hypotheses of the statements about words are met -/

/-- Integer, logic and move words; predicates; floating point. -/
def ints : List Instr := [.add wB, .sub wB, .mul wB, .mulh wB, .min wB, .max wB, .div wB, .rem wB, .mad wC, .abs wA, .neg wA]
def logic : List Instr :=
  [.and wB, .or wB, .xor wB, .andn wB, .shl wB, .shr wB, .sar wB, .rol wB, .clz wA, .popc wA, .bfx (withE 0x808 wA), .bfi (withE 0x808 wB)]
def moves : List Instr :=
  [.mov wA, .movi { wD with c := .reg 1, e := 5 }, .movhi (inMod 1 { wA with e := 5 }), .cvtsx (inFmt 3 wA), .sel { wB with c := .reg 3 }, .psave wD,
   .cmp { wB with d := .reg 3, c := .reg 4 }, .plog { wB with d := .reg 3 }, .prest { plainWord with a := .reg 1 }]
def floats7 : List Instr :=
  [.fadd (inFmt 7 wB), .fsub (inFmt 7 wB), .fmul (inFmt 7 wB), .ffma (inFmt 7 wC), .fmin (inFmt 7 wB), .fmax (inFmt 7 wB), .fdiv (inFmt 7 wB), .fabs (inFmt 7 wA),
   .fneg (inFmt 7 (inMod 1 wA)), .fsqrt (inFmt 7 wA), .frcp (inFmt 7 wA)]

theorem witness_IntegerArithmetic : (∀ i ∈ ints, Issues i (world .dawn)) ∧ ∀ i ∈ ints, Issues i (world .dusk) :=
  ⟨issues_all (by decide +kernel), issues_all (by decide +kernel)⟩
theorem witness_LogicShiftsAndFields : (∀ i ∈ logic, Issues i (world .dawn)) ∧ ∀ i ∈ logic, Issues i (world .dusk) :=
  ⟨issues_all (by decide +kernel), issues_all (by decide +kernel)⟩
theorem witness_MovesAndPredicates : (∀ i ∈ Instr.lea { wB with c := .imm 3, e := 4 } :: moves, Issues i (world .dawn)) ∧
    ∀ i ∈ Instr.fcmp (inFmt 7 { wB with d := .reg 3, c := .reg 4 }) :: moves, Issues i (world .dusk) :=
  ⟨issues_all (by decide +kernel), issues_all (by decide +kernel)⟩
theorem witness_ScalarFloatingPoint : (∀ i ∈ floats7, Issues i (world .dusk)) ∧
    Issues (.fcvt (inFmt 10 (withE 7 wA))) (world .dusk) ∧ (world .dusk).myTask.formatAt 10 = some (.b8 0x24) ∧ (world .dusk).myTask.formatAt 7 = some .f32 :=
  ⟨issues_all (by decide +kernel), issues_of (by decide +kernel), by decide +kernel, by decide +kernel⟩

/-- TileLoadsAndFaults and TileStoresWrite: an address inside, one that is misaligned, the last doubleword but out of the stack window by a stack base, and one behind the allocation. -/
theorem witness_TileLoadsAndStores : let s := world .dawn
    Issues (.ldt (memD 4)) s ∧ Issues (.stt (memC 4)) s ∧ s.tileAdmits (memD 4) 0x1000 8 ∧ (s.address (memD 4)).toNat = 0x1000 ∧
    s.ownAhead s.cur.strand 0x1000 8 = false ∧ s.isDamaged (tilePa s.cur.strand.tileId 0x1000) 8 = false ∧ s.MemoryCanonical := by
  refine ⟨issues_of (by decide +kernel), issues_of (by decide +kernel), ?_, ?_, ?_, ?_, ?_⟩ <;>
    (try unfold State.tileAdmits) <;> (try unfold State.MemoryCanonical) <;> decide +kernel
theorem witness_TileFaults :
    (let s := worldStr .dawn (fun x => { x with regs := x.regs.set 4 0x1004 })
     Issues (.ldt (memD 4)) s ∧ (s.address (memD 4)).toNat % 8 ≠ 0) ∧
    (let s := worldStr .dawn (fun x => { x with regs := x.regs.set 30 0x1BF8 })
     Issues (.ldt (memD 30)) s ∧ (s.address (memD 30)).toNat % 8 = 0 ∧ isStackPointer (memD 30).a = true ∧ (s.address (memD 30)).toNat < s.me.stklim.toNat) ∧
    (let s := worldStr .dawn (fun x => { x with regs := x.regs.set 4 0x2000 })
     Issues (.ldt (memD 4)) s ∧ (s.address (memD 4)).toNat % 8 = 0 ∧ isStackPointer (memD 4).a = false ∧
       s.myTask.tmBase + s.myTask.tmSize < (s.address (memD 4)).toNat + 8) :=
  ⟨⟨issues_of (by decide +kernel), by decide +kernel⟩, ⟨issues_of (by decide +kernel), by decide +kernel⟩, ⟨issues_of (by decide +kernel), by decide +kernel⟩⟩

/-- ControlTransfers: transfers to the next word and to another section, and to addresses where no word begins. -/
def transfers (e : Nat) (r : BitVec 10) : List Instr :=
  [.br (withE e plainWord), .jmp { plainWord with a := .reg r }, .call (withE e wD), .callr { wD with a := .reg r }, .ret { plainWord with a := .reg r }]
theorem witness_ControlTransfers :
    (∀ c, (∀ i ∈ transfers 3 5, Issues i (world c)) ∧ ((world c).wordSection (world c).cur.strand ((world c).relativeGoal (withE 3 plainWord))).isSome = true ∧
      ((world c).wordSection (world c).cur.strand ((world c).registerGoal (.reg 5))).isSome = true) ∧
    (∀ c, (∀ i ∈ transfers 2 1, Issues i (world c)) ∧ (world c).wordSection (world c).cur.strand ((world c).relativeGoal (withE 2 plainWord)) = none ∧
      (world c).wordSection (world c).cur.strand ((world c).registerGoal (.reg 1)) = none) := by
  constructor <;> intro c <;> cases c <;> exact ⟨issues_all (by decide +kernel), by decide +kernel⟩

/-- LoopsAndOrder: a loop with a count, one without, both ways of BCQ; the next word, a loop that ends, and the next section. -/
def withQueues (c : CoreId) : State := worldWith c (fun t => { t with aq := [5], bq := [6], cq := [true] })
theorem witness_LoopsAndQueueBranches :
    (let s := world .dawn
     let w : Fields := { plainWord with a := .reg 1, e := 3 }
     Issues (.loop w) s ∧ (s.relativeGoal w).toNat < s.me.sectStart.toNat + 12 * s.me.sectLen ∧ (s.valueA w).extractLsb' 0 32 ≠ 0 ∧ s.me.loops.length < 2 ∧ s.inOrder) ∧
    (let s := world .dawn
     let w : Fields := { plainWord with a := .imm 0, e := 3 }
     Issues (.loop w) s ∧ (s.valueA w).extractLsb' 0 32 = 0 ∧ (s.relativeGoal w + 12).toNat < s.me.sectStart.toNat + 12 * s.me.sectLen ∧ s.me.loops = []) ∧
    (let s := withQueues .dusk
     s.myTask.cq = [true] ∧ Issues (.bcq (withE 3 plainWord)) s ∧ Issues (.bcq (inMod 1 (withE 3 plainWord))) s ∧
     (s.wordSection s.cur.strand (s.relativeGoal (withE 3 plainWord))).isSome = true) := by
  refine ⟨⟨issues_of (by decide +kernel), ?_⟩, ⟨issues_of (by decide +kernel), by decide +kernel⟩, by decide +kernel, issues_of (by decide +kernel),
    issues_of (by decide +kernel), by decide +kernel⟩
  unfold State.inOrder; decide +kernel
def atLoopEnd : State := worldStr .dawn (fun x => { x with loops := [{ start := 0x10038, last := 0x10038, count := 3, depth := 0 }] })
def atSectionEnd : State := worldStr .dawn (fun x => { x with pc := 0x10050 })
theorem witness_FallingThrough :
    (Issues (.nop plainWord) (world .dawn) ∧ (world .dawn).inOrder) ∧
    (Issues (.nop plainWord) atLoopEnd ∧ atLoopEnd.me.loops = [{ start := 0x10038, last := 0x10038, count := 3, depth := 0 }] ∧ atLoopEnd.me.depth = 0 ∧ atLoopEnd.me.pc = 0x10038) ∧
    (let s := atSectionEnd
     let h := BitVec.ofNat 64 (sectionHeader 7 2)
     Issues (.nop plainWord) s ∧ s.me.sectStart.toNat + 12 * s.me.sectLen ≤ (s.me.pc + 12).toNat ∧ s.me.loops = [] ∧
     s.readVirtual64 s.cur.strand.die (s.load s.myTask.load).domain 0x10060 = some h ∧ ((s.me.pc + 12).toNat + 7) / 8 * 8 = 0x10060 ∧ fld h 63 60 = 9 ∧
     s.me.sect < fld h 59 50 ∧ headerRefused s.myTask.hdr.ncarry h = false) := by
  refine ⟨⟨issues_of (by decide +kernel), ?_⟩, ⟨issues_of (by decide +kernel), by decide +kernel⟩, issues_of (by decide +kernel), by decide +kernel⟩
  unfold State.inOrder; decide +kernel

/-- QueuesAndTokens. -/
theorem witness_QueuesAndTokens :
    (∀ i ∈ ([.qpush { plainWord with d := .queue 0, a := .reg 1 }, .qpush (inMod 1 { plainWord with d := .queue 0, a := .reg 1, b := .reg 2 }),
        .qpush (inMod 2 { plainWord with d := .queue 0, a := .reg 1 }), .qpop { wD with a := .queue 1 }, .qpop (inMod 2 { wD with d := .reg 3, a := .queue 1 }),
        .qcount { wD with a := .queue 0 }, .tread (withE 3 wD)] : List Instr), Issues i (withQueues .dawn)) ∧
    (∀ i ∈ ([.qpop (inMod 1 { wD with a := .queue 0, c := .reg 6 }), .qpush { plainWord with d := .queue 1, a := .reg 1 }] : List Instr), Issues i (withQueues .dusk)) ∧
    queueOf (.queue 1) = [.bq] ∧ queueOf (.queue 0) = [.aq] ∧
    (let s := worldWith .dawn (fun t => { t with tokens := ⟨[(tokenIndex .dusk .dawn, 2)]⟩ })
     Issues (.twait (withE 2 (inMod 1 plainWord))) s ∧ 2 ≤ s.myTask.token (tokenIndex (Engine.ofBits 1) .dawn)) ∧
    (let s := worldWith .dawn (fun t => { t with tokens := ⟨[(tokenIndex .dawn .dusk, 61)]⟩ })
     Issues (.tsig (withE 2 (inMod 1 plainWord))) s [(tokenIndex .dawn .dusk, 2)]) :=
  ⟨issues_all (by decide +kernel), issues_all (by decide +kernel), by decide +kernel, by decide +kernel, ⟨issues_of (by decide +kernel), by decide +kernel⟩, issues_of (by decide +kernel)⟩

/-- StrandsAndCounters. -/
theorem witness_StrandsAndCounters :
    (∀ i ∈ ([.suspend { plainWord with a := .reg 1, b := .reg 2, e := 3 }, .endStrand plainWord, .yield plainWord, .nop plainWord, .evrd { wD with a := .reg 1 },
        .evadd { plainWord with a := .reg 1, b := .reg 2 }, .evset { plainWord with a := .reg 1, b := .reg 2 }, .graise wA, .gread wD,
        .setnf { plainWord with d := .reg 0, a := .imm 0x24 }] : List Instr), Issues i (world .dawn)) ∧
    ((world .dawn).wordSection dawn ((world .dawn).relativeGoal { plainWord with a := .reg 1, b := .reg 2, e := 3 })).isSome = true ∧ (world .dawn).inOrder ∧
    ((world .dawn).valueA { plainWord with a := .imm 0x24 }).toNat = 0x24 ∧ nfValid 0x24 = true := by
  refine ⟨issues_all (by decide +kernel), by decide +kernel, ?_, by decide +kernel⟩
  unfold State.inOrder; decide +kernel

/-! ### Global memory -/

/-- Dawn with a presence word and an event counter to address. -/
def globalWorld : State := worldStr .dawn (fun x => { x with regs := (x.regs.set 8 0x30000).set 9 0x50000 })
def leafTwo : Word64 := BitVec.ofNat 64 (0xFF * 2 ^ 56 + 0x20000 + 0x87)
def leafThree : Word64 := BitVec.ofNat 64 (0xFF * 2 ^ 56 + 0x30000 + 0xC3)
def leafFive : Word64 := BitVec.ofNat 64 (0xFF * 2 ^ 56 + (tileWindow + 0xC00000) + 0x93)

theorem witness_GlobalStores : let s := globalWorld
    (∀ i ∈ ([.ldg (memD 3), .ldc (memD 3), .stg (memC 3), .stf { memC 3 with d := .reg 3 }, .stf (inMod 1 { memC 3 with d := .reg 9 })] : List Instr), Issues i s) ∧
    s.Reaches (memD 3) 8 .load true 0x20000 leafTwo ∧ s.Reaches (memC 3) 8 .store true 0x20000 leafTwo ∧ s.isDamaged 0x20000 8 = false ∧
    s.Reaches { memC 3 with d := .reg 3 } 8 .store true 0x20000 leafTwo 2 ∧ s.Admits 0x20000 8 .flagMem 0x20000 leafTwo ∧
    s.Reaches (inMod 1 { memC 3 with d := .reg 9 }) 8 .store true 0x20000 leafTwo 2 ∧ s.Admits 0x50000 4 .flagEvent (tileWindow + 0xC00000) leafFive ∧
    s.isDamaged (tileWindow + 0xC00000) 4 = false := by
  refine ⟨issues_all (by decide +kernel), reaches_of (by decide +kernel), reaches_of (by decide +kernel), by decide +kernel, reaches_of (by decide +kernel),
    admits_of (by decide +kernel), reaches_of (by decide +kernel), admits_of (by decide +kernel), by decide +kernel⟩

/-- A PST that waits for its home's answer, and its word. -/
def answeredPst (refused : Bool) : State :=
  globalWorld.updStrand dawn (fun x => { x with pst := some { access := 3, addr := x.pc, va := 0x30000, refused := some refused } })
theorem witness_PresenceAndAtomics : let s := globalWorld
    (∀ i ∈ ([.pld (memD 8), .prst { plainWord with a := .reg 8 }, .pst (memC 8), .atadd (memDC 3), .atand (memDC 3), .ator (memDC 3), .atxor (memDC 3), .atmin (memDC 3), .atmax (memDC 3),
        .atswp (memDC 3), .atcas (memDC 3), .amaxx (memD 3), .atfadd (inFmt 7 (memDC 3)), .atfmax (inFmt 7 (memDC 3))] : List Instr), Issues i s) ∧ s.me.pst = none ∧
    s.Reaches (memD 8) 8 .presLoad false 0x30000 leafThree ∧ s.isDamaged 0x30000 8 = false ∧ s.Reaches { plainWord with a := .reg 8 } 8 .presStore false 0x30000 leafThree ∧
    s.Reaches (memC 8) 8 .presStore false 0x30000 leafThree ∧ s.Reaches (memDC 3) 8 .atomic false 0x20000 leafTwo ∧ s.isDamaged 0x20000 8 = false ∧
    s.Reaches (inFmt 7 (memDC 3)) 4 .atomic false 0x20000 leafTwo ∧ s.Reaches (memD 3) 8 .atomic false 0x20000 leafTwo ∧
    Issues (.pst (memC 8)) (answeredPst false) ∧ (answeredPst false).me.pst = some { access := 3, addr := (answeredPst false).me.pc, va := 0x30000, refused := some false } ∧
    Issues (.pst (memC 8)) { answeredPst true with cur := (answeredPst true).cur } := by
  refine ⟨issues_all (by decide +kernel), by decide +kernel, reaches_of (by decide +kernel), by decide +kernel, reaches_of (by decide +kernel), reaches_of (by decide +kernel),
    reaches_of (by decide +kernel), by decide +kernel, reaches_of (by decide +kernel), reaches_of (by decide +kernel), issues_of (by decide +kernel), by decide +kernel, issues_of (by decide +kernel)⟩

/-- A fence of the strand at its word, met. -/
def fenceMetHere : State := globalWorld.updStrand dawn (fun x => { x with fences := [{ lfence := false, scope := .die, before := 0, own := some x.pc, met := true, pushes := [(tokenIndex .dawn .serac, 1)] }] })
theorem witness_FencesAndPrefetch : let s := globalWorld
    (∀ i ∈ ([.fence plainWord, .fence (inMod 2 plainWord), .lfence plainWord, .fence (inMod 2 { plainWord with push := 10 }), .lfence { plainWord with push := 10 },
        .pref { plainWord with a := .reg 3 }] : List Instr), Issues i s) ∧ (tokenField plainWord.push).2 = 0 ∧ (tokenField (10 : BitVec 4)).2 ≠ 0 ∧
    (s.die 0).phase = 0 ∧ s.me.fences = [] ∧ s.Reaches { plainWord with a := .reg 3 } 1 .load true 0x20000 leafTwo ∧
    (let t := fenceMetHere
     (∃ x, t.me.fences.find? (fun y => y.own == some t.me.pc) = some x ∧ x.met = true) ∧ Issues (.fence (inMod 2 { plainWord with push := 10 })) t ∧ Issues (.lfence { plainWord with push := 10 }) t) ∧
    (let t := globalWorld.updStrand dawn (fun x => { x with regs := x.regs.set 3 (BitVec.ofNat 64 (2 ^ 56)) })
     Issues (.pref { plainWord with a := .reg 3 }) t ∧ t.me.walk = none ∧ t.incomplete dawn < 64 ∧ (match t.lookup dawn (2 ^ 56) with | .error (.inl _) => true | _ => false) = true) := by
  refine ⟨issues_all (by decide +kernel), by decide +kernel, by decide +kernel, by decide +kernel, by decide +kernel, reaches_of (by decide +kernel),
    ⟨⟨{ lfence := false, scope := .die, before := 0, own := some 0x10038, met := true, pushes := [(tokenIndex .dawn .serac, 1)] }, by decide +kernel⟩, issues_of (by decide +kernel),
      issues_of (by decide +kernel)⟩, issues_of (by decide +kernel), by decide +kernel⟩

/-- FencesPrefetchAndFaults, the faults of LDG: misaligned, beyond 2^56, not translated (a walk that failed, and none yet), and a leaf that refuses. -/
def addressed (a : Nat) (f : Strand → Strand := id) : State := worldStr .dawn (fun x => f { x with regs := x.regs.set 3 (BitVec.ofNat 64 a) })
theorem witness_GlobalFaults :
    (Issues (.ldg (memD 3)) (addressed 0x20001) ∧ ((addressed 0x20001).address (memD 3)).toNat % 8 ≠ 0) ∧
    (Issues (.ldg (memD 3)) (addressed (2 ^ 56)) ∧ 2 ^ 56 ≤ ((addressed (2 ^ 56)).address (memD 3)).toNat) ∧
    (let s := addressed 0x90000 (fun x => { x with walkFailed := some (9, 2, 3) })
     Issues (.ldg (memD 3)) s ∧ s.myTile.cached 0 9 = none ∧ s.me.walkFailed = some (9, 2, 3)) ∧
    (let s := addressed 0x90000
     Issues (.ldg (memD 3)) s ∧ s.myTile.cached 0 9 = none ∧ s.me.walkFailed = none ∧ s.myTile.tcache.length < 2048) ∧
    (let s := addressed 0x30001
     let e := leafAt 3 0x30000 0xC3
     Issues (.ldg (inFmt 6 (memD 3))) s ∧ s.myTile.cached 0 3 = some e ∧ (match s.checkPart e.leaf e.level 0x30001 1 .load 0 false with | .error _ => true | .ok _ => false) = true) ∧
    ∀ a ∈ [0x20001, 2 ^ 56, 0x90000, 0x30001], (addressed a).me.walk = none ∧ (addressed a).incomplete dawn < 64 ∧ ((addressed a).die 0).phase = 0 := by
  refine ⟨⟨issues_of (by decide +kernel), by decide +kernel⟩, ⟨issues_of (by decide +kernel), by decide +kernel⟩, ⟨issues_of (by decide +kernel), by decide +kernel⟩,
    ⟨issues_of (by decide +kernel), by decide +kernel⟩, ⟨issues_of (by decide +kernel), by decide +kernel⟩, by decide +kernel⟩

/-! ### Vectors and ports -/

def vectorMemory : List Instr :=
  [.vld (inFmt 7 (memD 4)), .vst (inFmt 7 (memC 4)), .vlds (inFmt 7 { memD 4 with b := .scalar 0 9 }), .vsts (inFmt 7 { memC 4 with b := .scalar 0 9 }),
   .vldt (inFmt 7 { memD 4 with b := .scalar 0 10 }), .vstt (inFmt 7 { memC 4 with b := .scalar 0 10 })]
def vectorWorld : State := worldStr .dusk (fun x => { x with regs := ((x.regs.set 9 128).set 10 64).set 4 0 })
theorem lookup_mem {κ α : Type} [DecidableEq κ] {k : κ} {v : α} : ∀ {l : List (κ × α)}, Map.lookup k l = some v → ∃ e ∈ l, e.2 = v
  | e :: es, h => by
    unfold Map.lookup at h
    split at h
    · exact ⟨e, List.mem_cons_self, Option.some.inj h⟩
    · obtain ⟨x, hx, hv⟩ := lookup_mem h
      exact ⟨x, List.mem_cons_of_mem _ hx, hv⟩
theorem vectorsWhole_of {s : State} (h : s.tasks.entries.all (fun e => e.2.v.entries.all (fun x => x.2.length == 1024)) = true) : s.VectorsWhole := by
  intro i n
  unfold State.task Map.get Map.find?
  cases hi : Map.lookup i s.tasks.entries with
  | none => exact .inl rfl
  | some t =>
    obtain ⟨e, he, rfl⟩ := lookup_mem hi
    cases hn : Map.lookup n e.2.v.entries with
    | none => left; simp [hn]
    | some v =>
      obtain ⟨x, hx, rfl⟩ := lookup_mem hn
      right; simpa [hn] using List.all_eq_true.mp (List.all_eq_true.mp h e he) x hx

/-- A vector access from address 0 without a swizzle, whose rows end inside the allocation, is admitted. -/
theorem vectorAdmits_of {s : State} {w : Fields} {strided trans : Bool} {f : Format} {st : Nat} (hsp : isStackPointer w.a = false) (hm : fld w.mod 1 0 = 0)
    (hb : s.vectorBase w strided = 0) (hs : s.vectorStride w strided f = st) (ha : st % (if trans then 16 * f.bytes else if f.bytes = 1 then 64 else 128) = 0)
    (hf : f.bytes = 4) (ht : s.myTask.tmBase = 0) (hz : 63 * st + 256 ≤ s.myTask.tmBase + s.myTask.tmSize ∨ (trans = false ∧ 15 * st + 256 ≤ s.myTask.tmBase + s.myTask.tmSize))
    (hl : st < 2 ^ 16) : s.vectorAdmits w strided trans f := by
  refine ⟨by rw [hb]; simp, by rw [hs]; exact ha, fun r c k hr hc hk => ⟨fun h => absurd h (by simp [hsp]), ?_⟩⟩
  rw [hb, hs, hm, hf] at *
  have hrs : r * st ≤ 15 * st := Nat.mul_le_mul_right _ (by omega)
  have hcs : c * st ≤ 63 * st := Nat.mul_le_mul_right _ (by omega)
  cases trans <;> simp [elementAt] at hz ⊢ <;> omega

theorem witness_VectorMemory : let s := vectorWorld
    (∀ i ∈ vectorMemory, Issues i s) ∧ s.myTask.formatAt 7 = some .f32 ∧ s.MemoryCanonical ∧ s.VectorsWhole ∧
    s.vectorAdmits (inFmt 7 (memD 4)) false false .f32 ∧ s.vectorAdmits (inFmt 7 { memD 4 with b := .scalar 0 9 }) true false .f32 ∧
    s.vectorAdmits (inFmt 7 { memD 4 with b := .scalar 0 10 }) true true .f32 ∧ s.damaged = [] := by
  refine ⟨issues_all (by decide +kernel), by decide +kernel, by unfold State.MemoryCanonical; decide +kernel, vectorsWhole_of (by decide +kernel),
    vectorAdmits_of (st := 256) ?_ ?_ ?_ ?_ ?_ ?_ ?_ ?_ ?_, vectorAdmits_of (st := 128) ?_ ?_ ?_ ?_ ?_ ?_ ?_ ?_ ?_,
    vectorAdmits_of (st := 64) ?_ ?_ ?_ ?_ ?_ ?_ ?_ ?_ ?_, ?_⟩ <;> decide +kernel

/-- VectorArithmetic, VectorBitsMovesAndMasks, PermutesAndReductions, ConversionsAndFunctions. -/
def lanes : List Instr :=
  [.vadd (inFmt 7 wB), .vsub (inFmt 7 wB), .vmul (inFmt 7 wB), .vmin (inFmt 7 wB), .vmax (inFmt 7 wB), .vabs (inFmt 7 wA), .vneg (inFmt 7 wA), .vfma (inFmt 7 wC),
   .vand wB, .vor wB, .vxor wB, .vshl (inFmt 1 wB), .vshr (inFmt 1 wB), .vsar (inFmt 1 wB), .vsel { wB with c := .reg 3 }, .vmov wA, .vbcs (inFmt 7 wA),
   .vcmp (inFmt 7 { wB with d := .reg 3 }), .klog { wB with d := .reg 3 }, .kmov { wA with d := .reg 3 }, .kmov (inMod 1 { wB with d := .reg 3 }), .kmov (inMod 2 wB),
   .kmov (inMod 3 wA), .kmov (inMod 4 wA), .vextr wB, .vins wB, .vswz wB, .vswz (inMod 1 wB), .vswz (inMod 2 wB), .vrotr wB, .vrotr (inMod 1 wB), .vrotc wB,
   .vrotc (inMod 1 wB), .vbcr wB, .vbcc wB, .vredr (inFmt 7 wA), .vredc (inFmt 7 wA), .vscnr (inFmt 7 wA), .vscnc (inFmt 7 wA),
   .vexp (inFmt 7 wA), .vlog (inFmt 7 wA), .vrcp (inFmt 7 wA), .vrsq (inFmt 7 wA), .vtanh (inFmt 7 wA)]
theorem witness_VectorWords : (∀ i ∈ lanes, Issues i (world .dusk)) ∧ (world .dusk).VectorsWhole ∧ (world .dusk).myTask.formatAt 7 = some .f32 ∧
    (∀ n, 1024 * 1 + n ∉ (world .dusk).myTask.badV) :=
  ⟨issues_all (by decide +kernel), vectorsWhole_of (by decide +kernel), by decide +kernel, fun n => List.not_mem_nil⟩
theorem witness_ConversionsAndFunctions : let s := world .dusk
    Issues (.vcvt (inFmt 8 (withE (7 * 64) wA))) s ∧ Issues (.vqnt (inFmt 10 (withE (7 * 64) { wA with c := .reg 6 }))) s ∧
    Issues (.vdqnt (inFmt 7 (withE (10 * 64) { wA with c := .reg 6 }))) s ∧
    s.myTask.formatAt 8 = some .bf16 ∧ s.myTask.formatAt 7 = some .f32 ∧ s.myTask.formatAt 10 = some (.b8 0x24) ∧ s.VectorsWhole :=
  ⟨issues_of (by decide +kernel), issues_of (by decide +kernel), issues_of (by decide +kernel), by decide +kernel, by decide +kernel, by decide +kernel, vectorsWhole_of (by decide +kernel)⟩

/-- PortsPop: four whole beats for a row; a poison, and an end of the queue, before the last element. -/
def popWord : Fields := inFmt 7 { plainWord with d := .reg 7, a := .queue 0x10, b := .imm 1 }
def shortBeats (last : List Tok) : List Beat := [numbered 0, ⟨[.elem 7] ++ last, false⟩]
theorem witness_PortsPop :
    (let s := streamsOf fourBeats
     let p := s.operandPort false popWord.a
     Issues (.vpop popWord) s ∧ (s.boundTo p).isSome = true ∧ seracNames s.myTask (opndPort popWord.a) = false ∧ (s.valueOf [] popWord.b).toNat = 1 ∧
     portAgrees s.myTask popWord false (s.portType p) = true ∧ s.myTask.formatAt 7 = some .f32 ∧ s.VectorsWhole ∧ PopTakes (s.inToks p) 64 (fourBeats.flatMap Beat.toks) []) ∧
    (∀ last ∈ ([[], [.poison 5]] : List (List Tok)), let s := streamsOf (shortBeats last)
     let p := s.operandPort false popWord.a
     let taken := (numbered 0).toks ++ [.elem 7]
     Issues (.vpop popWord) s ∧ (s.boundTo p).isSome = true ∧ portAgrees s.myTask popWord false (s.portType p) = true ∧ s.inToks p = taken ++ last ∧ elemCount taken < 64 ∧
     ∀ t ∈ taken, t ≠ .eos ∧ ∀ o, t ≠ .poison o) := by
  have plain : ∀ l : List Tok, l.all (fun t => (match t with | .elem _ => true | _ => false)) = true → ∀ t ∈ l, t ≠ .eos ∧ ∀ o, t ≠ .poison o := by
    intro l hl t ht
    have := List.all_eq_true.mp hl t ht
    cases t <;> simp_all
  refine ⟨⟨issues_of (by decide +kernel), by decide +kernel, by decide +kernel, by decide +kernel, by decide +kernel, by decide +kernel, vectorsWhole_of (by decide +kernel),
    by decide +kernel, plain _ (by decide +kernel), .inl ⟨by decide +kernel, 63, by decide +kernel⟩⟩, ?_⟩
  intro last hl
  simp only [List.mem_cons, List.not_mem_nil, or_false] at hl
  rcases hl with rfl | rfl <;>
    exact ⟨issues_of (by decide +kernel), by decide +kernel, by decide +kernel, by decide +kernel, by decide +kernel, plain _ (by decide +kernel)⟩

/-- PortsPush. -/
def pushWord : Fields := inFmt 7 { plainWord with d := .queue 0x18, a := .reg 1, b := .imm 1 }
/-- The channel of output port 0 quantises with a delayed scale. -/
def delayedStreams : State :=
  let s := streamsOf fourBeats
  { s with chans := s.chans.set ⟨theLoad, 1⟩ { (s.chan ⟨theLoad, 1⟩) with dtype := BitVec.ofNat 32 (10 * 2 ^ 28 + 0x24 * 2 ^ 22 + 3 * 2 ^ 20) } }
theorem witness_PortsPush :
    (let s := streamsOf fourBeats
     let p := s.operandPort true pushWord.d
     (∀ i ∈ ([.vpush pushWord, .pscl { plainWord with a := .reg 1, e := 0 }, .peos { plainWord with d := .queue 0x18 }, .pord { plainWord with d := .queue 0x18 }] : List Instr), Issues i s) ∧
     s.VectorsWhole ∧ (s.valueOf [] pushWord.b).toNat = 1 ∧ portAgrees s.myTask pushWord true (s.portType p) = true ∧
     (∃ id c, s.boundTo p = some (id, c) ∧ (sendBeats c ((List.range 64).map (fun _ => Tok.elem 0))).length ≤ c.room) ∧ 1 ≤ s.roomAt p ∧
     s.delayedOut (s.fieldPort { plainWord with a := .reg 1, e := 0 }) = false) ∧
    (let s := delayedStreams
     let w : Fields := { plainWord with a := .reg 1, e := 0x10 }
     Issues (.pscl w) s ∧ s.delayedOut (s.fieldPort w) = true ∧ 1 ≤ s.roomAt (s.fieldPort w)) := by
  refine ⟨⟨issues_all (by decide +kernel), vectorsWhole_of (by decide +kernel), by decide +kernel, by decide +kernel,
    ⟨⟨theLoad, 1⟩, (streamsOf fourBeats).chan ⟨theLoad, 1⟩, by decide +kernel⟩, by decide +kernel⟩, issues_of (by decide +kernel), by decide +kernel⟩

/-- PortReads, with PDRN at an end-of-stream. -/
theorem witness_PortReads :
    (∀ i ∈ ([.pthr { plainWord with a := .reg 1, b := .reg 2 }, .pstat wD, .pstat (inMod 1 wD), .ptst { plainWord with d := .reg 3, b := .reg 2, c := .reg 4 },
        .ptst (inMod 1 { plainWord with d := .reg 3, c := .reg 4 }), .pdrn { wD with a := .queue 0x10 }, .ptyp wD] : List Instr), Issues i (streamsOf fourBeats)) ∧
    ((streamsOf fourBeats).valueOf [] (.reg 2)).toNat < 65536 ∧
    (let s := streamsOf (shortBeats [.eos])
     Issues (.pdrn { wD with a := .queue 0x10 }) s ∧ seracNames s.myTask 0 = false ∧ s.inToks (s.operandPort false (.queue 0x10)) = ((numbered 0).toks ++ [Tok.elem 7, Tok.eos]) ++ [] ∧
     (∀ t ∈ ((numbered 0).toks ++ [Tok.elem 7, Tok.eos]).dropLast, t ≠ .eos) ∧ ((numbered 0).toks ++ [Tok.elem 7, Tok.eos]).getLast? = some .eos) := by
  refine ⟨issues_all (by decide +kernel), by decide +kernel, issues_of (by decide +kernel), by decide +kernel⟩

/-! ### Engine commands -/

def seracWords : List Instr :=
  [.smm { plainWord with d := .reg 1, a := .reg 3, b := .reg 4, c := .reg 6 }, .smmz { plainWord with d := .reg 1, a := .reg 3, b := .reg 4, c := .reg 6 },
   .saccrd { plainWord with a := .reg 1, b := .reg 4, c := .reg 6 }, .saccwr { plainWord with d := .reg 1, a := .reg 4, b := .reg 6 }, .saccz { plainWord with d := .reg 1 },
   .sscl { plainWord with a := .imm 0x7F }, .smode { plainWord with a := .imm 1 }, .saccv { plainWord with d := .reg 1, a := .reg 1, b := .imm 0, c := .imm 2 },
   .svacc { plainWord with d := .reg 1, a := .reg 1, b := .imm 0, c := .imm 2 }, .sprog { wD with a := .reg 1 }, .sstr { plainWord with d := .reg 2, a := .imm 3, b := .imm 2 },
   .sbwl { plainWord with d := .reg 1, a := .reg 4, b := .reg 6 }]
def stageWord (r : BitVec 10) : Fields := { plainWord with d := .reg 0, a := .reg 1, b := .reg 2, c := .reg r }
def stageWorld : State := worldStr .dusk (fun x => { x with regs := (x.regs.set 10 0x3).set 11 0x30003 })
theorem witness_SeracCommandsEnter : let s := world .dusk
    (∀ i ∈ seracWords, Issues i s) ∧ (s.valueOf [] (.reg 6)).toNat < 65536 ∧ (s.valueOf [] (.imm 0x7F)).toNat < 256 ∧ (s.valueOf [] (.imm 1)).toNat < 4 ∧
    (s.valueOf [] (.imm 0)).toNat + (s.valueOf [] (.imm 2)).toNat ≤ 16 ∧ 1 ≤ (s.valueOf [] (.imm 2)).toNat ∧ 1 + (s.valueOf [] (.imm 2)).toNat ≤ s.myTask.hdr.vframe ∧
    (∀ k, pendingVec s.myTask k true = false ∧ pendingVec s.myTask k false = false) ∧ (s.myTask.acc.get 1 {}).badState = false ∧
    (let t := streamsOf fourBeats
     let w : Fields := { plainWord with d := .reg 1, a := .queue 0x10, b := .reg 4, c := .reg 6 }
     Issues (.smm (inFmt 0 w)) { t with chans := t.chans.mapVals (fun _ c => { c with stype := BitVec.ofNat 32 (8 * 2 ^ 28), dtype := BitVec.ofNat 32 (8 * 2 ^ 28) }) }) ∧
    (Issues (.sbfly (stageWord 10)) stageWorld ∧ Issues (.schain (stageWord 11)) stageWorld ∧ (stageWorld.valueOf [] (.reg 10)).toNat = 3 ∧ (stageWorld.valueOf [] (.reg 11)).toNat = 0x30003 ∧
     rangeTrap (opOf (.sbfly (stageWord 10))) (stageWord 10) stageWorld.myTask.hdr.accs (tileRanges (stageWord 10) 3) = none ∧
     rangeTrap (opOf (.schain (stageWord 11))) (stageWord 11) stageWorld.myTask.hdr.accs (tileRanges (stageWord 11) 0x30003) = none) := by
  refine ⟨issues_all (by decide +kernel), by decide +kernel, by decide +kernel, by decide +kernel, by decide +kernel, by decide +kernel, by decide +kernel, fun k => ⟨rfl, rfl⟩,
    by decide +kernel, issues_of (by decide +kernel), issues_of (by decide +kernel), issues_of (by decide +kernel), by decide +kernel⟩

/-- Dawn with addresses in tile memory, streamer endpoints, and descriptors of a nest, of a gather and of sparse values at 0x400, 0x440 and 0x480. -/
def moraineWorld : State :=
  let s := (streamsOf fourBeats .dawn).updStrand dawn (fun x => { x with regs := ((((x.regs.set 8 0x100).set 9 0x200).set 10 64).set 11 0x400).set 12 0x440 |>.set 13 0x480 })
  { s with mem := worldMem ++ cellsOf (tilePa ⟨0, 0⟩ 0x400, 8, 1 * 2 ^ 60 + 8) ++ cellsOf (tilePa ⟨0, 0⟩ 0x440, 8, 2 * 2 ^ 60 + 8) ++ cellsOf (tilePa ⟨0, 0⟩ 0x448, 8, 4) ++
      cellsOf (tilePa ⟨0, 0⟩ 0x480, 8, 3 * 2 ^ 60 + 4) ++ cellsOf (tilePa ⟨0, 0⟩ 0x488, 8, 0) }
def moraineWords : List Instr :=
  [.mcpy (inMod 3 { plainWord with d := .reg 8, a := .reg 9, b := .reg 10 }), .mfill (inMod 2 { plainWord with d := .reg 8, b := .reg 10, c := .reg 1 }),
   .mcpy2 (inMod 3 { plainWord with d := .reg 8, a := .reg 9, b := .reg 10, c := .reg 2 }), .mnest (inMod 3 { plainWord with d := .reg 8, a := .reg 9, b := .reg 11 }),
   .mgth (inMod 7 { plainWord with d := .reg 8, a := .reg 9, b := .reg 10, c := .reg 12 }), .msct (inMod 7 { plainWord with d := .reg 8, a := .reg 9, b := .reg 10, c := .reg 12 }),
   .mspg (inMod 7 { plainWord with d := .reg 8, a := .reg 9, b := .reg 10, c := .reg 13 }), .mm2c (inFmt 7 (inMod 1 { plainWord with a := .reg 9, b := .imm 0, c := .reg 10 })),
   .mc2m (inFmt 7 (inMod 1 { plainWord with a := .reg 9, b := .imm 0, c := .reg 10 })), .mstat { wD with a := .imm 1 }]
/-- The bytes of a descriptor. -/
def described (a : Nat) : List Word64 := toDwords (moraineWorld.readTile ⟨0, 0⟩ a 64)
theorem witness_MoraineCommandsEnter : let s := moraineWorld
    (∀ i ∈ moraineWords, Issues i s) ∧ (s.valueOf [] (.reg 10)).toNat < 2 ^ 32 ∧ s.Describes 0x400 1 nestBad (described 0x400) ∧ s.Describes 0x440 2 indexBad (described 0x440) ∧
    s.Describes 0x480 3 sparseBad (described 0x480) ∧ fld (s.valueOf [] (.reg 10)) 63 48 = 0 ∧ fld (s.valueOf [] (.reg 10)) 31 0 ≤ 2 ^ 24 ∧
    (∀ out : Bool, (∃ x, s.boundTo (streamerPort ⟨0, 0⟩ out 0) = some x ∧ x.1.load = s.myTask.load) ∧ formatMatches s.myTask 7 (s.portType (streamerPort ⟨0, 0⟩ out 0)) = true ∧
      typeSkind (s.portType (streamerPort ⟨0, 0⟩ out 0)) = 0) ∧ (s.valueOf [] (.imm 1)).toNat < 16 ∧
    (∃ parts, s.extentsPass { blankCommand (.mcpy (inMod 3 { plainWord with d := .reg 8, a := .reg 9, b := .reg 10 })) with vd := 0x100, va := 0x200, vb := 64 } parts) := by
  refine ⟨issues_all (by decide +kernel), by decide +kernel, ⟨?_, ?_, ?_, ?_, ?_, ?_, ?_⟩, ⟨?_, ?_, ?_, ?_, ?_, ?_, ?_⟩, ⟨?_, ?_, ?_, ?_, ?_, ?_, ?_⟩, by decide +kernel, by decide +kernel,
    fun out => ?_, by decide +kernel, [], by decide +kernel, rfl⟩ <;> first | decide +kernel | rfl | skip
  cases out
  · exact ⟨⟨(⟨theLoad, 2⟩, moraineWorld.chan ⟨theLoad, 2⟩), by decide +kernel⟩, by decide +kernel⟩
  · exact ⟨⟨(⟨theLoad, 3⟩, moraineWorld.chan ⟨theLoad, 3⟩), by decide +kernel⟩, by decide +kernel⟩

/-! ### System words, checks and contexts -/

/-- The world with a privileged load, monitors that count what the model shows and what it does not, and breakpoints on tile 0. -/
def privileged (c : CoreId) (n : Nat := 0) : State :=
  ((world c).updLoad theLoad (fun l => { l with priv := true })).updDie 0 (fun d =>
    { d with dbgen := 1, monitors := ⟨[(0, { en := true, src := 0x10 }), (1, { en := true, src := 1 })]⟩, xinv0 := BitVec.ofNat 64 n })
def atMonitor (n : Nat) : State := (privileged .dawn).updStrand dawn (fun x => { x with regs := (x.regs.set 1 (BitVec.ofNat 64 n)).set 2 (BitVec.ofNat 64 0x10050) })
def systemNumbers : List Nat :=
  [0x000, 0x010, 0x017, 0x018, 0x01F, 0x020, 0x021, 0x022, 0x030, 0x031, 0x032, 0x033, 0x034, 0x035, 0x040, 0x050, 0x053, 0x060, 0x070, 0x080, 0x081]
def writtenNumbers : List Nat := [0x000, 0x010, 0x01F, 0x020, 0x021, 0x022, 0x030, 0x031, 0x032, 0x033, 0x035, 0x040, 0x050, 0x053, 0x060, 0x070, 0x080, 0x081]
theorem witness_SystemRegisters : ∀ c : CoreId,
    (∀ i ∈ systemNumbers.map (fun n => Instr.sysrd (withE n wD)) ++ writtenNumbers.map (fun n => Instr.syswr (withE n { plainWord with a := .reg 1 })), Issues i (privileged c)) ∧
    (∀ n ∈ systemNumbers ++ writtenNumbers, fld (withE n wD).e 11 0 = n) := by
  intro c; cases c <;> exact ⟨issues_all (by decide +kernel), by decide +kernel⟩

theorem witness_TrapsMonitorsAndHalt :
    (∀ i ∈ ([.setstk { plainWord with a := .reg 4, b := .reg 4 }, .halt plainWord, .trap { plainWord with a := .reg 1 }, .bkpt plainWord] : List Instr), Issues i (privileged .dawn)) ∧
    (let s := privileged .dawn
     let a := s.valueOf [] (.reg 4)
     a.toNat % 8 = 0 ∧ s.myTask.tmBase ≤ a.toNat ∧ a.toNat ≤ s.myTask.tmBase + s.myTask.tmSize) ∧
    ((privileged .dawn).die 0).dbgen.getLsbD 0 = true ∧ ((world .dawn).die 0).dbgen.getLsbD 0 = false ∧ Issues (.bkpt plainWord) (world .dawn) ∧
    (∀ n ∈ [0, 1], Issues (.monrd { plainWord with d := .reg 7, a := .reg 1 }) (atMonitor n) ∧ fld ((atMonitor n).valueOf [] (.reg 1)) 31 4 = 0 ∧
      (((atMonitor n).die 0).monitors.get n {}).en = true ∧ monitorExact (((atMonitor n).die 0).monitors.get n {}).src.toNat = (n == 1)) ∧
    (let s := atMonitor 0
     let b := s.valueOf [] (.reg 2)
     Issues (.moncfg { plainWord with a := .reg 1, b := .reg 2 }) s ∧ fld b 31 18 = 0 ∧ monitorSource (fld b 15 0) = true) := by
  refine ⟨issues_all (by decide +kernel), by decide +kernel, by decide +kernel, by decide +kernel, issues_of (by decide +kernel), ?_, issues_of (by decide +kernel), by decide +kernel⟩
  intro n hn
  simp only [List.mem_cons, List.not_mem_nil, or_false] at hn
  rcases hn with rfl | rfl <;> exact ⟨issues_of (by decide +kernel), by decide +kernel⟩

/-- SETSTK: both fit; A misaligned, below and above the allocation; B misaligned, and above A. -/
def stackWorld (a b : Nat) : State := (privileged .dawn).updStrand dawn (fun x => { x with regs := (x.regs.set 1 (BitVec.ofNat 64 a)).set 2 (BitVec.ofNat 64 b) })
def setstkWord : Fields := { plainWord with a := .reg 1, b := .reg 2 }
theorem witness_SetstkChecks :
    let top := 0x2000
    let ok (a b : Nat) : Prop := Issues (.setstk setstkWord) (stackWorld a b) ∧ ((stackWorld a b).valueOf [] (.reg 1)).toNat = a ∧ ((stackWorld a b).valueOf [] (.reg 2)).toNat = b ∧
      (stackWorld a b).myTask.tmBase = 0 ∧ (stackWorld a b).myTask.tmSize = top
    ok 0x2000 0 ∧ ok 0x2004 0 ∧ ok 0x2008 0 ∧ ok 0x2000 4 ∧ ok 0x1FF8 0x2000 :=
  ⟨⟨issues_of (by decide +kernel), by decide +kernel⟩, ⟨issues_of (by decide +kernel), by decide +kernel⟩, ⟨issues_of (by decide +kernel), by decide +kernel⟩,
    ⟨issues_of (by decide +kernel), by decide +kernel⟩, ⟨issues_of (by decide +kernel), by decide +kernel⟩⟩

/-- RefusedWords: an unassigned opcode, a word of the other core, a privileged one, and a register that the header does not declare. -/
def refusedWords : List (Instr × CoreId) :=
  [(.unassigned 0xFF plainWord, .dawn), (.vadd (inFmt 7 wB), .dawn), (.halt plainWord, .dawn), (.ldg (memD 3), .dusk), (.add { wB with d := .reg 20 }, .dawn), (.add { wB with d := .reg 20 }, .dusk)]
def smallWorld (c : CoreId) : State := worldWith c (fun t => { t with hdr := { t.hdr with aregs := 16, sregs := 16 } })
theorem witness_RefusedWordsFault : ∀ x ∈ refusedWords, let s := smallWorld x.2
    x.1.strandWord.isSome = true ∧ s.canIssue s.cur.strand = true ∧ s.cur.pair = none ∧ s.cur.mate = none ∧
    (wordTrap s.cur.strand.core s.myTask (s.load s.myTask.load).priv x.1 false none (s.guardTrue (fieldsOf x.1))).isSome = true := by decide +kernel
theorem witness_WordChecks :
    let legal (c : CoreId) (i : Instr) (op : BitVec 8) (w : Fields) : Bool := unassignedOpcode op == false && ((formOf c i).core.isNone || (formOf c i).core == some c) &&
      (refusals c (formOf c i) w (stageOrder op true)).all (fun r => !r.2)
    (Instr.unassigned 0xFF plainWord).strandWord = some (0xFF, plainWord) ∧ unassignedOpcode 0xFF = true ∧
    (unassignedOpcode 0x88 = false ∧ (formOf .dawn (.vadd wB)).core = some CoreId.dawn.other ∧ (Instr.vadd wB).strandWord = some (0x88, wB)) ∧
    (∃ op, (Instr.halt plainWord).strandWord = some (op, plainWord) ∧ legal .dawn (.halt plainWord) op plainWord = true ∧ (formOf .dawn (.halt plainWord)).priv = true) ∧
    (∃ op, (Instr.add { wB with d := .reg 20 }).strandWord = some (op, { wB with d := .reg 20 }) ∧ op ≠ 0xF0#8 ∧ op ≠ 0xF1#8 ∧
      (∀ c, legal c (.add { wB with d := .reg 20 }) op { wB with d := .reg 20 } = true ∧ (formOf c (.add { wB with d := .reg 20 })).specialDest { wB with d := .reg 20 } = none ∧
        (formOf c (.add { wB with d := .reg 20 })).priv = false ∧ (formOf c (.add { wB with d := .reg 20 })).d ∈ [Mark.d, .rd])) := by
  refine ⟨by decide +kernel, by decide +kernel, by decide +kernel, ⟨opOf (.halt plainWord), by decide +kernel⟩, ⟨opOf (.add wB), by decide +kernel, by decide +kernel, by decide +kernel, ?_⟩⟩
  intro c; cases c <;> decide +kernel

/-- HeldWords: a need that is not met, a POP of a token that is not there, a FENCE, a register that a load owes, and an empty queue. -/
def heldBases : List (Instr × State) :=
  [(.nop plainWord, worldStr .dawn (fun x => { x with needs := [(.dusk, 3)] })),
   (.nop { plainWord with pop := 5 }, world .dawn),
   (.ldg (memD 3), worldStr .dawn (fun x => { x with fences := [{ lfence := false, scope := .die, before := 1 }] })),
   (.add wB, { world .dawn with net := [{ anAccess .ldg 0x20000 with who := dawn, dest := some 1 }] }),
   (.qpop { wD with a := .queue 1 }, world .dawn)]
theorem witness_HeldWords :
    (∀ x ∈ heldBases, x.1.strandWord.isSome = true ∧ x.2.canIssue x.2.cur.strand = true ∧ x.2.cur.pair = none ∧ x.2.cur.mate = none ∧
      wordTrap x.2.cur.strand.core x.2.myTask (x.2.load x.2.myTask.load).priv x.1 false none (x.2.guardTrue (fieldsOf x.1)) = none) ∧
    (∀ x ∈ heldBases.take 1, x.2.me.needs.find? (fun n => !x.2.needMet x.2.cur.strand n) = some (.dusk, 3)) ∧
    (∀ x ∈ (heldBases.drop 1).take 1, x.2.me.needs = [] ∧ x.2.me.fences = [] ∧ x.2.me.pst = none ∧ (tokenField (fieldsOf x.1).pop).2 ≠ 0 ∧
      x.2.myTask.token (tokenIndex (tokenField (fieldsOf x.1).pop).1 x.2.cur.strand.core.engine) < (tokenField (fieldsOf x.1).pop).2) ∧
    (∀ x ∈ (heldBases.drop 2).take 1, x.2.me.needs = [] ∧ x.2.me.pst = none ∧ x.2.me.fences.length = 1 ∧ opMemory (opOf x.1).toNat = true) ∧
    (∀ x ∈ heldBases.drop 3, x.2.commonHold x.2.cur.strand x.1 (formOf .dawn x.1) (fieldsOf x.1) = none ∧ x.2.me.refusedPst = none ∧ x.2.guardTrue (fieldsOf x.1) = true) ∧
    (∀ x ∈ (heldBases.drop 3).take 1, (scalarsOf ((formOf .dawn x.1).reads (fieldsOf x.1) ++ (formOf .dawn x.1).writes (fieldsOf x.1))).find?
      (fun r => x.2.pendingScalar x.2.cur.strand r) = some 1) ∧
    (∀ x ∈ heldBases.drop 4, x.2.pendingHold x.2.cur.strand (formOf .dawn x.1) (fieldsOf x.1) = none ∧
      (queuesPopped x.1 (formOf .dawn x.1) (fieldsOf x.1)).head? = some .bq ∧ x.2.myTask.queueLen .bq = 0) := by
  decide +kernel

/-- FalseGuards: predicate 1 is false; a word, and a command of each engine. -/
def guardedBy (w : Fields) : Fields := { w with g0 := 1 }
theorem witness_FalseGuards : ∀ x ∈ ([(.add (guardedBy wB), .dawn), (.saccz (guardedBy { plainWord with d := .reg 1 }), .dusk),
      (.mcpy (inMod 3 (guardedBy { plainWord with d := .reg 6, a := .reg 6, b := .reg 6 })), .dawn)] : List (Instr × CoreId)), let s := world x.2
    x.1.strandWord.isSome = true ∧ s.canIssue s.cur.strand = true ∧ s.cur.pair = none ∧ s.cur.mate = none ∧ s.cur.pushes = [] ∧ s.cur.evSets = [] ∧ s.cur.evAdds = [] ∧
    wordTrap s.cur.strand.core s.myTask (s.load s.myTask.load).priv x.1 false none false = none ∧
    s.commonHold s.cur.strand x.1 (formOf s.cur.strand.core x.1) (fieldsOf x.1) = none ∧ s.me.refusedPst = none ∧ s.guardTrue (fieldsOf x.1) = false ∧
    s.overflow s.cur.strand.task (ownPushes s.cur.strand.core (fieldsOf x.1) ++ s.me.fences.flatMap FenceWait.pushes) = none := by
  decide +kernel

/-- ContextWords: slot 1 holds a task of the same program, parked and ended; tile memory at 0x1000 holds the image that was saved of it. -/
def slotOne : TaskId := ⟨0, 0, 1⟩
def restingDawn : Strand := { worldStrand .dawn with status := .parked, park := some { cont := 0x10038 } }
def contextWorld : State :=
  let s := (privileged .dawn).updStrand dawn (fun x => { x with regs := (x.regs.set 1 1).set 2 0x1000 })
  ((s.setTask slotOne { worldTask with hdr := {}, accTiles := [] }).setStrand (slotOne.strand .dawn) restingDawn).setStrand (slotOne.strand .dusk)
    { worldStrand .dusk with status := .ended }
def contextWord : Fields := { wB with d := .reg 7 }
def busyWorld : State := contextWorld.updStrand (slotOne.strand .dawn) (fun x => { x with status := .ready })
def savedImage : List Byte := (contextWorld.saveContext slotOne).1
def imageWorld : State := let s := (contextWorld.saveContext slotOne).2; { s with mem := Memory.writeBytes s.mem (tilePa ⟨0, 0⟩ 0x1000) savedImage }
theorem witness_ContextWords :
    (∀ n ∈ [0, 2], let s := contextWorld.updStrand dawn (fun x => { x with regs := x.regs.set 1 (BitVec.ofNat 64 n) })
     Issues (.ctxsv contextWord) s ∧ Issues (.ctxld contextWord) s ∧ ((⟨0, 0, n⟩ : TaskId) = s.cur.strand.task ∨ (s.task ⟨0, 0, n⟩).status = .free)) ∧
    (∀ s ∈ [contextWorld, busyWorld], Issues (.ctxsv contextWord) s ∧ Issues (.ctxld contextWord) s ∧ (s.valueOf [] (.reg 1)).toNat = 1 ∧ (s.valueOf [] (.reg 2)).toNat = 0x1000 ∧
      ¬ (slotOne = s.cur.strand.task ∨ (s.task slotOne).status = .free) ∧ s.myTask.tmBase ≤ 0x1000 ∧ 0x1000 + imageBytes (s.task slotOne).hdr ≤ s.myTask.tmBase + s.myTask.tmSize ∧
      s.ownAhead s.cur.strand 0x1000 2144 = false ∧ s.isDamaged (tilePa ⟨0, 0⟩ 0x1000) 2144 = false) ∧
    contextWorld.quiescent slotOne = true ∧ busyWorld.quiescent slotOne = false ∧ contextWorld.MemoryCanonical ∧
    (contextWorld.loadContext slotOne (contextWorld.readTile ⟨0, 0⟩ 0x1000 2144)).isNone = true := by
  refine ⟨?_, ?_, by decide +kernel, by decide +kernel, by unfold State.MemoryCanonical; decide +kernel, by decide +kernel⟩
  · intro n hn
    simp only [List.mem_cons, List.not_mem_nil, or_false] at hn
    rcases hn with rfl | rfl <;> exact ⟨issues_of (by decide +kernel), issues_of (by decide +kernel), by decide +kernel⟩
  · intro s hs
    simp only [List.mem_cons, List.not_mem_nil, or_false] at hs
    rcases hs with rfl | rfl <;> exact ⟨issues_of (by decide +kernel), issues_of (by decide +kernel), by decide +kernel⟩
theorem contextBytes_of (b : BlockHead) (t : Task) (dawn dusk : Strand) (tag : Nat) :
    ((contextImage b t dawn dusk tag).drop 24).take 2024 = (List.range 2024).map (fun k => Config.contextByte tag (24 + k)) := by
  have h : (ofDwords [b.word, BitVec.ofNat 64 (t.group.toNat * 2 ^ 32), t.image]).length = 24 := by
    simp only [ofDwords, List.flatMap_cons, List.flatMap_nil, List.length_append, length_natToBytes, List.length_nil]
  rw [contextImage, blockBytes, List.append_assoc, List.drop_left' h, List.take_left' (by simp only [List.length_map, List.length_range])]
/-- A context that CTXSV saves is the one that its image's bytes name. -/
theorem contextOf_saved (s : State) (i : TaskId) : (s.saveContext i).2.contextOf (s.saveContext i).1 =
    some { tag := s.drawn, dawn := s.recordedStrand (i.strand .dawn), dusk := s.recordedStrand (i.strand .dusk), task := s.task i, events := s.taskEvents i, ports := s.taskPorts i } := by
  unfold State.contextOf State.saveContext
  simp only [contextBytes_of]
  exact List.find?_cons_of_pos (by simp)
theorem contextOf_setMem (s : State) (m : List Host.Cell) (bs : List Byte) : ({ s with mem := m } : State).contextOf bs = s.contextOf bs := rfl
theorem savedImage_length : savedImage.length = 2144 := by decide +kernel
/-- The clause on an image of the same program. -/
theorem witness_ContextRestored : let s := imageWorld
    let bytes := s.readTile ⟨0, 0⟩ 0x1000 2144
    Issues (.ctxld contextWord) s ∧ imageBytes (s.task slotOne).hdr = 2144 ∧ s.quiescent slotOne = true ∧ s.ownAhead s.cur.strand 0x1000 2144 = false ∧
    s.isDamaged (tilePa ⟨0, 0⟩ 0x1000) 2144 = false ∧ (∃ x, s.contextOf bytes = some x ∧ x.task.hdr = (s.task slotOne).hdr) ∧
    bytesAt bytes 7 1 = 0xC5 ∧ bytesAt bytes 6 1 / 16 = 1 ∧ bytesAt bytes 16 8 = (s.task slotOne).image.toNat := by
  have h : imageWorld.readTile ⟨0, 0⟩ 0x1000 2144 = savedImage := by
    rw [← savedImage_length]
    exact Memory.readBytes_writeBytes _ _ (by decide +kernel)
  have hc : imageWorld.contextOf savedImage = some { tag := contextWorld.drawn, dawn := contextWorld.recordedStrand (slotOne.strand .dawn), dusk := contextWorld.recordedStrand (slotOne.strand .dusk), task := contextWorld.task slotOne, events := contextWorld.taskEvents slotOne, ports := contextWorld.taskPorts slotOne } :=
    (contextOf_setMem (contextWorld.saveContext slotOne).2 _ _).trans (contextOf_saved contextWorld slotOne)
  refine ⟨issues_of (by decide +kernel), by decide +kernel, by decide +kernel, by decide +kernel, by decide +kernel, ⟨_, by rw [h]; exact hc, by decide +kernel⟩, ?_, ?_, ?_⟩
  all_goals (rw [h]; decide +kernel)
theorem witness_StrandEvents_0 :
    let s : State := sSuspended
    let who := s.event.who
    let st := s.strand who
    ∃ p ∈ st.park,
    ∃ n ∈ p.counter,
    p.woken = true ∧
    st.status = .parked := by decide +kernel

theorem witness_StrandEvents_1 :
    let s : State := sHeldLong
    let who := s.event.who
    let st := s.strand who
    ∃ h ∈ st.heldBy,
    st.status = .held ∧
    4096 < st.heldCount ∧
    st.cmdqOnly = false := by decide +kernel

theorem witness_StrandEvents_2 :
    let s : State := sCmdq
    let who := s.event.who
    let st := s.strand who
    st.heldBy = some (.slots .serac) ∧
    st.status = .held ∧
    4096 < st.heldCount ∧
    st.cmdqOnly = true := by decide +kernel

theorem witness_StrandEvents_3 :
    let s : State := sParkedAuto
    let who := s.event.who
    let st := s.strand who
    ∃ p ∈ st.park,
    p.counter = none ∧
    st.status = .parked ∧
    (∃ c ∈ p.causes, s.causeKey who c.1 ≠ c.2) := by decide +kernel

theorem witness_StrandEvents_4 :
    let s : State := sRaised
    let i := 7
    ∃ r ∈ s.raises.find? (fun r => r.num == s.event.access),
    scalarIndex r.dest = some i ∧
    r.grid < (s.load r.load).grids.length := by decide +kernel

theorem witness_StrandEvents_5 :
    let s : State := sRaised
    let i := 7
    let j := 8
    ∃ r ∈ s.raises.find? (fun r => r.num == s.event.access),
    scalarIndex r.dest = some i ∧
    j ≠ i := by decide +kernel

theorem witness_AnswersArrive_0 :
    let s : State := sReply
    ∃ a ∈ s.net.find? (fun b => b.num == s.event.access && decide (b.who = s.event.who)),
    a.stage = .done ∧
    s.mayAnswer a = true ∧
    s.travels a a.plane = true ∧
    a.kind.replied = true ∧
    ∃ i ∈ a.dest,
    i < 1024 := by decide +kernel

theorem witness_AnswersArrive_1 :
    let s : State := sAck
    ∃ a ∈ s.net.find? (fun b => b.num == s.event.access && decide (b.who = s.event.who)),
    a.stage = .done ∧
    s.mayAnswer a = true ∧
    s.travels a a.plane = true ∧
    a.kind.replied = false := by decide +kernel

theorem witness_FencesWalksAndRecords_0 :
    let s : State := sFence
    let who := s.event.who
    let st := s.strand who
    ∃ f ∈ st.fences[s.event.index]?,
    st.status ≠ .saved ∧
    f.lfence = false ∧
    s.parkedBefore who f = false ∧
    (∀ a ∈ s.net, a.who = who → a.left = none → f.before ≤ a.num) := by decide +kernel

theorem witness_FencesWalksAndRecords_1 :
    let s : State := sLfence
    let who := s.event.who
    let st := s.strand who
    ∃ f ∈ st.fences[s.event.index]?,
    st.status ≠ .saved ∧
    f.lfence = true ∧
    (∀ a ∈ s.net, a.who = who → a.left = none → f.before ≤ a.num ∨ a.stage = .done ∨ a.kind = .ldg ∨ a.kind = .ldc ∨ a.kind = .pld ∨ a.kind = .pref) := by decide +kernel

theorem witness_FencesWalksAndRecords_2 :
    let s : State := sWalk
    let who := s.event.who
    let st := s.strand who
    ∃ b ∈ st.walk,
    (s.die who.die).phase = 0 ∧
    let dom := (s.load (s.task who.task).load).domain
    s.walkUp who.die dom (b * 65536) = true ∧
    ∃ x0 ∈ (s.walkTables who.die dom (b * 65536)).toOption,
    let leaf := x0.1
    let lvl := x0.2
    let cache := (s.tile who.tileId).tcache
    (∀ e ∈ cache, e.covers dom (b / (pageSize lvl / 65536) * (pageSize lvl / 65536)) = false) ∧
    cache.length < cacheEntries := by decide +kernel

theorem witness_FencesWalksAndRecords_3 :
    let s : State := sWalkFails
    let who := s.event.who
    let st := s.strand who
    ∃ b ∈ st.walk,
    (s.die who.die).phase = 0 ∧
    let dom := (s.load (s.task who.task).load).domain
    s.walkUp who.die dom (b * 65536) = true ∧
    (s.walkTables who.die dom (b * 65536)).toOption.isNone = true := by decide +kernel

theorem witness_FencesWalksAndRecords_4 :
    let s : State := sFill
    let l := s.load s.event.load
    l.status = .running ∧
    l.stopping = false ∧
    s.event.handle < l.lrcount ∧
    let who := s.event.who
    (s.die who.die).phase = 0 ∧
    (∃ x ∈ l.tiles, x.tile = who.tileId) ∧
    (s.tile who.tileId).layout s.event.load s.event.handle = none ∧
    let va := l.lrtab.toNat + 64 * s.event.handle
    ∃ p ∈ l.lrparts.find? (fun p => p.block == va / 65536),
    s.pathUp who.die (leafPa p.leaf p.level va) = true ∧
    s.isDamaged (leafPa p.leaf p.level va) 64 = false := by decide +kernel

theorem witness_SeracStarts_0 :
    let s : State := sSeracStart
    let i := s.event.who.task
    ∃ x0 ∈ headCommand (s.task i).serac.queue,
    let before := x0.1
    let c := x0.2
    s.startTurn i .serac = true ∧
    s.recordsReady i c = true ∧
    ∃ rs ∈ (s.startFault i c).toOption, True := by decide +kernel

theorem witness_SeracStarts_1 :
    let s : State := sStageBeat
    let opnd := 2
    let port := 0
    let xs := List.replicate 16 (0x3F80 : Word32)
    let i := s.event.who.task
    ∃ c ∈ (s.task i).serac.queue.find? (fun d => d.seq == s.event.command),
    let b := c.blocksStaged.get opnd 0
    let nb := min 32 (fld c.vc 15 0 - b * 32)
    let ys := (if c.arriving.get 2 [] = [] then [] else List.replicate 112 (0x3F80 : Word32))
    (smmPorts c).find? (fun p => p.1 == s.event.index) = some (opnd, port) ∧
    c.started = true ∧
    s.atStop i c = false ∧
    let first := ((((s.task i).serac.queue.find? (fun d => d.started)).map Command.seq) == some c.seq)
    s.mayStage i c first opnd port = true ∧
    s.event.len = 1 ∧
    let p := tilePort i.tileId false port
    typeSkind (s.portType p) = 0 ∧
    nb = min 32 (fld c.vc 15 0 - b * 32) ∧
    nb ≠ 0 ∧
    ∃ x ∈ ((s.inQueue p).beats).head?,
    let rest := ((s.inQueue p).beats).tail
    (s.inQueue p).beats = x :: rest ∧
    x.toks = xs.map Tok.elem ∧
    xs ≠ [] ∧
    c.arriving.get opnd [] = ys.map Tok.elem ∧
    ys.length + xs.length < 128 * nb := by decide +kernel

theorem witness_SeracStarts_2 :
    let s : State := sStageLast
    let opnd := 2
    let port := 0
    let xs := List.replicate 16 (0x3F80 : Word32)
    let i := s.event.who.task
    ∃ c ∈ (s.task i).serac.queue.find? (fun d => d.seq == s.event.command),
    let b := c.blocksStaged.get opnd 0
    let nb := min 32 (fld c.vc 15 0 - b * 32)
    let ys := (if c.arriving.get 2 [] = [] then [] else List.replicate 112 (0x3F80 : Word32))
    (smmPorts c).find? (fun p => p.1 == s.event.index) = some (opnd, port) ∧
    c.started = true ∧
    s.atStop i c = false ∧
    let first := ((((s.task i).serac.queue.find? (fun d => d.started)).map Command.seq) == some c.seq)
    s.mayStage i c first opnd port = true ∧
    s.event.len = 1 ∧
    let p := tilePort i.tileId false port
    typeSkind (s.portType p) = 0 ∧
    nb = min 32 (fld c.vc 15 0 - b * 32) ∧
    nb ≠ 0 ∧
    ∃ x ∈ ((s.inQueue p).beats).head?,
    let rest := ((s.inQueue p).beats).tail
    (s.inQueue p).beats = x :: rest ∧
    x.toks = xs.map Tok.elem ∧
    xs ≠ [] ∧
    c.arriving.get opnd [] = ys.map Tok.elem ∧
    ys.length + xs.length = 128 * nb := by decide +kernel

theorem witness_SeracCompletes_0 :
    let s : State := sNull
    let i := s.event.who.task
    ∃ c ∈ (s.task i).serac.queue.head?,
    c.started = true ∧
    s.atStop i c = false ∧
    (s.task i).live = true ∧
    s.PushFits .serac i c ∧
    c.null = true := by decide +kernel

theorem witness_SeracCompletes_1 :
    let s : State := sSaccz
    let i := s.event.who.task
    ∃ c ∈ (s.task i).serac.queue.head?,
    let w := c.word
    c.started = true ∧
    s.atStop i c = false ∧
    (s.task i).live = true ∧
    s.PushFits .serac i c ∧
    c.null = false ∧
    c.instr = .saccz w := by decide +kernel

theorem witness_SeracCompletes_2 :
    let s : State := sSscl
    let i := s.event.who.task
    ∃ c ∈ (s.task i).serac.queue.head?,
    let w := c.word
    c.started = true ∧
    s.atStop i c = false ∧
    (s.task i).live = true ∧
    s.PushFits .serac i c ∧
    c.null = false ∧
    c.instr = .sscl w := by decide +kernel

theorem witness_SeracCompletes_3 :
    let s : State := sSmode
    let i := s.event.who.task
    ∃ c ∈ (s.task i).serac.queue.head?,
    let w := c.word
    c.started = true ∧
    s.atStop i c = false ∧
    (s.task i).live = true ∧
    s.PushFits .serac i c ∧
    c.null = false ∧
    c.instr = .smode w := by decide +kernel

theorem witness_SeracCompletes_4 :
    let s : State := sSstr
    let i := s.event.who.task
    ∃ c ∈ (s.task i).serac.queue.head?,
    let w := c.word
    c.started = true ∧
    s.atStop i c = false ∧
    (s.task i).live = true ∧
    s.PushFits .serac i c ∧
    c.null = false ∧
    c.instr = .sstr w := by decide +kernel

theorem witness_SeracCompletes_6 :
    let s : State := sSaccv
    let i := s.event.who.task
    ∃ c ∈ (s.task i).serac.queue.head?,
    let w := c.word
    c.started = true ∧
    s.atStop i c = false ∧
    (s.task i).live = true ∧
    s.PushFits .serac i c ∧
    c.null = false ∧
    c.instr = .saccv w ∧
    (∀ b ∈ ((s.task i).accTile (opndIndex w.a)).bad, b < 1024 * c.vb.toNat ∨ 1024 * (c.vb.toNat + c.vc.toNat) ≤ b) ∧
    ((s.task i).accTile (opndIndex w.a)).poison = false := by decide +kernel

theorem witness_SeracCompletes_7 :
    let s : State := sSaccrd
    let i := s.event.who.task
    ∃ c ∈ (s.task i).serac.queue.head?,
    let w := c.word
    c.started = true ∧
    s.atStop i c = false ∧
    (s.task i).live = true ∧
    s.PushFits .serac i c ∧
    c.null = false ∧
    c.instr = .saccrd w ∧
    ∃ r ∈ c.record 3,
    ((s.task i).accTile (opndIndex w.a)).bad = [] ∧
    ((s.task i).accTile (opndIndex w.a)).poison = false ∧
    (s.task i).oscale ≠ 0xFF := by decide +kernel

theorem witness_SeracCompletes_8 :
    let s : State := sSmm
    let i := s.event.who.task
    ∃ c ∈ (s.task i).serac.queue.head?,
    let w := c.word
    let hi := min (fld c.vc 15 0) (c.progress + s.groupLength i c)
    c.started = true ∧
    s.atStop i c = false ∧
    (s.task i).live = true ∧
    s.PushFits .serac i c ∧
    c.null = false ∧
    (c.instr = .smm w ∨ c.instr = .smmz w) ∧
    s.event.len = 1 ∧
    s.stopRequested i = false ∧
    c.progress < fld c.vc 15 0 ∧
    hi = min (fld c.vc 15 0) (c.progress + s.groupLength i c) ∧
    hi ≤ s.stagedK i c := by decide +kernel

theorem witness_SacczClears_0 :
    let s : State := sSaccz
    let k := 0
    let i := s.event.who.task
    ∃ c ∈ (s.task i).serac.queue.head?,
    let w := c.word
    c.started = true ∧
    s.atStop i c = false ∧
    (s.task i).live = true ∧
    c.null = false ∧
    c.instr = .saccz w ∧
    k < 16384 := by decide +kernel

theorem witness_MoraineWorks_0 :
    let s : State := sMoraineStart
    let i := s.event.who.task
    ∃ x0 ∈ headCommand (s.task i).moraine.queue,
    let before := x0.1
    let c := x0.2
    s.startTurn i .moraine = true := by decide +kernel

theorem witness_MoraineWorks_1 :
    let s : State := sMoraineNull
    let i := s.event.who.task
    ∃ c ∈ (s.task i).moraine.queue.find? (fun d => d.seq == s.event.command),
    s.event.flag = false ∧
    s.moraineMayGo i c = true ∧
    s.PushFits .moraine i c ∧
    c.null = true := by decide +kernel

theorem witness_MoraineWorks_2 :
    let s : State := sMoraineDone
    let i := s.event.who.task
    ∃ c ∈ (s.task i).moraine.queue.find? (fun d => d.seq == s.event.command),
    s.event.flag = false ∧
    s.moraineMayGo i c = true ∧
    s.PushFits .moraine i c ∧
    c.null = false ∧
    streamerOf i.tileId c = none ∧
    unitCount c ≤ c.progress := by decide +kernel

theorem witness_MoraineWorks_3 :
    let s : State := sFillBytes
    let i := s.event.who.task
    ∃ c ∈ (s.task i).moraine.queue.find? (fun d => d.seq == s.event.command),
    let w := c.word
    let n := c.vb.toNat
    s.event.flag = false ∧
    s.moraineMayGo i c = true ∧
    s.PushFits .moraine i c ∧
    c.null = false ∧
    c.instr = .mfill w ∧
    w.mod.getLsbD 1 = true ∧
    s.event.len = 0 ∧
    c.progress = 0 ∧
    c.flights = [] ∧
    c.vb.toNat = n ∧
    0 < n ∧
    c.vd.toNat % 64 + n ≤ 64 ∧
    (match placeOf (tilePa i.tileId c.vd.toNat) with | .tile _ _ => true | _ => false) = true ∧
    s.gatedAt (tilePa i.tileId c.vd.toNat) = false := by decide +kernel

theorem witness_MoraineWorks_4 :
    let s : State := sCopyBytes
    let i := s.event.who.task
    ∃ c ∈ (s.task i).moraine.queue.find? (fun d => d.seq == s.event.command),
    let w := c.word
    let n := c.vb.toNat
    s.event.flag = false ∧
    s.moraineMayGo i c = true ∧
    s.PushFits .moraine i c ∧
    c.null = false ∧
    c.instr = .mcpy w ∧
    w.mod.getLsbD 0 = true ∧
    w.mod.getLsbD 1 = true ∧
    s.event.len = 0 ∧
    c.progress = 0 ∧
    c.flights = [] ∧
    c.vb.toNat = n ∧
    0 < n ∧
    c.vd.toNat % 64 + n ≤ 64 ∧
    c.va.toNat % 8 + n ≤ 8 ∧
    (match placeOf (tilePa i.tileId c.vd.toNat) with | .tile _ _ => true | _ => false) = true ∧
    (match placeOf (tilePa i.tileId c.va.toNat) with | .tile _ _ => true | _ => false) = true ∧
    s.gatedAt (tilePa i.tileId c.vd.toNat) = false ∧
    s.gatedAt (tilePa i.tileId c.va.toNat) = false ∧
    s.isDamaged (tilePa i.tileId c.va.toNat) n = false := by decide +kernel

theorem witness_MoraineWorks_5 :
    let s : State := sMoraineRead
    let i := s.event.who.task
    ∃ c ∈ (s.task i).moraine.queue.find? (fun d => d.seq == s.event.command),
    let w := c.word
    c.instr = .mcpy w ∧
    s.event.flag = true ∧
    s.moraineMayPerform i c s.event.index s.event.len = true ∧
    s.event.len < (unitOf c s.event.index []).readAccesses.length := by decide +kernel

theorem witness_TasksBegin_0 :
    let s : State := sDispatch
    let k := 0
    let l := s.event.load
    let grid := s.event.grid
    ∃ x0 ∈ s.taker l grid,
    let pos := x0.1
    let tile := x0.2
    grid < (s.load l).grids.length ∧
    (∀ x ∈ s.loads.entries, ∀ k, k < x.2.grids.length → (x.1, k) ≠ (l, grid) → ∀ p ∈ s.taker x.1 k, p.2 ≠ tile) ∧
    ∃ i ∈ s.freeSlot tile,
    let g := (s.load l).grids.getD grid {}
    let h := g.hdr
    ∃ x0 ∈ s.grants tile h,
    let m := x0.1
    let v := x0.2.1
    let e := x0.2.2.1
    let accs := x0.2.2.2
    ∃ data ∈ s.readVirtual l.die (s.load l).domain (g.base.toNat + h.dataoff) h.datasize,
    h.datasize ≤ h.tilemem * 4096 ∧
    Memory.wf s.mem = true ∧
    k < h.events := by decide +kernel

theorem witness_TasksBegin_5 :
    let s : State := sStart
    let i := s.event.who.task
    (s.task i).status = .running ∧
    (s.task i).started = false ∧
    (s.task i).startAt ≤ s.clock := by decide +kernel

theorem witness_TasksEnd_0 :
    let s : State := sDraining
    let i := s.event.who.task
    let t := s.task i
    t.status = .draining ∧
    t.serac.queue = [] ∧
    t.moraine.queue = [] ∧
    t.serac.pending = [] ∧
    t.moraine.pending = [] ∧
    (∀ c ∈ [CoreId.dawn, .dusk], (s.strand (i.strand c)).fault = none ∧ (s.strand (i.strand c)).waiting = []) := by decide +kernel

theorem witness_TasksEnd_1 :
    let s : State := sTaskDone
    let i := s.event.who.task
    let t := s.task i
    t.status = .done ∨ (t.status = .killed ∧ (∀ a ∈ s.net, a.who.task ≠ i) ∧ ∀ r ∈ s.raises, r.who.task ≠ i) := by decide +kernel

theorem witness_GraphEntries_1 :
    let s : State := sWaitMet
    let q : QueueId := ⟨s.event.die, s.event.queue⟩
    let r := s.queue q
    ∃ g ∈ r.graph,
    g.started = false ∧
    g.wvalid = true ∧
    ((s.queue ⟨q.die, g.waitq⟩).completed - g.waitcnt).msb = false ∧
    (s.load (graphLoad q 0)).status = .queued := by decide +kernel

theorem witness_GraphEntries_2 :
    let s : State := sWaits
    let q : QueueId := ⟨s.event.die, s.event.queue⟩
    let r := s.queue q
    ∃ g ∈ r.graph,
    g.started = false ∧
    g.wvalid = true ∧
    ((s.queue ⟨q.die, g.waitq⟩).completed - g.waitcnt).msb = true := by decide +kernel

theorem witness_LoadStates_0 :
    let s : State := sRefuseTwo
    let k := 1
    let l := s.event.load
    let x := s.load l
    x.status = .configuring ∧
    x.stopping = false ∧
    x.reason = 0 ∧
    s.pinRecords l = (s, true) ∧
    ∃ tb ∈ s.readTables l,
    ∃ f ∈ firstFailure (s.failures tb l),
    f.1 ≤ 5 ∧
    l.load < k ∧
    ∃ y ∈ s.loads.find? ⟨l.die, l.queue, k⟩,
    y.status = .queued := by decide +kernel

theorem witness_LoadStates_1 :
    let s : State := sConfigure
    let l := s.event.load
    let x := s.load l
    x.status = .configuring ∧
    x.stopping = false ∧
    x.reason = 0 ∧
    s.pinRecords l = (s, true) ∧
    ∃ tb ∈ s.readTables l,
    firstFailure (s.failures tb l) = none ∧
    tb.regionEntries = [] ∧
    s.free l tb = true ∧
    s.outranked l tb = false := by decide +kernel

theorem witness_LoadStates_2 :
    let s : State := sVerify
    let id : RegionId := ⟨s.event.die, s.event.region⟩
    let r := s.region id
    ∃ k ∈ r.load,
    (s.load k).status = .configuring ∧
    r.verified = false ∧
    ∃ tb ∈ s.readTables k, True := by decide +kernel

theorem witness_LoadStates_3 :
    let s : State := sArmed
    let i := (⟨0, 0⟩ : RegionId)
    let l := s.event.load
    let x := s.load l
    x.status = .armed ∧
    x.gang = none ∧
    x.stopping = false ∧
    x.gating = [] ∧
    s.startReady l = true ∧
    ∃ r ∈ s.regions.find? i, True := by decide +kernel

theorem witness_LoadStates_4 :
    let s : State := sArmed
    let l := s.event.load
    let x := s.load l
    x.status = .armed ∧
    x.gang = none ∧
    x.stopping = false ∧
    x.gating = [] ∧
    s.startReady l = true ∧
    ∃ g ∈ (s.queue ⟨l.die, l.queue⟩).graph,
    l.load + 1 < g.nloads ∧
    let next : LoadId := ⟨l.die, l.queue, l.load + 1⟩
    (s.load next).status = .queued := by decide +kernel

theorem witness_LoadStates_5 :
    let s : State := sLoadDone
    let l := s.event.load
    let x := s.load l
    x.status = .running ∧
    x.exitv = false ∧
    x.stopping = false ∧
    x.gating = [] ∧
    s.earlierFinal l = true ∧
    (∀ k, k < x.grids.length → s.gridComplete l k = true) ∧
    s.settled l = true ∧
    (∀ e ∈ s.chans.entries, e.1.load = l → e.2.quiet = true) ∧
    (∀ e ∈ s.regions.entries, e.2.load = some l → e.2.quiet = true) := by decide +kernel

theorem witness_LoadStates_6 :
    let s : State := sExiting
    let l := s.event.load
    let x := s.load l
    x.status = .running ∧
    x.exitv = true ∧
    x.stopping = false ∧
    x.gating = [] ∧
    x.exiting = true ∧
    s.settled l = true ∧
    s.earlierFinal l = true := by decide +kernel

theorem witness_GraphsComplete_0 :
    let s : State := (sGraphDone .complete false)
    let q : QueueId := ⟨s.event.die, s.event.queue⟩
    ∃ g ∈ (s.queue q).graph,
    g.saved = false ∧
    g.nloads = 1 ∧
    let l := s.load (graphLoad q 0)
    l.status.final = true ∧
    g.irq = false ∧
    g.records = false := by decide +kernel

theorem witness_GraphsComplete_1 :
    let s : State := (sGraphDone .refused true)
    let q : QueueId := ⟨s.event.die, s.event.queue⟩
    ∃ g ∈ (s.queue q).graph,
    g.saved = false ∧
    g.nloads = 1 ∧
    let l := s.load (graphLoad q 0)
    l.status.final = true ∧
    g.irq = false ∧
    g.records = true ∧
    ∃ p ∈ g.parts.find? (fun x => x.block == g.statusVa.toNat / 65536), True := by decide +kernel

theorem witness_RegisterEvents_0 :
    let s : State := sQueueEnable
    let e := s.event
    let f := e.fn
    s.Owns f e.die ∧
    e.queue < 4096 ∧
    let v := e.value
    v.getLsbD 63 = true ∧
    4 ≤ fld v 59 55 ∧
    fld v 59 55 ≤ 16 ∧
    let q : QueueId := ⟨e.die, e.queue⟩
    (s.queue q).enable = false := by decide +kernel

theorem witness_RegisterEvents_1 :
    let s : State := sTail
    let e := s.event
    let f := e.fn
    s.Owns f e.die ∧
    e.queue < 4096 ∧
    let v := e.value
    let q : QueueId := ⟨e.die, e.queue⟩
    ((v.extractLsb' 0 32 : Word32) - (s.queue q).head).toNat ≤ 2 ^ (s.queue q).logsize.toNat := by decide +kernel

theorem witness_RegisterEvents_2 :
    let s : State := sXinv
    let e := s.event
    let f := e.fn
    s.Owns f e.die ∧
    let d := s.die e.die
    d.issued - d.done ≠ 16 := by decide +kernel

theorem witness_RegisterEvents_3 :
    let s : State := sSwap
    let e := s.event
    let f := e.fn
    s.Owns f e.die ∧
    e.region < 48 ∧
    let r : RegionId := ⟨e.die, e.region⟩
    let g := s.region r
    g.status = .running ∧
    g.swap = none ∧
    ∃ l ∈ g.load,
    s.preempting l = false := by decide +kernel

theorem witness_RegisterEvents_4 :
    let s : State := sSwapBusy
    let e := s.event
    let f := e.fn
    s.Owns f e.die ∧
    e.region < 48 ∧
    let r : RegionId := ⟨e.die, e.region⟩
    let g := s.region r
    g.status ≠ .running := by decide +kernel

theorem witness_RegisterEvents_5 :
    let s : State := sFqctl
    let e := s.event
    let f := e.fn
    s.Owns f e.die ∧
    let v := e.value
    v.getLsbD 63 = true ∧
    4 ≤ fld v 62 58 ∧
    fld v 62 58 ≤ 16 ∧
    let d := s.die e.die
    d.fqEnable = false := by decide +kernel

theorem witness_RegisterEvents_6 :
    let s : State := sHalt
    let e := s.event
    let f := e.fn
    s.Owns f e.die := by decide +kernel

theorem witness_RegisterEvents_7 :
    let s : State := sClaim
    let k := 0
    let e := s.event
    let f := e.fn
    s.hostUp f = true ∧
    e.die / 8 = f.pkg ∧
    s.hostFrozen f = false ∧
    f.func = 0 ∧
    let p := s.pkg f.pkg
    p.valid = false ∧
    (p.only = none ∨ p.only = some f.port) ∧
    ∃ x ∈ s.dies.find? k, True := by decide +kernel

theorem witness_RegisterEvents_8 :
    let s : State := sClaimRefused
    let e := s.event
    let f := e.fn
    s.hostUp f = true ∧
    e.die / 8 = f.pkg ∧
    s.hostFrozen f = false ∧
    f.func = 0 ∧
    let p := s.pkg f.pkg
    p.valid = true ∧
    p.port ≠ f.port ∧
    p.reject ≠ 0xFFFF := by decide +kernel

theorem witness_RegisterEvents_9 :
    let s : State := sHandover
    let k := 0
    let e := s.event
    let f := e.fn
    s.Owns f e.die ∧
    let v := e.value
    v.getLsbD 63 = true ∧
    ∃ x ∈ s.dies.find? k, True := by decide +kernel

theorem witness_RegisterEvents_10 :
    let s : State := sPower
    let e := s.event
    let f := e.fn
    s.Owns f e.die := by decide +kernel

theorem witness_RegisterEvents_11 :
    let s : State := sPower
    let e := s.event
    let f := e.fn
    s.Owns f e.die := by decide +kernel

theorem witness_RegisterEvents_12 :
    let s : State := sRoot
    let n := 3
    let e := s.event
    e.flag = true ∧
    n < 256 ∧
    e.addr = 0x200000 + 8 * n := by decide +kernel

theorem witness_RegisterEvents_13 :
    let s : State := sDomain
    let n := 2
    let e := s.event
    e.flag = false ∧
    let f := e.fn
    s.Owns f e.die ∧
    n ≤ 64 ∧
    e.addr = 0x401000 + 8 * n := by decide +kernel

theorem witness_RegisterEvents_14 :
    let s : State := sSave
    let e := s.event
    let f := e.fn
    s.Owns f e.die ∧
    e.flag = false ∧
    let v := e.value
    v.getLsbD 63 = false ∧
    let d := s.die e.die
    d.prState ≠ 1 ∧
    d.prState ≠ 2 ∧
    d.prState ≠ 3 ∧
    d.prState ≠ 5 ∧
    d.preempt = none ∧
    let k := fld v 59 48
    let ls := s.savable ⟨e.die, k⟩
    ls ≠ [] ∧
    s.areaOk e.die (s.queueDomain e.die k) (d.preq0.toNat % 2 ^ 56) (s.areaBytes ls) = true ∧
    s.graphGang ls = none ∧
    s.saveMayBegin ⟨e.die, k⟩ [e.die] = true := by decide +kernel

theorem witness_RegisterEvents_15 :
    let s : State := sRestore
    let e := s.event
    let f := e.fn
    s.Owns f e.die ∧
    let v := e.value
    v.getLsbD 63 = true ∧
    let d := s.die e.die
    d.prState ≠ 1 ∧
    d.prState ≠ 2 ∧
    d.prState ≠ 3 ∧
    d.prState ≠ 5 ∧
    d.preempt = none ∧
    let k := fld v 59 48
    ∃ x ∈ s.saved.find? ⟨e.die, k⟩,
    s.areaOk e.die (s.queueDomain e.die k) (d.preq0.toNat % 2 ^ 56) x.bytes = true := by decide +kernel

theorem witness_FaultAnswers_0 :
    let s : State := sResume
    let w := dawn
    let st := s.strand w
    let x := (st.fault.getD (aFault .misalign))
    let e := ((s.die s.event.die).fqOpen.headD (anEntry (.strand dawn) 0))
    s.Answers 1 e ∧
    e.of = .strand w ∧
    e.kind = 0 ∧
    st.status = .faulted ∧
    st.fault = some x ∧
    x.park = none ∧
    x.retry = .none ∧
    st.waiting = [] ∧
    x.code ≠ .trap ∧
    x.code ≠ .bkpt := by decide +kernel

theorem witness_FaultAnswers_1 :
    let s : State := sResumeStack
    let w := dawn
    let st := s.strand w
    let x := (st.fault.getD (aFault .misalign))
    let e := ((s.die s.event.die).fqOpen.headD (anEntry (.strand dawn) 0))
    s.Answers 2 e ∧
    e.of = .strand w ∧
    e.kind = 0 ∧
    st.status = .faulted ∧
    st.fault = some x ∧
    x.park = none ∧
    x.retry = .none ∧
    st.waiting = [] ∧
    x.code ≠ .trap ∧
    x.code ≠ .bkpt ∧
    st.stkbase.toNat % 8 = 0 ∧
    s.event.value2.toNat % 8 = 0 ∧
    (s.task w.task).tmBase ≤ s.event.value2.toNat ∧
    s.event.value2.toNat ≤ st.stkbase.toNat ∧
    st.stkbase.toNat ≤ (s.task w.task).tmBase + (s.task w.task).tmSize := by decide +kernel

theorem witness_FaultAnswers_2 :
    let s : State := sResumeAt
    let w := dawn
    let st := s.strand w
    let x := (st.fault.getD (aFault .misalign))
    let e := ((s.die s.event.die).fqOpen.headD (anEntry (.strand dawn) 0))
    s.Answers 3 e ∧
    e.of = .strand w ∧
    e.kind = 0 ∧
    st.status = .faulted ∧
    st.fault = some x ∧
    x.park = none ∧
    x.retry = .none ∧
    st.waiting = [] ∧
    (s.wordSection w s.event.value2).isSome = true := by decide +kernel

theorem witness_FaultAnswers_3 :
    let s : State := sKill
    let w := dawn
    let st := s.strand w
    let x := (st.fault.getD (aFault .misalign))
    let e := ((s.die s.event.die).fqOpen.headD (anEntry (.strand dawn) 0))
    s.Answers 4 e ∧
    e.of = .strand w ∧
    e.kind = 0 ∧
    (s.task w.task).live = true ∧
    (s.tasks.find? w.task).isSome = true ∧
    (s.strands.find? w).isSome = true := by decide +kernel

theorem witness_FaultAnswers_4 :
    let s : State := sStopLoad
    let w := dawn
    let st := s.strand w
    let x := (st.fault.getD (aFault .misalign))
    let e := ((s.die s.event.die).fqOpen.headD (anEntry (.strand dawn) 0))
    s.Answers 5 e ∧
    e.of = .strand w ∧
    e.kind = 0 ∧
    (s.load (s.task w.task).load).status.final = false ∧
    (s.load (s.task w.task).load).stopping = false := by decide +kernel

theorem witness_FaultAnswers_5 :
    let s : State := sContinue
    let w := dawn
    let st := s.strand w
    let x := (st.fault.getD (aFault .misalign))
    let e := ((s.die s.event.die).fqOpen.headD (anEntry (.strand dawn) 0))
    let f := (⟨0, 0, 1⟩ : HostFn)
    s.Answers 6 e ∧
    e.of = .host f ∧
    e.kind = 2 := by decide +kernel

theorem witness_FaultAnswers_6 :
    let s : State := sContinueDeadlock
    let w := dawn
    let st := s.strand w
    let x := (st.fault.getD (aFault .misalign))
    let e := ((s.die s.event.die).fqOpen.headD (anEntry (.strand dawn) 0))
    let l := theLoad
    let ts := [theTask]
    s.Answers 6 e ∧
    e.of = .deadlock l ts ∧
    e.kind = 3 := by decide +kernel

theorem witness_HostRequests_0 :
    let s : State := sHostRead
    let leaf := BitVec.ofNat 64 (0xFF * 2 ^ 56 + 0x83)
    let pa := 0x20100
    let e := s.event
    e.wide = false ∧
    e.flag = false ∧
    e.source = none ∧
    let f := e.fn
    s.hostUp f = true ∧
    e.die / 8 = f.pkg ∧
    s.hostFrozen f = false ∧
    (s.die e.die).phase = 0 ∧
    let n := if e.flag then e.data.length else e.len
    e.addr + n ≤ 2 ^ 46 ∧
    0 < n ∧
    e.addr % 64 + n ≤ 64 ∧
    s.walkUp e.die (s.fnDomain f) e.addr = true ∧
    s.pathUp e.die pa = true ∧
    s.hostReqs = [] ∧
    (∃ lvl ∈ [1, 2, 3], (s.walkTables e.die (s.fnDomain f) e.addr).toOption = some (leaf, lvl) ∧ (s.checkPart leaf lvl e.addr n .load (s.fnDomain f) false |>.toOption) = some pa) ∧
    placeOf pa = .hbm ∧
    s.isDamaged pa e.len = false := by decide +kernel

theorem witness_HostRequests_1 :
    let s : State := sHostSplit
    let leaf := BitVec.ofNat 64 (0xFF * 2 ^ 56 + 0x83)
    let pa := 0x20100
    let e := s.event
    e.wide = false ∧
    e.source = some 0 ∧
    let f := e.fn
    s.hostUp f = true ∧
    e.die / 8 = f.pkg ∧
    s.hostFrozen f = false ∧
    (s.die e.die).phase = 0 ∧
    let n := if e.flag then e.data.length else e.len
    e.addr + n ≤ 2 ^ 46 ∧
    0 < n ∧
    e.addr % 64 + n ≤ 64 ∧
    s.walkUp e.die (s.fnDomain f) e.addr = true ∧
    s.pathUp e.die pa = true ∧
    s.hostReqs = [] ∧
    (∃ lvl ∈ [1, 2, 3], (s.walkTables e.die (s.fnDomain f) e.addr).toOption = some (leaf, lvl) ∧ (s.checkPart leaf lvl e.addr n (if e.flag then .store else .load) (s.fnDomain f) false |>.toOption) = some pa) ∧
    placeOf pa = .hbm := by decide +kernel

theorem witness_HostRequests_2 :
    let s : State := sHostPiece
    let leaf := BitVec.ofNat 64 (0xFF * 2 ^ 56 + 0x83)
    let pa := 0x20100
    let e := s.event
    e.wide = false ∧
    e.index = 0 ∧
    ∃ h ∈ (s.hostReqs).head?,
    s.hostReqs = [h] ∧
    e.source = some (h.num + 1) ∧
    let n := if e.flag then e.data.length else e.len
    h.parts = [(pa, n, leaf)] ∧
    h.done = [] ∧
    h.got = [] ∧
    h.bad = false ∧
    h.write = false ∧
    s.pathUp h.die pa = true ∧
    placeOf pa = .hbm ∧
    s.isDamaged pa n = false := by decide +kernel

theorem witness_HostRequests_3 :
    let s : State := sHostWrite
    let leaf := BitVec.ofNat 64 (0xFF * 2 ^ 56 + 0x83)
    let pa := 0x20100
    let e := s.event
    e.wide = false ∧
    e.flag = true ∧
    e.source = none ∧
    let f := e.fn
    s.hostUp f = true ∧
    e.die / 8 = f.pkg ∧
    s.hostFrozen f = false ∧
    (s.die e.die).phase = 0 ∧
    let n := if e.flag then e.data.length else e.len
    e.addr + n ≤ 2 ^ 46 ∧
    0 < n ∧
    e.addr % 64 + n ≤ 64 ∧
    s.walkUp e.die (s.fnDomain f) e.addr = true ∧
    s.pathUp e.die pa = true ∧
    s.hostReqs = [] ∧
    (∃ lvl ∈ [1, 2, 3], (s.walkTables e.die (s.fnDomain f) e.addr).toOption = some (leaf, lvl) ∧ (s.checkPart leaf lvl e.addr n .store (s.fnDomain f) false |>.toOption) = some pa) ∧
    placeOf pa = .hbm := by decide +kernel

theorem witness_HostRequests_4 :
    let s : State := sHostBad
    let leaf := BitVec.ofNat 64 (0xFF * 2 ^ 56 + 0x83)
    let pa := 0x20100
    let e := s.event
    e.wide = false ∧
    e.flag = false ∧
    (e.source = none ∨ e.source = some 0) ∧
    let f := e.fn
    s.walkUp e.die (s.fnDomain f) e.addr = true ∧
    s.hostUp f = true ∧
    e.die / 8 = f.pkg ∧
    s.hostFrozen f = false ∧
    (s.die e.die).phase = 0 ∧
    e.addr + e.len ≤ 2 ^ 46 ∧
    0 < e.len ∧
    e.addr % 64 + e.len ≤ 64 ∧
    (s.walkTables e.die (s.fnDomain f) e.addr).toOption.isNone = true := by decide +kernel

theorem witness_HostRequests_5 :
    let s : State := sHostReg
    let leaf := BitVec.ofNat 64 (0xFF * 2 ^ 56 + 0x83)
    let pa := 0x20100
    let e := s.event
    e.wide = true ∧
    e.flag = false ∧
    let f := e.fn
    s.Owns f e.die ∧
    e.addr = sysOffset 0x60 ∧
    e.len = 8 := by decide +kernel

theorem witness_HostRequests_6 :
    let s : State := sHostHole
    let leaf := BitVec.ofNat 64 (0xFF * 2 ^ 56 + 0x83)
    let pa := 0x20100
    let e := s.event
    e.wide = true ∧
    e.flag = false ∧
    let f := e.fn
    s.Owns f e.die ∧
    ctrlRegister e.addr = false := by decide +kernel

theorem witness_HostRequests_7 :
    let s : State := (sHostAtomic .fetchAdd 0)
    let leaf := BitVec.ofNat 64 (0xFF * 2 ^ 56 + 0x83)
    let pa := 0x20100
    let e := s.event
    e.flag = false ∧
    (e.len = 4 ∨ e.len = 8) ∧
    e.addr % e.len = 0 ∧
    let f := e.fn
    s.hostUp f = true ∧
    e.die / 8 = f.pkg ∧
    s.hostFrozen f = false ∧
    (s.die e.die).phase = 0 ∧
    let n := if e.flag then e.data.length else e.len
    e.addr + n ≤ 2 ^ 46 ∧
    0 < n ∧
    e.addr % 64 + n ≤ 64 ∧
    s.walkUp e.die (s.fnDomain f) e.addr = true ∧
    s.pathUp e.die pa = true ∧
    s.hostReqs = [] ∧
    (∃ lvl ∈ [1, 2, 3], (s.walkTables e.die (s.fnDomain f) e.addr).toOption = some (leaf, lvl) ∧ (s.checkPart leaf lvl e.addr n .atomic (s.fnDomain f) false |>.toOption) = some pa) ∧
    placeOf pa = .hbm ∧
    s.isDamaged pa e.len = false ∧
    e.op = .fetchAdd := by decide +kernel

theorem witness_HostRequests_8 :
    let s : State := (sHostAtomic .swap 0)
    let leaf := BitVec.ofNat 64 (0xFF * 2 ^ 56 + 0x83)
    let pa := 0x20100
    let e := s.event
    e.flag = false ∧
    (e.len = 4 ∨ e.len = 8) ∧
    e.addr % e.len = 0 ∧
    let f := e.fn
    s.hostUp f = true ∧
    e.die / 8 = f.pkg ∧
    s.hostFrozen f = false ∧
    (s.die e.die).phase = 0 ∧
    let n := if e.flag then e.data.length else e.len
    e.addr + n ≤ 2 ^ 46 ∧
    0 < n ∧
    e.addr % 64 + n ≤ 64 ∧
    s.walkUp e.die (s.fnDomain f) e.addr = true ∧
    s.pathUp e.die pa = true ∧
    s.hostReqs = [] ∧
    (∃ lvl ∈ [1, 2, 3], (s.walkTables e.die (s.fnDomain f) e.addr).toOption = some (leaf, lvl) ∧ (s.checkPart leaf lvl e.addr n .atomic (s.fnDomain f) false |>.toOption) = some pa) ∧
    placeOf pa = .hbm ∧
    s.isDamaged pa e.len = false ∧
    e.op = .swap := by decide +kernel

theorem witness_HostRequests_9 :
    let s : State := (sHostAtomic .cas 7)
    let leaf := BitVec.ofNat 64 (0xFF * 2 ^ 56 + 0x83)
    let pa := 0x20100
    let e := s.event
    e.flag = false ∧
    (e.len = 4 ∨ e.len = 8) ∧
    e.addr % e.len = 0 ∧
    let f := e.fn
    s.hostUp f = true ∧
    e.die / 8 = f.pkg ∧
    s.hostFrozen f = false ∧
    (s.die e.die).phase = 0 ∧
    let n := if e.flag then e.data.length else e.len
    e.addr + n ≤ 2 ^ 46 ∧
    0 < n ∧
    e.addr % 64 + n ≤ 64 ∧
    s.walkUp e.die (s.fnDomain f) e.addr = true ∧
    s.pathUp e.die pa = true ∧
    s.hostReqs = [] ∧
    (∃ lvl ∈ [1, 2, 3], (s.walkTables e.die (s.fnDomain f) e.addr).toOption = some (leaf, lvl) ∧ (s.checkPart leaf lvl e.addr n .atomic (s.fnDomain f) false |>.toOption) = some pa) ∧
    placeOf pa = .hbm ∧
    s.isDamaged pa e.len = false ∧
    e.op = .cas ∧
    let key := leafKey leaf
    let old := bytesToNat (s.readPa pa e.len key)
    old ≠ e.value2.toNat % 2 ^ (8 * e.len) := by decide +kernel

theorem witness_HostRequests_10 :
    let s : State := sFlrTwo
    let k := 8
    ∃ d ∈ s.dies.find? k,
    let e := s.event
    let f := e.fn
    k / 8 ≠ f.pkg := by decide +kernel

theorem witness_HostRequests_11 :
    let s : State := sFlr
    let k := 0
    ∃ d ∈ s.dies.find? k,
    let e := s.event
    let f := e.fn
    k / 8 = f.pkg ∧
    (f.port, f.func) ∈ d.frozenHard := by decide +kernel

theorem witness_HostRequests_12 :
    let s : State := sFlr
    let k := 0
    let y := 3
    ∃ d ∈ s.dies.find? k,
    let e := s.event
    let f := e.fn
    k / 8 = f.pkg ∧
    f.func = 0 ∧
    y ≠ 0 := by decide +kernel

theorem witness_PlanesAndInvalidations_0 :
    let s : State := sRetire
    s.rehash = none ∧
    let p := s.event.plane
    p < 4 ∧
    s.event.flag = false ∧
    s.planeLive p = true ∧
    (∃ k, k < 4 ∧ k ≠ p ∧ s.planeLive k = true) ∧
    ∀ k ∈ s.ringDies, (s.die k).phase ≠ 3 := by decide +kernel

theorem witness_PlanesAndInvalidations_1 :
    let s : State := sRestorePlane
    let k := 0
    s.rehash = none ∧
    let p := s.event.plane
    p < 4 ∧
    s.event.flag = true ∧
    s.planeLive p = false ∧
    k ∈ s.ringDies := by decide +kernel

theorem witness_PlanesAndInvalidations_2 :
    let s : State := sRestorePlane
    let k := 9
    s.rehash = none ∧
    let p := s.event.plane
    p < 4 ∧
    s.event.flag = true ∧
    s.planeLive p = false ∧
    k ∉ s.ringDies := by decide +kernel

theorem witness_PlanesAndInvalidations_3 :
    let s : State := sRetire
    s.rehash = none ∧
    let p := s.event.plane
    s.planeLive p = true ∧
    (∃ k, k < 4 ∧ k ≠ p ∧ s.planeLive k = true) ∧
    ∀ k ∈ s.ringDies, (s.die k).phase ≠ 3 := by decide +kernel

theorem witness_PlanesAndInvalidations_4 :
    let s : State := sStall
    s.rehash = none ∧
    let p := s.event.plane
    65536 ≤ s.planeIdle.get p 0 ∧
    s.planeLive p = true ∧
    (∃ k, k < 4 ∧ k ≠ p ∧ s.planeLive k = true) ∧
    ∀ k ∈ s.ringDies, (s.die k).phase ≠ 3 := by decide +kernel

theorem witness_PlanesAndInvalidations_5 :
    let s : State := sRetire
    let p := s.event.plane
    s.planeIdle.get p 0 < 65536 := by decide +kernel

theorem witness_PlanesAndInvalidations_6 :
    let s : State := sStop
    ∃ r ∈ s.rehash,
    let d := s.event.die
    d ∉ r.told ∧
    d ∈ s.ringDies ∧
    s.systemPlane.isSome = true := by decide +kernel

theorem witness_PlanesAndInvalidations_7 :
    let s : State := sDrained
    ∃ r ∈ s.rehash,
    let d := s.event.die
    d ∈ r.told ∧
    d ∉ r.drained ∧
    s.event.flag = false ∧
    s.systemPlane.isSome = true ∧
    (∀ a ∈ s.net, a.who.die = d → a.resend = true) ∧
    (∀ h ∈ s.hostReqs, h.die ≠ d) := by decide +kernel

theorem witness_PlanesAndInvalidations_8 :
    let s : State := sDraining'
    ∃ r ∈ s.rehash,
    let d := s.event.die
    d ∈ r.told ∧
    d ∉ r.drained ∧
    r.lost = false ∧
    s.systemPlane.isSome = true ∧
    (∃ a ∈ s.net, a.who.die = d ∧ a.resend = false) := by decide +kernel

theorem witness_PlanesAndInvalidations_9 :
    let s : State := sDrainLost
    ∃ r ∈ s.rehash,
    let d := s.event.die
    d ∈ r.told ∧
    d ∉ r.drained ∧
    s.event.flag = false ∧
    s.systemPlane.isSome = true ∧
    r.lost = true ∧
    ∃ a ∈ (s.net).head?,
    s.net = [a] ∧
    a.who.die = d ∧
    a.resend = false ∧
    a.plane ∈ r.retire ∧
    a.kind = .ldg ∧
    s.hostReqs = [] := by decide +kernel

theorem witness_PlanesAndInvalidations_10 :
    let s : State := sCommit
    ∃ r ∈ s.rehash,
    (∀ k ∈ s.ringDies, k ∈ r.drained) ∧
    let d := s.event.die
    let x := s.die d
    x.phase = 2 ∧
    d ∈ r.drained ∧
    s.systemPlane.isSome = true ∧
    (∀ n, n < 256 → (x.liveAfter r).getLsbD ((x.pmapNext.get n (BitVec.ofNat 2 n)).toNat) = true) := by decide +kernel

theorem witness_PlanesAndInvalidations_11 :
    let s : State := sCommitBad
    let n := 1
    ∃ r ∈ s.rehash,
    (∀ k ∈ s.ringDies, k ∈ r.drained) ∧
    let d := s.event.die
    let x := s.die d
    x.phase = 2 ∧
    d ∈ r.drained ∧
    s.systemPlane.isSome = true ∧
    n < 256 ∧
    (x.liveAfter r).getLsbD ((x.pmapNext.get n (BitVec.ofNat 2 n)).toNat) = false := by decide +kernel

theorem witness_PlanesAndInvalidations_12 :
    let s : State := sCommitted
    ∃ r ∈ s.rehash,
    let d := s.event.die
    let x := s.die d
    x.phase = 3 ∧
    d ∉ r.committed ∧
    d ∈ r.drained ∧
    s.systemPlane.isSome = true := by decide +kernel

theorem witness_PlanesAndInvalidations_13 :
    let s : State := sRehashResume
    ∃ r ∈ s.rehash,
    (∀ k ∈ s.ringDies, k ∈ r.committed) ∧
    let d := s.event.die
    d ∉ r.resumed ∧
    d ∈ s.ringDies ∧
    s.systemPlane.isSome = true ∧
    (∀ a ∈ s.net, a.awaits = false) := by decide +kernel

theorem witness_PlanesAndInvalidations_14 :
    let s : State := sXinvDrop
    let i := (⟨0, 0⟩ : TileId)
    s.event.flag = true ∧
    s.systemPlane.isSome = true ∧
    let d := s.event.die
    let x := s.die d
    x.phase = 0 ∧
    ∃ v ∈ (x.invs).head?,
    let rest := (x.invs).tail
    x.invs = v :: rest ∧
    v.dropped = false ∧
    ∃ y ∈ s.tiles.find? i, True := by decide +kernel

theorem witness_PlanesAndInvalidations_15 :
    let s : State := sXinvGone
    s.event.flag = false ∧
    let d := s.event.die
    let x := s.die d
    x.phase = 0 ∧
    ∃ v ∈ (x.invs).head?,
    let rest := (x.invs).tail
    x.invs = v :: rest ∧
    v.dropped = true ∧
    s.pinsGone v = true := by decide +kernel

theorem witness_PlanesAndInvalidations_16 :
    let s : State := sXinvWaits
    s.event.flag = false ∧
    let d := s.event.die
    let x := s.die d
    ∃ v ∈ (x.invs).head?,
    let rest := (x.invs).tail
    x.invs = v :: rest ∧
    v.dropped = false := by decide +kernel

theorem witness_FaultSystem_0 :
    let s : State := sWriteEntry
    let k := 0
    let die := s.event.die
    let x := s.die die
    ∃ e ∈ (x.fqPending).head?,
    let rest := (x.fqPending).tail
    x.fqPending = e :: rest ∧
    x.fqEnable = true ∧
    (x.fqHead - x.fqTail).toNat < 2 ^ x.fqLogsize.toNat ∧
    e.kind < 8 ∧
    k < 8 := by decide +kernel

theorem witness_FaultSystem_1 :
    let s : State := sWriteEntry
    let die := s.event.die
    let x := s.die die
    ∃ e ∈ (x.fqPending).head?,
    let rest := (x.fqPending).tail
    x.fqPending = e :: rest ∧
    x.fqEnable = true ∧
    (x.fqHead - x.fqTail).toNat < 2 ^ x.fqLogsize.toNat ∧
    e.kind < 8 ∧
    (s.pkg (die / 8)).valid = true := by decide +kernel

theorem witness_FaultSystem_2 :
    let s : State := sNoRing
    let die := s.event.die
    let x := s.die die
    x.fqEnable = false := by decide +kernel

theorem witness_FaultSystem_3 :
    let s : State := sLoadStop
    let l := s.event.load
    (s.loads.find? l).isSome = true ∧
    (s.load l).status = .running ∧
    (s.load l).stopping = false ∧
    let die := s.event.die
    let x := s.die die
    x.preempt = none ∧
    (s.die l.die).preempt = none := by decide +kernel

theorem witness_FaultSystem_4 :
    let s : State := sLoadStopped
    let k := 1
    let l := s.event.load
    (s.load l).stopping = true ∧
    (∀ d ∈ s.dies.entries, ∀ e ∈ d.2.fqPending, e.of = .load l → e.kind ≠ 1) ∧
    s.settled l = true ∧
    l.load < k ∧
    ∃ y ∈ s.loads.find? ⟨l.die, l.queue, k⟩,
    y.status = .queued := by decide +kernel

theorem witness_FaultSystem_5 :
    let s : State := sScrub
    let pa := s.event.addr / 64 * 64
    placeOf pa = .hbm ∧
    s.diePresent (dieOf pa) = true ∧
    pa < 2 ^ 52 ∧
    s.readInFlight (pa / 64) = false := by decide +kernel

theorem witness_FaultSystem_6 :
    let s : State := sDeadlock
    let die := s.event.die
    let l := s.event.load
    ∃ d ∈ (s.load l).detectors.find? (fun y => y.die == die),
    (s.load l).runsOn die = true ∧
    d.silent = false ∧
    let x := s.die die
    2 ^ x.ddwin.toNat ≤ d.quiet ∧
    s.waiters l die ≠ [] ∧
    x.ringReady = true ∧
    x.fqPending = [] := by decide +kernel

theorem witness_ChannelsMove_0 :
    let s : State := sSend
    let id := s.event.chan
    let c := s.chan id
    s.mayOffer id c = true ∧
    c.converts = false ∧
    (∀ p ∈ c.unacked, p.sent = true) ∧
    c.waiting = [] ∧
    ∃ b ∈ (c.outq).head?,
    let rest := (c.outq).tail
    c.outq = b :: rest ∧
    ∃ plane ∈ s.stripe c.src.die c.nextSeq,
    1 ≤ c.depth ∧
    (∀ d ∈ c.dests, d.occupancy + c.unacked.length + 1 ≤ c.depth) := by decide +kernel

theorem witness_ChannelsMove_1 :
    let s : State := sSendWaiting
    let id := s.event.chan
    let c := s.chan id
    s.mayOffer id c = true ∧
    (∀ p ∈ c.unacked, p.sent = true) ∧
    ∃ b ∈ (c.waiting).head?,
    let rest := (c.waiting).tail
    c.waiting = b :: rest ∧
    ∃ plane ∈ s.stripe c.src.die c.nextSeq,
    c.destRoom = 1 := by decide +kernel

theorem witness_ChannelsMove_2 :
    let s : State := sResend
    let id := s.event.chan
    let c := s.chan id
    s.mayOffer id c = true ∧
    ∃ p ∈ c.unacked.find? (fun p => !p.sent),
    ∃ plane ∈ s.stripe c.src.die p.seq, True := by decide +kernel

theorem witness_ChannelsMove_3 :
    let s : State := sSendOff
    let id := s.event.chan
    let c := s.chan id
    s.mayOffer id c = false := by decide +kernel

theorem witness_ChannelsMove_4 :
    let s : State := sArrive
    let id := s.event.chan
    let c := s.chan id
    ∃ p ∈ c.unacked.find? (fun p => p.seq.toNat == s.event.seq),
    let n := s.event.dest
    ∃ d ∈ c.dests[n]?,
    s.packetTravels c p = true ∧
    p.seq = d.expect ∧
    d.early = [] ∧
    s.wakeTile d.home = s ∧
    (s.port d.port).threshold = 0 := by decide +kernel

theorem witness_ChannelsMove_5 :
    let s : State := sLandedAck
    let id := s.event.chan
    let c := s.chan id
    ∃ p ∈ c.unacked.find? (fun p => p.seq.toNat == s.event.seq),
    let n := s.event.dest
    ∃ d ∈ c.dests[n]?,
    d.landed p.seq = true := by decide +kernel

theorem witness_ChannelsMove_6 :
    let s : State := sLandedAck
    let id := s.event.chan
    let c := s.chan id
    ∃ p ∈ c.unacked.find? (fun p => p.seq.toNat == s.event.seq),
    let n := s.event.dest
    ∃ d ∈ c.dests[n]?,
    d.landed p.seq = true ∧
    n ∉ p.acked ∧
    s.packetTravels c p = true ∧
    c.dests.length ≤ p.acked.length + 1 ∧
    (s.port c.src).threshold = 0 := by decide +kernel

theorem witness_ChannelsMove_7 :
    let s : State := sAckFirst
    let id := s.event.chan
    let c := s.chan id
    ∃ p ∈ c.unacked.find? (fun p => p.seq.toNat == s.event.seq),
    let n := s.event.dest
    ∃ d ∈ c.dests[n]?,
    d.landed p.seq = true ∧
    n ∉ p.acked ∧
    s.packetTravels c p = true ∧
    p.acked.length + 1 < c.dests.length := by decide +kernel

theorem witness_RegionsMove_0 :
    let s : State := sTakeEos
    let id : RegionId := ⟨s.event.die, s.event.region⟩
    let r := s.region id
    let n := s.event.port
    let key := linkKey (1016 + n) 0
    ∃ t ∈ (r.links.get key []).head?,
    let ts := (r.links.get key []).tail
    r.links.get key [] = t :: ts ∧
    (r.status = .running ∨ r.status = .closing) ∧
    r.still = false ∧
    let p := regionPort id true n
    ∃ x0 ∈ s.boundTo p,
    let k := x0.1
    let c := x0.2
    isData t = false ∧
    2 ≤ c.room := by decide +kernel

theorem witness_RegionsMove_1 :
    let s : State := sTakeElem
    let v := 1
    let ts := []
    let id : RegionId := ⟨s.event.die, s.event.region⟩
    let r := s.region id
    let n := s.event.port
    let key := linkKey (1016 + n) 0
    r.links.get key [] = Tok.elem v :: ts ∧
    (r.status = .running ∨ r.status = .closing) ∧
    r.still = false ∧
    let p := regionPort id true n
    ∃ x0 ∈ s.boundTo p,
    let k := x0.1
    let c := x0.2
    c.partialBeat.length + 1 < beatElems (typeFormat c.stype) := by decide +kernel

theorem witness_RegionsMove_2 :
    let s : State := sSealed
    s.event.flag = false ∧
    let id : RegionId := ⟨s.event.die, s.event.region⟩
    let r := s.region id
    ∃ im ∈ r.image,
    im.kind = 1 ∧
    r.still = false ∧
    (r.status = .running ∨ r.status = .closing) ∧
    r.gatedIn = false ∧
    let n := s.event.port
    ∃ t ∈ (s.inToks (regionPort id false n)).head?,
    let ts := (s.inToks (regionPort id false n)).tail
    s.inToks (regionPort id false n) = t :: ts := by decide +kernel

theorem witness_RegionsMove_3 :
    let s : State := sSealed
    let id : RegionId := ⟨s.event.die, s.event.region⟩
    let r := s.region id
    r.status = .running := by decide +kernel

theorem witness_RegionsMove_4 :
    let s : State := sSwapRefused
    let id : RegionId := ⟨s.event.die, s.event.region⟩
    let r := s.region id
    ∃ w ∈ r.swap,
    r.status = .running ∧
    w.image = none ∧
    (s.die id.die).phase = 0 := by decide +kernel

theorem witness_RegionsMove_5 :
    let s : State := sSwapHolds
    let id : RegionId := ⟨s.event.die, s.event.region⟩
    let r := s.region id
    ∃ w ∈ r.swap,
    ∃ old ∈ r.image,
    ∃ im ∈ w.image,
    r.status = .closing ∧
    w.closed = true ∧
    s.regionIdle id r old = true ∧
    r.holdsState old = true := by decide +kernel

theorem witness_RegionsMove_6 :
    let s : State := sSwapIdle
    let id : RegionId := ⟨s.event.die, s.event.region⟩
    let r := s.region id
    ∃ w ∈ r.swap,
    ∃ old ∈ r.image,
    ∃ im ∈ w.image,
    r.status = .closing ∧
    w.closed = true ∧
    s.regionIdle id r old = true ∧
    r.holdsState old = false := by decide +kernel

theorem witness_RegionsMove_7 :
    let s : State := sSwapping
    let id : RegionId := ⟨s.event.die, s.event.region⟩
    let r := s.region id
    ∃ w ∈ r.swap,
    ∃ old ∈ r.image,
    ∃ im ∈ w.image,
    r.status = .swapping := by decide +kernel

theorem witness_RegionsMove_8 :
    let s : State := sSwapBusyRegion
    let id : RegionId := ⟨s.event.die, s.event.region⟩
    let r := s.region id
    ∃ w ∈ r.swap,
    ∃ old ∈ r.image,
    r.status = .closing ∧
    w.closed = true ∧
    s.regionIdle id r old = false := by decide +kernel

theorem witness_PreemptionAndGangs_0 :
    let s : State := sQto
    let i := theTask
    let c := CoreId.dawn
    let die := s.event.die
    let x := s.die die
    ∃ p ∈ x.preempt,
    p.restore = false ∧
    p.begun = true ∧
    p.qto ≤ p.counted ∧
    x.prState = 1 ∧
    i ∈ (s.savable ⟨die, p.queue⟩).flatMap s.tasksOf ∧
    (s.task i).live = true ∧
    i.die ∈ (s.load (s.task i).load).gating ∧
    (s.strand (i.strand c)).stopped = false := by decide +kernel

theorem witness_PreemptionAndGangs_1 :
    let s : State := sStillQuiet
    let die := s.event.die
    let id : RegionId := ⟨die, s.event.region⟩
    let r := s.region id
    ∃ k ∈ r.load,
    ∃ im ∈ r.image,
    ∃ p ∈ (s.die k.die).preempt,
    p.restore = false ∧
    p.queue = k.queue ∧
    r.still = false ∧
    (r.status = .running ∨ r.status = .closing) ∧
    ∃ t ∈ s.stepThreeEnd p k.die id.die,
    im.kind ≠ 1 := by decide +kernel

theorem witness_PreemptionAndGangs_2 :
    let s : State := sStillSealed
    let die := s.event.die
    let id : RegionId := ⟨die, s.event.region⟩
    let r := s.region id
    ∃ k ∈ r.load,
    ∃ im ∈ r.image,
    ∃ p ∈ (s.die k.die).preempt,
    p.restore = false ∧
    p.queue = k.queue ∧
    r.still = false ∧
    (r.status = .running ∨ r.status = .closing) ∧
    ∃ t ∈ s.stepThreeEnd p k.die id.die,
    im.kind = 1 := by decide +kernel

theorem witness_PreemptionAndGangs_3 :
    let s : State := sStopped
    let die := s.event.die
    let x := s.die die
    ∃ p ∈ x.preempt,
    p.restore = false ∧
    p.begun = true ∧
    x.prState = 1 ∧
    s.partDies (s.savable ⟨die, p.queue⟩) die = [die] ∧
    s.event.index = die ∧
    p.restAt.find? die = none ∧
    s.systemPlane.isSome = true ∧
    s.partStopped (s.savable ⟨die, p.queue⟩) die = true := by decide +kernel

theorem witness_PreemptionAndGangs_4 :
    let s : State := sAtRest
    let die := s.event.die
    let x := s.die die
    ∃ p ∈ x.preempt,
    p.restore = false ∧
    p.begun = true ∧
    x.prState = 2 ∧
    die ∈ s.partDies (s.savable ⟨die, p.queue⟩) die ∧
    s.event.index = die ∧
    (p.restAt.find? die).isSome = true ∧
    s.systemPlane.isSome = true ∧
    s.diesNormal (s.partDies (s.savable ⟨die, p.queue⟩) die) = true ∧
    s.graphGang (s.savable ⟨die, p.queue⟩) = none ∧
    s.partAtRest (s.savable ⟨die, p.queue⟩) die = true ∧
    s.saveFault die (s.queueDomain die p.queue) p.area.toNat (s.savable ⟨die, p.queue⟩) (fun _ => true) = none := by decide +kernel

theorem witness_PreemptionAndGangs_5 :
    let s : State := sSaved
    let die := s.event.die
    let x := s.die die
    ∃ p ∈ x.preempt,
    ∃ g ∈ s.saved.find? ⟨die, p.queue⟩,
    p.restore = false ∧
    x.prState = 3 ∧
    g.header = true := by decide +kernel

theorem witness_PreemptionAndGangs_6 :
    let s : State := sRestoring
    let images := ([] : List (TaskId × List Byte))
    let die := s.event.die
    let x := s.die die
    ∃ p ∈ x.preempt,
    ∃ g ∈ s.saved.find? ⟨die, p.queue⟩,
    p.restore = true ∧
    s.graphGang (g.loads.map Prod.fst) = none ∧
    s.diesNormal (die :: g.dies) = true ∧
    (match s.checkArea die g p.area.toNat (g.first ⟨die, p.queue⟩) with | .ok _ => true | _ => false) = true ∧
    s.partFree (s.stillSaved g) (fun _ => true) = true ∧
    s.imagesHold (s.stillSaved g) (fun _ => true) = true := by decide +kernel

theorem witness_PreemptionAndGangs_7 :
    let s : State := sArm
    let l := s.event.load
    let y := s.load l
    ∃ g ∈ y.gang,
    g.phase = 0 ∧
    s.event.index = 0 ∧
    g.window ≤ s.clock ∧
    (s.die l.die).phase = 0 ∧
    y.status = .armed ∧
    y.stopping = false ∧
    y.gating = [] ∧
    s.systemPlane.isSome = true := by decide +kernel

theorem witness_PreemptionAndGangs_8 :
    let s : State := sPrepare
    let l := s.event.load
    let y := s.load l
    ∃ g ∈ y.gang,
    g.phase = 1 ∧
    g.kind = .start ∧
    ∃ d ∈ g.members[s.event.member]?,
    d ∉ g.prepared ∧
    s.memberWaits [l] (s.memberDies l g d) = false ∧
    y.status = .armed ∧
    s.startReady l = true ∧
    s.systemPlane.isSome = true := by decide +kernel

theorem witness_PreemptionAndGangs_9 :
    let s : State := sGangAck
    let l := s.event.load
    let y := s.load l
    ∃ g ∈ y.gang,
    g.phase = 1 ∧
    g.kind = .start ∧
    ∃ d ∈ g.members[s.event.member]?,
    d ∈ g.prepared ∧
    d ∉ g.acks ∧
    s.memberWaits [l] (s.memberDies l g d) = false ∧
    s.systemPlane.isSome = true := by decide +kernel

theorem witness_PreemptionAndGangs_10 :
    let s : State := sGangCommit
    let l := s.event.load
    let y := s.load l
    ∃ g ∈ y.gang,
    g.phase = 2 ∧
    g.kind = .start ∧
    ∃ d ∈ g.members[s.event.member]?,
    d ∉ g.acted ∧
    s.memberWaits [l] (s.memberDies l g d) = false ∧
    s.systemPlane.isSome = true := by decide +kernel

theorem witness_PreemptionAndGangs_11 :
    let s : State := sGangFirst
    let l := s.event.load
    let y := s.load l
    ∃ g ∈ y.gang,
    g.phase = 2 ∧
    g.kind = .start ∧
    ∃ d ∈ g.members[s.event.member]?,
    d ∈ g.acted ∧
    d ∉ g.committed ∧
    s.systemPlane.isSome = true ∧
    (∃ m ∈ g.members, m ∉ g.committed ∧ m ≠ d) := by decide +kernel

theorem witness_PreemptionAndGangs_12 :
    let s : State := sGangLast
    let l := s.event.load
    let y := s.load l
    ∃ g ∈ y.gang,
    g.phase = 2 ∧
    g.kind = .start ∧
    ∃ d ∈ g.members[s.event.member]?,
    d ∈ g.acted ∧
    d ∉ g.committed ∧
    s.systemPlane.isSome = true ∧
    (∀ m ∈ g.members, m ∈ g.committed ∨ m = d) := by decide +kernel

theorem witness_PreemptionAndGangs_13 :
    let s : State := (sWindow 2)
    let l := s.event.load
    let y := s.load l
    ∃ g ∈ y.gang,
    g.phase = 2 ∧
    s.clock ≥ g.window + s.windowOf l g := by decide +kernel

theorem witness_PreemptionAndGangs_14 :
    let s : State := (sWindow 1)
    let l := s.event.load
    let y := s.load l
    ∃ g ∈ y.gang,
    g.phase = 1 ∧
    s.clock ≥ g.window + s.windowOf l g := by decide +kernel

theorem witness_PreemptionAndGangs_15 :
    let s : State := sWindowOpen
    let l := s.event.load
    let y := s.load l
    ∃ g ∈ y.gang,
    s.clock < g.window + s.windowOf l g := by decide +kernel

theorem witness_PreemptionAndGangs_16 :
    let s : State := sAbort
    let l := s.event.load
    let y := s.load l
    ∃ g ∈ y.gang,
    g.phase = 4 ∧
    g.kind = .start ∧
    ∃ d ∈ g.members[s.event.member]?,
    g.prepared = [d] ∧
    s.systemPlane.isSome = true := by decide +kernel

theorem witness_PlatformAndLinks_0 :
    let s : State := sBoot
    let n := 0
    let e := s.event
    let k := s.pkg e.pkg
    k.boot = .held ∧
    n < 8 := by decide +kernel

theorem witness_PlatformAndLinks_1 :
    let s : State := sRecovery
    let e := s.event
    let k := s.pkg e.pkg
    k.boot = .recovery ∧
    let f := e.fn
    f = ⟨e.pkg, 0, 0⟩ ∧
    0 ∉ k.linkDown := by decide +kernel

theorem witness_PlatformAndLinks_2 :
    let s : State := (sMailbox { index := 3 })
    let e := s.event
    let f := e.fn
    s.mailboxOpen f = true ∧
    1 ≤ e.index ∧
    e.index ≤ 15 := by decide +kernel

theorem witness_PlatformAndLinks_3 :
    let s : State := (sMailbox { data := List.replicate 32 1 })
    let e := s.event
    let f := e.fn
    s.mailboxOpen f = true ∧
    e.data.length = 32 := by decide +kernel

theorem witness_PlatformAndLinks_4 :
    let s : State := (sMailbox { index := 3, data := List.replicate 64 1 })
    let n := 0
    let e := s.event
    let f := e.fn
    s.mailboxOpen f = true ∧
    1 ≤ e.index ∧
    e.index ≤ 15 ∧
    s.keytag.entries = [] ∧
    e.data.length = 64 ∧
    n < 8 := by decide +kernel

theorem witness_PlatformAndLinks_5 :
    let s : State := (sMailbox {})
    let e := s.event
    let f := e.fn
    s.mailboxOpen f = true := by decide +kernel

theorem witness_PlatformAndLinks_6 :
    let s : State := sLinkDown
    let e := s.event
    e.flag = false ∧
    let k := s.pkg e.pkg
    e.port ∉ k.linkDown := by decide +kernel

theorem witness_PlatformAndLinks_7 :
    let s : State := sVacant
    let e := s.event
    let k := s.pkg e.pkg
    k.valid = true ∧
    k.port ∈ k.linkDown := by decide +kernel

theorem witness_PlatformAndLinks_8 :
    let s : State := (sRising false)
    let e := s.event
    e.flag = false ∧
    let d := s.die e.die
    e.index ∈ d.risingTiles := by decide +kernel

theorem witness_PlatformAndLinks_9 :
    let s : State := (sRising true)
    let e := s.event
    e.flag = true ∧
    let d := s.die e.die
    e.index ∈ d.risingRegions := by decide +kernel

theorem witness_PlatformAndLinks_10 :
    let s : State := sIdleTile
    let e := s.event
    s.tilePowered ⟨e.die, e.index⟩ = true ∧
    s.occupants ⟨e.die, e.index⟩ = [] ∧
    (s.tile ⟨e.die, e.index⟩).busyAt + 1024 ≤ s.clock := by decide +kernel

theorem witness_PlatformAndLinks_11 :
    let s : State := sAlone
    let e := s.event
    let k := s.pkg e.pkg
    k.boot = .running ∧
    s.present = [e.pkg] := by decide +kernel

theorem witness_PlatformAndLinks_12 :
    let s : State := sJoin
    let n := 0
    let e := s.event
    e.pkg < 32 ∧
    let k := s.pkg e.pkg
    k.boot = .running ∧
    k.clash = false ∧
    e.pkg ∉ s.present ∧
    s.rehash = none ∧
    ∃ q ∈ (s.present).head?,
    let rest := (s.present).tail
    s.present = q :: rest ∧
    n < 8 := by decide +kernel

theorem witness_PlatformAndLinks_13 :
    let s : State := sLane
    let e := s.event
    e.plane < 4 ∧
    e.link < 4 ∧
    s.linkUp e.die e.plane e.link = true ∧
    nominalLanes e.die e.plane e.link ≠ 0 ∧
    let lk := s.link e.die e.plane e.link
    2 * minLanes e.link + e.lanes ≤ lk.widths.1 + lk.widths.2 := by decide +kernel

theorem witness_PlatformAndLinks_14 :
    let s : State := sTurn
    let e := s.event
    e.plane < 4 ∧
    e.link < 4 ∧
    s.linkUp e.die e.plane e.link = true ∧
    nominalLanes e.die e.plane e.link ≠ 0 ∧
    e.flag = true ∧
    let lk := s.link e.die e.plane e.link
    e.lanes ≤ lk.widths.1 := by decide +kernel

theorem witness_PlatformAndLinks_15 :
    let s : State := sTrain
    let e := s.event
    let lk := s.link e.die e.plane e.link
    ∃ w ∈ lk.next,
    lk.retrains ≠ 0xFFFF := by decide +kernel


/-- GraphEntries, an entry that is read: where it lies, and what it, its graph descriptor and the list of its loads hold. -/
theorem witness_GraphEntryState : let r := sEntry.queue ⟨0, 0⟩
    r.graph = none ∧ r.enable = true ∧ r.head ≠ r.tail := by decide +kernel
theorem witness_GraphEntryAddress : let r := sEntry.queue ⟨0, 0⟩
    r.base.toNat + 32 * (r.head.toNat % 2 ^ r.logsize.toNat) = 0x20500 := by decide +kernel
theorem witness_GraphEntryDomain : sEntry.queueDomain 0 0 = 0 := by decide +kernel
theorem witness_GraphEntryEvent : sEntry.event.die = 0 ∧ sEntry.event.queue = 0 := ⟨rfl, rfl⟩
theorem witness_GraphEntryWords : sEntry.readDwords 0 0 0x20500 4 = some [0x20400, 0, 0, 0] := by decide +kernel
theorem witness_GraphDescriptor : sEntry.readDwords 0 0 0x20400 8 = some [BitVec.ofNat 64 (0xD9 * 2 ^ 56 + 2 ^ 52), 0x20700, 0, 0, 0, 0, 0, 0] := by decide +kernel
theorem witness_GraphLoads : sEntry.readDwords 0 0 0x20440 1 = some [0x20000] := by decide +kernel
theorem witness_GraphEntryFields : let e : List Word64 := [0x20400, 0, 0, 0]
    let h : List Word64 := [BitVec.ofNat 64 (0xD9 * 2 ^ 56 + 2 ^ 52), 0x20700, 0, 0, 0, 0, 0, 0]
    entryClean e = true ∧ fld (e.getD 0 0) 55 0 = 0x20400 ∧ fld (h.getD 0 0) 51 44 = 0 ∧ fld (0x20000 : Word64) 63 56 = 0 ∧ fld (0x20000 : Word64) 6 0 = 0 ∧
    (e.getD 1 0).getLsbD 63 = false := by decide +kernel

/-- AccessesPerformed: an access of each kind that stands ready at its home; a compare that fails; a PLD of a full word, of an empty one and of a
killed task; a PST of an empty and of a full word; and the flag of an STF in memory and in a counter. -/
@[reducible] def performs (s : State) (a : Access) : Prop :=
  s.net.find? (fun b => b.num == s.event.access && decide (b.who = s.event.who)) = some a ∧ a.size ≤ 8 ∧ placeOf a.pa = .hbm ∧ s.wakeAt a.pa = s ∧ s.isDamaged a.pa a.size = false
@[reducible] def performsNow (s : State) (a : Access) : Prop :=
  performs s a ∧ s.event.flag = false ∧ a.stage = .sent ∧ s.event.source = none ∧ s.mayPerform a = true ∧ s.travels a a.plane = true
def theAccess (s : State) : Access := s.net.headD (anAccess .ldg 0)
theorem witness_AccessesPerformed :
    (∀ s ∈ sPerform, performsNow s (theAccess s)) ∧
    sPerform.map (fun s => (theAccess s).kind) = [.ldg, .ldc, .pref, .stg, .atadd, .atand, .ator, .atxor, .atmin, .atmax, .atswp, .atcas, .atfadd, .atfmax, .amaxx, .prst, .stf, .atcas,
      .pld, .pld, .pst, .pst] ∧
    sPerform.map (fun s => decide ((theAccess s).pa ∈ s.full)) = List.replicate 18 false ++ [true, false, false, true] ∧
    (∀ s ∈ sPerform, (theAccess s).size = 8 ∧ (s.task (theAccess s).who.task).status ≠ .killed ∧ s.net.filter (fun b => b.stage == .deferred && b.pa == (theAccess s).pa) = []) ∧
    sPerform.map (fun s => decide (bytesToNat (s.readPa (theAccess s).pa 8 0) = (theAccess s).expect.toNat)) = List.replicate 11 false ++ [false] ++ List.replicate 5 false ++ [true] ++ List.replicate 4 false ∧
    (let s := (sPerform.getD 19 sRaised).updTask theTask (fun t => { t with status := .killed })
     performsNow s (theAccess s) ∧ (s.task (theAccess s).who.task).status = .killed ∧ (theAccess s).pa ∉ s.full) ∧
    (∀ s ∈ [sFlagMemory, sFlagCounter], performs s (theAccess s) ∧ s.event.flag = true ∧ (theAccess s).stage = .flag ∧ s.mayFlag (theAccess s) = true ∧
      s.travels (theAccess s) (theAccess s).flagPlane = true) ∧
    placeOf (theAccess sFlagMemory).flagPa = .hbm ∧ placeOf (theAccess sFlagCounter).flagPa = .counter 0 2 0 := by decide +kernel

/-- Responses: an entry that is not found, one of another kind, and a strand's fault answered with each action. -/
@[reducible] def responds (s : State) (e : FqEntry) (f : StrandFault) : Prop :=
  (s.die 0).fqOpen.reverse.find? (fun x => x.seq == (s.die 0).fqResp0.extractLsb' 32 32 && x.kept.isNone) = some e ∧ e.kind = 0 ∧ e.of = .strand dawn ∧ e.saved = none ∧
  (s.task theTask).status = .running ∧ (s.strand dawn).status = .faulted ∧ (s.strand dawn).fault = some f ∧ f.retry = .none ∧ f.park = none ∧ (s.strand dawn).waiting = []
theorem witness_Responses :
    (let d := sUnknown.die 0
     (d.fqOpen.reverse.find? (fun x => x.seq == d.fqResp0.extractLsb' 32 32 && x.kept.isNone)) = none) ∧
    (let d := sWrongKind.die 0
     ∃ e ∈ d.fqOpen.reverse.find? (fun x => x.seq == d.fqResp0.extractLsb' 32 32 && x.kept.isNone), kindAdmits e.kind (fld d.fqResp0 31 28) = false) ∧
    (responds sResume (anEntry (.strand dawn) 0) (aFault .misalign) ∧ fld (sResume.die 0).fqResp0 31 28 = 1) ∧
    (responds sResumeTrap (anEntry (.strand dawn) 0) (aFault .trap) ∧ fld (sResumeTrap.die 0).fqResp0 31 28 = 1 ∧ (sResumeTrap.strand dawn).loops = [] ∧
      ((sResumeTrap.strand dawn).pc + 12).toNat < (sResumeTrap.strand dawn).sectStart.toNat + 12 * (sResumeTrap.strand dawn).sectLen) ∧
    (responds sResumeAt (anEntry (.strand dawn) 0) (aFault .misalign) ∧ fld (sResumeAt.die 0).fqResp0 31 28 = 3 ∧ (sResumeAt.wordSection dawn (sResumeAt.die 0).fqResp1).isSome = true) ∧
    (responds sResumeBad (anEntry (.strand dawn) 0) (aFault .misalign) ∧ fld (sResumeBad.die 0).fqResp0 31 28 = 3 ∧ sResumeBad.wordSection dawn (sResumeBad.die 0).fqResp1 = none) := by
  decide +kernel


/-! ### Elements -/

/-- What is asked of an element's word and operation, for the element in the cursor's slot of a region that runs. -/
def elementIs (s : State) (p : Instr → ElemWord → ElemOp → Element → (Nat → Option Tok) → Bool) : Bool :=
  match s.fetchElement s.cur.region s.cur.slot with
  | some i => match elemOpOf i (s.imageBody s.cur.region) with
    | some x => s.holdsElement i && p i x.1 x.2 ((s.region s.cur.region).elems.get s.cur.slot {}) (fun k => ((s.region s.cur.region).link s.cur.slot k).head?)
    | none => false
  | none => false
def firstBatch (e : Element) (p : Batch → Bool) : Bool := match e.emit with | b :: _ => p b | [] => false
/-- Slot 0 sends to slot 1, whose input link is full and which can move on to the output port. -/
def sRipple : State :=
  graphOf [elemWord 3 0 0 (4 * 1) 0, elemWord 3 0 0 out 0] [(4, [.elem 1, .elem 2])] [(0, { emit := [both (.elem 5)] })]
theorem witness_ElementClocks :
    elementIs sEmits (fun _ w _ e _ => firstBatch e (fun b => (sEmits.region theRegion).fits w b)) = true ∧
    elementIs sNoRoom (fun _ w _ e _ => firstBatch e (fun b => !(sNoRoom.region theRegion).fits w b && ((sNoRoom.region theRegion).waitsOn w b).all (fun c => (sNoRoom.moveOf theRegion c).isNone))) = true ∧
    elementIs sRipple (fun _ w _ e _ => firstBatch e (fun b => let r := sRipple.region theRegion
      decide (r.waitsOn w b = [1]) && (match sRipple.moveOf theRegion 1 with
        | some k => r.fits k.1 (k.2.out.headD []) && ((r.take 1 k.2.takes).place k.1 (k.2.out.headD [])).fits w b
        | none => false))) = true ∧
    (sFires.all (fun s => elementIs s (fun _ w op e head =>
      decide (e.emit = []) && (op.reads e head).all (fun p => (match head p with | some (.elem _) => true | _ => false)) &&
        (s.region theRegion).fits w ((op.firing e ((op.reads e head).map (fun p => match head p with | some t => dataCell t | none => 0))).2.headD []))) = true) ∧
    elementIs sScale (fun _ _ op e head => decide (e.emit = []) && op.takesScale && decide (op.reads e head = [0]) && decide (head 0 = some (.scale 0x80))) = true := by
  decide +kernel

/-- ElementResults and RecordElements: words of the formats and modes that their clauses name, and records at their ends. -/
theorem witness_ElementResults :
    (let w := decodeElemWord ((elemWord 8 7 0 out 0).extractLsb' 0 58)
     w.fmt = 7 ∧ w.fmt.toNat ≤ 9 ∧ w.param.getLsbD 24 = false) ∧
    (∀ m ∈ [0, 1, 2, 3, 4, 5], let w := decodeElemWord ((elemWord 14 0 m out 0).extractLsb' 0 58)
     w.fmt = 0 ∧ w.param.getLsbD 24 = false ∧ w.mod = BitVec.ofNat 3 m) ∧
    (∀ m ∈ [0, 2, 4], let w := decodeElemWord ((elemWord 15 1 m out 0).extractLsb' 0 58)
     w.fmt = 1 ∧ w.param.getLsbD 24 = false ∧ w.mod = BitVec.ofNat 3 m) ∧
    (let w := decodeElemWord ((elemWord 15 7 2 out 0).extractLsb' 0 58)
     w.fmt = 7 ∧ w.param.getLsbD 24 = false ∧ w.mod = 2) := by decide
theorem witness_RecordElements :
    let param (p : Nat) : BitVec 25 := (decodeElemWord ((elemWord 20 7 0 out p).extractLsb' 0 58)).param
    (let group := fld (param 7) 5 0 + 1
     group ≤ 7 + 1 ∧ 0 + 1 < group) ∧ (32 ≤ 31 + 1 ∧ 0 + 1 < 32) ∧
    (fld (param (9 * 64 + 1)) 21 6 ≤ 8 + 1 ∧ 0 + 1 < fld (param (9 * 64 + 1)) 21 6) ∧ (3 < fld (param 7) 5 0 + 1) ∧
    (fld (param 7) 20 5 = 0 ∧ 0 < fld (param 7) 4 0 + 1) ∧ fld (param 0) 15 0 = 0 := by decide

/-- SpecialTokens: what stands at the heads of the element in the event's slot. -/
def specialIs (s : State) (p : ElemWord → ElemOp → (Nat → Option Tok) → List Nat → Bool) : Bool :=
  let r := s.region theRegion
  let e := r.elems.get 0 {}
  (s.event.die == 0 && s.event.region == 0 && s.event.slot == 0 && r.status == .running && !r.still && decide (e.emit = [])) &&
  match r.image with
  | some im => im.kind == 2 && (match decodeElement (im.body.getD 0 0) with
    | .ok i => (match elemOpOf i im.body with | some x => p x.1 x.2 (fun k => (r.link 0 k).head?) (x.2.reads e (fun k => (r.link 0 k).head?)) | none => false)
    | .error _ => false)
  | none => false
def roomFor (s : State) (w : ElemWord) (b : Batch) : Bool := (s.region theRegion).fits w b
theorem witness_SpecialTokens :
    specialIs sOrder (fun w op head u => decide (u = [0]) && decide (head 0 = some .order) && (match op.rec' with
      | some rop => roomFor sOrder w ((((((sOrder.region theRegion).elems.get 0 {}).endRecord rop).2) ++ [both .order]).headD []) | none => false)) = true ∧
    specialIs sScaleOn (fun w op head u => decide (u = [0]) && !op.takesScale && decide (head 0 = some (.scale 0x80)) && roomFor sScaleOn w (both (.scale 0x80))) = true ∧
    specialIs sPoison (fun w op head u => op.rec'.isNone && decide (u = [0]) && decide (head 0 = some (.poison 5)) && roomFor sPoison w (both (.poison 5))) = true ∧
    specialIs sEos (fun w op head u => op.rec'.isNone && decide (u = [0, 1]) && u.all (fun p => decide (head p = some .eos)) && roomFor sEos w (both .eos)) = true ∧
    specialIs sMixed (fun w _ head u => decide (u = [0, 1]) && decide (head 0 = some (.elem 1)) && decide (head 1 = some .eos) && roomFor sMixed w (both (.poison 0))) = true := by
  decide +kernel

/-- PortElements. -/
def wordHere (s : State) : ElemWord := decodeElemWord (((s.imageBody theRegion).getD 0 0).extractLsb' 0 58)
theorem witness_PortElements :
    (sSource.holdsElement (.elSource (wordHere sSource)) = true ∧ (sSource.inToks ⟨0, .region, 0, false, fld (wordHere sSource).param 2 0⟩).head? = some (.elem 0x3F800000) ∧
      (sSource.region theRegion).gatedIn = false ∧ roomFor sSource (wordHere sSource) (both (.elem 0x3F800000)) = true) ∧
    (sSourceDry.holdsElement (.elSource (wordHere sSourceDry)) = true ∧ sSourceDry.inToks ⟨0, .region, 0, false, fld (wordHere sSourceDry).param 2 0⟩ = []) ∧
    (sSink.holdsElement (.elSink (wordHere sSink)) = true ∧ ((sSink.region theRegion).link 0 0).head? = some (.elem 5)) ∧
    (sSinkPoison.holdsElement (.elSink (wordHere sSinkPoison)) = true ∧ ((sSinkPoison.region theRegion).link 0 0).head? = some (.poison 5) ∧
      (sSinkPoison.region theRegion).load = some theLoad ∧ (sSinkPoison.load theLoad).stopping = false ∧ (sSinkPoison.load theLoad).status = .running) ∧
    (sQbufTakes.holdsElement (.elQbuf (wordHere sQbufTakes)) = true ∧ ((sQbufTakes.region theRegion).elems.get 0 {}).held = [] ∧
      ((sQbufTakes.region theRegion).link 0 0).head? = some (.elem 5) ∧ 0 < fld (wordHere sQbufTakes).param 12 0) ∧
    (sQbufGives.holdsElement (.elQbuf (wordHere sQbufGives)) = true ∧ ((sQbufGives.region theRegion).elems.get 0 {}).held = [.elem 5] ∧
      (sQbufGives.region theRegion).link 0 0 = [] ∧ roomFor sQbufGives (wordHere sQbufGives) (both (.elem 5)) = true) := by
  decide +kernel

/-! ### Commands, steps and pairs -/

/-- MoraineUnits: a command of each kind and the numbers that its clauses ask for. -/
def unitCommand (i : Instr) : Command :=
  { aCommand i with vb := 8192, desc := [BitVec.ofNat 64 (2 * 2 ^ 58 + 2 ^ 57 + 16), 4, 8, 16, 0, 0, 0, BitVec.ofNat 64 (2 * 2 ^ 16 + 3)] }
theorem witness_MoraineUnits :
    ((unitCommand (.mcpy plainWord)).vd.toNat % 4096 = 0 ∧ 4096 * (1 + 1) ≤ (unitCommand (.mcpy plainWord)).vb.toNat) ∧
    (2 < nestCount (unitCommand (.mnest plainWord)).desc 1 ∧ 1 < nestCount (unitCommand (.mnest plainWord)).desc 2) ∧
    (3 < fld ((unitCommand (.mgth plainWord)).desc.getD 1 0) 31 0 ∧ fld ((unitCommand (.mgth plainWord)).desc.getD 1 0) 31 0 ≤ 4) ∧
    (let c := unitCommand (.mspg plainWord)
     sparseSize (c.desc.getD 0 0) = 4 ∧ 3 ≤ fld (c.desc.getD 1 0) 31 0 ∧ 3 - 1 ≤ fld (c.desc.getD 0 0) 31 0 ∧ 1 < 3) := by decide

/-- Whether an outcome is a next state of which something holds. -/
def nextIs (o : Host.Outcome State Fault Refusal) (p : State → Bool) : Bool := match o with | .next u => p u | _ => false
theorem next_of {o : Host.Outcome State Fault Refusal} {p : State → Bool} (h : nextIs o p = true) : ∃ u, o = .next u ∧ p u = true := by
  cases o with
  | next u => exact ⟨u, rfl, h⟩
  | fault _ => exact absurd h Bool.false_ne_true
  | refused _ => exact absurd h Bool.false_ne_true

/-- StepRunsTheWord: the turn of tile 0's Dawn core, whose only strand stands at a word of zeros, NOP. -/
def turnWorld (ts : List Turn) : State := { world .dawn with agenda := [ts] }
def selectedDawn : State := let s := turnWorld [.core 0 0 .dawn]; { s with agenda := [], work := { s.work with cores := s.work.cores ++ [(⟨0, 0⟩, .dawn)] } }
theorem witness_StepRunsTheWord :
    (turnWorld [.core 0 0 .dawn]).work.cores.contains (⟨0, 0⟩, .dawn) = false ∧
    ({ turnWorld [.core 0 0 .dawn] with agenda := [] } : State).ranked ⟨0, 0⟩ .dawn = [dawn] ∧ ((turnWorld [.core 0 0 .dawn]).strand dawn).atHeader = false ∧
    selectedDawn.readVirtual 0 0 0x10038 12 = some (List.replicate 12 0) ∧ (decode (List.replicate 12 0)).toOption = some (.nop plainWord) ∧
    (fieldsOf (.nop plainWord)).dual = false ∧ nextIs (exec (.nop plainWord) (selectedDawn.atStrand dawn none)) (fun u => decide ((u.strand dawn).status ≠ .held)) = true := by
  decide +kernel

/-- PairsRunTogether: both words retire; the first traps; the second traps. -/
def pairOf (w : Fields) : Fields := { w with dual := true }
def pairStart (s : State) : PairStart := { preds := (s.strand dawn).preds, depth := (s.strand dawn).depth, slots := (s.task theTask).slots }
def secondOf (m : Instr) (t : State) : Host.Outcome State Fault Refusal := exec m (t.updCur (fun c => { c with mate := none, pair := some (pairStart (world .dawn)) }))
theorem witness_PairsRunTogether :
    nextIs (exec (.add (pairOf wB)) ((world .dawn).atStrand dawn (some (.nop plainWord)))) (fun t => t.cur.stop.isNone &&
      nextIs (secondOf (.nop plainWord) t) (fun u => u.cur.stop.isNone)) = true ∧
    nextIs (exec (.qpop (pairOf { wD with a := .queue 1 })) ((world .dawn).atStrand dawn (some (.nop plainWord)))) (fun t => t.cur.stop.isSome) = true ∧
    nextIs (exec (.add (pairOf wB)) ((world .dawn).atStrand dawn (some (.twait (withE 2 (inMod 1 plainWord)))))) (fun t => t.cur.stop.isNone &&
      nextIs (secondOf (.twait (withE 2 (inMod 1 plainWord))) t) (fun u => u.cur.stop.isSome)) = true := by
  decide +kernel

/-- StepRunsElementsAndEvents: the turn of an element, of an event, of a Dawn and a Dusk core in both orders, and none. -/
theorem witness_StepRunsTurns :
    ((sEmits.region theRegion).image.isSome = true ∧ ((sEmits.region theRegion).image.any (fun im => match decodeElement (im.body.getD 0 0) with
      | .ok i => nextIs (exec i (sEmits.updCur (fun c => { c with region := theRegion, slot := 0 }))) (fun _ => true) | .error _ => false)) = true) ∧
    nextIs (exec .suspendWake { sSuspended with agenda := [], event := sSuspended.event }) (fun _ => true) = true ∧
    (Turn.ofDusk (.core 0 0 .dawn) = false ∧ Turn.ofDusk (.core 0 0 .dusk) = true) ∧
    nextIs (runTurn (.core 0 0 .dawn) (turnWorld [])) (fun u => nextIs (runTurn (.core 0 0 .dusk) u) (fun _ => true)) = true ∧
    (world .dawn).agenda = [] := by decide +kernel

/-- CyclesEnd: a strand that waits on a counter. -/
theorem witness_CyclesEnd : (sDeadlock.strand dawn).status = .parked ∧ ∃ p ∈ (sDeadlock.strand dawn).park, p.counter = some 1 := by decide +kernel
/-- The invariants' steps: reset has the canonical form and whole vectors, and its step answers a next state. -/
theorem witness_ResetSteps : State.reset.MemoryCanonical ∧ State.reset.VectorsWhole ∧ nextIs (step State.reset) (fun _ => true) = true :=
  ⟨by unfold State.MemoryCanonical; decide, fun _ _ => .inl rfl, by decide +kernel⟩
/-- DecodeOfEncode: a well-formed word with its bytes. -/
theorem witness_DecodeOfEncode : (Instr.vadd { inFmt 7 wB with d := .reg 4 }).wf = true ∧ (encode (.vadd { inFmt 7 wB with d := .reg 4 })).isSome = true := by decide

theorem witness_ButterflyStages : (0 : Nat) < 2 ^ 3 ∧ 0 * 2 ^ (3 + 1) + 0 + 2 ^ 3 < 16 := by decide

/-! ## One word, one result

Expected values are computed by hand from the rules named. -/

/-- The world with two source registers and a third. -/
def operands (c : CoreId) (x y z : Nat) : State :=
  worldStr c (fun s => { s with regs := ((s.regs.set 1 (BitVec.ofNat 64 x)).set 2 (BitVec.ofNat 64 y)).set 6 (BitVec.ofNat 64 z) })
/-- Whether a word leaves a value in register 7. -/
def gives (c : CoreId) (i : Instr) (x y z v : Nat) : Bool :=
  nextIs (exec i (operands c x y z)) (fun u => decide (u.me.regs.get 7 0 = BitVec.ofNat 64 v) && decide (u.me.pc = 0x10044))
/-- -n in 64 bits and in 32. -/
def neg64 (n : Nat) : Nat := 2 ^ 64 - n
def neg32 (n : Nat) : Nat := 2 ^ 32 - n

/-- R68, R71, R72 on Dawn: 64-bit results, and 32-bit ones extended by the signedness of the format. -/
theorem test_integers_dawn :
    gives .dawn (.add wB) (neg64 1) 1 0 0 ∧ gives .dawn (.add (inFmt 1 (inMod 1 wB))) (2 ^ 31 - 1) 1 0 (2 ^ 31 - 1) ∧ gives .dawn (.sub wB) 3 6 0 (neg64 3) ∧
    gives .dawn (.sub (inFmt 2 (inMod 1 wB))) 3 6 0 0 ∧ gives .dawn (.mul (inFmt 1 wB)) 0x10000 0x8000 0 (neg64 (2 ^ 31)) ∧ gives .dawn (.mulh wB) (2 ^ 63) 2 0 (neg64 1) ∧
    gives .dawn (.mad wC) 6 3 8 26 ∧ gives .dawn (.div wB) (neg64 7) 2 0 (neg64 3) ∧ gives .dawn (.div (inFmt 2 wB)) 9 0 0 (2 ^ 32 - 1) ∧
    gives .dawn (.rem wB) (neg64 7) 2 0 (neg64 1) ∧ gives .dawn (.rem wB) 9 0 0 9 ∧ gives .dawn (.min wB) (neg64 1) 1 0 (neg64 1) ∧
    gives .dawn (.max (inFmt 2 wB)) (neg64 1) 1 0 (2 ^ 32 - 1) ∧ gives .dawn (.abs (inMod 1 wA)) (2 ^ 63) 0 0 (2 ^ 63 - 1) ∧ gives .dawn (.neg wA) 5 0 0 (neg64 5) := by decide +kernel
/-- The same on Dusk: 32-bit registers. -/
theorem test_integers_dusk :
    gives .dusk (.add wB) (2 ^ 32 - 1) 2 0 1 ∧ gives .dusk (.mulh (inFmt 2 wB)) (2 ^ 31) 6 0 3 ∧ gives .dusk (.div wB) (2 ^ 31) (neg32 1) 0 (2 ^ 31) ∧
    gives .dusk (.rem wB) (2 ^ 31) (neg32 1) 0 0 := by decide +kernel

/-- R73, R74: counts of the width and more, a bit rotated out, fields at the top. -/
theorem test_logic_and_fields :
    gives .dawn (.and wB) 6 3 0 2 ∧ gives .dawn (.or wB) 6 3 0 7 ∧ gives .dawn (.xor wB) 6 3 0 5 ∧ gives .dawn (.andn wB) 6 3 0 4 ∧
    gives .dawn (.shl wB) 6 64 0 0 ∧ gives .dawn (.shl (inFmt 1 wB)) 1 31 0 (neg64 (2 ^ 31)) ∧ gives .dawn (.shr (inFmt 2 wB)) (neg64 1) 28 0 15 ∧
    gives .dawn (.sar wB) (neg64 8) 1 0 (neg64 4) ∧ gives .dawn (.sar wB) (2 ^ 63) 99 0 (neg64 1) ∧ gives .dawn (.rol wB) (2 ^ 63) 65 0 1 ∧
    gives .dawn (.clz wA) 6 0 0 61 ∧ gives .dusk (.clz wA) 6 0 0 29 ∧ gives .dawn (.popc wA) 7 0 0 3 ∧
    gives .dawn (.bfx (withE (2 * 128 + 1) wA)) 6 0 0 (neg64 1) ∧ gives .dawn (.bfx (inFmt 2 (withE (9 * 128 + 28) wA))) 0xF0000000 0 0 15 ∧
    gives .dawn (.bfi (withE (4 * 128 + 62) wB)) 5 7 0 (3 * 2 ^ 62 + 5) := by decide +kernel

/-- R70, R75, R76, R78. -/
theorem test_moves :
    gives .dawn (.mov wA) 6 0 0 6 ∧ gives .dawn (.movi { wD with c := .imm 0, e := 1 }) 0 0 0 (neg64 0xFFFFFF) ∧
    gives .dawn (.movhi (inMod 2 { wA with c := .reg 2, e := 0x1234 })) 5 0 0 (0x9234 * 2 ^ 32 + 5) ∧ gives .dawn (.cvtsx (inFmt 3 wA)) 0x8000 0 0 (neg64 0x8000) ∧
    gives .dusk (.cvtsx (inFmt 6 wA)) 0x180 0 0 0x80 ∧ gives .dawn (.lea (inFmt 1 { wB with c := .imm 3, e := 4 })) 0x1000 (2 ^ 32 - 1) 0 0xFFC ∧
    gives .dawn (.sel { wB with c := .reg 3 }) 6 3 0 3 := by decide +kernel

/-- Whether a word leaves the predicates 3 and 4 with given values. -/
def answers (c : CoreId) (i : Instr) (x y : Nat) (p q : Bool) : Bool :=
  nextIs (exec i (operands c x y 0)) (fun u => u.me.preds.getLsbD 3 == p && u.me.preds.getLsbD 4 == q)
def toPreds (m : Nat) : Fields := inMod m { wB with d := .reg 3, c := .reg 4 }
/-- R77, R79, R85: signed and unsigned order differ; a NaN is unordered; p0 is true. -/
theorem test_predicates :
    answers .dawn (.cmp (toPreds 2)) (neg64 1) 1 true false ∧ answers .dawn (.cmp (toPreds 4)) (neg64 1) 1 false true ∧ answers .dawn (.cmp (inFmt 1 (toPreds 0))) (2 ^ 32 + 5) 5 true false ∧
    answers .dusk (.fcmp (inFmt 7 (toPreds 1))) 0x7FC00000 0 true false ∧ answers .dusk (.fcmp (inFmt 7 (toPreds 0))) 0x80000000 0 true false ∧
    answers .dawn (.plog (inMod 7 { plainWord with d := .reg 3, a := .reg 5, b := .reg 5 })) 0 0 true false ∧
    answers .dawn (.plog (inMod 3 { plainWord with d := .reg 3, a := .reg 0, b := .reg 5 })) 0 0 true false := by decide +kernel

/-- R81 to R86: ties, signed zeros, invalid cases, saturation, a signed NaN's bits, and conversions. -/
theorem test_floating_point :
    gives .dusk (.fadd (inFmt 7 wB)) 0x3F800000 0x33800000 0 0x3F800000 ∧ gives .dusk (.fadd (inFmt 7 (inMod 2 wB))) 0x3F800000 0x33800000 0 0x3F800001 ∧
    gives .dusk (.fadd (inFmt 7 (inMod 3 wB))) 0x3F800000 0xBF800000 0 0x80000000 ∧ gives .dusk (.fsub (inFmt 7 wB)) 0x7F800000 0x7F800000 0 0x7FC00000 ∧
    gives .dusk (.fmul (inFmt 7 (inMod 5 wB))) 0x7F7FFFFF 0x40000000 0 0x7F7FFFFF ∧ gives .dusk (.fmul (inFmt 7 wB)) 0x00800000 0x3F000000 0 0x00400000 ∧
    gives .dusk (.ffma (inFmt 7 wC)) 0x3F800001 0x3F800001 0xBF800000 0x34800000 ∧ gives .dusk (.fdiv (inFmt 7 wB)) 0xBF800000 0 0 0xFF800000 ∧
    gives .dusk (.fsqrt (inFmt 7 wA)) 0x40000000 0 0 0x3FB504F3 ∧ gives .dusk (.fsqrt (inFmt 7 wA)) 0x80000000 0 0 0x80000000 ∧ gives .dusk (.frcp (inFmt 7 wA)) 0x40400000 0 0 0x3EAAAAAB ∧
    gives .dusk (.fabs (inFmt 7 wA)) 0xFFC00005 0 0 0x7FC00005 ∧ gives .dusk (.fneg (inFmt 7 (inMod 1 wA))) 0x7FC00005 0 0 0xFFC00005 ∧
    gives .dusk (.fcvt (inFmt 1 (withE 7 wA))) 0x40200000 0 0 2 ∧ gives .dusk (.fcvt (inFmt 2 (withE 7 wA))) 0xC0000000 0 0 0 ∧
    gives .dusk (.fcvt (inFmt 7 (withE 1 wA))) (neg32 1) 0 0 0xBF800000 ∧ gives .dusk (.fcvt (inFmt 8 (withE 7 wA))) 0x3F808000 0 0 0x3F80 := by decide +kernel

/-- R47, R88, R92: what memory holds at the address, extended; a load's sign. -/
theorem test_tile_memory :
    (let s := { world .dawn with mem := worldMem ++ cellsOf (tilePa ⟨0, 0⟩ 0x1000, 8, 0x8877665544332211) }
     nextIs (exec (.ldt (memD 4)) s) (fun u => decide (u.me.regs.get 7 0 = 0x8877665544332211)) ∧
     nextIs (exec (.ldt (inFmt 5 (withE 7 (memD 4)))) s) (fun u => decide (u.me.regs.get 7 0 = 0xFFFFFFFFFFFFFF88)) ∧
     nextIs (exec (.stt (inFmt 3 (withE 2 (memC 4)))) s) (fun u => decide (u.mem.filter (fun c => c.1 == tilePa ⟨0, 0⟩ 0x1002) = [(tilePa ⟨0, 0⟩ 0x1002, 3)]) &&
        decide (bytesToNat (u.readTile ⟨0, 0⟩ 0x1000 8) = 0x8877665500032211))) := by decide +kernel

/-- R28, R32: a misaligned load traps, its strand faulted, its word to issue again. -/
theorem test_misaligned_load : nextIs (exec (.ldt (withE 4 (memD 4))) (world .dawn)) (fun u => decide (u.me.status = .faulted) && decide (u.me.fault.map (fun f => (f.code, f.resume)) = some (FaultCode.misalign, 0x10038))) = true := by decide +kernel

/-- R89, R90, R91: a link, a loop's end. -/
theorem test_call_and_return :
    nextIs (exec (.call (withE 3 wD)) (world .dawn)) (fun u => decide (u.me.regs.get 7 0 = 0x10044) && decide (u.me.depth = 1)) ∧
    nextIs (exec (.nop plainWord) atLoopEnd) (fun u => decide (u.me.pc = 0x10038) && decide (u.me.loops.map (·.count) = [2])) := by decide +kernel

/-- R16: Dawn takes one token from Dusk's counter and adds two to its own towards Dusk, which count when the cycle ends. -/
theorem test_tokens :
    nextIs (exec (.nop { plainWord with pop := 5, push := 6 }) (worldWith .dawn (fun t => { t with tokens := ⟨[(3, 5)]⟩ })))
      (fun u => decide ((u.task theTask).token 3 = 4) && decide (u.work.pushes.length = 1)) = true := by decide +kernel

/-! ## Vectors -/

/-- Vector 1 with 2^24 in lane 0 and 1.0 in lanes 16, 32 and 48: the example of R157. -/
def sumWorld : State :=
  worldWith .dusk (fun t => { t with v := ⟨[(1, (List.range 1024).map (fun k => if k = 0 then 0x4B800000 else if k = 16 ∨ k = 32 ∨ k = 48 then 0x3F800000 else 0))]⟩ })
theorem test_vredr_order :
    nextIs (exec (.vredr (inFmt 7 { wD with a := .reg 1 })) sumWorld) (fun u => let x := (u.task theTask).v.get 7 []; decide (x.getD 0 9 = 0x4B800001) && decide (x.getD 63 9 = 0x4B800001) && decide (x.getD 64 9 = 0)) = true := by
  decide +kernel
/-- R150: a count of the element's width gives 0; R137: a scalar in B gives its low bits (vshl.s8 by 0x100 shifts by 0). -/
theorem test_vshl_by_scalar :
    nextIs (exec (.vshl (inFmt 5 { wD with a := .reg 1, b := .scalar 0 2 })) ((sumWorld).updStrand dusk (fun x => { x with regs := x.regs.set 2 0x100 })))
      (fun u => let x := (u.task theTask).v.get 7 []; decide (x.getD 0 9 = 0)) = true := by decide +kernel

/-! ## Number formats -/

def dec32 (n : Nat) : Machine.Num := .fin false n 0
/-- The table of R120. -/
theorem test_round_table :
    [(232, Rnd.rne, 0x7E, 0x7E), (232, .rna, 0x7F, 0x7F), (235, .rne, 0x7F, 0x7F), (235, .rtz, 0x7E, 0x7E), (235, .satf, 0x7F, 0x7E), (250, .rne, 0x7F, 0x7F), (250, .rtz, 0x7F, 0x7E)].all
      (fun x => round (dec32 x.1) (.b8 0x24) x.2.1 == x.2.2.1 && round (dec32 x.1) (.b8 0x34) x.2.1 == x.2.2.2) = true := by decide
/-- A negative value into an unsigned format (R120): 0x00 or NaN by mode. -/
theorem test_round_negative_unsigned :
    [(Rnd.rtz, 0), (.rup, 0), (.satf, 0), (.rdn, 0xFF), (.rne, 0xFF)].all (fun x => round (.fin true 1 0) (.b8 0x13) x.1 == x.2) = true := by decide
/-- Current scaling of the example of R160: 1000, -3, 5, 2^-7 and zeros. -/
theorem test_current_scale :
    (let r := currentScale (.b8 0x24) .rne ([.fin false 1000 0, .fin true 3 0, .fin false 5 0, .fin false 1 (-7)] ++ List.replicate 28 (.fin false 0 0))
     r.1 = 0x81 ∧ r.2.take 5 = [0x7F, 0xBC, 0x42, 0x02, 0]) := by decide
/-- R128: 3 against a scale of 1 into signed bytes is 3 and not counted; 300 is cut and counted. -/
theorem test_delayed_scale :
    delayedQuant (.int true 8) .rne 127 (dec32 3) 0 = (3, 0) ∧ delayedQuant (.int true 8) .rne 127 (dec32 300) 0 = (127, BitVec.ofNat 64 (2 ^ 63 + 2 ^ 31)) := by decide
/-- A butterfly pair (R192): 1*2 + 3*4 = 14. -/
theorem test_butterfly_pair : pairOut .f32 (dec32 1) (dec32 2) (dec32 3) (dec32 4) = 0x41600000 := by decide

/-! ## Addresses -/

/-- The worked address of R255 and R236, and the counters of R235. -/
theorem test_places :
    fold8 0x200361040 = 145 ∧ sliceOf 0x200361040 = 44 ∧ placeOf 0x200361040 = .hbm ∧ placeOf (tilePa ⟨3, 2⟩ (0xC00000 + 12)) = .counter 2 1 4 ∧
    placeOf 0x1800000000 = .hole ∧ dieOf (tilePa ⟨3, 2⟩ 0) = 3 := by decide
/-- The indices of R238 for the worked address 0x80_4041_0000. -/
theorem test_level_indices : (List.range 4).map (fun k => levelIndex k 0x8040410000) = [1, 1, 2, 1] := by decide
/-- AES-256 of FIPS 197, appendix C.3. -/
theorem test_aes : aesEncrypt (roundKeys ((List.range 32).map (BitVec.ofNat 8))) ((List.range 16).map (fun k => BitVec.ofNat 8 (17 * k))) =
    [0x8E, 0xA2, 0xB7, 0xCA, 0x51, 0x67, 0x45, 0xBF, 0xEA, 0xFC, 0x49, 0x90, 0x4B, 0x49, 0x60, 0x89] := by decide +kernel
theorem test_aes_inverse : aesDecrypt (roundKeys ((List.range 32).map (BitVec.ofNat 8))) [0x8E, 0xA2, 0xB7, 0xCA, 0x51, 0x67, 0x45, 0xBF, 0xEA, 0xFC, 0x49, 0x90, 0x4B, 0x49, 0x60, 0x89] =
    (List.range 16).map (fun k => BitVec.ofNat 8 (17 * k)) := by decide +kernel

/-! ## Events -/

/-- R108: a strand parked below its threshold wakes at its continuation; R435: an access performed changes memory. -/
theorem test_suspend_wake : nextIs (exec .suspendWake sSuspended) (fun u => decide ((u.strand dawn).status = .ready) && decide ((u.strand dawn).pc = 0x10044)) = true := by decide +kernel
theorem test_store_performs : nextIs (exec .globalAccessPerform (sAccess (anAccess .stg 0x20100))) (fun u => decide (bytesToNat (Memory.readBytes u.mem 0x20100 8) = 5)) = true := by decide +kernel
theorem test_fetch_add_performs : nextIs (exec .globalAccessPerform (sAccess (anAccess .atadd 0x20100))) (fun u => decide (bytesToNat (Memory.readBytes u.mem 0x20100 8) = imageAt + 5)) = true := by decide +kernel
/-- The example of R102: a counter of 10, set to 0, raised by 3 and by 1 in one cycle, holds 4 when it ends. -/
theorem test_counters_at_the_end :
    (let s := (world .dawn).putEvent ⟨0, 0⟩ 2 10
     (State.commit { s with work := { sets := [(⟨0, 0⟩, 2, 0)], adds := [(⟨0, 0⟩, 2, 3), (⟨0, 0⟩, 2, 1)] } }).counter ⟨0, 0⟩ 2 = 4) := by decide +kernel

end Sys2Proof.Tests
end

section
/-! ## Reset -/

namespace Sys2Proof.Machine

theorem die_reset (d : Nat) : State.reset.die d = {} := rfl

/-- A doubleword of an unwritten plane map: entry n is n mod 4 (R256). -/
theorem pmapWord_empty (k : Nat) : pmapWord {} k = 0xE4E4E4E4E4E4E4E4#64 := by
  show BitVec.ofNat 64 ((List.range 32).map (fun i => (BitVec.ofNat 2 i).toNat * 4 ^ i)).sum = _
  decide

/-- What an agent reads at a plane-map register (R256). -/
theorem sysRead_pmap (s : State) (a : Agent) (die k : Nat) (h : k < 8) : s.sysRead a die (0x10 + k) = pmapWord (s.die die).pmap k := by
  unfold State.sysRead
  dsimp only
  rw [if_neg (by omega), if_pos (by omega), Nat.add_sub_cancel_left]

/-- Settles O4. -/
theorem resetState : Obligations.ResetState := by
  unfold Obligations.ResetState
  refine ⟨⟨fun _ => rfl, fun _ => rfl, fun _ _ => rfl, fun _ => ⟨rfl, rfl, rfl⟩, fun _ => ⟨rfl, rfl, rfl, rfl, rfl, rfl⟩, ?_, fun _ => rfl⟩, rfl⟩
  intro d k hk
  rw [sysRead_pmap _ _ _ _ hk, die_reset, pmapWord_empty]

end Sys2Proof.Machine
end

section
/-! ## The turns and the end of a cycle -/

namespace Sys2Proof.Machine

/-! ### Maps with every value replaced -/

theorem Map.get_mapVals {κ α : Type} [DecidableEq κ] (m : Map κ α) (f : κ → α → α) (k : κ) (d : α) (h : f k d = d) :
    (m.mapVals f).get k d = f k (m.get k d) := by
  unfold Map.get Map.find? Map.mapVals
  induction m.entries with
  | nil => exact h.symm
  | cons e es ih =>
    by_cases he : e.1 = k
    · subst he; simp [Map.lookup]
    · simpa [Map.lookup, he] using ih

/-! ### Pairs and turns -/

/-- The first word of a pair that stops leaves the state before the pair, with the stop applied (R32, R44). -/
theorem runPair_first_stops {s t : State} {who : StrandId} {i m : Instr} {x : Stop}
    (h : exec i (s.atStrand who (some m)) = .next t) (hx : t.cur.stop = some x) : runPair who i m s = .next (s.applyStop who x) := by
  unfold runPair
  simp only [h, hx]

/-- What a pair's first word leaves for its second of the state before it. -/
def State.pairStart (s : State) (who : StrandId) : PairStart :=
  { preds := (s.strand who).preds, depth := (s.strand who).depth, slots := (s.task who.task).slots }

/-- Once the first word of a pair has not stopped, the pair is its second word on what the first leaves (R44). -/
theorem runPair_second {s t u : State} {who : StrandId} {i m : Instr} (h : exec i (s.atStrand who (some m)) = .next t)
    (hx : t.cur.stop = none) (hu : exec m (t.updCur (fun c => { c with mate := none, pair := some (s.pairStart who) })) = .next u) :
    runPair who i m s = .next (match u.cur.stop with | some x => s.applyStop who x.ofSecond | none => u) := by
  unfold runPair
  unfold State.pairStart at hu
  simp only [h, hx, hu]
  cases u.cur.stop <;> rfl

theorem runTurns_singleton (t : Turn) (s : State) : runTurns [t] s = runTurn t s := by
  unfold runTurns
  cases runTurn t s <;> rfl

theorem runTurns_pair {a b : Turn} {s u v : State} (ha : runTurn a s = .next u) (hb : runTurn b u = .next v) :
    runTurns [a, b] s = .next v := by
  unfold runTurns
  simp only [ha, runTurns_singleton, hb]

/-- A cycle of one turn is that turn and the end of the cycle. -/
theorem step_one_turn {s u : State} {t : Turn} {rest : List (List Turn)} (h : s.agenda = [t] :: rest)
    (ht : runTurn t { s with agenda := rest } = .next u) : step s = .next (endCycle s u) := by
  unfold step runStep
  simp only [h]
  cases hd : t.ofDusk <;> simp [hd, runTurns_singleton, ht, onNext]

/-- The turns of a cycle as they run: those of Dusk cores last (R104). -/
theorem step_turns {s v : State} {ts us : List Turn} {rest : List (List Turn)} (h : s.agenda = ts :: rest)
    (ho : ts.filter (fun t => !t.ofDusk) ++ ts.filter Turn.ofDusk = us) (hr : runTurns us { s with agenda := rest } = .next v) :
    step s = .next (endCycle s v) := by
  unfold step runStep
  simp only [h, ho, hr, onNext]

theorem runTurn_element {s : State} {die region slot : Nat} {im : Image} {i : Instr} (hi : (s.region ⟨die, region⟩).image = some im)
    (hd : decodeElement (im.body.getD slot 0) = .ok i) :
    runTurn (.element die region slot) s = exec i (s.updCur (fun c => { c with region := ⟨die, region⟩, slot := slot })) := by
  unfold runTurn State.fetchElement
  simp only [hi, hd]

/-! ### The end of a cycle -/

/-- What a list of counter changes makes of every counter: each change replaces the value of its own counter by a function
of that value. -/
theorem counter_foldl_putEvent (f : State → TileId × Nat × Word32 → Word32) (g : Word32 → TileId × Nat × Word32 → Word32)
    (hf : ∀ s e, f s e = g (s.counter e.1 e.2.1) e) (l : List (TileId × Nat × Word32)) (s : State) (t : TileId) (n : Nat) :
    (l.foldl (fun x e => x.putEvent e.1 e.2.1 (f x e)) s).counter t n =
      (l.filter (fun e => e.1 == t && e.2.1 == n)).foldl g (s.counter t n) := by
  induction l generalizing s with
  | nil => rfl
  | cons e es ih =>
    rw [List.foldl_cons, ih]
    have hput : (s.putEvent e.1 e.2.1 (f s e)).counter t n = if e.1 = t ∧ e.2.1 = n then g (s.counter t n) e else s.counter t n := by
      unfold State.counter State.putEvent
      rw [tile_updTile]
      by_cases ht : t = e.1
      · subst ht
        by_cases hn : n = e.2.1
        · subst hn; simp [hf, State.counter]
        · simp [Map.get_set, hn, Ne.symm hn]
      · simp [ht, Ne.symm ht]
    rw [hput]
    by_cases hk : e.1 = t ∧ e.2.1 = n
    · simp [hk]
    · simp [hk]

/-- A value that the changes of one key replace one after another is the latest of them. -/
theorem foldl_replace_eq_latest (l : List (TileId × Nat × Word32)) (t : TileId) (n : Nat) (d : Word32) :
    (l.filter (fun e => e.1 == t && e.2.1 == n)).foldl (fun _ e => e.2.2) d =
      latest (l.map (fun x => ((x.1, x.2.1), x.2.2))) (t, n) d := by
  induction l generalizing d with
  | nil => rfl
  | cons e es ih =>
    by_cases hk : e.1 = t ∧ e.2.1 = n
    · simpa [hk, latest] using ih e.2.2
    · simpa [hk, latest] using ih d

/-- What every step of a fold leaves alone, the fold leaves alone. -/
theorem foldl_keeps {α β σ : Type} (p : σ → β) (f : σ → α → σ) (h : ∀ s e, p (f s e) = p s) (l : List α) (s : σ) :
    p (l.foldl f s) = p s := by
  induction l generalizing s with
  | nil => rfl
  | cons e es ih => rw [List.foldl_cons, ih, h]

/-- The end of a cycle before suspensions are examined again: the counter sets, increments and token pushes applied. -/
def State.handedIn (s : State) : State :=
  let s1 := (s.work.sets ++ s.work.duskSets).foldl (fun x e => x.putEvent e.1 e.2.1 e.2.2) { s with work := {} }
  let s2 := s.work.adds.foldl (fun x e => x.putEvent e.1 e.2.1 (x.counter e.1 e.2.1 + e.2.2)) s1
  s.work.pushes.foldl (fun x p => x.giveTokens p) s2

theorem commit_eq_reexamine (s : State) : s.commit = s.handedIn.reexamine := rfl

/-- What neither a counter write nor a token push changes stands as it did. -/
theorem handedIn_keeps {β : Type} (p : State → β) (hp : ∀ s t n v, p (s.putEvent t n v) = p s)
    (ht : ∀ s q, p (s.giveTokens q) = p s) (s : State) : p s.handedIn = p { s with work := {} } := by
  unfold State.handedIn
  dsimp only
  rw [foldl_keeps p _ ht, foldl_keeps p _ (fun _ _ => hp _ _ _ _), foldl_keeps p _ (fun _ _ => hp _ _ _ _)]

theorem strands_handedIn (s : State) : s.handedIn.strands = s.strands := handedIn_keeps State.strands (fun _ _ _ _ => rfl) (fun _ _ => rfl) s

/-- A counter after a cycle: the last of its sets, those of Dusk coming last, and then every increment (R102). -/
theorem counter_commit (s : State) (t : TileId) (n : Nat) : s.commit.counter t n =
    ((s.work.adds.filter (fun x => x.1 == t && x.2.1 == n)).map (fun x => x.2.2)).foldl (· + ·)
      (latest ((s.work.sets ++ s.work.duskSets).map (fun x => ((x.1, x.2.1), x.2.2))) (t, n) (s.counter t n)) := by
  show s.handedIn.counter t n = _
  unfold State.handedIn
  dsimp only
  rw [foldl_keeps (fun x : State => x.counter t n) (fun x p => x.giveTokens p) (fun _ _ => rfl),
    counter_foldl_putEvent (fun x e => x.counter e.1 e.2.1 + e.2.2) (fun v e => v + e.2.2) (fun _ _ => rfl),
    counter_foldl_putEvent (fun _ e => e.2.2) (fun _ e => e.2.2) (fun _ _ => rfl), foldl_replace_eq_latest, List.foldl_map]
  rfl

/-- A token counter after token pushes: the pushes on it, within its six bits (R15, R16). -/
theorem token_foldl_giveTokens (l : List (TaskId × Nat × Nat)) (s : State) (i : TaskId) (k : Nat) :
    ((l.foldl (fun x p => x.giveTokens p) s).task i).token k =
      ((l.filter (fun p => p.1 == i && p.2.1 == k)).map (fun p => p.2.2)).foldl (fun v n => (v + n) % 64) ((s.task i).token k) := by
  induction l generalizing s with
  | nil => rfl
  | cons p ps ih =>
    rw [List.foldl_cons, ih]
    have hgive : ((s.giveTokens p).task i).token k =
        if p.1 = i ∧ p.2.1 = k then ((s.task i).token k + p.2.2) % 64 else (s.task i).token k := by
      unfold State.giveTokens
      rw [task_updTask]
      by_cases hi : i = p.1
      · subst hi
        by_cases hk : k = p.2.1
        · subst hk; simp [token_setToken]
        · simp [token_setToken, hk, Ne.symm hk]
      · simp [hi, Ne.symm hi]
    rw [hgive]
    by_cases hk : p.1 = i ∧ p.2.1 = k
    · simp [hk]
    · simp [hk]

/-- A token counter after a cycle: every push of the cycle on it (R16). -/
theorem token_commit (s : State) (i : TaskId) (k : Nat) : (s.commit.task i).token k =
    ((s.work.pushes.filter (fun p => p.1 == i && p.2.1 == k)).map (fun p => p.2.2)).foldl (fun v n => (v + n) % 64)
      ((s.task i).token k) := by
  show (s.handedIn.task i).token k = _
  unfold State.handedIn
  dsimp only
  rw [token_foldl_giveTokens,
    foldl_keeps (fun x : State => x.task i) (fun x (e : TileId × Nat × Word32) => x.putEvent e.1 e.2.1 (x.counter e.1 e.2.1 + e.2.2))
      (fun _ _ => rfl),
    foldl_keeps (fun x : State => x.task i) (fun x (e : TileId × Nat × Word32) => x.putEvent e.1 e.2.1 e.2.2) (fun _ _ => rfl)]
  rfl

/-- A strand after the re-examination of suspensions, as a function of the strand and of the counters (R22). -/
def State.reexamined (s : State) (i : StrandId) (st : Strand) : Strand :=
  match st.park with
  | some p =>
    match p.counter with
    | some n => if st.status = .parked ∧ suspensionMet (s.counter i.tileId n) p.threshold then { st with park := some { p with woken := true } } else st
    | none => st
  | none => st

theorem strand_commit (s : State) (w : StrandId) : s.commit.strand w = s.commit.reexamined w (s.strand w) := by
  rw [commit_eq_reexamine]
  show (Map.mapVals s.handedIn.strands s.handedIn.reexamined).get w {} = _
  rw [Map.get_mapVals _ _ _ _ rfl, strands_handedIn]
  rfl

/-- Re-examination touches nothing of a strand but the mark that its suspension is over. -/
theorem reexamined_eq (s : State) (i : StrandId) (st : Strand) : ∃ p, s.reexamined i st = { st with park := p } := by
  unfold State.reexamined
  split
  · split
    · split
      · exact ⟨_, rfl⟩
      · exact ⟨_, rfl⟩
    · exact ⟨_, rfl⟩
  · exact ⟨_, rfl⟩

/-- A strand parked on a counter is woken when the counter, after the cycle, has reached its threshold (R22). -/
theorem park_commit {s : State} {w : StrandId} {p : Park} {n : Nat} (hs : (s.strand w).status = .parked)
    (hp : (s.strand w).park = some p) (hn : p.counter = some n) : (s.commit.strand w).park =
      some (if suspensionMet (s.commit.counter w.tileId n) p.threshold then { p with woken := true } else p) := by
  rw [strand_commit]
  unfold State.reexamined
  simp only [hp, hn, hs, true_and]
  split <;> simp [hp]

/-- Settles O8: pairs by the branches of runPair, turns by those of runStep, the end of a cycle by folds over the cycle's work. -/
theorem stepRunsTurns : Obligations.StepRunsTurns := by
  unfold Obligations.StepRunsTurns
  refine ⟨?pairs, ⟨?element, ?event, ?inOrder, ?duskLast, ?idle⟩, fun s =>
    ⟨counter_commit s, token_commit s, fun w p n hs hp hn => park_commit hs hp hn, ?strands, ?mem, ?net, ?work, ?clock⟩⟩
  case pairs =>
    intro s who i m t h
    refine ⟨fun x hx => runPair_first_stops h hx, fun hx => ?_⟩
    intro start u hu
    refine ⟨fun x hs => ?_, fun hs => ?_⟩ <;> rw [runPair_second h hx hu, hs]
  case element =>
    intro s u die region slot rest im i h hi hd hx
    exact step_one_turn h ((runTurn_element (s := { s with agenda := rest }) hi hd).trans hx)
  case event =>
    intro s u i x rest h hx
    exact step_one_turn h hx
  case inOrder =>
    intro s u v a b rest h ha hra hrb
    refine step_turns h ?_ (runTurns_pair hra hrb)
    cases hb : b.ofDusk <;> simp [ha, hb]
  case duskLast =>
    intro s u v a b rest h ha hb hrb hra
    exact step_turns h (by simp [ha, hb]) (runTurns_pair hrb hra)
  case idle =>
    intro s h
    unfold step runStep
    rw [h]
  case strands =>
    intro w
    obtain ⟨p, hp⟩ := reexamined_eq s.commit w (s.strand w)
    rw [strand_commit, hp]
    exact ⟨rfl, rfl⟩
  case mem => exact handedIn_keeps State.mem (fun _ _ _ _ => rfl) (fun _ _ => rfl) s
  case net => exact handedIn_keeps State.net (fun _ _ _ _ => rfl) (fun _ _ => rfl) s
  case work => exact handedIn_keeps State.work (fun _ _ _ _ => rfl) (fun _ _ => rfl) s
  case clock => exact fun b => congrArg (· + 1) (handedIn_keeps State.clock (fun _ _ _ _ => rfl) (fun _ _ => rfl) s)

end Sys2Proof.Machine
end

section
/-! ## Words that are held, and words under a false guard -/

namespace Sys2Proof.Machine

/-- Every strand word executes as the issue of some body (R21, R37, R57); the other constructors have no word. -/
theorem exec_eq_issue (i : Instr) (s : State) (h : i.strandWord.isSome = true) : ∃ body, exec i s = issue i body s := by
  cases i <;> simp only [Instr.strandWord, Option.isSome_none, Option.isSome_some, Bool.false_eq_true] at h <;> exact ⟨_, rfl⟩

/-- A single word that has passed the checks of R57 stands before its holds: its strand may issue and it is in no pair. -/
structure Accepted (i : Instr) (s : State) : Prop where
  able : s.canIssue s.cur.strand = true
  pair : s.cur.pair = none
  mate : s.cur.mate = none
  checks : wordTrap s.cur.strand.core s.myTask (s.load s.myTask.load).priv i false none (s.guardTrue (fieldsOf i)) = none

/-- The checks, holds and body of an accepted word, up to its retirement. -/
theorem Accepted.issue_eq {i : Instr} {s : State} (h : Accepted i s) (body : M Flow) :
    issue i body s = match (do let flow ← runWord i body; pushCheck; return flow : M Flow) s.unyielded with
      | .error x => .next ((s.applyStop s.cur.strand x).clearCycle)
      | .ok (flow, t) =>
        if t.canIssue s.cur.strand = false then .next t.clearCycle
        else .next ((t.retire [s.me.pc] s.me.pc ((fieldsOf i).yld || t.me.yielded) flow).clearCycle) := by
  unfold issue
  simp only [h.able, h.pair, h.mate, h.checks, Option.isSome_none, Bool.true_eq_false, Bool.false_eq_true, if_false, or_self, StateT.run]
  rfl

/-- A word that stops before it retires leaves its state with the stop applied (R21, R32). -/
theorem Accepted.issue_stops {i : Instr} {s : State} (h : Accepted i s) {body : M Flow} {x : Stop}
    (hr : runWord i body s.unyielded = .error x) : issue i body s = .next ((s.applyStop s.cur.strand x).clearCycle) := by
  rw [h.issue_eq]
  simp only [run_bind, hr]

/-- A word that runs and whose pushes find room retires (R16, R91). -/
theorem Accepted.issue_retires {i : Instr} {s u : State} (h : Accepted i s) {body : M Flow} {flow : Flow}
    (hr : runWord i body s.unyielded = .ok (flow, u)) (hc : u.cur.strand = s.cur.strand) (hs : (u.strand s.cur.strand).status = s.me.status)
    (ho : u.overflow s.cur.strand.task (u.cur.pushes ++ u.me.fences.flatMap FenceWait.pushes) = none) :
    issue i body s = .next ((u.retire [s.me.pc] s.me.pc ((fieldsOf i).yld || u.me.yielded) flow).clearCycle) := by
  have hcheck : pushCheck u = .ok (.unit, u) := by
    unfold pushCheck
    simp only [run_bind, run_get, hc, ho, run_pure]
  have hable : u.canIssue s.cur.strand = true := by
    have := h.able
    unfold State.canIssue at this ⊢
    rw [hs]
    exact this
  rw [h.issue_eq]
  simp only [run_bind, hr, hcheck, run_pure, hable, Bool.true_eq_false, if_false]

/-! ### Holds -/

theorem guardTrue_unyielded (s : State) (w : Fields) : s.unyielded.guardTrue w = s.guardTrue w := by
  unfold State.guardTrue
  rw [me_unyielded]
  rfl

theorem refusedPst_unyielded (s : State) : s.unyielded.me.refusedPst = s.me.refusedPst := by
  rw [me_unyielded]
  rfl

/-- A hold that does not depend on the guard (R16, R20, R215, R278, R291, R297). -/
theorem runWord_commonHold {i : Instr} {s : State} {x : Hold} (body : M Flow)
    (h : s.commonHold s.cur.strand i (formOf s.cur.strand.core i) (fieldsOf i) = some x) :
    runWord i body s.unyielded = .error (.hold x) := by
  have hc : s.unyielded.cur = s.cur := rfl
  unfold runWord
  simp only [run_bind, run_get, hc, commonHold_unyielded, h, run_holdOn]

/-- The second step of a word, after its POP: read combining ends where it takes a token or starts a section with needs (R273). -/
theorem run_endCombining (i : Instr) (s : State) :
    (if (s.unyielded.me.needs.isEmpty && (tokenField (fieldsOf i).pop).2 == 0) = true then (pure () : M Unit)
      else modStrand (fun st => st.endCombining none)) (s.unyielded.popped i) = .ok (.unit, s.begun i) := by
  unfold State.begun
  dsimp only
  split
  · rfl
  · rw [run_modStrand, (Reads.popped s i).cur]

theorem run_takeTokens_unyielded (i : Instr) (s : State) :
    takeTokens s.cur.strand.core (formOf s.cur.strand.core i) (fieldsOf i) s.unyielded = .ok (.unit, s.unyielded.popped i) :=
  run_takeTokens i s.unyielded

/-- A word whose operands or queues hold it (R13, R21). -/
theorem runWord_operandHold {i : Instr} {s : State} {x : Hold} (body : M Flow)
    (hh : s.commonHold s.cur.strand i (formOf s.cur.strand.core i) (fieldsOf i) = none) (hp : s.me.refusedPst = none)
    (hg : s.guardTrue (fieldsOf i) = true)
    (h : firstHold [s.pendingHold s.cur.strand (formOf s.cur.strand.core i) (fieldsOf i),
      s.queueHold s.cur.strand i (formOf s.cur.strand.core i) (fieldsOf i)] = some x) :
    runWord i body s.unyielded = .error (.hold x) := by
  have hc : s.unyielded.cur = s.cur := rfl
  unfold runWord
  simp only [run_bind, run_get, hc, commonHold_unyielded, hh, refusedPst_unyielded, hp, guardTrue_unyielded, pendingHold_unyielded,
    queueHold_unyielded, run_takeTokens_unyielded, run_endCombining, hg, if_true, h, run_holdOn]

/-- What a held word leaves (R21): its strand Held at the word with the cause and one more held cycle; the rest as it was. -/
def HeldBy (i : Instr) (s : State) (h : Hold) : Prop :=
  ∃ t, exec i s = .next t ∧ (t.strandOf s).status = .held ∧ (t.strandOf s).heldBy = some h ∧ (t.strandOf s).pc = s.me.pc ∧
    (t.strandOf s).heldCount = s.me.heldCount + 1 ∧ (t.strandOf s).regs = s.me.regs ∧ (t.strandOf s).preds = s.me.preds ∧
    t.task s.cur.strand.task = s.myTask ∧ t.mem = s.mem ∧ t.net = s.net ∧ t.tiles = s.tiles ∧ t.work = s.work

/-- An accepted word whose run ends in a hold is held. -/
theorem Accepted.heldBy {i : Instr} {s : State} (h : Accepted i s) (hi : i.strandWord.isSome = true) {x : Hold}
    (hr : ∀ body, runWord i body s.unyielded = .error (.hold x)) : HeldBy i s x := by
  obtain ⟨body, hb⟩ := exec_eq_issue i s hi
  have hstrand : ((s.holdStrand s.cur.strand x).clearCycle).strandOf s = (s.holdStrand s.cur.strand x).strand s.cur.strand := rfl
  refine ⟨_, hb.trans (h.issue_stops (hr body)), ?_⟩
  unfold State.applyStop
  dsimp only
  rw [hstrand]
  unfold State.holdStrand
  rw [strand_updStrand_same]
  exact ⟨rfl, rfl, rfl, rfl, rfl, rfl, rfl, rfl, rfl, rfl, rfl⟩

/-! ### What each cause gives -/

theorem commonHold_needs {s : State} {who : StrandId} {i : Instr} {f : Form} {w : Fields} {n : Engine × Nat}
    (h : (s.strand who).needs.find? (fun n => !s.needMet who n) = some n) : s.commonHold who i f w = some (.needs n.1) := by
  unfold State.commonHold
  simp only [h]

/-- Needs that are met hold nothing (R20). -/
theorem find?_needs_none {s : State} {who : StrandId} {needs : List (Engine × Nat)} (h : needs.all (fun n => s.needMet who n) = true) :
    needs.find? (fun n => !s.needMet who n) = none := by
  simpa [List.find?_eq_none] using h

/-- A POP that finds too few tokens holds a word that no need, PST or fence holds (R16). -/
theorem commonHold_token {s : State} {who : StrandId} {i : Instr} {f : Form} {w : Fields}
    (hn : (s.strand who).needs.all (fun n => s.needMet who n) = true) (hp : (s.strand who).pst = none) (hf : (s.strand who).fences = [])
    (hc : f.cmd = none) (h0 : (tokenField w.pop).2 ≠ 0)
    (hlt : (s.task who.task).token (tokenIndex (tokenField w.pop).1 who.core.engine) < (tokenField w.pop).2) :
    s.commonHold who i f w = some (.token (tokenIndex (tokenField w.pop).1 who.core.engine)) := by
  have hfence : fenceHolds (s.strand who) s.wordAddr i f w = false := by simp [fenceHolds, hf]
  unfold State.commonHold
  simp [find?_needs_none hn, hp, hfence, hc, h0, hlt]

/-- A memory word behind one outstanding FENCE waits for it (R297). -/
theorem fenceHolds_memory {st : Strand} {x : FenceWait} {i : Instr} {a : Word64} {f : Form} {w : Fields} (hx : st.fences = [x])
    (hl : x.lfence = false) (ho : x.own ≠ some st.pc) (hm : opMemory (opOf i).toNat = true) : fenceHolds st a i f w = true := by
  unfold fenceHolds behindFence
  simp [hx, hl, ho, hm]

/-- A fence holds a word that no need and no PST holds (R278, R297). -/
theorem commonHold_fence {s : State} {who : StrandId} {i : Instr} {f : Form} {w : Fields}
    (hn : (s.strand who).needs.all (fun n => s.needMet who n) = true) (hp : (s.strand who).pst = none)
    (hf : fenceHolds (s.strand who) s.wordAddr i f w = true) : s.commonHold who i f w = some .fence := by
  unfold State.commonHold
  simp [find?_needs_none hn, hp, hf]

theorem pendingHold_scalar {s : State} {who : StrandId} {f : Form} {w : Fields} {r : Nat}
    (h : (scalarsOf (f.reads w ++ f.writes w)).find? (fun r => s.pendingScalar who r) = some r) : s.pendingHold who f w = some (.reg r) := by
  unfold State.pendingHold
  simp only [h]

/-- A pop from an empty queue holds at the first queue that the word names (R13). -/
theorem queueHold_empty {s : State} {who : StrandId} {i : Instr} {f : Form} {w : Fields} {q : QueueName}
    (hq : (queuesPopped i f w).head? = some q) (he : (s.task who.task).queueLen q = 0) : s.queueHold who i f w = some (.queueEmpty q) := by
  obtain ⟨rest, hrest⟩ := List.head?_eq_some_iff.mp hq
  have hfind : (queuesPopped i f w).find? (fun p => decide (s.poppable who.task p <
      ((queuesPopped i f w).filter (fun x => x == p)).length)) = some q := by
    rw [hrest]
    refine List.find?_cons_of_pos ?_
    simp [State.poppable, he]
  unfold State.queueHold
  simp only [hfind]

/-! ### A false guard -/

/-- The command that a word under a false guard enters: one that does nothing but its POP and PUSH (R38). -/
def State.nullCommand (s : State) (i : Instr) (e : Engine) : Command :=
  { seq := (s.myTask.engineState e).nextSeq, instr := i, addr := s.me.pc, null := true, waitSince := s.clock }

/-- A word whose guard is false takes its POP, enters a null command when it is one, and gives its PUSH (R37, R38, R16). -/
def State.passedOver (s : State) (i : Instr) : State :=
  match (formOf s.cur.strand.core i).cmd with
  | some e => (s.begun i).updTask s.cur.strand.task (fun t => t.setEngineState e
      { t.engineState e with queue := (t.engineState e).queue ++ [s.nullCommand i e], nextSeq := (t.engineState e).nextSeq + 1 })
  | none => (s.begun i).updCur (fun c => { c with pushes := c.pushes ++ ownPushes s.cur.strand.core (fieldsOf i) })

theorem me_begun (s : State) (i : Instr) : ∃ x, (s.begun i).strand s.cur.strand = { s.me with yielded := false, sources := x } := by
  obtain ⟨x, hx⟩ := (Reads.begun s i).me
  refine ⟨x, ?_⟩
  rw [← hx, State.me, (Reads.begun s i).cur]

theorem task_begun (s : State) (i : Instr) : ∃ m, (s.begun i).task s.cur.strand.task = { s.myTask with tokens := m } := by
  obtain ⟨m, hm⟩ := (Reads.begun s i).task
  exact ⟨m, by rw [State.myTask, (Reads.begun s i).cur] at hm; exact hm⟩

theorem engineState_begun (s : State) (i : Instr) (e : Engine) :
    ((s.begun i).task s.cur.strand.task).engineState e = s.myTask.engineState e := by
  obtain ⟨m, hm⟩ := task_begun s i
  rw [hm]
  cases e <;> rfl

theorem runWord_falseGuard {i : Instr} {s : State} (body : M Flow) (hpair : s.cur.pair = none)
    (hh : s.commonHold s.cur.strand i (formOf s.cur.strand.core i) (fieldsOf i) = none) (hp : s.me.refusedPst = none)
    (hg : s.guardTrue (fieldsOf i) = false) : runWord i body s.unyielded = .ok (.fall, s.passedOver i) := by
  have hc : s.unyielded.cur = s.cur := rfl
  have hcur := (Reads.begun s i).cur
  have haddr : (s.begun i).wordAddr = s.me.pc := by
    obtain ⟨x, hx⟩ := (Reads.begun s i).me
    unfold State.wordAddr
    rw [hcur, hpair, hx]
    rfl
  unfold runWord State.passedOver
  simp only [run_bind, run_get, hc, commonHold_unyielded, hh, refusedPst_unyielded, hp, guardTrue_unyielded, run_takeTokens_unyielded,
    run_endCombining, hg, Bool.false_eq_true, if_false]
  cases hf : (formOf s.cur.strand.core i).cmd with
  | none => simp [run_putTokens, hf]
  | some e => simp [enqueue, run_putTokens, hf, hcur, haddr, (Reads.begun s i).clock, State.updTask, engineState_begun, State.nullCommand]

theorem popsAtIssue_le_token {i : Instr} {s : State} (hh : s.commonHold s.cur.strand i (formOf s.cur.strand.core i) (fieldsOf i) = none)
    (k : Nat) : pushSum (popsAtIssue s.cur.strand.core i) k ≤ s.myTask.token k := by
  unfold popsAtIssue ownPops
  cases hf : (formOf s.cur.strand.core i).cmd with
  | some e => simp [pushSum]
  | none =>
    have hpop : (tokenField (fieldsOf i).pop).2 = 0 ∨ (tokenField (fieldsOf i).pop).2 ≤
        s.myTask.token (tokenIndex (tokenField (fieldsOf i).pop).1 s.cur.strand.core.engine) := by
      by_contra hn
      have hn : (tokenField (fieldsOf i).pop).2 ≠ 0 ∧ (s.task s.cur.strand.task).token
          (tokenIndex (tokenField (fieldsOf i).pop).1 s.cur.strand.core.engine) < (tokenField (fieldsOf i).pop).2 := by
        simpa [State.myTask] using hn
      unfold State.commonHold at hh
      simp only [hf, if_pos hn] at hh
      split at hh
      · cases hh
      · split_ifs at hh
    rcases hpop with h0 | hle
    · simp [h0, pushSum]
    · by_cases h0 : (tokenField (fieldsOf i).pop).2 = 0
      · simp [h0, pushSum]
      · simp only [Option.isSome_none, Bool.false_eq_true, if_false, h0, pushSum, List.map_cons, List.map_nil, List.sum_cons, List.sum_nil]
        split
        · next hk => subst hk; simpa using hle
        · exact Nat.zero_le _

/-- A word that has taken its POP leaves what its strand's cycle checks as it was. -/
theorem within_begun {i : Instr} {s : State} (hh : s.commonHold s.cur.strand i (formOf s.cur.strand.core i) (fieldsOf i) = none) :
    Within s (s.begun i) := (Reads.begun s i).within (popsAtIssue_le_token hh)

theorem Does.updCur {e : Effect} {s u : State} (h : Does e s u) (g : Cursor → Cursor) : Does e s (u.updCur g) := { h with }

/-- A word under a false guard that is no command completes with its POP and PUSH alone (R37, R38). -/
theorem Accepted.falseGuard_completes {i : Instr} {s : State} (h : Accepted i s) (hi : i.strandWord.isSome = true)
    (hempty : s.cur.pushes = [] ∧ s.cur.evSets = [] ∧ s.cur.evAdds = [])
    (hh : s.commonHold s.cur.strand i (formOf s.cur.strand.core i) (fieldsOf i) = none) (hp : s.me.refusedPst = none)
    (hg : s.guardTrue (fieldsOf i) = false) (hcmd : (formOf s.cur.strand.core i).cmd = none)
    (ho : s.overflow s.cur.strand.task (ownPushes s.cur.strand.core (fieldsOf i) ++ s.me.fences.flatMap FenceWait.pushes) = none) :
    Completes i s { takes := ownPops s.cur.strand.core (fieldsOf i), gives := ownPushes s.cur.strand.core (fieldsOf i) } := by
  obtain ⟨body, hb⟩ := exec_eq_issue i s hi
  obtain ⟨hpush, hsets, hadds⟩ := hempty
  have hw := within_begun hh
  have hu : s.passedOver i = (s.begun i).updCur (fun c => { c with pushes := c.pushes ++ ownPushes s.cur.strand.core (fieldsOf i) }) := by
    unfold State.passedOver
    rw [hcmd]
  have hcur : (s.passedOver i).cur = { s.cur with pushes := ownPushes s.cur.strand.core (fieldsOf i) } := by
    rw [hu, cur_updCur, hw.cur, hpush, List.nil_append]
  have hstrand : (s.passedOver i).strand s.cur.strand = (s.begun i).me := by
    rw [hu, strand_updCur, State.me, hw.cur]
  have hme : (s.passedOver i).me = (s.begun i).me := by
    rw [← hstrand, State.me, hcur]
  have hroom : (s.passedOver i).overflow s.cur.strand.task ((s.passedOver i).cur.pushes ++ (s.passedOver i).me.fences.flatMap FenceWait.pushes) = none := by
    rw [overflow_congr (s := s) (by rw [hu]; exact hw.given) (fun k => by rw [hu]; exact hw.taken k), hcur, hme, hw.fences]
    exact ho
  refine ⟨_, hb.trans (h.issue_retires (runWord_falseGuard body h.pair hh hp hg) (by rw [hcur]) (by rw [hstrand, hw.status]) hroom), ?_⟩
  have hd : Does { takes := ownPops s.cur.strand.core (fieldsOf i) } s (s.passedOver i) := by
    have := (Reads.begun s i).does
    rw [hu]
    simpa [popsAtIssue, hcmd] using this.updCur _
  simpa [hcur, hsets, hadds] using hd.retired (ws := [s.me.pc]) (a := s.me.pc) (y := (fieldsOf i).yld || (s.passedOver i).me.yielded)
    (flow := .fall) (by rw [hcur])

theorem Task.Keeps.engineQueue {x y : Task} (h : x.Keeps y) (e : Engine) : (y.engineState e).queue = (x.engineState e).queue := by
  cases e with
  | serac => exact h.serac
  | dawn | dusk | moraine => exact h.moraine

@[simp] theorem engineState_setEngineState (t : Task) (e : Engine) (x : EngineState) : (t.setEngineState e x).engineState e = x := by
  cases e <;> rfl

@[simp] theorem tokens_setEngineState (t : Task) (e : Engine) (x : EngineState) : (t.setEngineState e x).tokens = t.tokens := by
  cases e <;> rfl

/-- A command under a false guard enters its engine's queue as one that does nothing but its POP and PUSH (R38). -/
theorem Accepted.falseGuard_enqueues {i : Instr} {s : State} (h : Accepted i s) (hi : i.strandWord.isSome = true)
    (hpush : s.cur.pushes = [])
    (hh : s.commonHold s.cur.strand i (formOf s.cur.strand.core i) (fieldsOf i) = none) (hp : s.me.refusedPst = none)
    (hg : s.guardTrue (fieldsOf i) = false) {e : Engine} (hcmd : (formOf s.cur.strand.core i).cmd = some e)
    (ho : s.overflow s.cur.strand.task (s.me.fences.flatMap FenceWait.pushes) = none) :
    ∃ t, exec i s = .next t ∧ ∃ x, ((t.task s.cur.strand.task).engineState e).queue = (s.myTask.engineState e).queue ++ [x] ∧
      x.instr = i ∧ x.null = true ∧ x.addr = s.me.pc ∧ x.seq = (s.myTask.engineState e).nextSeq ∧
      (t.strandOf s).regs = s.me.regs ∧ t.mem = s.mem := by
  obtain ⟨body, hb⟩ := exec_eq_issue i s hi
  have hw := within_begun hh
  have hr := Reads.begun s i
  obtain ⟨y, hy⟩ := me_begun s i
  have hcur : (s.passedOver i).cur = s.cur := by
    unfold State.passedOver
    rw [hcmd]
    exact hw.cur
  have hstrand : (s.passedOver i).strand s.cur.strand = { s.me with yielded := false, sources := y } := by
    unfold State.passedOver
    rw [hcmd]
    exact hy
  have hregs : ((s.passedOver i).strand s.cur.strand).regs = s.me.regs := by rw [hstrand]
  have htokens : ((s.passedOver i).task s.cur.strand.task).tokens = ((s.begun i).task s.cur.strand.task).tokens := by
    unfold State.passedOver
    rw [hcmd]
    simp
  have hqueue : (((s.passedOver i).task s.cur.strand.task).engineState e).queue = (s.myTask.engineState e).queue ++ [s.nullCommand i e] := by
    unfold State.passedOver
    rw [hcmd]
    simp [engineState_begun]
  have hwork : (s.passedOver i).work = (s.begun i).work := by
    unfold State.passedOver
    rw [hcmd]
    rfl
  have hmem : (s.passedOver i).mem = s.mem := by
    unfold State.passedOver
    rw [hcmd]
    exact hr.mem
  have hroom : (s.passedOver i).overflow s.cur.strand.task ((s.passedOver i).cur.pushes ++ (s.passedOver i).me.fences.flatMap FenceWait.pushes) = none := by
    have hme : (s.passedOver i).me.fences = s.me.fences := by rw [State.me, hcur, hstrand]
    rw [overflow_congr (s := s) ((congrArg CycleWork.pushes hwork).trans hw.given) (fun k => ?_), hcur, hpush, hme]
    · exact ho
    · rw [← hw.taken k]
      unfold State.startToken Task.token
      rw [htokens, hwork]
  refine ⟨_, hb.trans (h.issue_retires (runWord_falseGuard body h.pair hh hp hg) (by rw [hcur]) (by rw [hstrand]) hroom),
    s.nullCommand i e, ?_, rfl, rfl, rfl, rfl, ?_, ?_⟩
  all_goals
    have hon := onward_retire (s.passedOver i) [s.me.pc] s.me.pc ((fieldsOf i).yld || (s.passedOver i).me.yielded) .fall
    rw [hcur] at hon
  · exact (hon.task.engineQueue e).trans hqueue
  · exact hon.me.regs.trans hregs
  · exact hon.mem.trans hmem

/-- Settles O35: what each cause of R21 gives commonHold, pendingHold or queueHold, and the run of a word that its guard passes over. -/
theorem heldWordsAndFalseGuards : Obligations.HeldWordsAndFalseGuards := by
  unfold Obligations.HeldWordsAndFalseGuards
  refine ⟨?held, ?guard⟩
  case held =>
    intro i s hi hable hpair hmate hchecks c w f held first
    have h : Accepted i s := ⟨hable, hpair, hmate, hchecks⟩
    have ofCommon {x : Hold} (hx : s.commonHold s.cur.strand i f w = some x) : held x :=
      h.heldBy hi (fun body => runWord_commonHold body hx)
    have ofOperands {x : Hold} (hf : first) (hx : firstHold [s.pendingHold s.cur.strand f w, s.queueHold s.cur.strand i f w] = some x) : held x := by
      obtain ⟨hcommon, hpst, hguard⟩ := hf
      exact h.heldBy hi (fun body => runWord_operandHold body hcommon hpst hguard hx)
    refine ⟨fun n hn => ofCommon (commonHold_needs hn), fun hn hf hp hcmd h0 hlt => ofCommon (commonHold_token hn hp hf hcmd h0 hlt),
      fun x hn hp hf hl ho hm => ofCommon (commonHold_fence hn hp (fenceHolds_memory hf hl ho hm)),
      fun hf r hr => ofOperands hf ?_, fun hf hnone q hq he => ofOperands hf ?_⟩
    · rw [pendingHold_scalar hr]
      rfl
    · rw [hnone, queueHold_empty hq he]
      rfl
  case guard =>
    intro i s hi hable hpair hmate hpush hsets hadds hchecks c w f hcommon hpst hguard
    have h : Accepted i s := ⟨hable, hpair, hmate, by rw [hguard]; exact hchecks⟩
    exact ⟨fun hcmd ho => h.falseGuard_completes hi ⟨hpush, hsets, hadds⟩ hcommon hpst hguard hcmd ho,
      fun e hcmd ho => h.falseGuard_enqueues hi hpush hcommon hpst hguard hcmd ho⟩

end Sys2Proof.Machine
end

section
/-! ## Engine commands that complete -/

namespace Sys2Proof.Machine

/-! ### A task and an engine's share of it -/

/-- The task with a command of an engine gone from its queue, and the marks that waited for it taken (R19). -/
def Task.without (t : Task) (e : Engine) (seq : Nat) : Task :=
  t.setEngineState e (EngineState.settle { t.engineState e with queue := (t.engineState e).queue.filter (fun d => d.seq ≠ seq) })

theorem queue_without (t : Task) (e : Engine) (seq : Nat) :
    ((t.without e seq).engineState e).queue = (t.engineState e).queue.filter (fun d => d.seq ≠ seq) := by
  rw [Task.without, engineState_setEngineState, EngineState.settle, settleMarks_queue]

@[simp] theorem tokens_without (t : Task) (e : Engine) (n : Nat) : (t.without e n).tokens = t.tokens := by cases e <;> rfl
@[simp] theorem evBase_without (t : Task) (e : Engine) (n : Nat) : (t.without e n).evBase = t.evBase := by cases e <;> rfl
@[simp] theorem acc_without (t : Task) (e : Engine) (n : Nat) : (t.without e n).acc = t.acc := by cases e <;> rfl
@[simp] theorem accTile_without (t : Task) (e : Engine) (n m : Nat) : (t.without e n).accTile m = t.accTile m := by cases e <;> rfl
@[simp] theorem v_without (t : Task) (e : Engine) (n : Nat) : (t.without e n).v = t.v := by cases e <;> rfl
@[simp] theorem slots_without (t : Task) (e : Engine) (n : Nat) : (t.without e n).slots = t.slots := by cases e <;> rfl
@[simp] theorem mode_without (t : Task) (e : Engine) (n : Nat) : (t.without e n).mode = t.mode := by cases e <;> rfl
@[simp] theorem oscale_without (t : Task) (e : Engine) (n : Nat) : (t.without e n).oscale = t.oscale := by cases e <;> rfl
@[simp] theorem strides_without (t : Task) (e : Engine) (n : Nat) : (t.without e n).strides = t.strides := by cases e <;> rfl

/-! ### What completion does -/

/-- The event increment of a command's completion field (R183, R305). -/
def completionAdds (t : Task) (i : TaskId) (c : Command) : List (TileId × Nat × Word32) :=
  if c.null = false ∧ c.word.e.getLsbD 6 = true then [(i.tileId, t.evBase + fld c.word.e 5 0, 1)] else []

/-- The state with what its cycle leaves to its end replaced. -/
def State.withWork (s : State) (w : CycleWork) : State := { s with work := w }

theorem task_withWork (s : State) (w : CycleWork) (i : TaskId) : (s.withWork w).task i = s.task i := rfl

theorem countFor_eq (s : State) (i : TaskId) (c : Command) :
    s.countFor i c = s.withWork { s.work with adds := s.work.adds ++ completionAdds (s.task i) i c } := by
  unfold State.countFor completionAdds State.withWork
  cases c.null <;> cases c.word.e.getLsbD 6 <;> simp [State.addEvent]

theorem pushFor_eq {s : State} {e : Engine} {i : TaskId} {c : Command} (h : s.PushFits e i c) :
    s.pushFor i e c = s.pushTokens i (commandPushes e c) := by
  unfold State.PushFits at h
  unfold State.pushFor
  unfold commandPushes at h ⊢
  by_cases h0 : (tokenField c.word.push).2 = 0
  · simp [h0, State.pushTokens]
  · simp only [h0, if_false] at h ⊢
    rw [if_pos h]

/-- What the completion of a command leaves to the end of its cycle. -/
def completionWork (s : State) (i : TaskId) (e : Engine) (c : Command) : CycleWork :=
  { s.work with adds := s.work.adds ++ completionAdds (s.task i) i c
                pushes := s.work.pushes ++ (commandPushes e c).map (fun p => (i, p.1, p.2)) }

/-- A command whose PUSH finds room completes (R8, R16, R19, R24): it leaves its slot, and its increment and its PUSH wait for the
end of the cycle. -/
theorem finishCommand_eq {s : State} {e : Engine} {i : TaskId} {c : Command} (h : s.PushFits e i c) :
    s.finishCommand i e c = (s.updTask i (fun t => t.without e c.seq)).withWork (completionWork s i e c) := by
  set u : State := s.updTask i (fun t => t.without e c.seq) with hu
  have htask : u.task i = (s.task i).without e c.seq := task_updTask_same _ _ _
  have hwork : u.work = s.work := rfl
  have hadds : completionAdds (u.task i) i c = completionAdds (s.task i) i c := by
    rw [htask, completionAdds, evBase_without]
    rfl
  have hroom : (u.countFor i c).PushFits e i c := by
    rw [countFor_eq]
    refine (overflow_congr (s := s) ?_ (fun k => ?_) _).trans h
    · rfl
    · rw [State.startToken, task_withWork, htask, Task.token, tokens_without]
      rfl
  have hfinish : s.finishCommand i e c = (u.countFor i c).pushFor i e c := rfl
  rw [hfinish, pushFor_eq hroom, countFor_eq, hadds, hwork]
  rfl

/-- Between two states nothing has changed that the completion of a task's command speaks of, but for what the command itself
works on. -/
structure Aside (i : TaskId) (s u : State) : Prop where
  tokens : (u.task i).tokens = (s.task i).tokens
  evBase : (u.task i).evBase = (s.task i).evBase
  queue : ∀ e, ((u.task i).engineState e).queue = ((s.task i).engineState e).queue
  tiles : u.tiles = s.tiles
  work : u.work = s.work
  strands : u.strands = s.strands
  tasks : ∀ j, j ≠ i → u.task j = s.task j
  net : u.net = s.net

theorem Aside.refl (i : TaskId) (s : State) : Aside i s s := ⟨rfl, rfl, fun _ => rfl, rfl, rfl, rfl, fun _ _ => rfl, rfl⟩

theorem Aside.trans {i : TaskId} {s u v : State} (a : Aside i s u) (b : Aside i u v) : Aside i s v :=
  ⟨b.tokens.trans a.tokens, b.evBase.trans a.evBase, fun e => (b.queue e).trans (a.queue e), b.tiles.trans a.tiles, b.work.trans a.work,
    b.strands.trans a.strands, fun j hj => (b.tasks j hj).trans (a.tasks j hj), b.net.trans a.net⟩

theorem aside_updTask (i : TaskId) (s : State) (f : Task → Task) (ht : (f (s.task i)).tokens = (s.task i).tokens)
    (he : (f (s.task i)).evBase = (s.task i).evBase) (hq : ∀ e, ((f (s.task i)).engineState e).queue = ((s.task i).engineState e).queue) :
    Aside i s (s.updTask i f) :=
  ⟨by rw [task_updTask_same, ht], by rw [task_updTask_same, he], fun e => by rw [task_updTask_same, hq], rfl, rfl, rfl,
    fun j hj => task_updTask_ne _ _ hj, rfl⟩

theorem Aside.pushFits {i : TaskId} {s u : State} (h : Aside i s u) {e : Engine} {c d : Command} (hi : d.instr = c.instr)
    (hp : s.PushFits e i c) : u.PushFits e i d := by
  have hd : commandPushes e d = commandPushes e c := by
    unfold commandPushes Command.word
    rw [hi]
  unfold State.PushFits
  rw [hd, overflow_congr (s := s) (by rw [h.work]) (fun k => ?_)]
  · exact hp
  · unfold State.startToken Task.token
    rw [h.tokens, h.work]

/-- A command is the same to those who watch it complete: its number, its word, and whether it is null. -/
structure Command.SameAs (d c : Command) : Prop where
  seq : d.seq = c.seq
  instr : d.instr = c.instr
  null : d.null = c.null

theorem Command.SameAs.refl (c : Command) : c.SameAs c := ⟨rfl, rfl, rfl⟩

theorem Aside.completionWork_eq {i : TaskId} {s u : State} (h : Aside i s u) {e : Engine} {c d : Command} (hd : d.SameAs c) :
    completionWork u i e d = completionWork s i e c := by
  unfold completionWork completionAdds commandPushes Command.word
  rw [h.evBase, h.work, hd.null, hd.instr]

/-- What completion makes of a state that the command's work has left. -/
theorem Aside.finish_eq {i : TaskId} {s u : State} (h : Aside i s u) {e : Engine} {c d : Command} (hd : d.SameAs c) (hp : s.PushFits e i c) :
    u.finishCommand i e d = (u.updTask i (fun t => t.without e c.seq)).withWork (completionWork s i e c) := by
  rw [finishCommand_eq (h.pushFits hd.instr hp), h.completionWork_eq hd, hd.seq]

/-- A command that completes after work that has left the rest aside is finished, and what its work has made stands. -/
theorem Aside.finished {i : TaskId} {s u : State} (h : Aside i s u) {e : Engine} {c d : Command} (hd : d.SameAs c) (hp : s.PushFits e i c) :
    Finished e i c s (u.finishCommand i e d) ∧ (u.finishCommand i e d).mem = u.mem ∧
      (u.finishCommand i e d).task i = (u.task i).without e c.seq := by
  rw [h.finish_eq hd hp]
  set v : State := u.updTask i (fun t => t.without e c.seq) with hv
  have ht : (v.withWork (completionWork s i e c)).task i = (u.task i).without e c.seq := by
    rw [task_withWork, hv, task_updTask_same]
  refine ⟨?_, rfl, ht⟩
  exact
    { queue := by rw [ht, queue_without, h.queue]
      counters := fun n => by
        have htiles : (v.withWork (completionWork s i e c)).tiles = s.tiles := h.tiles
        rw [State.counter, State.tile, htiles]
        rfl
      tokens := fun k => by
        rw [ht, Task.token, tokens_without, h.tokens]
        rfl
      work := rfl
      strands := fun j => by
        have hj : (v.withWork (completionWork s i e c)).strands = s.strands := h.strands
        rw [State.strand, hj]
        exact ⟨rfl, rfl, rfl⟩
      tasks := fun j hj => by rw [task_withWork, hv, task_updTask_ne _ _ hj, h.tasks j hj]
      net := h.net }

end Sys2Proof.Machine
end

section
/-! ## Serac commands that complete at once -/

namespace Sys2Proof.Machine

/-! ### The event and its shapes -/

/-- SERAC_COMMAND_COMPLETE of a started command at the head of its queue gives it its progress. -/
theorem exec_seracCommandComplete {s : State} {c : Command} (hq : (s.task s.event.who.task).serac.queue.head? = some c)
    (hs : c.started = true) (hp : s.atStop s.event.who.task c = false) (hl : (s.task s.event.who.task).live = true) :
    exec .seracCommandComplete s = .next (s.progressSerac s.event.who.task c
      (if s.stopRequested s.event.who.task && (isSmm c || isSchain c) then 1 else s.event.len)) := by
  show Host.Outcome.next (eventSeracComplete s) = _
  unfold eventSeracComplete
  simp only [hq, hl, hs, hp, and_self, if_true]

/-- Whether a Serac word acts at once when it completes: it is no multiply and no butterfly (R185 to R189, R201, R202). -/
def actsAtOnce : Instr → Bool
  | .smm _ => false
  | .smmz _ => false
  | .sbfly _ => false
  | .schain _ => false
  | _ => true

theorem progressSerac_null {s : State} {i : TaskId} {c : Command} {n : Nat} (h : c.null = true) :
    s.progressSerac i c n = s.finishCommand i .serac c := by
  unfold State.progressSerac
  simp only [h, if_true]

theorem progressSerac_atOnce {s : State} {i : TaskId} {c : Command} {n : Nat} (hn : c.null = false) (h : actsAtOnce c.instr = true) :
    s.progressSerac i c n = (s.seracEffect i c).finishCommand i .serac c := by
  have hsmm : isSmm c = false := by
    unfold isSmm
    split <;> simp_all [actsAtOnce]
  unfold State.progressSerac
  simp only [hn, hsmm, Bool.false_eq_true, if_false]
  split <;> simp_all [actsAtOnce]

/-! ### Accumulator tiles -/

theorem accTile_setAcc (t : Task) (n m : Nat) (a : Acc) : ({ t with acc := t.acc.set n a } : Task).accTile m = if m = n then a else t.accTile m :=
  Map.get_set _ _ _ _ _

theorem aside_updAcc (i : TaskId) (s : State) (n : Nat) (f : Acc → Acc) : Aside i s (s.updAcc i n f) :=
  aside_updTask i s _ rfl rfl (fun e => by cases e <;> rfl)

theorem task_updAcc (i : TaskId) (s : State) (n : Nat) (f : Acc → Acc) :
    (s.updAcc i n f).task i = { s.task i with acc := (s.task i).acc.set n (f ((s.task i).accTile n)) } := task_updTask_same _ _ _

/-- A tile that a command reads undamaged stays as it was (R387). -/
theorem readBy_sound {a : Acc} {t : TileId} {c : Command} {lo hi : Nat} (h : ∀ b ∈ a.bad, b < lo ∨ hi ≤ b) : a.readBy t c lo hi = a := by
  have hbad : a.bad.any (fun b => decide (lo ≤ b) && decide (b < hi)) = false := by
    rw [List.any_eq_false]
    intro b hb
    have := h b hb
    simp only [Bool.and_eq_true, decide_eq_true_eq]
    omega
  unfold Acc.readBy
  rw [hbad]
  rfl

/-- The state in which a sound tile has been looked at: its accumulator map lists the tile as it stood. -/
def State.lookedAt (s : State) (i : TaskId) (n : Nat) : State := s.updAcc i n id

theorem accTile_lookedAt (s : State) (i : TaskId) (n m : Nat) : ((s.lookedAt i n).task i).accTile m = (s.task i).accTile m := by
  rw [State.lookedAt, task_updAcc, accTile_setAcc]
  split
  · next h => rw [h]; rfl
  · rfl

/-- SACCRD and SACCV of an undamaged tile without poison go on to what they do (R187, R188). -/
theorem readAcc_sound {s : State} {i : TaskId} {c : Command} {n lo hi : Nat} {f : State → Acc → State}
    (hb : ∀ b ∈ ((s.task i).accTile n).bad, b < lo ∨ hi ≤ b) (hp : ((s.task i).accTile n).poison = false) :
    s.readAcc i c n lo hi f = f (s.lookedAt i n) ((s.task i).accTile n) := by
  have hlook : s.updAcc i n (fun a => a.readBy i.tileId c lo hi) = s.lookedAt i n := by
    unfold State.lookedAt State.updAcc State.updTask
    dsimp only
    rw [readBy_sound hb]
    rfl
  unfold State.readAcc
  simp only [hlook, accTile_lookedAt, hp, Bool.false_eq_true, if_false]

/-! ### Registers set one after another -/

/-- Consecutive keys of a map set in order. -/
theorem get_foldl_set {α : Type} (f : Nat → α) (base n j : Nat) (m : Map Nat α) (d : α) :
    ((List.range n).foldl (fun m k => m.set (base + k) (f k)) m).get j d =
      if base ≤ j ∧ j < base + n then f (j - base) else m.get j d := by
  induction n with
  | zero =>
    have : ¬ (base ≤ j ∧ j < base + 0) := by omega
    rw [if_neg this]
    rfl
  | succ n ih =>
    rw [List.range_succ, List.foldl_append, List.foldl_cons, List.foldl_nil, Map.get_set, ih]
    by_cases hj : j = base + n
    · have : base ≤ j ∧ j < base + (n + 1) := by omega
      rw [if_pos hj, if_pos this, hj, Nat.add_sub_cancel_left]
    · rw [if_neg hj]
      have : (base ≤ j ∧ j < base + n) ↔ (base ≤ j ∧ j < base + (n + 1)) := by omega
      simp only [this]

/-- One task changed again and again. -/
theorem task_foldl_updTask {α : Type} (i : TaskId) (g : α → Task → Task) (l : List α) (s : State) :
    (l.foldl (fun x k => x.updTask i (g k)) s).task i = l.foldl (fun t k => g k t) (s.task i) := by
  induction l generalizing s with
  | nil => rfl
  | cons k ks ih => rw [List.foldl_cons, ih, task_updTask_same, List.foldl_cons]

theorem aside_foldl {α : Type} (i : TaskId) (f : State → α → State) (h : ∀ s k, Aside i s (f s k)) (l : List α) (s : State) :
    Aside i s (l.foldl f s) := by
  induction l generalizing s with
  | nil => exact .refl i s
  | cons k ks ih => exact (h s k).trans (ih _)

/-! ### Record elements -/

/-- A list of lists of one length, flattened. -/
theorem getD_flatMap_range {α : Type} (f : Nat → Nat → α) (m n x y : Nat) (d : α) (hx : x < m) (hy : y < n) :
    ((List.range m).flatMap (fun i => (List.range n).map (f i))).getD (n * x + y) d = f x y := by
  induction m generalizing x f with
  | zero => omega
  | succ m ih =>
    rw [List.range_succ_eq_map, List.flatMap_cons, List.flatMap_map]
    cases x with
    | zero =>
      rw [List.getD_append _ _ _ _ (by simpa using hy)]
      simp [List.getD_eq_getElem?_getD, hy]
    | succ x =>
      have hlen : ((List.range n).map (f 0)).length = n := by simp
      have hpos : n * (x + 1) + y = n + (n * x + y) := by ring
      rw [List.getD_append_right _ _ _ _ (by rw [hlen, hpos]; omega), hlen, hpos, Nat.add_sub_cancel_left]
      exact ih (fun i => f (i + 1)) x (by omega)

/-- Cell (x, y) of a tile is record element (row + x, col + y), or (row + y, col + x) under KAXIS = 1 (R186). -/
theorem tileCells_getD (r : LayoutRec) (row col x y : Nat) (hx : x < 128) (hy : y < 128) : (r.tileCells row col).getD (128 * x + y) none =
    if r.kaxis then r.element (row + y) (col + x) else r.element (row + x) (col + y) :=
  getD_flatMap_range (fun i j => if r.kaxis then r.element (row + j) (col + i) else r.element (row + i) (col + j)) 128 128 x y none hx hy

/-- A tile-memory write changes memory and repairs damage; nothing else. -/
theorem writeTile_eq (s : State) (t : TileId) (a : Nat) (bs : List Byte) :
    ∃ d, s.writeTile t a bs = { s with mem := Memory.writeBytes s.mem (tilePa t a) bs, damaged := d } := by
  unfold State.writeTile State.repair
  dsimp only
  split
  · exact ⟨s.damaged, rfl⟩
  · exact ⟨_, rfl⟩

theorem aside_writeTile (i : TaskId) (s : State) (t : TileId) (a : Nat) (bs : List Byte) : Aside i s (s.writeTile t a bs) := by
  obtain ⟨d, hd⟩ := writeTile_eq s t a bs
  rw [hd]
  exact ⟨rfl, rfl, fun _ => rfl, rfl, rfl, rfl, fun _ _ => rfl, rfl⟩

theorem task_writeTile (s : State) (t : TileId) (a : Nat) (bs : List Byte) (i : TaskId) : (s.writeTile t a bs).task i = s.task i := by
  obtain ⟨d, hd⟩ := writeTile_eq s t a bs
  rw [hd]
  rfl

theorem mem_writeTile (s : State) (t : TileId) (a : Nat) (bs : List Byte) : (s.writeTile t a bs).mem = Memory.writeBytes s.mem (tilePa t a) bs := by
  obtain ⟨d, hd⟩ := writeTile_eq s t a bs
  rw [hd]

/-- One element written at its address, or not at all when it is clipped (R187). -/
def State.writeCell (s : State) (t : TileId) (f : Format) (p : Option Nat × Nat) : State :=
  match p.1 with
  | some a => s.writeTile t a (natToBytes f.bytes p.2)
  | none => s

theorem writeCells_eq_foldl (s : State) (t : TileId) (f : Format) (cells : List (Option Nat)) (codes : List Nat) :
    s.writeCells t f cells codes = (cells.zip codes).foldl (fun x p => x.writeCell t f p) s := rfl

theorem aside_writeCells (i : TaskId) (s : State) (t : TileId) (f : Format) (cells : List (Option Nat)) (codes : List Nat) :
    Aside i s (s.writeCells t f cells codes) := by
  rw [writeCells_eq_foldl]
  refine aside_foldl i _ (fun u p => ?_) _ _
  unfold State.writeCell
  split
  · exact aside_writeTile _ _ _ _ _
  · exact .refl _ _

theorem task_writeCells (s : State) (t : TileId) (f : Format) (cells : List (Option Nat)) (codes : List Nat) (i : TaskId) :
    (s.writeCells t f cells codes).task i = s.task i := by
  rw [writeCells_eq_foldl]
  refine foldl_keeps (fun x : State => x.task i) _ (fun u p => ?_) _ _
  unfold State.writeCell
  split
  · exact task_writeTile _ _ _ _ _
  · rfl

/-- What the elements leave in memory comes from memory alone. -/
theorem mem_writeCells_congr {s u : State} (h : u.mem = s.mem) (t : TileId) (f : Format) (cells : List (Option Nat)) (codes : List Nat) :
    (u.writeCells t f cells codes).mem = (s.writeCells t f cells codes).mem := by
  rw [writeCells_eq_foldl, writeCells_eq_foldl]
  induction cells.zip codes generalizing s u with
  | nil => exact h
  | cons p ps ih =>
    refine ih ?_
    obtain ⟨_ | a, code⟩ := p
    · exact h
    · exact (mem_writeTile _ _ _ _).trans ((congrArg (Memory.writeBytes · _ _) h).trans (mem_writeTile _ _ _ _).symm)

/-! ### The effect of each command -/

theorem aside_lookedAt (i : TaskId) (s : State) (n : Nat) : Aside i s (s.lookedAt i n) := aside_updAcc i s n id

/-- The state in which SACCV has given its registers parts of a tile (R188). -/
def State.partsGiven (s : State) (i : TaskId) (d q n : Nat) (a : Acc) : State :=
  (List.range n).foldl (fun x k => x.updTask i (fun t => { t with v := t.v.set (d + k) (a.part (q + k))
                                                                  badV := t.badV.filter (fun b => b / 1024 ≠ d + k) })) s

theorem aside_partsGiven (s : State) (i : TaskId) (d q n : Nat) (a : Acc) : Aside i s (s.partsGiven i d q n a) :=
  aside_foldl i _ (fun u k => aside_updTask i u _ rfl rfl (fun e => by cases e <;> rfl)) _ _

theorem mem_partsGiven (s : State) (i : TaskId) (d q n : Nat) (a : Acc) : (s.partsGiven i d q n a).mem = s.mem := by
  unfold State.partsGiven
  refine foldl_keeps State.mem _ (fun _ _ => ?_) _ _
  rfl

/-- The vector registers after SACCV. -/
theorem v_partsGiven (s : State) (i : TaskId) (d q n j : Nat) (a : Acc) : ((s.partsGiven i d q n a).task i).v.get j [] =
    if d ≤ j ∧ j < d + n then a.part (q + (j - d)) else (s.task i).v.get j [] := by
  have hv : ((s.partsGiven i d q n a).task i).v = (List.range n).foldl (fun m k => m.set (d + k) (a.part (q + k))) (s.task i).v := by
    unfold State.partsGiven
    rw [task_foldl_updTask]
    exact (List.foldl_hom (fun t : Task => t.v) (fun _ _ => rfl)).symm
  rw [hv, get_foldl_set (fun k => a.part (q + k))]

/-- The value that SACCRD rounds, under a scale that is no NaN (R187). -/
theorem unscaled_eq {o : BitVec 8} (h : o ≠ 0xFF) (x : Word32) : unscaled o x = (decodeNum .f32 x.toNat).scale (127 - (o.toNat : Int)) := by
  unfold unscaled
  rw [if_neg h]

end Sys2Proof.Machine
end

section
/-! ## One accumulation group, and a butterfly stage -/

namespace Sys2Proof.Machine

/-! ### The addition of a group -/

theorem groupSum_eq_foldl (xs ys : List Num) (acc : Num) :
    groupSum xs ys acc = (xs.zip ys).foldl (fun acc p => acc.add .rne (p.1.mul p.2)) acc := by
  induction xs generalizing ys acc with
  | nil => cases ys <;> rfl
  | cons x xs ih =>
    cases ys with
    | nil => rfl
    | cons y ys => exact ih ys _

/-- The code that a group adds stands for the addition of R131. -/
theorem decodeNum_groupTerm (xs ys : List Num) (ea eb : Nat) : decodeNum .f32 (groupTerm xs ys ea eb) = groupAddend xs ys ea eb := by
  unfold groupTerm groupAddend
  split
  · decide
  · rw [groupSum_eq_foldl]

/-- The old value of an element of a tile, as one group finds it, and the value it leaves (R131, R184). -/
theorem addGroup_getD (cells : List Word32) (a b : Panel) (r k : Nat) (hr : r < 128) (hk : k < 128) :
    (addGroup cells a b).getD (128 * r + k) 0 = BitVec.ofNat 32 (round ((decodeNum .f32 (cells.getD (128 * r + k) 0).toNat).add .rne
      (groupAddend (a.vals.getD r []) (b.vals.getD k []) (a.codes.getD r 0x7F) (b.codes.getD k 0x7F))) .f32 .rne) := by
  have h := getD_flatMap_range (fun i j => BitVec.ofNat 32 (fadd .f32 .rne (cells.toArray.getD (128 * i + j) 0).toNat
    (groupTerm (a.vals.getD i []) (b.vals.getD j []) (a.codes.getD i 0x7F) (b.codes.getD j 0x7F)))) 128 128 r k 0 hr hk
  refine h.trans ?_
  rw [fadd, decodeNum_groupTerm]
  simp

theorem addGroup_ne_nil (cells : List Word32) (a b : Panel) : (addGroup cells a b).isEmpty = false := by
  have : (addGroup cells a b).length = 16384 := by simp [addGroup, List.length_flatMap]
  cases h : addGroup cells a b with
  | nil => rw [h] at this; cases this
  | cons _ _ => rfl

@[simp] theorem cells_poisonWith (a : Acc) (o : Option Word64) : (a.poisonWith o).cells = a.cells := by
  unfold Acc.poisonWith
  split
  · rfl
  · split <;> rfl

/-! ### One group of a multiply -/

theorem accTile_updAcc (s : State) (i : TaskId) (n m : Nat) (f : Acc → Acc) :
    ((s.updAcc i n f).task i).accTile m = if m = n then f ((s.task i).accTile n) else (s.task i).accTile m := by
  rw [task_updAcc, accTile_setAcc]

theorem accTile_updCommand (s : State) (i : TaskId) (e : Engine) (seq : Nat) (f : Command → Command) (n : Nat) :
    ((s.updCommand i e seq f).task i).accTile n = (s.task i).accTile n := by
  unfold State.updCommand
  rw [task_updTask_same]
  cases e <;> rfl

/-- The state in which a multiply's next group finds its tile: its first group begins it (R180, R184). -/
def State.smmBegun (s : State) (i : TaskId) (c : Command) : State :=
  if c.progress = 0 then s.updAcc i (opndIndex c.word.d) (smmBegin c) else s

/-- What the work of a multiply leaves alone: memory, strands, the cycle's work and the tokens of its task. -/
structure Multiplying (i : TaskId) (s u : State) : Prop where
  mem : u.mem = s.mem
  strands : u.strands = s.strands
  work : u.work = s.work
  tokens : (u.task i).tokens = (s.task i).tokens

theorem Multiplying.refl (i : TaskId) (s : State) : Multiplying i s s := ⟨rfl, rfl, rfl, rfl⟩

theorem Multiplying.trans {i : TaskId} {s u v : State} (a : Multiplying i s u) (b : Multiplying i u v) : Multiplying i s v :=
  ⟨b.mem.trans a.mem, b.strands.trans a.strands, b.work.trans a.work, b.tokens.trans a.tokens⟩

theorem multiplying_updAcc (i : TaskId) (s : State) (n : Nat) (f : Acc → Acc) : Multiplying i s (s.updAcc i n f) :=
  ⟨rfl, rfl, rfl, by rw [task_updAcc]⟩

theorem multiplying_updCommand (i : TaskId) (s : State) (e : Engine) (seq : Nat) (f : Command → Command) : Multiplying i s (s.updCommand i e seq f) :=
  ⟨rfl, rfl, rfl, by unfold State.updCommand; rw [task_updTask_same]; simp⟩

theorem multiplying_smmBegun (i : TaskId) (s : State) (c : Command) : Multiplying i s (s.smmBegun i c) := by
  unfold State.smmBegun
  split
  · exact multiplying_updAcc _ _ _ _
  · exact .refl _ _

/-- The cells of a multiply's tile as its next group finds them: the first group of SMMZ finds it cleared. -/
theorem cells_smmBegun (s : State) (i : TaskId) {c : Command} {w : Fields} (hw : c.instr = .smm w ∨ c.instr = .smmz w) :
    (((s.smmBegun i c).task i).accTile (opndIndex c.word.d)).cells =
      if c.progress = 0 ∧ c.instr = .smmz w then List.replicate 16384 0 else ((s.task i).accTile (opndIndex c.word.d)).cells := by
  unfold State.smmBegun
  by_cases hp : c.progress = 0
  · rw [if_pos hp, accTile_updAcc, if_pos rfl]
    unfold smmBegin
    rcases hw with hw | hw
    · rw [hw, if_neg (by rintro ⟨-, h⟩; cases h)]
      rfl
    · rw [hw, if_pos ⟨hp, rfl⟩]
      rfl
  · rw [if_neg hp, if_neg (fun h => hp h.1)]

/-- A multiply reads its operands apart from its tile. -/
theorem operands_smmBegun (s : State) (i : TaskId) (c : Command) :
    (s.smmBegun i c).groupLength i c = s.groupLength i c ∧ (s.smmBegun i c).stagedK i c = s.stagedK i c ∧
      ∀ loc lo hi, (s.smmBegun i c).panel i c loc lo hi = s.panel i c loc lo hi := by
  unfold State.smmBegun
  split
  · exact ⟨rfl, rfl, fun _ _ _ => rfl⟩
  · exact ⟨rfl, rfl, fun _ _ _ => rfl⟩

/-- A group whose port blocks are staged is added to every element of the tile (R131, R184). -/
theorem smmGroup_adds {s : State} {i : TaskId} {c : Command} {hi : Nat} (hhi : hi = min (fld c.vc 15 0) (c.progress + s.groupLength i c))
    (hst : hi ≤ s.stagedK i c) : ∃ u d, s.smmGroup i c = some (u, d) ∧ d.SameAs c ∧ Multiplying i s u ∧
      ((u.task i).accTile (opndIndex c.word.d)).cells =
        addGroup ((s.task i).accTile (opndIndex c.word.d)).cells (s.panel i c 2 c.progress hi) (s.panel i c 3 c.progress hi) := by
  have hlt : ¬ s.stagedK i c < min (fld c.vc 15 0) (c.progress + s.groupLength i c) := by omega
  unfold State.smmGroup
  dsimp only
  rw [if_neg hlt, ← hhi]
  refine ⟨_, _, rfl, ⟨rfl, rfl, rfl⟩, (multiplying_updAcc _ _ _ _).trans (multiplying_updCommand _ _ _ _ _), ?_⟩
  rw [accTile_updCommand, accTile_updAcc, if_pos rfl, cells_poisonWith, Acc.cells, addGroup_ne_nil]
  rfl

theorem pushFits_congr {s u : State} {e : Engine} {i : TaskId} {c d : Command} (hw : u.work = s.work)
    (ht : (u.task i).tokens = (s.task i).tokens) (hi : d.instr = c.instr) (hp : s.PushFits e i c) : u.PushFits e i d := by
  have hd : commandPushes e d = commandPushes e c := by
    unfold commandPushes Command.word
    rw [hi]
  unfold State.PushFits
  rw [hd]
  refine (overflow_congr (s := s) (by rw [hw]) (fun k => ?_) _).trans hp
  rw [State.startToken, Task.token, ht, hw]
  rfl

/-- The end of a multiply leaves the elements of its tile. -/
theorem finishCommand_smm {s : State} {i : TaskId} {c : Command} (hp : s.PushFits .serac i c) (n : Nat) :
    let t := (s.finishCommand i .serac c).refreshBusy i n
    t.mem = s.mem ∧ t.strands = s.strands ∧ ((t.task i).accTile n).cells = ((s.task i).accTile n).cells := by
  intro t
  have ht : t = ((s.updTask i (fun x => x.without .serac c.seq)).withWork (completionWork s i .serac c)).refreshBusy i n := by
    rw [← finishCommand_eq hp]
  rw [ht]
  refine ⟨rfl, rfl, ?_⟩
  unfold State.refreshBusy
  rw [accTile_updAcc, if_pos rfl, task_withWork, task_updTask_same]
  rfl

/-- A turn of one group of a multiply (R178, R184): the group is added, and the command completes when it was the last. -/
theorem progressSerac_oneGroup {s : State} {i : TaskId} {c : Command} {hi : Nat} (hn : c.null = false) (hm : isSmm c = true)
    (hlt : c.progress < fld c.vc 15 0) (hhi : hi = min (fld c.vc 15 0) (c.progress + s.groupLength i c)) (hst : hi ≤ s.stagedK i c)
    (hp : s.PushFits .serac i c) :
    let t := s.progressSerac i c 1
    t.mem = s.mem ∧ t.strands = s.strands ∧ ((t.task i).accTile (opndIndex c.word.d)).cells =
      addGroup (((s.smmBegun i c).task i).accTile (opndIndex c.word.d)).cells (s.panel i c 2 c.progress hi) (s.panel i c 3 c.progress hi) := by
  obtain ⟨hlen, hstaged, hpanel⟩ := operands_smmBegun s i c
  obtain ⟨u, d, hg, hd, hu, hcells⟩ := smmGroup_adds (s := s.smmBegun i c) (hhi.trans (by rw [hlen])) (hst.trans (by rw [hstaged]))
  have hall := (multiplying_smmBegun i s c).trans hu
  have hrun : (s.smmBegun i c).smmRun i c 1 = (u, d) := by
    unfold State.smmRun
    rw [if_neg (by omega), hg]
    rfl
  intro t
  have ht : t = if d.progress < fld c.vc 15 0 then u
      else ((u.updAcc i (opndIndex c.word.d) (fun a => a.poisonWith d.poisoned)).finishCommand i .serac d).refreshBusy i (opndIndex c.word.d) := by
    show s.progressSerac i c 1 = _
    unfold State.progressSerac
    unfold State.smmBegun at hrun
    simp only [hn, hm, Bool.false_eq_true, if_false, if_true, Nat.one_ne_zero, hrun]
  rw [ht]
  rw [hpanel, hpanel] at hcells
  split
  · exact ⟨hall.mem, hall.strands, hcells⟩
  · have hv := hall.trans (multiplying_updAcc i u (opndIndex c.word.d) (fun a => a.poisonWith d.poisoned))
    obtain ⟨hmem, hstrands, hcells'⟩ := finishCommand_smm (pushFits_congr hv.work hv.tokens hd.instr hp) (opndIndex c.word.d)
    refine ⟨hmem.trans hv.mem, hstrands.trans hv.strands, hcells'.trans ?_⟩
    rw [accTile_updAcc, if_pos rfl, cells_poisonWith, hcells]

/-! ### A butterfly stage -/

/-- The output of a stage at the low and at the high element of pair q = u * 2^x + v (R191). -/
theorem stageRow_pair (f : Format) (n x u v : Nat) (w row : Array Num) (hv : v < 2 ^ x) (hb : u * 2 ^ (x + 1) + v + 2 ^ x < n) :
    let zero : Num := .fin false 0 0
    let a := u * 2 ^ (x + 1) + v
    let q := u * 2 ^ x + v
    (stageRow f n x w row).getD a 0 = pairSum f (w.getD (4 * q) zero) (row.getD a zero) (w.getD (4 * q + 1) zero) (row.getD (a + 2 ^ x) zero) ∧
    (stageRow f n x w row).getD (a + 2 ^ x) 0 =
      pairSum f (w.getD (4 * q + 2) zero) (row.getD a zero) (w.getD (4 * q + 3) zero) (row.getD (a + 2 ^ x) zero) := by
  intro zero a q
  have hs : 0 < 2 ^ x := Nat.two_pow_pos x
  have ha : a = 2 ^ x * (2 * u) + v := by show u * 2 ^ (x + 1) + v = _; ring
  have hlow : a / 2 ^ x = 2 * u := by rw [ha, Nat.mul_add_div hs, Nat.div_eq_of_lt hv, Nat.add_zero]
  have hhigh : (a + 2 ^ x) / 2 ^ x = 2 * u + 1 := by rw [Nat.add_div_right _ hs, hlow]
  have hmod : a % 2 ^ x = v := by rw [ha, Nat.mul_add_mod, Nat.mod_eq_of_lt hv]
  have hq : a / (2 * 2 ^ x) * 2 ^ x + a % 2 ^ x = q := by
    rw [Nat.mul_comm 2, ← Nat.div_div_eq_div_mul, hlow, Nat.mul_div_cancel_left _ (by decide : 0 < 2), hmod]
  have hget (j : Nat) (hj : j < n) (g : Nat → Word32) : ((List.range n).map g).getD j 0 = g j := by
    simp [List.getD_eq_getElem?_getD, hj]
  have han : a < n := by omega
  unfold stageRow
  rw [hget a han, hget (a + 2 ^ x) hb]
  constructor
  · simp only [hlow, Nat.mul_mod_right, if_true, hq]
    rfl
  · have hodd : ¬ (2 * u + 1) % 2 = 0 := by omega
    simp only [hhigh, hodd, if_false, Nat.add_sub_cancel, hq]
    rfl

end Sys2Proof.Machine
end

section
/-! ## SERAC_COMMAND_COMPLETE -/

namespace Sys2Proof.Machine

/-- A command that the event finds started at the head of Serac's queue, and that may go on. -/
structure SeracHead (s : State) (c : Command) : Prop where
  head : (s.task s.event.who.task).serac.queue.head? = some c
  started : c.started = true
  going : s.atStop s.event.who.task c = false
  live : (s.task s.event.who.task).live = true
  room : s.PushFits .serac s.event.who.task c

theorem SeracHead.exec_null {s : State} {c : Command} (h : SeracHead s c) (hn : c.null = true) :
    exec .seracCommandComplete s = .next (s.finishCommand s.event.who.task .serac c) := by
  rw [exec_seracCommandComplete h.head h.started h.going h.live, progressSerac_null hn]

/-- A command that acts at once completes with its effect, which leaves the rest aside. -/
theorem SeracHead.exec_atOnce {s : State} {c : Command} (h : SeracHead s c) (hn : c.null = false) (ha : actsAtOnce c.instr = true)
    (he : Aside s.event.who.task s (s.seracEffect s.event.who.task c)) :
    ∃ t, exec .seracCommandComplete s = .next t ∧ Finished .serac s.event.who.task c s t ∧
      t.mem = (s.seracEffect s.event.who.task c).mem ∧
      t.task s.event.who.task = ((s.seracEffect s.event.who.task c).task s.event.who.task).without .serac c.seq := by
  obtain ⟨hf, hm, ht⟩ := he.finished (.refl c) h.room
  exact ⟨_, by rw [exec_seracCommandComplete h.head h.started h.going h.live, progressSerac_atOnce hn ha], hf, hm, ht⟩

theorem word_of_strandWord {c : Command} {op : BitVec 8} {w : Fields} (h : c.instr.strandWord = some (op, w)) : c.word = w := by
  unfold Command.word
  rw [h]

/-- SACCV of a sound tile gives each of its registers a part of it (R188). -/
theorem SeracHead.saccv {s : State} {c : Command} (h : SeracHead s c) {w : Fields} (hn : c.null = false) (hw : c.instr = .saccv w)
    (hb : ∀ b ∈ ((s.task s.event.who.task).accTile (opndIndex w.a)).bad, b < 1024 * c.vb.toNat ∨ 1024 * (c.vb.toNat + c.vc.toNat) ≤ b)
    (hp : ((s.task s.event.who.task).accTile (opndIndex w.a)).poison = false) :
    ∃ t, exec .seracCommandComplete s = .next t ∧ Finished .serac s.event.who.task c s t ∧ t.mem = s.mem ∧
      ∀ n, (t.task s.event.who.task).v.get n [] = if opndIndex w.d ≤ n ∧ n < opndIndex w.d + c.vc.toNat then
          ((s.task s.event.who.task).accTile (opndIndex w.a)).part (c.vb.toNat + (n - opndIndex w.d))
        else (s.task s.event.who.task).v.get n [] := by
  have he : s.seracEffect s.event.who.task c = (s.lookedAt s.event.who.task (opndIndex w.a)).partsGiven s.event.who.task (opndIndex w.d)
      c.vb.toNat c.vc.toNat ((s.task s.event.who.task).accTile (opndIndex w.a)) := by
    unfold State.seracEffect
    simp only [hw, readAcc_sound hb hp]
    rfl
  have haside : Aside s.event.who.task s (s.seracEffect s.event.who.task c) := by
    rw [he]
    exact (aside_lookedAt _ _ _).trans (aside_partsGiven _ _ _ _ _ _)
  obtain ⟨t, hx, hf, hm, ht⟩ := h.exec_atOnce hn (by rw [hw]; rfl) haside
  refine ⟨t, hx, hf, hm.trans ?_, fun n => ?_⟩
  · rw [he]
    exact mem_partsGiven _ _ _ _ _ _
  · rw [ht, v_without, he, v_partsGiven]
    rw [State.lookedAt, task_updAcc]

/-- SACCRD of a sound tile writes its elements, divided by OSCALE and rounded, to the record (R186, R187). -/
theorem SeracHead.saccrd {s : State} {c : Command} (h : SeracHead s c) {w : Fields} {r : LayoutRec} (hn : c.null = false)
    (hw : c.instr = .saccrd w) (hr : c.record 3 = some r) (hb : ((s.task s.event.who.task).accTile (opndIndex w.a)).bad = [])
    (hp : ((s.task s.event.who.task).accTile (opndIndex w.a)).poison = false) (ho : (s.task s.event.who.task).oscale ≠ 0xFF) :
    ∃ t, exec .seracCommandComplete s = .next t ∧ Finished .serac s.event.who.task c s t ∧
      (∀ n, (t.task s.event.who.task).accTile n = (s.task s.event.who.task).accTile n) ∧
      t.mem = (s.writeCells s.event.who.task.tileId r.format (r.tileCells (fld c.vb 31 16) (fld c.vc 15 0))
        (((s.task s.event.who.task).accTile (opndIndex w.a)).cells.map (fun x =>
          round ((decodeNum .f32 x.toNat).scale (127 - ((s.task s.event.who.task).oscale.toNat : Int))) r.format (Rnd.ofMod w.mod.toNat)))).mem := by
  have hlook : ((s.lookedAt s.event.who.task (opndIndex w.a)).task s.event.who.task).oscale = (s.task s.event.who.task).oscale := by
    rw [State.lookedAt, task_updAcc]
  have hcells : ((s.task s.event.who.task).accTile (opndIndex w.a)).cells.map (fun x =>
        round (unscaled (s.task s.event.who.task).oscale x) r.format (Rnd.ofMod w.mod.toNat)) =
      ((s.task s.event.who.task).accTile (opndIndex w.a)).cells.map (fun x =>
        round ((decodeNum .f32 x.toNat).scale (127 - ((s.task s.event.who.task).oscale.toNat : Int))) r.format (Rnd.ofMod w.mod.toNat)) :=
    List.map_congr_left (fun x _ => by rw [unscaled_eq ho])
  have he : s.seracEffect s.event.who.task c = (s.lookedAt s.event.who.task (opndIndex w.a)).writeCells s.event.who.task.tileId r.format
      (r.tileCells (fld c.vb 31 16) (fld c.vc 15 0)) (((s.task s.event.who.task).accTile (opndIndex w.a)).cells.map (fun x =>
        round ((decodeNum .f32 x.toNat).scale (127 - ((s.task s.event.who.task).oscale.toNat : Int))) r.format (Rnd.ofMod w.mod.toNat))) := by
    have hsound : ∀ b ∈ ((s.task s.event.who.task).accTile (opndIndex w.a)).bad, b < 0 ∨ 16384 ≤ b := by
      rw [hb]
      exact fun b hb => absurd hb List.not_mem_nil
    unfold State.seracEffect
    simp only [hw, hr, readAcc_sound hsound hp, hlook, hcells]
  have haside : Aside s.event.who.task s (s.seracEffect s.event.who.task c) := by
    rw [he]
    exact (aside_lookedAt _ _ _).trans (aside_writeCells _ _ _ _ _ _)
  obtain ⟨t, hx, hf, hm, ht⟩ := h.exec_atOnce hn (by rw [hw]; rfl) haside
  refine ⟨t, hx, hf, fun n => ?_, ?_⟩
  · rw [ht, accTile_without, he, task_writeCells, accTile_lookedAt]
  · rw [hm, he]
    exact mem_writeCells_congr (s := s) (u := s.lookedAt s.event.who.task (opndIndex w.a)) rfl _ _ _ _

/-- One turn of one group of SMM or SMMZ adds the group to every element of its tile (R131, R184). -/
theorem SeracHead.smm {s : State} {c : Command} (h : SeracHead s c) {w : Fields} {hi : Nat} (hn : c.null = false)
    (hw : c.instr = .smm w ∨ c.instr = .smmz w) (hlen : s.event.len = 1) (hstop : s.stopRequested s.event.who.task = false)
    (hlt : c.progress < fld c.vc 15 0) (hhi : hi = min (fld c.vc 15 0) (c.progress + s.groupLength s.event.who.task c))
    (hst : hi ≤ s.stagedK s.event.who.task c) :
    ∃ t, exec .seracCommandComplete s = .next t ∧ t.mem = s.mem ∧ t.strands = s.strands ∧
      ((t.task s.event.who.task).accTile (opndIndex w.d)).cells = addGroup
        (if c.progress = 0 ∧ c.instr = .smmz w then List.replicate 16384 0 else ((s.task s.event.who.task).accTile (opndIndex w.d)).cells)
        (s.panel s.event.who.task c 2 c.progress hi) (s.panel s.event.who.task c 3 c.progress hi) := by
  have hm : isSmm c = true := by
    unfold isSmm
    rcases hw with hw | hw <;> rw [hw]
  have hword : c.word = w := by
    rcases hw with hw | hw <;> exact word_of_strandWord (by rw [hw]; rfl)
  obtain ⟨hmem, hstrands, hcells⟩ := progressSerac_oneGroup hn hm hlt hhi hst h.room
  rw [cells_smmBegun s _ hw, hword] at hcells
  refine ⟨_, ?_, hmem, hstrands, hcells⟩
  rw [exec_seracCommandComplete h.head h.started h.going h.live, hstop, hlen]
  rfl

/-- Settles O46: each command by the shape of its progress, with what it works on apart from what completion says; a multiply by its one
group, and a stage pair by pair. -/
theorem seracCompletes : Obligations.SeracCompletes := by
  unfold Obligations.SeracCompletes
  refine ⟨?commands, ?stage⟩
  case stage =>
    intro f n x u v w row zero a b q hv hb
    obtain ⟨hlo, hhi⟩ := stageRow_pair f n x u v w row hv hb
    exact ⟨by simp [stageRow], hlo, hhi⟩
  case commands =>
    intro s c i hq hs hp hl hr
    have h : SeracHead s c := ⟨hq, hs, hp, hl, hr⟩
    refine ⟨?null, ?saccz, ?sscl, ?smode, ?sstr, fun r row col x y hx hy => tileCells_getD r row col x y hx hy,
      fun w hn hw hb hpo => h.saccv hn hw hb hpo, fun w r hn hw hrec hb hpo ho => h.saccrd hn hw hrec hb hpo ho, ?smm⟩
    case null =>
      intro hn
      obtain ⟨hf, hm, ht⟩ := (Aside.refl i s).finished (.refl c) h.room
      exact ⟨_, h.exec_null hn, hf, hm, by rw [ht, acc_without], by rw [ht, v_without]⟩
    case saccz =>
      intro w hn hw
      have he : s.seracEffect i c = s.updAcc i (opndIndex w.d) (fun a => { a with elems := [], prog := 0, poison := false, bad := [], badState := false }) := by
        unfold State.seracEffect
        simp only [hw]
      obtain ⟨t, hx, hf, hm, ht⟩ := h.exec_atOnce hn (by rw [hw]; rfl) (by rw [he]; exact aside_updAcc _ _ _ _)
      refine ⟨t, hx, hf, hm.trans (by rw [he]; rfl), ?_⟩
      rw [ht, acc_without, he, task_updAcc]
    case sscl =>
      intro w hn hw
      have he : s.seracEffect i c = s.updTask i (fun t => { t with oscale := c.va.extractLsb' 0 8 }) := by
        unfold State.seracEffect
        simp only [hw]
      obtain ⟨t, hx, hf, hm, ht⟩ := h.exec_atOnce hn (by rw [hw]; rfl)
        (by rw [he]; exact aside_updTask _ _ _ rfl rfl (fun e => by cases e <;> rfl))
      refine ⟨t, hx, hf, hm.trans (by rw [he]; rfl), ?_, ?_, ?_⟩ <;> rw [ht, he, task_updTask_same] <;> simp
    case smode =>
      intro w hn hw
      have he : s.seracEffect i c = s.updTask i (fun t => { t with mode := c.va.extractLsb' 0 2 }) := by
        unfold State.seracEffect
        simp only [hw]
      obtain ⟨t, hx, hf, hm, ht⟩ := h.exec_atOnce hn (by rw [hw]; rfl)
        (by rw [he]; exact aside_updTask _ _ _ rfl rfl (fun e => by cases e <;> rfl))
      refine ⟨t, hx, hf, hm.trans (by rw [he]; rfl), ?_, ?_, ?_⟩ <;> rw [ht, he, task_updTask_same] <;> simp
    case sstr =>
      intro w hn hw
      have he : s.seracEffect i c = s.updTask i (fun t => { t with
          strides := (List.range c.vb.toNat).foldl (fun m k => m.set (opndIndex w.d + k) (c.va.extractLsb' (4 * k) 4)) t.strides }) := by
        unfold State.seracEffect
        simp only [hw]
      obtain ⟨t, hx, hf, hm, ht⟩ := h.exec_atOnce hn (by rw [hw]; rfl)
        (by rw [he]; exact aside_updTask _ _ _ rfl rfl (fun e => by cases e <;> rfl))
      refine ⟨t, hx, hf, hm.trans (by rw [he]; rfl), fun k => ?_⟩
      rw [ht, strides_without, he, task_updTask_same]
      exact get_foldl_set (fun k => c.va.extractLsb' (4 * k) 4) _ _ _ _ _
    case smm =>
      intro w hi hn hw hlen hstop hlt hhi hst old pa pb
      obtain ⟨t, hx, hm, hstrands, hcells⟩ := h.smm hn hw hlen hstop hlt hhi hst
      refine ⟨t, hx, hm, fun j => by rw [State.strand, hstrands]; rfl, fun r k hr hk => ?_⟩
      have hold : old (128 * r + k) = ((if c.progress = 0 ∧ c.instr = .smmz w then List.replicate 16384 0
          else ((s.task i).accTile (opndIndex w.d)).cells).getD (128 * r + k) 0).toNat := by
        show (if c.progress = 0 ∧ c.instr = .smmz w then 0 else _) = _
        split
        · rw [List.getD_replicate (h := by omega)]
          rfl
        · rfl
      rw [hcells, addGroup_getD _ _ _ r k hr hk, hold]

end Sys2Proof.Machine
end

section
/-! ## Reads for the die itself -/

namespace Sys2Proof.Machine

/-- Two states read alike for a die itself: memory, its keys, the translation tables' roots, what is present and powered. -/
structure ReadsAlike (s u : State) : Prop where
  mem : u.mem = s.mem
  keytag : u.keytag = s.keytag
  present : u.present = s.present
  roots : ∀ d, (u.die d).roots = (s.die d).roots
  keys : ∀ d, (u.die d).keys = (s.die d).keys
  pwrtile : ∀ d, (u.die d).pwrtile = (s.die d).pwrtile

theorem readPa_congr {s u : State} (h : ReadsAlike s u) (pa n : Nat) (key : BitVec 4) : u.readPa pa n key = s.readPa pa n key := by
  unfold State.readPa State.granuleView State.keyOf
  simp only [h.mem, h.keytag, h.keys]

theorem walkFrom_congr {s u : State} (h : ReadsAlike s u) (va t : Nat) (lvls : List Nat) : u.walkFrom va t lvls = s.walkFrom va t lvls := by
  induction lvls generalizing t with
  | nil => rfl
  | cons lvl rest ih =>
    unfold State.walkFrom
    simp only [State.diePresent, h.present, readPa_congr h, ih]
    rfl

theorem walkTables_congr {s u : State} (h : ReadsAlike s u) (die : Nat) (domain : BitVec 8) (va : Nat) :
    u.walkTables die domain va = s.walkTables die domain va := by
  unfold State.walkTables
  rw [h.roots, walkFrom_congr h]

theorem checkPart_congr {s u : State} (h : ReadsAlike s u) (e : Word64) (lvl va size : Nat) (use : Use) (domain : BitVec 8) (priv : Bool)
    (earlier : Option (BitVec 8)) : u.checkPart e lvl va size use domain priv earlier = s.checkPart e lvl va size use domain priv earlier := by
  unfold State.checkPart State.absentCause State.tilePowered State.diePresent
  simp only [h.present, h.pwrtile]

theorem readVirtual_congr {s u : State} (h : ReadsAlike s u) (die : Nat) (domain : BitVec 8) (va n : Nat) :
    u.readVirtual die domain va n = s.readVirtual die domain va n := by
  unfold State.readVirtual
  simp only [walkTables_congr h, checkPart_congr h, readPa_congr h]

theorem readVirtual64_congr {s u : State} (h : ReadsAlike s u) (die : Nat) (domain : BitVec 8) (va : Nat) :
    u.readVirtual64 die domain va = s.readVirtual64 die domain va := by
  unfold State.readVirtual64
  rw [readVirtual_congr h]

theorem sections_congr {s u : State} (h : ReadsAlike s u) (die : Nat) (domain : BitVec 8) (fuel a : Nat) :
    u.sections die domain fuel a = s.sections die domain fuel a := by
  induction fuel generalizing a with
  | zero => rfl
  | succ fuel ih =>
    unfold State.sections
    simp only [readVirtual64_congr h, ih]

/-- A strand's stream is found alike where its task and its load are the same. -/
theorem wordSection_congr {s u : State} (h : ReadsAlike s u) (ht : u.tasks = s.tasks) (hl : u.loads = s.loads) (who : StrandId) (a : Word64) :
    u.wordSection who a = s.wordSection who a := by
  unfold State.wordSection State.stream State.task State.load
  simp only [ht, hl, sections_congr h]

end Sys2Proof.Machine
end

section
/-! ## Responses to fault entries -/

namespace Sys2Proof.Machine

/-! ### A faulted strand goes on -/

/-- Two states differ in their strands alone. -/
def OnlyStrands (s t : State) : Prop := t = { s with strands := t.strands }

/-- The state with its loads replaced. -/
def State.withLoads (s : State) (m : Map LoadId Load) : State := { s with loads := m }

theorem die_withLoads (s : State) (m : Map LoadId Load) (d : Nat) : (s.withLoads m).die d = s.die d := rfl

/-- A strand made Ready by a resume, before it is sent anywhere (R34, R381). -/
def Strand.readied (st : Strand) (f : StrandFault) : Strand :=
  { st with status := .ready, fault := none, faultCode := BitVec.ofNat 8 f.code.num }

/-- A strand is Faulted by a fault with nothing to try again, from no suspension, and no record waits behind it. -/
structure State.FaultedBy (s : State) (who : StrandId) (f : StrandFault) : Prop where
  status : (s.strand who).status = .faulted
  fault : (s.strand who).fault = some f
  retry : f.retry = .none
  park : f.park = none
  waiting : (s.strand who).waiting = []

theorem raiseWaiting_none {s : State} {who : StrandId} (h : (s.strand who).waiting = []) : s.raiseWaiting who = s := by
  unfold State.raiseWaiting
  simp only [h]

theorem retryFor_none (s : State) (who : StrandId) : s.retryFor who .none = s := rfl

/-- A strand resumed where it stopped (R34). -/
theorem resumeStrand_point {s : State} {who : StrandId} {f : StrandFault} (h : s.FaultedBy who f) (ht : f.code ≠ .trap) (hb : f.code ≠ .bkpt) :
    OnlyStrands s (s.resumeStrand who f .point) ∧ (s.resumeStrand who f .point).strand who = (s.strand who).readied f := by
  unfold State.resumeStrand
  simp only [h.retry, h.park, retryFor_none, ht, hb, or_self, if_false]
  rw [raiseWaiting_none (by simpa using h.waiting)]
  exact ⟨rfl, by rw [strand_updStrand_same, strand_updStrand_same]; rfl⟩

/-- A strand sent on to an address (R381). -/
theorem resumeStrand_at {s : State} {who : StrandId} {f : StrandFault} (h : s.FaultedBy who f) (a : Word64) :
    OnlyStrands s (s.resumeStrand who f (.at' a)) ∧
      ∀ x, (s.resumeStrand who f (.at' a)).strand who = x →
        x.status = .ready ∧ x.fault = none ∧ x.pc = a ∧ x.regs = (s.strand who).regs ∧ x.faultCode = BitVec.ofNat 8 f.code.num := by
  unfold State.resumeStrand
  simp only [h.retry, retryFor_none]
  rw [raiseWaiting_none (by simpa [State.goTo] using h.waiting)]
  refine ⟨rfl, ?_⟩
  rintro x rfl
  simp [State.goTo]

/-- A strand that goes on behind a word in the middle of its section, with no loop ending there (R58, R91). -/
theorem fallThrough_next {s : State} {who : StrandId} {a : Word64}
    (hn : (a + 12).toNat < (s.strand who).sectStart.toNat + 12 * (s.strand who).sectLen)
    (hl : ∀ l ∈ (s.strand who).loops.head?, ¬ (l.depth = (s.strand who).depth ∧ l.last = a)) :
    s.fallThrough who [a] a =
      (s.updStrand who (fun x => { x with loops := (s.strand who).loops, needs := [] })).updStrand who (fun x => { x with pc := a + 12 }) := by
  have hend : loopEnd a (s.strand who).depth (s.strand who).loops = ((s.strand who).loops, none) := by
    cases hs : (s.strand who).loops with
    | nil => rfl
    | cons l ls => rw [loopEnd, if_neg (hl l (by simp [hs]))]
  unfold State.fallThrough
  simp only [List.foldl_cons, List.foldl_nil, hend, if_pos hn]

/-- A strand resumed behind its TRAP or BKPT (R394). -/
theorem resumeStrand_behind {s : State} {who : StrandId} {f : StrandFault} (h : s.FaultedBy who f) (hc : f.code = .trap ∨ f.code = .bkpt)
    (hn : ((s.strand who).pc + 12).toNat < (s.strand who).sectStart.toNat + 12 * (s.strand who).sectLen)
    (hl : ∀ l ∈ (s.strand who).loops.head?, ¬ (l.depth = (s.strand who).depth ∧ l.last = (s.strand who).pc)) :
    OnlyStrands s (s.resumeStrand who f .point) ∧
      ((s.resumeStrand who f .point).strand who).status = .ready ∧ ((s.resumeStrand who f .point).strand who).pc = (s.strand who).pc + 12 := by
  unfold State.resumeStrand
  simp only [h.retry, h.park, retryFor_none, if_pos hc]
  rw [fallThrough_next (by simpa using hn) (by simpa using hl), raiseWaiting_none (by simpa using h.waiting)]
  exact ⟨rfl, by simp⟩

/-! ### What a response does -/

/-- The state once an action has been applied to an entry: the entry is answered and the response counted (R377, R380). -/
def State.taken (t : State) (die : Nat) (e : FqEntry) : State :=
  ((t.updDie die (fun x => { x with fqOpen := x.fqOpen.erase e })).rearmFor die e).answered die 0

theorem rearmFor_other {s : State} {die : Nat} {e : FqEntry} (h : ∀ l ts, e.of ≠ .deadlock l ts) : s.rearmFor die e = s := by
  unfold State.rearmFor
  split
  · next l ts he => exact absurd he (h l ts)
  · rfl

/-- Re-arming a detector touches loads alone (R389). -/
theorem rearmFor_eq (s : State) (die : Nat) (e : FqEntry) : ∃ m, s.rearmFor die e = s.withLoads m := by
  unfold State.rearmFor
  split
  · exact ⟨_, rfl⟩
  · exact ⟨_, rfl⟩

theorem die_answered (s : State) (die last : Nat) : (s.answered die last).die die =
    { s.die die with fqLast := BitVec.ofNat 2 last, fqAccepted := if last = 0 then (s.die die).fqAccepted + 1 else (s.die die).fqAccepted } :=
  die_updDie_same _ _ _

theorem die_taken (t : State) (die : Nat) (e : FqEntry) : (t.taken die e).die die =
    { t.die die with fqOpen := (t.die die).fqOpen.erase e, fqLast := 0, fqAccepted := (t.die die).fqAccepted + 1 } := by
  obtain ⟨m, hm⟩ := rearmFor_eq (t.updDie die (fun x => { x with fqOpen := x.fqOpen.erase e })) die e
  have hd : ((t.updDie die (fun x => { x with fqOpen := x.fqOpen.erase e })).rearmFor die e).die die =
      { t.die die with fqOpen := (t.die die).fqOpen.erase e } := by
    rw [hm, die_withLoads, die_updDie_same]
  rw [State.taken, die_answered, hd]
  rfl

/-- Beside its die and the loads' detectors, an answered response leaves what its action has left. -/
theorem taken_eq (t : State) (die : Nat) (e : FqEntry) : ∃ m l, t.taken die e = { t with dies := m, loads := l } := by
  obtain ⟨m, hm⟩ := rearmFor_eq (t.updDie die (fun x => { x with fqOpen := x.fqOpen.erase e })) die e
  rw [State.taken, hm]
  exact ⟨_, _, rfl⟩

/-- The open entry that the response register names: the newest of its SEQ that is not kept (R380). -/
def Die.named (d : Die) : Option FqEntry :=
  d.fqOpen.reverse.find? (fun e => e.seq == d.fqResp0.extractLsb' 32 32 && e.kept.isNone)

theorem respond_unknown {s : State} {die : Nat} (h : (s.die die).named = none) : s.respond die = s.answered die 1 := by
  unfold Die.named at h
  unfold State.respond
  simp only [h]

theorem respond_inadmissible {s : State} {die : Nat} {e : FqEntry} (h : (s.die die).named = some e)
    (hk : kindAdmits e.kind (fld (s.die die).fqResp0 31 28) = false) : s.respond die = s.answered die 2 := by
  unfold Die.named at h
  unfold State.respond
  simp only [h, hk, if_true]

theorem respond_act {s : State} {die : Nat} {e : FqEntry} (h : (s.die die).named = some e)
    (hk : kindAdmits e.kind (fld (s.die die).fqResp0 31 28) = true) (hs : s.entrySaved e = false) :
    s.respond die = match s.act die e (fld (s.die die).fqResp0 31 28) (s.die die).fqResp1 with
      | .error k => s.answered die k
      | .ok t => t.taken die e := by
  unfold Die.named at h
  unfold State.respond
  simp only [h, hk, hs, Bool.true_eq_false, Bool.false_eq_true, if_false]
  rfl

end Sys2Proof.Machine
end

section
/-! ## The events that answer a fault entry -/

namespace Sys2Proof.Machine

/-! ### The two register writes of a response -/

/-- A field of every die that a change of one die leaves alone. -/
theorem dieField_updDie {β : Type} (p : Die → β) {g : Die → Die} (hg : ∀ x, p (g x) = p x) (s : State) (i d : Nat) :
    p ((s.updDie i g).die d) = p (s.die d) := by
  by_cases h : d = i
  · subst h; rw [die_updDie_same, hg]
  · rw [die_updDie_ne _ _ h]

theorem merge_allBits (old v : Word64) : merge old v allBits = v := by
  unfold merge allBits
  simp only [BitVec.not_allOnes, BitVec.and_zero, BitVec.and_allOnes, BitVec.zero_or]

/-- A write of a register by the owner's physical function reaches it (R436, R438, R442). -/
theorem hostWriteReg_owned {s : State} {f : HostFn} {die o : Nat} (h : s.Owns f die) (hr : ctrlRegister o = true) (hc : o ≠ 0x400008) (v : Word64) :
    s.hostWriteReg f die o v = s.ctrlWrite (.host f) die o v := by
  obtain ⟨hup, hown, hfrozen, howner⟩ := h
  have hfunc : f.func = 0 := by
    unfold State.isOwner at howner
    simp only [Bool.and_eq_true, beq_iff_eq] at howner
    exact howner.1.1
  unfold State.hostWriteReg
  simp [ownDie, hup, hown, hfrozen, hfunc, hr, hc, howner]

/-- The system registers lie in one block of the control space (R438). -/
theorem ctrlWrite_sysOffset (s : State) (a : Agent) (die : Nat) {n : Nat} (h : n < 4096) (v : Word64) :
    s.ctrlWrite a die (sysOffset n) v = s.sysWrite a die n v allBits true := by
  have hn : (sysOffset n - 0x1000) / 8 = n := by unfold sysOffset; omega
  unfold State.ctrlWrite
  rw [if_pos ⟨by unfold sysOffset; omega, by unfold sysOffset; omega⟩, hn]

theorem sysWrite_fqResp0 (s : State) (a : Agent) (die : Nat) (v : Word64) :
    s.sysWrite a die 0x33 v allBits true = s.updDie die (fun d => { d with fqResp0 := v }) := by
  unfold State.sysWrite
  simp [merge_allBits]

theorem sysWrite_fqResp1 (s : State) (a : Agent) (die : Nat) (v : Word64) :
    s.sysWrite a die 0x34 v allBits true = (s.updDie die (fun d => { d with fqResp1 := v })).respond die := by
  unfold State.sysWrite
  simp [merge_allBits]

/-- The state of an event's response: both response registers of its die hold the event's values (R377). -/
def State.responding (s : State) : State :=
  (s.updDie s.event.die (fun d => { d with fqResp0 := s.event.value })).updDie s.event.die (fun d => { d with fqResp1 := s.event.value2 })

/-- The die of an event's response. -/
theorem die_responding (s : State) : s.responding.die s.event.die =
    { s.die s.event.die with fqResp0 := s.event.value, fqResp1 := s.event.value2 } := by
  unfold State.responding
  rw [die_updDie_same, die_updDie_same]

/-- What of a die is no response register stands as it did. -/
theorem dieField_responding {β : Type} (p : Die → β) (h0 : ∀ x v, p { x with fqResp0 := v } = p x) (h1 : ∀ x v, p { x with fqResp1 := v } = p x)
    (s : State) (d : Nat) : p (s.responding.die d) = p (s.die d) := by
  unfold State.responding
  rw [dieField_updDie p (fun x => h1 x _), dieField_updDie p (fun x => h0 x _)]

theorem readsAlike_responding (s : State) : ReadsAlike s s.responding :=
  ⟨rfl, rfl, rfl, dieField_responding Die.roots (fun _ _ => rfl) (fun _ _ => rfl) s, dieField_responding Die.keys (fun _ _ => rfl) (fun _ _ => rfl) s,
    dieField_responding Die.pwrtile (fun _ _ => rfl) (fun _ _ => rfl) s⟩

theorem hostFrozen_congr {s u : State} (h : ∀ d, (u.die d).frozen = (s.die d).frozen) (f : HostFn) : u.hostFrozen f = s.hostFrozen f := by
  unfold State.hostFrozen Die.isFrozen
  simp only [h]

theorem owns_updDie {s : State} {f : HostFn} {die i : Nat} (h : s.Owns f die) {g : Die → Die} (hg : ∀ x, (g x).frozen = x.frozen) :
    (s.updDie i g).Owns f die := by
  obtain ⟨hup, hown, hfrozen, howner⟩ := h
  refine ⟨hup, hown, ?_, howner⟩
  rw [hostFrozen_congr (s := s) (dieField_updDie Die.frozen hg s i), hfrozen]

/-- A response of the owner writes FQRESP0 and FQRESP1 of the die, and the second write applies it (R380). -/
theorem respondWith_eq {s : State} {action : Nat} (h : s.Owns s.event.fn s.event.die) (ha : fld s.event.value 31 28 = action) :
    s.respondWith action = s.responding.respond s.event.die := by
  have howns : (s.updDie s.event.die (fun d => { d with fqResp0 := s.event.value })).Owns s.event.fn s.event.die :=
    owns_updDie h (fun _ => rfl)
  have hfirst : s.eventWrite (sysOffset 0x33) = s.updDie s.event.die (fun d => { d with fqResp0 := s.event.value }) := by
    rw [State.eventWrite, hostWriteReg_owned h (by decide) (by decide), ctrlWrite_sysOffset _ _ _ (by decide), sysWrite_fqResp0]
  rw [State.respondWith, if_pos ha, hfirst, hostWriteReg_owned howns (by decide) (by decide), ctrlWrite_sysOffset _ _ _ (by decide), sysWrite_fqResp1]
  rfl

/-- A response to an open entry applies its action and answers the entry (R380, R381). -/
theorem respondWith_taken {s t : State} {action : Nat} {e : FqEntry} (h : s.Answers action e) (hk : kindAdmits e.kind action = true)
    (ha : s.responding.act s.event.die e action s.event.value2 = .ok t) : s.respondWith action = t.taken s.event.die e := by
  obtain ⟨howns, haction, hfind, hsaved⟩ := h
  have hnamed : (s.responding.die s.event.die).named = some e := by
    rw [Die.named, die_responding]
    exact hfind
  rw [respondWith_eq howns haction, respond_act hnamed (by rw [die_responding]; exact haction.symm ▸ hk) hsaved, die_responding]
  simp only [haction, ha]

/-- Between two states memory stands as it did and no die has counted a response. -/
structure Uncounted (s t : State) : Prop where
  mem : t.mem = s.mem
  accepted : ∀ d, (t.die d).fqAccepted = (s.die d).fqAccepted

theorem Uncounted.refl (s : State) : Uncounted s s := ⟨rfl, fun _ => rfl⟩
theorem Uncounted.trans {s t u : State} (a : Uncounted s t) (b : Uncounted t u) : Uncounted s u :=
  ⟨b.mem.trans a.mem, fun d => (b.accepted d).trans (a.accepted d)⟩

theorem uncounted_of_eq {s t : State} (hm : t.mem = s.mem) (hd : t.dies = s.dies) : Uncounted s t :=
  ⟨hm, fun _ => by unfold State.die; rw [hd]⟩

theorem uncounted_updDie (s : State) (i : Nat) {g : Die → Die} (hg : ∀ x, (g x).fqAccepted = x.fqAccepted) : Uncounted s (s.updDie i g) :=
  ⟨rfl, dieField_updDie Die.fqAccepted hg s i⟩

theorem uncounted_responding (s : State) : Uncounted s s.responding :=
  ⟨rfl, dieField_responding Die.fqAccepted (fun _ _ => rfl) (fun _ _ => rfl) s⟩

/-- An action that counts nothing itself is counted once by its response. -/
theorem Uncounted.answerTaken {s t : State} (h : Uncounted s t) (e : FqEntry) : AnswerTaken s (t.taken s.event.die e) := by
  obtain ⟨m, l, hm⟩ := taken_eq t s.event.die e
  refine ⟨?_, ?_, ?_⟩
  · rw [die_taken]
  · rw [die_taken]
    show (t.die s.event.die).fqAccepted + 1 = _
    rw [h.accepted]
  · rw [hm]
    exact h.mem

theorem strand_taken (t : State) (die : Nat) (e : FqEntry) (w : StrandId) : (t.taken die e).strand w = t.strand w := by
  obtain ⟨m, l, hm⟩ := taken_eq t die e
  rw [hm]
  rfl

theorem tasks_taken (t : State) (die : Nat) (e : FqEntry) : (t.taken die e).tasks = t.tasks := by
  obtain ⟨m, l, hm⟩ := taken_eq t die e
  rw [hm]

theorem strands_taken (t : State) (die : Nat) (e : FqEntry) : (t.taken die e).strands = t.strands := by
  obtain ⟨m, l, hm⟩ := taken_eq t die e
  rw [hm]

theorem loads_taken {t : State} {die : Nat} {e : FqEntry} (h : ∀ l ts, e.of ≠ .deadlock l ts) : (t.taken die e).loads = t.loads := by
  rw [State.taken, rearmFor_other h]
  rfl

theorem load_taken {t : State} {die : Nat} {e : FqEntry} (h : ∀ l ts, e.of ≠ .deadlock l ts) (l : LoadId) : (t.taken die e).load l = t.load l := by
  unfold State.load
  rw [loads_taken h]

theorem OnlyStrands.uncounted {s t : State} (h : OnlyStrands s t) : Uncounted s t := by
  rw [OnlyStrands] at h
  rw [h]
  exact ⟨rfl, fun _ => rfl⟩

/-! ### Killing -/

theorem Map.find?_mapVals {κ α : Type} [DecidableEq κ] (m : Map κ α) (f : κ → α → α) (k : κ) : (m.mapVals f).find? k = (m.find? k).map (f k) := by
  unfold Map.find? Map.mapVals
  induction m.entries with
  | nil => rfl
  | cons e es ih =>
    by_cases he : e.1 = k
    · subst he; simp [Map.lookup]
    · simpa [Map.lookup, he] using ih

/-- A listed entry of a map with every value replaced. -/
theorem Map.get_mapVals_listed {κ α : Type} [DecidableEq κ] {m : Map κ α} {k : κ} (h : (m.find? k).isSome = true) (f : κ → α → α) (d : α) :
    (m.mapVals f).get k d = f k (m.get k d) := by
  obtain ⟨v, hv⟩ := Option.isSome_iff_exists.mp h
  simp [Map.get, Map.find?_mapVals, hv]

theorem Map.mem_of_find? {κ α : Type} [DecidableEq κ] {m : Map κ α} {k : κ} {v : α} (h : m.find? k = some v) : (k, v) ∈ m.entries := by
  obtain ⟨es⟩ := m
  change Map.lookup k es = some v at h
  show (k, v) ∈ es
  induction es with
  | nil => simp [Map.lookup] at h
  | cons e es ih =>
    by_cases he : e.1 = k
    · subst he
      simp only [Map.lookup, if_true, Option.some.injEq] at h
      subst h
      exact List.mem_cons_self
    · simp only [Map.lookup, he, if_false] at h
      exact List.mem_cons_of_mem _ (ih h)

/-- A listed key whose value satisfies a test is among the keys that do. -/
theorem Map.mem_keysWhere {κ α : Type} [DecidableEq κ] {m : Map κ α} {k : κ} (h : (m.find? k).isSome = true) {p : κ → α → Bool} {d : α}
    (hp : p k (m.get k d) = true) : k ∈ m.keysWhere p := by
  obtain ⟨v, hv⟩ := Option.isSome_iff_exists.mp h
  have hget : m.get k d = v := by simp [Map.get, hv]
  rw [hget] at hp
  exact List.mem_map.mpr ⟨(k, v), List.mem_filter.mpr ⟨Map.mem_of_find? hv, hp⟩, rfl⟩

/-- The state with tasks killed, before their loads count them (R31). -/
def State.struck (s : State) (ids : List TaskId) : State :=
  { s with
    tasks := s.tasks.mapVals (fun i t => if ids.contains i then t.killed else t)
    strands := s.strands.mapVals (fun i st => if ids.contains i.task then st.killed else st)
    net := s.net.filter (fun a => !(a.stage == .deferred || a.awaits) || !ids.contains a.who.task)
    dies := s.dies.mapVals (fun _ d => d.answer (fun e => match e.task? with | some t => ids.contains t | none => false)) }

/-- The tasks that a kill with a test reaches. -/
def State.doomed (s : State) (p : TaskId → Task → Bool) : List TaskId := s.tasks.keysWhere (fun i t => t.live && p i t)

/-- What a kill leaves, but for the loads that count it. -/
theorem killTasks_keeps {β : Type} (q : State → β) (hq : ∀ x l g, q (State.updLoad x l g) = q x) (s : State) (p : TaskId → Task → Bool) :
    q (s.killTasks p) = q (s.struck (s.doomed p)) :=
  foldl_keeps q (fun x (i : TaskId) => x.updLoad (s.task i).load (fun l => { l with tasksKilled := l.tasksKilled + 1 })) (fun _ _ => hq _ _ _) _ _

theorem uncounted_struck (s : State) (ids : List TaskId) : Uncounted s (s.struck ids) := by
  refine ⟨rfl, fun d => ?_⟩
  show (Map.get (Map.mapVals s.dies _) d {}).fqAccepted = _
  rw [Map.get_mapVals _ _ _ _ rfl]
  rfl

theorem uncounted_killTasks (s : State) (p : TaskId → Task → Bool) : Uncounted s (s.killTasks p) :=
  (uncounted_struck s (s.doomed p)).trans
    (uncounted_of_eq (killTasks_keeps State.mem (fun _ _ _ => rfl) s p) (killTasks_keeps State.dies (fun _ _ _ => rfl) s p))

theorem mem_doomed {s : State} {p : TaskId → Task → Bool} {i : TaskId} (hf : (s.tasks.find? i).isSome = true) (hl : (s.task i).live = true)
    (hp : p i (s.task i) = true) : (s.doomed p).contains i = true := by
  rw [List.contains_iff_mem]
  refine Map.mem_keysWhere (d := {}) hf ?_
  change ((s.task i).live && p i (s.task i)) = true
  rw [hl, hp, Bool.and_self]

/-- A live task that a kill names is killed (R31). -/
theorem task_killTasks {s : State} {p : TaskId → Task → Bool} {i : TaskId} (hf : (s.tasks.find? i).isSome = true) (hl : (s.task i).live = true)
    (hp : p i (s.task i) = true) : (s.killTasks p).task i = (s.task i).killed := by
  rw [killTasks_keeps (fun x => x.task i) (fun _ _ _ => rfl)]
  show Map.get (Map.mapVals s.tasks _) i {} = _
  rw [Map.get_mapVals_listed hf, if_pos (mem_doomed hf hl hp)]
  rfl

/-- A strand of a task that a kill names is Ended (R30). -/
theorem strand_killTasks {s : State} {p : TaskId → Task → Bool} {w : StrandId} (hs : (s.strands.find? w).isSome = true)
    (hf : (s.tasks.find? w.task).isSome = true) (hl : (s.task w.task).live = true) (hp : p w.task (s.task w.task) = true) :
    (s.killTasks p).strand w = (s.strand w).killed := by
  rw [killTasks_keeps (fun x => x.strand w) (fun _ _ _ => rfl)]
  show Map.get (Map.mapVals s.strands _) w {} = _
  rw [Map.get_mapVals_listed hs, if_pos (mem_doomed hf hl hp)]
  rfl

/-! ### Stopping a load -/

theorem foldl_uncounted {α : Type} {f : State → α → State} (h : ∀ s a, Uncounted s (f s a)) (l : List α) (s : State) : Uncounted s (l.foldl f s) := by
  induction l generalizing s with
  | nil => exact Uncounted.refl s
  | cons a l ih => exact (h s a).trans (ih _)

theorem uncounted_raiseEntry (s : State) (die : Nat) (e : FqEntry) : Uncounted s (s.raiseEntry die e) := uncounted_updDie s die (fun _ => rfl)

theorem uncounted_raiseAsync (s : State) (who : StrandId) (code : FaultCode) (loc : Nat) (info : Word64) (detail : Word32) (addr : Word64)
    (retry : Retry) : Uncounted s (s.raiseAsync who code loc info detail addr retry) := by
  have hset : ∀ x, Uncounted s (s.setStrand who x) := fun _ => uncounted_of_eq rfl rfl
  unfold State.raiseAsync
  dsimp only
  split
  · exact Uncounted.refl s
  · exact (hset _).trans (uncounted_raiseEntry _ _ _)
  · exact hset _
  · exact hset _
  · exact (hset _).trans (uncounted_raiseEntry _ _ _)
  · exact (hset _).trans (uncounted_raiseEntry _ _ _)

theorem uncounted_resendPld (s : State) (num : Nat) : Uncounted s (s.resendPld num) := by
  have hnet : ∀ net, Uncounted s { s with net := net } := fun _ => uncounted_of_eq rfl rfl
  unfold State.resendPld
  dsimp only
  split
  · exact Uncounted.refl s
  · split
    · exact (hnet _).trans (uncounted_raiseAsync _ _ _ _ _ _ _ _)
    · exact Uncounted.refl s
    · split
      · exact (hnet _).trans (uncounted_raiseAsync _ _ _ _ _ _ _ _)
      · exact hnet _

theorem uncounted_resendPlds (s : State) (die : Nat) : Uncounted s (s.resendPlds die) := by
  unfold State.resendPlds
  split
  · exact Uncounted.refl s
  · exact foldl_uncounted uncounted_resendPld _ _

theorem uncounted_reopen (s : State) (die queue : Nat) (on : Nat → Bool) : Uncounted s (s.reopen die queue on) := by
  unfold State.reopen
  refine Uncounted.trans ?_ (foldl_uncounted uncounted_resendPlds _ _)
  refine ⟨rfl, fun d => ?_⟩
  show (Map.get (Map.mapVals s.dies _) d {}).fqAccepted = _
  rw [Map.get_mapVals]
  · rfl
  · split <;> rfl

theorem uncounted_dropSaved (s : State) (l : LoadId) : Uncounted s (s.dropSaved l) := by
  unfold State.dropSaved
  dsimp only
  split
  · exact uncounted_of_eq rfl rfl
  · exact uncounted_of_eq rfl rfl

theorem uncounted_endRequest (s : State) (die queue state result : Nat) : Uncounted s (s.endRequest die queue state result) :=
  (uncounted_updDie s die (g := fun d => { d with preempt := none, prState := BitVec.ofNat 8 state, prResult := BitVec.ofNat 8 result })
    (fun _ => rfl)).trans (uncounted_of_eq rfl rfl)

theorem uncounted_abandonSave (s : State) (l : LoadId) : Uncounted s (s.abandonSave l) := by
  unfold State.abandonSave
  extract_lets s1 written
  have hdrop : Uncounted s s1 := by
    show Uncounted s (if (s.load l).status = .saved then s.dropSaved l else s)
    split
    · exact uncounted_dropSaved s l
    · exact Uncounted.refl s
  split
  · next p _ =>
    have hopen : Uncounted s1 (if p.restore then s1 else s1.reopen l.die l.queue (fun _ => true)) := by
      split
      · exact Uncounted.refl s1
      · exact uncounted_reopen s1 _ _ _
    split
    · exact hdrop.trans (hopen.trans ((uncounted_endRequest _ l.die l.queue 0 5).trans (uncounted_of_eq rfl rfl)))
    · exact hdrop
  · exact hdrop

/-- A load whose tasks have been killed keeps its stop. -/
theorem load_killTasks_keeps {β : Type} (q : Load → β) (hq : ∀ x n, q { x with tasksKilled := n } = q x) (s : State) (p : TaskId → Task → Bool)
    (l : LoadId) : q ((s.killTasks p).load l) = q (s.load l) := by
  refine foldl_keeps (fun x : State => q (x.load l)) (fun x (i : TaskId) => x.updLoad (s.task i).load (fun y => { y with tasksKilled := y.tasksKilled + 1 }))
    (fun x i => ?_) (s.doomed p) (s.struck (s.doomed p))
  by_cases h : l = (s.task i).load
  · rw [h, load_updLoad_same, hq]
  · rw [load_updLoad_ne _ _ h]

theorem uncounted_updStrand (s : State) (w : StrandId) (g : Strand → Strand) : Uncounted s (s.updStrand w g) := uncounted_of_eq rfl rfl

theorem uncounted_updLoad (s : State) (l : LoadId) (g : Load → Load) : Uncounted s (s.updLoad l g) := uncounted_of_eq rfl rfl

theorem uncounted_closeLoad (s : State) (l : LoadId) : Uncounted s (s.closeLoad l) :=
  (uncounted_killTasks s _).trans (uncounted_of_eq rfl rfl)

theorem load_closeLoad_keeps {β : Type} (q : Load → β) (hk : ∀ x n, q { x with tasksKilled := n } = q x) (hg : ∀ x g, q { x with grids := g } = q x)
    (s : State) (l : LoadId) : q ((s.closeLoad l).load l) = q (s.load l) := by
  have h : (s.closeLoad l).load l = ((s.killTasks (fun _ t => t.load == l)).updLoad l (fun x =>
    { x with grids := x.grids.map (fun g => { g with next := if g.next < g.count then g.count else g.next }) })).load l := rfl
  rw [h, load_updLoad_same, hg, load_killTasks_keeps q hk]

/-- A load that runs and is not stopping stops, with the record restamped (R386). -/
theorem stopLoad_stops {s : State} {l : LoadId} (hf : (s.load l).status.final = false) (hs : (s.load l).stopping = false) (die tile : Nat) (r : Record) :
    Uncounted s (s.stopLoad l die tile r) ∧ ((s.stopLoad l die tile r).load l).stopping = true ∧
      ((s.stopLoad l die tile r).load l).record = s.restamp ⟨die, tile⟩ r := by
  unfold State.stopLoad
  simp only [hf, hs, Bool.false_eq_true, if_false]
  refine ⟨?_, ?_, ?_⟩
  · exact (uncounted_abandonSave s l).trans ((uncounted_updLoad _ l _).trans ((uncounted_closeLoad _ l).trans (uncounted_raiseEntry _ _ _)))
  · refine (load_closeLoad_keeps Load.stopping (fun _ _ => rfl) (fun _ _ => rfl) _ l).trans ?_
    rw [load_updLoad_same]
  · refine (load_closeLoad_keeps Load.record (fun _ _ => rfl) (fun _ _ => rfl) _ l).trans ?_
    rw [load_updLoad_same]

end Sys2Proof.Machine
end

section
/-! ## Responses settled -/

namespace Sys2Proof.Machine

/-! ### What each action does to a state -/

theorem act_resume {s : State} {die : Nat} {e : FqEntry} {w : StrandId} {f : StrandFault} (he : e.of = .strand w) (h : s.FaultedBy w f)
    (v : Word64) : s.act die e 1 v = .ok (s.resumeStrand w f .point) := by
  unfold State.act
  simp only [he, h.status, h.fault]

theorem act_resumeStack {s : State} {die : Nat} {e : FqEntry} {w : StrandId} {f : StrandFault} (he : e.of = .strand w) (h : s.FaultedBy w f)
    {v : Word64} (hk : stackOk (s.task w.task) (s.strand w).stkbase.toNat v.toNat = true) :
    s.act die e 2 v = .ok ((s.updStrand w (fun st => { st with stklim := v })).resumeStrand w f .point) := by
  unfold State.act
  simp only [he, hk, if_true, strand_updStrand_same, h.status, h.fault]

theorem act_resumeAt {s : State} {die : Nat} {e : FqEntry} {w : StrandId} {f : StrandFault} (he : e.of = .strand w) (h : s.FaultedBy w f)
    {v : Word64} (hv : (s.wordSection w v).isSome = true) : s.act die e 3 v = .ok (s.resumeStrand w f (.at' v)) := by
  have hnone : (s.wordSection w v).isNone = false := by rw [← Option.not_isSome, hv]; rfl
  unfold State.act
  simp only [he, h.status, hnone, h.fault, reduceCtorEq, if_false, Bool.false_eq_true]

theorem act_resumeAt_refused {s : State} {die : Nat} {e : FqEntry} {w : StrandId} {f : StrandFault} (he : e.of = .strand w) (h : s.FaultedBy w f)
    {v : Word64} (hv : s.wordSection w v = none) : s.act die e 3 v = .error 3 := by
  unfold State.act
  simp only [he, h.status, hv, reduceCtorEq, if_false, Option.isNone_none, if_true]

theorem act_kill {s : State} {die : Nat} {e : FqEntry} {w : StrandId} (he : e.of = .strand w) (v : Word64) :
    s.act die e 4 v = .ok (s.killTasks (fun i _ => i == w.task)) := by
  unfold State.act
  simp only [he]

theorem act_stopLoad {s : State} {die : Nat} {e : FqEntry} {w : StrandId} (he : e.of = .strand w) (v : Word64) :
    s.act die e 5 v = .ok (s.stopLoad (s.task w.task).load die e.tile e.record) := by
  unfold State.act
  simp only [he]

/-- A die that no longer freezes a function (R381, R382). -/
def Die.thawed (f : HostFn) (d : Die) : Die := { d with frozen := d.frozen.filter (· ≠ (f.port, f.func)) }

theorem act_continueHost {s : State} {die : Nat} {e : FqEntry} {f : HostFn} (he : e.of = .host f) (v : Word64) :
    s.act die e 6 v = .ok (s.updDie die (Die.thawed f)) := by
  unfold State.act
  simp only [he]
  rfl

theorem act_continueDeadlock {s : State} {die : Nat} {e : FqEntry} {l : LoadId} {ts : List TaskId} (he : e.of = .deadlock l ts) (v : Word64) :
    s.act die e 6 v = .ok s := by
  unfold State.act
  simp only [he]

theorem FaultedBy_responding {s : State} {w : StrandId} {f : StrandFault} (h : s.FaultedBy w f) : s.responding.FaultedBy w f :=
  ⟨h.status, h.fault, h.retry, h.park, h.waiting⟩

/-- The stack limit does not touch how a strand is faulted. -/
theorem FaultedBy_stklim {s : State} {w : StrandId} {f : StrandFault} (h : s.FaultedBy w f) (v : Word64) :
    (s.updStrand w (fun st => { st with stklim := v })).FaultedBy w f := by
  refine ⟨?_, ?_, h.retry, h.park, ?_⟩
  · rw [strand_updStrand_same]; exact h.status
  · rw [strand_updStrand_same]; exact h.fault
  · rw [strand_updStrand_same]; exact h.waiting

/-- The codes of R32 are bytes. -/
theorem FaultCode.num_lt (c : FaultCode) : c.num < 256 := by cases c <;> decide

theorem entrySaved_running {s : State} {e : FqEntry} {w : StrandId} (he : e.of = .strand w) (hs : e.saved = none)
    (hr : (s.task w.task).status = .running) : s.entrySaved e = false := by
  unfold State.entrySaved
  simp only [he, hs, hr]
  rfl

theorem kindAdmits_zero {action : Nat} (h : 1 ≤ action ∧ action ≤ 5) : kindAdmits 0 action = true := by
  unfold kindAdmits
  simp [h]

theorem die_onlyStrands {s t : State} (h : OnlyStrands s t) (d : Nat) : t.die d = s.die d := by
  rw [OnlyStrands] at h
  rw [h]
  rfl

/-- An action on strands alone: what FQSTAT and the open entries say afterwards. -/
theorem OnlyStrands.answered {s t : State} (h : OnlyStrands s t) (die : Nat) (e : FqEntry) :
    ((t.taken die e).die die).fqLast = 0 ∧ ((t.taken die e).die die).fqAccepted = (s.die die).fqAccepted + 1 ∧
      ((t.taken die e).die die).fqOpen = (s.die die).fqOpen.erase e := by
  rw [die_taken, die_onlyStrands h]
  exact ⟨rfl, rfl, rfl⟩

/-- A response refused changes nothing but LAST. -/
theorem answered_refused (s : State) (die k : Nat) :
    ((s.answered die k).die die).fqLast = BitVec.ofNat 2 k ∧ ((s.answered die k).die die).fqOpen = (s.die die).fqOpen ∧
      (s.answered die k).strands = s.strands ∧ (s.answered die k).tasks = s.tasks := by
  rw [die_answered]
  exact ⟨rfl, rfl, rfl, rfl⟩

/-! ### The response register -/

/-- What FQRESP1's write does for a strand's fault, by its action (R380, R381, R394). -/
theorem respond_taken {s t : State} {die : Nat} {e : FqEntry} (h : (s.die die).named = some e)
    (hk : kindAdmits e.kind (fld (s.die die).fqResp0 31 28) = true) (hs : s.entrySaved e = false)
    (ha : s.act die e (fld (s.die die).fqResp0 31 28) (s.die die).fqResp1 = .ok t) : s.respond die = t.taken die e := by
  rw [respond_act h hk hs, ha]

theorem respond_refused {s : State} {die : Nat} {e : FqEntry} {k : Nat} (h : (s.die die).named = some e)
    (hk : kindAdmits e.kind (fld (s.die die).fqResp0 31 28) = true) (hs : s.entrySaved e = false)
    (ha : s.act die e (fld (s.die die).fqResp0 31 28) (s.die die).fqResp1 = .error k) : s.respond die = s.answered die k := by
  rw [respond_act h hk hs, ha]

/-- Settles O54: the response register by the branches of respond, each event by its action through respondWith_taken. -/
theorem responsesToFaults : Obligations.ResponsesToFaults := by
  unfold Obligations.ResponsesToFaults
  refine ⟨?register, fun s e w x => ⟨?resume, ?resumeStack, ?resumeAt, ?kill, ?stop, ?host, ?deadlock⟩⟩
  case register =>
    intro s die who e f
    refine ⟨fun hn => ?_, fun hn hk => ?_, fun hn hk he hs hr hst hf hretry hpark hw _ => ?_⟩
    · rw [respond_unknown hn]
      exact answered_refused s die _
    · rw [respond_inadmissible hn hk]
      exact answered_refused s die _
    · have h : s.FaultedBy who f := ⟨hst, hf, hretry, hpark, hw⟩
      have hsaved := entrySaved_running he hs hr
      refine ⟨fun ha ht hb => ?_, fun ha hc hin hl => ?_, fun ha hin => ?_, fun ha hin => ?_⟩
      · obtain ⟨honly, hstrand⟩ := resumeStrand_point h ht hb
        rw [respond_taken hn (by rw [ha, hk]; rfl) hsaved (by rw [ha]; exact act_resume he h _), strand_taken, hstrand]
        refine ⟨honly.answered die e, rfl, rfl, ?_, rfl, rfl⟩
        exact Nat.mod_eq_of_lt f.code.num_lt
      · obtain ⟨honly, hready, hpc⟩ := resumeStrand_behind h hc hin hl
        rw [respond_taken hn (by rw [ha, hk]; rfl) hsaved (by rw [ha]; exact act_resume he h _), strand_taken]
        exact ⟨honly.answered die e, hready, hpc⟩
      · obtain ⟨honly, hstrand⟩ := resumeStrand_at h (s.die die).fqResp1
        rw [respond_taken hn (by rw [ha, hk]; rfl) hsaved (by rw [ha]; exact act_resumeAt he h hin), strand_taken]
        obtain ⟨hready, _, hpc, _, _⟩ := hstrand _ rfl
        exact ⟨honly.answered die e, hready, hpc⟩
      · rw [respond_refused hn (by rw [ha, hk]; rfl) hsaved (by rw [ha]; exact act_resumeAt_refused he h hin)]
        exact ⟨(answered_refused s die _).1, rfl⟩
  case resume =>
    rintro h ⟨he, hk, hst, hf, hpark, hretry, hw⟩ ht hb
    have hfault := FaultedBy_responding (s := s) ⟨hst, hf, hretry, hpark, hw⟩
    obtain ⟨honly, hstrand⟩ := resumeStrand_point hfault ht hb
    refine ⟨_, congrArg Host.Outcome.next (respondWith_taken h (by rw [hk]; rfl) (act_resume he hfault _)),
      ((uncounted_responding s).trans honly.uncounted).answerTaken e, ?_⟩
    rw [strand_taken, hstrand]
    rfl
  case resumeStack =>
    rintro h ⟨he, hk, hst, hf, hpark, hretry, hw⟩ ht hb hbase hlim hlow hbelow hhigh
    have hfault := FaultedBy_responding (s := s) ⟨hst, hf, hretry, hpark, hw⟩
    have hok : stackOk (s.responding.task w.task) (s.responding.strand w).stkbase.toNat s.event.value2.toNat = true := by
      show stackOk (s.task w.task) (s.strand w).stkbase.toNat s.event.value2.toNat = true
      unfold stackOk
      simp [hbase, hlim, hlow, hbelow, hhigh]
    obtain ⟨honly, hstrand⟩ := resumeStrand_point (FaultedBy_stklim hfault s.event.value2) ht hb
    refine ⟨_, congrArg Host.Outcome.next (respondWith_taken h (by rw [hk]; rfl) (act_resumeStack he hfault hok)),
      ((uncounted_responding s).trans ((uncounted_updStrand _ w _).trans honly.uncounted)).answerTaken e, ?_⟩
    rw [strand_taken, hstrand, strand_updStrand_same]
    rfl
  case resumeAt =>
    rintro h ⟨he, hk, hst, hf, hpark, hretry, hw⟩ hin
    have hfault := FaultedBy_responding (s := s) ⟨hst, hf, hretry, hpark, hw⟩
    have hsection : (s.responding.wordSection w s.event.value2).isSome = true := by
      rw [wordSection_congr (readsAlike_responding s) rfl rfl, hin]
    obtain ⟨honly, hstrand⟩ := resumeStrand_at hfault s.event.value2
    obtain ⟨hready, hnone, hpc, hregs, hcode⟩ := hstrand _ rfl
    refine ⟨_, congrArg Host.Outcome.next (respondWith_taken h (by rw [hk]; rfl) (act_resumeAt he hfault hsection)),
      ((uncounted_responding s).trans honly.uncounted).answerTaken e, ?_⟩
    rw [strand_taken]
    exact ⟨hready, hnone, hpc, hregs, hcode⟩
  case kill =>
    intro h he hk hlive htask hstrand
    have htasks : ((s.responding.killTasks (fun i _ => i == w.task)).taken s.event.die e).task w.task = (s.task w.task).killed := by
      rw [State.task, tasks_taken]
      exact task_killTasks (s := s.responding) htask hlive (beq_self_eq_true _)
    refine ⟨_, congrArg Host.Outcome.next (respondWith_taken h (by rw [hk]; rfl) (act_kill he _)),
      ((uncounted_responding s).trans (uncounted_killTasks _ _)).answerTaken e, ?_⟩
    rw [htasks, strand_taken, strand_killTasks (s := s.responding) hstrand htask hlive (beq_self_eq_true _)]
    exact ⟨rfl, rfl, rfl, rfl⟩
  case stop =>
    intro h he hk hfinal hstopping
    have htask : s.responding.task w.task = s.task w.task := rfl
    have hact := act_stopLoad (s := s.responding) (die := s.event.die) he s.event.value2
    rw [htask] at hact
    obtain ⟨hun, hstop, hrec⟩ := stopLoad_stops (s := s.responding) hfinal hstopping s.event.die e.tile e.record
    refine ⟨_, congrArg Host.Outcome.next (respondWith_taken h (by rw [hk]; rfl) hact), ((uncounted_responding s).trans hun).answerTaken e, ?_⟩
    rw [load_taken (by simp [he]), hstop, hrec]
    exact ⟨rfl, rfl⟩
  case host =>
    intro f h he hk
    refine ⟨_, congrArg Host.Outcome.next (respondWith_taken h (by rw [hk]; rfl) (act_continueHost he _)),
      ((uncounted_responding s).trans (uncounted_updDie _ _ (g := Die.thawed f) (fun _ => rfl))).answerTaken e, ?_, ?_⟩
    · rw [die_taken, die_updDie_same, die_responding]
      rfl
    · rw [tasks_taken]
      rfl
  case deadlock =>
    intro l ts h he hk
    refine ⟨_, congrArg Host.Outcome.next (respondWith_taken h (by rw [hk]; rfl) (act_continueDeadlock he _)),
      (uncounted_responding s).answerTaken e, ?_, ?_⟩
    · rw [tasks_taken]
      rfl
    · rw [strands_taken]
      rfl

end Sys2Proof.Machine
end

section
/-! ## Events of strands, fences and tile caches -/

namespace Sys2Proof.Machine

/-! ### Waking and parking -/

/-- What SUSPEND_WAKE makes of a suspended strand (R22, R91): it goes on at its continuation, with its registers. -/
theorem strand_wake_suspended {s : State} {who : StrandId} {p : Park} (hp : p.counter ≠ none) :
    ∀ x, (s.wake who p).strand who = x →
      x.status = .ready ∧ x.park = none ∧ x.pc = p.cont ∧ x.regs = (s.strand who).regs ∧ x.preds = (s.strand who).preds := by
  rintro x rfl
  unfold State.wake
  simp [hp, State.goTo, Strand.endCombining]

/-- Waking changes strands alone. -/
theorem onlyStrands_wake (s : State) (who : StrandId) (p : Park) : OnlyStrands s (s.wake who p) := by
  unfold State.wake
  split
  · rfl
  · rfl

/-- An auto-parked strand wakes at its held word (R23). -/
theorem wake_parked {s : State} {who : StrandId} {p : Park} (hp : p.counter = none) : s.wake who p = s.setStrand who
    { s.strand who with status := .ready, park := none, heldCount := 0, heldBy := none, cmdqOnly := false } := by
  unfold State.wake
  simp only [hp, if_true]
  rfl

theorem strand_raiseEntry (s : State) (die : Nat) (e : FqEntry) (w : StrandId) : (s.raiseEntry die e).strand w = s.strand w := rfl

/-- A strand that takes a precise fault with no address or resume point of its own stops at the word (R32, R33). -/
theorem strand_raisePrecise (s : State) (who : StrandId) {t : Trap} (a : Word64) (ha : t.addr = none) (hr : t.resume = none) :
    ∃ f, ((s.raisePrecise who t a).strand who).status = .faulted ∧ ((s.raisePrecise who t a).strand who).fault = some f ∧ f.code = t.code ∧
      f.resume = a ∧ f.record.dw1 = a ∧ ((s.raisePrecise who t a).strand who).regs = (s.strand who).regs := by
  unfold State.raisePrecise
  simp only [ha, hr, Option.getD_none, strand_raiseEntry, strand_updStrand_same]
  exact ⟨_, trivial, rfl, rfl, rfl, rfl, trivial⟩

theorem queueDeadlock_plain (s : State) (who : StrandId) (e : Engine) :
    (s.queueDeadlock who e).code = .cmdqDeadlock ∧ (s.queueDeadlock who e).addr = none ∧ (s.queueDeadlock who e).resume = none := by
  unfold State.queueDeadlock
  split
  · exact ⟨rfl, rfl, rfl⟩
  · exact ⟨rfl, rfl, rfl⟩

/-! ### A raise applied -/

theorem getD_listSet_same {α : Type} (l : List α) (k : Nat) (f : α → α) (d : α) (h : k < l.length) : (listSet l k f).getD k d = f (l.getD k d) := by
  induction l generalizing k with
  | nil => exact absurd h (Nat.not_lt_zero _)
  | cons a as ih =>
    cases k with
    | zero => rfl
    | succ k => exact ih k (Nat.lt_of_succ_lt_succ h)

/-- A result delivered to a register (R211, R260). -/
theorem deliver_reg {s : State} {who : StrandId} {dest : Opnd} {i : Nat} (h : scalarIndex dest = some i) (v : Word64) :
    s.deliver who dest v = s.updStrand who (fun st =>
      { st with regs := st.regs.set i (toWidth who.core v.toNat), badRegs := st.badRegs.filter (· ≠ i) }) := by
  unfold State.deliver
  simp only [h]

/-- A load whose grid's COUNT a raise has made the larger value (R211). -/
def Load.raisedBy (l : Load) (r : Raise) : Load :=
  { l with grids := listSet l.grids r.grid (fun x => { x with count := if x.count.toNat < r.value.toNat then r.value else x.count }) }

/-- The state in which a raise has been taken, before its answer is delivered. -/
def State.raiseTaken (s : State) (r : Raise) : State :=
  { s.updLoad r.load (fun l => l.raisedBy r) with raises := s.raises.filter (fun x => x.num ≠ r.num) }

theorem eventGraiseApply_eq {s : State} {r : Raise} (hr : s.raises.find? (fun r => r.num == s.event.access) = some r) :
    eventGraiseApply s = (s.raiseTaken r).deliver r.who r.dest (((s.load r.load).grids.getD r.grid {}).count.zeroExtend 64) := by
  unfold eventGraiseApply
  simp only [hr]
  rfl

theorem load_raiseTaken (s : State) (r : Raise) : (s.raiseTaken r).load r.load = (s.load r.load).raisedBy r := load_updLoad_same s r.load (fun l => l.raisedBy r)

/-! ### Fences -/

/-- A fence that orders nothing still under way is met (R261). -/
theorem fenceMet_fence {s : State} {who : StrandId} {f : FenceWait} (hl : f.lfence = false) (hp : s.parkedBefore who f = false)
    (h : ∀ a ∈ s.net, a.who = who → a.left = none → f.before ≤ a.num) : s.fenceMet who f = true := by
  unfold State.fenceMet
  rw [hp, hl]
  simp only [Bool.false_and, Bool.or_false, Bool.not_false, Bool.or_true, Bool.and_true, List.all_eq_true]
  intro a ha
  by_cases hw : a.who = who
  · cases hleft : a.left with
    | none => simpa [hw] using h a ha hw hleft
    | some x => simp
  · simp [hw]

/-- A load fence is met when every store that it orders has been performed (R251). -/
theorem fenceMet_lfence {s : State} {who : StrandId} {f : FenceWait} (hl : f.lfence = true)
    (h : ∀ a ∈ s.net, a.who = who → a.left = none →
      f.before ≤ a.num ∨ a.stage = .done ∨ a.kind = .ldg ∨ a.kind = .ldc ∨ a.kind = .pld ∨ a.kind = .pref) : s.fenceMet who f = true := by
  unfold State.fenceMet
  rw [hl]
  simp only [Bool.true_and, Bool.true_or, Bool.and_true, List.all_eq_true]
  intro a ha
  by_cases hw : a.who = who
  · cases hleft : a.left with
    | none =>
      rcases h a ha hw hleft with hb | hd | hk | hk | hk | hk
      · simp [Nat.not_lt.mpr hb]
      · simp [hd]
      all_goals rw [hk]; simp [AccessKind.storesData]
    | some x => simp
  · simp [hw]

/-- A fence of a strand ended, or met where its word waits for it, with its push handed to the end of the cycle (R16, R251, R261). -/
def State.fenceEnded (s : State) (who : StrandId) (k : Nat) (f : FenceWait) : State :=
  (s.updStrand who (fun st =>
    { st with fences := if f.own = some st.pc then listSet st.fences k (fun x => { x with met := true }) else st.fences.eraseIdx k })).pushTokens
      who.task f.pushes

theorem eventFenceRetire_met {s : State} {f : FenceWait} (hf : (s.strand s.event.who).fences[s.event.index]? = some f)
    (hm : s.fenceMet s.event.who f = true) (hs : (s.strand s.event.who).status ≠ .saved) :
    eventFenceRetire s = if f.lfence then (s.fenceEnded s.event.who s.event.index f).updTile s.event.who.tileId
      (fun t => { t with lcache := t.lcache.filter (fun e => e.load ≠ (s.task s.event.who.task).load) })
      else s.fenceEnded s.event.who s.event.index f := by
  unfold eventFenceRetire State.fenceEnded
  simp only [hf, hm, true_and, if_pos hs]

/-! ### Walks and records -/

/-- A translation that the cache neither holds nor lacks room for enters it (R240). -/
theorem install_new {s : State} {t : TileId} {e : TransEntry} (hn : ∀ x ∈ (s.tile t).tcache, x.covers e.domain e.block = false)
    (hl : (s.tile t).tcache.length < cacheEntries) (evict : Nat) :
    s.install t e evict = some (s.updTile t (fun x => { x with tcache := (s.tile t).tcache ++ [e] })) := by
  have hany : (s.tile t).tcache.any (fun x => x.covers e.domain e.block) = false := by
    rw [List.any_eq_false]
    exact fun x hx => by rw [hn x hx]; exact Bool.false_ne_true
  unfold State.install
  simp only [hany, Bool.false_eq_true, if_false, if_pos hl]

/-- A record of a running load that its tile does not hold is read from memory into the tile's cache (R249, R250). -/
theorem eventRecordFill_fills {s : State} {p : Part} {t : TileId} {l : Load} {va : Nat} (ht : t = s.event.who.tileId) (hl : l = s.load s.event.load)
    (hva : va = l.lrtab.toNat + 64 * s.event.handle) (hopen : l.status = .running ∧ l.stopping = false ∧ s.event.handle < l.lrcount)
    (hph : (s.die t.die).phase = 0) (hin : ∃ x ∈ l.tiles, x.tile = t) (hnone : (s.tile t).layout s.event.load s.event.handle = none)
    (hp : l.lrparts.find? (fun p => p.block == va / 65536) = some p) (hup : s.pathUp t.die (leafPa p.leaf p.level va) = true)
    (hd : s.isDamaged (leafPa p.leaf p.level va) 64 = false) :
    eventRecordFill s = s.updTile t (fun x => { x with lcache := x.lcache ++
      [{ load := s.event.load, handle := s.event.handle, dws := toDwords (s.readPa (leafPa p.leaf p.level va) 64 (leafKey p.leaf)) }] }) := by
  obtain ⟨hrun, hstop, hlt⟩ := hopen
  obtain ⟨x, hx, htile⟩ := hin
  have hany : l.tiles.any (fun x => x.tile == t) = true := List.any_eq_true.mpr ⟨x, hx, beq_iff_eq.mpr htile⟩
  subst ht hl hva
  unfold eventRecordFill
  dsimp only
  rw [if_pos ⟨hrun, hstop, hlt, hph, hany, by rw [hnone]; rfl⟩]
  simp only [hp, hup, hd, Bool.true_eq_false, Bool.false_eq_true, if_false]

/-- Settles O42: each event by the branch of its definition that the premises choose. -/
theorem strandAndFenceEvents : Obligations.StrandAndFenceEvents := by
  unfold Obligations.StrandAndFenceEvents
  refine ⟨fun s => ⟨?wake, ?park, ?deadlock, ?autoWake, ?raise⟩, fun s => ⟨?fence, ?lfence, ?walk, ?walkFails, ?fill⟩⟩
  case wake =>
    intro p n hp hn hw hst
    have hcounter : p.counter ≠ none := by rw [hn]; exact Option.some_ne_none n
    have hevent : exec .suspendWake s = .next (s.wake s.event.who p) := by
      show Host.Outcome.next (eventSuspendWake s) = _
      unfold eventSuspendWake
      simp only [hp, hst, hn, hw, Option.isSome_some, and_self, if_true]
    obtain ⟨hready, hpark, hpc, hregs, hpreds⟩ := strand_wake_suspended (s := s) (who := s.event.who) hcounter _ rfl
    refine ⟨_, hevent, hready, hpark, hpc, hregs, hpreds, ?_, ?_, ?_⟩ <;> rw [onlyStrands_wake s s.event.who p]
  case park =>
    intro h hh hst hc hq
    show Host.Outcome.next (eventAutoPark s) = _
    unfold eventAutoPark
    simp only [hh, hst, true_and, if_pos (show Config.parkAfter < _ from hc), hq]
  case deadlock =>
    intro e hh hst hc hq
    obtain ⟨hcode, haddr, hresume⟩ := queueDeadlock_plain s s.event.who e
    obtain ⟨f, hstatus, hfault, hfcode, hfres, hdw1, hregs⟩ := strand_raisePrecise s s.event.who (s.strand s.event.who).pc haddr hresume
    refine ⟨_, f, ?_, hstatus, hfault, hfcode.trans hcode, hfres, hdw1, hregs, rfl⟩
    show Host.Outcome.next (eventAutoPark s) = _
    unfold eventAutoPark
    simp only [hh, hst, true_and, if_pos (show Config.parkAfter < _ from hc), hq]
  case autoWake =>
    rintro p hp hn hst ⟨c, hc, hne⟩
    have hany : p.causes.any (fun c => s.causeKey s.event.who c.1 != c.2) = true := List.any_eq_true.mpr ⟨c, hc, bne_iff_ne.mpr hne⟩
    show Host.Outcome.next (eventAutoParkWake s) = _
    unfold eventAutoParkWake
    simp only [hp, hst, hn, hany, and_self, if_true]
    rw [wake_parked hn]
  case raise =>
    intro r i hr hi
    refine ⟨_, congrArg Host.Outcome.next ((eventGraiseApply_eq hr).trans (deliver_reg hi _)), rfl, fun hg => ?_, ?_, fun j hj => ?_, rfl, rfl, rfl⟩
    · rw [load_updStrand, load_raiseTaken]
      exact congrArg Grid.count (getD_listSet_same _ _ _ _ hg)
    · rw [strand_updStrand_same]
      simp only [Map.get_set_same, BitVec.toNat_setWidth]
      rw [Nat.mod_eq_of_lt (lt_of_lt_of_le (BitVec.isLt _) (by decide))]
    · rw [strand_updStrand_same]
      exact Map.get_set_ne _ _ _ hj
  case fence =>
    intro f hf hs hl hp h
    have hm := fenceMet_fence hl hp h
    show Host.Outcome.next (eventFenceRetire s) = _
    rw [eventFenceRetire_met hf hm hs, hl]
    rfl
  case lfence =>
    intro f hf hs hl h
    have hm := fenceMet_lfence hl h
    show Host.Outcome.next (eventFenceRetire s) = _
    rw [eventFenceRetire_met hf hm hs, hl]
    rfl
  case walk =>
    intro b leaf lvl hb hph hup hok hnew hroom
    show Host.Outcome.next (eventWalkComplete s) = _
    unfold eventWalkComplete
    simp only [hb, hph, hup, hok, ne_eq, not_true_eq_false, Bool.true_eq_false, or_self, if_false]
    rw [install_new hnew hroom]
  case walkFails =>
    intro b f hb hph hup herr
    show Host.Outcome.next (eventWalkComplete s) = _
    unfold eventWalkComplete
    simp only [hb, hph, hup, herr, ne_eq, not_true_eq_false, Bool.true_eq_false, or_self, if_false]
  case fill =>
    intro l va p hrun hstop hlt hph hin hnone hp hup hd
    exact congrArg Host.Outcome.next (eventRecordFill_fills rfl rfl rfl ⟨hrun, hstop, hlt⟩ hph hin hnone hp hup hd)

end Sys2Proof.Machine
end

section
/-! ## A copy under a key of the wrong length -/

namespace Sys2Proof.Machine

/-- A copy of byte 0 of tile 0's memory to byte 64, started on Moraine and with nothing of it done. -/
def byteCopy : Command :=
  { seq := 0, addr := 0, started := true, va := 0, vd := 64, vb := 1
    instr := .mcpy { fmt := 0, mod := 3, g0 := 0, g1 := 0, pop := 0, push := 0, hint := 0, dual := false, yld := false
                     d := .reg 0, a := .reg 0, b := .reg 0, c := .reg 0, e := 0 } }

/-- A state in which the granule of the copy's source was last written under key slot 1 of its die, and that slot holds no byte of a
key: what it reads as has then no byte either (R245). The byte at the destination is 7. -/
def emptyKeyState : State :=
  { State.reset with
    tasks := ⟨[(⟨0, 0, 0⟩, { status := .running, moraine := { queue := [byteCopy] } })]⟩
    dies := ⟨[(0, { pwrtile := 1, keys := ⟨[(1, [])]⟩ })]⟩
    keytag := ⟨[(granuleOf (tilePa ⟨0, 0⟩ 0), 1)]⟩
    mem := [(tilePa ⟨0, 0⟩ 64, 7)] }

/-- The copy writes a byte of zero: a byte that a unit reads and that is not there counts as zero. -/
theorem mem_byteCopy : (eventMoraineComplete emptyKeyState).mem = [] := by decide +kernel

/-- The read of the source returns no byte. -/
theorem readPa_emptyKey : emptyKeyState.readPa (tilePa ⟨0, 0⟩ 0) 1 0 = [] := by decide +kernel

/-- Refutes O45, in its clause on MCPY: `readPa` of n bytes returns fewer when the granule was written under a key slot whose bytes are not the
64 of a key, which the statement does not exclude. Of a slot with none it returns no byte, so that the memory the statement names keeps the 7
at the destination, where the copy has written zero. -/
theorem not_enginesWork : ¬ Obligations.EnginesWork := by
  unfold Obligations.EnginesWork
  intro h
  obtain ⟨_, hcomplete, _⟩ := h.2 emptyKeyState byteCopy
  obtain ⟨_, _, _, hcopy⟩ := hcomplete (by decide +kernel) rfl (by decide +kernel) (by decide +kernel)
  obtain ⟨t, hexec, _, hmem⟩ := hcopy byteCopy.word 1 rfl rfl (by decide) (by decide) rfl rfl rfl (by decide) (by decide) (by decide) (by decide)
    ⟨0, 64, by decide +kernel⟩ ⟨0, 0, by decide +kernel⟩ (by decide +kernel) (by decide +kernel) (by decide +kernel)
  have ht : t = eventMoraineComplete emptyKeyState := (Host.Outcome.next.inj hexec).symm
  rw [ht, mem_byteCopy] at hmem
  have hkept : (emptyKeyState.writePa (tilePa ⟨0, 0⟩ 64) (emptyKeyState.readPa (tilePa ⟨0, 0⟩ 0) 1 0) 0).mem = emptyKeyState.mem := by
    rw [readPa_emptyKey]
    decide +kernel
  exact absurd (hmem.trans hkept) (by decide +kernel)

end Sys2Proof.Machine
end

section
/-! ## Words and their bits -/

namespace Sys2Proof

/-! ### Fields and bytes -/

/-- A bit of a word as a field of width one. -/
theorem ofBool_getLsbD {n : Nat} (v : BitVec n) (k : Nat) : BitVec.ofBool (v.getLsbD k) = v.extractLsb' k 1 := by
  ext i hi
  obtain rfl : i = 0 := by omega
  simp [BitVec.getLsbD]

/-- Each form of R39 keeps the bits that select it: bit 10 and, when it is set, bits 9 and 8. -/
@[simp] theorem encodeOpnd_decodeOpnd (v : BitVec 11) : encodeOpnd (decodeOpnd v) = v := by
  unfold decodeOpnd
  cases htop : v.getLsbD 10 with
  | false =>
    have hzero : v.extractLsb' 10 1 = 0#1 := by rw [← ofBool_getLsbD, htop]; rfl
    show 0#1 ++ v.extractLsb' 0 10 = v
    rw [← hzero]
    exact BitVec.extractLsb'_append_extractLsb'
  | true =>
    have hone : v.extractLsb' 10 1 = 1#1 := by rw [← ofBool_getLsbD, htop]; rfl
    have hform : ∀ x, v.extractLsb' 8 2 = x → 1#1 ++ (x ++ v.extractLsb' 0 8) = v := by
      rintro _ rfl
      rw [← hone]
      simp (disch := decide) only [BitVec.extractLsb'_append_extractLsb'_eq_extractLsb']
      exact BitVec.extractLsb'_eq_self
    rw [if_neg (by decide)]
    split
    · next h => exact hform _ h
    split
    · next h => exact hform _ h
    split
    · next h =>
      have hscalar : v.extractLsb' 6 2 ++ v.extractLsb' 0 6 = v.extractLsb' 0 8 :=
        BitVec.extractLsb'_append_extractLsb'_eq_extractLsb' rfl
      exact (congrArg (fun x => 1#1 ++ (2#2 ++ x)) hscalar).trans (hform _ h)
    · next h0 h1 h2 =>
      have hthree : ∀ x : BitVec 2, x ≠ 0 → x ≠ 1 → x ≠ 2 → x = 3 := by decide
      exact hform _ (hthree _ h0 h1 h2)

@[simp] theorem decodeOpnd_encodeOpnd (o : Opnd) : decodeOpnd (encodeOpnd o) = o := by
  cases o <;> simp only [encodeOpnd, decodeOpnd, BitVec.getLsbD_append, BitVec.extractLsb'_append_eq_ite] <;> simp

@[simp] theorem decodeFields_encodeFields (w : Fields) : decodeFields (encodeFields w) = w := by
  unfold decodeFields encodeFields
  simp only [BitVec.getLsbD_append, BitVec.extractLsb'_append_eq_ite]
  simp

@[simp] theorem encodeFields_decodeFields (v : BitVec 88) : encodeFields (decodeFields v) = v := by
  unfold encodeFields decodeFields
  simp (disch := decide) only [encodeOpnd_decodeOpnd, ofBool_getLsbD, BitVec.extractLsb'_append_extractLsb'_eq_extractLsb']
  exact BitVec.extractLsb'_eq_self

@[simp] theorem decodeTarget_encodeTarget (t : Target) : decodeTarget (encodeTarget t) = t := by
  unfold decodeTarget encodeTarget
  simp only [BitVec.getLsbD_append, BitVec.extractLsb'_append_eq_ite]
  simp

@[simp] theorem decodeElemWord_encodeElemWord (w : ElemWord) : decodeElemWord (encodeElemWord w) = w := by
  unfold decodeElemWord encodeElemWord
  simp only [BitVec.extractLsb'_append_eq_ite]
  simp

theorem bytesToNat_natToBytes (n v : Nat) : bytesToNat (natToBytes n v) = v % 256 ^ n := by
  induction n generalizing v with
  | zero => simp [natToBytes, bytesToNat, Nat.mod_one]
  | succ n ih =>
    rw [natToBytes, bytesToNat, ih, Nat.pow_succ', Nat.mod_mul]
    rfl

theorem bytesToNat_natToBytes_toNat {n : Nat} (v : BitVec (8 * n)) : bytesToNat (natToBytes n v.toNat) = v.toNat := by
  rw [bytesToNat_natToBytes]
  exact Nat.mod_eq_of_lt (by simpa only [Nat.pow_mul] using v.isLt)

@[simp] theorem length_natToBytes (n v : Nat) : (natToBytes n v).length = n := by
  induction n generalizing v with
  | zero => rfl
  | succ n ih => simp [natToBytes, ih]

/-! ### Opcodes -/

/-- The instructions of a row of sixteen opcodes, taken by the low four bits, stand for the opcodes of that row. -/
def IsOpcodeRow (row : Nat) (f : Nat → Fields → Instr) : Prop :=
  ∀ low < 16, ∀ w, (f low w).strandWord = some (BitVec.ofNat 8 (16 * row + low), w)

/-- FABS and FNEG share an opcode, which MOD parts (R84). -/
theorem isOpcodeRow_scalarC : IsOpcodeRow 2 opScalarC := by
  intro low hlow w
  obtain hbelow | rfl | rfl : low < 14 ∨ low = 14 ∨ low = 15 := by omega
  · interval_cases low <;> rfl
  · show (if w.mod = 1#3 then Instr.fneg w else .fabs w).strandWord = _
    split <;> rfl
  · rfl

theorem isOpcodeRow_scalar : IsOpcodeRow 0 opScalarA ∧ IsOpcodeRow 1 opScalarB ∧ IsOpcodeRow 3 opScalarD := by
  refine ⟨?_, ?_, ?_⟩ <;> intro low h w <;> interval_cases low <;> rfl

theorem isOpcodeRow_control : IsOpcodeRow 4 opControlA ∧ IsOpcodeRow 5 opControlB := by
  refine ⟨?_, ?_⟩ <;> intro low h w <;> interval_cases low <;> rfl

theorem isOpcodeRow_global : IsOpcodeRow 6 opGlobalA ∧ IsOpcodeRow 7 opGlobalB := by
  refine ⟨?_, ?_⟩ <;> intro low h w <;> interval_cases low <;> rfl

theorem isOpcodeRow_vector : IsOpcodeRow 8 opVectorA ∧ IsOpcodeRow 9 opVectorB ∧ IsOpcodeRow 10 opVectorC := by
  refine ⟨?_, ?_, ?_⟩ <;> intro low h w <;> interval_cases low <;> rfl

theorem isOpcodeRow_engines : IsOpcodeRow 12 opSerac ∧ IsOpcodeRow 13 opMoraine := by
  refine ⟨?_, ?_⟩ <;> intro low h w <;> interval_cases low <;> rfl

theorem isOpcodeRow_ports : IsOpcodeRow 14 opPort ∧ IsOpcodeRow 15 opSystem := by
  refine ⟨?_, ?_⟩ <;> intro low h w <;> interval_cases low <;> rfl

theorem IsOpcodeRow.strandWord {row : Nat} {f : Nat → Fields → Instr} (h : IsOpcodeRow row f) {op : BitVec 8} (hrow : op.toNat / 16 = row)
    (w : Fields) : (f (op.toNat % 16) w).strandWord = some (op, w) := by
  rw [h _ (Nat.mod_lt _ (by decide)), ← hrow, Nat.div_add_mod, BitVec.ofNat_toNat, BitVec.setWidth_eq]

/-- The instruction of an opcode stands for that opcode (R48 to R55). -/
theorem strandWord_ofOpcode (op : BitVec 8) (w : Fields) : (ofOpcode op w).strandWord = some (op, w) := by
  obtain ⟨scalarA, scalarB, scalarD⟩ := isOpcodeRow_scalar
  obtain ⟨controlA, controlB⟩ := isOpcodeRow_control
  obtain ⟨globalA, globalB⟩ := isOpcodeRow_global
  obtain ⟨vectorA, vectorB, vectorC⟩ := isOpcodeRow_vector
  obtain ⟨serac, moraine⟩ := isOpcodeRow_engines
  obtain ⟨ports, system⟩ := isOpcodeRow_ports
  have hrow : op.toNat / 16 < 16 := Nat.div_lt_of_lt_mul op.isLt
  unfold ofOpcode
  generalize h : op.toNat / 16 = row at hrow
  interval_cases row
  · exact scalarA.strandWord h w
  · exact scalarB.strandWord h w
  · exact isOpcodeRow_scalarC.strandWord h w
  · exact scalarD.strandWord h w
  · exact controlA.strandWord h w
  · exact controlB.strandWord h w
  · exact globalA.strandWord h w
  · exact globalB.strandWord h w
  · exact vectorA.strandWord h w
  · exact vectorB.strandWord h w
  · exact vectorC.strandWord h w
  · rfl
  · exact serac.strandWord h w
  · exact moraine.strandWord h w
  · exact ports.strandWord h w
  · exact system.strandWord h w

/-- No instruction but the one that faults stands for an opcode that R48 leaves unassigned. -/
theorem eq_unassigned_of_strandWord {i : Instr} {op : BitVec 8} {w : Fields} (hi : i.strandWord = some (op, w))
    (hu : unassignedOpcode op = true) : i = .unassigned op w := by
  cases i
  case unassigned code x =>
    cases hi
    rfl
  all_goals cases hi <;> exact absurd hu (by decide)

theorem ofOpcode_unassigned {op : BitVec 8} (h : unassignedOpcode op = true) (w : Fields) : ofOpcode op w = .unassigned op w :=
  eq_unassigned_of_strandWord (strandWord_ofOpcode op w) h

/-- A well-formed instruction is the one that its opcode and fields give: FABS and FNEG by MOD, UNASSIGNED by R48. -/
theorem ofOpcode_of_strandWord {i : Instr} {op : BitVec 8} {w : Fields} (hi : i.strandWord = some (op, w)) (hw : i.wf = true) :
    ofOpcode op w = i := by
  cases i
  case unassigned code x =>
    cases hi
    exact ofOpcode_unassigned (Bool.and_eq_true_iff.mp hw).1 w
  case fabs x =>
    cases hi
    exact if_neg (bne_iff_ne.mp (Bool.and_eq_true_iff.mp hw).1)
  case fneg x =>
    cases hi
    exact if_pos (beq_iff_eq.mp (Bool.and_eq_true_iff.mp hw).1)
  all_goals cases hi <;> rfl

/-- The element that an OPN names is the instruction that has it (R357). -/
theorem ofOpn_of_elementWord {i : Instr} {opn : BitVec 6} {w : ElemWord} (hi : i.elementWord = some (opn, w)) : ofOpn opn.toNat w = .ok i := by
  cases i
  all_goals cases hi <;> rfl

/-! ### Words -/

theorem decodeStrand_encodeStrand (op : BitVec 8) (w : Fields) : decodeStrand (encodeStrand op w) = ofOpcode op w := by
  unfold decodeStrand encodeStrand
  rw [BitVec.extractLsb'_append_eq_left, BitVec.extractLsb'_append_eq_right, decodeFields_encodeFields]

theorem decodeElement_encodeElement (opn : BitVec 6) (w : ElemWord) : decodeElement (encodeElement opn w) = ofOpn opn.toNat w := by
  unfold decodeElement encodeElement
  rw [BitVec.extractLsb'_append_eq_left, BitVec.extractLsb'_append_eq_right, decodeElemWord_encodeElemWord]

theorem decode_twelve {bs : List Byte} (h : bs.length = 12) : decode bs = .ok (decodeStrand (BitVec.ofNat 96 (bytesToNat bs))) := if_pos h

theorem decode_eight {bs : List Byte} (h : bs.length = 8) : decode bs = decodeElement (BitVec.ofNat 64 (bytesToNat bs)) := by
  unfold decode
  rw [h]
  rfl

theorem decode_natToBytes_strand (v : Word96) : decode (natToBytes 12 v.toNat) = .ok (decodeStrand v) := by
  rw [decode_twelve (length_natToBytes _ _), bytesToNat_natToBytes_toNat (n := 12) v, BitVec.ofNat_toNat, BitVec.setWidth_eq]

theorem decode_natToBytes_element (v : Word64) : decode (natToBytes 8 v.toNat) = decodeElement v := by
  rw [decode_eight (length_natToBytes _ _), bytesToNat_natToBytes_toNat (n := 8) v, BitVec.ofNat_toNat, BitVec.setWidth_eq]

/-- Settles O1: bytes to bits, bits to fields, fields to the instruction. -/
theorem decodeOfEncode : Obligations.DecodeOfEncode := by
  unfold Obligations.DecodeOfEncode
  intro i bs hwf henc
  unfold encode at henc
  split at henc
  · next op w hs =>
    cases henc
    rw [decode_natToBytes_strand, decodeStrand_encodeStrand, ofOpcode_of_strandWord hs hwf]
  · split at henc
    · next opn w he =>
      cases henc
      rw [decode_natToBytes_element, decodeElement_encodeElement, ofOpn_of_elementWord he]
    · cases henc

theorem encodeStrand_decodeStrand (v : Word96) : encodeStrand (v.extractLsb' 88 8) (decodeFields (v.extractLsb' 0 88)) = v := by
  unfold encodeStrand
  rw [encodeFields_decodeFields]
  exact BitVec.extractLsb'_append_extractLsb'

/-- Settles O2: the instruction of an opcode stands for that opcode, and each operand for the 11 bits it was read from. -/
theorem encodeOfDecode : Obligations.EncodeOfDecode := by
  unfold Obligations.EncodeOfDecode
  exact fun v => ⟨_, _, strandWord_ofOpcode _ _, encodeStrand_decodeStrand v⟩

/-! ### Words that name nothing -/

theorem ofOpn_reserved {n : Nat} (h : n ∈ [6, 7, 23, 29, 30, 31] ∨ (35 ≤ n ∧ n < 64 ∧ n ≠ 62)) (w : ElemWord) :
    ofOpn n w = .error .reservedElement := by
  obtain h | ⟨hlo, hhi⟩ | rfl : n ∈ [6, 7, 23, 29, 30, 31] ∨ (35 ≤ n ∧ n < 62) ∨ n = 63 := h.imp_right (fun h => by omega)
  · simp only [List.mem_cons, List.not_mem_nil, or_false] at h
    rcases h with rfl | rfl | rfl | rfl | rfl | rfl <;> rfl
  · interval_cases n <;> rfl
  · rfl

/-- Settles O3: the words by computation, unassigned opcodes and reserved OPNs by their kinds. -/
theorem decodedWords : Obligations.DecodedWords := by
  unfold Obligations.DecodedWords
  refine ⟨⟨rfl, rfl, rfl, rfl, rfl, rfl, rfl⟩, ?unassigned, ?empty, ?data, ?reserved⟩
  case unassigned => exact fun op w h => (decodeStrand_encodeStrand op w).trans (ofOpcode_unassigned h w)
  case empty =>
    intro v h
    unfold decodeElement
    rw [h]
    rfl
  case data =>
    intro v h
    unfold decodeElement
    rw [h]
    rfl
  case reserved =>
    intro v h
    refine ofOpn_reserved (h.imp (fun hm => ?_) (fun hr => ⟨hr.1, BitVec.isLt _, fun hne => hr.2 (BitVec.eq_of_toNat_eq hne)⟩)) _
    exact List.mem_map_of_mem (f := BitVec.toNat) hm

end Sys2Proof
end

section
/-! ## Words that the checks refuse -/

namespace Sys2Proof.Machine

/-! ### The traps of the checks -/

/-- A trap that names its own word: no address and no resume point of its own, and a WHERE that fits its field. -/
structure Trap.AtWord (x : Trap) : Prop where
  addr : x.addr = none
  resume : x.resume = none
  loc : x.loc < 256

/-- The WHERE of every check that a form adds fits its field. -/
theorem extra_loc_lt (c : CoreId) (i : Instr) : ∀ r ∈ (formOf c i).extra, r.1 < 256 := by
  cases i <;> simp [formOf]

theorem addressRefusals_loc_lt (f : Form) (w : Fields) : ∀ r ∈ addressRefusals f w, r.1 < 256 := by
  unfold addressRefusals
  dsimp only
  split <;> simp

theorem refusals_loc_lt (c : CoreId) (i : Instr) (w : Fields) (stage : Bool) : ∀ r ∈ refusals c (formOf c i) w stage, r.1 < 256 := by
  intro r hr
  unfold refusals at hr
  simp only [List.mem_append] at hr
  obtain ((hr | hr) | hr) | hr := hr
  · simp only [List.mem_cons, List.not_mem_nil, or_false] at hr
    rcases hr with rfl | rfl | rfl | rfl | rfl | rfl | rfl | rfl <;> simp
  · exact addressRefusals_loc_lt _ _ r hr
  · exact extra_loc_lt c i r hr
  · simp only [List.mem_cons, List.not_mem_nil, or_false] at hr
    rcases hr with rfl | rfl <;> simp

theorem illegal_atWord (op : BitVec 8) (w : Fields) {loc : Nat} (h : loc < 256) (code : FaultCode) : (illegal op w loc code).AtWord := ⟨rfl, rfl, h⟩
theorem regLimit_atWord {loc : Nat} (h : loc < 256) (index cls : Nat) : (regLimit loc index cls).AtWord := ⟨rfl, rfl, h⟩
theorem evLimit_atWord (t : Task) {loc : Nat} (h : loc < 256) (index : Nat) : (evLimit t loc index).AtWord := ⟨rfl, rfl, h⟩

theorem specialDest_loc_lt {f : Form} {w : Fields} {c : BitVec 8 × Nat} (h : f.specialDest w = some c) : c.2 < 256 := by
  unfold Form.specialDest at h
  dsimp only at h
  split at h
  · cases h; simp
  · obtain ⟨_, _, rfl⟩ := Option.map_eq_some_iff.mp h
    simp

theorem privilegeTrap_atWord {op : BitVec 8} {f : Form} {w : Fields} {priv : Bool} {x : Trap} (h : privilegeTrap op f w priv = some x) :
    x.AtWord := by
  unfold privilegeTrap at h
  split at h
  · cases h; exact illegal_atWord _ _ (by decide) _
  · split at h
    · next hsys =>
      cases h
      unfold systemTrap at hsys
      dsimp only at hsys
      split at hsys
      · cases hsys; exact ⟨rfl, rfl, by simp⟩
      · cases hsys
    · obtain ⟨c, hc, rfl⟩ := Option.map_eq_some_iff.mp h
      have hloc := specialDest_loc_lt hc
      split
      · exact ⟨rfl, rfl, hloc⟩
      · exact illegal_atWord _ _ hloc _

theorem atWord_of_ite {p : Prop} [Decidable p] {x y : Trap} (hy : y.AtWord) (h : (if p then none else some y) = some x) : x.AtWord := by
  rw [Option.ite_none_left_eq_some] at h
  cases h.2
  exact hy

theorem portLimit_atWord {t : Task} {loc : Nat} (hl : loc < 256) {out : Bool} {n : Nat} {x : Trap} (h : portLimit t loc out n = some x) :
    x.AtWord := by
  unfold portLimit at h
  split at h
  · exact atWord_of_ite (regLimit_atWord hl n 6) h
  · exact atWord_of_ite (regLimit_atWord hl n 5) h

theorem operandLimit_atWord {m : Mark} {c : CoreId} {t : Task} {loc : Nat} (hl : loc < 256) {o : Opnd} {stage : Bool} {x : Trap}
    (h : operandLimit m c t loc o stage = some x) : x.AtWord := by
  unfold operandLimit at h
  dsimp only at h
  split at h
  case h_6 => exact atWord_of_ite (evLimit_atWord t hl _) h
  case h_7 => exact portLimit_atWord hl h
  case h_8 => exact portLimit_atWord hl h
  case h_9 => exact portLimit_atWord hl h
  case h_10 =>
    split at h
    · exact atWord_of_ite (regLimit_atWord hl _ _) h
    · cases h
  all_goals exact atWord_of_ite (regLimit_atWord hl _ _) h

theorem fieldLimit_atWord {m : EMark} {t : Task} {e : BitVec 14} {x : Trap} (h : fieldLimit m t e = some x) : x.AtWord := by
  unfold fieldLimit at h
  dsimp only at h
  split at h
  · rw [← ite_not] at h
    exact atWord_of_ite (regLimit_atWord (by decide) _ _) h
  · exact portLimit_atWord (by decide) h
  · rw [← ite_not] at h
    exact atWord_of_ite (evLimit_atWord t (by decide) _) h
  · rw [← ite_not] at h
    exact atWord_of_ite (evLimit_atWord t (by decide) _) h
  · cases h

theorem mem_of_firstTrap {l : List (Option Trap)} {x : Trap} (h : firstTrap l = some x) : some x ∈ l := by
  induction l with
  | nil => cases h
  | cons o os ih =>
    cases o with
    | some y => cases h; exact List.mem_cons_self
    | none => exact List.mem_cons_of_mem _ (ih h)

theorem limitTrap_atWord {c : CoreId} {t : Task} {f : Form} {w : Fields} {stage : Bool} {x : Trap} (h : limitTrap c t f w stage = some x) :
    x.AtWord := by
  have hmem := mem_of_firstTrap h
  simp only [List.mem_cons, List.not_mem_nil, or_false] at hmem
  obtain h | h | h | h | h := hmem
  · exact operandLimit_atWord (by decide) h.symm
  · exact operandLimit_atWord (by decide) h.symm
  · exact operandLimit_atWord (by decide) h.symm
  · exact operandLimit_atWord (by decide) h.symm
  · exact fieldLimit_atWord h.symm

/-- Every trap of the checks of R57 is about the word that is checked. -/
theorem wordTrap_atWord {c : CoreId} {t : Task} {priv second ex : Bool} {i : Instr} {mate : Option Instr} {x : Trap}
    (h : wordTrap c t priv i second mate ex = some x) : x.AtWord := by
  unfold wordTrap at h
  dsimp only at h
  split at h
  · cases h; exact illegal_atWord _ _ (by decide) _
  split at h
  · cases h; exact illegal_atWord _ _ (by decide) _
  split at h
  · next r hr =>
    cases h
    exact illegal_atWord _ _ (refusals_loc_lt c i _ _ r (List.mem_of_find?_eq_some hr)) _
  split at h
  all_goals
    split at h
    · cases h; exact ⟨rfl, rfl, Nat.zero_lt_succ _⟩
    split at h
    · next y hy => cases h; exact privilegeTrap_atWord hy
    · exact limitTrap_atWord h

/-! ### The record of a precise fault -/

theorem engineNum_lt (e : Engine) : e.num < 4 := by cases e <;> decide

/-- The first doubleword of a record, as the sum of its fields (R32). -/
theorem toNat_recordOf_dw0 (s : State) (who : StrandId) (code : FaultCode) (async second : Bool) (sect loc : Nat) (addr info : Word64)
    (detail : Word32) : (s.recordOf who code async second sect loc addr info detail).dw0.toNat =
      code.num * 2 ^ 56 + who.core.engine.num * 2 ^ 54 + who.slot % 4 * 2 ^ 52 + async.toNat * 2 ^ 51 + second.toNat * 2 ^ 50
        + sect % 1024 * 2 ^ 40 + loc % 256 * 2 ^ 32 + (s.task who.task).group.toNat := by
  have hcode := FaultCode.num_lt code
  have hengine := engineNum_lt who.core.engine
  have hasync := Bool.toNat_lt async
  have hsecond := Bool.toNat_lt second
  have hgroup := (s.task who.task).group.isLt
  unfold State.recordOf
  rw [BitVec.toNat_add, BitVec.toNat_ofNat, BitVec.zeroExtend, BitVec.toNat_setWidth]
  omega

theorem recordOf_fields (s : State) (who : StrandId) (code : FaultCode) (second : Bool) (sect : Nat) {loc : Nat} (hloc : loc < 256)
    (addr info : Word64) (detail : Word32) : let r := s.recordOf who code false second sect loc addr info detail
    fld r.dw0 63 56 = code.num ∧ fld r.dw0 55 54 = who.core.engine.num ∧ fld r.dw0 51 51 = 0 ∧ fld r.dw0 39 32 = loc ∧
      fld r.dw0 31 0 = (s.task who.task).group.toNat := by
  have hcode := FaultCode.num_lt code
  have hengine := engineNum_lt who.core.engine
  have hsecond := Bool.toNat_lt second
  have hgroup := (s.task who.task).group.isLt
  simp only [fld, bits, toNat_recordOf_dw0, Bool.toNat_false]
  refine ⟨?_, ?_, ?_, ?_, ?_⟩ <;> omega

theorem recordOf_detail (s : State) (who : StrandId) (code : FaultCode) (async second : Bool) (sect loc : Nat) (addr info : Word64)
    (detail : Word32) : fld (s.recordOf who code async second sect loc addr info detail).dw3 63 32 = detail.toNat := by
  have hdetail := detail.isLt
  unfold State.recordOf fld bits
  simp only [BitVec.toNat_add, BitVec.toNat_ofNat, BitVec.zeroExtend, BitVec.toNat_setWidth, BitVec.toNat_shiftLeft, Nat.shiftLeft_eq]
  omega

/-- What a strand keeps of the precise fault of the word under the cursor, which it resumes at (R32, R34). -/
def State.faultOf (s : State) (x : Trap) : StrandFault :=
  { code := x.code, resume := s.me.pc
    record := s.recordOf s.cur.strand x.code false x.second (s.sectionOf s.cur.strand s.me.pc) x.loc s.me.pc x.info x.detail }

/-- What a trap of the word under the cursor makes of its strand (R32). -/
theorem strand_trapped (s : State) {x : Trap} (hx : x.AtWord) :
    ∃ fs p, ((s.applyStop s.cur.strand (.trap x)).clearCycle).strand s.cur.strand =
      { s.me with status := .faulted, fault := some (s.faultOf x), heldCount := 0, heldBy := none, cmdqOnly := false, walkFailed := none
                  fences := fs, pst := p } := by
  have hraise : (s.raisePrecise s.cur.strand x s.me.pc).strand s.cur.strand =
      { s.me with status := .faulted, fault := some (s.faultOf x), heldCount := 0, heldBy := none, cmdqOnly := false } := by
    unfold State.raisePrecise
    simp only [hx.addr, hx.resume, Option.getD_none]
    rw [strand_raiseEntry]
    exact strand_updStrand_same _ _ _
  have hstop := strand_updStrand_same (s.raisePrecise s.cur.strand x s.me.pc) s.cur.strand (fun st =>
      { st with walkFailed := none, fences := st.fences.filter (fun f => f.own ≠ some st.pc)
                pst := match st.pst with | some p => if p.refused.isSome then none else st.pst | none => none })
  rw [hraise] at hstop
  exact ⟨_, _, hstop⟩

/-- The fault of a trap goes to the die's fault queue (R32, R378). -/
theorem fqPending_trapped (s : State) {x : Trap} (hx : x.AtWord) :
    (((s.applyStop s.cur.strand (.trap x)).clearCycle).die s.cur.strand.die).fqPending =
      (s.die s.cur.strand.die).fqPending ++ [s.strandEntry s.cur.strand (s.faultOf x).record] := by
  show ((s.applyStop s.cur.strand (.trap x)).die s.cur.strand.die).fqPending = _
  unfold State.applyStop State.raisePrecise State.raiseEntry
  simp only [hx.addr, hx.resume, Option.getD_none]
  rw [die_updStrand, die_updDie_same, die_updStrand]
  rfl

/-- A word that stops with a trap of its own faults precisely, and its strand resumes at it (R32, R34). -/
theorem faults_of_trap {i : Instr} {s : State} {x : Trap} (h : exec i s = .next ((s.applyStop s.cur.strand (.trap x)).clearCycle))
    (hx : x.AtWord) : Faults i s x.code x.loc x.info x.detail.toNat := by
  obtain ⟨hcode, hengine, hasync, hwhere, hgroup⟩ := recordOf_fields s s.cur.strand x.code x.second (s.sectionOf s.cur.strand s.me.pc) hx.loc s.me.pc
    x.info x.detail
  obtain ⟨fs, p, hstrand⟩ := strand_trapped s hx
  refine ⟨_, s.faultOf x, h, ?_⟩
  rw [hstrand]
  exact ⟨rfl, rfl, rfl, rfl, hcode, hengine, hasync, hwhere, hgroup, rfl, rfl, recordOf_detail _ _ _ _ _ _ _ _ _ _, rfl, rfl, rfl, rfl, rfl, rfl,
    _, fqPending_trapped s hx, rfl, rfl⟩

/-- A single word that fails a check of R57 stops with that check's trap. -/
theorem issue_refused {i : Instr} {s : State} {x : Trap} (hable : s.canIssue s.cur.strand = true) (hpair : s.cur.pair = none)
    (hmate : s.cur.mate = none)
    (h : wordTrap s.cur.strand.core s.myTask (s.load s.myTask.load).priv i false none (s.guardTrue (fieldsOf i)) = some x) (body : M Flow) :
    issue i body s = .next ((s.applyStop s.cur.strand (.trap x)).clearCycle) := by
  unfold issue
  simp only [hable, hpair, hmate, h, Option.isSome_none, Bool.true_eq_false, Bool.false_eq_true, if_false, or_self]

/-! ### The order of the checks -/

/-- Opcode and fields of a strand word. -/
theorem opOf_of_strandWord {i : Instr} {op : BitVec 8} {w : Fields} (h : i.strandWord = some (op, w)) : opOf i = op := by
  unfold opOf
  rw [h]
theorem fieldsOf_of_strandWord {i : Instr} {op : BitVec 8} {w : Fields} (h : i.strandWord = some (op, w)) : fieldsOf i = w := by
  unfold fieldsOf
  rw [h]

/-- The scalar registers that a header declares for a core, and their class in a fault record (R10, R33). -/
def ProgHeader.scalars (h : ProgHeader) : CoreId → Nat
  | .dawn => h.aregs
  | .dusk => h.sregs
def scalarClass : CoreId → Nat
  | .dawn => 0
  | .dusk => 1

section
variable {c : CoreId} {t : Task} {priv ex : Bool} {i : Instr} {op : BitVec 8} {w : Fields}

/-- Step 1 of R57. -/
theorem wordTrap_unassigned (hi : i.strandWord = some (op, w)) (hu : unassignedOpcode op = true) :
    wordTrap c t priv i false none ex = some (illegal op w 0) := by
  unfold wordTrap
  simp only [opOf_of_strandWord hi, fieldsOf_of_strandWord hi, hu, if_true]

/-- Step 2 of R57. -/
theorem wordTrap_wrongCore (hi : i.strandWord = some (op, w)) (hu : unassignedOpcode op = false) (hc : (formOf c i).core = some c.other) :
    wordTrap c t priv i false none ex = some (illegal op w 0 .wrongCore) := by
  have hother : (some c.other : Option CoreId) ≠ some c := by cases c <;> decide
  unfold wordTrap
  simp only [opOf_of_strandWord hi, fieldsOf_of_strandWord hi, hu, hc, hother, Option.isSome_some, ne_eq, not_false_eq_true, and_self, if_true,
    Bool.false_eq_true, if_false]

/-- A single word that steps 1 to 3 of R57 let pass is left to steps 4 and 5. -/
theorem wordTrap_legal (hi : i.strandWord = some (op, w)) (hdual : w.dual = false) (hu : unassignedOpcode op = false)
    (hc : (formOf c i).core = none ∨ (formOf c i).core = some c)
    (hr : (refusals c (formOf c i) w (stageOrder op ex)).all (fun r => !r.2) = true) :
    wordTrap c t priv i false none ex =
      (privilegeTrap op (formOf c i) w priv).or (limitTrap c t (formOf c i) w (stageOrder op ex)) := by
  have hcore : ¬ ((formOf c i).core.isSome ∧ (formOf c i).core ≠ some c) := by
    rcases hc with h | h <;> simp [h]
  have hnone : (refusals c (formOf c i) w (stageOrder op ex)).find? (fun r => r.2) = none := by
    simpa [List.find?_eq_none] using hr
  unfold wordTrap
  simp only [opOf_of_strandWord hi, fieldsOf_of_strandWord hi, hu, hcore, hnone, hdual, Bool.false_eq_true, false_and, and_false, if_false]
  cases privilegeTrap op (formOf c i) w priv <;> rfl

theorem privilegeTrap_priv {f : Form} (hf : f.priv = true) : privilegeTrap op f w false = some (illegal op w 0 .priv) := if_pos ⟨hf, rfl⟩

/-- Step 4 of R57 lets a word pass that needs no privilege or has it, and names no special register as a destination. -/
theorem privilegeTrap_none {f : Form} (hd : f.specialDest w = none) (hp : f.priv = false ∨ priv = true) (hread : op ≠ 0xF0#8)
    (hwrite : op ≠ 0xF1#8) : privilegeTrap op f w priv = none := by
  have hpriv : ¬ (f.priv = true ∧ priv = false) := by rcases hp with h | h <;> simp [h]
  unfold privilegeTrap systemTrap
  simp [hpriv, hread, hwrite, hd]

/-- A scalar destination at or beyond what the header declares is step 5's first fault (R10, R33). -/
theorem limitTrap_scalarDest {f : Form} {stage : Bool} {k : BitVec 10} (hw : w.d = .reg k) (hf : f.d = .d ∨ f.d = .rd)
    (hk : t.hdr.scalars c ≤ k.toNat) : limitTrap c t f w stage = some (regLimit 1 k.toNat (scalarClass c)) := by
  have hd : operandLimit f.d c t 1 w.d stage = some (regLimit 1 k.toNat (scalarClass c)) := by
    rw [hw]
    cases c <;> rcases hf with h | h <;> rw [h] <;> exact if_neg (Nat.not_lt.mpr hk)
  unfold limitTrap
  rw [hd]
  rfl

end

/-- Settles O34: the checks as the word meets them, and what the first that fails leaves. -/
theorem refusedWords : Obligations.RefusedWords := by
  unfold Obligations.RefusedWords
  refine ⟨?faults, ?order⟩
  case faults =>
    intro i s x hi hable hpair hmate h
    obtain ⟨body, hexec⟩ := exec_eq_issue i s hi
    exact faults_of_trap (hexec.trans (issue_refused hable hpair hmate h body)) (wordTrap_atWord h)
  case order =>
    intro c t priv ex i op w hi hdual
    refine ⟨fun hu => ⟨_, wordTrap_unassigned hi hu, rfl, rfl, rfl, rfl⟩, fun hu hc => ⟨_, wordTrap_wrongCore hi hu hc, rfl, rfl, rfl, rfl⟩, ?priv, ?limit⟩
    case priv =>
      rintro ⟨hu, hc, hr⟩ hf rfl
      exact ⟨_, by rw [wordTrap_legal hi hdual hu hc hr, privilegeTrap_priv hf]; rfl, rfl, rfl, rfl, rfl⟩
    case limit =>
      rintro ⟨hu, hc, hr⟩ hspecial hp hread hwrite k hd hf hk
      have hdeclared : t.hdr.scalars c ≤ k.toNat := by cases c <;> exact hk
      refine ⟨regLimit 1 k.toNat (scalarClass c), ?_, rfl, rfl, BitVec.ofNat_toNat _ _, by cases c <;> rfl⟩
      rw [wordTrap_legal hi hdual hu hc hr, privilegeTrap_none hspecial hp hread hwrite, limitTrap_scalarDest hd hf hdeclared]
      rfl

end Sys2Proof.Machine
end

section
/-! ## A core's turn -/

namespace Sys2Proof.Machine

/-- The word at an address is what its twelve bytes decode to (R35). -/
theorem fetch_of_decode {s : State} {who : StrandId} {a : Word64} {bs : List Byte} {i : Instr}
    (h : s.readVirtual who.die (s.load (s.task who.task).load).domain a.toNat 12 = some bs) (hlen : bs.length = 12) (hd : decode bs = .ok i) :
    s.fetch who a = some i := by
  rw [decode_twelve hlen] at hd
  cases hd
  unfold State.fetch
  simp only [h]

section
variable {s : State} {who : StrandId} {i : Instr} (hh : (s.strand who).atHeader = false) (hf : s.fetch who (s.strand who).pc = some i)
include hh hf

/-- The turn of a strand that stands at a single word is that word (R35, R58). -/
theorem strandTurn_single (hd : (fieldsOf i).dual = false) : strandTurn who s = exec i (s.atStrand who none) := by
  unfold strandTurn runAt isDual
  simp only [hh, hf, hd, Bool.false_eq_true, if_false]

theorem headWord_eq : s.headWord who = some i := by
  unfold State.headWord
  simp only [hh, hf, Bool.false_eq_true, if_false]

/-- A core whose first strand issues a single word and is not held goes on to its second issue position (R213). -/
theorem coreTry_single {t : TileId} {c : CoreId} {others : List StrandId} {u : State} (hd : (fieldsOf i).dual = false)
    (hx : exec i (s.atStrand who none) = .next u) (hu : (u.strand who).status ≠ .held) :
    coreTry t c (who :: others) s = coreSecond t c who (issueLimits i) (s.strand who).yielded others u := by
  unfold coreTry
  simp only [strandTurn_single hh hf hd, hx, hu, headWord_eq hh hf, isDual, hd, Bool.false_eq_true, if_false]

end

/-- A cycle of one core's turn is that turn and the end of the cycle. -/
theorem step_core_turn {s : State} {die tile : Nat} {c : CoreId} {rest : List (List Turn)} (h : s.agenda = [.core die tile c] :: rest) :
    step s = onNext (endCycle s) (coreTurn ⟨die, tile⟩ c { s with agenda := rest }) := by
  unfold step runStep
  simp only [h]
  cases c <;> exact congrArg (onNext (endCycle s)) (runTurns_singleton _ _)

/-- Settles O7: the turn of the cycle, the strand ranked first, the word at its pc. -/
theorem stepRunsTheWord : Obligations.StepRunsTheWord := by
  unfold Obligations.StepRunsTheWord
  intro s u die tile c rest who others bs i hagenda hcore s1 hranked hh hread hdecode hlen hdual hexec hheld
  have htry : coreTurn ⟨die, tile⟩ c { s with agenda := rest } =
      coreSecond ⟨die, tile⟩ c who (issueLimits i) (s.strand who).yielded others u := by
    unfold coreTurn
    simp only [hcore, hranked, Bool.false_eq_true, if_false]
    exact coreTry_single (s := s1) hh (fetch_of_decode hread hlen hdecode) hdual hexec hheld
  have hstep := (step_core_turn hagenda).trans (congrArg (onNext (endCycle s)) htry)
  refine ⟨hstep, ?_⟩
  rintro rfl
  exact hstep

end Sys2Proof.Machine
end

section
/-! ## Scale bytes -/

namespace Sys2Proof.Machine

/-- A scale byte below 0xFF is a power of two (R117). -/
theorem decodeNum_sc_of_lt {e : Nat} (h : e < 0xFF) : decodeNum .sc e = .fin false 1 ((e : Int) - 127) := by
  have hbyte : e % 256 = e := Nat.mod_eq_of_lt (by omega)
  unfold decodeNum
  simp only [hbyte, h.ne, if_false]

theorem decodeNum_sc_nanCode : decodeNum .sc (Format.nanCode .sc) = .nan := rfl

/-- Settles O49: the byte below 0xFF is its own residue modulo 256, and 0xFF is the NaN code of the format. -/
theorem scaleBytes : Obligations.ScaleBytes := by
  unfold Obligations.ScaleBytes
  exact ⟨fun _ => decodeNum_sc_of_lt, decodeNum_sc_nanCode⟩

end Sys2Proof.Machine
end

section
/-! ## What the checks and holds of an issuing word give its body -/

namespace Sys2Proof.Machine

/-- The checks of R57 that an issuing word has passed: it is no unassigned opcode, it runs on its core, and none of its form's refusals is met. -/
theorem Issues.checked {i : Instr} {s : State} {more : List (Nat × Nat)} (h : Issues i s more) :
    ((formOf s.cur.strand.core i).core = none ∨ (formOf s.cur.strand.core i).core = some s.cur.strand.core) ∧
    ∀ r ∈ refusals s.cur.strand.core (formOf s.cur.strand.core i) (fieldsOf i) (stageOrder (opOf i) true), r.2 = false := by
  have ha := h.accepted
  unfold wordTrap at ha
  simp only at ha
  split at ha
  · cases ha
  · split at ha
    · cases ha
    · next hcore =>
      split at ha
      · cases ha
      · next hfind =>
        refine ⟨?_, fun r hr => by simpa using List.find?_eq_none.1 hfind r hr⟩
        cases hc : (formOf s.cur.strand.core i).core with
        | none => exact .inl rfl
        | some c => exact .inr (by simpa [hc] using hcore)

/-- A word whose form names Dusk issues on Dusk. -/
theorem Issues.onDusk {i : Instr} {s : State} (h : Issues i s) (hf : ∀ c, (formOf c i).core = some .dusk) : s.cur.strand.core = .dusk := by
  rcases h.checked.1 with hc | hc
  · rw [hf] at hc; cases hc
  · rw [hf] at hc; exact (Option.some.inj hc).symm

theorem Issues.fmt_mem {i : Instr} {s : State} (h : Issues i s) : (fieldsOf i).fmt.toNat ∈ (formOf s.cur.strand.core i).fmts := by
  have := h.checked.2 _ (List.mem_append_left _ (List.mem_append_left _ (List.mem_append_left _ (List.mem_cons_self ..))))
  simpa using (Bool.or_eq_false_iff.1 this).2

/-- The MOD of an issuing word is one that its form admits, but for SBFLY and SCHAIN, which look at it later (R203). -/
theorem Issues.mod_mem {i : Instr} {s : State} (h : Issues i s) (hs : stageOrder (opOf i) true = false) :
    (fieldsOf i).mod.toNat ∈ (formOf s.cur.strand.core i).mods := by
  have := h.checked.2 _ (List.mem_append_left _ (List.mem_append_left _ (List.mem_append_left _ (List.mem_cons_of_mem _ (List.mem_cons_self ..)))))
  simpa [hs] using this

theorem Issues.admitsA {i : Instr} {s : State} (h : Issues i s) :
    (formOf s.cur.strand.core i).a.admits s.cur.strand.core (fieldsOf i).a = true := by
  have := h.checked.2 (2, !(formOf s.cur.strand.core i).a.admits s.cur.strand.core (fieldsOf i).a)
    (List.mem_append_left _ (List.mem_append_left _ (List.mem_append_left _ (by simp))))
  simpa using this

theorem Issues.admitsB {i : Instr} {s : State} (h : Issues i s) :
    (formOf s.cur.strand.core i).b.admits s.cur.strand.core (fieldsOf i).b = true := by
  have := h.checked.2 (3, !(formOf s.cur.strand.core i).b.admits s.cur.strand.core (fieldsOf i).b)
    (List.mem_append_left _ (List.mem_append_left _ (List.mem_append_left _ (by simp))))
  simpa using this

/-- C is admitted, or it names a special register (which the checks after these refuse). -/
theorem Issues.admitsC {i : Instr} {s : State} (h : Issues i s) (hc : (formOf s.cur.strand.core i).cWrite = false) :
    (formOf s.cur.strand.core i).c.admits s.cur.strand.core (fieldsOf i).c = true := by
  have := h.checked.2 (4, !(formOf s.cur.strand.core i).c.admits s.cur.strand.core (fieldsOf i).c &&
      ((formOf s.cur.strand.core i).specialDest (fieldsOf i)).map (fun x => x.2) != some 4)
    (List.mem_append_left _ (List.mem_append_left _ (List.mem_append_left _ (by simp))))
  have hs : ((formOf s.cur.strand.core i).specialDest (fieldsOf i)).map (fun x => x.2) ≠ some 4 := by
    unfold Form.specialDest
    simp only [hc, Bool.false_eq_true, if_false]
    split <;> simp
  simpa [hs] using this

theorem Issues.extra_false {i : Instr} {s : State} (h : Issues i s) : ∀ r ∈ (formOf s.cur.strand.core i).extra, r.2 = false :=
  fun r hr => h.checked.2 r (List.mem_append_left _ (List.mem_append_right _ hr))

/-! ### Operands and the queues they pop -/

/-- A W, V, K, r, index or stride operand is a register or an immediate, and pops nothing (R137, R42). -/
theorem queueOf_of_admits {m : Mark} {c : CoreId} {o : Opnd} (hm : m ∈ [Mark.w, .v, .k, .r, .idx, .stride]) (h : m.admits c o = true) :
    queueOf o = [] := by
  cases o with
  | queue k =>
    simp only [List.mem_cons, List.not_mem_nil, or_false] at hm
    rcases hm with rfl | rfl | rfl | rfl | rfl | rfl <;> cases h
  | _ => rfl

/-- Every queue that a word pops has an entry for each of its pops (R13). -/
theorem Issues.poppable {i : Instr} {s : State} (h : Issues i s) (q : QueueName)
    (hq : q ∈ queuesPopped i (formOf s.cur.strand.core i) (fieldsOf i)) :
    (queuesPopped i (formOf s.cur.strand.core i) (fieldsOf i)).count q ≤ s.poppable s.cur.strand.task q := by
  have hr := h.room
  unfold State.queueHold at hr
  simp only at hr
  split at hr
  · cases hr
  · next hfind =>
    have := List.find?_eq_none.1 hfind q hq
    rw [List.count_eq_countP, List.countP_eq_length_filter]
    simpa using this

/-- A queue destination has room (R13). -/
theorem Issues.roomFor {i : Instr} {s : State} (h : Issues i s) (hi : ∀ x, i ≠ .qpush x) (q : QueueName)
    (hq : q ∈ queuesPushed (formOf s.cur.strand.core i) (fieldsOf i)) :
    s.myTask.queueLen q + s.raisesInto s.cur.strand q < queueCap q := by
  have hr := h.room
  unfold State.queueHold at hr
  simp only at hr
  split at hr
  · cases hr
  · next hfind =>
    have := List.find?_eq_none.1 (Option.map_eq_none_iff.1 hr) q hq
    show (s.task s.cur.strand.task).queueLen q + s.raisesInto s.cur.strand q < queueCap q
    simpa using this

/-- A strand word's POP takes no more tokens than there are (R16, R21). -/
theorem Issues.takes_le {i : Instr} {s : State} (h : Issues i s) (k : Nat) : pushSum (popsAtIssue s.cur.strand.core i) k ≤ s.myTask.token k := by
  have hu := h.unheld
  unfold State.commonHold at hu
  unfold popsAtIssue ownPops
  by_cases hcmd : (formOf s.cur.strand.core i).cmd.isSome = true
  · simp [hcmd, pushSum]
  · by_cases h0 : (tokenField (fieldsOf i).pop).2 = 0
    · simp [hcmd, h0, pushSum]
    · have hn : (formOf s.cur.strand.core i).cmd = none := by simpa using hcmd
      simp only at hu
      split at hu
      · cases hu
      · rcases ite_eq_iff.1 hu with ⟨_, hx⟩ | ⟨_, hu⟩
        · cases hx
        · rcases ite_eq_iff.1 hu with ⟨_, hx⟩ | ⟨_, hu⟩
          · cases hx
          · simp only [hn, h0, ne_eq, not_false_eq_true, true_and] at hu
            have hle : ¬ (s.task s.cur.strand.task).token (tokenIndex (tokenField (fieldsOf i).pop).1 s.cur.strand.core.engine) < (tokenField (fieldsOf i).pop).2 := by
              intro hlt
              rw [if_pos hlt] at hu
              cases hu
            simp only [hn, h0, Option.isSome_none, Bool.false_eq_true, if_false, pushSum, List.map_cons, List.map_nil, List.sum_cons, List.sum_nil, Nat.add_zero]
            split
            · next hk => subst hk; exact Nat.le_of_not_lt hle
            · exact Nat.zero_le _

/-- A body that has only read stands within its word. -/
theorem Issues.within {i : Instr} {s u : State} {pops : List QueueName} (h : Issues i s)
    (hr : Reads s u (popsAtIssue s.cur.strand.core i) pops) : Within s u := hr.within h.takes_le

/-- The queues that the sources of a word pop, by their marks; BCQ pops one more (R13, R92). -/
theorem queuesPopped_eq {i : Instr} (hi : ∀ x, i ≠ .bcq x) (f : Form) (w : Fields) :
    queuesPopped i f w = (if f.a = .s ∨ f.a = .qpop then queueOf w.a else []) ++ (if f.b = .s ∨ f.b = .qpop then queueOf w.b else []) ++
      (if f.c = .s ∨ f.c = .qpop then queueOf w.c else []) := by
  unfold queuesPopped queueOf
  simp only [List.append_nil] <;> rfl

/-- A source of an issuing word finds its queue's entry behind those that the word's earlier sources take. -/
theorem Issues.supplies {i : Instr} {s : State} (h : Issues i s) {pre post : List QueueName} {o : Opnd}
    (hq : queuesPopped i (formOf s.cur.strand.core i) (fieldsOf i) = pre ++ queueOf o ++ post) : s.supplies pre o := by
  intro q hmem
  have hle := h.poppable q (by rw [hq]; simp [hmem])
  have hpos : 0 < (queueOf o).count q := List.count_pos_iff.2 hmem
  rw [hq, List.count_append, List.count_append] at hle
  omega

/-! ### What a body reads -/

/-- Reading changes no vector, mask or narrow-format register, no memory and no stack window of the strand. -/
theorem Reads.vec {s u : State} {takes : List (Nat × Nat)} {pops : List QueueName} (h : Reads s u takes pops) (n : Nat) :
    u.myTask.vec n = s.myTask.vec n := by
  obtain ⟨m, hm⟩ := h.task
  rw [hm]; rfl

theorem Reads.mask {s u : State} {takes : List (Nat × Nat)} {pops : List QueueName} (h : Reads s u takes pops) : u.myTask.k = s.myTask.k := by
  obtain ⟨m, hm⟩ := h.task
  rw [hm]

theorem Reads.nf {s u : State} {takes : List (Nat × Nat)} {pops : List QueueName} (h : Reads s u takes pops) : u.myTask.nf = s.myTask.nf := by
  obtain ⟨m, hm⟩ := h.task
  rw [hm]

@[simp] theorem run_readVec (n : Nat) (s : State) : readVec n s = .ok (s.myTask.vec n, s) := rfl
@[simp] theorem run_readMask (n : Nat) (s : State) : readMask n s = .ok (s.myTask.k.get n 0, s) := rfl

/-- A W operand answers its cells (R137). -/
theorem Reads.operandW {s u : State} {takes : List (Nat × Nat)} {pops : List QueueName} (h : Reads s u takes pops)
    (hp : s.cur.pair = none) (f : Format) {o : Opnd} (ho : queueOf o = []) :
    ∃ u', Machine.operandW f o u = .ok (s.lanesOf pops f o, u') ∧ Reads s u' takes pops := by
  have hsource : ∀ o', queueOf o' = [] → ∃ u', Machine.source o' u = .ok (s.valueOf pops o', u') ∧ Reads s u' takes pops := by
    intro o' ho'
    obtain ⟨u', hrun, hr⟩ := h.source hp o' (fun q hq => by rw [ho'] at hq; cases hq)
    exact ⟨u', hrun, by simpa [ho'] using hr⟩
  cases o with
  | reg i => exact ⟨u, by simp [Machine.operandW, State.lanesOf, h.vec], h⟩
  | imm v => 
    refine ⟨u, ?_, h⟩
    unfold Machine.operandW State.lanesOf
    simp only [run_pure, sext_toInt]
    cases f <;> rfl
  | queue k =>
    obtain ⟨u', hrun, hr⟩ := hsource (.queue k) ho
    exact ⟨u', by simp [Machine.operandW, State.lanesOf, hrun], hr⟩
  | scalar hi i =>
    obtain ⟨u', hrun, hr⟩ := hsource (.scalar hi i) rfl
    exact ⟨u', by simp [Machine.operandW, State.lanesOf, hrun], hr⟩
  | special k =>
    obtain ⟨u', hrun, hr⟩ := hsource (.special k) rfl
    exact ⟨u', by simp [Machine.operandW, State.lanesOf, hrun], hr⟩

/-- The format of an FMT code, where it names none or an nf register that is not 0 (R46, R115). -/
theorem Reads.formatOf {s u : State} {takes : List (Nat × Nat)} {pops : List QueueName} (h : Reads s u takes pops) {code : Nat} {f : Format}
    (hf : s.myTask.formatAt code = some f) (hc : code < 15) (op : BitVec 8) (w : Fields) (loc : Nat) :
    Machine.formatOf op w code loc u = .ok (f, u) := by
  unfold Task.formatAt at hf
  unfold Machine.formatOf
  interval_cases code <;> simp_all [plainFormat, h.nf] 

end Sys2Proof.Machine
end

section
/-! ## Writing vector and mask registers, and completing -/

namespace Sys2Proof.Machine

/-! ### A register of the task written -/

/-- Two tasks that differ in their vector and mask registers alone. -/
structure Task.SameButLanes (x y : Task) : Prop where
  tokens : y.tokens = x.tokens
  nf : y.nf = x.nf
  acc : y.acc = x.acc
  slots : y.slots = x.slots
  serac : y.serac = x.serac
  moraine : y.moraine = x.moraine
  status : y.status = x.status
  hdr : y.hdr = x.hdr
  group : y.group = x.group
  bases : (y.tmBase, y.vBase, y.evBase) = (x.tmBase, x.vBase, x.evBase)
  modes : (y.mode, y.oscale, y.strides) = (x.mode, x.oscale, x.strides)
  queues : y.aq = x.aq ∧ y.bq = x.bq ∧ y.cq = x.cq

/-- A change of the vector and mask registers of a body's task. -/
theorem Does.lanes {e : Effect} {s u : State} (h : Does e s u) (hw : Within s u) (g : Task → Task) {vs : List (Nat × List Word32)}
    {ms : List (Nat × BitVec 1024)} (hg : u.myTask.SameButLanes (g u.myTask))
    (hv : ∀ n, (g u.myTask).v.get n [] = latest (e.vecs ++ vs) n (s.myTask.v.get n []))
    (hk : ∀ n, (g u.myTask).k.get n 0 = latest (e.masks ++ ms) n (s.myTask.k.get n 0)) :
    Does { e with vecs := e.vecs ++ vs, masks := e.masks ++ ms } s (u.updTask u.cur.strand.task g) ∧ Within s (u.updTask u.cur.strand.task g) := by
  have hc : u.cur.strand = s.cur.strand := by rw [hw.cur]
  have hu : u.task s.cur.strand.task = u.myTask := by unfold State.myTask; rw [hc]
  have ht : (u.updTask u.cur.strand.task g).task s.cur.strand.task = g u.myTask := by rw [hc, task_updTask_same, hu]
  have htok : ∀ k, (g u.myTask).token k = u.myTask.token k := fun k => by unfold Task.token; rw [hg.tokens]
  refine ⟨?_, ?_⟩
  · exact
      { tokens := fun k => by rw [ht, htok, ← hu]; exact h.tokens k
        work := h.work, regs := h.regs, preds := h.preds
        vecs := fun n => by rw [ht]; exact hv n
        masks := fun n => by rw [ht]; exact hk n
        nfs := fun n => by rw [ht, hg.nf, ← hu]; exact h.nfs n
        counters := h.counters
        queues := fun hr q => by
          rw [ht, hg.status, ← hu] at hr
          obtain ⟨ha, hb, hq⟩ := hg.queues
          have hent : (g u.myTask).entries q = u.myTask.entries q := by cases q <;> simp only [Task.entries, ha, hb, hq]
          rw [ht, hent, ← hu]; exact h.queues hr q
        memory := h.memory, net := h.net, raises := h.raises
        serac := by rw [ht, hg.serac, ← hu]; exact h.serac
        moraine := by rw [ht, hg.moraine, ← hu]; exact h.moraine
        slots := fun n => by rw [ht, hg.slots, ← hu]; exact h.slots n
        stack := h.stack, fault := h.fault, depth := h.depth, fences := h.fences, ports := h.ports, chans := h.chans, dies := h.dies
        accs := by rw [ht, hg.acc, ← hu]; exact h.accs
        header := by rw [ht, hg.hdr, ← hu]; exact h.header
        group := by rw [ht, hg.group, ← hu]; exact h.group
        bases := by rw [ht, hg.bases, ← hu]; exact h.bases
        modes := by rw [ht, hg.modes, ← hu]; exact h.modes
        strands := h.strands
        tasks := fun i hi => by rw [task_updTask_ne _ _ (by rw [hc]; exact hi)]; exact h.tasks i hi
        tiles := h.tiles, presence := h.presence, keys := h.keys, rest := h.rest }
  · exact ⟨hw.cur, hw.given, fun k => by
      rw [← hw.taken k]
      unfold State.startToken
      rw [ht, htok, ← hu]
      rfl, hw.status, hw.fences, hw.raises⟩

theorem latest_append_of_eq {κ α : Type} [DecidableEq κ] {l : List (κ × α)} {k n : κ} {a b d : α} (h : b = if n = k then a else latest l n d) :
    b = latest (l ++ [(k, a)]) n d := by
  rw [latest_append, h]
  by_cases hk : n = k
  · simp [hk]
  · simp [hk, Ne.symm hk]

/-- A vector register written whole (R134). -/
theorem Does.writeVec {e : Effect} {s u : State} (h : Does e s u) (hw : Within s u) (n : Nat) (cells : List Word32) :
    ∃ u', Machine.writeVec n cells u = .ok (.unit, u') ∧ Does { e with vecs := e.vecs ++ [(n, cells)] } s u' ∧ Within s u' := by
  have hc : u.cur.strand = s.cur.strand := by rw [hw.cur]
  have hu : u.myTask = u.task s.cur.strand.task := by unfold State.myTask; rw [hc]
  refine ⟨_, run_modTask _ _, ?_⟩
  have := h.lanes hw (vs := [(n, cells)]) (ms := [])
    (fun t => { t with v := t.v.set n cells, badV := t.badV.filter (fun b => b / 1024 ≠ n) })
    ⟨rfl, rfl, rfl, rfl, rfl, rfl, rfl, rfl, rfl, rfl, rfl, rfl, rfl, rfl⟩
    (fun m => latest_append_of_eq (by
      show (u.myTask.v.set n cells).get m [] = _
      rw [Map.get_set, hu, h.vecs m]))
    (fun m => by
      show u.myTask.k.get m 0 = _
      rw [hu, h.masks m, List.append_nil])
  simpa using this

/-- A mask register written (R135). -/
theorem Does.writeMask {e : Effect} {s u : State} (h : Does e s u) (hw : Within s u) (n : Nat) (m : BitVec 1024) :
    ∃ u', Machine.writeMask n m u = .ok (.unit, u') ∧ Does { e with masks := e.masks ++ [(n, m)] } s u' ∧ Within s u' := by
  have hc : u.cur.strand = s.cur.strand := by rw [hw.cur]
  have hu : u.myTask = u.task s.cur.strand.task := by unfold State.myTask; rw [hc]
  refine ⟨_, run_modTask _ _, ?_⟩
  have := h.lanes hw (vs := []) (ms := [(n, m)])
    (fun t => { t with k := t.k.set n m, badK := t.badK.filter (· ≠ n) })
    ⟨rfl, rfl, rfl, rfl, rfl, rfl, rfl, rfl, rfl, rfl, rfl, rfl, rfl, rfl⟩
    (fun k => by
      show u.myTask.v.get k [] = _
      rw [hu, h.vecs k, List.append_nil])
    (fun k => latest_append_of_eq (by
      show (u.myTask.k.set n m).get k 0 = _
      rw [Map.get_set, hu, h.masks k]))
  simpa using this

/-! ### Lane control -/

/-- Cells chosen by a mask, lane by lane (R138). -/
theorem blend_eq (mask : Nat) (keep : Bool) (new old : List Word32) (k : Nat) :
    blend (mask / 2 ^ k) keep new old =
      ((new.zip old).zipIdx k).map (fun x => if mask.testBit x.2 then x.1.1 else if keep then x.1.2 else 0) := by
  induction new generalizing old k with
  | nil => simp [blend]
  | cons n ns ih =>
    cases old with
    | nil => simp [blend]
    | cons o os =>
      have hbit : (mask / 2 ^ k % 2 = 1) ↔ mask.testBit k = true := by
        rw [Nat.testBit_eq_decide_div_mod_eq, decide_eq_true_iff]
      simp only [blend, List.zip_cons_cons, List.zipIdx_cons, List.map_cons, hbit, Nat.div_div_eq_div_mul, ← Nat.pow_succ, ih]

/-- What a word's lane control leaves of new cells (R138). -/
theorem underMask_eq_blend {s : State} {w : Fields} (cells : List Word32) (he : w.e.getLsbD 4 = true) :
    s.underMask w cells = blend (s.myTask.k.get (fld w.e 3 0) 0).toNat (!w.e.getLsbD 5) cells (s.myTask.vec (opndIndex w.d)) := by
  have := blend_eq (s.myTask.k.get (fld w.e 3 0) 0).toNat (!w.e.getLsbD 5) cells (s.myTask.vec (opndIndex w.d)) 0
  rw [pow_zero, Nat.div_one] at this
  rw [this]
  unfold State.underMask
  simp only [he, if_true]
  cases w.e.getLsbD 5 <;> rfl

/-- A vector register written under a word's lane control, before any other write of its body (R138). -/
theorem Does.writeLanes {e : Effect} {s u : State} (h : Does e s u) (hw : Within s u) (w : Fields) (cells : List Word32)
    (hv : u.myTask.vec (opndIndex w.d) = s.myTask.vec (opndIndex w.d)) (hk : u.myTask.k = s.myTask.k) :
    ∃ u', Machine.writeLanes w cells u = .ok (.unit, u') ∧ Does { e with vecs := e.vecs ++ [(opndIndex w.d, s.underMask w cells)] } s u' ∧ Within s u' := by
  have hc : u.cur.strand = s.cur.strand := by rw [hw.cur]
  have hu : u.myTask = u.task s.cur.strand.task := by unfold State.myTask; rw [hc]
  by_cases he : w.e.getLsbD 4 = true
  · have hrun : ∃ g, Machine.writeLanes w cells u = .ok (.unit, u.updTask u.cur.strand.task g) ∧ u.myTask.SameButLanes (g u.myTask) ∧
        (g u.myTask).v = u.myTask.v.set (opndIndex w.d) (s.underMask w cells) ∧ (g u.myTask).k = s.myTask.k := by
      unfold Machine.writeLanes
      simp only [he, if_true, run_bind, run_theTask, run_modTask, hv, hk, ← underMask_eq_blend cells he]
      exact ⟨_, rfl, ⟨rfl, rfl, rfl, rfl, rfl, rfl, rfl, rfl, rfl, rfl, rfl, rfl, rfl, rfl⟩, rfl, hk⟩
    obtain ⟨g, hrun, hg, hgv, hgk⟩ := hrun
    have := h.lanes hw (vs := [(opndIndex w.d, s.underMask w cells)]) (ms := []) g hg
      (fun m => latest_append_of_eq (by rw [hgv, Map.get_set, hu, h.vecs m]))
      (fun m => by rw [hgk, List.append_nil, ← h.masks m, ← hu, hk])
    exact ⟨_, hrun, by simpa using this⟩
  · have hrun : Machine.writeLanes w cells u = Machine.writeVec (opndIndex w.d) cells u := by
      unfold Machine.writeLanes
      simp only [he, Bool.false_eq_true, if_false]
    have hcells : s.underMask w cells = cells := by
      unfold State.underMask
      rw [if_neg he]
    rw [hrun, hcells]
    exact h.writeVec hw _ _

/-! ### Words that complete -/

/-- What a word that issues does, from what its body does. -/
theorem Issues.completes {i : Instr} {s u : State} {body : M Flow} {flow : Flow} {e : Effect} (h : Issues i s) (hexec : exec i s = issue i body s)
    (hcmd : ∀ c, (formOf c i).cmd = none) (hb : body (s.begun i) = .ok (flow, u)) (hd : Does e s u) (hw : Within s u) :
    Completes i s { e with gives := e.gives ++ ownPushes s.cur.strand.core (fieldsOf i) } := by
  obtain ⟨t, ht, hdoes⟩ := issue_does h hb hd hw
  refine ⟨t, hexec.trans ht, ?_⟩
  simpa [pushesAtIssue, hcmd] using hdoes

theorem popsAtIssue_eq {i : Instr} (hcmd : ∀ c, (formOf c i).cmd = none) (c : CoreId) : popsAtIssue c i = ownPops c (fieldsOf i) := by
  simp [popsAtIssue, hcmd]

/-- A word that reads its sources and then writes its vector destination under lane control (R137, R138). -/
theorem Issues.yieldsLanes {i : Instr} {s u : State} {body : M Flow} {os : List Opnd} {cells : List Word32} (h : Issues i s)
    (hexec : exec i s = issue i body s) (hcmd : ∀ c, (formOf c i).cmd = none)
    (hr : Reads s u (popsAtIssue s.cur.strand.core i) (os.flatMap queueOf))
    (hb : body (s.begun i) = (do writeLanes (fieldsOf i) cells; return .fall : M Flow) u) : YieldsLanes i s os cells := by
  obtain ⟨u', hrun, hd, hw⟩ := hr.does.writeLanes (h.within hr) (fieldsOf i) cells (hr.vec _) hr.mask
  have hrun' : body (s.begun i) = .ok (.fall, u') := by rw [hb]; simp only [run_bind, hrun, run_pure]
  have := h.completes hexec hcmd hrun' hd hw
  simpa [YieldsLanes, ownEffect, popsAtIssue_eq hcmd] using this

end Sys2Proof.Machine
end

section
/-! ## Elements in their cells -/

namespace Sys2Proof.Machine

theorem sext_eq_toInt (w x : Nat) : sext w x = (BitVec.ofNat w x).toInt := by
  rw [BitVec.toInt_eq_toNat_cond, BitVec.toNat_ofNat]
  unfold sext
  rcases w with _ | w
  · simp [Nat.mod_one]
  · have hp : 2 ^ (w + 1) = 2 * 2 ^ w := Nat.pow_succ'
    rw [Nat.add_sub_cancel, hp]
    split <;> split <;> omega

theorem ofNat_toNat_emod (w : Nat) (r : Int) : BitVec.ofNat w (r % ((2 ^ w : Nat) : Int)).toNat = BitVec.ofInt w r := by
  apply BitVec.eq_of_toNat_eq
  rw [BitVec.toNat_ofNat, BitVec.toNat_ofInt]
  have h0 : 0 ≤ r % ((2 ^ w : Nat) : Int) := Int.emod_nonneg _ (by positivity)
  have hlt : r % ((2 ^ w : Nat) : Int) < ((2 ^ w : Nat) : Int) := Int.emod_lt_of_pos _ (by positivity)
  exact Nat.mod_eq_of_lt (by omega)

theorem wrapTo_toNat (w : Nat) (r : Int) : wrapTo w r = (BitVec.ofInt w r).toNat := by
  rw [BitVec.toNat_ofInt]; rfl

theorem wrapTo_lt (w : Nat) (r : Int) : wrapTo w r < 2 ^ w := by
  rw [wrapTo_toNat]; exact BitVec.isLt _

/-- The two descriptions of a cell agree (R134). -/
theorem cellOf_eq_asCell (f : Format) (code : Nat) : cellOf f code = asCell f code := by
  cases f with
  | int s w =>
    cases s with
    | true =>
      simp only [cellOf, asCell, extendTo, wrapTo, ival, if_true]
      rw [ofNat_toNat_emod, sext_eq_toInt]
      rfl
    | false => rfl
  | _ => rfl

theorem elemOf_eq_codeIn (f : Format) (x : Word32) : elemOf f x = codeIn f x := rfl

theorem codeIn_lt (f : Format) (x : Word32) : codeIn f x < 2 ^ f.bits := Nat.mod_lt _ (by positivity)

/-- The integer that a cell holds (R134, R139). -/
theorem ival_codeIn (f : Format) (x : Word32) : ival (codeIn f x) f.bits f.signed = intIn f x := by
  unfold ival intIn
  rw [sext_eq_toInt, Nat.mod_eq_of_lt (codeIn_lt f x)]

/-- A result clamped under MOD 001, else wrapped, in its cell (R68, R139). -/
theorem asCell_finish (f : Format) (mod : Nat) (r : Int) : asCell f (finish mod f.bits f.signed r) = intCell f mod r := by
  unfold finish intCell lowest highest wrapTo
  cases f.signed <;> by_cases hm : mod = 1 <;> simp [hm]

/-- The cell of a code that fits is the code's residue. -/
theorem asCell_mod (f : Format) (code : Nat) : asCell f (code % 2 ^ f.bits) = asCell f code := by
  cases f with
  | int s w =>
    cases s with
    | true => exact congrArg (BitVec.signExtend 32) (BitVec.eq_of_toNat_eq (by simp [Format.bits]))
    | false => simp only [asCell, Nat.mod_mod]
  | _ => simp only [asCell, Nat.mod_mod]

/-! ## Lanes -/

theorem isFloating_iff {fmt : BitVec 4} (h : fmt.toNat ≤ 9) : isFloating fmt = true ↔ 7 ≤ fmt.toNat := by
  simp [isFloating, h]

/-- One lane of an arithmetic instruction, in the manual's words (R139). -/
theorem cellOf_laneOp {w : Fields} (hf : w.fmt.toNat ≤ 9) (fp : Rnd → Nat → Nat → Nat → Nat) (int : Nat → Int → Int → Int → Int) (x y z : Word32) :
    let f := plainFormat w.fmt.toNat
    cellOf f (laneOp f w.mod.toNat fp int (elemOf f x) (elemOf f y) (elemOf f z)) =
      laneResult w (fp (Rnd.ofMod w.mod.toNat)) (int f.bits) x y z := by
  simp only
  rw [cellOf_eq_asCell]
  unfold laneResult cellResult
  simp only [elemOf_eq_codeIn]
  generalize hn : w.fmt.toNat = n at hf
  have hfl : isFloating w.fmt = decide (7 ≤ n) := by simp [isFloating, hn, hf]
  rw [hfl]
  rcases Nat.lt_or_ge n 7 with h7 | h7
  · interval_cases n <;> (simp only [plainFormat, laneOp, ival_codeIn]; exact asCell_finish ..)
  · interval_cases n <;> rfl

end Sys2Proof.Machine
end

section
/-! ## Vector arithmetic -/

namespace Sys2Proof.Machine

theorem map_zip_eq_zipWith {α β γ : Type} (f : α → β → γ) (l : List α) (m : List β) : (l.zip m).map (fun p => f p.1 p.2) = List.zipWith f l m := by
  rw [List.zip, List.map_zipWith]

theorem zip3_eq_map {α β γ δ : Type} (f : α → β → γ → δ) (as : List α) (bs : List β) (cs : List γ) :
    zip3 f as bs cs = (as.zip (bs.zip cs)).map (fun p => f p.1 p.2.1 p.2.2) := by
  induction as generalizing bs cs with
  | nil => simp [zip3]
  | cons a as ih =>
    rcases bs with _ | ⟨b, bs⟩ <;> rcases cs with _ | ⟨c, cs⟩ <;> simp [zip3, ih]

theorem zip3_self_eq_map {α β δ : Type} (f : α → β → β → δ) (as : List α) (bs : List β) :
    zip3 f as bs bs = (as.zip bs).map (fun p => f p.1 p.2 p.2) := by
  induction as generalizing bs with
  | nil => simp [zip3]
  | cons a as ih => rcases bs with _ | ⟨b, bs⟩ <;> simp [zip3, ih]

/-- The forms of the element-wise arithmetic words: W sources, no command, a plain FMT (R137, R148). -/
structure ArithForm (i : Instr) : Prop where
  a : ∀ c, (formOf c i).a = .w
  cmd : ∀ c, (formOf c i).cmd = none
  fmts : ∀ c, (formOf c i).fmts = [0, 1, 2, 3, 4, 5, 6, 7, 8, 9]

theorem Issues.queueOfA {i : Instr} {s : State} (h : Issues i s) (ha : ∀ c, (formOf c i).a ∈ [Mark.w, .v, .k, .r, .idx, .stride]) :
    queueOf (fieldsOf i).a = [] := queueOf_of_admits (ha _) h.admitsA

theorem Issues.queueOfB {i : Instr} {s : State} (h : Issues i s) (hb : ∀ c, (formOf c i).b ∈ [Mark.w, .v, .k, .r, .idx, .stride]) :
    queueOf (fieldsOf i).b = [] := queueOf_of_admits (hb _) h.admitsB

theorem Issues.fmt_le_nine {i : Instr} {s : State} (h : Issues i s) (hf : ArithForm i) : (fieldsOf i).fmt.toNat ≤ 9 := by
  have := h.fmt_mem
  rw [hf.fmts] at this
  simp only [List.mem_cons, List.not_mem_nil, or_false] at this
  omega

/-- An element-wise word of one source (R148). -/
theorem Issues.laneUnary {i : Instr} {w : Fields} {s : State} {fp : Nat → Nat} {int : Int → Int} (h : Issues i s) (hw : fieldsOf i = w) (hf : ArithForm i)
    (hexec : exec i s = issue i (laneUnary w fp int) s) :
    YieldsLanes i s [] ((s.lanesOf [] (plainFormat w.fmt.toNat) w.a).map
      (fun a => laneResult w (fun x _ _ => fp x) (fun x _ _ => int x) a 0 0)) := by
  subst hw
  obtain ⟨u, ha, hr⟩ := (Reads.begun s i).operandW h.pair (plainFormat (fieldsOf i).fmt.toNat) (h.queueOfA (fun c => by simp [hf.a c]))
  refine h.yieldsLanes hexec hf.cmd hr ?_
  have hlane := cellOf_laneOp (h.fmt_le_nine hf) (fun _ c _ _ => fp c) (fun _ i _ _ => int i)
  simp only [Machine.laneUnary, run_bind, ha]
  simp only [← hlane _ 0 0]
  rfl

/-- An element-wise word of two sources (R148). -/
theorem Issues.lanewise_two {i : Instr} {w : Fields} {s : State} {fp : Rnd → Nat → Nat → Nat} {int : Nat → Int → Int → Int} (h : Issues i s)
    (hw : fieldsOf i = w) (hf : ArithForm i) (hb : ∀ c, (formOf c i).b = .w)
    (hexec : exec i s = issue i (lanewise w (fun m x y _ => fp m x y) (fun n x y _ => int n x y) false) s) :
    YieldsLanes i s [] (((s.lanesOf [] (plainFormat w.fmt.toNat) w.a).zip
        (s.lanesOf [] (plainFormat w.fmt.toNat) w.b)).map
      (fun p => laneResult w (fun x y _ => fp (Rnd.ofMod w.mod.toNat) x y)
        (fun x y _ => int (plainFormat w.fmt.toNat).bits x y) p.1 p.2 0)) := by
  subst hw
  obtain ⟨u, ha, hr⟩ := (Reads.begun s i).operandW h.pair (plainFormat (fieldsOf i).fmt.toNat) (h.queueOfA (fun c => by simp [hf.a c]))
  obtain ⟨v, hb, hr⟩ := hr.operandW h.pair (plainFormat (fieldsOf i).fmt.toNat) (h.queueOfB (fun c => by simp [hb c]))
  refine h.yieldsLanes hexec hf.cmd hr ?_
  have hlane := cellOf_laneOp (h.fmt_le_nine hf) (fun m x y _ => fp m x y) (fun n x y _ => int n x y)
  simp only [lanewise, run_bind, run_pure, ha, hb, Bool.false_eq_true, if_false, zip3_self_eq_map, hlane]
  rfl

/-- An element-wise word of three sources (R148). -/
theorem Issues.lanewise_three {i : Instr} {w : Fields} {s : State} {fp : Rnd → Nat → Nat → Nat → Nat} {int : Nat → Int → Int → Int → Int} (h : Issues i s)
    (hw : fieldsOf i = w) (hf : ArithForm i) (hb : ∀ c, (formOf c i).b = .w) (hc : ∀ c, (formOf c i).c = .w ∧ (formOf c i).cWrite = false)
    (hexec : exec i s = issue i (lanewise w fp int true) s) :
    YieldsLanes i s [] (((s.lanesOf [] (plainFormat w.fmt.toNat) w.a).zip
        ((s.lanesOf [] (plainFormat w.fmt.toNat) w.b).zip (s.lanesOf [] (plainFormat w.fmt.toNat) w.c))).map
      (fun p => laneResult w (fp (Rnd.ofMod w.mod.toNat)) (int (plainFormat w.fmt.toNat).bits) p.1 p.2.1 p.2.2)) := by
  subst hw
  obtain ⟨u, ha, hr⟩ := (Reads.begun s i).operandW h.pair (plainFormat (fieldsOf i).fmt.toNat) (h.queueOfA (fun c => by simp [hf.a c]))
  obtain ⟨v, hb, hr⟩ := hr.operandW h.pair (plainFormat (fieldsOf i).fmt.toNat) (h.queueOfB (fun c => by simp [hb c]))
  obtain ⟨x, hc, hr⟩ := hr.operandW h.pair (plainFormat (fieldsOf i).fmt.toNat)
    (queueOf_of_admits (by simp [hc _]) (h.admitsC (hc _).2))
  refine h.yieldsLanes hexec hf.cmd hr ?_
  have hlane := cellOf_laneOp (h.fmt_le_nine hf) fp int
  simp only [lanewise, run_bind, run_pure, ha, hb, hc, if_true, zip3_eq_map, hlane]

/-- The sign bit of a code, flipped by an addition or by an exclusive or (R84, R148). -/
theorem add_signBit_eq_xor {k x : Nat} (hx : x < 2 ^ (k + 1)) : (x + 2 ^ k) % 2 ^ (k + 1) = x ^^^ 2 ^ k := by
  apply Nat.eq_of_testBit_eq
  intro j
  rw [Nat.testBit_mod_two_pow, Nat.testBit_xor, Nat.testBit_two_pow, Nat.add_comm x]
  rcases lt_trichotomy j k with h | h | h
  · rw [Nat.testBit_two_pow_add_gt h]
    simp [h.ne', Nat.lt_succ_of_lt h]
  · subst h
    rw [Nat.testBit_two_pow_add_eq]
    simp
  · have hj : x.testBit j = false := Nat.testBit_lt_two_pow (lt_of_lt_of_le hx (Nat.pow_le_pow_right (by omega) h))
    simp [hj, h.ne, Nat.not_lt.2 h]

theorem fnegCode_eq_xor (f : Format) {x : Nat} (hf : 0 < f.bits) (hx : x < 2 ^ f.bits) : fnegCode f x = x ^^^ 2 ^ (f.bits - 1) := by
  obtain ⟨k, hk⟩ : ∃ k, f.bits = k + 1 := ⟨f.bits - 1, by omega⟩
  unfold fnegCode
  rw [hk] at hx ⊢
  exact add_signBit_eq_xor hx

theorem plainFormat_bits_pos (code : Nat) : 0 < (plainFormat code).bits := by
  unfold plainFormat
  split <;> decide

/-- Settles O23: each word is one of the element-wise bodies, whose lanes are laneResult. -/
theorem vectorArithmetic : Obligations.VectorArithmetic := by
  unfold Obligations.VectorArithmetic
  intro w s f m n A B C one two
  refine ⟨fun h => ?add, fun h => ?sub, fun h => ?mul, fun h => ?min, fun h => ?max, fun h => ?abs, fun h => ?neg, fun h => ?fma⟩
  case add => exact h.lanewise_two (fp := fadd f) (int := fun _ x y => x + y) rfl ⟨fun _ => rfl, fun _ => rfl, fun _ => rfl⟩ (fun _ => rfl) rfl
  case sub => exact h.lanewise_two (fp := fsub f) (int := fun _ x y => x - y) rfl ⟨fun _ => rfl, fun _ => rfl, fun _ => rfl⟩ (fun _ => rfl) rfl
  case mul =>
    exact h.lanewise_two (fp := fmul f) (int := fun n x y => if w.mod = 2 then x * y / ((2 ^ n : Nat) : Int) else x * y) rfl
      ⟨fun _ => rfl, fun _ => rfl, fun _ => rfl⟩ (fun _ => rfl) rfl
  case min => exact h.lanewise_two (fp := fun _ => minMaxCode f false) (int := fun _ x y => min x y) rfl ⟨fun _ => rfl, fun _ => rfl, fun _ => rfl⟩ (fun _ => rfl) rfl
  case max => exact h.lanewise_two (fp := fun _ => minMaxCode f true) (int := fun _ x y => max x y) rfl ⟨fun _ => rfl, fun _ => rfl, fun _ => rfl⟩ (fun _ => rfl) rfl
  case abs =>
    have hint : (fun x : Int => if x < 0 then -x else x) = fun x => (x.natAbs : Int) := by funext x; split <;> omega
    exact h.laneUnary (fp := fabsCode f) (int := fun x => (x.natAbs : Int)) rfl ⟨fun _ => rfl, fun _ => rfl, fun _ => rfl⟩ (by rw [← hint]; rfl)
  case neg =>
    have hcell : ∀ a, laneResult w (fun x _ _ => fnegCode f x) (fun x _ _ => -x) a 0 0 =
        laneResult w (fun x _ _ => x ^^^ 2 ^ (f.bits - 1)) (fun x _ _ => -x) a 0 0 := fun a => by
      simp only [laneResult, cellResult, f, fnegCode_eq_xor _ (plainFormat_bits_pos _) (codeIn_lt _ a)]
    have := h.laneUnary (w := w) (fp := fnegCode f) (int := fun x => -x) rfl ⟨fun _ => rfl, fun _ => rfl, fun _ => rfl⟩ rfl
    simpa only [hcell] using this
  case fma =>
    exact h.lanewise_three (fp := ffma f) (int := fun _ x y z => x * y + z) rfl ⟨fun _ => rfl, fun _ => rfl, fun _ => rfl⟩ (fun _ => rfl)
      (fun _ => ⟨rfl, rfl⟩) rfl

end Sys2Proof.Machine
end

section
/-! ## Vector logic, shifts and moves -/

namespace Sys2Proof.Machine

/-- An element-wise word on bits (R149). -/
theorem Issues.lanebits {i : Instr} {w : Fields} {s : State} {op : Nat → Nat → Nat → Nat} (h : Issues i s) (hw : fieldsOf i = w)
    (ha : ∀ c, (formOf c i).a = .w) (hb : ∀ c, (formOf c i).b = .w) (hcmd : ∀ c, (formOf c i).cmd = none)
    (hexec : exec i s = issue i (lanebits w op) s) :
    YieldsLanes i s [] (((s.lanesOf [] (plainFormat w.fmt.toNat) w.a).zip (s.lanesOf [] (plainFormat w.fmt.toNat) w.b)).map
      (fun p => asCell (plainFormat w.fmt.toNat) (op (plainFormat w.fmt.toNat).bits (codeIn (plainFormat w.fmt.toNat) p.1) p.2.toNat))) := by
  subst hw
  obtain ⟨u, ha, hr⟩ := (Reads.begun s i).operandW h.pair (plainFormat (fieldsOf i).fmt.toNat) (h.queueOfA (fun c => by simp [ha c]))
  obtain ⟨v, hb, hr⟩ := hr.operandW h.pair (plainFormat (fieldsOf i).fmt.toNat) (h.queueOfB (fun c => by simp [hb c]))
  refine h.yieldsLanes hexec hcmd hr ?_
  simp only [Machine.lanebits, run_bind, ha, hb, cellOf_eq_asCell, elemOf_eq_codeIn, ← map_zip_eq_zipWith]

theorem codeIn_raw (x : Word32) : codeIn .raw x = x.toNat := Nat.mod_eq_of_lt x.isLt

theorem asCell_raw_toNat (x : Word32) : asCell .raw x.toNat = x := by
  show BitVec.ofNat 32 (x.toNat % 2 ^ 32) = x
  rw [Nat.mod_eq_of_lt x.isLt, BitVec.ofNat_toNat, BitVec.setWidth_eq]

/-- A bitwise word on untyped lanes (R149). -/
theorem Issues.bitwise {i : Instr} {w : Fields} {s : State} {op : Nat → Nat → Nat → Nat} {g : Word32 → Word32 → Word32} (h : Issues i s)
    (hw : fieldsOf i = w) (ha : ∀ c, (formOf c i).a = .w) (hb : ∀ c, (formOf c i).b = .w) (hcmd : ∀ c, (formOf c i).cmd = none)
    (hfmts : ∀ c, (formOf c i).fmts = [0]) (hexec : exec i s = issue i (Machine.lanebits w op) s)
    (hg : ∀ x y : Word32, op 32 x.toNat y.toNat = (g x y).toNat) :
    YieldsLanes i s [] (((s.lanesOf [] .raw w.a).zip (s.lanesOf [] .raw w.b)).map (fun p => g p.1 p.2)) := by
  have hraw : plainFormat w.fmt.toNat = .raw := by
    have hfmt := h.fmt_mem
    rw [hfmts, hw] at hfmt
    rw [List.mem_singleton.1 hfmt]
    rfl
  have := h.lanebits hw ha hb hcmd hexec
  simp only [hraw, codeIn_raw] at this
  have hcell : ∀ x y : Word32, asCell .raw (op Format.raw.bits x.toNat y.toNat) = g x y := fun x y => by
    rw [show Format.raw.bits = 32 from rfl, hg, asCell_raw_toNat]
  simpa only [hcell] using this

/-! ### Shifts (R73, R149) -/

theorem shl_eq (w u n : Nat) : shl w u n = (BitVec.ofNat w u <<< n).toNat := by
  rw [BitVec.toNat_shiftLeft, BitVec.toNat_ofNat, Nat.shiftLeft_eq]
  unfold shl
  split
  · next h =>
    have : 2 ^ w ∣ u % 2 ^ w * 2 ^ n := Dvd.dvd.mul_left (pow_dvd_pow 2 h) _
    exact (Nat.mod_eq_zero_of_dvd this).symm
  · rw [Nat.mod_mul_mod]

theorem shr_eq {w u : Nat} (hu : u < 2 ^ w) (n : Nat) : shr w u n = (BitVec.ofNat w u >>> n).toNat := by
  rw [BitVec.toNat_ushiftRight, BitVec.toNat_ofNat, Nat.mod_eq_of_lt hu, Nat.shiftRight_eq_div_pow]
  unfold shr
  split
  · next h => exact (Nat.div_eq_of_lt (lt_of_lt_of_le hu (Nat.pow_le_pow_right (by omega) h))).symm
  · rfl

theorem sshiftRight_eq_ofInt {w : Nat} (x : BitVec w) (n : Nat) : x.sshiftRight n = BitVec.ofInt w (x.toInt / ((2 ^ n : Nat) : Int)) := by
  rw [← Int.shiftRight_eq_div_pow]; rfl

theorem wrapTo_neg_one (w : Nat) : wrapTo w (-1) = 2 ^ w - 1 := by
  rw [wrapTo_toNat, BitVec.ofInt_neg, ← BitVec.toNat_allOnes, ← BitVec.neg_one_eq_allOnes]
  rfl

theorem sar_eq {w u : Nat} (hw : 0 < w) (hu : u < 2 ^ w) (n : Nat) : sar w u n = ((BitVec.ofNat w u).sshiftRight n).toNat := by
  rw [sshiftRight_eq_ofInt, ← wrapTo_toNat, ← sext_eq_toInt]
  unfold sar
  split
  · next hn =>
    obtain ⟨k, rfl⟩ : ∃ k, w = k + 1 := ⟨w - 1, by omega⟩
    have hk : (2 : Nat) ^ (k + 1) = 2 * 2 ^ k := Nat.pow_succ'
    have hkn : 2 ^ (k + 1) ≤ 2 ^ n := Nat.pow_le_pow_right (by omega) hn
    unfold sext
    rw [Nat.add_sub_cancel, Nat.mod_eq_of_lt hu]
    split
    · next hs =>
      have hdiv : ((u : Int) - (2 ^ (k + 1) : Nat)) / ((2 ^ n : Nat) : Int) = -1 := by
        rw [Int.ediv_eq_iff_of_pos (by positivity)]
        omega
      rw [hdiv, wrapTo_neg_one]
    · next hs =>
      rw [Int.ediv_eq_zero_of_lt (by positivity) (by omega)]
      simp [wrapTo]
  · rfl

/-- A shift word (R149). -/
theorem Issues.shifts {i : Instr} {w : Fields} {s : State} {op : Nat → Nat → Nat → Nat} {g : (k : Nat) → BitVec k → Nat → BitVec k} (h : Issues i s)
    (hw : fieldsOf i = w) (ha : ∀ c, (formOf c i).a = .w) (hb : ∀ c, (formOf c i).b = .w) (hcmd : ∀ c, (formOf c i).cmd = none)
    (hexec : exec i s = issue i (Machine.lanebits w op) s)
    (hg : ∀ n u k, 0 < n → u < 2 ^ n → op n u k = (g n (BitVec.ofNat n u) k).toNat) :
    YieldsLanes i s [] (((s.lanesOf [] (plainFormat w.fmt.toNat) w.a).zip (s.lanesOf [] (plainFormat w.fmt.toNat) w.b)).map
      (fun p => asCell (plainFormat w.fmt.toNat)
        (g (plainFormat w.fmt.toNat).bits (BitVec.ofNat (plainFormat w.fmt.toNat).bits (codeIn (plainFormat w.fmt.toNat) p.1)) p.2.toNat).toNat)) := by
  have := h.lanebits hw ha hb hcmd hexec
  simpa only [hg _ _ _ (plainFormat_bits_pos _) (codeIn_lt _ _)] using this

/-! ### Selection and moves -/

/-- A blend of two lists by a mask of 1,024 bits (R138, R151). -/
theorem blend_mask (m : BitVec 1024) (a b : List Word32) :
    blend m.toNat true a b = (a.zip b).zipIdx.map (fun p => if m.getLsbD p.2 then p.1.1 else p.1.2) := by
  have := blend_eq m.toNat true a b 0
  rw [pow_zero, Nat.div_one] at this
  simpa [BitVec.getLsbD] using this

theorem Issues.vsel {w : Fields} {s : State} (h : Issues (.vsel w) s) : YieldsLanes (.vsel w) s []
    (((s.lanesOf [] .raw w.a).zip (s.lanesOf [] .raw w.b)).zipIdx.map
      (fun p => if (s.myTask.k.get (opndIndex w.c) 0).getLsbD p.2 then p.1.1 else p.1.2)) := by
  obtain ⟨u, ha, hr⟩ := (Reads.begun s (.vsel w)).operandW h.pair .raw (o := w.a) (h.queueOfA (fun _ => by simp [formOf]))
  obtain ⟨v, hb, hr⟩ := hr.operandW h.pair .raw (o := w.b) (h.queueOfB (fun _ => by simp [formOf]))
  refine h.yieldsLanes (body := bodyVsel w) rfl (fun _ => rfl) hr ?_
  simp only [bodyVsel, run_bind, ha, hb, run_readMask, hr.mask, blend_mask]
  rfl

theorem Issues.vmov {w : Fields} {s : State} (h : Issues (.vmov w) s) : YieldsLanes (.vmov w) s [] (s.lanesOf [] .raw w.a) := by
  obtain ⟨u, ha, hr⟩ := (Reads.begun s (.vmov w)).operandW h.pair .raw (o := w.a) (h.queueOfA (fun _ => by simp [formOf]))
  refine h.yieldsLanes (body := bodyVmov w) rfl (fun _ => rfl) hr ?_
  simp only [bodyVmov, run_bind, ha]
  rfl

/-- FMT 15 issues nowhere (R46). -/
theorem Issues.fmt_lt {i : Instr} {s : State} (h : Issues i s) : (fieldsOf i).fmt.toNat < 15 := by
  have hfmt := h.checked.2 _ (List.mem_append_left _ (List.mem_append_left _ (List.mem_append_left _ (List.mem_cons_self ..))))
  have hne : (fieldsOf i).fmt ≠ 0xF#4 := by simpa using (Bool.or_eq_false_iff.1 hfmt).1
  have hlt := (fieldsOf i).fmt.isLt
  have : (fieldsOf i).fmt.toNat ≠ 15 := fun hc => hne (BitVec.eq_of_toNat_eq hc)
  omega

theorem Issues.vbcs {w : Fields} {s : State} {g : Format} (h : Issues (.vbcs w) s) (hg : s.myTask.formatAt w.fmt.toNat = some g) :
    YieldsLanes (.vbcs w) s [w.a] (List.replicate 1024 (asCell g ((s.valueA w).toNat % 2 ^ g.bits))) := by
  have hpop : queuesPopped (.vbcs w) (formOf s.cur.strand.core (.vbcs w)) w = [] ++ queueOf w.a ++ [] := by
    rw [queuesPopped_eq (by simp)]
    simp [formOf]
  have hfmt := (Reads.begun s (.vbcs w)).formatOf hg h.fmt_lt 0x87 w 0
  obtain ⟨u, ha, hr⟩ := (Reads.begun s (.vbcs w)).source h.pair w.a (h.supplies hpop)
  refine h.yieldsLanes (body := bodyVbcs w) rfl (fun _ => rfl) (by simpa using hr) ?_
  simp only [bodyVbcs, run_bind, hfmt, ha, asCell_mod, cellOf_eq_asCell]
  rfl

end Sys2Proof.Machine
end

section
/-! ## Compares and masks -/

namespace Sys2Proof.Machine

/-! ### Whole registers -/

/-- The vector registers of a task that have been written hold 1,024 cells (R134). -/
def Task.VectorsWhole (t : Task) : Prop := ∀ n, t.v.get n [] = [] ∨ (t.v.get n []).length = 1024

theorem Task.VectorsWhole.length_vec {t : Task} (h : t.VectorsWhole) (n : Nat) : (t.vec n).length = 1024 := by
  unfold Task.vec
  rcases h n with hn | hn
  · rw [hn]
    exact List.length_replicate
  · split
    · exact List.length_replicate
    · exact hn

theorem State.VectorsWhole.length_vec {s : State} (h : s.VectorsWhole) (n : Nat) : (s.myTask.vec n).length = 1024 :=
  Task.VectorsWhole.length_vec (h s.cur.strand.task) n

theorem State.VectorsWhole.length_lanesOf {s : State} (h : s.VectorsWhole) (pops : List QueueName) (f : Format) (o : Opnd) :
    (s.lanesOf pops f o).length = 1024 := by
  cases o with
  | reg i => exact h.length_vec _
  | _ => exact List.length_replicate

/-! ### Bits of a mask -/

theorem testBit_packBits (l : List Bool) (k : Nat) : (packBits l).testBit k = l.getD k false := by
  induction l generalizing k with
  | nil => simp [packBits]
  | cons b bs ih =>
    cases k with
    | zero => cases b <;> simp [packBits, Nat.testBit_zero, Nat.add_mod]
    | succ k =>
      have hdiv : packBits (b :: bs) / 2 = packBits bs := by cases b <;> simp only [packBits, Bool.toNat_true, Bool.toNat_false] <;> omega
      rw [Nat.testBit_succ, hdiv, ih]
      rfl

/-- A mask under lane control, as numbers and as registers (R138, R150). -/
theorem ofNat_maskLanes {s : State} {w : Fields} {x : Nat} :
    BitVec.ofNat 1024 (maskLanes w (fun n => (s.myTask.k.get n 0).toNat) x (s.myTask.k.get (opndIndex w.d) 0).toNat) = s.maskUnder w (BitVec.ofNat 1024 x) := by
  unfold maskLanes State.maskUnder
  split
  · apply BitVec.eq_of_getLsbD_eq
    intro j hj
    rw [BitVec.getLsbD_ofNat, BitVec.getLsbD_or, BitVec.getLsbD_and, BitVec.getLsbD_ofNat, Nat.testBit_or, Nat.testBit_and]
    have hnot : (2 ^ laneCount - 1 - (s.myTask.k.get (fld w.e 3 0) 0).toNat).testBit j = !(s.myTask.k.get (fld w.e 3 0) 0).getLsbD j := by
      have := Nat.testBit_two_pow_sub_succ (s.myTask.k.get (fld w.e 3 0) 0).isLt j
      rw [show laneCount = 1024 from rfl, Nat.sub_sub, Nat.add_comm 1, this, decide_eq_true hj, Bool.true_and]
      rfl
    cases w.e.getLsbD 5
    · simp only [Bool.false_eq_true, if_false, Nat.testBit_and, hnot, BitVec.getLsbD_and, BitVec.getLsbD_not, hj, decide_true, Bool.true_and]
      rfl
    · simp [hj, BitVec.getLsbD]
  · rfl

/-! ### Conditions (R77, R85, R150) -/

/-- The integer conditions, on the elements as bit vectors. -/
theorem intCond_eq (mod : Nat) {n x y : Nat} (hx : x < 2 ^ n) (hy : y < 2 ^ n) :
    intCond mod n x y =
      (match mod with
        | 0 => BitVec.ofNat n x == BitVec.ofNat n y
        | 1 => BitVec.ofNat n x != BitVec.ofNat n y
        | 2 => (BitVec.ofNat n x).slt (BitVec.ofNat n y)
        | 3 => (BitVec.ofNat n x).sle (BitVec.ofNat n y)
        | 4 => (BitVec.ofNat n x).ult (BitVec.ofNat n y)
        | 5 => (BitVec.ofNat n x).ule (BitVec.ofNat n y)
        | 6 => BitVec.ofNat n x &&& BitVec.ofNat n y != 0
        | _ => BitVec.ofNat n x &&& BitVec.ofNat n y == 0) := by
  have hand : ((BitVec.ofNat n x &&& BitVec.ofNat n y) == 0) = (x &&& y == 0) := by
    rw [Bool.eq_iff_iff, beq_iff_eq, beq_iff_eq, ← BitVec.toNat_inj, BitVec.toNat_and, BitVec.toNat_ofNat, BitVec.toNat_ofNat,
      Nat.mod_eq_of_lt hx, Nat.mod_eq_of_lt hy]
    rfl
  have heq : (BitVec.ofNat n x == BitVec.ofNat n y) = (x == y) := by
    rw [Bool.eq_iff_iff, beq_iff_eq, beq_iff_eq, ← BitVec.toNat_inj, BitVec.toNat_ofNat, BitVec.toNat_ofNat, Nat.mod_eq_of_lt hx, Nat.mod_eq_of_lt hy]
  unfold intCond
  rcases mod with _ | _ | _ | _ | _ | _ | _ | mod
  · exact heq.symm
  · exact congrArg (!·) heq.symm
  · rw [sext_eq_toInt, sext_eq_toInt]; rfl
  · rw [sext_eq_toInt, sext_eq_toInt]; rfl
  · simp [BitVec.ult, Nat.mod_eq_of_lt hx, Nat.mod_eq_of_lt hy]
  · simp [BitVec.ule, Nat.mod_eq_of_lt hx, Nat.mod_eq_of_lt hy]
  · exact congrArg (!·) hand.symm
  · exact hand.symm

/-! ### Words that write a mask -/

/-- A word that reads its sources and then writes a mask register (R135). -/
theorem Issues.completesMask {i : Instr} {s u : State} {body : M Flow} {os : List Opnd} {n : Nat} {m : BitVec 1024} (h : Issues i s)
    (hexec : exec i s = issue i body s) (hcmd : ∀ c, (formOf c i).cmd = none)
    (hr : Reads s u (popsAtIssue s.cur.strand.core i) (os.flatMap queueOf))
    (hb : body (s.begun i) = (do writeMask n m; return .fall : M Flow) u) :
    Completes i s { ownEffect s (fieldsOf i) os with masks := [(n, m)] } := by
  obtain ⟨u', hrun, hd, hw⟩ := hr.does.writeMask (h.within hr) n m
  have hrun' : body (s.begun i) = .ok (.fall, u') := by rw [hb]; simp only [run_bind, hrun, run_pure]
  simpa [ownEffect, popsAtIssue_eq hcmd] using h.completes hexec hcmd hrun' hd hw

/-- The condition of a compare on two cells (R77, R85, R150). -/
def compareCells (w : Fields) (x y : Word32) : Bool :=
  if 7 ≤ w.fmt.toNat then floatCond w.mod.toNat (decodeNum (plainFormat w.fmt.toNat) (codeIn (plainFormat w.fmt.toNat) x))
    (decodeNum (plainFormat w.fmt.toNat) (codeIn (plainFormat w.fmt.toNat) y))
  else intCond w.mod.toNat (plainFormat w.fmt.toNat).bits (codeIn (plainFormat w.fmt.toNat) x) (codeIn (plainFormat w.fmt.toNat) y)

theorem Issues.vcmp {w : Fields} {s : State} (h : Issues (.vcmp w) s) (hwhole : s.VectorsWhole) :
    ∃ r : BitVec 1024, (∀ l, l < 1024 → r.getLsbD l =
        compareCells w ((s.lanesOf [] (plainFormat w.fmt.toNat) w.a).getD l 0) ((s.lanesOf [] (plainFormat w.fmt.toNat) w.b).getD l 0)) ∧
      Completes (.vcmp w) s { ownEffect s w [] with masks := [(opndIndex w.d, s.maskUnder w r)] } := by
  set f := plainFormat w.fmt.toNat with hf
  obtain ⟨u, ha, hr⟩ := (Reads.begun s (.vcmp w)).operandW h.pair f (o := w.a) (h.queueOfA (fun _ => by simp [formOf]))
  obtain ⟨v, hb, hr⟩ := hr.operandW h.pair f (o := w.b) (h.queueOfB (fun _ => by simp [formOf]))
  set bs := List.zipWith (compareCells w) (s.lanesOf [] f w.a) (s.lanesOf [] f w.b) with hbs
  have hlenA := hwhole.length_lanesOf [] f w.a
  have hlenB := hwhole.length_lanesOf [] f w.b
  refine ⟨BitVec.ofNat 1024 (packBits bs), fun l hl => ?_, ?_⟩
  · rw [BitVec.getLsbD_ofNat, testBit_packBits, decide_eq_true hl, Bool.true_and, hbs]
    simp [List.getD_eq_getElem?_getD, hlenA, hlenB, hl]
  · refine h.completesMask (body := bodyVcmp w) rfl (fun _ => rfl) hr ?_
    simp only [bodyVcmp, run_bind, ← hf, ha, hb, run_theTask, hr.mask, ← ofNat_maskLanes, hbs]
    rfl

theorem Issues.klog {w : Fields} {s : State} (h : Issues (.klog w) s) :
    Completes (.klog w) s { ownEffect s w [] with
      masks := [(opndIndex w.d, maskLogic w.mod.toNat (s.myTask.k.get (opndIndex w.a) 0) (s.myTask.k.get (opndIndex w.b) 0))] } := by
  have hr := Reads.begun s (.klog w)
  refine h.completesMask (body := bodyKlog w) rfl (fun _ => rfl) hr ?_
  simp only [bodyKlog, run_bind, run_readMask, hr.mask]

/-! ### Results in a destination -/

/-- A destination that takes a result finds room in its queue (R12, R13). -/
theorem Issues.takesIn {i : Instr} {s u : State} {pops : List QueueName} (h : Issues i s) (hi : ∀ x, i ≠ .qpush x)
    (hd : (formOf s.cur.strand.core i).d = .d) (hr : Reads s u (popsAtIssue s.cur.strand.core i) pops) : s.takesIn u (fieldsOf i).d := by
  intro q hq
  have hroom := h.roomFor hi q (by rw [queuesPushed, if_pos (.inl hd)]; exact hq)
  obtain ⟨m, hm⟩ := hr.task
  have hle : u.myTask.queueLen q ≤ s.myTask.queueLen q := by rw [hm]; cases q <;> simp [Task.queueLen]
  omega

theorem Effect.toDest_gives (e : Effect) (g : List (Nat × Nat)) (c : CoreId) (d : Opnd) (v : Word64) :
    { e with gives := g }.toDest c d v = { e.toDest c d v with gives := g } := by
  cases d with
  | queue k => simp only [Effect.toDest]; cases queueOfCode k <;> rfl
  | _ => rfl

theorem Effect.gives_toDest (e : Effect) (c : CoreId) (d : Opnd) (v : Word64) : (e.toDest c d v).gives = e.gives := by
  cases d with
  | queue k => simp only [Effect.toDest]; cases queueOfCode k <;> rfl
  | _ => rfl

/-- A word that reads its sources and then writes a result to its destination (R67). -/
theorem Issues.yields {i : Instr} {s u : State} {body : M Flow} {os : List Opnd} {v : Word64} (h : Issues i s)
    (hexec : exec i s = issue i body s) (hcmd : ∀ c, (formOf c i).cmd = none) (hi : ∀ x, i ≠ .qpush x) (hd : ∀ c, (formOf c i).d = .d)
    (hr : Reads s u (popsAtIssue s.cur.strand.core i) (os.flatMap queueOf))
    (hb : body (s.begun i) = (do destine (fieldsOf i).d v; return .fall : M Flow) u) : Yields i s os v := by
  obtain ⟨u', hrun, hdo, hw⟩ := hr.does.destine (h.within hr) (fieldsOf i).d v (h.takesIn hi (hd _) hr)
  have hrun' : body (s.begun i) = .ok (.fall, u') := by rw [hb]; simp only [run_bind, hrun, run_pure]
  have hdone := h.completes hexec hcmd hrun' hdo hw
  rw [Effect.gives_toDest, ← Effect.toDest_gives] at hdone
  simpa [Yields, ownEffect, popsAtIssue_eq hcmd] using hdone

/-! ### Bits of a mask, moved and counted (R74, R152) -/

/-- Bits of a register with a field of 32 replaced. -/
theorem testBit_insertField {k x j l : Nat} (hj : j < 32) :
    (insertField 1024 k x (32 * j) 32).testBit l = if 32 * j ≤ l ∧ l < 32 * j + 32 then x.testBit (l - 32 * j) else k.testBit l := by
  have hm : min 32 (1024 - 32 * j) = 32 := by omega
  unfold insertField
  rw [if_neg (by omega)]
  simp only [hm]
  have hsum : k % 2 ^ (32 * j) + x % 2 ^ 32 * 2 ^ (32 * j) + k / 2 ^ (32 * j + 32) * 2 ^ (32 * j + 32) =
      2 ^ (32 * j) * (2 ^ 32 * (k / 2 ^ (32 * j + 32)) + x % 2 ^ 32) + k % 2 ^ (32 * j) := by ring
  rw [hsum, Nat.testBit_two_pow_mul_add _ (Nat.mod_lt _ (by positivity)), Nat.testBit_two_pow_mul_add _ (Nat.mod_lt _ (by positivity)),
    Nat.testBit_mod_two_pow, Nat.testBit_mod_two_pow, Nat.testBit_div_two_pow]
  by_cases h1 : l < 32 * j
  · rw [if_pos h1, if_neg (by omega), decide_eq_true h1, Bool.true_and]
  · rw [if_neg h1]
    by_cases h2 : l - 32 * j < 32
    · rw [if_pos h2, if_pos (by omega), decide_eq_true h2, Bool.true_and]
    · rw [if_neg h2, if_neg (by omega)]
      rw [show l - 32 * j - 32 + (32 * j + 32) = l by omega]

theorem extractField_toNat (k : BitVec 1024) {j : Nat} (hj : j < 32) :
    BitVec.ofNat 64 (extractField 1024 false k.toNat (32 * j) 32) = (k.extractLsb' (32 * j) 32).setWidth 64 := by
  have hm : min 32 (1024 - 32 * j) = 32 := by omega
  unfold extractField
  rw [if_neg (by omega)]
  simp only [hm, Bool.false_eq_true, if_false]
  apply BitVec.eq_of_toNat_eq
  rw [BitVec.toNat_ofNat, BitVec.toNat_setWidth, BitVec.extractLsb'_toNat, Nat.shiftRight_eq_div_pow]

theorem popCount_eq (n u : Nat) : popCount n u = ((List.range n).filter (fun k => u.testBit k)).length := by
  induction n generalizing u with
  | zero => rfl
  | succ n ih =>
    rw [popCount, ih, List.range_succ_eq_map, List.filter_cons, List.filter_map]
    have hbit : (fun k => (u / 2).testBit k) = ((fun k => u.testBit k) ∘ Nat.succ) := by funext k; exact (Nat.testBit_succ u k).symm
    rw [hbit]
    rcases Nat.mod_two_eq_zero_or_one u with hu | hu
    · simp [Nat.testBit_zero, hu]
    · simp [Nat.testBit_zero, hu, Nat.add_comm]

theorem lowestSet_eq (n v : Nat) : lowestSet n v = ((List.range n).find? (fun k => v.testBit k)).getD n := by
  induction n generalizing v with
  | zero => rfl
  | succ n ih =>
    rw [lowestSet, ih, List.range_succ_eq_map, List.find?_cons, List.find?_map]
    have hbit : (fun k => (v / 2).testBit k) = ((fun k => v.testBit k) ∘ Nat.succ) := by funext k; exact (Nat.testBit_succ v k).symm
    rw [hbit]
    rcases Nat.mod_two_eq_zero_or_one v with hv | hv
    · simp only [hv, Nat.testBit_zero]
      cases List.find? ((fun k => v.testBit k) ∘ Nat.succ) (List.range n) <;> simp [Nat.add_comm]
    · simp [hv, Nat.testBit_zero]

theorem fld_low_five (x : Word64) : fld x 4 0 = x.toNat % 32 := by simp [fld, bits]

/-! ### KMOV (R152) -/

section
variable {w : Fields} {s : State}

theorem Issues.kmov_copy (h : Issues (.kmov w) s) (hm : w.mod = 0) :
    Completes (.kmov w) s { ownEffect s w [] with masks := [(opndIndex w.d, s.myTask.k.get (opndIndex w.a) 0)] } := by
  have hbody : bodyKmov w = (do let k ← readMask (opndIndex w.a); writeMask (opndIndex w.d) k; return .fall) := by
    unfold bodyKmov; rw [hm]; rfl
  have hr := Reads.begun s (.kmov w)
  refine h.completesMask (body := bodyKmov w) rfl (fun _ => rfl) hr ?_
  simp only [hbody, run_bind, run_readMask, hr.mask]

theorem Issues.kmov_insert (h : Issues (.kmov w) s) (hm : w.mod = 1) :
    ∃ r : BitVec 1024,
      (∀ l, l < 1024 → r.getLsbD l =
        if 32 * (s.valueB w).toNat % 1024 ≤ l ∧ l < 32 * (s.valueB w).toNat % 1024 + 32 then (s.valueA w).getLsbD (l - 32 * (s.valueB w).toNat % 1024)
        else (s.myTask.k.get (opndIndex w.d) 0).getLsbD l) ∧
      Completes (.kmov w) s { ownEffect s w [w.a, w.b] with masks := [(opndIndex w.d, r)] } := by
  have hbody : bodyKmov w = (do
      let x ← source w.a
      let j ← source w.b
      let k ← readMask (opndIndex w.d)
      writeMask (opndIndex w.d) (BitVec.ofNat 1024 (insertField 1024 k.toNat (x.toNat % 2 ^ 32) (32 * fld j 4 0) 32))
      return .fall) := by unfold bodyKmov; rw [hm]; rfl
  have hpop : queuesPopped (.kmov w) (formOf s.cur.strand.core (.kmov w)) w = queueOf w.a ++ queueOf w.b := by
    rw [queuesPopped_eq (by simp)]
    simp [formOf, hm]
  obtain ⟨u, ha, hr⟩ := (Reads.begun s (.kmov w)).source h.pair w.a (h.supplies (pre := []) hpop)
  obtain ⟨v, hb, hr⟩ := hr.source h.pair w.b (h.supplies (hpop.trans (List.append_nil _).symm))
  refine ⟨BitVec.ofNat 1024 (insertField 1024 (s.myTask.k.get (opndIndex w.d) 0).toNat ((s.valueA w).toNat % 2 ^ 32) (32 * fld (s.valueB w) 4 0) 32),
    fun l hl => ?_, ?_⟩
  · have hword : 32 * (s.valueB w).toNat % 1024 = 32 * ((s.valueB w).toNat % 32) := by omega
    rw [BitVec.getLsbD_ofNat, decide_eq_true hl, Bool.true_and, fld_low_five, testBit_insertField (Nat.mod_lt _ (by decide)), hword]
    split
    · next hin => rw [Nat.testBit_mod_two_pow, decide_eq_true (by omega), Bool.true_and]; rfl
    · rfl
  · refine h.completesMask (body := bodyKmov w) rfl (fun _ => rfl) (by simpa using hr) ?_
    simp only [hbody, run_bind, ha, hb, run_readMask, hr.mask]
    rfl

theorem Issues.kmov_extract (h : Issues (.kmov w) s) (hm : w.mod = 2) :
    Yields (.kmov w) s [w.b] (((s.myTask.k.get (opndIndex w.a) 0).extractLsb' (32 * ((s.valueOf [] w.b).toNat % 32)) 32).setWidth 64) := by
  have hbody : bodyKmov w = (do
      let k ← readMask (opndIndex w.a)
      let j ← source w.b
      destine w.d (BitVec.ofNat 64 (extractField 1024 false k.toNat (32 * fld j 4 0) 32))
      return .fall) := by unfold bodyKmov; rw [hm]; rfl
  have hpop : queuesPopped (.kmov w) (formOf s.cur.strand.core (.kmov w)) w = [] ++ queueOf w.b ++ [] := by
    rw [queuesPopped_eq (by simp)]
    simp [formOf, hm]
  obtain ⟨u, hb, hr⟩ := (Reads.begun s (.kmov w)).source h.pair w.b (h.supplies hpop)
  refine h.yields (body := bodyKmov w) rfl (fun _ => rfl) (by simp) (fun _ => by simp [formOf, hm]) (by simpa using hr) ?_
  simp only [hbody, run_bind, hb, run_readMask, (Reads.begun s (.kmov w)).mask, fld_low_five, extractField_toNat _ (Nat.mod_lt _ (by decide : 0 < 32))]
  rfl

theorem Issues.kmov_count (h : Issues (.kmov w) s) (hm : w.mod = 3) :
    Yields (.kmov w) s [] (BitVec.ofNat 64 (((List.range 1024).filter (fun l => (s.myTask.k.get (opndIndex w.a) 0).getLsbD l)).length)) := by
  have hbody : bodyKmov w = (do
      let k ← readMask (opndIndex w.a)
      destine w.d (BitVec.ofNat 64 (popCount laneCount k.toNat))
      return .fall) := by unfold bodyKmov; rw [hm]; rfl
  have hr := Reads.begun s (.kmov w)
  refine h.yields (body := bodyKmov w) rfl (fun _ => rfl) (by simp) (fun _ => by simp [formOf, hm]) hr ?_
  simp only [hbody, run_bind, run_readMask, hr.mask, popCount_eq]
  rfl

theorem Issues.kmov_lowest (h : Issues (.kmov w) s) (hm : w.mod = 4) :
    Yields (.kmov w) s [] (BitVec.ofNat 64 (((List.range 1024).find? (fun l => (s.myTask.k.get (opndIndex w.a) 0).getLsbD l)).getD 1024)) := by
  have hbody : bodyKmov w = (do
      let k ← readMask (opndIndex w.a)
      destine w.d (BitVec.ofNat 64 (lowestSet laneCount k.toNat))
      return .fall) := by unfold bodyKmov; rw [hm]; rfl
  have hr := Reads.begun s (.kmov w)
  refine h.yields (body := bodyKmov w) rfl (fun _ => rfl) (by simp) (fun _ => by simp [formOf, hm]) hr ?_
  simp only [hbody, run_bind, run_readMask, hr.mask, lowestSet_eq]
  rfl

end

/-- The compare of cells in the manual's words (R77, R85, R150). -/
theorem compareCells_eq {w : Fields} (hf : w.fmt.toNat ≤ 9) (x y : Word32) :
    compareCells w x y = 
      if isFloating w.fmt then floatCond w.mod.toNat (decodeNum (plainFormat w.fmt.toNat) (codeIn (plainFormat w.fmt.toNat) x))
        (decodeNum (plainFormat w.fmt.toNat) (codeIn (plainFormat w.fmt.toNat) y))
      else intCond w.mod.toNat (plainFormat w.fmt.toNat).bits (codeIn (plainFormat w.fmt.toNat) x) (codeIn (plainFormat w.fmt.toNat) y) := by
  unfold compareCells
  simp only [isFloating_iff hf]

/-- Settles O24: bitwise words and moves lane by lane, shifts by the width of the format, masks bit by bit. -/
theorem vectorBitsMovesAndMasks : Obligations.VectorBitsMovesAndMasks := by
  unfold Obligations.VectorBitsMovesAndMasks
  refine ⟨fun w s => ?_, fun w s hwhole => ?_⟩
  · intro f A B bits shift
    refine ⟨fun h => ?and, fun h => ?or, fun h => ?xor, fun h => ?shl, fun h => ?shr, fun h => ?sar, fun h => h.vsel, fun h => h.vmov,
      fun g hg h => h.vbcs hg⟩
    case and => exact h.bitwise rfl (fun _ => rfl) (fun _ => rfl) (fun _ => rfl) (fun _ => rfl) rfl (fun _ _ => (BitVec.toNat_and ..).symm)
    case or => exact h.bitwise rfl (fun _ => rfl) (fun _ => rfl) (fun _ => rfl) (fun _ => rfl) rfl (fun _ _ => (BitVec.toNat_or ..).symm)
    case xor => exact h.bitwise rfl (fun _ => rfl) (fun _ => rfl) (fun _ => rfl) (fun _ => rfl) rfl (fun _ _ => (BitVec.toNat_xor ..).symm)
    case shl => exact h.shifts (g := fun _ x n => x <<< n) rfl (fun _ => rfl) (fun _ => rfl) (fun _ => rfl) rfl (fun n u k _ _ => shl_eq n u k)
    case shr => exact h.shifts (g := fun _ x n => x >>> n) rfl (fun _ => rfl) (fun _ => rfl) (fun _ => rfl) rfl (fun n u k _ hu => shr_eq hu k)
    case sar => exact h.shifts (g := fun _ x n => x.sshiftRight n) rfl (fun _ => rfl) (fun _ => rfl) (fun _ => rfl) rfl (fun n u k hn hu => sar_eq hn hu k)
  · intro f a b k cond logic word first
    refine ⟨fun h => ?_, fun h => h.klog, fun h hm => h.kmov_copy hm, fun h hm => h.kmov_insert hm, fun h hm => h.kmov_extract hm,
      fun h hm => h.kmov_count hm, fun h hm => h.kmov_lowest hm⟩
    obtain ⟨r, hbits, hdone⟩ := h.vcmp hwhole
    refine ⟨r, fun l hl => (hbits l hl).trans ?_, hdone⟩
    have hf : w.fmt.toNat ≤ 9 := by
      have hfmt : w.fmt.toNat ∈ [0, 1, 2, 3, 4, 5, 6, 7, 8, 9] := h.fmt_mem
      simp only [List.mem_cons, List.not_mem_nil, or_false] at hfmt
      omega
    rw [compareCells_eq hf, intCond_eq _ (codeIn_lt _ _) (codeIn_lt _ _)]
    rfl

end Sys2Proof.Machine
end

section
/-! ## Lines of a vector register -/

namespace Sys2Proof.Machine

/-! ### Grids -/

/-- The rows of a function of row and column. -/
def grid {α : Type} (m n : Nat) (g : Nat → Nat → α) : List (List α) := (List.range m).map (fun r => (List.range n).map (g r))

theorem pieces_eq {α : Type} (n m : Nat) (l : List α) : pieces n m l = (List.range m).map (fun r => (l.drop (n * r)).take n) := by
  induction m generalizing l with
  | zero => rfl
  | succ m ih =>
    rw [pieces, ih, List.range_succ_eq_map, List.map_cons, List.map_map]
    simp [Function.comp_def, Nat.mul_succ, Nat.add_comm]

/-- The rows of a whole register (R134). -/
theorem rowsOf_eq_grid {v : List Word32} (hv : v.length = 1024) : rowsOf v = grid 16 64 (cellAt v) := by
  unfold rowsOf grid
  rw [pieces_eq]
  refine List.map_congr_left (fun r hr => List.ext_getElem ?_ (fun c h1 h2 => ?_))
  · have := List.mem_range.1 hr
    simp [hv]
    omega
  · have hr := List.mem_range.1 hr
    have hc : c < 64 := by simpa using h2
    simp [cellAt, List.getD_eq_getElem?_getD, List.getElem?_eq_getElem (show 64 * r + c < v.length by omega)]

theorem filterMap_head?_grid {α : Type} (m n : Nat) (g : Nat → Nat → α) :
    (grid m (n + 1) g).filterMap List.head? = (List.range m).map (fun r => g r 0) := by
  unfold grid
  rw [List.filterMap_map]
  simp [List.range_succ_eq_map, Function.comp_def]

theorem map_tail_grid {α : Type} (m n : Nat) (g : Nat → Nat → α) : (grid m (n + 1) g).map List.tail = grid m n (fun r c => g r (c + 1)) := by
  unfold grid
  simp [List.range_succ_eq_map, Function.comp_def]

/-- The columns of a grid. -/
theorem transposed_grid {α : Type} (m n : Nat) (g : Nat → Nat → α) : transposed (grid m n g) n = grid n m (fun c r => g r c) := by
  induction n generalizing g with
  | zero => rfl
  | succ n ih =>
    rw [transposed, filterMap_head?_grid, map_tail_grid, ih]
    unfold grid
    rw [List.range_succ_eq_map (n := n)]
    simp [Function.comp_def]

/-- Rows of n, one after another, counted through. -/
theorem flatMap_rows {α : Type} (m : Nat) {n : Nat} (hn : 0 < n) (g : Nat → Nat → α) :
    (List.range m).flatMap (fun r => (List.range n).map (g r)) = (List.range (m * n)).map (fun l => g (l / n) (l % n)) := by
  induction m with
  | zero => simp
  | succ m ih =>
    rw [List.range_succ, List.flatMap_append, ih, Nat.succ_mul, List.range_add, List.map_append, List.map_map]
    refine congrArg _ ?_
    simp only [List.flatMap_cons, List.flatMap_nil, List.append_nil]
    refine List.map_congr_left (fun c hc => ?_)
    have hc := List.mem_range.1 hc
    simp only [Function.comp_apply, Nat.mul_comm m n, Nat.mul_add_div hn, Nat.div_eq_of_lt hc, Nat.add_zero, Nat.mul_add_mod, Nat.mod_eq_of_lt hc]

/-- The rows of a grid, one after another, are a register from its cells (R134). -/
theorem flatten_grid (g : Nat → Nat → Word32) : (grid 16 64 g).flatten = fromCells g := by
  unfold grid
  rw [← List.flatMap_def, flatMap_rows 16 (by decide)]
  rfl

/-- A function of every row, from what it makes of each. -/
theorem onRows_eq {v : List Word32} (hv : v.length = 1024) {F : List Word32 → List Word32} {g : Nat → Nat → Word32}
    (hF : ∀ r, r < 16 → F ((List.range 64).map (cellAt v r)) = (List.range 64).map (g r)) : onRows F v = fromCells g := by
  unfold onRows
  rw [rowsOf_eq_grid hv, ← flatten_grid, List.flatMap_def]
  unfold grid
  rw [List.map_map]
  exact congrArg List.flatten (List.map_congr_left (fun r hr => hF r (List.mem_range.1 hr)))

/-- A function of every column, from what it makes of each. -/
theorem onColumns_eq {v : List Word32} (hv : v.length = 1024) {F : List Word32 → List Word32} {g : Nat → Nat → Word32}
    (hF : ∀ c, c < 64 → F ((List.range 16).map (fun r => cellAt v r c)) = (List.range 16).map (fun r => g r c)) : onColumns F v = fromCells g := by
  unfold onColumns
  have hcols : (grid 64 16 (fun c r => cellAt v r c)).map F = grid 64 16 (fun c r => g r c) := by
    unfold grid
    rw [List.map_map]
    exact List.map_congr_left (fun c hc => hF c (List.mem_range.1 hc))
  rw [rowsOf_eq_grid hv, transposed_grid, hcols, transposed_grid, flatten_grid]

theorem map_range_congr {α : Type} {n : Nat} {s t : Nat → α} (h : ∀ i, i < n → s i = t i) : (List.range n).map s = (List.range n).map t :=
  List.map_congr_left (fun i hi => h i (List.mem_range.1 hi))

theorem getD_map_range {α : Type} {n i : Nat} (h : i < n) (t : Nat → α) (d : α) : ((List.range n).map t).getD i d = t i := by
  simp [List.getD_eq_getElem?_getD, h]

/-! ### What permutes make of a line (R155, R156) -/

theorem picked_map_range {n m : Nat} (line idx : Nat → Word32) (hm : n = 2 ^ m) :
    picked (n - 1) ((List.range n).map line) ((List.range n).map idx) = (List.range n).map (fun c => line ((idx c).toNat % n)) := by
  unfold picked
  rw [List.map_map]
  refine map_range_congr (fun c _ => ?_)
  subst hm
  rw [Function.comp_apply, Nat.and_two_pow_sub_one_eq_mod, getD_map_range (Nat.mod_lt _ (by positivity))]

theorem rotateLine_turn {n k : Nat} (hn : 0 < n) (t : Nat → Word32) :
    rotateLine n false k ((List.range n).map t) = (List.range n).map (fun c => t ((c + n - k % n) % n)) := by
  unfold rotateLine rotateRight
  simp only [Bool.false_eq_true, if_false, List.length_map, List.length_range]
  have hj : k % n < n := Nat.mod_lt _ hn
  generalize k % n = j at hj
  refine List.ext_getElem (by simp) (fun c h1 h2 => ?_)
  have hc : c < n := by simpa using h2
  rw [List.getElem_append]
  simp only [List.length_drop, List.length_map, List.length_range, List.getElem_drop, List.getElem_take, List.getElem_map, List.getElem_range]
  by_cases h : c < j
  · rw [dif_pos (by omega), Nat.mod_eq_of_lt (by omega)]
    congr 1; omega
  · rw [dif_neg (by omega), show c + n - j = c - j + n by omega, Nat.add_mod_right, Nat.mod_eq_of_lt (by omega)]
    congr 1; omega

theorem rotateLine_shift {n k : Nat} (t : Nat → Word32) :
    rotateLine n true k ((List.range n).map t) = (List.range n).map (fun c => if k ≤ c then t (c - k) else 0) := by
  unfold rotateLine
  simp only [if_true]
  refine List.ext_getElem (by simp) (fun c h1 h2 => ?_)
  have hc : c < n := by simpa using h2
  rw [List.getElem_take, List.getElem_append]
  simp only [List.length_replicate, List.getElem_replicate, List.getElem_map, List.getElem_range]
  split
  · next h => rw [if_neg (by omega)]
  · next h => rw [if_pos (by omega)]; congr 1; omega

theorem broadcastLine_map_range {n k : Nat} (hn : 0 < n) (t : Nat → Word32) :
    broadcastLine n k ((List.range n).map t) = (List.range n).map (fun _ => t (k % n)) := by
  unfold broadcastLine
  rw [getD_map_range (Nat.mod_lt _ hn)]
  exact List.ext_getElem (by simp) (fun _ _ _ => by simp)

/-! ### Reductions and scans of a line (R157, R158) -/

/-- 2^(k-1), ..., 2, 1. -/
def halves : Nat → List Nat
  | 0 => []
  | k + 1 => 2 ^ k :: halves k

/-- The halving of a line of 2^k elements leaves t[0]. -/
theorem reduceBy_halves (comb : Word32 → Word32 → Word32) (k : Nat) (t : Nat → Word32) :
    (reduceBy comb (halves k) ((List.range (2 ^ k)).map t)).headD 0 = halved comb (halves k) t := by
  induction k generalizing t with
  | zero => rfl
  | succ k ih =>
    have hstep : List.zipWith comb (((List.range (2 ^ (k + 1))).map t).take (2 ^ k)) (((List.range (2 ^ (k + 1))).map t).drop (2 ^ k)) =
        (List.range (2 ^ k)).map (fun i => if i < 2 ^ k then comb (t i) (t (i + 2 ^ k)) else t i) := by
      have hp : 2 ^ (k + 1) = 2 ^ k + 2 ^ k := by rw [Nat.pow_succ]; omega
      refine List.ext_getElem (by simp [hp]) (fun i h1 h2 => ?_)
      have hi : i < 2 ^ k := by simpa using h2
      simp [hi, Nat.add_comm i]
    rw [halves, reduceBy, hstep, ih]
    rfl

/-- A doubling step on a line. -/
theorem scanBy_eq_doubled (comb : Word32 → Word32 → Word32) {n : Nat} (hs : List Nat) (hn : ∀ h ∈ hs, h ≤ n) (t : Nat → Word32) :
    scanBy comb hs ((List.range n).map t) = (List.range n).map (doubled comb hs t) := by
  induction hs generalizing t with
  | nil => rfl
  | cons h hs ih =>
    have hh : h ≤ n := hn h (List.mem_cons_self ..)
    have hstep : ((List.range n).map t).take h ++ List.zipWith comb ((List.range n).map t) (((List.range n).map t).drop h) =
        (List.range n).map (fun i => if h ≤ i then comb (t (i - h)) (t i) else t i) := by
      refine List.ext_getElem (by simp; omega) (fun i h1 h2 => ?_)
      have hi : i < n := by simpa using h2
      rw [List.getElem_append]
      by_cases hlt : i < h
      · simp [hlt, hh, Nat.not_le.2 hlt]
      · simp [hlt, hh, Nat.le_of_not_lt hlt, Nat.add_sub_cancel' (Nat.le_of_not_lt hlt)]
    rw [scanBy, hstep, ih (fun x hx => hn x (List.mem_cons_of_mem _ hx))]
    rfl

end Sys2Proof.Machine
end

section
/-! ## Permutes, reductions and scans -/

namespace Sys2Proof.Machine

theorem toNat_toWidth_dusk_lt (v : Nat) : (toWidth .dusk v).toNat < 2 ^ 32 := by
  unfold toWidth
  rw [BitVec.toNat_ofNat]
  exact lt_of_le_of_lt (Nat.mod_le ..) (Nat.mod_lt _ (by decide))

/-- A source of a Dusk word is a 32-bit value (R12, R67). -/
theorem valueOf_lt {s : State} (hc : s.cur.strand.core = .dusk) (pops : List QueueName) (o : Opnd) : (s.valueOf pops o).toNat < 2 ^ 32 := by
  unfold State.valueOf
  simp only [hc]
  cases o with
  | reg i => exact toNat_toWidth_dusk_lt _
  | scalar h i => exact toNat_toWidth_dusk_lt _
  | imm v =>
    unfold intToWidth
    have hlt : (v.toInt % ((2 ^ coreWidth .dusk : Nat) : Int)).toNat < 2 ^ 32 := by
      have h0 := Int.emod_nonneg v.toInt (b := ((2 ^ coreWidth .dusk : Nat) : Int)) (by decide)
      have h1 := Int.emod_lt_of_pos v.toInt (b := ((2 ^ coreWidth .dusk : Nat) : Int)) (by decide)
      have h2 : ((2 ^ coreWidth .dusk : Nat) : Int) = 2 ^ 32 := by decide
      omega
    rw [BitVec.toNat_ofNat]
    exact lt_of_le_of_lt (Nat.mod_le ..) hlt
  | special k => unfold State.special; simp only [hc]; exact toNat_toWidth_dusk_lt _
  | queue k =>
    simp only
    split
    · exact toNat_toWidth_dusk_lt _
    · decide

/-! ### One lane out, one lane in (R154) -/

theorem Issues.vextr {w : Fields} {s : State} (h : Issues (.vextr w) s)
    (hbad : (1024 * opndIndex w.a + (s.valueOf [] w.b).toNat % 1024) ∉ s.myTask.badV) :
    Yields (.vextr w) s [w.b] (((s.myTask.vec (opndIndex w.a)).getD ((s.valueOf [] w.b).toNat % 1024) 0).setWidth 64) := by
  have hpop : queuesPopped (.vextr w) (formOf s.cur.strand.core (.vextr w)) w = [] ++ queueOf w.b ++ [] := by
    rw [queuesPopped_eq (by simp)]
    simp [formOf]
  have hr := Reads.begun s (.vextr w)
  obtain ⟨u, hb, hru⟩ := hr.source h.pair w.b (h.supplies hpop)
  have hbadU : u.myTask.badV = s.myTask.badV := by obtain ⟨m, hm⟩ := hru.task; rw [hm]
  have hgood : u.myTask.badV.contains (1024 * opndIndex w.a + (s.valueOf [] w.b).toNat % laneCount) = false := by
    rw [hbadU]; simpa [laneCount] using hbad
  refine h.yields (body := bodyVextr w) rfl (fun _ => rfl) (by simp) (fun _ => rfl) (by simpa using hru) ?_
  simp only [bodyVextr, run_bind, run_readVec, hr.vec, hb, run_theTask, run_trapIf, hgood]
  rfl

theorem listSet_eq (l : List Word32) (n k : Nat) (x : Word32) :
    listSet l k (fun _ => x) = (l.zipIdx n).map (fun p => if p.2 = n + k then x else p.1) := by
  induction l generalizing n k with
  | nil => rfl
  | cons a as ih =>
    cases k with
    | zero =>
      rw [listSet, List.zipIdx_cons, List.map_cons]
      refine congrArg₂ _ (if_pos rfl).symm (List.ext_getElem (by simp) (fun i h1 h2 => ?_))
      simp [show ¬ n + 1 + i = n by omega]
    | succ k =>
      rw [listSet, List.zipIdx_cons, List.map_cons, if_neg (by omega), ih (n + 1) k]
      simp only [Nat.add_assoc, Nat.add_comm 1]

/-- A word that reads its sources and then writes a vector register whole (R134). -/
theorem Issues.completesVec {i : Instr} {s u : State} {body : M Flow} {os : List Opnd} {n : Nat} {cells : List Word32} (h : Issues i s)
    (hexec : exec i s = issue i body s) (hcmd : ∀ c, (formOf c i).cmd = none)
    (hr : Reads s u (popsAtIssue s.cur.strand.core i) (os.flatMap queueOf))
    (hb : body (s.begun i) = (do writeVec n cells; return .fall : M Flow) u) :
    Completes i s { ownEffect s (fieldsOf i) os with vecs := [(n, cells)] } := by
  obtain ⟨u', hrun, hd, hw⟩ := hr.does.writeVec (h.within hr) n cells
  have hrun' : body (s.begun i) = .ok (.fall, u') := by rw [hb]; simp only [run_bind, hrun, run_pure]
  simpa [ownEffect, popsAtIssue_eq hcmd] using h.completes hexec hcmd hrun' hd hw

theorem Issues.vins {w : Fields} {s : State} (h : Issues (.vins w) s) :
    Completes (.vins w) s { ownEffect s w [w.a, w.b] with
      vecs := [(opndIndex w.d, (s.myTask.vec (opndIndex w.d)).zipIdx.map (fun x =>
        if x.2 = (s.valueB w).toNat % 1024 then (s.valueA w).extractLsb' 0 32 else x.1))] } := by
  have hpop : queuesPopped (.vins w) (formOf s.cur.strand.core (.vins w)) w = queueOf w.a ++ queueOf w.b := by
    rw [queuesPopped_eq (by simp)]
    simp [formOf]
  obtain ⟨u, ha, hr⟩ := (Reads.begun s (.vins w)).source h.pair w.a (h.supplies (pre := []) hpop)
  obtain ⟨v, hb, hr⟩ := hr.source h.pair w.b (h.supplies (hpop.trans (List.append_nil _).symm))
  refine h.completesVec (body := bodyVins w) rfl (fun _ => rfl) (by simpa using hr) ?_
  simp only [bodyVins, run_bind, ha, hb, run_readVec, hr.vec, listSet_eq _ 0, Nat.zero_add]
  rfl

/-! ### Permutes (R155, R156) -/

theorem zipWith_grid {α β γ : Type} (F : List α → List β → γ) (m n : Nat) (g : Nat → Nat → α) (k : Nat → Nat → β) :
    List.zipWith F (grid m n g) (grid m n k) = (List.range m).map (fun r => F ((List.range n).map (g r)) ((List.range n).map (k r))) := by
  unfold grid
  rw [List.zipWith_map, List.zipWith_self]

section
variable {w : Fields} {s : State} (hwhole : s.VectorsWhole)
include hwhole

theorem Issues.vswz_rows (h : Issues (.vswz w) s) (hm : w.mod = 0) : YieldsLanes (.vswz w) s [w.b]
    (fromCells (fun r c => cellAt (s.myTask.vec (opndIndex w.a)) r ((cellAt (s.myTask.vec (opndIndex w.b)) r c).toNat % 64))) := by
  have hbody : bodyVswz w = (do
      let a ← readVec (opndIndex w.a)
      let b ← readVec (opndIndex w.b)
      writeLanes w (List.zipWith (picked 63) (rowsOf a) (rowsOf b)).flatten
      return .fall) := by unfold bodyVswz; rw [hm]; rfl
  have hr := Reads.begun s (.vswz w)
  have hb : queueOf w.b = [] := h.queueOfB (fun _ => by simp [formOf, hm])
  refine h.yieldsLanes (body := bodyVswz w) rfl (fun _ => rfl) (by simpa [hb] using hr) ?_
  simp only [hbody, run_bind, run_readVec, hr.vec, rowsOf_eq_grid (hwhole.length_vec _), zipWith_grid,
    picked_map_range (n := 64) (m := 6) _ _ rfl, ← flatten_grid]
  rfl

theorem Issues.vswz_columns (h : Issues (.vswz w) s) (hm : w.mod = 1) : YieldsLanes (.vswz w) s [w.b]
    (fromCells (fun r c => cellAt (s.myTask.vec (opndIndex w.a)) ((cellAt (s.myTask.vec (opndIndex w.b)) r c).toNat % 16) c)) := by
  have hbody : bodyVswz w = (do
      let a ← readVec (opndIndex w.a)
      let b ← readVec (opndIndex w.b)
      writeLanes w (transposed (List.zipWith (picked 15) (transposed (rowsOf a) 64) (transposed (rowsOf b) 64)) 16).flatten
      return .fall) := by unfold bodyVswz; rw [hm]; rfl
  have hr := Reads.begun s (.vswz w)
  have hb : queueOf w.b = [] := h.queueOfB (fun _ => by simp [formOf, hm])
  refine h.yieldsLanes (body := bodyVswz w) rfl (fun _ => rfl) (by simpa [hb] using hr) ?_
  have hcols (g : Nat → Nat → Word32) : transposed ((List.range 64).map (fun c => (List.range 16).map (g c))) 16 = grid 16 64 (fun r c => g c r) :=
    transposed_grid 64 16 g
  simp only [hbody, run_bind, run_readVec, hr.vec, rowsOf_eq_grid (hwhole.length_vec _), transposed_grid, zipWith_grid,
    picked_map_range (n := 16) (m := 4) _ _ rfl, hcols, flatten_grid]
  rfl

end

/-- The forms of the permutes that take a lane or a count from B: a vector register in A, nothing in C (R154 to R156). -/
structure PermuteForm (i : Instr) : Prop where
  core : ∀ c, (formOf c i).core = some .dusk
  cmd : ∀ c, (formOf c i).cmd = none
  a : ∀ c, (formOf c i).a = .v
  b : ∀ c, (formOf c i).b = .s
  c : ∀ c, (formOf c i).c = .none
  notBcq : ∀ x, i ≠ .bcq x

/-- A permute reads its count from B and writes its lanes. -/
theorem Issues.permutes {i : Instr} {s : State} {body : M Flow} {cells : List Word32} (h : Issues i s) (hf : PermuteForm i)
    (hexec : exec i s = issue i body s)
    (hbody : ∀ u, Reads s u (popsAtIssue s.cur.strand.core i) (queueOf (fieldsOf i).b) →
      Machine.source (fieldsOf i).b (s.begun i) = .ok (s.valueOf [] (fieldsOf i).b, u) →
      body (s.begun i) = (do writeLanes (fieldsOf i) cells; return .fall : M Flow) u) :
    YieldsLanes i s [(fieldsOf i).b] cells := by
  have hpop : queuesPopped i (formOf s.cur.strand.core i) (fieldsOf i) = [] ++ queueOf (fieldsOf i).b ++ [] := by
    rw [queuesPopped_eq hf.notBcq]
    simp [hf.a, hf.b, hf.c]
  obtain ⟨u, hsrc, hr⟩ := (Reads.begun s i).source h.pair (fieldsOf i).b (h.supplies hpop)
  exact h.yieldsLanes hexec hf.cmd (by simpa using hr) (hbody u hr hsrc)

theorem Issues.vswz_xor {w : Fields} {s : State} (hwhole : s.VectorsWhole) (h : Issues (.vswz w) s) (hm : w.mod = 2) :
    YieldsLanes (.vswz w) s [w.b] (fromCells (fun r c => cellAt (s.myTask.vec (opndIndex w.a)) r (c ^^^ ((s.valueOf [] w.b).toNat % 64)))) := by
  have hbody : bodyVswz w = (do
      let a ← readVec (opndIndex w.a)
      let n ← source w.b
      writeLanes w (onRows (fun row => (List.range 64).map (fun c => row.getD (c ^^^ fld n 5 0) 0)) a)
      return .fall) := by unfold bodyVswz; rw [hm]; rfl
  have hform : PermuteForm (.vswz w) := ⟨fun _ => rfl, fun _ => rfl, fun _ => rfl, fun _ => by simp [formOf, hm], fun _ => rfl, by simp⟩
  have hfld : fld (s.valueOf [] w.b) 5 0 = (s.valueOf [] w.b).toNat % 64 := by simp [fld, bits]
  refine h.permutes (body := bodyVswz w) hform rfl (fun u hr hsrc => ?_)
  have hsrc : Machine.source w.b (s.begun (.vswz w)) = .ok (s.valueOf [] w.b, u) := hsrc
  have hrows := onRows_eq (hwhole.length_vec (opndIndex w.a))
    (F := fun row => (List.range 64).map (fun c => row.getD (c ^^^ ((s.valueOf [] w.b).toNat % 64)) 0))
    (g := fun r c => cellAt (s.myTask.vec (opndIndex w.a)) r (c ^^^ ((s.valueOf [] w.b).toNat % 64)))
    (fun r _ => map_range_congr (fun c hc => getD_map_range (Nat.xor_lt_two_pow (n := 6) hc (Nat.mod_lt _ (by decide))) _ _))
  simp only [hbody, run_bind, run_readVec, (Reads.begun s (.vswz w)).vec, hsrc, hfld, hrows]
  rfl

theorem Issues.rotation (rows : Bool) {i : Instr} {w : Fields} {s : State} (h : Issues i s) (hf : PermuteForm i) (hw : fieldsOf i = w)
    (hexec : exec i s = issue i (Machine.rotation w rows) s) :
    YieldsLanes i s [w.b] (if rows then onRows (rotateLine 64 (w.mod == 1) (s.valueOf [] w.b).toNat) (s.myTask.vec (opndIndex w.a))
      else onColumns (rotateLine 16 (w.mod == 1) (s.valueOf [] w.b).toNat) (s.myTask.vec (opndIndex w.a))) := by
  subst hw
  refine h.permutes hf hexec (fun u hr hsrc => ?_)
  simp only [Machine.rotation, run_bind, run_readVec, (Reads.begun s i).vec, hsrc, Nat.mod_eq_of_lt (valueOf_lt (h.onDusk hf.core) [] _)]

theorem Issues.axisBroadcast (rows : Bool) {i : Instr} {w : Fields} {s : State} (h : Issues i s) (hf : PermuteForm i) (hw : fieldsOf i = w)
    (hexec : exec i s = issue i (Machine.axisBroadcast w rows) s) :
    YieldsLanes i s [w.b] (if rows then onRows (broadcastLine 64 (s.valueOf [] w.b).toNat) (s.myTask.vec (opndIndex w.a))
      else onColumns (broadcastLine 16 (s.valueOf [] w.b).toNat) (s.myTask.vec (opndIndex w.a))) := by
  subst hw
  refine h.permutes hf hexec (fun u hr hsrc => ?_)
  simp only [Machine.axisBroadcast, run_bind, run_readVec, (Reads.begun s i).vec, hsrc, Nat.mod_eq_of_lt (valueOf_lt (h.onDusk hf.core) [] _)]

/-! ### Reductions and scans (R157, R158) -/

/-- A function of every line of A (R157, R158). -/
theorem Issues.onAxis (rows : Bool) {i : Instr} {w : Fields} {s : State} {g : List Word32 → List Word32} (h : Issues i s)
    (hcmd : ∀ c, (formOf c i).cmd = none) (hw : fieldsOf i = w) (hexec : exec i s = issue i (Machine.onAxis w rows g) s) :
    YieldsLanes i s [] (if rows then onRows g (s.myTask.vec (opndIndex w.a)) else onColumns g (s.myTask.vec (opndIndex w.a))) := by
  subst hw
  refine h.yieldsLanes hexec hcmd (Reads.begun s i) ?_
  simp only [Machine.onAxis, run_bind, run_readVec, (Reads.begun s i).vec]

theorem isFloating_eq_decide {w : Fields} (hf : w.fmt.toNat ≤ 9) : isFloating w.fmt = decide (7 ≤ w.fmt.toNat) := by
  simp [isFloating, hf]

/-- A combined cell that wraps, in the manual's words (R139, R157). -/
theorem asCell_combined (w : Fields) (fp : Nat → Nat → Nat) (int : Int → Int → Int) (x y : Word32) :
    let f := plainFormat w.fmt.toNat
    asCell f (if isFloating w.fmt then fp (codeIn f x) (codeIn f y)
        else wrapTo f.bits (int (ival (codeIn f x) f.bits f.signed) (ival (codeIn f y) f.bits f.signed))) =
      laneResult { w with mod := 0 } (fun a b _ => fp a b) (fun a b _ => int a b) x y 0 := by
  simp only [laneResult, cellResult, ival_codeIn]
  split
  · rfl
  · exact asCell_finish _ 0 _

/-- The combining functions of R157; the bitwise ones stand with untyped lanes alone. -/
theorem combine_eq_combining {w : Fields} (hf : w.fmt.toNat ≤ 9) {m : Nat} (hm : m ≤ 5) (hraw : 4 ≤ m → w.fmt.toNat = 0) :
    combine (plainFormat w.fmt.toNat) m = combining w m := by
  funext x y
  have hcell := asCell_combined w
  have hsum : combine (plainFormat w.fmt.toNat) 0 x y = cellOf (plainFormat w.fmt.toNat) (if isFloating w.fmt
      then fadd (plainFormat w.fmt.toNat) .rne (codeIn (plainFormat w.fmt.toNat) x) (codeIn (plainFormat w.fmt.toNat) y)
      else wrapTo (plainFormat w.fmt.toNat).bits (ival (codeIn (plainFormat w.fmt.toNat) x) (plainFormat w.fmt.toNat).bits (plainFormat w.fmt.toNat).signed +
        ival (codeIn (plainFormat w.fmt.toNat) y) (plainFormat w.fmt.toNat).bits (plainFormat w.fmt.toNat).signed)) := by
    rw [isFloating_eq_decide hf]
    generalize w.fmt.toNat = n at hf
    interval_cases n <;> rfl
  have hmin : combine (plainFormat w.fmt.toNat) 2 x y = cellOf (plainFormat w.fmt.toNat) (if isFloating w.fmt
      then minMaxCode (plainFormat w.fmt.toNat) false (codeIn (plainFormat w.fmt.toNat) x) (codeIn (plainFormat w.fmt.toNat) y)
      else wrapTo (plainFormat w.fmt.toNat).bits (min (ival (codeIn (plainFormat w.fmt.toNat) x) (plainFormat w.fmt.toNat).bits (plainFormat w.fmt.toNat).signed)
        (ival (codeIn (plainFormat w.fmt.toNat) y) (plainFormat w.fmt.toNat).bits (plainFormat w.fmt.toNat).signed))) := by
    rw [isFloating_eq_decide hf]
    generalize w.fmt.toNat = n at hf
    interval_cases n <;> rfl
  have hmax (m : Nat) (h : m = 1 ∨ m = 3) : combine (plainFormat w.fmt.toNat) m x y = cellOf (plainFormat w.fmt.toNat) (if isFloating w.fmt
      then minMaxCode (plainFormat w.fmt.toNat) true (codeIn (plainFormat w.fmt.toNat) x) (codeIn (plainFormat w.fmt.toNat) y)
      else wrapTo (plainFormat w.fmt.toNat).bits (max (ival (codeIn (plainFormat w.fmt.toNat) x) (plainFormat w.fmt.toNat).bits (plainFormat w.fmt.toNat).signed)
        (ival (codeIn (plainFormat w.fmt.toNat) y) (plainFormat w.fmt.toNat).bits (plainFormat w.fmt.toNat).signed))) := by
    rw [isFloating_eq_decide hf]
    generalize w.fmt.toNat = n at hf
    rcases h with rfl | rfl <;> interval_cases n <;> rfl
  interval_cases m
  · rw [hsum, cellOf_eq_asCell]; exact hcell (fun a b => fadd (plainFormat w.fmt.toNat) .rne a b) (fun a b => a + b) x y
  · rw [hmax 1 (.inl rfl), cellOf_eq_asCell]; exact hcell (minMaxCode (plainFormat w.fmt.toNat) true) (fun a b => max a b) x y
  · rw [hmin, cellOf_eq_asCell]; exact hcell (minMaxCode (plainFormat w.fmt.toNat) false) (fun a b => min a b) x y
  · rw [hmax 3 (.inr rfl), cellOf_eq_asCell]; exact hcell (minMaxCode (plainFormat w.fmt.toNat) true) (fun a b => max a b) x y
  · rw [hraw (by omega)]
    have hand : cellOf .raw (bitAnd (codeIn .raw x) (codeIn .raw y)) = x &&& y := by
      rw [codeIn_raw, codeIn_raw, cellOf_eq_asCell]
      exact (congrArg (asCell .raw) (BitVec.toNat_and ..).symm).trans (asCell_raw_toNat _)
    exact hand
  · rw [hraw (by omega)]
    have hor : cellOf .raw (bitOr (codeIn .raw x) (codeIn .raw y)) = x ||| y := by
      rw [codeIn_raw, codeIn_raw, cellOf_eq_asCell]
      exact (congrArg (asCell .raw) (BitVec.toNat_or ..).symm).trans (asCell_raw_toNat _)
    exact hor

/-- The input of .amax in the manual's words (R157). -/
theorem absInput_eq {w : Fields} (hf : w.fmt.toNat ≤ 9) (x : Word32) :
    absInput (plainFormat w.fmt.toNat) x =
      if isFloating w.fmt then asCell (plainFormat w.fmt.toNat) (codeIn (plainFormat w.fmt.toNat) x % 2 ^ ((plainFormat w.fmt.toNat).bits - 1))
      else intCell (plainFormat w.fmt.toNat) 1 ((intIn (plainFormat w.fmt.toNat) x).natAbs : Int) := by
  have habs (r : Int) : (if r < 0 then -r else r) = (r.natAbs : Int) := by split <;> omega
  generalize hn : w.fmt.toNat = n at hf
  have hfl : isFloating w.fmt = decide (7 ≤ n) := by simp [isFloating, hn, hf]
  rw [hfl]
  rcases Nat.lt_or_ge n 7 with h7 | h7
  · rw [if_neg (by simpa using h7), ← asCell_finish, ← ival_codeIn, ← habs, ← cellOf_eq_asCell]
    interval_cases n <;> rfl
  · rw [if_pos (by simpa using h7), ← cellOf_eq_asCell]
    interval_cases n <;> rfl

/-- What a reduction makes of a line of 2^k cells (R157). -/
theorem reduceLine_eq {w : Fields} (hf : w.fmt.toNat ≤ 9) (hm : w.mod.toNat ≤ 5) (hraw : 4 ≤ w.mod.toNat → w.fmt.toNat = 0) (k : Nat) (t : Nat → Word32) :
    reduceLine (plainFormat w.fmt.toNat) w.mod.toNat (2 ^ k) (halves k) ((List.range (2 ^ k)).map t) =
      (List.range (2 ^ k)).map (fun _ => halved (combining w w.mod.toNat) (halves k) (fun i =>
        if w.mod = 3 then absInput (plainFormat w.fmt.toNat) (t i) else asCell (plainFormat w.fmt.toNat) (codeIn (plainFormat w.fmt.toNat) (t i)))) := by
  have hmod : w.mod.toNat = 3 ↔ w.mod = 3 := by rw [← BitVec.toNat_inj]; rfl
  have hinputs : (if w.mod.toNat = 3 then ((List.range (2 ^ k)).map t).map (absInput (plainFormat w.fmt.toNat))
      else ((List.range (2 ^ k)).map t).map (fun x => cellOf (plainFormat w.fmt.toNat) (elemOf (plainFormat w.fmt.toNat) x))) =
      (List.range (2 ^ k)).map (fun i =>
        if w.mod = 3 then absInput (plainFormat w.fmt.toNat) (t i) else asCell (plainFormat w.fmt.toNat) (codeIn (plainFormat w.fmt.toNat) (t i))) := by
    simp only [hmod, List.map_map, cellOf_eq_asCell, elemOf_eq_codeIn]
    split <;> rfl
  unfold reduceLine
  simp only [hinputs, combine_eq_combining hf hm hraw, reduceBy_halves]
  exact List.ext_getElem (by simp) (fun _ _ _ => by simp)

/-- What a scan makes of a line (R158); .sumx moves the line one place up. -/
theorem scanLine_eq {w : Fields} (hf : w.fmt.toNat ≤ 9) (hm : w.mod.toNat ≤ 3) {n : Nat} (hn : 0 < n) {hs : List Nat} (hle : ∀ h ∈ hs, h ≤ n)
    (t : Nat → Word32) :
    scanLine (plainFormat w.fmt.toNat) w.mod.toNat hs ((List.range n).map t) =
      (List.range n).map (doubled (combining w (if w.mod = 3 then 0 else w.mod.toNat)) hs (fun i =>
        if w.mod = 3 then (if i = 0 then 0 else asCell (plainFormat w.fmt.toNat) (codeIn (plainFormat w.fmt.toNat) (t (i - 1))))
        else asCell (plainFormat w.fmt.toNat) (codeIn (plainFormat w.fmt.toNat) (t i)))) := by
  have hmod : w.mod.toNat = 3 ↔ w.mod = 3 := by rw [← BitVec.toNat_inj]; rfl
  have hinputs : (if w.mod = 3 then 0 :: (((List.range n).map t).map (fun x => asCell (plainFormat w.fmt.toNat) (codeIn (plainFormat w.fmt.toNat) x))).dropLast
      else ((List.range n).map t).map (fun x => asCell (plainFormat w.fmt.toNat) (codeIn (plainFormat w.fmt.toNat) x))) =
      (List.range n).map (fun i =>
        if w.mod = 3 then (if i = 0 then 0 else asCell (plainFormat w.fmt.toNat) (codeIn (plainFormat w.fmt.toNat) (t (i - 1))))
        else asCell (plainFormat w.fmt.toNat) (codeIn (plainFormat w.fmt.toNat) (t i))) := by
    split
    · refine List.ext_getElem (by simp; omega) (fun i h1 h2 => ?_)
      cases i <;> simp
    · rw [List.map_map]; rfl
  unfold scanLine
  simp only [hmod, cellOf_eq_asCell, elemOf_eq_codeIn, hinputs]
  rw [combine_eq_combining hf (by split <;> omega) (by split <;> omega), scanBy_eq_doubled _ hs hle]

theorem YieldsLanes.of_eq {i : Instr} {s : State} {os : List Opnd} {cells cells' : List Word32} (h : YieldsLanes i s os cells)
    (e : cells = cells') : YieldsLanes i s os cells' := e ▸ h

/-- The forms of the reductions: plain formats, and untyped lanes alone for .and and .or (R157). -/
structure ReductionForm (i : Instr) : Prop where
  cmd : ∀ c, (formOf c i).cmd = none
  fmts : ∀ c, (formOf c i).fmts = if 4 ≤ (fieldsOf i).mod.toNat then [0] else [0, 1, 2, 3, 4, 5, 6, 7, 8, 9]
  mods : ∀ c, (formOf c i).mods = [0, 1, 2, 3, 4, 5]
  order : stageOrder (opOf i) true = false

theorem Issues.reduction_codes {i : Instr} {w : Fields} {s : State} (h : Issues i s) (hf : ReductionForm i) (hw : fieldsOf i = w) :
    w.fmt.toNat ≤ 9 ∧ w.mod.toNat ≤ 5 ∧ (4 ≤ w.mod.toNat → w.fmt.toNat = 0) := by
  subst hw
  have hfmt := h.fmt_mem
  have hmod := h.mod_mem hf.order
  rw [hf.fmts] at hfmt
  rw [hf.mods] at hmod
  simp only [List.mem_cons, List.not_mem_nil, or_false] at hmod
  split at hfmt <;> simp only [List.mem_cons, List.not_mem_nil, or_false] at hfmt <;> omega

/-- The forms of the scans (R158). -/
structure ScanForm (i : Instr) : Prop where
  cmd : ∀ c, (formOf c i).cmd = none
  fmts : ∀ c, (formOf c i).fmts = [0, 1, 2, 3, 4, 5, 6, 7, 8, 9]
  mods : ∀ c, (formOf c i).mods = [0, 1, 2, 3]
  order : stageOrder (opOf i) true = false

theorem Issues.scan_codes {i : Instr} {w : Fields} {s : State} (h : Issues i s) (hf : ScanForm i) (hw : fieldsOf i = w) :
    w.fmt.toNat ≤ 9 ∧ w.mod.toNat ≤ 3 := by
  subst hw
  have hfmt := h.fmt_mem
  have hmod := h.mod_mem hf.order
  rw [hf.fmts] at hfmt
  rw [hf.mods] at hmod
  simp only [List.mem_cons, List.not_mem_nil, or_false] at hmod hfmt
  omega

/-- Settles O25: each word makes a function of every row or every column of A, and the lemmas about lines say which. -/
theorem permutesAndReductions : Obligations.PermutesAndReductions := by
  unfold Obligations.PermutesAndReductions
  refine ⟨fun w s hwhole => ?_, fun w s hwhole => ?_⟩
  · intro A B n yields
    have hA : A.length = 1024 := hwhole.length_vec _
    have turns (hm : w.mod = 0) : (w.mod == 1) = false := by rw [hm]; rfl
    have shifts (hm : w.mod = 1) : (w.mod == 1) = true := by rw [hm]; rfl
    have hrotr : PermuteForm (.vrotr w) := ⟨fun _ => rfl, fun _ => rfl, fun _ => rfl, fun _ => rfl, fun _ => rfl, by simp⟩
    have hrotc : PermuteForm (.vrotc w) := ⟨fun _ => rfl, fun _ => rfl, fun _ => rfl, fun _ => rfl, fun _ => rfl, by simp⟩
    have hbcr : PermuteForm (.vbcr w) := ⟨fun _ => rfl, fun _ => rfl, fun _ => rfl, fun _ => rfl, fun _ => rfl, by simp⟩
    have hbcc : PermuteForm (.vbcc w) := ⟨fun _ => rfl, fun _ => rfl, fun _ => rfl, fun _ => rfl, fun _ => rfl, by simp⟩
    refine ⟨fun h hbad => h.vextr hbad, fun h => h.vins, fun hm h => h.vswz_rows hwhole hm, fun hm h => h.vswz_columns hwhole hm,
      fun hm h => h.vswz_xor hwhole hm, fun hm h => ?rowTurn, fun hm h => ?rowShift, fun hm h => ?colTurn, fun hm h => ?colShift,
      fun h => ?rowCast, fun h => ?colCast⟩
    case rowTurn =>
      exact (h.rotation (w := w) true hrotr rfl rfl).of_eq (by rw [turns hm]; exact onRows_eq hA (fun r _ => rotateLine_turn (by decide) (cellAt A r)))
    case rowShift =>
      exact (h.rotation (w := w) true hrotr rfl rfl).of_eq (by rw [shifts hm]; exact onRows_eq hA (fun r _ => rotateLine_shift (cellAt A r)))
    case colTurn =>
      exact (h.rotation (w := w) false hrotc rfl rfl).of_eq
        (by rw [turns hm]; exact onColumns_eq hA (fun c _ => rotateLine_turn (by decide) (fun r => cellAt A r c)))
    case colShift =>
      exact (h.rotation (w := w) false hrotc rfl rfl).of_eq (by rw [shifts hm]; exact onColumns_eq hA (fun c _ => rotateLine_shift (fun r => cellAt A r c)))
    case rowCast =>
      exact (h.axisBroadcast true hbcr rfl rfl).of_eq (onRows_eq hA (fun r _ => broadcastLine_map_range (by decide) (cellAt A r)))
    case colCast =>
      exact (h.axisBroadcast false hbcc rfl rfl).of_eq (onColumns_eq hA (fun c _ => broadcastLine_map_range (by decide) (fun r => cellAt A r c)))
  · intro f A comb elem plain row col sum
    have hA : A.length = 1024 := hwhole.length_vec _
    have helem (hf : w.fmt.toNat ≤ 9) (x : Word32) : (if w.mod = 3 then absInput f x else asCell f (codeIn f x)) = elem x := by
      rw [absInput_eq hf]
    refine ⟨fun h => ?redr, fun h => ?redc, fun h => ?scnr, fun h => ?scnc⟩
    case redr =>
      obtain ⟨hf, hm, hraw⟩ := h.reduction_codes (w := w) ⟨fun _ => rfl, fun _ => rfl, fun _ => rfl, rfl⟩ rfl
      have hline (r : Nat) : reduceLine f w.mod.toNat 64 [32, 16, 8, 4, 2, 1] ((List.range 64).map (cellAt A r)) =
          (List.range 64).map (fun _ => halved comb [32, 16, 8, 4, 2, 1] (fun i => elem (cellAt A r i))) := by
        simp only [← helem hf]
        exact reduceLine_eq hf hm hraw 6 (cellAt A r)
      exact (h.onAxis true (fun _ => rfl) rfl rfl).of_eq (onRows_eq hA (fun r _ => hline r))
    case redc =>
      obtain ⟨hf, hm, hraw⟩ := h.reduction_codes (w := w) ⟨fun _ => rfl, fun _ => rfl, fun _ => rfl, rfl⟩ rfl
      have hline (c : Nat) : reduceLine f w.mod.toNat 16 [8, 4, 2, 1] ((List.range 16).map (fun r => cellAt A r c)) =
          (List.range 16).map (fun _ => halved comb [8, 4, 2, 1] (fun i => elem (cellAt A i c))) := by
        simp only [← helem hf]
        exact reduceLine_eq hf hm hraw 4 (fun r => cellAt A r c)
      exact (h.onAxis false (fun _ => rfl) rfl rfl).of_eq (onColumns_eq hA (fun c _ => hline c))
    case scnr =>
      obtain ⟨hf, hm⟩ := h.scan_codes (w := w) ⟨fun _ => rfl, fun _ => rfl, fun _ => rfl, rfl⟩ rfl
      have hline (r : Nat) : scanLine f w.mod.toNat [1, 2, 4, 8, 16, 32] ((List.range 64).map (cellAt A r)) =
          (List.range 64).map (doubled sum [1, 2, 4, 8, 16, 32] (row r)) := scanLine_eq hf hm (by decide) (by decide) (cellAt A r)
      exact (h.onAxis true (fun _ => rfl) rfl rfl).of_eq (onRows_eq hA (fun r _ => hline r))
    case scnc =>
      obtain ⟨hf, hm⟩ := h.scan_codes (w := w) ⟨fun _ => rfl, fun _ => rfl, fun _ => rfl, rfl⟩ rfl
      have hline (c : Nat) : scanLine f w.mod.toNat [1, 2, 4, 8] ((List.range 16).map (fun r => cellAt A r c)) =
          (List.range 16).map (doubled sum [1, 2, 4, 8] (col c)) := scanLine_eq hf hm (by decide) (by decide) (fun r => cellAt A r c)
      exact (h.onAxis false (fun _ => rfl) rfl rfl).of_eq (onColumns_eq hA (fun c _ => hline c))

end Sys2Proof.Machine
end

section
/-! ## Conversions and special functions -/

namespace Sys2Proof.Machine

/-! ### Codes in a converting word -/

/-- An issuing VCVT names a source format (R159). -/
theorem Issues.vcvt_source {w : Fields} {s : State} (h : Issues (.vcvt w) s) : fld w.e 9 6 < 15 := by
  have hbad : cvtSourceBad w.fmt.toNat (fld w.e 9 6) = false := h.extra_false (5, _) (List.mem_cons_of_mem _ (List.mem_cons_self ..))
  have hlt : fld w.e 9 6 < 16 := Nat.mod_lt _ (by decide)
  have hne : fld w.e 9 6 ≠ 15 := by
    intro he
    simp [cvtSourceBad, he] at hbad
  omega

/-- The group size of an issuing word is 32, 64 or 128 (R160). -/
theorem group_dvd {e : BitVec 14} (h : groupFieldBad e = false) : 0 < 32 * 2 ^ fld e 11 10 ∧ 1024 / (32 * 2 ^ fld e 11 10) * (32 * 2 ^ fld e 11 10) = 1024 := by
  have hlt : fld e 11 10 < 4 := Nat.mod_lt _ (by decide)
  have hne : fld e 11 10 ≠ 3 := by
    unfold groupFieldBad at h
    intro he
    simp [he] at h
  generalize fld e 11 10 = k at hlt hne
  interval_cases k
  · decide
  · decide
  · decide
  · exact absurd rfl hne

/-! ### Groups of lanes -/

theorem zipWith_map_range {α β γ : Type} (F : α → β → γ) (n : Nat) (p : Nat → α) {c : List β} (hc : n ≤ c.length) (d : β) :
    List.zipWith F ((List.range n).map p) c = (List.range n).map (fun j => F (p j) (c.getD j d)) := by
  refine List.ext_getElem (by simp [hc]) (fun j h1 h2 => ?_)
  have hj : j < c.length := by simp only [List.length_zipWith, List.length_map, List.length_range] at h1; omega
  simp [List.getD_eq_getElem?_getD, List.getElem?_eq_getElem hj]

/-- Group j of a whole register, element by element. -/
theorem take_drop_eq {v : List Word32} {n g j : Nat} (hv : v.length = n * g) (hj : j < n) :
    (v.drop (g * j)).take g = (List.range g).map (fun c => v.getD (g * j + c) 0) := by
  have hle : g * j + g ≤ v.length := by
    have := Nat.mul_le_mul_left g (Nat.succ_le_of_lt hj)
    rw [hv, Nat.mul_comm n]
    exact this
  refine List.ext_getElem (by simp; omega) (fun c h1 h2 => ?_)
  have hc : c < g := by simpa using h2
  simp [List.getD_eq_getElem?_getD, List.getElem?_eq_getElem (show g * j + c < v.length by omega)]

/-- A function of every element and its group's number, group by group or lane by lane. -/
theorem flatten_groups {v : List Word32} {n g : Nat} (hg : 0 < g) (hv : v.length = n * g) (F : Nat → Word32 → Word32) :
    ((List.range n).map (fun j => ((v.drop (g * j)).take g).map (F j))).flatten = v.zipIdx.map (fun x => F (x.2 / g) x.1) := by
  have hpiece : (List.range n).map (fun j => ((v.drop (g * j)).take g).map (F j)) =
      (List.range n).map (fun j => (List.range g).map (fun c => F j (v.getD (g * j + c) 0))) :=
    map_range_congr (fun j hj => by rw [take_drop_eq hv hj, List.map_map]; rfl)
  rw [hpiece, ← List.flatMap_def, flatMap_rows n hg (fun j c => F j (v.getD (g * j + c) 0))]
  refine List.ext_getElem (by simp [hv]) (fun l h1 h2 => ?_)
  have hl : l < v.length := by simpa using h2
  simp [Nat.div_add_mod, List.getD_eq_getElem?_getD, List.getElem?_eq_getElem hl]

/-- Values before n, and zeros after them. -/
theorem map_append_replicate (n m : Nat) (t : Nat → Word32) :
    (List.range n).map t ++ List.replicate m 0 = (List.range (n + m)).map (fun j => if j < n then t j else 0) := by
  rw [List.range_add, List.map_append, List.map_map]
  refine congrArg₂ _ (map_range_congr (fun j hj => (if_pos hj).symm)) (List.ext_getElem (by simp) (fun _ _ _ => by simp))

/-! ### Two registers written -/

/-- A word that reads nothing but registers and then writes two vector registers whole (R134). -/
theorem Issues.completesTwo {i : Instr} {s : State} {body : M Flow} {n m : Nat} {xs ys : List Word32} (h : Issues i s)
    (hexec : exec i s = issue i body s) (hcmd : ∀ c, (formOf c i).cmd = none)
    (hb : body (s.begun i) = (do writeVec n xs; writeVec m ys; return .fall : M Flow) (s.begun i)) :
    Completes i s { ownEffect s (fieldsOf i) [] with vecs := [(n, xs), (m, ys)] } := by
  have hr := Reads.begun s i
  obtain ⟨u, hrun, hd, hw⟩ := hr.does.writeVec (h.within hr) n xs
  obtain ⟨u', hrun', hd', hw'⟩ := hd.writeVec hw m ys
  have hbody : body (s.begun i) = .ok (.fall, u') := by rw [hb]; simp only [run_bind, hrun, hrun', run_pure]
  simpa [ownEffect, popsAtIssue_eq hcmd] using h.completes hexec hcmd hbody hd' hw'

/-! ### VCVT, VQNT, VDQNT (R159 to R161) -/

theorem Issues.vcvt {w : Fields} {s : State} (h : Issues (.vcvt w) s) {d f : Format} (hd : s.myTask.formatAt w.fmt.toNat = some d)
    (hf : s.myTask.formatAt (fld w.e 9 6) = some f) :
    YieldsLanes (.vcvt w) s [] ((s.lanesOf [] f w.a).map (fun x =>
      asCell d (if f = d then codeIn f x else convertCode f d w.mod.toNat (codeIn f x)))) := by
  have hr := Reads.begun s (.vcvt w)
  have hfmt : w.fmt.toNat < 15 := by
    have hmem : w.fmt.toNat ∈ [1, 2, 3, 4, 5, 6, 7, 8, 9, 10, 11, 12, 13, 14] := h.fmt_mem
    simp only [List.mem_cons, List.not_mem_nil, or_false] at hmem
    omega
  obtain ⟨u, ha, hru⟩ := hr.operandW h.pair f (h.queueOfA (fun _ => by simp [formOf]))
  have ha : Machine.operandW f w.a (s.begun (.vcvt w)) = .ok (s.lanesOf [] f w.a, u) := ha
  refine h.yieldsLanes (body := bodyVcvt w) rfl (fun _ => rfl) hru ?_
  simp only [bodyVcvt, run_bind, hr.formatOf hd hfmt, hr.formatOf hf h.vcvt_source, ha, cellOf_eq_asCell, elemOf_eq_codeIn]
  rfl

/-- Current scaling of a group of a register's lanes (R160). -/
def scaledGroup (w : Fields) (s : State) (d : Format) (j : Nat) : Nat × List Nat :=
  currentScale d (Rnd.ofMod w.mod.toNat) ((((s.myTask.vec (opndIndex w.a)).drop (groupSize w * j)).take (groupSize w)).map
    (fun x => decodeNum (plainFormat (fld w.e 9 6)) (codeIn (plainFormat (fld w.e 9 6)) x)))

theorem Issues.vqnt {w : Fields} {s : State} (h : Issues (.vqnt w) s) {d : Format} (hd : s.myTask.formatAt w.fmt.toNat = some d) :
    Completes (.vqnt w) s { ownEffect s w [] with
      vecs := [(opndIndex w.d, (List.range (1024 / groupSize w)).flatMap (fun j => (scaledGroup w s d j).2.map (asCell d))),
        (opndIndex w.c, (List.range 1024).map (fun j => if j < 1024 / groupSize w then BitVec.ofNat 32 (scaledGroup w s d j).1 else 0))] } := by
  have hfmt : w.fmt.toNat < 15 := by
    have hmem : w.fmt.toNat ∈ [10, 11, 12, 13] := h.fmt_mem
    simp only [List.mem_cons, List.not_mem_nil, or_false] at hmem
    omega
  have hr := Reads.begun s (.vqnt w)
  have hgroups : (pieces (groupSize w) (1024 / groupSize w) ((s.myTask.vec (opndIndex w.a)).map
        (fun x => decodeNum (plainFormat (fld w.e 9 6)) (elemOf (plainFormat (fld w.e 9 6)) x)))).map (currentScale d (Rnd.ofMod w.mod.toNat)) =
      (List.range (1024 / groupSize w)).map (scaledGroup w s d) := by
    rw [pieces_eq, List.map_map]
    refine map_range_congr (fun j _ => ?_)
    simp only [Function.comp_apply, ← List.map_drop, ← List.map_take]
    rfl
  have hscales : (List.range (1024 / groupSize w)).map (fun j => BitVec.ofNat 32 (scaledGroup w s d j).1) ++ List.replicate (1024 - 1024 / groupSize w) 0 =
      (List.range 1024).map (fun j => if j < 1024 / groupSize w then BitVec.ofNat 32 (scaledGroup w s d j).1 else 0) := by
    rw [map_append_replicate, Nat.add_sub_cancel' (Nat.div_le_self ..)]
  refine h.completesTwo (body := bodyVqnt w) rfl (fun _ => rfl) ?_
  simp only [bodyVqnt, run_bind, hr.formatOf hd hfmt, run_readVec, hr.vec, show laneCount = 1024 from rfl, hgroups, ← hscales]
  simp only [List.map_map, List.flatMap_map, funext (cellOf_eq_asCell d)]
  rfl

theorem Issues.vdqnt {w : Fields} {s : State} (hwhole : s.VectorsWhole) (h : Issues (.vdqnt w) s) {f : Format}
    (hf : s.myTask.formatAt (fld w.e 9 6) = some f) :
    Completes (.vdqnt w) s { ownEffect s w [] with
      vecs := [(opndIndex w.d, (s.myTask.vec (opndIndex w.a)).zipIdx.map (fun x => asCell (plainFormat w.fmt.toNat)
        (round (scaled (decodeNum f (codeIn f x.1)) (fld ((s.myTask.vec (opndIndex w.c)).getD (x.2 / groupSize w) 0) 7 0))
          (plainFormat w.fmt.toNat) (Rnd.ofMod w.mod.toNat))))] } := by
  have hbad : (groupFieldBad w.e || decide (fld w.e 9 6 < 10) || decide (13 < fld w.e 9 6)) = false := h.extra_false (5, _) (List.mem_cons_self ..)
  simp only [Bool.or_eq_false_iff, decide_eq_false_iff_not, Nat.not_lt] at hbad
  obtain ⟨⟨hgroup, _⟩, hsrc⟩ := hbad
  obtain ⟨hpos, hdvd⟩ := group_dvd hgroup
  have hr := Reads.begun s (.vdqnt w)
  refine h.completesVec (body := bodyVdqnt w) (os := []) rfl (fun _ => rfl) (by simpa using hr) ?_
  have hcells := flatten_groups (v := s.myTask.vec (opndIndex w.a)) hpos ((hwhole.length_vec _).trans hdvd.symm)
    (fun j x => asCell (plainFormat w.fmt.toNat) (round (scaled (decodeNum f (codeIn f x))
      (fld ((s.myTask.vec (opndIndex w.c)).getD j 0) 7 0)) (plainFormat w.fmt.toNat) (Rnd.ofMod w.mod.toNat)))
  have hle : 1024 / groupSize w ≤ (s.myTask.vec (opndIndex w.c)).length := by rw [hwhole.length_vec]; exact Nat.div_le_self ..
  simp only [bodyVdqnt, run_bind, hr.formatOf hf (show fld w.e 9 6 < 15 by omega), run_readVec, hr.vec, show laneCount = 1024 from rfl, pieces_eq,
    zipWith_map_range _ _ _ hle 0, cellOf_eq_asCell, elemOf_eq_codeIn]
  rw [show groupSize w = 32 * 2 ^ fld w.e 11 10 from rfl, hcells]

/-- A scaled code rounded: NaN under scale code 0xFF (R126, R161). -/
theorem round_scaled (d : Format) (m : Rnd) (v : Num) (code : Nat) :
    round (scaled v code) d m = if code = 0xFF then d.nanCode else round (v.scale ((code : Int) - 127)) d m := by
  unfold scaled
  split
  · rfl
  · rfl

/-! ### Special functions (R162) -/

/-- A special function completes: lane by lane, rounded once. -/
theorem Issues.specialFunction {i : Instr} {w : Fields} {s : State} {g : Num → Near} (h : Issues i s) (hw : fieldsOf i = w)
    (ha : ∀ c, (formOf c i).a = .w) (hcmd : ∀ c, (formOf c i).cmd = none) (hexec : exec i s = issue i (special w g) s) :
    YieldsLanes i s [] ((s.lanesOf [] (plainFormat w.fmt.toNat) w.a).map (fun x => asCell (plainFormat w.fmt.toNat)
      (round (g (decodeNum (plainFormat w.fmt.toNat) (codeIn (plainFormat w.fmt.toNat) x))).1 (plainFormat w.fmt.toNat) (Rnd.ofMod w.mod.toNat)
        (g (decodeNum (plainFormat w.fmt.toNat) (codeIn (plainFormat w.fmt.toNat) x))).2))) := by
  subst hw
  obtain ⟨u, hrun, hr⟩ := (Reads.begun s i).operandW h.pair (plainFormat (fieldsOf i).fmt.toNat) (h.queueOfA (fun c => by simp [ha c]))
  refine h.yieldsLanes hexec hcmd hr ?_
  simp only [special, run_bind, hrun, cellOf_eq_asCell, elemOf_eq_codeIn]

/-- Settles O26: group by group for the words of R159 to R161; the functions of R162 lane by lane, with their special operands. -/
theorem conversionsAndFunctions : Obligations.ConversionsAndFunctions := by
  unfold Obligations.ConversionsAndFunctions
  refine ⟨fun w s hwhole => ?_, fun w s => ?_⟩
  · intro m g A group
    refine ⟨fun d f hd hf h => h.vcvt hd hf, fun d hd h => h.vqnt hd, fun f hf h => ?_⟩
    have hdone := h.vdqnt hwhole hf
    have hfld (x : Word32) : fld x 7 0 = x.toNat % 256 := by simp [fld, bits]
    simp only [round_scaled, hfld] at hdone
    exact hdone
  · intro f A lanes
    refine ⟨fun h => ?exp, fun h => ?log, fun h => ?rcp, fun h => ?rsq, fun h => ?tanh, ?nan, fun n e => ⟨rfl, rfl, rfl, rfl⟩,
      fun m e hm => ⟨if_neg hm, if_neg hm⟩, rfl, rfl, rfl, rfl, rfl, rfl, fun n => rfl⟩
    case exp => exact h.specialFunction rfl (fun _ => rfl) (fun _ => rfl) rfl
    case log => exact h.specialFunction rfl (fun _ => rfl) (fun _ => rfl) rfl
    case rcp => exact h.specialFunction (g := nearRcp) rfl (fun _ => rfl) (fun _ => rfl) rfl
    case rsq => exact h.specialFunction rfl (fun _ => rfl) (fun _ => rfl) rfl
    case tanh => exact h.specialFunction rfl (fun _ => rfl) (fun _ => rfl) rfl
    case nan => simp [nearExp, nearLog, nearRsq, nearTanh]

end Sys2Proof.Machine
end

section
/-! ## Vector loads and stores -/

namespace Sys2Proof.Machine

/-! ### Addresses (R42) -/

theorem imm14_eq_toInt (w : Fields) : imm14 w = w.e.toInt := by
  unfold imm14
  rw [sext_eq_toInt, BitVec.ofNat_toNat, BitVec.setWidth_eq]

/-- A displacement at the width of the core, or extended to 64 bits first (R42, R67). -/
theorem toWidth_add_imm14 (c : CoreId) (base : Word64) (w : Fields) :
    toWidth c (base + intToWidth c (imm14 w)).toNat = toWidth c (base + w.e.signExtend 64).toNat := by
  have hoff : (intToWidth c (imm14 w)).toNat % 2 ^ coreWidth c = (w.e.signExtend 64).toNat % 2 ^ coreWidth c := by
    rw [imm14_eq_toInt]
    unfold intToWidth BitVec.signExtend
    rw [BitVec.toNat_ofNat, BitVec.toNat_ofInt]
    cases c <;> simp only [coreWidth] <;> omega
  have hmod (x y : Nat) (h : x % 2 ^ coreWidth c = y % 2 ^ coreWidth c) : (base.toNat + x) % 2 ^ 64 % 2 ^ coreWidth c = (base.toNat + y) % 2 ^ 64 % 2 ^ coreWidth c := by
    cases c <;> simp only [coreWidth] at h ⊢ <;> omega
  unfold toWidth
  rw [BitVec.toNat_add, BitVec.toNat_add, hmod _ _ hoff]

theorem toWidth_toNat_toWidth (c : CoreId) (v : Nat) : toWidth c (toWidth c v).toNat = toWidth c v := by
  unfold toWidth
  rw [BitVec.toNat_ofNat]
  cases c <;> simp only [coreWidth, Nat.mod_mod] 
  rw [Nat.mod_eq_of_lt (show v % 2 ^ 32 < 2 ^ 64 by omega), Nat.mod_mod]

/-- The address of a memory form, and what its base becomes (R42). -/
theorem Reads.addressOf {s u : State} {takes : List (Nat × Nat)} (h : Reads s u takes []) (hp : s.cur.pair = none) {w : Fields}
    (ha : queueOf w.a = []) (hb : queueOf w.b = []) :
    ∃ post u', Machine.addressOf w u = .ok ((s.address w, post), u') ∧ Reads s u' takes [] ∧
      post.toList.map (fun v => (opndIndex w.a, toWidth s.cur.strand.core v.toNat)) = s.baseAfter w := by
  have hcore : u.cur.strand.core = s.cur.strand.core := by rw [h.cur]
  have hsource {x : State} (hx : Reads s x takes []) {o : Opnd} (ho : queueOf o = []) :
      ∃ x', Machine.source o x = .ok (s.valueOf [] o, x') ∧ Reads s x' takes [] := by
    obtain ⟨x', hrun, hr⟩ := hx.source hp o (fun q hq => by rw [ho] at hq; cases hq)
    exact ⟨x', hrun, by simpa [ho] using hr⟩
  obtain ⟨v, hrun, hv⟩ := hsource h ha
  unfold Machine.addressOf State.address State.baseAfter
  simp only [run_bind, run_theCore, hrun, hcore]
  cases hindex : w.b with
  | scalar hi i =>
    rw [hindex] at hb
    obtain ⟨v', hrun', hv'⟩ := hsource hv hb
    simp only [hrun', run_bind, run_pure]
    exact ⟨none, v', rfl, hv', rfl⟩
  | _ =>
    simp only
    split
    · exact ⟨_, v, rfl, hv, by simp only [Option.toList, List.map_cons, List.map_nil, toWidth_toNat_toWidth, toWidth_add_imm14]⟩
    · exact ⟨none, v, by rw [toWidth_add_imm14]; rfl, hv, rfl⟩

/-- A post-incremented base is written back (R42). -/
theorem Does.writeBack {e : Effect} {s u : State} (h : Does e s u) (hw : Within s u) (w : Fields) (post : Option Word64) :
    ∃ u', Machine.writeBack w post u = .ok (.unit, u') ∧
      Does { e with regs := e.regs ++ post.toList.map (fun v => (opndIndex w.a, toWidth s.cur.strand.core v.toNat)) } s u' ∧ Within s u' := by
  cases post with
  | none => exact ⟨u, rfl, by simpa using h, hw⟩
  | some v => exact h.writeReg hw (opndIndex w.a) v

/-! ### The addresses of a vector access (R142, R143) -/

theorem swizzle_eq (swz rho a : Nat) :
    swizzle swz rho a = if swz = 1 then a ^^^ ((rho &&& 31) <<< 7) else if swz = 2 then a ^^^ ((rho &&& 7) <<< 4) else a := by
  have h31 : rho &&& 31 = rho % 32 := Nat.and_two_pow_sub_one_eq_mod rho 5
  have h7 : rho &&& 7 = rho % 8 := Nat.and_two_pow_sub_one_eq_mod rho 3
  rw [h31, h7, Nat.shiftLeft_eq, Nat.shiftLeft_eq]
  unfold swizzle
  split
  · rfl
  · rfl
  · next h1 h2 => rw [if_neg h1, if_neg h2]

theorem laneAddresses_eq (base stride size : Nat) (trans : Bool) (swz : Nat) :
    laneAddresses base stride size trans swz = (List.range 1024).map (fun l => elementAt trans swz size stride base (l / 64) (l % 64)) := by
  have hlanes : laneAddresses base stride size trans swz =
      (List.range 16).flatMap (fun r => (List.range 64).map (fun c => elementAt trans swz size stride base r c)) := by
    unfold laneAddresses elementAt
    simp only [swizzle_eq]
    cases trans <;> rfl
  rw [hlanes, flatMap_rows 16 (by decide)]

theorem lowestBad_eq_none {size : Nat} {ok : Nat → Bool} {as : List Nat} (h : ∀ a ∈ as, ∀ k, k < size → ok (a + k) = true) :
    lowestBad size ok as = none := by
  unfold lowestBad
  induction as with
  | nil => rfl
  | cons a as ih =>
    have hfind : (List.range size).find? (fun k => !ok (a + k)) = none :=
      List.find?_eq_none.2 (fun k hk => by simp [h a (List.mem_cons_self ..) k (List.mem_range.1 hk)])
    simp only [List.foldl_cons, hfind]
    exact ih (fun x hx => h x (List.mem_cons_of_mem _ hx))

/-- An aligned access whose every byte lies in the stack window, where its base is the stack pointer, and in the allocation passes (R142). -/
theorem vectorCheck_eq_none {t : Task} {st : Strand} {stack trans : Bool} {base stride size : Nat} {as : List Nat}
    (hbase : base % (if trans then 16 * size else if size = 1 then 64 else 128) = 0)
    (hstride : stride % (if trans then 16 * size else if size = 1 then 64 else 128) = 0)
    (hin : ∀ a ∈ as, ∀ k, k < size → (stack = true → st.stklim.toNat ≤ a + k ∧ a + k < st.stkbase.toNat) ∧ t.tmBase ≤ a + k ∧ a + k < t.tmBase + t.tmSize) :
    vectorCheck t st stack trans base stride size as = none := by
  have hstack : (if stack then lowestBad size (fun a => decide (st.stklim.toNat ≤ a) && decide (a < st.stkbase.toNat)) as else none) = none := by
    split
    · next hs =>
      exact lowestBad_eq_none (fun a ha k hk => by
        obtain ⟨hlo, hhi⟩ := (hin a ha k hk).1 hs
        simp [hlo, hhi])
    · rfl
  have hbounds : lowestBad size (fun a => t.inBounds a 1) as = none := lowestBad_eq_none (fun a ha k hk => by
    obtain ⟨_, hlo, hhi⟩ := hin a ha k hk
    simp only [Task.inBounds, Bool.and_eq_true, decide_eq_true_iff]
    omega)
  unfold vectorCheck
  simp only [hbase, hstride, ne_eq, not_true_eq_false, or_self, if_false, hstack, hbounds]
  rfl

/-- The forms of the vector accesses (R144 to R146). -/
structure VectorForm (i : Instr) : Prop where
  core : ∀ c, (formOf c i).core = some .dusk
  a : ∀ c, (formOf c i).a = .r
  b : ∀ c, (formOf c i).b = .idx ∨ (formOf c i).b = .stride
  cmd : ∀ c, (formOf c i).cmd = none
  fmts : ∀ c, (formOf c i).fmts = [0, 1, 2, 3, 4, 5, 6, 7, 8, 9, 10, 11, 12, 13, 14]

/-- The addresses of an admitted vector access, lane by lane. -/
def State.laneAddress (s : State) (w : Fields) (strided trans : Bool) (f : Format) (l : Nat) : Nat :=
  elementAt trans (fld w.mod 1 0) f.bytes (s.vectorStride w strided f) (s.vectorBase w strided) (l / 64) (l % 64)

/-- An admitted vector access goes to its lanes' addresses. -/
theorem Issues.vectorAccess {i : Instr} {w : Fields} {s : State} {f : Format} {strided trans : Bool} (h : Issues i s) (hw : fieldsOf i = w)
    (hform : VectorForm i) (hf : s.myTask.formatAt w.fmt.toNat = some f) (hadm : s.vectorAdmits w strided trans f) (op : BitVec 8) :
    ∃ post u, Machine.vectorAccess w op strided trans (s.begun i) = .ok ((f, (List.range 1024).map (s.laneAddress w strided trans f), post), u) ∧
      Reads s u (popsAtIssue s.cur.strand.core i) [] ∧
      post.toList.map (fun v => (opndIndex w.a, toWidth s.cur.strand.core v.toNat)) = s.vectorBaseAfter w strided := by
  subst hw
  have ha : queueOf (fieldsOf i).a = [] := h.queueOfA (fun c => by simp [hform.a c])
  have hb : queueOf (fieldsOf i).b = [] := h.queueOfB (fun c => by rcases hform.b c with hb | hb <;> simp [hb])
  have hfmt : (fieldsOf i).fmt.toNat < 15 := by
    have hmem := h.fmt_mem
    rw [hform.fmts] at hmem
    simp only [List.mem_cons, List.not_mem_nil, or_false] at hmem
    omega
  have hr := Reads.begun s i
  have haddr : ∃ post u, (if strided then addressOfStrided (fieldsOf i) else addressOf (fieldsOf i)) (s.begun i) =
        .ok ((if strided then s.address { fieldsOf i with b := .reg 0 } else s.address (fieldsOf i), post), u) ∧
      Reads s u (popsAtIssue s.cur.strand.core i) [] ∧
      post.toList.map (fun v => (opndIndex (fieldsOf i).a, toWidth s.cur.strand.core v.toNat)) = s.vectorBaseAfter (fieldsOf i) strided := by
    cases strided with
    | false => exact hr.addressOf h.pair ha hb
    | true => exact hr.addressOf (w := { fieldsOf i with b := .reg 0 }) h.pair ha rfl
  obtain ⟨post, u, hrun, hru, hpost⟩ := haddr
  have hstride : ∃ v, (if strided then (do return (← source (fieldsOf i).b).toNat % 2 ^ 32) else return 64 * f.bytes : M Nat) u =
      .ok (s.vectorStride (fieldsOf i) strided f, v) ∧ Reads s v (popsAtIssue s.cur.strand.core i) [] := by
    cases strided with
    | false => exact ⟨u, rfl, hru⟩
    | true =>
      obtain ⟨v, hsrc, hv⟩ := hru.source h.pair (fieldsOf i).b (fun q hq => by rw [hb] at hq; cases hq)
      refine ⟨v, ?_, by simpa [hb] using hv⟩
      simp only [if_true, run_bind, hsrc, run_pure, Nat.mod_eq_of_lt (valueOf_lt (h.onDusk hform.core) [] _)]
      rfl
  obtain ⟨v, hrun', hrv⟩ := hstride
  obtain ⟨hbase, hunit, hin⟩ := hadm
  have hcheck : vectorCheck v.myTask v.me (isStackPointer (fieldsOf i).a) trans (s.vectorBase (fieldsOf i) strided) (s.vectorStride (fieldsOf i) strided f) f.bytes
      ((List.range 1024).map (s.laneAddress (fieldsOf i) strided trans f)) = none := by
    refine vectorCheck_eq_none hbase hunit (fun a ha k hk => ?_)
    obtain ⟨l, hl, rfl⟩ := List.mem_map.1 ha
    have hl := List.mem_range.1 hl
    obtain ⟨m, hm⟩ := hrv.task
    obtain ⟨x, hx⟩ := hrv.me
    rw [hm, hx]
    exact hin (l / 64) (l % 64) k (by omega) (Nat.mod_lt _ (by decide)) hk
  refine ⟨post, v, ?_, hrv, hpost⟩
  simp only [Machine.vectorAccess, run_bind, hr.formatOf hf hfmt, hrun, hrun', run_get, laneAddresses_eq]
  have hlanes : (List.range 1024).map (fun l => elementAt trans (fld (fieldsOf i).mod 1 0) f.bytes (s.vectorStride (fieldsOf i) strided f)
      (if strided then s.address { fieldsOf i with b := .reg 0 } else s.address (fieldsOf i)).toNat (l / 64) (l % 64)) =
      (List.range 1024).map (s.laneAddress (fieldsOf i) strided trans f) := rfl
  have hcheck' : vectorCheck v.myTask v.me (isStackPointer (fieldsOf i).a) trans
      (if strided then s.address { fieldsOf i with b := .reg 0 } else s.address (fieldsOf i)).toNat (s.vectorStride (fieldsOf i) strided f) f.bytes
      ((List.range 1024).map (s.laneAddress (fieldsOf i) strided trans f)) = none := hcheck
  rw [hlanes, hcheck']
  rfl

end Sys2Proof.Machine
end

section
/-! ## Bytes of vector loads and stores -/

namespace Sys2Proof.Machine

/-! ### Elements and their bytes (R134, R142) -/

/-- An element of a named format is a whole number of bytes. -/
theorem formatAt_bits {t : Task} {code : Nat} {f : Format} (h : t.formatAt code = some f) : f.bits = 8 * f.bytes := by
  unfold Task.formatAt at h
  split at h
  · split at h
    · cases h
    · cases h; simp [Format.bytes, Format.bits]
  · cases h
    unfold plainFormat
    split <;> rfl

theorem bytesToNat_readBytes (m : List Host.Cell) (a n : Nat) :
    bytesToNat (Memory.readBytes m a n) = ((List.range n).map (fun k => (Memory.read m (a + k)).toNat * 256 ^ k)).sum := by
  induction n generalizing a with
  | zero => rfl
  | succ n ih =>
    rw [Memory.readBytes, bytesToNat, ih, List.range_succ_eq_map, List.map_cons, List.map_map, List.sum_cons, ← List.sum_map_mul_left]
    simp only [Function.comp_def, Nat.add_zero, pow_zero, Nat.mul_one, Nat.pow_succ, Nat.succ_eq_add_one]
    refine congrArg _ (congrArg _ (List.map_congr_left (fun k _ => ?_)))
    rw [Nat.add_right_comm a 1 k, Nat.add_assoc]
    ring

theorem natToBytes_eq (n v : Nat) : natToBytes n v = (List.range n).map (fun k => BitVec.ofNat 8 (v / 256 ^ k)) := by
  induction n generalizing v with
  | zero => rfl
  | succ n ih =>
    rw [natToBytes, ih, List.range_succ_eq_map, List.map_cons, List.map_map]
    simp only [Function.comp_def, pow_zero, Nat.div_one, Nat.pow_succ', Nat.succ_eq_add_one, Nat.div_div_eq_div_mul]

/-- The bytes of the element in a cell are the low bytes of the cell. -/
theorem natToBytes_elemOf {f : Format} (hf : f.bits = 8 * f.bytes) (x : Word32) :
    natToBytes f.bytes (elemOf f x) = (List.range f.bytes).map (fun k => x.extractLsb' (8 * k) 8) := by
  rw [natToBytes_eq]
  refine map_range_congr (fun k hk => BitVec.eq_of_getLsbD_eq (fun j hj => ?_))
  have h256 : 256 ^ k = 2 ^ (8 * k) := by rw [pow_mul]; norm_num
  rw [BitVec.getLsbD_ofNat, BitVec.getLsbD_extractLsb', h256, Nat.testBit_div_two_pow]
  unfold elemOf
  rw [Nat.testBit_mod_two_pow, hf]
  have hlt : j + 8 * k < 8 * f.bytes := by omega
  simp [hj, hlt, Nat.add_comm, BitVec.getLsbD]

/-! ### Memory after stores -/

theorem Memory.read_writeBytes {m : List Host.Cell} (a b : Nat) (bs : List Byte) (hw : Memory.wf m = true) :
    Memory.read (Memory.writeBytes m a bs) b = if a ≤ b ∧ b < a + bs.length then bs.getD (b - a) 0 else Memory.read m b := by
  induction bs generalizing m a with
  | nil => rw [if_neg (by simp)]; rfl
  | cons x xs ih =>
    rw [Memory.writeBytes, ih (a + 1) (Memory.wf_write a x hw), Memory.read_write a b x hw]
    rcases Nat.lt_trichotomy b a with h | h | h
    · rw [if_neg (by omega), if_neg (by omega), if_neg (by omega)]
    · subst h
      rw [if_neg (by omega), if_pos rfl, if_pos (by simp), Nat.sub_self]
      rfl
    · have hsub : b - a = b - (a + 1) + 1 := by omega
      rw [hsub, List.getD_cons_succ]
      simp only [List.length_cons]
      split
      · rw [if_pos (by omega)]
      · rw [if_neg (by omega), if_neg (by omega)]

/-- Stores in order leave each byte as the last of them to it has it. -/
theorem foldl_writeTile (t : TileId) (ps : List (Nat × List Byte)) (u : State) (hw : u.MemoryCanonical) :
    ∃ m d, ps.foldl (fun x p => x.writeTile t p.1 p.2) u = { u with mem := m, damaged := d } ∧
      ∀ a, Memory.read m a = storedByte a (ps.map (fun p => (tilePa t p.1, p.2))) (Memory.read u.mem a) := by
  induction ps generalizing u with
  | nil => exact ⟨u.mem, u.damaged, rfl, fun _ => rfl⟩
  | cons p ps ih =>
    obtain ⟨d, hd⟩ := writeTile_eq u t p.1 p.2
    obtain ⟨m, d', hfold, hread⟩ := ih (u.writeTile t p.1 p.2) (by rw [hd]; exact Memory.wf_writeBytes _ _ hw)
    refine ⟨m, d', ?_, fun a => ?_⟩
    · rw [List.foldl_cons, hfold, hd]
    · rw [hread, mem_writeTile, Memory.read_writeBytes _ _ _ hw, List.map_cons, storedByte]

theorem storedByte_append (a : Nat) (l l' : List (Nat × List Byte)) (b : Byte) : storedByte a (l ++ l') b = storedByte a l' (storedByte a l b) := by
  induction l generalizing b with
  | nil => rfl
  | cons w ws ih => exact ih _

/-- Stores to tile memory in order (R141). -/
theorem Does.writeTiles {e : Effect} {s u : State} (h : Does e s u) (hw : Within s u) (hm : u.MemoryCanonical) (t : TileId) (ps : List (Nat × List Byte)) :
    Does { e with stores := e.stores ++ ps.map (fun p => (tilePa t p.1, p.2)) } s (ps.foldl (fun x p => x.writeTile t p.1 p.2) u) ∧
      Within s (ps.foldl (fun x p => x.writeTile t p.1 p.2) u) := by
  obtain ⟨m, d, hfold, hread⟩ := foldl_writeTile t ps u hm
  rw [hfold]
  refine ⟨{ h with memory := fun a => ?_ }, ⟨hw.cur, hw.given, hw.taken, hw.status, hw.fences, hw.raises⟩⟩
  rw [storedByte_append, ← h.memory a]
  exact hread a

/-! ### The words (R144 to R146) -/

/-- An admitted vector load: each lane's element in its cell. -/
theorem Issues.vectorLoad {i : Instr} {w : Fields} {s : State} {f : Format} {strided trans : Bool} {op : BitVec 8} (h : Issues i s) (hw : fieldsOf i = w)
    (hform : VectorForm i) (hexec : exec i s = issue i (Machine.vectorLoad w op strided trans) s)
    (hf : s.myTask.formatAt w.fmt.toNat = some f) (hadm : s.vectorAdmits w strided trans f)
    (hgood : ∀ l, l < 1024 → s.isDamaged (tilePa s.cur.strand.tileId (s.laneAddress w strided trans f l)) f.bytes = false) :
    Completes i s { ownEffect s w [] with
      regs := s.vectorBaseAfter w strided
      vecs := [(opndIndex w.d, (List.range 1024).map (fun l => asCell f (((List.range f.bytes).map (fun k =>
        (Memory.read s.mem (tilePa s.cur.strand.tileId (s.laneAddress w strided trans f l) + k)).toNat * 256 ^ k)).sum)))] } := by
  obtain ⟨post, u, hrun, hr, hpost⟩ := h.vectorAccess hw hform hf hadm op
  have hcells : ((List.range 1024).map (s.laneAddress w strided trans f)).map (fun a => cellOf f (bytesToNat (u.readTile u.cur.strand.tileId a f.bytes))) =
      (List.range 1024).map (fun l => asCell f (((List.range f.bytes).map (fun k =>
        (Memory.read s.mem (tilePa s.cur.strand.tileId (s.laneAddress w strided trans f l) + k)).toNat * 256 ^ k)).sum)) := by
    rw [List.map_map]
    refine map_range_congr (fun l _ => ?_)
    simp only [Function.comp_apply, cellOf_eq_asCell, State.readTile, hr.mem, hr.cur, bytesToNat_readBytes]
  have hfind : ((List.range 1024).map (s.laneAddress w strided trans f)).find? (fun a => u.isDamaged (tilePa u.cur.strand.tileId a) f.bytes) = none := by
    refine List.find?_eq_none.2 (fun a ha => ?_)
    obtain ⟨l, hl, rfl⟩ := List.mem_map.1 ha
    have := hgood l (List.mem_range.1 hl)
    unfold State.isDamaged at this ⊢
    rw [hr.cur, hr.damaged, this]
    exact Bool.false_ne_true
  obtain ⟨v, hrunv, hd, hwv⟩ := hr.does.writeVec (h.within hr) (opndIndex w.d) ((List.range 1024).map (fun l => asCell f (((List.range f.bytes).map (fun k =>
        (Memory.read s.mem (tilePa s.cur.strand.tileId (s.laneAddress w strided trans f l) + k)).toNat * 256 ^ k)).sum)))
  obtain ⟨x, hrunx, hd, hwx⟩ := hd.writeBack hwv w post
  have hbody : Machine.vectorLoad w op strided trans (s.begun i) = .ok (.fall, x) := by
    simp only [Machine.vectorLoad, run_bind, hrun, run_get, hfind, hcells, hrunv, hrunx, run_pure]
  have := h.completes hexec hform.cmd hbody hd hwx
  rw [hpost] at this
  simpa [ownEffect, popsAtIssue_eq hform.cmd, hw] using this

/-- An admitted vector store: the low bytes of each cell at its lane's address. -/
theorem Issues.vectorStore {i : Instr} {w : Fields} {s : State} {f : Format} {strided trans : Bool} {op : BitVec 8} (h : Issues i s) (hw : fieldsOf i = w)
    (hform : VectorForm i) (hexec : exec i s = issue i (Machine.vectorStore w op strided trans) s) (hm : s.MemoryCanonical) (hwhole : s.VectorsWhole)
    (hf : s.myTask.formatAt w.fmt.toNat = some f) (hadm : s.vectorAdmits w strided trans f) :
    Completes i s { ownEffect s w [] with
      regs := s.vectorBaseAfter w strided
      stores := (List.range 1024).map (fun l => (tilePa s.cur.strand.tileId (s.laneAddress w strided trans f l),
        (List.range f.bytes).map (fun k => (cellAt (s.myTask.vec (opndIndex w.c)) (l / 64) (l % 64)).extractLsb' (8 * k) 8))) } := by
  obtain ⟨post, u, hrun, hr, hpost⟩ := h.vectorAccess hw hform hf hadm op
  have hmem : u.MemoryCanonical := by unfold State.MemoryCanonical; rw [hr.mem]; exact hm
  have hzip : ((List.range 1024).map (s.laneAddress w strided trans f)).zip (s.myTask.vec (opndIndex w.c)) =
      (List.range 1024).map (fun l => (s.laneAddress w strided trans f l, cellAt (s.myTask.vec (opndIndex w.c)) (l / 64) (l % 64))) := by
    refine (zipWith_map_range Prod.mk 1024 _ (hwhole.length_vec _).ge 0).trans (map_range_congr (fun l _ => ?_))
    unfold cellAt
    rw [Nat.div_add_mod]
  obtain ⟨hd, hwv⟩ := hr.does.writeTiles (h.within hr) hmem u.cur.strand.tileId ((List.range 1024).map (fun l => (s.laneAddress w strided trans f l,
    (List.range f.bytes).map (fun k => (cellAt (s.myTask.vec (opndIndex w.c)) (l / 64) (l % 64)).extractLsb' (8 * k) 8))))
  obtain ⟨x, hrunx, hd, hwx⟩ := hd.writeBack hwv w post
  have hbody : Machine.vectorStore w op strided trans (s.begun i) = .ok (.fall, x) := by
    simp only [Machine.vectorStore, run_bind, run_readVec, (Reads.begun s i).vec, hrun, run_modify, hzip, List.foldl_map, natToBytes_elemOf (formatAt_bits hf)]
    rw [List.foldl_map] at hrunx
    simp only [hrunx, run_pure]
  have := h.completes hexec hform.cmd hbody hd hwx
  rw [hpost, hr.cur] at this
  simpa [ownEffect, popsAtIssue_eq hform.cmd, hw, Function.comp_def] using this

/-- Settles O22: an admitted access goes to its lanes' addresses; loads read there, and stores write there in lane order. -/
theorem vectorMemory : Obligations.VectorMemory := by
  unfold Obligations.VectorMemory
  have hvld (w : Fields) : VectorForm (.vld w) := ⟨fun _ => rfl, fun _ => rfl, fun _ => .inl rfl, fun _ => rfl, fun _ => rfl⟩
  have hvlds (w : Fields) : VectorForm (.vlds w) := ⟨fun _ => rfl, fun _ => rfl, fun _ => .inr rfl, fun _ => rfl, fun _ => rfl⟩
  have hvldt (w : Fields) : VectorForm (.vldt w) := ⟨fun _ => rfl, fun _ => rfl, fun _ => .inr rfl, fun _ => rfl, fun _ => rfl⟩
  have hvst (w : Fields) : VectorForm (.vst w) := ⟨fun _ => rfl, fun _ => rfl, fun _ => .inl rfl, fun _ => rfl, fun _ => rfl⟩
  have hvsts (w : Fields) : VectorForm (.vsts w) := ⟨fun _ => rfl, fun _ => rfl, fun _ => .inr rfl, fun _ => rfl, fun _ => rfl⟩
  have hvstt (w : Fields) : VectorForm (.vstt w) := ⟨fun _ => rfl, fun _ => rfl, fun _ => .inr rfl, fun _ => rfl, fun _ => rfl⟩
  have lane {l : Nat} (hl : l < 1024) : l / 64 < 16 ∧ l % 64 < 64 := ⟨by omega, Nat.mod_lt _ (by decide)⟩
  refine ⟨fun w s f hf => ?_, fun w s f hf hm hwhole => ?_⟩
  · intro loads
    refine ⟨fun h hadm hgood => ?_, fun h hadm hgood => ?_, fun h hadm hgood => ?_⟩
    · exact h.vectorLoad rfl (hvld w) rfl hf hadm (fun l hl => hgood _ _ (lane hl).1 (lane hl).2)
    · exact h.vectorLoad rfl (hvlds w) rfl hf hadm (fun l hl => hgood _ _ (lane hl).1 (lane hl).2)
    · exact h.vectorLoad rfl (hvldt w) rfl hf hadm (fun l hl => hgood _ _ (lane hl).1 (lane hl).2)
  · intro stores
    refine ⟨fun h hadm => ?_, fun h hadm => ?_, fun h hadm => ?_⟩
    · exact h.vectorStore rfl (hvst w) rfl hm hwhole hf hadm
    · exact h.vectorStore rfl (hvsts w) rfl hm hwhole hf hadm
    · exact h.vectorStore rfl (hvstt w) rfl hm hwhole hf hadm

end Sys2Proof.Machine
end

section
/-! ## Ports of a strand's tile -/

namespace Sys2Proof.Machine

/-! ### What reads ports and channels alone -/

/-- Two states with the same ports and channels. -/
structure SameStreams (s u : State) : Prop where
  ports : u.ports = s.ports
  chans : u.chans = s.chans

theorem Reads.sameStreams {s u : State} {takes : List (Nat × Nat)} {pops : List QueueName} (h : Reads s u takes pops) : SameStreams s u :=
  ⟨h.ports, h.chans⟩

section
variable {s u : State} (h : SameStreams s u)
include h

theorem SameStreams.port (p : PortId) : u.port p = s.port p := by unfold State.port; rw [h.ports]

theorem SameStreams.boundTo (p : PortId) : u.boundTo p = s.boundTo p := by
  unfold State.boundTo State.chan
  rw [h.port, h.chans]

theorem SameStreams.portType (p : PortId) : u.portType p = s.portType p := by
  unfold State.portType
  rw [h.boundTo]

theorem SameStreams.roomAt (p : PortId) : u.roomAt p = s.roomAt p := by
  unfold State.roomAt
  rw [h.boundTo]

theorem SameStreams.delayedOut (p : PortId) : u.delayedOut p = s.delayedOut p := by
  unfold State.delayedOut
  rw [h.boundTo]

theorem SameStreams.inToks (p : PortId) : u.inToks p = s.inToks p := by
  unfold State.inToks State.inQueue
  rw [h.boundTo, h.port]

theorem SameStreams.updPort (p : PortId) (g : Port → Port) : SameStreams (s.updPort p g) (u.updPort p g) := by
  refine ⟨?_, h.chans⟩
  show u.ports.set p (g (u.port p)) = s.ports.set p (g (s.port p))
  rw [h.ports, h.port]

theorem SameStreams.updChan (c : ChanId) (g : Channel → Channel) : SameStreams (s.updChan c g) (u.updChan c g) := by
  refine ⟨h.ports, ?_⟩
  show u.chans.set c (g (u.chan c)) = s.chans.set c (g (s.chan c))
  unfold State.chan
  rw [h.chans]

theorem SameStreams.sendOn (p : PortId) (toks : List Tok) : SameStreams (s.sendOn p toks) (u.sendOn p toks) := by
  unfold State.sendOn
  rw [h.port]
  split
  · exact h
  · exact (h.updChan _ _).updPort _ _

theorem SameStreams.consume (p : PortId) (k : Nat) : SameStreams (s.consume p k) (u.consume p k) := by
  unfold State.consume
  rw [h.port, h.inToks]
  split
  · exact h
  · exact (h.updChan _ _).updPort _ _

end

/-! ### What changes ports and channels alone -/

/-- A state that differs from another in its ports and channels alone. -/
def StreamsOnly (s u : State) : Prop := u = { s with ports := u.ports, chans := u.chans }

theorem StreamsOnly.updPort {s u : State} (h : StreamsOnly s u) (p : PortId) (g : Port → Port) : StreamsOnly s (u.updPort p g) := by
  unfold StreamsOnly at h
  rw [h]
  rfl

theorem StreamsOnly.updChan {s u : State} (h : StreamsOnly s u) (c : ChanId) (g : Channel → Channel) : StreamsOnly s (u.updChan c g) := by
  unfold StreamsOnly at h
  rw [h]
  rfl

theorem streamsOnly_refl (s : State) : StreamsOnly s s := rfl

theorem streamsOnly_sendOn (s : State) (p : PortId) (toks : List Tok) : StreamsOnly s (s.sendOn p toks) := by
  unfold State.sendOn
  split
  · exact streamsOnly_refl s
  · exact ((streamsOnly_refl s).updChan _ _).updPort _ _

theorem streamsOnly_consume (s : State) (p : PortId) (k : Nat) : StreamsOnly s (s.consume p k) := by
  unfold State.consume
  split
  · exact streamsOnly_refl s
  · exact ((streamsOnly_refl s).updChan _ _).updPort _ _

/-- The first change of ports and channels of a body. -/
theorem Does.streamed {e : Effect} {s u : State} (h : Does e s u) (hw : Within s u) (he : e.streams = id) {F : State → State}
    (honly : StreamsOnly u (F u)) (hF : SameStreams s u → SameStreams (F s) (F u)) : Does { e with streams := F } s (F u) ∧ Within s (F u) := by
  have hports : u.ports = s.ports := by rw [h.ports, he]; rfl
  have hchans : u.chans = s.chans := by rw [h.chans, he]; rfl
  obtain ⟨hp, hc⟩ := hF ⟨hports, hchans⟩
  unfold StreamsOnly at honly
  rw [honly, hp, hc]
  exact ⟨{ h with ports := rfl, chans := rfl }, ⟨hw.cur, hw.given, hw.taken, hw.status, hw.fences, hw.raises⟩⟩

/-! ### Words that stop -/

/-- A word that issues stands accepted before its holds. -/
theorem Issues.toAccepted {i : Instr} {s : State} (h : Issues i s) : Accepted i s :=
  ⟨h.able, h.pair, h.mate, by rw [h.guarded]; exact h.accepted⟩

/-- A body that stops stops its word. -/
theorem Issues.stops {i : Instr} {s : State} {body : M Flow} {x : Stop} (h : Issues i s) (hexec : exec i s = issue i body s)
    (hb : body (s.begun i) = .error x) : exec i s = .next ((s.applyStop s.cur.strand x).clearCycle) := by
  refine hexec.trans (h.toAccepted.issue_stops ?_)
  have hc : s.unyielded.cur = s.cur := rfl
  have hdam : damagedTrap s.unyielded.me s.unyielded.myTask (opOf i) ((formOf s.cur.strand.core i).reads (fieldsOf i)) = none := by
    rw [me_unyielded]; exact h.sound
  unfold runWord
  simp only [run_bind, run_get, hc, commonHold_unyielded, h.unheld, refusedPst_unyielded, h.answered, guardTrue_unyielded, h.guarded, if_true,
    pendingHold_unyielded, queueHold_unyielded, run_takeTokens_unyielded, run_endCombining, h.settled, h.room, firstHold, hdam, hb]

/-- A body that traps at its word makes the word fault (R32). -/
theorem Issues.faults {i : Instr} {s : State} {body : M Flow} {x : Trap} (h : Issues i s) (hexec : exec i s = issue i body s)
    (hb : body (s.begun i) = .error (.trap x)) (hx : x.AtWord) : Faults i s x.code x.loc x.info x.detail.toNat :=
  faults_of_trap (h.stops hexec hb) hx

/-- A body that holds leaves its strand Held at the word, and the task and its streams as they were (R21). -/
theorem Issues.holds {i : Instr} {s : State} {body : M Flow} {x : Hold} (h : Issues i s) (hexec : exec i s = issue i body s)
    (hb : body (s.begun i) = .error (.hold x)) :
    ∃ t, exec i s = .next t ∧ (t.strandOf s).status = .held ∧ (t.strandOf s).heldBy = some x ∧ (t.strandOf s).pc = s.me.pc ∧
      t.task s.cur.strand.task = s.myTask ∧ t.chans = s.chans ∧ t.ports = s.ports := by
  have hstrand : ((s.holdStrand s.cur.strand x).clearCycle).strandOf s = (s.holdStrand s.cur.strand x).strand s.cur.strand := rfl
  refine ⟨_, h.stops hexec hb, ?_⟩
  unfold State.applyStop
  dsimp only
  rw [hstrand]
  unfold State.holdStrand
  rw [strand_updStrand_same]
  exact ⟨rfl, rfl, rfl, rfl, rfl, rfl⟩

end Sys2Proof.Machine
end

section
/-! ## Tokens taken from a port -/

namespace Sys2Proof.Machine

/-! ### The walk of R164 -/

/-- Scale codes among tokens, each with the elements before it. -/
def codesAt : List Tok → Nat → List (BitVec 8 × Nat)
  | [], _ => []
  | .scale k :: ts, n => (k, n) :: codesAt ts n
  | .pscl k :: ts, n => (k, n) :: codesAt ts n
  | .elem _ :: ts, n => codesAt ts (n + 1)
  | _ :: ts, n => codesAt ts n

theorem codesAt_fst (toks : List Tok) (n : Nat) : (codesAt toks n).map Prod.fst = scaleCodes toks := by
  induction toks generalizing n with
  | nil => rfl
  | cons t ts ih => cases t <;> simp [codesAt, scaleCodes, ih]

/-- What a walk has found once it has taken some tokens. -/
def PopWalk.past (x : PopWalk) (toks : List Tok) : PopWalk :=
  { x with taken := x.taken + toks.length
           elems := x.elems ++ scaledElems toks x.scale
           codes := x.codes ++ codesAt toks x.elems.length
           scale := (scaleCodes toks).getLastD x.scale }

theorem PopWalk.past_nil (x : PopWalk) : x.past [] = x := by
  simp [PopWalk.past, scaledElems, codesAt, scaleCodes]

/-- Elements do not end a list of tokens before its m-th: it holds fewer than m, or its last is the m-th. -/
def EndsAt (toks : List Tok) (m : Nat) : Prop :=
  elemCount toks < m ∨ (elemCount toks = m ∧ (toks = [] ∨ ∃ x, toks.getLast? = some (.elem x)))

theorem elemCount_elem (x : Word32) (ts : List Tok) : elemCount (.elem x :: ts) = elemCount ts + 1 := by simp [elemCount]

theorem elemCount_other {t : Tok} (ht : ∀ x, t ≠ .elem x) (ts : List Tok) : elemCount (t :: ts) = elemCount ts := by
  cases t with
  | elem x => exact absurd rfl (ht x)
  | _ => simp [elemCount]

theorem elemCount_pos {x : Word32} {toks : List Tok} (h : .elem x ∈ toks) : 0 < elemCount toks := by
  unfold elemCount
  exact List.length_pos_of_mem (List.mem_filter.2 ⟨h, rfl⟩)

theorem EndsAt.tail_of_elem {x : Word32} {ts : List Tok} {m : Nat} (h : EndsAt (.elem x :: ts) (m + 1)) : EndsAt ts m := by
  unfold EndsAt at h ⊢
  rw [elemCount_elem] at h
  rcases h with h | ⟨h, hl⟩
  · exact .inl (by omega)
  · refine .inr ⟨by omega, ?_⟩
    cases ts with
    | nil => exact .inl rfl
    | cons t ts =>
      rcases hl with hl | ⟨y, hy⟩
      · cases hl
      · exact .inr ⟨y, by rwa [List.getLast?_cons_cons] at hy⟩

theorem EndsAt.tail_of_other {t : Tok} (ht : ∀ x, t ≠ .elem x) {ts : List Tok} {m : Nat} (h : EndsAt (t :: ts) m) : EndsAt ts m := by
  unfold EndsAt at h ⊢
  rw [elemCount_other ht] at h
  rcases h with h | ⟨h, hl⟩
  · exact .inl h
  · cases ts with
    | nil =>
      rcases hl with hl | ⟨y, hy⟩
      · cases hl
      · cases hy; exact absurd rfl (ht y)
    | cons t' ts =>
      rcases hl with hl | ⟨y, hy⟩
      · cases hl
      · exact .inr ⟨h, .inr ⟨y, by rwa [List.getLast?_cons_cons] at hy⟩⟩

/-- No list that begins with a token ends at no element. -/
theorem EndsAt.pos {t : Tok} {ts : List Tok} {m : Nat} (h : EndsAt (t :: ts) m) : m ≠ 0 := by
  rintro rfl
  rcases h with h | ⟨h, hl⟩
  · omega
  · rcases hl with hl | ⟨y, hy⟩
    · cases hl
    · have := elemCount_pos (List.mem_of_getLast? hy)
      omega

/-- A walk goes past plain tokens up to its m-th element. -/
theorem popWalk_past (toks rest : List Tok) (m : Nat) (x : PopWalk) (hplain : ∀ t ∈ toks, t ≠ .eos ∧ ∀ o, t ≠ .poison o) (hends : EndsAt toks m) :
    popWalk (toks ++ rest) m x = popWalk rest (m - elemCount toks) (x.past toks) := by
  induction toks generalizing m x with
  | nil => rw [PopWalk.past_nil]; rfl
  | cons t ts ih =>
    have hts : ∀ t ∈ ts, t ≠ .eos ∧ ∀ o, t ≠ .poison o := fun t ht => hplain t (List.mem_cons_of_mem _ ht)
    obtain ⟨heos, hpoison⟩ := hplain t (List.mem_cons_self ..)
    obtain ⟨m, rfl⟩ := Nat.exists_eq_succ_of_ne_zero hends.pos
    cases t with
    | eos => exact absurd rfl heos
    | poison o => exact absurd rfl (hpoison o)
    | elem c =>
      rw [List.cons_append, popWalk, ih m _ hts hends.tail_of_elem, elemCount_elem]
      simp [PopWalk.past, scaledElems, codesAt, scaleCodes, Nat.add_sub_add_right, Nat.add_assoc, Nat.add_comm 1]
    | order | scale | pscl =>
      rw [List.cons_append, popWalk, ih _ _ hts (hends.tail_of_other (by simp)), elemCount_other (by simp)]
      · simp [PopWalk.past, scaledElems, codesAt, scaleCodes, List.getLast?_cons, Nat.add_assoc, Nat.add_comm 1]
      · simp

/-- A walk that takes what R164 says is done without poison. -/
theorem popWalk_of_takes {toks taken rest : List Tok} {m : Nat} (h : PopTakes toks m taken rest) (x : PopWalk) :
    popWalk toks m x = { x.past taken with done := true } := by
  obtain ⟨rfl, hplain, hends⟩ := h
  rcases hends with ⟨hm, hlast⟩ | ⟨hlt, heos⟩
  · rw [popWalk_past _ _ _ _ hplain (.inr ⟨hm, .inr hlast⟩), hm, Nat.sub_self]
    unfold popWalk
    cases rest <;> rfl
  · obtain ⟨rest, rfl⟩ := List.head?_eq_some_iff.1 heos
    rw [popWalk_past _ _ _ _ hplain (.inl hlt)]
    obtain ⟨k, hk⟩ := Nat.exists_eq_succ_of_ne_zero (show m - elemCount taken ≠ 0 by omega)
    rw [hk, popWalk]
    simp

/-- Without an end, an element missing, the walk stops where the tokens do. -/
theorem popWalk_short {taken rest : List Tok} {m : Nat} (hplain : ∀ t ∈ taken, t ≠ .eos ∧ ∀ o, t ≠ .poison o) (hlt : elemCount taken < m) (x : PopWalk) :
    (rest = [] → popWalk (taken ++ rest) m x = x.past taken) ∧
    (∀ o, rest.head? = some (.poison o) → popWalk (taken ++ rest) m x = { x.past taken with done := true, poison := some o }) := by
  obtain ⟨k, hk⟩ := Nat.exists_eq_succ_of_ne_zero (show m - elemCount taken ≠ 0 by omega)
  rw [popWalk_past _ _ _ _ hplain (.inl hlt), hk]
  refine ⟨?_, fun o ho => ?_⟩
  · rintro rfl
    rw [popWalk]
    simp
  · obtain ⟨rest, rfl⟩ := List.head?_eq_some_iff.1 ho
    rw [popWalk]
    simp

/-! ### The registers that it leaves -/

theorem overwrite_eq {new old : List Word32} {n : Nat} (h : old.length = n) :
    overwrite new old = (List.range n).map (fun l => if l < new.length then new.getD l 0 else old.getD l 0) := by
  unfold overwrite
  refine List.ext_getElem (by simp; omega) (fun l h1 h2 => ?_)
  have hl : l < n := by simpa using h2
  rw [List.getElem_take, List.getElem_append, List.getElem_map, List.getElem_range]
  by_cases hnew : l < new.length
  · simp [hnew, List.getD_eq_getElem?_getD]
  · have hold : l < old.length := by omega
    simp [hnew, List.getD_eq_getElem?_getD, Nat.add_sub_cancel' (Nat.le_of_not_lt hnew), List.getElem?_eq_getElem hold]

/-- Cells, and zeros up to the m-th. -/
theorem overwrite_padded {new old : List Word32} {m n : Nat} (h : old.length = n) :
    overwrite (new ++ List.replicate (m - new.length) 0) old =
      (List.range n).map (fun l => if l < new.length then new.getD l 0 else if l < m then 0 else old.getD l 0) := by
  rw [overwrite_eq h]
  refine map_range_congr (fun l _ => ?_)
  simp only [List.length_append, List.length_replicate, List.getD_eq_getElem?_getD]
  by_cases hnew : l < new.length
  · rw [if_pos (by omega), if_pos hnew, List.getElem?_append_left hnew]
  · rw [if_neg hnew, List.getElem?_append_right (by omega)]
    by_cases hm : l < m
    · rw [if_pos (by omega), if_pos hm, List.getElem?_replicate, if_pos (by omega)]
      rfl
    · rw [if_neg (by omega), if_neg hm]

/-- The scale codes in their lanes, where C is not D. -/
theorem codeLanes_eq {codes : List (BitVec 8 × Nat)} {m n : Nat} {old : List Word32} (h : old.length = n) :
    codeLanes codes false m old = (List.range n).map (fun l =>
      if l < (codes.map Prod.fst).length then ((codes.map Prod.fst).getD l 0).setWidth 32 else old.getD l 0) := by
  unfold codeLanes
  rw [overwrite_eq h]
  refine map_range_congr (fun l hl => ?_)
  simp only [List.length_map, List.length_zipIdx, List.length_zip, Bool.false_and, Bool.false_eq_true, if_false, h, List.getD_eq_getElem?_getD]
  by_cases hlt : l < codes.length
  · rw [if_pos (by omega), if_pos hlt]
    simp [List.getElem?_eq_getElem hlt, List.getElem?_eq_getElem (show l < (codes.zip old).length by simp; omega)]
  · rw [if_neg (by omega), if_neg hlt]

/-- A vector register that a body has not written. -/
theorem Does.vec_of_unwritten {e : Effect} {s u : State} (h : Does e s u) (hw : Within s u) {n : Nat} (hn : ∀ p ∈ e.vecs, p.1 ≠ n) :
    u.myTask.vec n = s.myTask.vec n := by
  have hlatest (l : List (Nat × List Word32)) (d : List Word32) (hl : ∀ p ∈ l, p.1 ≠ n) : latest l n d = d := by
    induction l generalizing d with
    | nil => rfl
    | cons p ps ih =>
      rw [latest, if_neg (hl p (List.mem_cons_self ..))]
      exact ih d (fun q hq => hl q (List.mem_cons_of_mem _ hq))
  have hv := h.vecs n
  rw [hlatest _ _ hn] at hv
  have hu : u.myTask = u.task s.cur.strand.task := by unfold State.myTask; rw [hw.cur]
  unfold Task.vec
  rw [hu, hv]

/-! ### VPOP -/

/-- A row count from 1 to 16 (R163). -/
theorem run_rowCount {op : BitVec 8} {w : Fields} {s u : State} {v : Word64} (h : Machine.source w.b s = .ok (v, u)) (hlo : 1 ≤ v.toNat) (hhi : v.toNat ≤ 16) :
    rowCount op w s = .ok (v.toNat, u) := by
  have hv : (v.extractLsb' 0 32).toNat = v.toNat := by
    rw [BitVec.extractLsb'_toNat]
    simp only [Nat.shiftRight_zero]
    omega
  have hz : (v.extractLsb' 0 32 == 0) = false := by
    rw [beq_eq_false_iff_ne]
    intro h0
    have := congrArg BitVec.toNat h0
    rw [hv] at this
    simp at this
    omega
  unfold rowCount
  simp only [run_bind, h, hz, hv, Bool.false_or, show decide (16 < v.toNat) = false by simpa using hhi, run_trapIf, Bool.false_eq_true, if_false, run_pure]

theorem serac_begun (s : State) (i : Instr) : (s.begun i).myTask.serac = s.myTask.serac := by
  obtain ⟨m, hm⟩ := (Reads.begun s i).task
  rw [hm]

theorem portAgrees_begun (s : State) (i : Instr) (w : Fields) (out : Bool) (ty : Word32) :
    portAgrees (s.begun i).myTask w out ty = portAgrees s.myTask w out ty := by
  unfold portAgrees formatMatches
  rw [(Reads.begun s i).nf]

/-- The cell that VPOP makes of an element under a scale code (R164). -/
def popCell (w : Fields) (f : Format) (x : Word32 × BitVec 8) : Word32 :=
  if w.mod = 2 then BitVec.ofNat 32 (round (scaled (decodeNum f (codeIn f x.1)) x.2.toNat) .f32 .rne) else asCell f (codeIn f x.1)

/-- Scale codes into C, under MOD 001. -/
def popScales (w : Fields) (m : Nat) (codes : List (BitVec 8 × Nat)) : M Unit :=
  if w.mod = 1 then do
    let oldC ← readVec (opndIndex w.c)
    writeVec (opndIndex w.c) (codeLanes codes (opndIndex w.c == opndIndex w.d) m oldC)
  else pure ()

/-- What a VPOP does once its walk is done without poison. -/
def popsFound (w : Fields) (f : Format) (p : PortId) (m : Nat) (x : PopWalk) : M Flow := do
  let old ← readVec (opndIndex w.d)
  writeVec (opndIndex w.d) (overwrite (x.elems.map (popCell w f) ++ List.replicate (m - (x.elems.map (popCell w f)).length) 0) old)
  popScales w m x.codes
  modify (fun s => (s.consume p x.taken).updPort p (fun q => { q with scale := x.scale }))
  return .fall

/-- What D holds after a VPOP of m elements that found some: their cells, zeros, and the old cells of the other rows. -/
def poppedCells (w : Fields) (s : State) (f : Format) (m : Nat) (xs : List (Word32 × BitVec 8)) : List Word32 :=
  (List.range 1024).map (fun l => if l < xs.length then popCell w f (xs.getD l (0, 0)) else if l < m then 0 else (s.myTask.vec (opndIndex w.d)).getD l 0)

/-- What C holds after a VPOP under MOD 001. -/
def poppedScales (w : Fields) (s : State) (codes : List (BitVec 8)) : List Word32 :=
  (List.range 1024).map (fun l => if l < codes.length then (codes.getD l 0).setWidth 32 else (s.myTask.vec (opndIndex w.c)).getD l 0)

theorem overwrite_popped {w : Fields} {s : State} (hwhole : s.VectorsWhole) (f : Format) (m : Nat) (xs : List (Word32 × BitVec 8)) :
    overwrite (xs.map (popCell w f) ++ List.replicate (m - (xs.map (popCell w f)).length) 0) (s.myTask.vec (opndIndex w.d)) = poppedCells w s f m xs := by
  rw [overwrite_padded (hwhole.length_vec _), List.length_map]
  refine map_range_congr (fun l _ => ?_)
  by_cases hl : l < xs.length
  · simp [hl, List.getD_eq_getElem?_getD]
  · simp [hl]

/-- Scale codes go to C alone, where it is not D. -/
theorem Does.popScales {e : Effect} {s u : State} (h : Does e s u) (hw : Within s u) (hwhole : s.VectorsWhole) {w : Fields}
    (hcd : w.mod = 1 → opndIndex w.c ≠ opndIndex w.d) (hc : w.mod = 1 → ∀ p ∈ e.vecs, p.1 ≠ opndIndex w.c) (m : Nat) (toks : List Tok) :
    ∃ u', Machine.popScales w m (codesAt toks 0) u = .ok (.unit, u') ∧
      Does { e with vecs := e.vecs ++ (if w.mod = 1 then [(opndIndex w.c, poppedScales w s (scaleCodes toks))] else []) } s u' ∧ Within s u' := by
  unfold Machine.popScales
  by_cases hm : w.mod = 1
  · simp only [if_pos hm, run_bind, run_readVec, h.vec_of_unwritten hw (hc hm), beq_eq_false_iff_ne.2 (hcd hm), codeLanes_eq (hwhole.length_vec _), codesAt_fst]
    exact h.writeVec hw (opndIndex w.c) _
  · simp only [if_neg hm, List.append_nil]
    exact ⟨u, rfl, h, hw⟩

section
variable {w : Fields} {s : State} {f : Format} (h : Issues (.vpop w) s) (hf : s.myTask.formatAt w.fmt.toNat = some f)
  (hbound : (s.boundTo (s.operandPort false w.a)).isSome = true) (hserac : seracNames s.myTask (opndPort w.a) = false)
  (hlo : 1 ≤ (s.valueOf [] w.b).toNat) (hhi : (s.valueOf [] w.b).toNat ≤ 16)
  (hagree : portAgrees s.myTask w false (s.portType (s.operandPort false w.a)) = true)
include h hf hbound hserac hlo hhi hagree

/-- A VPOP that passes its checks walks its port's queue (R163, R164). -/
theorem Issues.vpop_walks : ∃ u, Reads s u (popsAtIssue s.cur.strand.core (.vpop w)) (queueOf w.b) ∧
    bodyVpop w (s.begun (.vpop w)) =
      (let x := popWalk (s.inToks (s.operandPort false w.a)) (64 * (s.valueOf [] w.b).toNat) { scale := (s.port (s.operandPort false w.a)).scale }
       if x.done = false then .error (.hold (.port (s.operandPort false w.a)))
       else match x.poison with
        | some o => .error (.trap (poisonTrap (opndPort w.a) o))
        | none => popsFound w f (s.operandPort false w.a) (64 * (s.valueOf [] w.b).toNat) x u) := by
  have hr := Reads.begun s (.vpop w)
  have hfmt : w.fmt.toNat < 15 := by
    have hmem : w.fmt.toNat ∈ (if w.mod = 0 then List.range 15 else if w.mod = 1 then [1, 2, 3, 4, 5, 6, 7, 8, 9, 10, 11, 12, 13] else [8, 9, 10, 11, 12, 13]) :=
      h.fmt_mem
    split at hmem
    · exact List.mem_range.1 hmem
    · split at hmem <;> simp only [List.mem_cons, List.not_mem_nil, or_false] at hmem <;> omega
  have hpop : queuesPopped (.vpop w) (formOf s.cur.strand.core (.vpop w)) w = [] ++ queueOf w.b ++ [] := by
    rw [queuesPopped_eq (by simp)]
    by_cases hm : w.mod = 1
    · simp [formOf, hm]
    · have hm : ¬ w.mod = 1#3 := hm
      simp [formOf, hm]
  obtain ⟨u, hsrc, hu⟩ := hr.source h.pair w.b (h.supplies hpop)
  refine ⟨u, by simpa using hu, ?_⟩
  have hport : tilePort (s.begun (.vpop w)).cur.strand.tileId false (opndPort w.a) = s.operandPort false w.a := by rw [hr.cur]; rfl
  have hst := hr.sameStreams
  have hnames : seracNames (s.begun (.vpop w)).myTask (opndPort w.a) = false := by
    unfold seracNames
    rw [serac_begun]
    exact hserac
  unfold bodyVpop myPort
  simp only [run_bind, run_get, run_pure, hport, hst.boundTo, hbound, hnames, Bool.not_false, run_holdUnless, if_true, run_rowCount hsrc hlo hhi,
    hu.formatOf hf hfmt, hst.portType, portAgrees_begun, hagree, Bool.not_true, run_trapIf, Bool.false_eq_true, if_false, hst.inToks, hst.port]
  generalize popWalk (s.inToks (s.operandPort false w.a)) (64 * (s.valueOf [] w.b).toNat) { scale := (s.port (s.operandPort false w.a)).scale } = x
  cases hdone : x.done with
  | false => simp
  | true =>
    cases hpoison : x.poison with
    | some o => simp
    | none =>
      simp only [if_true, Bool.true_eq_false, if_false, popsFound, popScales, run_bind, cellOf_eq_asCell, elemOf_eq_codeIn]
      by_cases hm : w.mod = 1
      · simp only [if_pos hm, run_bind, run_readVec]
        rfl
      · simp only [if_neg hm, run_pure]
        rfl

/-- VPOP takes what R164 says of its queue. -/
theorem Issues.vpop (hwhole : s.VectorsWhole) {taken rest : List Tok}
    (htakes : PopTakes (s.inToks (s.operandPort false w.a)) (64 * (s.valueOf [] w.b).toNat) taken rest) (hcd : w.mod = 1 → opndIndex w.c ≠ opndIndex w.d) :
    Completes (.vpop w) s { ownEffect s w [w.b] with
      vecs := (opndIndex w.d, poppedCells w s f (64 * (s.valueOf [] w.b).toNat) (scaledElems taken (s.port (s.operandPort false w.a)).scale)) ::
        (if w.mod = 1 then [(opndIndex w.c, poppedScales w s (scaleCodes taken))] else [])
      streams := takingTokens (s.operandPort false w.a) taken.length ((scaleCodes taken).getLastD (s.port (s.operandPort false w.a)).scale) } := by
  obtain ⟨u, hr, hbody⟩ := h.vpop_walks hf hbound hserac hlo hhi hagree
  rw [popWalk_of_takes htakes] at hbody
  set p := s.operandPort false w.a
  set m := 64 * (s.valueOf [] w.b).toNat
  obtain ⟨v, hrunv, hd, hw⟩ := hr.does.writeVec (h.within hr) (opndIndex w.d) (poppedCells w s f m (scaledElems taken (s.port p).scale))
  obtain ⟨y, hruny, hd, hw⟩ := hd.popScales hw hwhole hcd (fun hm => by simpa using (hcd hm).symm) m taken
  obtain ⟨hd, hw⟩ := hd.streamed hw rfl (F := takingTokens p taken.length ((scaleCodes taken).getLastD (s.port p).scale))
    ((streamsOnly_consume y p taken.length).updPort _ _) (fun hs => (hs.consume p taken.length).updPort _ _)
  have hfound : popsFound w f p m { PopWalk.past { scale := (s.port p).scale } taken with done := true } u =
      .ok (.fall, takingTokens p taken.length ((scaleCodes taken).getLastD (s.port p).scale) y) := by
    simp only [popsFound, PopWalk.past, List.nil_append, List.length_nil, Nat.zero_add, run_bind, run_readVec, hr.vec, overwrite_popped hwhole, hrunv, hruny]
    rfl
  simpa [ownEffect, popsAtIssue_eq (i := .vpop w) (fun _ => rfl), show fieldsOf (.vpop w) = w from rfl] using
    h.completes (body := bodyVpop w) rfl (fun _ => rfl) (hbody.trans hfound) hd hw

end

theorem atWord_poisonTrap (n : Nat) (o : Word64) : (poisonTrap n o).AtWord := ⟨rfl, rfl, by show 2 < 256; decide⟩

/-- Settles O27: the walk of R164, and what its end makes of the word. -/
theorem portsPop : Obligations.PortsPop := by
  unfold Obligations.PortsPop
  refine ⟨fun w s f taken rest hwhole hf => ?_, fun w s taken rest => ?_⟩
  · intro p m xs codes cell old lanes scales h hbound hserac hlo hhi hagree htakes hcd
    have hdone := h.vpop hf hbound hserac hlo hhi hagree hwhole htakes hcd
    unfold poppedCells poppedScales popCell at hdone
    exact hdone
  · intro p n h hformat hbound hserac hlo hhi hagree hsplit hlt hplain
    obtain ⟨f, hf⟩ := Option.isSome_iff_exists.1 hformat
    obtain ⟨u, _, hbody⟩ := h.vpop_walks hf hbound hserac hlo hhi hagree
    rw [show s.inToks (s.operandPort false w.a) = taken ++ rest from hsplit] at hbody
    obtain ⟨hshort, hpoison⟩ := popWalk_short (rest := rest) hplain hlt { scale := (s.port p).scale }
    refine ⟨fun o ho => ?_, fun hrest => ?_⟩
    · rw [hpoison o ho] at hbody
      have hdetail : (poisonTrap (opndPort w.a) o).detail.toNat = 0x10 + opndPort w.a := by
        have hlt8 : opndPort w.a < 8 := by
          unfold opndPort portNumber
          split
          · omega
          · omega
        exact Nat.mod_eq_of_lt (by omega)
      have := h.faults (body := bodyVpop w) rfl hbody (atWord_poisonTrap _ _)
      rwa [hdetail] at this
    · rw [hshort hrest] at hbody
      exact h.holds (body := bodyVpop w) rfl hbody

end Sys2Proof.Machine
end

section
/-! ## Tokens put into a port -/

namespace Sys2Proof.Machine

/-! ### The tokens of a VPUSH (R165) -/

/-- Elements before place l at which a group begins, counted from `count`. -/
def groupsBefore (g count l : Nat) : Nat := ((List.range l).filter (fun i => (count + i) % g = 0)).length

theorem groupsBefore_succ (g count l : Nat) : groupsBefore g count (l + 1) = groupsBefore g count l + if (count + l) % g = 0 then 1 else 0 := by
  unfold groupsBefore
  rw [List.range_succ, List.filter_append, List.length_append]
  by_cases h : (count + l) % g = 0 <;> simp [h]

/-- A .scl push from its k-th element on. -/
theorem scaledTokens_drop (f : Format) (g count k : Nat) (xs cs : List Word32) :
    scaledTokens g (xs.map (elemOf f)) ((cs.map (fun x => x.extractLsb' 0 8)).drop (groupsBefore g count k)) (count + k) =
      (xs.zipIdx k).flatMap (fun x => (if (count + x.2) % g = 0 then [.scale ((cs.getD (groupsBefore g count x.2) 0).extractLsb' 0 8)] else []) ++
        [Tok.elem (BitVec.ofNat 32 (codeIn f x.1))]) := by
  induction xs generalizing k with
  | nil => rfl
  | cons x xs ih =>
    have hsucc := ih (k + 1)
    rw [groupsBefore_succ] at hsucc
    have hhead : ((cs.map (fun x => x.extractLsb' 0 8)).drop (groupsBefore g count k)).headD 0 = (cs.getD (groupsBefore g count k) 0).extractLsb' 0 8 := by
      rw [List.headD_eq_head?_getD, List.head?_drop, List.getElem?_map, List.getD_eq_getElem?_getD]
      cases cs[groupsBefore g count k]? <;> rfl
    rw [List.map_cons, scaledTokens, List.zipIdx_cons, List.flatMap_cons, ← hsucc, hhead]
    by_cases h : (count + k) % g = 0
    · simp only [if_pos h, List.tail_drop]
      rfl
    · simp only [if_neg h, Nat.add_zero]
      rfl

/-- A quantised push, element by element. -/
theorem quantTokens_eq (d : Format) (e : Nat) (xs : List Word32) (toks : List Tok) (st : Word64) :
    xs.foldl (fun (acc : List Tok × Word64) x =>
      let q := delayedQuant d .rne e (decodeNum .f32 x.toNat) acc.2
      (acc.1 ++ [.elem (BitVec.ofNat 32 q.1)], q.2)) (toks, st) = (toks ++ (quantTokens d e xs st).1, (quantTokens d e xs st).2) := by
  induction xs generalizing toks st with
  | nil => simp [quantTokens]
  | cons x xs ih =>
    rw [List.foldl_cons, ih, quantTokens]
    simp

/-! ### The words -/

section
variable {w : Fields} {s : State} {f : Format}

/-- The tokens that a VPUSH of n rows sends, and its port's scale status word after them (R165). -/
def pushTokens (w : Fields) (s : State) (f : Format) (p : PortId) (n : Nat) : List Tok × Word64 :=
  let a := (s.myTask.vec (opndIndex w.a)).take (64 * n)
  let q := quantTokens f (s.port p).scale.toNat a (s.port p).status
  (if w.mod = 1 then scaledTokens ((typeGroup (s.portType p)).getD 1) (a.map (elemOf f)) ((s.myTask.vec (opndIndex w.c)).map (fun c => c.extractLsb' 0 8)) (s.port p).sclCount
    else if w.mod = 2 then q.1 else (a.map (elemOf f)).map (fun c => .elem (BitVec.ofNat 32 c)), q.2)

/-- VPUSH with room sends its tokens (R163, R165). -/
theorem Issues.vpush (h : Issues (.vpush w) s) (hf : s.myTask.formatAt w.fmt.toNat = some f) (hlo : 1 ≤ (s.valueOf [] w.b).toNat)
    (hhi : (s.valueOf [] w.b).toNat ≤ 16) (hagree : portAgrees s.myTask w true (s.portType (s.operandPort true w.d)) = true)
    (hroom : ∃ id c, s.boundTo (s.operandPort true w.d) = some (id, c) ∧
      (sendBeats c (pushTokens w s f (s.operandPort true w.d) (s.valueOf [] w.b).toNat).1).length ≤ c.room) :
    Completes (.vpush w) s { ownEffect s w [w.b] with streams := fun u =>
      (u.sendOn (s.operandPort true w.d) (pushTokens w s f (s.operandPort true w.d) (s.valueOf [] w.b).toNat).1).updPort (s.operandPort true w.d) (fun y =>
        { y with sclCount := if w.mod = 1 then ((s.port (s.operandPort true w.d)).sclCount + 64 * (s.valueOf [] w.b).toNat) %
                    (typeGroup (s.portType (s.operandPort true w.d))).getD 1 else y.sclCount
                 status := if w.mod = 2 then (pushTokens w s f (s.operandPort true w.d) (s.valueOf [] w.b).toNat).2 else y.status }) } := by
  have hr := Reads.begun s (.vpush w)
  have hfmt : w.fmt.toNat < 15 := by
    have hmem : w.fmt.toNat ∈ (if w.mod = 0 then List.range 15 else if w.mod = 1 then [1, 2, 3, 4, 5, 6, 7, 8, 9, 10, 11, 12, 13] else [8, 9, 10, 11, 12, 13]) :=
      h.fmt_mem
    split at hmem
    · exact List.mem_range.1 hmem
    · split at hmem <;> simp only [List.mem_cons, List.not_mem_nil, or_false] at hmem <;> omega
  have hpop : queuesPopped (.vpush w) (formOf s.cur.strand.core (.vpush w)) w = [] ++ queueOf w.b ++ [] := by
    rw [queuesPopped_eq (by simp)]
    by_cases hm : w.mod = 1
    · simp [formOf, hm]
    · have hm : ¬ w.mod = 1#3 := hm
      simp [formOf, hm]
  obtain ⟨u, hsrc, hu⟩ := hr.source h.pair w.b (h.supplies hpop)
  have hport : tilePort (s.begun (.vpush w)).cur.strand.tileId true (opndPort w.d) = s.operandPort true w.d := by rw [hr.cur]; rfl
  have hst := hr.sameStreams
  obtain ⟨id, c, hbound, hbeats⟩ := hroom
  set p := s.operandPort true w.d
  set n := (s.valueOf [] w.b).toNat
  have hrows : rowCount 0xAD w (s.begun (.vpush w)) = .ok (n, u) := run_rowCount hsrc hlo hhi
  have hscales : (if w.mod = 1 then readVec (opndIndex w.c) else return [] : M (List Word32)) u =
      .ok (if w.mod = 1 then s.myTask.vec (opndIndex w.c) else [], u) := by
    split
    · rw [run_readVec, hu.vec]
    · rfl
  have htoks : (if w.mod = 1 then scaledTokens ((typeGroup (s.portType p)).getD 1) (((s.myTask.vec (opndIndex w.a)).take (64 * n)).map (elemOf f))
        ((if w.mod = 1 then s.myTask.vec (opndIndex w.c) else []).map (fun c => c.extractLsb' 0 8)) (s.port p).sclCount
      else if w.mod = 2 then (quantTokens f (s.port p).scale.toNat ((s.myTask.vec (opndIndex w.a)).take (64 * n)) (s.port p).status).1
      else (((s.myTask.vec (opndIndex w.a)).take (64 * n)).map (elemOf f)).map (fun c => .elem (BitVec.ofNat 32 c))) = (pushTokens w s f p n).1 := by
    unfold pushTokens
    by_cases hm : w.mod = 1
    · simp only [if_pos hm]
    · simp only [if_neg hm]
  have hfits : decide ((sendBeats c (pushTokens w s f p n).1).length ≤ s.roomAt p) = true := by
    unfold State.roomAt
    rw [hbound]
    simpa using hbeats
  obtain ⟨hd, hw⟩ := hu.does.streamed (h.within hu) rfl (F := fun u => (u.sendOn p (pushTokens w s f p n).1).updPort p (fun y =>
        { y with sclCount := if w.mod = 1 then ((s.port p).sclCount + 64 * n) % (typeGroup (s.portType p)).getD 1 else y.sclCount
                 status := if w.mod = 2 then (pushTokens w s f p n).2 else y.status }))
    ((streamsOnly_sendOn u p _).updPort _ _) (fun hs => (hs.sendOn p _).updPort _ _)
  have hrun : bodyVpush w (s.begun (.vpush w)) = .ok (.fall, (u.sendOn p (pushTokens w s f p n).1).updPort p (fun y =>
        { y with sclCount := if w.mod = 1 then ((s.port p).sclCount + 64 * n) % (typeGroup (s.portType p)).getD 1 else y.sclCount
                 status := if w.mod = 2 then (pushTokens w s f p n).2 else y.status })) := by
    unfold bodyVpush myPort
    simp only [run_bind, run_get, run_pure, hport, hst.boundTo, hbound, Option.isSome_some, run_holdUnless, if_true, hrows,
      hu.formatOf hf hfmt, hst.portType, portAgrees_begun, hagree, Bool.not_true, run_trapIf, Bool.false_eq_true, if_false, hst.port, run_readVec, hu.vec,
      hscales, htoks, hst.roomAt, hfits, run_modify]
    rfl
  simpa [ownEffect, popsAtIssue_eq (i := .vpush w) (fun _ => rfl), show fieldsOf (.vpush w) = w from rfl] using
    h.completes (body := bodyVpush w) rfl (fun _ => rfl) hrun hd hw

/-- PSCL, with its source read (R166, R333). -/
theorem Issues.pscl (h : Issues (.pscl w) s) : ∃ u, Reads s u (popsAtIssue s.cur.strand.core (.pscl w)) (queueOf w.a) ∧
    bodyPscl w (s.begun (.pscl w)) = (do
      if s.delayedOut (s.fieldPort w) then
        holdUnless (decide (1 ≤ s.roomAt (s.fieldPort w))) (.port (s.fieldPort w))
        modify (fun u => u.sendOn (s.fieldPort w) [.pscl ((s.valueOf [] w.a).extractLsb' 0 8)])
      modify (fun u => u.updPort (s.fieldPort w) (fun q => { q with scale := (s.valueOf [] w.a).extractLsb' 0 8 }))
      return .fall : M Flow) u := by
  have hpop : queuesPopped (.pscl w) (formOf s.cur.strand.core (.pscl w)) w = [] ++ queueOf w.a ++ [] := by
    rw [queuesPopped_eq (by simp)]
    simp [formOf]
  have hr := Reads.begun s (.pscl w)
  obtain ⟨u, hsrc, hu⟩ := hr.source h.pair w.a (h.supplies hpop)
  have hport : tilePort (s.begun (.pscl w)).cur.strand.tileId (portField w.e).1 (portField w.e).2 = s.fieldPort w := by rw [hr.cur]; rfl
  refine ⟨u, by simpa using hu, ?_⟩
  unfold bodyPscl myPort
  simp only [run_bind, run_get, run_pure, hport, hsrc, hu.sameStreams.delayedOut, hu.sameStreams.roomAt]

theorem Issues.pscl_plain (h : Issues (.pscl w) s) (hd : s.delayedOut (s.fieldPort w) = false) :
    Completes (.pscl w) s { ownEffect s w [w.a] with streams := (fun u =>
      u.updPort (s.fieldPort w) (fun y => { y with scale := (s.valueOf [] w.a).extractLsb' 0 8 })) } := by
  obtain ⟨u, hu, hbody⟩ := h.pscl
  obtain ⟨hdoes, hw⟩ := hu.does.streamed (h.within hu) rfl
    (F := fun u => u.updPort (s.fieldPort w) (fun y => { y with scale := (s.valueOf [] w.a).extractLsb' 0 8 }))
    ((streamsOnly_refl u).updPort _ _) (fun hs => hs.updPort _ _)
  simp only [hd, Bool.false_eq_true, if_false, run_bind, run_modify, run_pure] at hbody
  simpa [ownEffect, popsAtIssue_eq (i := .pscl w) (fun _ => rfl), show fieldsOf (.pscl w) = w from rfl] using
    h.completes (body := bodyPscl w) rfl (fun _ => rfl) hbody hdoes hw

theorem Issues.pscl_delayed (h : Issues (.pscl w) s) (hd : s.delayedOut (s.fieldPort w) = true) (hroom : 1 ≤ s.roomAt (s.fieldPort w)) :
    Completes (.pscl w) s { ownEffect s w [w.a] with streams := (fun u =>
      (u.sendOn (s.fieldPort w) [.pscl ((s.valueOf [] w.a).extractLsb' 0 8)]).updPort (s.fieldPort w)
        (fun y => { y with scale := (s.valueOf [] w.a).extractLsb' 0 8 })) } := by
  obtain ⟨u, hu, hbody⟩ := h.pscl
  obtain ⟨hdoes, hw⟩ := hu.does.streamed (h.within hu) rfl
    (F := fun u => (u.sendOn (s.fieldPort w) [.pscl ((s.valueOf [] w.a).extractLsb' 0 8)]).updPort (s.fieldPort w)
      (fun y => { y with scale := (s.valueOf [] w.a).extractLsb' 0 8 }))
    ((streamsOnly_sendOn u _ _).updPort _ _) (fun hs => (hs.sendOn _ _).updPort _ _)
  simp only [hd, if_true, run_bind, run_holdUnless, decide_eq_true hroom, run_modify, run_pure] at hbody
  simpa [ownEffect, popsAtIssue_eq (i := .pscl w) (fun _ => rfl), show fieldsOf (.pscl w) = w from rfl] using
    h.completes (body := bodyPscl w) rfl (fun _ => rfl) hbody hdoes hw

/-- One token onto an output port with room (R342). -/
theorem Issues.sendToken {i : Instr} {t : Tok} (h : Issues i s) (hw : fieldsOf i = w) (hcmd : ∀ c, (formOf c i).cmd = none)
    (hexec : exec i s = issue i (Machine.sendToken w t) s) (hroom : 1 ≤ s.roomAt (s.operandPort true w.d)) :
    Completes i s { ownEffect s w [] with streams := fun u => u.sendOn (s.operandPort true w.d) [t] } := by
  have hr := Reads.begun s i
  have hport : tilePort (s.begun i).cur.strand.tileId true (opndPort w.d) = s.operandPort true w.d := by rw [hr.cur]; rfl
  obtain ⟨hdoes, hwithin⟩ := hr.does.streamed (h.within hr) rfl (F := fun u => u.sendOn (s.operandPort true w.d) [t])
    (streamsOnly_sendOn _ _ _) (fun hs => hs.sendOn _ _)
  have hbody : Machine.sendToken w t (s.begun i) = .ok (.fall, (s.begun i).sendOn (s.operandPort true w.d) [t]) := by
    unfold Machine.sendToken myPort
    simp only [run_bind, run_get, run_pure, hport, hr.sameStreams.roomAt, run_holdUnless, decide_eq_true hroom, if_true, run_modify]
  simpa [ownEffect, popsAtIssue_eq hcmd, hw] using h.completes hexec hcmd hbody hdoes hwithin

end

/-- Settles O28: the tokens of a push are those that the fold and the groups give, and each word sends its own. -/
theorem portsPush : Obligations.PortsPush := by
  unfold Obligations.PortsPush
  intro w s f hf p n a g count code plain quant groups grouped toks q v
  have hquant : quant = quantTokens f (s.port p).scale.toNat a (s.port p).status :=
    (quantTokens_eq f (s.port p).scale.toNat a [] (s.port p).status).trans (by rw [List.nil_append])
  have hgrouped : grouped = scaledTokens g (a.map (elemOf f)) ((s.myTask.vec (opndIndex w.c)).map (fun c => c.extractLsb' 0 8)) count :=
    (scaledTokens_drop f g count 0 a (s.myTask.vec (opndIndex w.c))).symm
  have htoks : toks = (pushTokens w s f p n).1 := by
    show (if w.mod = 1 then grouped else if w.mod = 2 then quant.1 else plain) = _
    have hplain : plain = (a.map (elemOf f)).map (fun c => Tok.elem (BitVec.ofNat 32 c)) := by rw [List.map_map]; rfl
    rw [hgrouped, hquant, hplain]
    rfl
  refine ⟨fun h _ hlo hhi hagree hroom => ?_, fun h hd => h.pscl_plain hd, fun h hd hroom => h.pscl_delayed hd hroom,
    fun h hroom => h.sendToken rfl (fun _ => rfl) rfl hroom, fun h hroom => h.sendToken rfl (fun _ => rfl) rfl hroom⟩
  rw [htoks] at hroom ⊢
  rw [hquant]
  exact h.vpush hf hlo hhi hagree hroom

end Sys2Proof.Machine
end

section
/-! ## Vector registers stay whole: the rules -/

namespace Sys2Proof.Machine

/-- What a map holds when only the keys that pass a test are kept. -/
theorem Map.find?_filter {κ α : Type} [DecidableEq κ] (m : Map κ α) (p : κ → Bool) (k : κ) :
    Map.find? ⟨m.entries.filter (fun e => p e.1)⟩ k = if p k then m.find? k else none := by
  unfold Map.find?
  induction m.entries with
  | nil => simp [Map.lookup]
  | cons e es ih =>
    by_cases hk : e.1 = k
    · subst hk
      cases hp : p e.1 <;> simp [Map.lookup, hp, ih]
    · cases hp : p e.1 <;> simp [Map.lookup, hp, hk, ih]

/-- Every task's vector registers that have been written hold 1,024 cells (R134). -/
def TasksWhole (m : Map TaskId Task) : Prop := ∀ i, (m.get i {}).VectorsWhole

theorem Task.VectorsWhole.of_v {t u : Task} (h : t.VectorsWhole) (e : u.v = t.v) : u.VectorsWhole := by
  unfold Task.VectorsWhole
  rw [e]
  exact h

theorem Task.vectorsWhole_empty {t : Task} (e : t.v = {}) : t.VectorsWhole := fun n => .inl (by rw [e]; rfl)

/-! ### Changes of the tasks -/

theorem whole_set {m : Map TaskId Task} {i : TaskId} {t : Task} (h : TasksWhole m) (ht : t.VectorsWhole) : TasksWhole (m.set i t) := by
  intro j
  rw [Map.get_set]
  split
  · exact ht
  · exact h j

/-- Changes of tasks, each of which leaves its vector registers. -/
theorem whole_mapVals {m : Map TaskId Task} {g : TaskId → Task → Task} (h : TasksWhole m) (hg : ∀ i t, (g i t).v = t.v) : TasksWhole (m.mapVals g) := by
  intro i
  have hi := h i
  unfold Map.get at hi ⊢
  rw [Map.find?_mapVals]
  cases hf : m.find? i with
  | none => exact Task.vectorsWhole_empty rfl
  | some t =>
    rw [hf] at hi
    exact Task.VectorsWhole.of_v hi (hg i t)

/-- Tasks dropped by a test of their names. -/
theorem whole_filter {m : Map TaskId Task} {p : TaskId × Task → Bool} (h : TasksWhole m) (hp : ∀ i t u, p (i, t) = p (i, u)) :
    TasksWhole ⟨m.entries.filter p⟩ := by
  intro i
  have e : p = fun x => p (x.1, {}) := funext fun x => hp x.1 x.2 {}
  rw [e]
  unfold Map.get
  rw [Map.find?_filter m (fun j => p (j, {}))]
  split
  · exact h i
  · exact Task.vectorsWhole_empty rfl

theorem whole_erase {m : Map TaskId Task} {i : TaskId} (h : TasksWhole m) : TasksWhole (m.erase i) :=
  whole_filter h (fun _ _ _ => rfl)

/-! ### Changes of one task -/

@[simp] theorem Task.setEngine_v (t : Task) (c : CoreId) (e : EngineState) : (t.setEngine c e).v = t.v := by cases c <;> rfl

@[simp] theorem Task.setEngineState_v (t : Task) (e : Engine) (x : EngineState) : (t.setEngineState e x).v = t.v := by cases e <;> rfl

@[simp] theorem Task.push_v (t : Task) (q : QueueName) (v : Word64) : (t.push q v).v = t.v := by cases q <;> rfl

/-- A register written with 1,024 cells. -/
theorem Task.VectorsWhole.of_set {t u : Task} (h : t.VectorsWhole) {n : Nat} {cells : List Word32} (hc : cells.length = 1024)
    (e : u.v = t.v.set n cells) : u.VectorsWhole := by
  intro k
  rw [e, Map.get_set]
  split
  · exact .inr hc
  · exact h k

/-- A map written out from a range of names holds what was written there, or nothing. -/
theorem Map.get_tabulated {α : Type} (l : List Nat) (f : Nat → α) (n : Nat) (d : α) :
    Map.get ⟨l.map (fun i => (i, f i))⟩ n d = d ∨ Map.get ⟨l.map (fun i => (i, f i))⟩ n d = f n := by
  unfold Map.get Map.find?
  induction l with
  | nil => exact .inl rfl
  | cons a as ih =>
    by_cases ha : a = n
    · subst ha
      simp [Map.lookup]
    · simpa [Map.lookup, ha] using ih

/-- Registers read from an image are whole. -/
theorem Task.vectorsWhole_of_tabulated {t : Task} {l : List Nat} {f : Nat → List Word32} (hf : ∀ i, (f i).length = 1024)
    (e : t.v = ⟨l.map (fun i => (i, f i))⟩) : t.VectorsWhole := by
  intro n
  rw [e]
  exact (Map.get_tabulated l f n []).imp id (fun h => (congrArg List.length h).trans (hf n))

/-! ### Changes of a state -/

section
variable {s : State}

/-- A state written out has the tasks that it is given. -/
theorem whole_mk {m : Map TaskId Task} {clock agenda work cur event drawn mem full keytag damaged strands tiles ports chans regions loads queues dies pkgs
    net nextAccess raises present rehash planeIdle ring saved contexts hostMem hostReqs msix replies} (h : TasksWhole m) :
    TasksWhole (State.mk clock agenda work cur event drawn mem full keytag damaged strands m tiles ports chans regions loads queues dies pkgs net nextAccess
      raises present rehash planeIdle ring saved contexts hostMem hostReqs msix replies).tasks := h

theorem whole_setTask {i : TaskId} {t : Task} (h : TasksWhole s.tasks) (ht : t.VectorsWhole) : TasksWhole (s.setTask i t).tasks := whole_set h ht

theorem whole_updTask {i : TaskId} {g : Task → Task} (h : TasksWhole s.tasks) (hg : (s.task i).VectorsWhole → (g (s.task i)).VectorsWhole) :
    TasksWhole (s.updTask i g).tasks := whole_set h (hg (h i))

/-- A change of a task that leaves its vector registers. -/
theorem whole_updTask_of_v {i : TaskId} {g : Task → Task} (h : TasksWhole s.tasks) (hg : (g (s.task i)).v = (s.task i).v) :
    TasksWhole (s.updTask i g).tasks := whole_updTask h (fun ht => ht.of_v hg)

theorem whole_setTask_of_v {i : TaskId} {t : Task} (h : TasksWhole s.tasks) (ht : t.v = (s.task i).v) : TasksWhole (s.setTask i t).tasks :=
  whole_setTask h (Task.VectorsWhole.of_v (h i) ht)

theorem whole_updStrand {i : StrandId} {g : Strand → Strand} (h : TasksWhole s.tasks) : TasksWhole (s.updStrand i g).tasks := h
theorem whole_setStrand {i : StrandId} {x : Strand} (h : TasksWhole s.tasks) : TasksWhole (s.setStrand i x).tasks := h
theorem whole_updTile {i : TileId} {g : Tile → Tile} (h : TasksWhole s.tasks) : TasksWhole (s.updTile i g).tasks := h
theorem whole_updPort {i : PortId} {g : Port → Port} (h : TasksWhole s.tasks) : TasksWhole (s.updPort i g).tasks := h
theorem whole_setPort {i : PortId} {x : Port} (h : TasksWhole s.tasks) : TasksWhole (s.setPort i x).tasks := h
theorem whole_updChan {i : ChanId} {g : Channel → Channel} (h : TasksWhole s.tasks) : TasksWhole (s.updChan i g).tasks := h
theorem whole_setChan {i : ChanId} {x : Channel} (h : TasksWhole s.tasks) : TasksWhole (s.setChan i x).tasks := h
theorem whole_updRegion {i : RegionId} {g : Region → Region} (h : TasksWhole s.tasks) : TasksWhole (s.updRegion i g).tasks := h
theorem whole_setRegion {i : RegionId} {x : Region} (h : TasksWhole s.tasks) : TasksWhole (s.setRegion i x).tasks := h
theorem whole_updLoad {i : LoadId} {g : Load → Load} (h : TasksWhole s.tasks) : TasksWhole (s.updLoad i g).tasks := h
theorem whole_setLoad {i : LoadId} {x : Load} (h : TasksWhole s.tasks) : TasksWhole (s.setLoad i x).tasks := h
theorem whole_updQueue {i : QueueId} {g : GraphQueue → GraphQueue} (h : TasksWhole s.tasks) : TasksWhole (s.updQueue i g).tasks := h
theorem whole_updDie {i : Nat} {g : Die → Die} (h : TasksWhole s.tasks) : TasksWhole (s.updDie i g).tasks := h
theorem whole_setDie {i : Nat} {x : Die} (h : TasksWhole s.tasks) : TasksWhole (s.setDie i x).tasks := h
theorem whole_updPkg {i : Nat} {g : Package → Package} (h : TasksWhole s.tasks) : TasksWhole (s.updPkg i g).tasks := h
theorem whole_setPkg {i : Nat} {x : Package} (h : TasksWhole s.tasks) : TasksWhole (s.setPkg i x).tasks := h
theorem whole_updCur {g : Cursor → Cursor} (h : TasksWhole s.tasks) : TasksWhole (s.updCur g).tasks := h
theorem whole_setMem {m : List Host.Cell} (h : TasksWhole s.tasks) : TasksWhole (s.setMem m).tasks := h

end

theorem whole_ite {p : Prop} [Decidable p] {a b : State} (ha : TasksWhole a.tasks) (hb : TasksWhole b.tasks) : TasksWhole (if p then a else b).tasks := by
  split
  · exact ha
  · exact hb

theorem whole_foldl {α : Type} {f : State → α → State} {s : State} {l : List α} (h : TasksWhole s.tasks)
    (hf : ∀ u a, TasksWhole u.tasks → TasksWhole (f u a).tasks) : TasksWhole (l.foldl f s).tasks := by
  induction l generalizing s with
  | nil => exact h
  | cons a as ih => exact ih (hf _ a h)

/-- The same of an operation that answers a value beside its state. -/
theorem whole_ite_snd {α : Type} {p : Prop} [Decidable p] {a b : α × State} (ha : TasksWhole a.2.tasks) (hb : TasksWhole b.2.tasks) :
    TasksWhole (if p then a else b).2.tasks := by
  split
  · exact ha
  · exact hb

theorem whole_ite_fst {α : Type} {p : Prop} [Decidable p] {a b : State × α} (ha : TasksWhole a.1.tasks) (hb : TasksWhole b.1.tasks) :
    TasksWhole (if p then a else b).1.tasks := by
  split
  · exact ha
  · exact hb

theorem whole_foldl_snd {α β : Type} {f : β × State → α → β × State} {s : β × State} {l : List α} (h : TasksWhole s.2.tasks)
    (hf : ∀ u a, TasksWhole u.2.tasks → TasksWhole (f u a).2.tasks) : TasksWhole (l.foldl f s).2.tasks := by
  induction l generalizing s with
  | nil => exact h
  | cons a as ih => exact ih (hf _ a h)

/-! ### Operations that may answer with no state -/

/-- A state that is there has its vector registers whole. -/
def SomeWhole : Option State → Prop
  | some s => TasksWhole s.tasks
  | none => True

theorem SomeWhole.of_eq {o : Option State} (h : SomeWhole o) {s : State} (e : o = some s) : TasksWhole s.tasks := by
  rw [e] at h
  exact h

theorem someWhole_ite {p : Prop} [Decidable p] {a b : Option State} (ha : SomeWhole a) (hb : SomeWhole b) : SomeWhole (if p then a else b) := by
  split
  · exact ha
  · exact hb

/-- The same of a state that comes with a value. -/
def PairWhole {α : Type} : Option (State × α) → Prop
  | some x => TasksWhole x.1.tasks
  | none => True

theorem PairWhole.of_eq {α : Type} {o : Option (State × α)} (h : PairWhole o) {x : State × α} (e : o = some x) : TasksWhole x.1.tasks := by
  rw [e] at h
  exact h

theorem pairWhole_map {α β : Type} {o : Option α} {f : α → State × β} (hf : ∀ a, TasksWhole (f a).1.tasks) : PairWhole (o.map f) := by
  cases o with
  | none => trivial
  | some a => exact hf a

/-- The same of a state or a code. -/
def OkWhole : Except Nat State → Prop
  | .ok s => TasksWhole s.tasks
  | .error _ => True

theorem OkWhole.of_eq {r : Except Nat State} (h : OkWhole r) {s : State} (e : r = .ok s) : TasksWhole s.tasks := by
  rw [e] at h
  exact h

/-- The same of what a step answers. -/
def NextWhole : Host.Outcome State Fault Refusal → Prop
  | .next s => TasksWhole s.tasks
  | _ => True

theorem NextWhole.of_eq {r : Host.Outcome State Fault Refusal} (h : NextWhole r) {s : State} (e : r = .next s) : TasksWhole s.tasks := by
  rw [e] at h
  exact h

end Sys2Proof.Machine
end

section
/-! ## Vector registers stay whole: what the state's operations and the events do

The lemma `whole_f` says that the operation or event `f` leaves whole registers whole. -/

namespace Sys2Proof.Machine

/-! ### The state -/

theorem whole_draw {s : State} (h : TasksWhole s.tasks) : TasksWhole s.draw.2.tasks := whole_mk h

/-! ### Addresses -/

theorem whole_onSystemPlane {s : State} {f} (h : TasksWhole s.tasks) (hf : TasksWhole (f s).tasks) : TasksWhole (s.onSystemPlane f).tasks :=
  whole_ite hf h

theorem whole_writePa {s : State} {pa bs key} (h : TasksWhole s.tasks) : TasksWhole (s.writePa pa bs key).tasks :=
  whole_ite (whole_setMem h) (whole_mk h)

theorem whole_repair {s : State} {pa n} (h : TasksWhole s.tasks) : TasksWhole (s.repair pa n).tasks := whole_ite h (whole_mk h)

theorem whole_writeVirtual {s : State} {die domain va bs} (h : TasksWhole s.tasks) : TasksWhole (s.writeVirtual die domain va bs).tasks := by
  unfold State.writeVirtual
  conv => zeta
  exact whole_foldl h (fun _ _ hu => by
    split
    · exact hu
    · split
      · exact hu
      · exact whole_ite hu (whole_repair (whole_writePa hu)))

theorem whole_wakeTile {s : State} {t} (h : TasksWhole s.tasks) : TasksWhole (s.wakeTile t).tasks := whole_ite (whole_updTile h) h

theorem whole_wakeAt {s : State} {pa} (h : TasksWhole s.tasks) : TasksWhole (s.wakeAt pa).tasks := by
  unfold State.wakeAt
  split
  · exact whole_wakeTile h
  · exact whole_wakeTile h
  · exact h

/-! ### Shared operations -/

theorem whole_reexamine {s : State} (h : TasksWhole s.tasks) : TasksWhole s.reexamine.tasks := whole_mk h

theorem whole_putEvent {s : State} {t n v} (h : TasksWhole s.tasks) : TasksWhole (s.putEvent t n v).tasks := whole_updTile h

theorem whole_addEvent {s : State} {t n v} (h : TasksWhole s.tasks) : TasksWhole (s.addEvent t n v).tasks := whole_mk h

theorem whole_leaveCounters {s : State} {core t sets adds} (h : TasksWhole s.tasks) : TasksWhole (s.leaveCounters core t sets adds).tasks :=
  whole_mk h

theorem whole_popTokens {s : State} {i k n} (h : TasksWhole s.tasks) : TasksWhole (s.popTokens i k n).tasks := whole_mk (whole_updTask_of_v h rfl)

theorem whole_pushTokens {s : State} {i ps} (h : TasksWhole s.tasks) : TasksWhole (s.pushTokens i ps).tasks := whole_mk h

theorem whole_raiseEntry {s : State} {die e} (h : TasksWhole s.tasks) : TasksWhole (s.raiseEntry die e).tasks := whole_updDie h

theorem whole_raisePrecise {s : State} {who t addr} (h : TasksWhole s.tasks) : TasksWhole (s.raisePrecise who t addr).tasks :=
  whole_raiseEntry (whole_updStrand h)

theorem whole_raiseAsync {s : State} {who code loc info detail addr retry} (h : TasksWhole s.tasks) : TasksWhole (s.raiseAsync who code loc info
    detail addr retry).tasks := by
  unfold State.raiseAsync
  conv => zeta
  split
  · exact h
  · exact whole_raiseEntry (whole_setStrand h)
  · exact whole_setStrand h
  · exact whole_setStrand h
  · exact whole_raiseEntry (whole_setStrand h)
  · exact whole_raiseEntry (whole_setStrand h)

theorem whole_leaveSection {s : State} {who} (h : TasksWhole s.tasks) : TasksWhole (s.leaveSection who).tasks :=
  whole_updTask_of_v (whole_updStrand h) (Task.setEngine_v _ _ _)

theorem whole_drainIfEnded {s : State} {t} (h : TasksWhole s.tasks) : TasksWhole (s.drainIfEnded t).tasks := whole_ite (whole_setTask_of_v h rfl) h

theorem whole_endStrand {s : State} {who} (h : TasksWhole s.tasks) : TasksWhole (s.endStrand who).tasks :=
  whole_drainIfEnded (whole_updStrand (whole_leaveSection h))

theorem whole_enterHeader {s : State} {who a prev} (h : TasksWhole s.tasks) : TasksWhole (s.enterHeader who a prev).tasks := by
  unfold State.enterHeader
  conv => zeta
  split
  · exact whole_updStrand h
  · exact whole_ite (whole_ite (whole_updStrand (whole_raisePrecise (whole_updStrand h))) (whole_updStrand (whole_updStrand h))) (whole_ite
      (whole_endStrand (whole_updStrand h)) (whole_raisePrecise (whole_updStrand h)))

theorem whole_goTo {s : State} {who target pops} (h : TasksWhole s.tasks) : TasksWhole (s.goTo who target pops).tasks := whole_updStrand h

theorem whole_fallThrough {s : State} {who words last} (h : TasksWhole s.tasks) : TasksWhole (s.fallThrough who words last).tasks := by
  unfold State.fallThrough
  conv => zeta
  split
  · exact whole_updStrand (whole_updStrand h)
  · exact whole_ite (whole_updStrand (whole_updStrand h)) (whole_enterHeader (whole_leaveSection (whole_updStrand h)))

theorem whole_wake {s : State} {who p} (h : TasksWhole s.tasks) : TasksWhole (s.wake who p).tasks :=
  whole_ite (whole_updStrand h) (whole_goTo (whole_updStrand h))

theorem whole_parkOn {s : State} {who p} (h : TasksWhole s.tasks) : TasksWhole (s.parkOn who p).tasks := whole_updStrand h

theorem whole_giveTokens {s : State} {p} (h : TasksWhole s.tasks) : TasksWhole (s.giveTokens p).tasks := whole_updTask_of_v h rfl

theorem whole_commit {s : State} (h : TasksWhole s.tasks) : TasksWhole s.commit.tasks :=
  whole_reexamine (whole_foldl (whole_foldl (whole_foldl (whole_mk h) (fun _ _ => whole_putEvent)) (fun _ _ => whole_putEvent)) (fun _ _ =>
    whole_giveTokens))

theorem whole_writeTile {s : State} {t a bs} (h : TasksWhole s.tasks) : TasksWhole (s.writeTile t a bs).tasks := whole_repair (whole_setMem h)

/-! ### Channels -/

theorem whole_consume {s : State} {p k} (h : TasksWhole s.tasks) : TasksWhole (s.consume p k).tasks := by
  unfold State.consume
  conv => zeta
  split
  · exact h
  · exact whole_updPort (whole_updChan h)

theorem whole_sendOn {s : State} {p toks} (h : TasksWhole s.tasks) : TasksWhole (s.sendOn p toks).tasks := by
  unfold State.sendOn
  split
  · exact h
  · exact whole_updPort (whole_updChan h)

theorem whole_countPort {s : State} {p n} (h : TasksWhole s.tasks) : TasksWhole (s.countPort p n).tasks :=
  whole_ite (whole_ite (whole_setPort h) (whole_addEvent (whole_setPort h))) h

/-! ### Stops -/

theorem whole_killTasks {s : State} {p} (h : TasksWhole s.tasks) : TasksWhole (s.killTasks p).tasks :=
  whole_foldl (whole_mk (whole_mapVals h (fun _ _ => by split <;> rfl))) (fun _ _ => whole_updLoad)

theorem whole_resendPld {s : State} {num} (h : TasksWhole s.tasks) : TasksWhole (s.resendPld num).tasks := by
  unfold State.resendPld
  conv => zeta
  split
  · exact h
  · split
    · exact whole_raiseAsync (whole_mk h)
    · exact h
    · split
      · exact whole_raiseAsync (whole_mk h)
      · exact whole_mk h

theorem whole_resendPlds {s : State} {die} (h : TasksWhole s.tasks) : TasksWhole (s.resendPlds die).tasks :=
  whole_ite h (whole_foldl h (fun _ _ => whole_resendPld))

theorem whole_signalQueue {s : State} {die queue vector} (h : TasksWhole s.tasks) : TasksWhole (s.signalQueue die queue vector).tasks := whole_mk h

theorem whole_reopen {s : State} {die queue on} (h : TasksWhole s.tasks) : TasksWhole (s.reopen die queue on).tasks := by
  refine whole_foldl (whole_mk (whole_mapVals h (fun _ t => ?_))) (fun _ _ => whole_resendPlds)
  split
  · split <;> rfl
  · rfl

theorem whole_dropSaved {s : State} {l} (h : TasksWhole s.tasks) : TasksWhole (s.dropSaved l).tasks :=
  whole_ite (whole_mk (whole_filter h (fun _ _ _ => rfl))) (whole_updQueue (whole_mk (whole_mk (whole_filter h (fun _ _ _ => rfl)))))

theorem whole_endRequest {s : State} {die queue state result} (h : TasksWhole s.tasks) : TasksWhole (s.endRequest die queue state result).tasks :=
  whole_signalQueue (whole_updDie h)

theorem whole_abandonSave {s : State} {l} (h : TasksWhole s.tasks) : TasksWhole (s.abandonSave l).tasks := by
  unfold State.abandonSave
  conv => zeta
  split
  · exact whole_ite (whole_mk (whole_endRequest (whole_ite (whole_ite (whole_dropSaved h) h) (whole_reopen (whole_ite (whole_dropSaved h) h)))))
      (whole_ite (whole_dropSaved h) h)
  · exact whole_ite (whole_dropSaved h) h

theorem whole_closeLoad {s : State} {l} (h : TasksWhole s.tasks) : TasksWhole (s.closeLoad l).tasks := whole_mk (whole_updLoad (whole_killTasks h))

theorem whole_stopLoad {s : State} {l die tile r0} (h : TasksWhole s.tasks) : TasksWhole (s.stopLoad l die tile r0).tasks :=
  whole_ite h (whole_ite (whole_updLoad h) (whole_raiseEntry (whole_closeLoad (whole_updLoad (whole_abandonSave h)))))

theorem whole_poisonStop {s : State} {who engine addr origin} (h : TasksWhole s.tasks) : TasksWhole (s.poisonStop who engine addr origin).tasks :=
  whole_stopLoad h

/-! ### Commands -/

theorem whole_takePop {s : State} {i e c} (h : TasksWhole s.tasks) : TasksWhole (s.takePop i e c).tasks := whole_ite h (whole_popTokens h)

/-! ### Issue -/

theorem whole_retire {s : State} {words last yld flow} (h : TasksWhole s.tasks) : TasksWhole (s.retire words last yld flow).tasks := by
  unfold State.retire
  conv => zeta
  split
  · exact whole_fallThrough (whole_updStrand (whole_pushTokens (whole_leaveCounters h)))
  · exact whole_fallThrough (whole_updStrand (whole_pushTokens (whole_leaveCounters h)))
  · exact whole_goTo (whole_updStrand (whole_updStrand (whole_pushTokens (whole_leaveCounters h))))
  · exact whole_endStrand (whole_updStrand (whole_pushTokens (whole_leaveCounters h)))
  · exact whole_parkOn (whole_updStrand (whole_pushTokens (whole_leaveCounters h)))

theorem whole_holdStrand {s : State} {who h'} (h : TasksWhole s.tasks) : TasksWhole (s.holdStrand who h').tasks := whole_updStrand h

theorem whole_applyStop {s : State} {who x} (h : TasksWhole s.tasks) : TasksWhole (s.applyStop who x).tasks := by
  unfold State.applyStop
  conv => zeta
  split
  · exact whole_holdStrand h
  · exact whole_updStrand (whole_raisePrecise h)
  · exact whole_holdStrand (whole_updStrand (whole_mk h))
  · exact whole_holdStrand (whole_updStrand h)

theorem whole_clearCycle {s : State} (h : TasksWhole s.tasks) : TasksWhole s.clearCycle.tasks := whole_updCur h

/-! ### Stream elements -/

theorem whole_makeMove {fuel} {s : State} {id before slot w m} (h : TasksWhole s.tasks) :
    TasksWhole (State.makeMove fuel s id before slot w m).tasks := by
  induction fuel generalizing s before slot w m with
  | zero => exact h
  | succ fuel ih =>
    unfold State.makeMove
    conv => zeta
    refine whole_ite (whole_updRegion (whole_foldl (whole_setRegion (whole_mk h)) (fun _ _ hu => whole_ite hu ?_))) h
    split
    · exact ih hu
    · exact hu

theorem whole_elemStep {s : State} {id slot w m} (h : TasksWhole s.tasks) : TasksWhole (s.elemStep id slot w m).tasks := whole_makeMove h

theorem whole_elemClock {s : State} {w op} (h : TasksWhole s.tasks) : TasksWhole (s.elemClock w op).tasks := by
  unfold State.elemClock
  split
  · exact whole_elemStep h
  · exact h

theorem whole_elemSpecial {s : State} {id slot w op} (h : TasksWhole s.tasks) : TasksWhole (s.elemSpecial id slot w op).tasks := by
  unfold State.elemSpecial
  split
  · exact whole_elemStep h
  · exact h

theorem whole_sourceClock {s : State} {w} (h : TasksWhole s.tasks) : TasksWhole (s.sourceClock w).tasks := by
  unfold State.sourceClock
  conv => zeta
  split
  · exact h
  · exact whole_ite h (whole_ite (whole_consume (whole_elemStep h)) h)

theorem whole_sinkClock {s : State} {w} (h : TasksWhole s.tasks) : TasksWhole (s.sinkClock w).tasks := by
  unfold State.sinkClock
  conv => zeta
  split
  · split
    · exact whole_stopLoad (whole_elemStep h)
    · exact whole_elemStep h
  · exact h

theorem whole_qbufClock {s : State} {w} (h : TasksWhole s.tasks) : TasksWhole (s.qbufClock w).tasks := by
  unfold State.qbufClock
  split
  · exact whole_elemStep h
  · exact h

theorem whole_runElement {i w op} {s : State} (h : TasksWhole s.tasks) : NextWhole (runElement i w op s) := by
  unfold runElement
  split
  · exact whole_elemClock h
  · trivial

theorem whole_eventSpecialToken {s : State} (h : TasksWhole s.tasks) : TasksWhole (eventSpecialToken s).tasks := by
  unfold eventSpecialToken
  conv => zeta
  split
  · refine whole_ite ?_ h
    split
    · split
      · exact whole_elemSpecial h
      · exact h
    · exact h
  · exact h

/-! ### Serac at work -/

theorem whole_updCommand {s : State} {i e seq f} (h : TasksWhole s.tasks) : TasksWhole (s.updCommand i e seq f).tasks :=
  whole_updTask_of_v h (Task.setEngineState_v _ _ _)

theorem whole_updAcc {s : State} {i n f} (h : TasksWhole s.tasks) : TasksWhole (s.updAcc i n f).tasks := whole_updTask_of_v h rfl

theorem whole_refreshBusy {s : State} {i n} (h : TasksWhole s.tasks) : TasksWhole (s.refreshBusy i n).tasks := whole_updAcc h

theorem whole_startSerac {s : State} {i c} (h : TasksWhole s.tasks) : TasksWhole (s.startSerac i c).tasks := by
  unfold State.startSerac
  conv => zeta
  split
  · exact whole_raiseAsync (whole_updCommand (whole_updTile (whole_takePop h)))
  · split
    · exact whole_refreshBusy (whole_updCommand (whole_updTile (whole_takePop h)))
    · exact whole_updCommand (whole_updTile (whole_takePop h))

theorem whole_stageBeat {s : State} {i c opnd port} (h : TasksWhole s.tasks) : TasksWhole (s.stageBeat i c opnd port).tasks := by
  unfold State.stageBeat
  conv => zeta
  split
  · exact whole_ite h (whole_updCommand (whole_consume h))
  · exact whole_updCommand (whole_updPort (whole_consume h))

theorem whole_stageBlock {s : State} {i seq opnd port blocks fuel} (h : TasksWhole s.tasks) :
    TasksWhole (s.stageBlock i seq opnd port blocks fuel).tasks := by
  induction fuel generalizing s with
  | zero => exact h
  | succ fuel ih =>
    unfold State.stageBlock
    split
    · exact h
    · exact whole_ite h (ih (whole_stageBeat h))

theorem whole_smmGroup {s : State} {i c} (h : TasksWhole s.tasks) : PairWhole (s.smmGroup i c) := by
  unfold State.smmGroup
  conv => zeta
  split
  · trivial
  · exact whole_updCommand (whole_updAcc h)

theorem whole_smmRun {s : State} {i c fuel} (h : TasksWhole s.tasks) : TasksWhole (s.smmRun i c fuel).1.tasks := by
  induction fuel generalizing s c with
  | zero => exact h
  | succ fuel ih =>
    unfold State.smmRun
    refine whole_ite_fst h ?_
    split
    · exact h
    · next e => exact ih ((whole_smmGroup h).of_eq e)

theorem whole_poisonTiles {s : State} {i ts origin} (h : TasksWhole s.tasks) : TasksWhole (s.poisonTiles i ts origin).tasks :=
  whole_foldl h (fun _ _ => whole_updAcc)

theorem whole_writeView {s : State} {i first words keep origin} (h : TasksWhole s.tasks) : TasksWhole (s.writeView i first words keep origin).tasks :=
  whole_foldl h (fun _ _ => whole_updAcc)

theorem whole_writeCells {s : State} {t f cells codes} (h : TasksWhole s.tasks) : TasksWhole (s.writeCells t f cells codes).tasks := by
  unfold State.writeCells
  exact whole_foldl h (fun _ _ hu => by
    split
    · exact whole_writeTile hu
    · exact hu)

theorem whole_runStage {s : State} {i c} (h : TasksWhole s.tasks) : TasksWhole (s.runStage i c).1.tasks := by
  unfold State.runStage
  extract_lets j n stages t input weights origin f out counted c2 marked s1 s2
  have h1 : TasksWhole s1.tasks := whole_updCommand (whole_poisonTiles (whole_poisonTiles h))
  have h2 : TasksWhole s2.tasks := by
    refine whole_ite (whole_writeView h1) ?_
    split
    · exact whole_writeView h1
    · exact whole_ite h1 (whole_writeCells h1)
  clear_value s2 counted
  cases counted with
  | none => exact h2
  | some w => exact whole_updAcc h2

theorem whole_stageRun {s : State} {i c fuel} (h : TasksWhole s.tasks) : TasksWhole (s.stageRun i c fuel).1.tasks := by
  induction fuel generalizing s c with
  | zero => exact h
  | succ fuel ih => exact whole_ite_fst h (ih (whole_runStage h))

theorem whole_readAcc {s : State} {i c n lo hi f} (h : TasksWhole s.tasks) (hf : ∀ u a, TasksWhole u.tasks → TasksWhole (f u a).tasks) :
    TasksWhole (s.readAcc i c n lo hi f).tasks :=
  whole_ite (whole_poisonStop (whole_updAcc h)) (hf _ _ (whole_updAcc h))

theorem Acc.length_part (a : Acc) (k : Nat) : (a.part k).length = 1024 := by
  rw [Acc.part, List.length_map, List.length_range]
  rfl

/-- SACCV writes vector registers, each with a part of an accumulator tile; the other commands leave them. -/
theorem whole_seracEffect {s : State} {i c} (h : TasksWhole s.tasks) : TasksWhole (s.seracEffect i c).tasks := by
  unfold State.seracEffect
  conv => zeta
  split
  · exact whole_updAcc h
  · exact whole_updTask_of_v h rfl
  · exact whole_updTask_of_v h rfl
  · split
    · exact whole_updAcc h
    · exact h
  · split
    · exact whole_readAcc h (fun _ _ => whole_writeCells)
    · exact h
  · exact whole_readAcc h (fun _ _ hu => whole_foldl hu (fun _ _ hx => whole_updTask hx (fun ht => ht.of_set (Acc.length_part _ _) rfl)))
  · exact whole_updAcc h
  · exact whole_updTask_of_v h rfl
  · split
    · exact whole_writeView (whole_foldl h (fun _ _ hu => whole_ite (whole_updAcc hu) hu))
    · exact h
  · exact h

theorem whole_pushFor {s : State} {i e c} (h : TasksWhole s.tasks) : TasksWhole (s.pushFor i e c).tasks :=
  whole_ite h (whole_ite (whole_pushTokens h) (whole_raiseAsync (whole_updTask_of_v h (Task.setEngineState_v _ _ _))))

theorem whole_countFor {s : State} {i c} (h : TasksWhole s.tasks) : TasksWhole (s.countFor i c).tasks := whole_ite h (whole_addEvent h)

theorem whole_finishCommand {s : State} {i e c} (h : TasksWhole s.tasks) : TasksWhole (s.finishCommand i e c).tasks :=
  whole_pushFor (whole_countFor (whole_updTask_of_v h (Task.setEngineState_v _ _ _)))

theorem whole_progressSerac_finishStages {s : State} {i} {r : State × Command} (h : TasksWhole r.1.tasks) :
    TasksWhole (State.progressSerac.finishStages s i r).tasks := by
  unfold State.progressSerac.finishStages
  conv => zeta
  refine whole_ite h ?_
  split
  · exact whole_poisonStop h
  · split
    · exact whole_refreshBusy (whole_finishCommand h)
    · exact whole_finishCommand h

theorem whole_progressSerac {s : State} {i c n} (h : TasksWhole s.tasks) : TasksWhole (s.progressSerac i c n).tasks := by
  unfold State.progressSerac
  conv => zeta
  refine whole_ite (whole_finishCommand h) (whole_ite ?_ ?_)
  · have hr : TasksWhole (if c.progress = 0 then s.updAcc i (opndIndex c.word.d) (smmBegin c) else s).tasks := whole_ite (whole_updAcc h) h
    exact whole_ite (whole_smmRun hr) (whole_refreshBusy (whole_finishCommand (whole_updAcc (whole_smmRun hr))))
  · split
    · exact whole_progressSerac_finishStages (whole_stageRun h)
    · exact whole_progressSerac_finishStages (whole_stageRun h)
    · exact whole_finishCommand (whole_seracEffect h)

/-! ### Units of Moraine commands -/

theorem whole_retranslate {s : State} {i seq} (h : TasksWhole s.tasks) : TasksWhole (s.retranslate i seq).tasks := by
  unfold State.retranslate
  conv => zeta
  split
  · exact h
  · refine whole_ite h ?_
    refine whole_ite (whole_updCommand h) ?_
    split
    · exact whole_updCommand h
    · exact whole_raiseAsync (whole_updCommand h)
    · exact h

/-! ### The fault queue -/

theorem whole_signalOwner {s : State} {die vector} (h : TasksWhole s.tasks) : TasksWhole (s.signalOwner die vector).tasks := whole_ite (whole_mk h) h

theorem whole_writeEntry {s : State} {die} (h : TasksWhole s.tasks) : TasksWhole (s.writeEntry die).tasks := by
  unfold State.writeEntry
  conv => zeta
  split
  · exact h
  · exact whole_signalOwner (whole_mk (whole_updDie h))

theorem whole_retryPush {s : State} {i e} (h : TasksWhole s.tasks) : TasksWhole (s.retryPush i e).tasks := by
  unfold State.retryPush
  conv => zeta
  split
  · exact h
  · split
    · exact whole_updTask_of_v (whole_pushTokens h) (Task.setEngineState_v _ _ _)
    · exact whole_raiseAsync h

theorem whole_retryFor {s : State} {who r} (h : TasksWhole s.tasks) : TasksWhole (s.retryFor who r).tasks := by
  unfold State.retryFor
  conv => zeta
  split
  · exact h
  · exact whole_retryPush h
  · exact whole_retryPush h
  · exact whole_updTask_of_v h rfl
  · exact whole_retranslate h
  · exact whole_resendPlds (whole_mk h)

theorem whole_raiseWaiting {s : State} {who} (h : TasksWhole s.tasks) : TasksWhole (s.raiseWaiting who).tasks := by
  unfold State.raiseWaiting
  conv => zeta
  split
  · exact h
  · exact whole_raiseEntry (whole_setStrand h)

theorem whole_resumeStrand {s : State} {who f go} (h : TasksWhole s.tasks) : TasksWhole (s.resumeStrand who f go).tasks := by
  unfold State.resumeStrand
  conv => zeta
  refine whole_raiseWaiting ?_
  split
  · exact whole_goTo (whole_updStrand (whole_updStrand (whole_retryFor h)))
  · exact whole_updStrand (whole_updStrand (whole_retryFor h))
  · exact whole_ite (whole_fallThrough (whole_updStrand (whole_updStrand (whole_retryFor h)))) (whole_updStrand (whole_updStrand (whole_retryFor h)))

theorem whole_resumeEnded {s : State} {who r} (h : TasksWhole s.tasks) : TasksWhole (s.resumeEnded who r).tasks := by
  unfold State.resumeEnded
  conv => zeta
  split
  · exact h
  · exact whole_retryFor (whole_setStrand h)

theorem whole_rearm {s : State} {l die} (h : TasksWhole s.tasks) : TasksWhole (s.rearm l die).tasks := whole_updLoad h

theorem whole_act {s : State} {die e action value} (h : TasksWhole s.tasks) : OkWhole (s.act die e action value) := by
  unfold State.act
  conv => zeta
  split
  · split
    · exact whole_resumeEnded h
    · split
      · exact whole_resumeStrand h
      · exact h
  · split
    · split
      · exact whole_resumeEnded (whole_updStrand h)
      · split
        · exact whole_resumeStrand (whole_updStrand h)
        · exact whole_updStrand h
    · trivial
  · split
    · trivial
    · split
      · trivial
      · split
        · exact whole_resumeStrand h
        · exact h
  · exact whole_killTasks h
  · exact whole_stopLoad h
  · exact whole_foldl (whole_updDie h) (fun _ _ => whole_stopLoad)
  · exact whole_updDie h
  · exact whole_killTasks h
  · exact whole_stopLoad h
  · exact h
  · trivial

theorem whole_answered {s : State} {die last} (h : TasksWhole s.tasks) : TasksWhole (s.answered die last).tasks := whole_updDie h

theorem whole_rearmFor {s : State} {die e} (h : TasksWhole s.tasks) : TasksWhole (s.rearmFor die e).tasks := by
  unfold State.rearmFor
  split
  · exact whole_rearm h
  · exact h

theorem whole_respond {s : State} {die} (h : TasksWhole s.tasks) : TasksWhole (s.respond die).tasks := by
  unfold State.respond
  conv => zeta
  split
  · exact whole_answered h
  · refine whole_ite (whole_answered h) (whole_ite ?_ ?_)
    · split
      · exact whole_answered h
      · exact whole_updDie h
    · split
      · exact whole_answered h
      · next e => exact whole_answered (whole_rearmFor (whole_updDie ((whole_act h).of_eq e)))

theorem whole_answerLoad {s : State} {l} (h : TasksWhole s.tasks) : TasksWhole (s.answerLoad l).tasks := whole_mk h

theorem whole_freeze {s : State} {die f cause addr} (h : TasksWhole s.tasks) : TasksWhole (s.freeze die f cause addr).tasks :=
  whole_raiseEntry (whole_updDie h)

/-! ### The control space -/

theorem whole_startInvalidation {s : State} {die dw1} (h : TasksWhole s.tasks) : TasksWhole (s.startInvalidation die dw1).tasks := whole_updDie h

theorem whole_dropTile {s : State} {t} (h : TasksWhole s.tasks) : TasksWhole (s.dropTile t).tasks :=
  whole_mk (whole_filter h (fun _ _ _ => rfl))

theorem whole_writePwrTile {s : State} {die v} (h : TasksWhole s.tasks) : TasksWhole (s.writePwrTile die v).tasks :=
  whole_foldl h (fun _ _ hu => whole_ite (whole_ite hu (whole_updDie hu)) (whole_ite (whole_ite hu (whole_updDie (whole_dropTile hu))) (whole_updDie
    hu)))

theorem whole_writePwrReg {s : State} {die v} (h : TasksWhole s.tasks) : TasksWhole (s.writePwrReg die v).tasks :=
  whole_foldl h (fun _ _ hu => whole_ite (whole_ite hu (whole_updDie hu)) (whole_ite (whole_ite hu (whole_updDie (whole_updRegion hu))) (whole_updDie
    hu)))

theorem whole_sysWrite {s : State} {a die n v mask starts} (h : TasksWhole s.tasks) : TasksWhole (s.sysWrite a die n v mask starts).tasks := by
  have hd {g : Die → Die} : TasksWhole (s.updDie die g).tasks := whole_updDie h
  refine whole_ite (whole_ite hd h) <| whole_ite (whole_ite hd h) <| whole_ite hd <| whole_ite (whole_ite (whole_startInvalidation h) h) ?_
  refine whole_ite hd <| whole_ite hd <| whole_ite hd <| whole_ite hd <| whole_ite (whole_ite (whole_respond hd) hd) ?_
  refine whole_ite hd <| whole_ite hd <| whole_ite hd ?_
  exact whole_ite (whole_ite (whole_writePwrTile h) h) <| whole_ite (whole_ite (whole_writePwrReg h) h) h

theorem whole_requestSwap {s : State} {r dw1} (h : TasksWhole s.tasks) : TasksWhole (s.requestSwap r dw1).tasks :=
  whole_ite (whole_setRegion h) (whole_setRegion h)

theorem whole_gateSources {s : State} {q dies} (h : TasksWhole s.tasks) : TasksWhole (s.gateSources q dies).tasks :=
  whole_mk (whole_foldl h (fun _ _ => whole_updLoad))

theorem whole_beginSave {s : State} {die} (h : TasksWhole s.tasks) : TasksWhole (s.beginSave die).tasks := by
  unfold State.beginSave
  conv => zeta
  split
  · exact whole_ite (whole_updDie (whole_gateSources h)) h
  · exact h

theorem whole_requestPreempt {s : State} {die dw1} (h : TasksWhole s.tasks) : TasksWhole (s.requestPreempt die dw1).tasks :=
  whole_ite (whole_updDie h) (whole_ite (whole_updDie h) (whole_ite (whole_updDie h) (whole_beginSave (whole_updDie h))))

theorem whole_disableRings {s : State} {pkg} (h : TasksWhole s.tasks) : TasksWhole (s.disableRings pkg).tasks := whole_mk h

theorem whole_reject {s : State} {pkg} (h : TasksWhole s.tasks) : TasksWhole (s.reject pkg).tasks := whole_updPkg h

theorem whole_claim {s : State} {f} (h : TasksWhole s.tasks) : TasksWhole (s.claim f).tasks :=
  whole_ite (whole_ite h (whole_reject h)) (whole_ite (whole_disableRings (whole_setPkg h)) (whole_reject h))

theorem whole_handover {s : State} {f v} (h : TasksWhole s.tasks) : TasksWhole (s.handover f v).tasks :=
  whole_ite (whole_disableRings (whole_updPkg h)) h

theorem whole_monitor {s : State} {die src n} (h : TasksWhole s.tasks) : TasksWhole (s.monitor die src n).tasks := whole_ite h (whole_updDie h)

theorem whole_readMonitor {s : State} {die k} (h : TasksWhole s.tasks) : TasksWhole (s.readMonitor die k).2.tasks :=
  whole_ite_snd (whole_updDie (whole_mk h)) h

theorem whole_configureMonitor {s : State} {die k v} (h : TasksWhole s.tasks) : TasksWhole (s.configureMonitor die k v).tasks := whole_updDie h

theorem whole_ctrlRead {s : State} {a die o} (h : TasksWhole s.tasks) : TasksWhole (s.ctrlRead a die o).2.tasks :=
  whole_ite_snd h (whole_ite_snd h (whole_ite_snd h (whole_ite_snd h (whole_ite_snd h (whole_ite_snd h (whole_ite_snd (whole_ite_snd h
    (whole_readMonitor h)) (whole_ite_snd h (whole_ite_snd h (whole_ite_snd h (whole_ite_snd h (whole_ite_snd h h)))))))))))

theorem whole_ctrlWrite {s : State} {a die o v} (h : TasksWhole s.tasks) : TasksWhole (s.ctrlWrite a die o v).tasks := by
  unfold State.ctrlWrite
  conv => zeta
  refine whole_ite (whole_sysWrite h) ?_
  refine whole_ite (whole_updDie h) ?_
  refine whole_ite (whole_requestPreempt h) ?_
  refine whole_ite (whole_ite (whole_updRegion h) (whole_ite (whole_requestSwap h) h)) ?_
  refine whole_ite (whole_updQueue h) ?_
  refine whole_ite (whole_ite (whole_updDie h) h) ?_
  refine whole_ite (whole_ite (whole_configureMonitor h) h) ?_
  refine whole_ite ?_ h
  split
  · exact whole_ite (whole_handover h) (whole_ite (whole_updPkg h) (whole_ite (whole_updPkg h) (whole_ite (whole_updPkg h) (whole_ite (whole_updPkg
      h) h))))
  · exact h

/-! ### Channels and regions -/

theorem whole_eventPacketSend {s : State} (h : TasksWhole s.tasks) : TasksWhole (eventPacketSend s).tasks := by
  unfold eventPacketSend
  conv => zeta
  refine whole_ite h ?_
  split
  · split
    · exact whole_setChan h
    · exact h
  · exact whole_ite h (whole_setChan h)

theorem whole_countArrival {s : State} {p b} (h : TasksWhole s.tasks) : TasksWhole (s.countArrival p b).tasks :=
  whole_ite (whole_ite (whole_addEvent h) h) (whole_countPort h)

theorem whole_eventPacketArrive {s : State} (h : TasksWhole s.tasks) : TasksWhole (eventPacketArrive s).tasks := by
  unfold eventPacketArrive
  conv => zeta
  split
  · exact whole_ite h (whole_countArrival (whole_setChan (whole_wakeTile h)))
  · exact h

theorem whole_eventAckChannel {s : State} (h : TasksWhole s.tasks) : TasksWhole (eventAckChannel s).tasks := by
  unfold eventAckChannel
  conv => zeta
  split
  · exact whole_ite h (whole_ite (whole_countPort (whole_setChan h)) (whole_setChan h))
  · exact h

theorem whole_eventChannelOff {s : State} (h : TasksWhole s.tasks) : TasksWhole (eventChannelOff s).tasks := whole_updChan h

theorem whole_eventChannelOn {s : State} (h : TasksWhole s.tasks) : TasksWhole (eventChannelOn s).tasks := whole_updChan h

theorem whole_portTake {s : State} {p t} (h : TasksWhole s.tasks) : SomeWhole (s.portTake p t) := by
  unfold State.portTake
  conv => zeta
  split
  · trivial
  · exact someWhole_ite (whole_updPort (whole_setChan h)) trivial

theorem whole_eventPortTake {s : State} (h : TasksWhole s.tasks) : TasksWhole (eventPortTake s).tasks := by
  unfold eventPortTake
  conv => zeta
  split
  · exact h
  · refine whole_ite ?_ h
    split
    · next e => exact whole_updRegion ((whole_portTake h).of_eq e)
    · exact h

theorem whole_eventSealedFire {s : State} (h : TasksWhole s.tasks) : TasksWhole (eventSealedFire s).tasks := by
  unfold eventSealedFire
  conv => zeta
  split
  · exact h
  · refine whole_ite h (whole_ite ?_ (whole_ite h ?_))
    · split
      · refine whole_ite ?_ h
        split
        · next e => exact whole_updRegion ((whole_portTake h).of_eq e)
        · exact h
      · exact h
    · split
      · exact whole_ite h (whole_setRegion (whole_consume h))
      · exact h

theorem whole_poisonPort {s : State} {p o} (h : TasksWhole s.tasks) : TasksWhole (s.poisonPort p o).tasks := by
  unfold State.poisonPort
  split
  · exact h
  · exact whole_updChan h

theorem whole_eventConfigError {s : State} (h : TasksWhole s.tasks) : TasksWhole (eventConfigError s).tasks :=
  whole_ite (whole_foldl (whole_updRegion h) (fun _ _ => whole_poisonPort)) h

theorem whole_eventSwapChecked {s : State} (h : TasksWhole s.tasks) : TasksWhole (eventSwapChecked s).tasks := by
  unfold eventSwapChecked
  conv => zeta
  split
  · exact h
  · refine whole_ite h ?_
    split
    · exact whole_setRegion h
    · exact whole_setRegion h

theorem whole_eventSwapIdle {s : State} (h : TasksWhole s.tasks) : TasksWhole (eventSwapIdle s).tasks := by
  unfold eventSwapIdle
  conv => zeta
  split
  · split
    · exact whole_ite (whole_setRegion h) (whole_ite h (whole_ite (whole_setRegion h) (whole_setRegion (whole_writeVirtual h))))
    · exact h
  · exact h

theorem whole_eventSwapTimeout {s : State} (h : TasksWhole s.tasks) : TasksWhole (eventSwapTimeout s).tasks := by
  unfold eventSwapTimeout
  conv => zeta
  split
  · exact whole_ite (whole_setRegion h) h
  · exact h

/-! ### The scheduler -/

theorem whole_fillMemory {s : State} {t base size data} (h : TasksWhole s.tasks) : TasksWhole (s.fillMemory t base size data).tasks := whole_mk h

theorem whole_createTask {s : State} {l grid tile} (h : TasksWhole s.tasks) : SomeWhole (s.createTask l grid tile) := by
  unfold State.createTask
  conv => zeta
  split
  · exact whole_updTile (whole_setStrand (whole_setStrand (whole_setTask (whole_fillMemory h) (Task.vectorsWhole_empty rfl))))
  · trivial

theorem whole_eventGridDispatch {s : State} (h : TasksWhole s.tasks) : TasksWhole (eventGridDispatch s).tasks := by
  unfold eventGridDispatch
  conv => zeta
  split
  · exact h
  · refine whole_ite h ?_
    split
    · exact h
    · next e => exact whole_updDie (whole_updLoad ((whole_createTask h).of_eq e))

theorem whole_eventStrandsStart {s : State} (h : TasksWhole s.tasks) : TasksWhole (eventStrandsStart s).tasks :=
  whole_ite (whole_setTask_of_v h rfl) h

theorem whole_eventTaskDone {s : State} (h : TasksWhole s.tasks) : TasksWhole (eventTaskDone s).tasks :=
  whole_ite (whole_updLoad (whole_setTask_of_v h rfl)) h

theorem whole_eventSlotFree {s : State} (h : TasksWhole s.tasks) : TasksWhole (eventSlotFree s).tasks :=
  whole_ite (whole_updTile (whole_mk (whole_erase h))) h

theorem whole_reachFirst {s : State} {q g} (h : TasksWhole s.tasks) : TasksWhole (s.reachFirst q g).tasks :=
  whole_ite (whole_updLoad (whole_updQueue h)) h

theorem whole_listLoads {s : State} {q domain vas bad} (h : TasksWhole s.tasks) : TasksWhole (s.listLoads q domain vas bad).tasks :=
  whole_foldl h (fun _ _ => whole_setLoad)

theorem whole_readEntry {s : State} {q} (h : TasksWhole s.tasks) : TasksWhole (s.readEntry q).tasks :=
  whole_reachFirst (whole_listLoads (whole_updQueue h))

theorem whole_eventEntryRead {s : State} (h : TasksWhole s.tasks) : TasksWhole (eventEntryRead s).tasks := by
  unfold eventEntryRead
  conv => zeta
  split
  · exact whole_ite h (whole_reachFirst h)
  · exact whole_ite (whole_readEntry h) h

theorem whole_vacate {s : State} {l} (h : TasksWhole s.tasks) : TasksWhole (s.vacate l).tasks := whole_mk h

theorem whole_release {s : State} {l} (h : TasksWhole s.tasks) : TasksWhole (s.release l).tasks := whole_mk (whole_vacate h)

theorem whole_finish {s : State} {l st} (h : TasksWhole s.tasks) : TasksWhole (s.finish l st).tasks :=
  whole_ite (whole_mk (whole_answerLoad (whole_release (whole_updLoad h)))) (whole_answerLoad (whole_release (whole_updLoad h)))

theorem whole_refuse {s : State} {l f} (h : TasksWhole s.tasks) : TasksWhole (s.refuse l f).tasks := whole_finish (whole_updLoad h)

theorem whole_bindChannel {s : State} {id c} (h : TasksWhole s.tasks) : TasksWhole (s.bindChannel id c).tasks :=
  whole_foldl (whole_updPort (whole_setChan h)) (fun _ _ => whole_updPort)

theorem whole_takesTurn {s : State} {l} (h : TasksWhole s.tasks) : TasksWhole (s.takesTurn l).tasks := whole_updDie h

theorem whole_arm {s : State} {l t} (h : TasksWhole s.tasks) : TasksWhole (s.arm l t).tasks :=
  whole_foldl (whole_takesTurn (whole_setLoad h)) (fun _ _ => whole_bindChannel)

theorem whole_fetchRegions {s : State} {l t} (h : TasksWhole s.tasks) : TasksWhole (s.fetchRegions l t).tasks :=
  whole_foldl (whole_takesTurn (whole_updLoad h)) (fun _ _ => whole_updRegion)

theorem whole_pinRecords {s : State} {l} (h : TasksWhole s.tasks) : TasksWhole (s.pinRecords l).1.tasks := by
  unfold State.pinRecords
  conv => zeta
  split
  · refine whole_ite_fst ?_ h
    split
    · exact whole_updQueue h
    · exact whole_updQueue h
  · exact h

theorem whole_eventLoadConfigure {s : State} (h : TasksWhole s.tasks) : TasksWhole (eventLoadConfigure s).tasks := by
  unfold eventLoadConfigure
  conv => zeta
  refine whole_ite h ?_
  refine whole_ite (whole_refuse (whole_pinRecords h)) ?_
  refine whole_ite (whole_refuse (whole_pinRecords h)) ?_
  split
  · exact whole_refuse (whole_pinRecords h)
  · split
    · exact whole_ite (whole_refuse (whole_pinRecords h)) (whole_ite (whole_pinRecords h) (whole_ite (whole_refuse (whole_pinRecords h))
        (whole_fetchRegions (whole_pinRecords h))))
    · exact whole_ite (whole_pinRecords h) (whole_ite (whole_arm (whole_pinRecords h)) (whole_fetchRegions (whole_pinRecords h)))

theorem whole_eventImageVerified {s : State} (h : TasksWhole s.tasks) : TasksWhole (eventImageVerified s).tasks := by
  unfold eventImageVerified
  conv => zeta
  split
  · exact h
  · refine whole_ite h ?_
    split
    · exact whole_refuse h
    · split
      · exact whole_setRegion h
      · exact whole_refuse h

theorem whole_loadCounts {s : State} {l} (h : TasksWhole s.tasks) : TasksWhole (s.loadCounts l).tasks := by
  unfold State.loadCounts
  conv => zeta
  split
  · exact whole_updLoad h
  · exact h

theorem whole_startLoad {s : State} {l} (h : TasksWhole s.tasks) : TasksWhole (s.startLoad l).tasks := by
  unfold State.startLoad
  conv => zeta
  split
  · exact whole_ite (whole_updLoad (whole_mk (whole_updLoad h))) (whole_mk (whole_updLoad h))
  · exact whole_mk (whole_updLoad h)

theorem whole_eventLoadStart {s : State} (h : TasksWhole s.tasks) : TasksWhole (eventLoadStart s).tasks :=
  whole_ite (whole_startLoad (whole_loadCounts h)) h

theorem whole_eventLoadComplete {s : State} (h : TasksWhole s.tasks) : TasksWhole (eventLoadComplete s).tasks := whole_ite (whole_finish h) h

theorem whole_eventLoadExit {s : State} (h : TasksWhole s.tasks) : TasksWhole (eventLoadExit s).tasks :=
  whole_ite h (whole_ite (whole_finish (whole_ite (whole_closeLoad (whole_updLoad h)) h)) (whole_ite (whole_closeLoad (whole_updLoad h)) h))

theorem whole_writePinned {s : State} {ps va bs} (h : TasksWhole s.tasks) : TasksWhole (s.writePinned ps va bs).tasks := by
  unfold State.writePinned
  split
  · exact whole_repair (whole_writePa h)
  · exact h

theorem whole_eventGraphComplete {s : State} (h : TasksWhole s.tasks) : TasksWhole (eventGraphComplete s).tasks := by
  unfold eventGraphComplete
  conv => zeta
  split
  · exact h
  · exact whole_ite h (whole_ite (whole_signalQueue (whole_monitor (whole_mk (whole_updQueue (whole_ite (whole_foldl h (fun _ _ =>
      whole_writePinned)) h))))) (whole_monitor (whole_mk (whole_updQueue (whole_ite (whole_foldl h (fun _ _ => whole_writePinned)) h)))))

/-! ### Strands and their global accesses -/

theorem whole_eventSuspendWake {s : State} (h : TasksWhole s.tasks) : TasksWhole (eventSuspendWake s).tasks := by
  unfold eventSuspendWake
  conv => zeta
  split
  · exact whole_ite (whole_wake h) h
  · exact h

theorem whole_eventAutoPark {s : State} (h : TasksWhole s.tasks) : TasksWhole (eventAutoPark s).tasks := by
  unfold eventAutoPark
  conv => zeta
  split
  · refine whole_ite ?_ h
    split
    · exact whole_raisePrecise h
    · exact whole_setStrand h
  · exact h

theorem whole_eventAutoParkWake {s : State} (h : TasksWhole s.tasks) : TasksWhole (eventAutoParkWake s).tasks := by
  unfold eventAutoParkWake
  conv => zeta
  split
  · exact whole_ite (whole_wake h) h
  · exact h

theorem whole_deliver {s : State} {who dest v} (h : TasksWhole s.tasks) : TasksWhole (s.deliver who dest v).tasks := by
  unfold State.deliver
  split
  · exact whole_updStrand h
  · split
    · split
      · exact whole_mk (whole_updTask_of_v h (Task.push_v _ _ _))
      · exact h
    · exact h

theorem whole_eventGraiseApply {s : State} (h : TasksWhole s.tasks) : TasksWhole (eventGraiseApply s).tasks := by
  unfold eventGraiseApply
  conv => zeta
  split
  · exact whole_deliver (whole_mk (whole_updLoad h))
  · exact h

theorem whole_updAccess {s : State} {num f} (h : TasksWhole s.tasks) : TasksWhole (s.updAccess num f).tasks := whole_mk h

theorem whole_homeRead {s : State} {pa z key} (h : TasksWhole s.tasks) : TasksWhole (s.homeRead pa z key).2.tasks := by
  unfold State.homeRead
  split
  · exact whole_ctrlRead h
  · exact h
  · exact h

theorem whole_homeWrite {s : State} {pa z key v} (h : TasksWhole s.tasks) : TasksWhole (s.homeWrite pa z key v).tasks := by
  unfold State.homeWrite
  split
  · exact whole_ctrlWrite h
  · exact whole_addEvent h
  · exact whole_repair (whole_writePa h)

theorem whole_capture {s : State} {a} (h : TasksWhole s.tasks) : TasksWhole (s.capture a).tasks := whole_ite (whole_updStrand h) h

theorem whole_releaseDeferred {s : State} {pa v} (h : TasksWhole s.tasks) : TasksWhole (s.releaseDeferred pa v).tasks := whole_mk h

theorem whole_perform {s : State} {a} (h : TasksWhole s.tasks) : TasksWhole (s.perform a).tasks := by
  unfold State.perform
  conv => zeta
  split
  · exact whole_updAccess (whole_capture (whole_homeRead h))
  · exact whole_updAccess (whole_homeRead h)
  · exact whole_updAccess (whole_homeWrite h)
  · exact whole_updAccess (whole_homeWrite h)
  · exact whole_ite (whole_updAccess h) (whole_ite (whole_mk h) (whole_updAccess h))
  · exact whole_ite (whole_updAccess h) (whole_updAccess (whole_releaseDeferred (whole_mk (whole_homeWrite h))))
  · exact whole_updAccess (whole_mk h)
  · exact whole_updAccess h
  · exact whole_updAccess (whole_ite h (whole_homeWrite h))

theorem whole_combine {s : State} {a source} (h : TasksWhole s.tasks) : TasksWhole (s.combine a source).tasks := by
  unfold State.combine
  conv => zeta
  split
  · split
    · exact whole_ite (whole_updStrand (whole_updAccess h)) h
    · exact h
  · exact h

theorem whole_eventPerform {s : State} (h : TasksWhole s.tasks) : TasksWhole (eventPerform s).tasks := by
  unfold eventPerform
  conv => zeta
  split
  · exact h
  · refine whole_ite ?_ ?_
    · refine whole_ite ?_ h
      refine whole_updAccess ?_
      split
      · exact whole_addEvent h
      · exact whole_repair (whole_writePa h)
    · refine whole_ite h ?_
      split
      · exact whole_combine h
      · exact whole_ite (whole_perform (whole_wakeAt h)) h

theorem whole_dropAccess {s : State} {a} (h : TasksWhole s.tasks) : TasksWhole (s.dropAccess a).tasks := whole_updStrand (whole_mk h)

theorem whole_replyTo {s : State} {a} (h : TasksWhole s.tasks) : TasksWhole (s.replyTo a).tasks := by
  unfold State.replyTo
  conv => zeta
  split
  · exact whole_deliver (whole_dropAccess h)
  · exact whole_dropAccess h

theorem whole_eventReply {s : State} (h : TasksWhole s.tasks) : TasksWhole (eventReply s).tasks := by
  unfold eventReply
  split
  · exact whole_ite (whole_replyTo h) h
  · exact h

theorem whole_eventAck {s : State} (h : TasksWhole s.tasks) : TasksWhole (eventAck s).tasks := by
  unfold eventAck
  split
  · exact whole_ite (whole_updStrand (whole_dropAccess h)) h
  · exact h

theorem whole_eventFenceRetire {s : State} (h : TasksWhole s.tasks) : TasksWhole (eventFenceRetire s).tasks := by
  unfold eventFenceRetire
  conv => zeta
  split
  · exact whole_ite (whole_ite (whole_updTile (whole_pushTokens (whole_updStrand h))) (whole_pushTokens (whole_updStrand h))) h
  · exact h

theorem whole_install {s : State} {t e evict} (h : TasksWhole s.tasks) : SomeWhole (s.install t e evict) := by
  unfold State.install
  conv => zeta
  split
  · exact h
  · split
    · exact whole_updTile h
    · split
      · split
        · trivial
        · exact whole_updTile h
      · trivial

theorem whole_eventWalkComplete {s : State} (h : TasksWhole s.tasks) : TasksWhole (eventWalkComplete s).tasks := by
  unfold eventWalkComplete
  conv => zeta
  split
  · exact h
  · refine whole_ite h ?_
    split
    · exact whole_updStrand h
    · split
      · next e => exact whole_updStrand ((whole_install h).of_eq e)
      · exact h

theorem whole_eventRecordFill {s : State} (h : TasksWhole s.tasks) : TasksWhole (eventRecordFill s).tasks := by
  unfold eventRecordFill
  conv => zeta
  refine whole_ite ?_ h
  split
  · exact whole_ite h (whole_ite (whole_stopLoad h) (whole_updTile h))
  · exact h

/-! ### Pieces of host requests -/

theorem whole_hostWritePiece {s : State} {pa key bs} (h : TasksWhole s.tasks) : TasksWhole (s.hostWritePiece pa key bs).tasks := by
  unfold State.hostWritePiece
  split
  · exact whole_foldl h (fun _ _ hu => whole_ite (whole_homeWrite hu) hu)
  · exact whole_repair (whole_writePa h)

theorem whole_hostAccess {s : State} {h' k} (h : TasksWhole s.tasks) : TasksWhole (s.hostAccess h' k).1.tasks :=
  whole_ite_fst (whole_hostWritePiece h) h

theorem whole_putHost {s : State} {h'} (h : TasksWhole s.tasks) : TasksWhole (s.putHost h').tasks := whole_ite (whole_mk h) (whole_mk h)

/-! ### Moraine at work -/

theorem whole_readPiece {s : State} {i c inTile a n} (h : TasksWhole s.tasks) : TasksWhole (s.readPiece i c inTile a n).2.tasks := by
  unfold State.readPiece
  conv => zeta
  split
  · exact h
  · refine whole_ite_snd h ?_
    split
    · exact whole_ctrlRead h
    · exact whole_ite_snd h h

theorem whole_readAccess {s : State} {i c a} (h : TasksWhole s.tasks) : TasksWhole (s.readAccess i c a).2.tasks := by
  unfold State.readAccess
  conv => zeta
  split
  · exact whole_foldl_snd h (fun _ _ hu => whole_readPiece hu)
  · exact whole_foldl_snd h (fun _ _ hu1 => whole_readPiece hu1)

theorem whole_readRun {s : State} {i c r} (h : TasksWhole s.tasks) : TasksWhole (s.readRun i c r).2.tasks :=
  whole_foldl_snd h (fun _ _ hu => whole_readAccess hu)

theorem whole_writePiece {s : State} {i c inTile a bs} (h : TasksWhole s.tasks) : TasksWhole (s.writePiece i c inTile a bs).2.tasks := by
  unfold State.writePiece
  split
  · exact h
  · refine whole_ite_snd h ?_
    split
    · exact whole_ctrlWrite h
    · exact whole_repair (whole_writePa h)

theorem whole_writeAccess {s : State} {i c a cells} (h : TasksWhole s.tasks) : TasksWhole (s.writeAccess i c a cells).2.tasks := by
  unfold State.writeAccess
  conv => zeta
  split
  · exact h
  · exact whole_foldl_snd h (fun _ _ hu => whole_writePiece hu)

theorem whole_writeRun {s : State} {i c r cells} (h : TasksWhole s.tasks) : TasksWhole (s.writeRun i c r cells).2.tasks :=
  whole_foldl_snd h (fun _ _ hu => whole_writeAccess hu)

theorem whole_completeMoraine {s : State} {i c} (h : TasksWhole s.tasks) : TasksWhole (s.completeMoraine i c).tasks :=
  whole_finishCommand (whole_ite h (whole_updTask_of_v h rfl))

theorem whole_keepCommand {s : State} {i c} (h : TasksWhole s.tasks) : TasksWhole (s.keepCommand i c).tasks := whole_updCommand h

theorem whole_flightAccess {s : State} {i c f n} (h : TasksWhole s.tasks) : PairWhole (s.flightAccess i c f n) := by
  unfold State.flightAccess
  conv => zeta
  split
  · split
    · trivial
    · split
      · exact whole_readAccess h
      · exact whole_readAccess h
  · trivial
  · split
    · split
      · trivial
      · exact whole_readAccess h
    · split
      · trivial
      · exact pairWhole_map (fun _ => whole_writeAccess h)
    · trivial

theorem whole_flightRest {s : State} {i c f n fuel} (h : TasksWhole s.tasks) : TasksWhole (s.flightRest i c f n fuel).1.tasks := by
  induction fuel generalizing s f n with
  | zero => exact h
  | succ fuel ih =>
    unfold State.flightRest
    split
    · exact ih h
    · next e => exact ih ((whole_flightAccess h).of_eq e)
    · next e => exact (whole_flightAccess h).of_eq e

theorem whole_countUnit {s : State} {i c u} (h : TasksWhole s.tasks) : TasksWhole (s.countUnit i c u).1.tasks := whole_monitor h

theorem whole_settleUnits {s : State} {i c fuel} (h : TasksWhole s.tasks) : TasksWhole (s.settleUnits i c fuel).1.tasks := by
  induction fuel generalizing s c with
  | zero => exact h
  | succ fuel ih =>
    unfold State.settleUnits
    split
    · exact h
    · split
      · exact whole_ite_fst (ih (whole_countUnit h)) h
      · exact h

theorem whole_runUnit {s : State} {i c} (h : TasksWhole s.tasks) : TasksWhole (s.runUnit i c).1.tasks := by
  unfold State.runUnit
  conv => zeta
  split
  · exact whole_flightRest h
  · split
    · exact whole_flightRest h
    · split
      · exact whole_countUnit (c := c) (whole_flightRest (whole_flightRest h))
      · exact whole_countUnit (c := c) (whole_flightRest (whole_flightRest h))

theorem whole_runUnits {s : State} {i c fuel} (h : TasksWhole s.tasks) : TasksWhole (s.runUnits i c fuel).tasks := by
  induction fuel generalizing s c with
  | zero => exact whole_ite (whole_completeMoraine h) (whole_keepCommand h)
  | succ fuel ih =>
    unfold State.runUnits
    refine whole_ite (whole_completeMoraine h) ?_
    have hr : TasksWhole (s.runUnit i c).1.tasks := whole_runUnit h
    split
    · next e => exact ih (by rwa [e] at hr)
    · next e => exact whole_poisonStop (by rwa [e] at hr)

theorem whole_runAccess {s : State} {i c k n} (h : TasksWhole s.tasks) : TasksWhole (s.runAccess i c k n).tasks := by
  unfold State.runAccess
  conv => zeta
  split
  · exact h
  · next e => exact whole_poisonStop ((whole_flightAccess h).of_eq e)
  · next e =>
    have ht := (whole_flightAccess h).of_eq e
    exact whole_ite (whole_completeMoraine (whole_settleUnits ht)) (whole_keepCommand (whole_settleUnits ht))

theorem whole_sendUnit {s : State} {i c g perBeat} (h : TasksWhole s.tasks) : TasksWhole (s.sendUnit i c g perBeat).1.tasks := by
  unfold State.sendUnit
  conv => zeta
  split
  · exact whole_ite_snd (whole_readRun h) h
  · split
    · exact whole_readRun (whole_ite_snd (whole_readRun h) h)
    · exact whole_readRun (whole_ite_snd (whole_readRun h) h)

theorem whole_sendUnits {s : State} {i c p fuel} (h : TasksWhole s.tasks) : TasksWhole (s.sendUnits i c p fuel).tasks := by
  induction fuel generalizing s c with
  | zero => exact whole_keepCommand h
  | succ fuel ih =>
    unfold State.sendUnits
    conv => zeta
    split
    · exact whole_keepCommand h
    · refine whole_ite (whole_keepCommand h) (whole_ite (whole_completeMoraine ?_) (ih ?_))
      · exact whole_updPort (whole_updChan (whole_sendUnit h))
      · exact whole_updPort (whole_updChan (whole_sendUnit h))

theorem whole_takeToks {s : State} {i g ts x} (h : TasksWhole s.tasks) : TasksWhole (s.takeToks i g ts x).1.tasks := by
  induction ts generalizing s x with
  | nil => exact h
  | cons t ts ih =>
    refine whole_ite_fst h ?_
    cases t with
    | elem cell =>
      dsimp -zeta only
      extract_lets w
      have hw : TasksWhole w.2.tasks := whole_writeRun h
      clear_value w
      split
      · exact hw
      · exact ih hw
    | scale k =>
      refine whole_ite_fst (ih h) (whole_ite_fst h ?_)
      extract_lets w
      have hw : TasksWhole w.2.tasks := whole_writeRun h
      clear_value w
      split
      · exact hw
      · exact ih hw
    | eos => exact h
    | poison o => exact h
    | _ => exact ih h

theorem whole_takeUnits {s : State} {i c p fuel} (h : TasksWhole s.tasks) : TasksWhole (s.takeUnits i c p fuel).tasks := by
  induction fuel generalizing s c with
  | zero => exact whole_keepCommand h
  | succ fuel ih =>
    unfold State.takeUnits
    conv => zeta
    refine whole_ite (whole_completeMoraine h) ?_
    split
    · exact whole_keepCommand h
    · split
      · exact whole_poisonStop (whole_consume (whole_takeToks h))
      · exact whole_ite (whole_completeMoraine (whole_consume (whole_takeToks h))) (ih (whole_consume (whole_takeToks h)))

theorem whole_startMoraine {s : State} {i c} (h : TasksWhole s.tasks) : TasksWhole (s.startMoraine i c).tasks :=
  whole_updCommand (whole_updTile (whole_takePop h))

theorem whole_progressMoraine {s : State} {i c n} (h : TasksWhole s.tasks) : TasksWhole (s.progressMoraine i c n).tasks := by
  unfold State.progressMoraine
  refine whole_ite (whole_completeMoraine h) ?_
  split
  · exact whole_ite (whole_sendUnits h) (whole_takeUnits h)
  · exact whole_runUnits h

theorem whole_eventMoraineStart {s : State} (h : TasksWhole s.tasks) : TasksWhole (eventMoraineStart s).tasks := by
  unfold eventMoraineStart
  conv => zeta
  split
  · exact whole_ite (whole_startMoraine h) h
  · exact h

theorem whole_eventMoraineComplete {s : State} (h : TasksWhole s.tasks) : TasksWhole (eventMoraineComplete s).tasks := by
  unfold eventMoraineComplete
  conv => zeta
  split
  · exact whole_ite (whole_ite (whole_retranslate h) h) (whole_ite (whole_ite (whole_runAccess h) h) (whole_ite (whole_progressMoraine h) h))
  · exact h

theorem whole_eventSeracStart {s : State} (h : TasksWhole s.tasks) : TasksWhole (eventSeracStart s).tasks := by
  unfold eventSeracStart
  conv => zeta
  split
  · exact whole_ite (whole_startSerac h) h
  · exact h

theorem whole_eventSeracStage {s : State} (h : TasksWhole s.tasks) : TasksWhole (eventSeracStage s).tasks := by
  unfold eventSeracStage
  conv => zeta
  split
  · split
    · exact whole_ite (whole_stageBlock h) h
    · exact h
  · exact h

theorem whole_eventSeracComplete {s : State} (h : TasksWhole s.tasks) : TasksWhole (eventSeracComplete s).tasks := by
  unfold eventSeracComplete
  conv => zeta
  split
  · exact whole_ite (whole_progressSerac h) h
  · exact h

/-! ### Planes -/

theorem whole_stopAll {s : State} {code} (h : TasksWhole s.tasks) : TasksWhole (s.stopAll code).tasks := whole_foldl h (fun _ _ => whole_stopLoad)

theorem whole_retirePlane {s : State} {p lost} (h : TasksWhole s.tasks) : TasksWhole (s.retirePlane p lost).tasks :=
  whole_ite (whole_mk (whole_stopAll (whole_mk h))) (whole_mk h)

theorem whole_eventRetirePlanned {s : State} (h : TasksWhole s.tasks) : TasksWhole (eventRetirePlanned s).tasks :=
  whole_ite h (whole_ite (whole_ite h (whole_foldl (whole_mk h) (fun _ _ => whole_updDie))) (whole_ite (whole_retirePlane h) h))

theorem whole_losePlane {s : State} {p} (h : TasksWhole s.tasks) : TasksWhole (s.losePlane p).tasks := whole_ite (whole_retirePlane h) h

theorem whole_eventPlaneFault {s : State} (h : TasksWhole s.tasks) : TasksWhole (eventPlaneFault s).tasks := whole_losePlane h

theorem whole_eventPlaneStall {s : State} (h : TasksWhole s.tasks) : TasksWhole (eventPlaneStall s).tasks := whole_ite (whole_losePlane h) h

theorem whole_eventRehashStop {s : State} (h : TasksWhole s.tasks) : TasksWhole (eventRehashStop s).tasks := by
  unfold eventRehashStop
  conv => zeta
  split
  · exact whole_ite h (whole_updDie (whole_mk h))
  · exact h

theorem whole_performWhole {s : State} {a} (h : TasksWhole s.tasks) : TasksWhole (s.performWhole a).tasks := by
  unfold State.performWhole
  conv => zeta
  refine whole_ite ?_ (whole_ite (whole_perform h) h)
  split
  · exact whole_addEvent (whole_ite (whole_perform h) h)
  · exact whole_repair (whole_writePa (whole_ite (whole_perform h) h))

theorem whole_resolveWrite {s : State} {a whole dead} (h : TasksWhole s.tasks) : TasksWhole (s.resolveWrite a whole dead).tasks := by
  unfold State.resolveWrite
  conv => zeta
  refine whole_ite (whole_dropAccess (whole_ite (whole_performWhole h) h)) ?_
  refine whole_raiseAsync (whole_updStrand ?_)
  split
  · exact whole_deliver (whole_dropAccess (whole_ite (whole_performWhole h) h))
  · exact whole_dropAccess (whole_ite (whole_performWhole h) h)

theorem whole_resolveLost {s : State} {dead choice l n} (h : TasksWhole s.tasks) : TasksWhole (s.resolveLost dead choice l n).tasks := by
  induction l generalizing s n with
  | nil => exact h
  | cons a l ih => exact whole_ite (ih (whole_updAccess h)) (ih (whole_resolveWrite h))

theorem whole_loseCommand {s : State} {i seq choice dead} (h : TasksWhole s.tasks) : TasksWhole (s.loseCommand i seq choice dead).tasks := by
  unfold State.loseCommand
  conv => zeta
  split
  · exact h
  · split
    · exact h
    · exact whole_poisonStop (whole_ite (whole_writeRun h) h)
    · refine whole_poisonStop (whole_foldl h (fun _ _ hu => whole_ite ?_ hu))
      split
      · next e => exact (whole_flightAccess hu).of_eq e
      · exact hu

theorem whole_resolveHost {s : State} {h' dead choice} (h : TasksWhole s.tasks) : TasksWhole (s.resolveHost h' dead choice).tasks :=
  whole_ite h (whole_ite (whole_putHost (whole_foldl h (fun _ _ hu => whole_ite (whole_hostAccess hu) hu))) (whole_mk h))

theorem whole_eventRehashDrained {s : State} (h : TasksWhole s.tasks) : TasksWhole (eventRehashDrained s).tasks := by
  unfold eventRehashDrained
  conv => zeta
  split
  · exact whole_ite h (whole_ite (whole_ite (whole_loseCommand (whole_updDie h)) (whole_updDie h)) (whole_ite (whole_updDie h) (whole_mk (whole_foldl
      (whole_resolveLost (whole_updDie h)) (fun _ _ => whole_resolveHost)))))
  · exact h

theorem whole_eventRehashCommit {s : State} (h : TasksWhole s.tasks) : TasksWhole (eventRehashCommit s).tasks := by
  unfold eventRehashCommit
  conv => zeta
  split
  · exact whole_ite h (whole_ite (whole_updDie (whole_mk h)) (whole_updDie h))
  · exact h

theorem whole_eventRehashCommitted {s : State} (h : TasksWhole s.tasks) : TasksWhole (eventRehashCommitted s).tasks := by
  unfold eventRehashCommitted
  conv => zeta
  split
  · exact whole_ite (whole_mk h) h
  · exact h

theorem whole_eventRehashResume {s : State} (h : TasksWhole s.tasks) : TasksWhole (eventRehashResume s).tasks := by
  unfold eventRehashResume
  conv => zeta
  split
  · exact whole_ite h (whole_signalOwner (whole_mk (whole_resendPlds (whole_mk (whole_updDie h)))))
  · exact h

theorem whole_dropRange {s : State} {v} (h : TasksWhole s.tasks) : TasksWhole (s.dropRange v).tasks := whole_mk h

theorem whole_eventXinvComplete {s : State} (h : TasksWhole s.tasks) : TasksWhole (eventXinvComplete s).tasks := by
  unfold eventXinvComplete
  conv => zeta
  refine whole_ite h ?_
  refine whole_ite ?_ ?_
  · split
    · exact whole_updDie (whole_dropRange h)
    · exact h
  · split
    · exact whole_ite (whole_updDie h) h
    · exact h

/-! ### Register images -/

theorem whole_putEvents {s : State} {i es} (h : TasksWhole s.tasks) : TasksWhole (s.putEvents i es).tasks := whole_foldl h (fun _ _ => whole_putEvent)

theorem whole_putPorts {s : State} {i base ps} (h : TasksWhole s.tasks) : TasksWhole (s.putPorts i base ps).tasks :=
  whole_foldl h (fun _ _ => whole_updPort)

theorem whole_saveContext {s : State} {i} (h : TasksWhole s.tasks) : TasksWhole (s.saveContext i).2.tasks := whole_mk h

theorem whole_putStrand {s : State} {who st code} (h : TasksWhole s.tasks) : TasksWhole (s.putStrand who st code).tasks := by
  unfold State.putStrand
  conv => zeta
  split
  · exact whole_ite (whole_goTo (whole_setStrand h)) (whole_setStrand h)
  · exact whole_setStrand h

/-- A context's image gives every vector register 1,024 cells. -/
theorem vectorsWhole_of_image {t : Task} {bs : List Byte} {l : List Nat} {at' : Nat → Nat}
    (e : t.v = ⟨l.map (fun i => (i, (List.range 1024).map (fun k => BitVec.ofNat 32 (bytesAt bs (at' i + 4 * k) 4))))⟩) : t.VectorsWhole :=
  Task.vectorsWhole_of_tabulated (fun _ => by rw [List.length_map, List.length_range]) e

theorem whole_loadContext {s : State} {i bs} (h : TasksWhole s.tasks) : SomeWhole (s.loadContext i bs) := by
  unfold State.loadContext
  conv => zeta
  split
  · trivial
  · split
    · trivial
    · exact whole_putPorts (whole_putEvents (whole_mk (whole_putStrand (whole_putStrand (whole_setTask h (vectorsWhole_of_image rfl))))))

/-! ### Saving and restoring a graph -/

theorem whole_eventQtoExpire {s : State} (h : TasksWhole s.tasks) : TasksWhole (eventQtoExpire s).tasks := by
  unfold eventQtoExpire
  conv => zeta
  split
  · exact whole_ite (whole_updDie (whole_foldl h (fun _ _ hu => whole_updStrand (whole_updStrand hu)))) h
  · exact h

theorem whole_parkPlds {s : State} {leader ls die} (h : TasksWhole s.tasks) : TasksWhole (s.parkPlds leader ls die).tasks := whole_updDie (whole_mk h)

theorem whole_eventStillTimeout {s : State} (h : TasksWhole s.tasks) : TasksWhole (eventStillTimeout s).tasks := by
  unfold eventStillTimeout
  conv => zeta
  split
  · split
    · refine whole_ite h ?_
      split
      · exact h
      · exact whole_ite (whole_setRegion h) (whole_ite (whole_stopLoad h) h)
    · exact h
  · exact h

theorem whole_savePart {s : State} {die queue area on} (h : TasksWhole s.tasks) : TasksWhole (s.savePart die queue area on).tasks :=
  whole_mk (whole_mapVals
    (whole_foldl (whole_foldl (whole_foldl h (fun _ _ hu => whole_foldl hu (fun _ _ hy => whole_ite (whole_parkPlds hy) hy)))
      (fun _ _ => whole_writeVirtual)) (fun _ _ => whole_writeVirtual))
    (fun _ _ => by split <;> rfl))

theorem whole_finishSave {s : State} {die queue area bytes} (h : TasksWhole s.tasks) : TasksWhole (s.finishSave die queue area bytes).tasks :=
  whole_updDie (whole_updQueue (whole_mk (whole_writeVirtual h)))

theorem whole_saveAll {s : State} {die p} (h : TasksWhole s.tasks) : TasksWhole (s.saveAll die p).tasks := by
  unfold State.saveAll
  conv => zeta
  split
  · exact whole_stopLoad h
  · exact whole_finishSave (whole_savePart (whole_mk h))

theorem whole_eventQuiescent {s : State} (h : TasksWhole s.tasks) : TasksWhole (eventQuiescent s).tasks := by
  unfold eventQuiescent
  conv => zeta
  split
  · exact whole_ite h (whole_ite (whole_ite (whole_parkPlds (whole_updDie h)) h) (whole_ite (whole_saveAll h) h))
  · exact h

theorem whole_eventSaveComplete {s : State} (h : TasksWhole s.tasks) : TasksWhole (eventSaveComplete s).tasks := by
  unfold eventSaveComplete
  conv => zeta
  split
  · refine whole_ite h ?_
    split
    · exact whole_ite h (whole_endRequest (whole_mk (whole_filter (whole_foldl h (fun _ _ => whole_vacate)) (fun _ _ _ => rfl))))
    · exact whole_endRequest h
  · exact h

theorem whole_placeTask {s : State} {g i t bs} (h : TasksWhole s.tasks) : TasksWhole (s.placeTask g i t bs).tasks :=
  whole_putEvents (whole_setStrand (whole_setStrand (whole_setTask (whole_writeTile h) (vectorsWhole_of_image rfl))))

theorem whole_loadPart {s : State} {g images on} (h : TasksWhole s.tasks) : TasksWhole (s.loadPart g images on).tasks := by
  unfold State.loadPart
  conv => zeta
  exact whole_foldl (whole_foldl (whole_foldl (whole_foldl h (fun _ _ => whole_setChan)) (fun _ _ => whole_setPort)) (fun _ _ =>
    whole_setRegion)) (fun _ _ hu3 => by
    split
    · exact whole_placeTask hu3
    · exact hu3)

theorem whole_applyKept {s : State} {die e} (h : TasksWhole s.tasks) : TasksWhole (s.applyKept die e).tasks := by
  unfold State.applyKept
  split
  · exact h
  · split
    · next e => exact whole_answered (whole_updDie ((whole_act h).of_eq e))
    · exact whole_answered h

theorem whole_releaseEntries {s : State} {ids} (h : TasksWhole s.tasks) : TasksWhole (s.releaseEntries ids).tasks :=
  whole_foldl (whole_mk h) (fun _ _ => whole_applyKept)

theorem whole_resumePart {s : State} {g on} (h : TasksWhole s.tasks) : TasksWhole (s.resumePart g on).tasks :=
  whole_releaseEntries (whole_foldl (whole_foldl (whole_mk (whole_mapVals h (fun _ _ => by split <;> rfl))) (fun _ _ => whole_resendPlds))
    (fun _ _ hu => whole_foldl hu (fun _ _ => whole_retranslate)))

theorem whole_finishRestore {s : State} {die queue g} (h : TasksWhole s.tasks) : TasksWhole (s.finishRestore die queue g).tasks :=
  whole_endRequest (whole_updQueue (whole_mk (whole_foldl h (fun _ _ => whole_updLoad))))

theorem whole_eventRestoreComplete {s : State} (h : TasksWhole s.tasks) : TasksWhole (eventRestoreComplete s).tasks := by
  unfold eventRestoreComplete
  conv => zeta
  split
  · split
    · refine whole_ite h ?_
      split
      · exact whole_endRequest h
      · exact whole_stopLoad h
      · exact whole_ite h (whole_ite (whole_endRequest h) (whole_finishRestore (whole_resumePart (whole_loadPart h))))
    · exact h
  · exact h

/-! ### Detectors and counters -/

theorem whole_watch {before} {s : State} (h : TasksWhole s.tasks) : TasksWhole (State.watch before s).tasks := whole_mk h

theorem whole_updDetector {s : State} {l die f} (h : TasksWhole s.tasks) : TasksWhole (s.updDetector l die f).tasks := whole_updLoad h

theorem whole_eventDeadlock {s : State} (h : TasksWhole s.tasks) : TasksWhole (eventDeadlock s).tasks := by
  unfold eventDeadlock
  conv => zeta
  split
  · exact whole_ite (whole_ite (whole_raiseEntry (whole_updDetector h)) (whole_updDetector h)) h
  · exact h

/-! ### Events of the fault system -/

theorem whole_eventEntryWrite {s : State} (h : TasksWhole s.tasks) : TasksWhole (eventEntryWrite s).tasks := whole_ite (whole_writeEntry h) h

theorem whole_eventLoadStop {s : State} (h : TasksWhole s.tasks) : TasksWhole (eventLoadStop s).tasks := whole_ite (whole_stopLoad h) h

theorem whole_eventLoadStopped {s : State} (h : TasksWhole s.tasks) : TasksWhole (eventLoadStopped s).tasks := whole_ite (whole_finish h) h

theorem whole_eventScrub {s : State} (h : TasksWhole s.tasks) : TasksWhole (eventScrub s).tasks := whole_ite (whole_raiseEntry (whole_mk h)) h

/-! ### Gangs -/

theorem whole_updGang {s : State} {l f} (h : TasksWhole s.tasks) : TasksWhole (s.updGang l f).tasks := whole_updLoad h

theorem whole_gangRecord {s : State} {l g event ok} (h : TasksWhole s.tasks) : TasksWhole (s.gangRecord l g event ok).tasks :=
  whole_signalQueue (whole_writeVirtual h)

theorem whole_beginRound {s : State} {l k} (h : TasksWhole s.tasks) : TasksWhole (s.beginRound l k).tasks := by
  unfold State.beginRound
  conv => zeta
  split
  · exact whole_updGang h
  · exact whole_updDie (whole_mk (whole_updGang h))
  · exact whole_updDie (whole_updGang h)

theorem whole_prepare {s : State} {l g d} (h : TasksWhole s.tasks) : TasksWhole (s.prepare l g d).tasks := by
  unfold State.prepare
  conv => zeta
  split
  · exact whole_ite (whole_updGang h) h
  · exact whole_ite (whole_updGang (whole_gateSources h)) h
  · split
    · split
      · exact whole_endRequest (whole_updGang h)
      · exact whole_stopLoad h
      · exact whole_ite h (whole_ite (whole_endRequest (whole_updGang h)) (whole_updGang (whole_loadPart h)))
    · exact h

theorem whole_eventGangArm {s : State} (h : TasksWhole s.tasks) : TasksWhole (eventGangArm s).tasks := by
  unfold eventGangArm
  conv => zeta
  split
  · exact h
  · refine whole_ite (whole_ite (whole_beginRound h) h) ?_
    split
    · exact whole_ite (whole_prepare h) h
    · exact h

theorem whole_eventGangAck {s : State} (h : TasksWhole s.tasks) : TasksWhole (eventGangAck s).tasks := by
  unfold eventGangAck
  conv => zeta
  split
  · exact h
  · split
    · exact whole_ite (whole_updGang h) h
    · exact h

theorem whole_actFor {s : State} {l g d} (h : TasksWhole s.tasks) : TasksWhole (s.actFor l g d).tasks := by
  unfold State.actFor
  conv => zeta
  split
  · exact whole_mk (whole_updGang (whole_ite (whole_loadCounts h) h))
  · split
    · split
      · exact whole_stopLoad h
      · exact whole_updGang (whole_updDie (whole_savePart h))
    · exact h
  · split
    · exact whole_updGang (whole_resumePart h)
    · exact h

theorem whole_eventGangCommit {s : State} (h : TasksWhole s.tasks) : TasksWhole (eventGangCommit s).tasks := by
  unfold eventGangCommit
  conv => zeta
  split
  · exact h
  · split
    · split
      · exact whole_ite (whole_actFor (whole_ite (whole_updGang h) h)) (whole_ite (whole_updGang h) h)
      · exact whole_ite (whole_updGang h) h
    · exact h

theorem whole_endRound {s : State} {l g} (h : TasksWhole s.tasks) : TasksWhole (s.endRound l g).tasks := by
  unfold State.endRound
  conv => zeta
  split
  · exact whole_startLoad (whole_updGang (whole_ite (whole_gangRecord h) h))
  · exact whole_finishSave (whole_updGang (whole_ite (whole_gangRecord h) h))
  · exact whole_finishRestore (whole_updGang (whole_ite (whole_gangRecord h) h))
  · exact whole_updGang (whole_ite (whole_gangRecord h) h)

theorem whole_eventGangCommitted {s : State} (h : TasksWhole s.tasks) : TasksWhole (eventGangCommitted s).tasks := by
  unfold eventGangCommitted
  conv => zeta
  split
  · exact h
  · split
    · exact whole_ite (whole_ite (whole_endRound (whole_updGang h)) (whole_updGang h)) h
    · exact h

theorem whole_split {s : State} {l g} (h : TasksWhole s.tasks) : TasksWhole (s.split l g).tasks :=
  whole_ite (whole_mk (whole_updGang (whole_stopLoad (whole_gangRecord h)))) (whole_updGang (whole_stopLoad (whole_gangRecord h)))

theorem whole_eventGangExpire {s : State} (h : TasksWhole s.tasks) : TasksWhole (eventGangExpire s).tasks := by
  unfold eventGangExpire
  conv => zeta
  split
  · exact h
  · exact whole_ite h (whole_ite (whole_updGang (whole_gangRecord h)) (whole_ite (whole_updGang h) (whole_ite (whole_split h) h)))

theorem whole_unloadPart {s : State} {g on} (h : TasksWhole s.tasks) : TasksWhole (s.unloadPart g on).tasks :=
  whole_mk (whole_filter h (fun _ _ _ => rfl))

theorem whole_undo {s : State} {l g d} (h : TasksWhole s.tasks) : TasksWhole (s.undo l g d).tasks := by
  unfold State.undo
  split
  · exact h
  · exact whole_reopen h
  · split
    · exact whole_unloadPart h
    · exact h

theorem whole_endAbort {s : State} {l g} (h : TasksWhole s.tasks) : TasksWhole (s.endAbort l g).tasks := by
  unfold State.endAbort
  conv => zeta
  split
  · exact whole_updGang h
  · exact whole_endRequest (whole_mk (whole_updGang h))
  · exact whole_endRequest (whole_updGang h)

theorem whole_eventGangAbort {s : State} (h : TasksWhole s.tasks) : TasksWhole (eventGangAbort s).tasks := by
  unfold eventGangAbort
  conv => zeta
  split
  · exact h
  · refine whole_ite h ?_
    split
    · exact whole_ite (whole_endAbort (whole_ite (whole_updGang (whole_undo h)) h)) (whole_ite (whole_updGang (whole_undo h)) h)
    · exact h

/-! ### Host functions -/

theorem whole_freezeAt {s : State} {f die o} (h : TasksWhole s.tasks) : TasksWhole (s.freezeAt f die o).tasks := whole_freeze h

theorem whole_hostWriteReg {s : State} {f die o v len} (h : TasksWhole s.tasks) : TasksWhole (s.hostWriteReg f die o v len).tasks := by
  unfold State.hostWriteReg
  refine whole_ite h ?_
  refine whole_ite ?_ (whole_ite (whole_freezeAt h) (whole_ite (whole_claim h) (whole_ite (whole_reject h) (whole_ctrlWrite h))))
  split
  · exact whole_ite (whole_freezeAt h) (whole_ite (whole_ctrlWrite h) h)
  · exact h

theorem whole_completes {s : State} {f aborted data} (h : TasksWhole s.tasks) : TasksWhole (s.completes f aborted data).tasks := whole_mk h

theorem whole_hostReadReg {s : State} {f die o len} (h : TasksWhole s.tasks) : TasksWhole (s.hostReadReg f die o len).tasks := by
  unfold State.hostReadReg
  conv => zeta
  refine whole_ite h ?_
  refine whole_ite (whole_completes h) ?_
  refine whole_ite ?_ (whole_ite (whole_completes (whole_freezeAt h)) (whole_completes (whole_ctrlRead h)))
  split
  · exact whole_ite (whole_completes (whole_freezeAt h)) (whole_completes h)
  · exact h

theorem whole_freezeCause {s : State} {x} (h : TasksWhole s.tasks) : TasksWhole (s.freezeCause x).2.tasks := by
  unfold State.freezeCause
  split
  · exact h
  · exact whole_ite_snd h (whole_draw h)
  · exact whole_draw h

theorem whole_hostViolates {s : State} {die f va x} (h : TasksWhole s.tasks) : TasksWhole (s.hostViolates die f va x).tasks :=
  whole_freeze (whole_freezeCause h)

theorem whole_hostStep {s : State} {num k} (h : TasksWhole s.tasks) : TasksWhole (s.hostStep num k).tasks := by
  unfold State.hostStep
  conv => zeta
  split
  · exact whole_ite (whole_putHost (whole_hostAccess h)) h
  · exact h

theorem whole_hostMemory {s : State} {f die va len write data} (h : TasksWhole s.tasks) : TasksWhole (s.hostMemory f die va len write data).tasks :=
    by
  unfold State.hostMemory
  conv => zeta
  refine whole_ite h ?_
  refine whole_ite (whole_ite h (whole_completes h)) ?_
  refine whole_ite h ?_
  split
  · exact whole_ite (whole_hostViolates h) (whole_completes (whole_hostViolates h))
  · exact whole_mk h

theorem whole_hostWhole {s : State} {num} (h : TasksWhole s.tasks) : TasksWhole (s.hostWhole num).tasks := by
  unfold State.hostWhole
  split
  · exact whole_foldl h (fun _ _ => whole_hostStep)
  · exact h

theorem whole_eventHostMemory {s : State} (h : TasksWhole s.tasks) : TasksWhole (eventHostMemory s).tasks := by
  unfold eventHostMemory
  conv => zeta
  refine whole_ite (whole_ite (whole_hostWriteReg h) (whole_hostReadReg h)) ?_
  split
  · exact whole_hostWhole (whole_hostMemory h)
  · exact whole_hostMemory h
  · exact whole_hostStep h

theorem whole_hostAtomic {s : State} {f die va len op v cmp performed} (h : TasksWhole s.tasks) : TasksWhole (s.hostAtomic f die va len op v cmp
    performed).tasks := by
  unfold State.hostAtomic
  conv => zeta
  refine whole_ite h ?_
  refine whole_ite (whole_ite (whole_completes h) h) ?_
  refine whole_ite h ?_
  split
  · exact whole_ite (whole_completes (whole_hostViolates h)) h
  · exact whole_ite h (whole_ite (whole_completes h) (whole_ite (whole_completes (whole_ite (whole_ite h (whole_homeWrite h)) h)) (whole_completes
      (whole_ite h (whole_homeWrite h)))))

theorem whole_eventHostAtomic {s : State} (h : TasksWhole s.tasks) : TasksWhole (eventHostAtomic s).tasks := whole_hostAtomic h

theorem whole_eventFlr {s : State} (h : TasksWhole s.tasks) : TasksWhole (eventFlr s).tasks := whole_mk h

theorem whole_eventWrite {s : State} {o} (h : TasksWhole s.tasks) : TasksWhole (s.eventWrite o).tasks := whole_hostWriteReg h

theorem whole_eventRegisterWrite {s : State} (h : TasksWhole s.tasks) : TasksWhole (eventRegisterWrite s).tasks :=
  whole_ite (whole_ite (whole_ctrlWrite h) h) (whole_eventWrite h)

theorem whole_eventQueueEnable {s : State} (h : TasksWhole s.tasks) : TasksWhole (eventQueueEnable s).tasks := whole_eventWrite h

theorem whole_eventTailWrite {s : State} (h : TasksWhole s.tasks) : TasksWhole (eventTailWrite s).tasks := whole_eventWrite h

theorem whole_eventXinvStart {s : State} (h : TasksWhole s.tasks) : TasksWhole (eventXinvStart s).tasks := whole_eventWrite h

theorem whole_eventSwapRequest {s : State} (h : TasksWhole s.tasks) : TasksWhole (eventSwapRequest s).tasks := whole_eventWrite h

theorem whole_eventSaveRequest {s : State} (h : TasksWhole s.tasks) : TasksWhole (eventSaveRequest s).tasks :=
  whole_ite (whole_beginSave h) (whole_ite (whole_eventWrite h) h)

theorem whole_eventRestoreRequest {s : State} (h : TasksWhole s.tasks) : TasksWhole (eventRestoreRequest s).tasks := whole_ite (whole_eventWrite h) h

theorem whole_eventFqctl {s : State} (h : TasksWhole s.tasks) : TasksWhole (eventFqctl s).tasks := whole_eventWrite h

theorem whole_eventTilehalt {s : State} (h : TasksWhole s.tasks) : TasksWhole (eventTilehalt s).tasks := whole_eventWrite h

theorem whole_eventOwnClaim {s : State} (h : TasksWhole s.tasks) : TasksWhole (eventOwnClaim s).tasks := whole_eventWrite h

theorem whole_eventOwnHand {s : State} (h : TasksWhole s.tasks) : TasksWhole (eventOwnHand s).tasks := whole_eventWrite h

theorem whole_eventPwrTile {s : State} (h : TasksWhole s.tasks) : TasksWhole (eventPwrTile s).tasks := whole_eventWrite h

theorem whole_eventPwrReg {s : State} (h : TasksWhole s.tasks) : TasksWhole (eventPwrReg s).tasks := whole_eventWrite h

theorem whole_respondWith {s : State} {action} (h : TasksWhole s.tasks) : TasksWhole (s.respondWith action).tasks :=
  whole_ite (whole_hostWriteReg (whole_eventWrite h)) h

/-! ### Links and the ring -/

theorem whole_updLink {s : State} {die plane l f} (h : TasksWhole s.tasks) : TasksWhole (s.updLink die plane l f).tasks := whole_updDie h

theorem whole_trainTo {s : State} {die plane l tx rx} (h : TasksWhole s.tasks) : TasksWhole (s.trainTo die plane l tx rx).tasks :=
  whole_updLink (whole_updLink h)

theorem whole_retireNarrow {s : State} {plane l tx rx} (h : TasksWhole s.tasks) : TasksWhole (s.retireNarrow plane l tx rx).tasks :=
  whole_ite (whole_retirePlane h) h

theorem whole_eventLaneRemove {s : State} (h : TasksWhole s.tasks) : TasksWhole (eventLaneRemove s).tasks :=
  whole_ite h (whole_retireNarrow (whole_trainTo h))

theorem whole_eventTurnaround {s : State} (h : TasksWhole s.tasks) : TasksWhole (eventTurnaround s).tasks :=
  whole_ite h (whole_ite h (whole_ite (whole_trainTo h) (whole_trainTo h)))

theorem whole_eventRetrain {s : State} (h : TasksWhole s.tasks) : TasksWhole (eventRetrain s).tasks := by
  unfold eventRetrain
  conv => zeta
  split
  · exact h
  · exact whole_updLink h

theorem whole_eventSlotArrive {s : State} (h : TasksWhole s.tasks) : TasksWhole (eventSlotArrive s).tasks :=
  whole_ite (whole_ite (whole_monitor (whole_mk h)) (whole_ite (whole_mk h) (whole_mk h))) h

theorem whole_eventResend {s : State} (h : TasksWhole s.tasks) : TasksWhole (eventResend s).tasks := by
  unfold eventResend
  conv => zeta
  split
  · exact whole_mk h
  · exact h

/-! ### The module's management -/

theorem whole_powerAll {s : State} {pkg} (h : TasksWhole s.tasks) : TasksWhole (s.powerAll pkg).tasks :=
  whole_foldl h (fun _ _ hu => whole_foldl (whole_updDie hu) (fun _ _ => whole_updRegion))

theorem whole_eventBoot {s : State} (h : TasksWhole s.tasks) : TasksWhole (eventBoot s).tasks :=
  whole_ite h (whole_ite (whole_powerAll (whole_setPkg h)) (whole_setPkg h))

theorem whole_resetModule {s : State} {pkg} (h : TasksWhole s.tasks) : TasksWhole (s.resetModule pkg).tasks :=
  whole_mk (whole_filter (whole_killTasks h) (fun _ _ _ => rfl))

theorem whole_eventRecovery {s : State} (h : TasksWhole s.tasks) : TasksWhole (eventRecovery s).tasks :=
  whole_ite (whole_resetModule (whole_setPkg h)) h

theorem whole_eventThrottle {s : State} (h : TasksWhole s.tasks) : TasksWhole (eventThrottle s).tasks := whole_updDie h

theorem whole_eventThermalReset {s : State} (h : TasksWhole s.tasks) : TasksWhole (eventThermalReset s).tasks := whole_resetModule h

theorem whole_eventInstallKey {s : State} (h : TasksWhole s.tasks) : TasksWhole (eventInstallKey s).tasks := whole_ite (whole_updPkg h) h

theorem whole_eventAttest {s : State} (h : TasksWhole s.tasks) : TasksWhole (eventAttest s).tasks := whole_ite (whole_updPkg h) h

theorem whole_sealGranules {s : State} {die slot} (h : TasksWhole s.tasks) : TasksWhole (s.sealGranules die slot).tasks :=
  whole_foldl h (fun _ _ => whole_mk)

theorem whole_eventLoadEncKey {s : State} (h : TasksWhole s.tasks) : TasksWhole (eventLoadEncKey s).tasks :=
  whole_ite (whole_foldl h (fun _ _ hu => whole_updDie (whole_sealGranules hu))) h

theorem whole_eventUpdateFw {s : State} (h : TasksWhole s.tasks) : TasksWhole (eventUpdateFw s).tasks := whole_ite (whole_updPkg h) h

theorem whole_eventHostLink {s : State} (h : TasksWhole s.tasks) : TasksWhole (eventHostLink s).tasks := whole_updPkg h

theorem whole_eventVacancy {s : State} (h : TasksWhole s.tasks) : TasksWhole (eventVacancy s).tasks :=
  whole_ite (whole_disableRings (whole_setPkg h)) h

theorem whole_eventPowerUp {s : State} (h : TasksWhole s.tasks) : TasksWhole (eventPowerUp s).tasks :=
  whole_ite (whole_ite (whole_updRegion (whole_setDie h)) h) (whole_ite (whole_setDie h) h)

theorem whole_eventClockGate {s : State} (h : TasksWhole s.tasks) : TasksWhole (eventClockGate s).tasks := whole_ite (whole_updTile h) h

theorem whole_eventClash {s : State} (h : TasksWhole s.tasks) : TasksWhole (eventClash s).tasks := whole_ite (whole_updPkg h) h

theorem whole_eventBridge {s : State} (h : TasksWhole s.tasks) : TasksWhole (eventBridge s).tasks :=
  whole_ite (whole_foldl (whole_mk h) (fun _ _ => whole_updDie)) h

/-! ### Turns -/

theorem whole_atStrand {s : State} {who mate} (h : TasksWhole s.tasks) : TasksWhole (s.atStrand who mate).tasks := whole_updCur h

theorem whole_clearYields {s : State} {t c issued} (h : TasksWhole s.tasks) : TasksWhole (s.clearYields t c issued).tasks := whole_mk h

theorem whole_tick {s : State} (h : TasksWhole s.tasks) : TasksWhole s.tick.tasks := whole_mk h

theorem whole_endCycle {before} {s : State} (h : TasksWhole s.tasks) : TasksWhole (endCycle before s).tasks :=
  whole_watch (whole_tick (whole_commit h))

end Sys2Proof.Machine
end

section
/-! ## Vector registers stay whole: the rules of a body -/

namespace Sys2Proof.Machine

/-- A computation that keeps the vector registers whole and whose value has a property. -/
def WholeWith {α : Type} (m : M α) (Q : α → Prop) : Prop := ∀ s, TasksWhole s.tasks → ∀ a t, m s = .ok (a, t) → TasksWhole t.tasks ∧ Q a

/-- A computation that keeps the vector registers whole. -/
def Whole {α : Type} (m : M α) : Prop := WholeWith m (fun _ => True)

section
variable {α β : Type}

theorem WholeWith.andThen {m : M α} {k : α → M β} {Q : α → Prop} {R : β → Prop} (hm : WholeWith m Q) (hk : ∀ a, Q a → WholeWith (k a) R) :
    WholeWith (m >>= k) R := by
  intro s hs b t e
  replace e : (m s).bind (fun p => k p.1 p.2) = .ok (b, t) := e
  cases hm' : m s with
  | error x =>
    rw [hm'] at e
    cases e
  | ok p =>
    rw [hm'] at e
    obtain ⟨hp, hq⟩ := hm s hs p.1 p.2 hm'
    exact hk p.1 hq p.2 hp b t e

theorem wholeWith_pure {Q : α → Prop} {a : α} (ha : Q a) : WholeWith (pure a : M α) Q := by
  rintro s hs _ _ ⟨⟩
  exact ⟨hs, ha⟩

theorem wholeWith_throw {Q : α → Prop} {x : Stop} : WholeWith (throw x : M α) Q := by
  rintro s hs _ _ ⟨⟩

theorem wholeWith_get : WholeWith (get : M State) (fun s => TasksWhole s.tasks) := by
  rintro s hs _ _ ⟨⟩
  exact ⟨hs, hs⟩

theorem WholeWith.whole {m : M α} {Q : α → Prop} (h : WholeWith m Q) : Whole m := fun s hs a t e => ⟨(h s hs a t e).1, trivial⟩

theorem wholeWith_ite {p : Prop} [Decidable p] {m n : M α} {Q : α → Prop} (hm : WholeWith m Q) (hn : WholeWith n Q) :
    WholeWith (if p then m else n) Q := by
  split
  · exact hm
  · exact hn

theorem WholeWith.bind {m : M α} {k : α → M β} {Q : α → Prop} (hm : WholeWith m Q) (hk : ∀ a, Q a → Whole (k a)) : Whole (m >>= k) :=
  hm.andThen hk

theorem Whole.bind {m : M α} {k : α → M β} (hm : Whole m) (hk : ∀ a, Whole (k a)) : Whole (m >>= k) := hm.andThen (fun a _ => hk a)

theorem whole_pure {a : α} : Whole (pure a : M α) := wholeWith_pure trivial

theorem whole_throw {x : Stop} : Whole (throw x : M α) := wholeWith_throw

theorem whole_get : Whole (get : M State) := wholeWith_get.whole

theorem whole_iteM {p : Prop} [Decidable p] {m n : M α} (hm : Whole m) (hn : Whole n) : Whole (if p then m else n) := wholeWith_ite hm hn

theorem whole_modify {f : State → State} (hf : ∀ s : State, TasksWhole s.tasks → TasksWhole (f s).tasks) : Whole (modify f : M Unit) := by
  rintro s hs _ _ ⟨⟩
  exact ⟨hf s hs, trivial⟩

theorem whole_put {t : State} (h : TasksWhole t.tasks) : Whole (set t : M Unit) := by
  rintro s hs _ _ ⟨⟩
  exact ⟨h, trivial⟩

end

/-! ### Lengths of what the lane words write -/

theorem length_blend (m : Nat) (keep : Bool) {new old : List Word32} (hn : new.length = 1024) (ho : old.length = 1024) :
    (blend m keep new old).length = 1024 := by
  have := blend_eq m keep new old 0
  rw [pow_zero, Nat.div_one] at this
  simp [this, hn, ho]

theorem length_zip3 {α β γ δ : Type} (f : α → β → γ → δ) {n : Nat} {as : List α} {bs : List β} {cs : List γ} (ha : as.length = n) (hb : bs.length = n)
    (hc : cs.length = n) : (zip3 f as bs cs).length = n := by
  simp [zip3_eq_map, ha, hb, hc]

theorem length_flatMap_of_forall {α β : Type} {l : List α} {f : α → List β} {n : Nat} (h : ∀ a ∈ l, (f a).length = n) :
    (l.flatMap f).length = l.length * n := by
  rw [List.length_flatMap, List.map_congr_left h, List.map_const', List.sum_replicate, smul_eq_mul]

theorem length_fromCells (g : Nat → Nat → Word32) : (fromCells g).length = 1024 := by
  rw [fromCells, List.length_map, List.length_range]

theorem eq_map_range_getD {l : List Word32} {n : Nat} (h : l.length = n) : l = (List.range n).map (fun i => l.getD i 0) :=
  List.ext_getElem (by simp [h]) (fun i h1 _ => by simp [List.getD_eq_getElem?_getD, List.getElem?_eq_getElem h1])

theorem length_onRows {F : List Word32 → List Word32} {v : List Word32} (hv : v.length = 1024) (hF : ∀ l, l.length = 64 → (F l).length = 64) :
    (onRows F v).length = 1024 := by
  rw [onRows_eq hv (F := F) (fun r _ => eq_map_range_getD (hF _ (by simp))), length_fromCells]

theorem length_onColumns {F : List Word32 → List Word32} {v : List Word32} (hv : v.length = 1024) (hF : ∀ l, l.length = 16 → (F l).length = 16) :
    (onColumns F v).length = 1024 := by
  have hcells := onColumns_eq hv (F := F) (g := fun r c => (F ((List.range 16).map (fun r => cellAt v r c))).getD r 0)
    (fun c _ => eq_map_range_getD (hF _ (by simp)))
  rw [hcells, length_fromCells]

theorem length_byAxis {F G : List Word32 → List Word32} {v : List Word32} {rows : Bool} (hv : v.length = 1024)
    (hF : rows = true → ∀ l, l.length = 64 → (F l).length = 64) (hG : rows = false → ∀ l, l.length = 16 → (G l).length = 16) :
    (if rows then onRows F v else onColumns G v).length = 1024 := by
  cases rows with
  | true => exact length_onRows hv (hF rfl)
  | false => exact length_onColumns hv (hG rfl)

theorem length_rotateLine {len : Nat} (fill : Bool) (n : Nat) {line : List Word32} (h : line.length = len) : (rotateLine len fill n line).length = len := by
  unfold rotateLine rotateRight
  split
  · simp [h]
  · simp [h]

theorem length_broadcastLine (len n : Nat) (line : List Word32) : (broadcastLine len n line).length = len := List.length_replicate

theorem length_reduceLine (f : Format) (mod len : Nat) (hs : List Nat) (line : List Word32) : (reduceLine f mod len hs line).length = len :=
  List.length_replicate

theorem length_scanBy {α : Type} (comb : α → α → α) (hs : List Nat) (l : List α) : (scanBy comb hs l).length = l.length := by
  induction hs generalizing l with
  | nil => rfl
  | cons h hs ih =>
    rw [scanBy, ih]
    simp
    omega

theorem length_scanLine (f : Format) (mod : Nat) (hs : List Nat) {line : List Word32} (h : 0 < line.length) :
    (scanLine f mod hs line).length = line.length := by
  unfold scanLine
  rw [length_scanBy]
  split
  · simp
    omega
  · simp

theorem length_listSet {α : Type} (l : List α) (k : Nat) (f : α → α) : (listSet l k f).length = l.length := by
  induction l generalizing k with
  | nil => rfl
  | cons a as ih => cases k <;> simp [listSet, ih]

theorem length_overwrite (new old : List Word32) : (overwrite new old).length = old.length := by
  rw [overwrite_eq rfl, List.length_map, List.length_range]

theorem length_codeLanes (codes : List (BitVec 8 × Nat)) (same : Bool) (m : Nat) (old : List Word32) : (codeLanes codes same m old).length = old.length :=
  length_overwrite _ _

/-- The groups of a word's lanes are 1,024 elements together. -/
theorem groupSize_dvd (w : Fields) : groupSize w ∣ 1024 := by
  have h : fld w.e 11 10 < 4 := Nat.mod_lt _ (by decide)
  unfold groupSize
  interval_cases fld w.e 11 10 <;> decide

theorem length_piece {α : Type} {n m : Nat} {l p : List α} (hl : l.length = m * n) (hp : p ∈ pieces n m l) : p.length = n := by
  rw [pieces_eq] at hp
  obtain ⟨r, hr, rfl⟩ := List.mem_map.1 hp
  have hr := Nat.mul_le_mul_right n (Nat.succ_le_of_lt (List.mem_range.1 hr))
  rw [Nat.succ_mul, Nat.mul_comm r] at hr
  rw [List.length_take, List.length_drop]
  omega

/-- Lines of A picked by lines of B. -/
theorem length_pickedRows {a b : List Word32} (ha : a.length = 1024) (hb : b.length = 1024) (k : Nat) :
    (List.zipWith (picked k) (rowsOf a) (rowsOf b)).flatten.length = 1024 := by
  rw [rowsOf_eq_grid ha, rowsOf_eq_grid hb, zipWith_grid, ← List.flatMap_def, length_flatMap_of_forall (n := 64) (fun _ _ => by simp [picked])]
  simp

theorem length_pickedColumns {a b : List Word32} (ha : a.length = 1024) (hb : b.length = 1024) (k : Nat) :
    (transposed (List.zipWith (picked k) (transposed (rowsOf a) 64) (transposed (rowsOf b) 64)) 16).flatten.length = 1024 := by
  rw [rowsOf_eq_grid ha, rowsOf_eq_grid hb, transposed_grid, transposed_grid, zipWith_grid]
  have hcols := map_range_congr (n := 64) (fun c _ => eq_map_range_getD (n := 16)
    (l := picked k ((List.range 16).map (fun r => cellAt a r c)) ((List.range 16).map (fun r => cellAt b r c))) (by simp [picked]))
  rw [hcols]
  have hgrid := transposed_grid 64 16 (fun c r =>
    (picked k ((List.range 16).map (fun r => cellAt a r c)) ((List.range 16).map (fun r => cellAt b r c))).getD r 0)
  unfold grid at hgrid
  rw [hgrid]
  exact (congrArg List.length (flatten_grid _)).trans (length_fromCells _)

theorem length_currentScale (d : Format) (mode : Rnd) (xs : List Num) : (currentScale d mode xs).2.length = xs.length := by
  unfold currentScale
  split
  · exact List.length_map _
  · split <;> exact List.length_map _

theorem length_pieces {α : Type} (n m : Nat) (l : List α) : (pieces n m l).length = m := by
  rw [pieces_eq, List.length_map, List.length_range]

end Sys2Proof.Machine
end

section
/-! ## Vector registers stay whole: the bodies of the words

The lemma `whole_f` says so of the body `f`; `wholeWith_f` adds what it says of the value. -/

namespace Sys2Proof.Machine

/-! ### Shared operations -/

theorem whole_holdOn {α : Type} {x : Hold} : Whole (holdOn x : M α) := whole_throw

theorem whole_trapWith {α : Type} {t : Trap} : Whole (trapWith t : M α) := whole_throw

theorem whole_holdUnless {c h'} : Whole (holdUnless c h') := whole_iteM whole_pure whole_holdOn

theorem whole_trapIf {c t} : Whole (trapIf c t) := whole_iteM whole_trapWith whole_pure

theorem whole_theCore : Whole theCore := whole_get.bind fun _ => whole_pure

theorem whole_theStrand : Whole theStrand := whole_get.bind fun _ => whole_pure

theorem wholeWith_theTask : WholeWith theTask Task.VectorsWhole := wholeWith_get.andThen fun _ hs => wholeWith_pure (hs _)

theorem whole_theTask : Whole theTask := wholeWith_theTask.whole

theorem whole_modStrand {f} : Whole (modStrand f) := whole_modify fun _ h => whole_updStrand h

theorem whole_modTask {f : Task → Task} (hf : ∀ t, (f t).v = t.v) : Whole (modTask f) :=
  whole_modify (fun _ h => whole_updTask_of_v h (hf _))

theorem whole_theEvent {n} : Whole (theEvent n) := whole_get.bind fun _ => whole_pure

theorem whole_readReg {i} : Whole (readReg i) := whole_theStrand.bind fun _ => whole_pure

theorem whole_writeReg {i v} : Whole (writeReg i v) := whole_theCore.bind fun _ => whole_modStrand

theorem whole_writePred {i v} : Whole (writePred i v) := whole_iteM whole_pure whole_modStrand

theorem whole_pushQueue {q v} : Whole (pushQueue q v) := by
  unfold pushQueue
  refine whole_get.bind fun _ => whole_holdUnless.bind fun _ => Whole.bind (whole_modTask fun _ => Task.push_v _ _ _) fun _ => ?_
  exact whole_modify fun _ h => whole_mk h

/-- A task that a queue's head was taken from has its vector registers as before. -/
theorem Task.pop_v {t u : Task} {q : QueueName} {v : Word64} (e : t.pop q = some (v, u)) : u.v = t.v := by
  cases q
  all_goals
    simp only [Task.pop] at e
    split at e
    · cases e
    · cases e
      rfl

theorem whole_popQueue {q} : Whole (popQueue q) := by
  unfold popQueue
  refine whole_get.bind fun _ => whole_holdUnless.bind fun _ => wholeWith_theTask.bind fun t ht => ?_
  split
  · exact whole_holdOn
  · next e =>
    refine (whole_modify fun _ h => whole_updTask h fun _ => ht.of_v (Task.pop_v e)).bind fun _ => whole_modStrand.bind fun _ => ?_
    exact (whole_modify fun _ h => whole_mk h).bind fun _ => whole_pure

/-! ### Operands -/

theorem whole_source {o} : Whole (source o) := by
  unfold source
  exact whole_theCore.bind fun _ => by
    split
    · exact whole_readReg.bind fun _ => whole_pure
    · exact whole_readReg.bind fun _ => whole_pure
    · exact whole_pure
    · exact whole_get.bind fun _ => whole_pure
    · split
      · exact whole_popQueue.bind fun _ => whole_pure
      · exact whole_pure

theorem whole_sourceF32 {o} : Whole (sourceF32 o) := by
  unfold sourceF32
  split
  · exact whole_pure
  · exact whole_source.bind fun _ => whole_pure

theorem whole_destine {o v} : Whole (destine o v) := by
  unfold destine
  exact whole_theCore.bind fun _ => by
    split
    · exact whole_writeReg
    · exact whole_writeReg
    · split
      · exact whole_pushQueue
      · exact whole_pure
    · exact whole_pure

theorem whole_predOf {o} : Whole (predOf o) := whole_theStrand.bind fun _ => whole_pure

theorem whole_addressOf {w} : Whole (addressOf w) := by
  unfold addressOf
  conv => zeta
  exact whole_theCore.bind fun _ => whole_source.bind fun _ => by
    split
    · exact whole_source.bind fun _ => whole_pure
    · exact whole_iteM whole_pure whole_pure

theorem whole_addressOfStrided {w} : Whole (addressOfStrided w) :=
  whole_theCore.bind fun _ => whole_source.bind fun _ => whole_iteM whole_pure whole_pure

theorem whole_writeBack {w v} : Whole (writeBack w v) := by
  unfold writeBack
  split
  · exact whole_writeReg
  · exact whole_pure

theorem whole_afterOwn {a n} : Whole (afterOwn a n) := whole_get.bind fun _ => whole_holdUnless

theorem whole_formatOf {op w code loc} : Whole (formatOf op w code loc) := by
  unfold formatOf
  conv => zeta
  exact whole_theTask.bind fun _ => by
    split
    · exact whole_pure
    · exact whole_pure
    · exact whole_pure
    · exact whole_pure
    · exact whole_pure
    · exact whole_pure
    · exact whole_pure
    · exact whole_pure
    · exact whole_pure
    · exact whole_pure
    · exact whole_pure
    · exact whole_trapIf.bind fun _ => whole_pure

/-! ### Predicates -/

theorem whole_writeCond {d c v} : Whole (writeCond d c v) := whole_writePred.bind fun _ => whole_writePred

/-! ### Issue -/

theorem whole_takeTokens {core f w} : Whole (takeTokens core f w) := whole_iteM whole_pure (whole_modify fun _ h => whole_popTokens h)

theorem whole_putTokens {core f w} : Whole (putTokens core f w) := whole_iteM whole_pure (whole_modify fun _ h => whole_updCur h)

theorem whole_taintWritten {core i f w tainted} : Whole (taintWritten core i f w tainted) := by
  unfold taintWritten
  conv => zeta
  split
  · exact whole_pure
  · exact whole_modStrand

theorem whole_enqueue {e c} : Whole (enqueue e c) :=
  whole_get.bind fun _ => whole_modTask (fun _ => Task.setEngineState_v _ _ _)

theorem whole_runWord {i body} (hbody : Whole body) : Whole (runWord i body) := by
  unfold runWord
  conv => zeta
  refine whole_get.bind fun _ => ?_
  split
  · exact whole_holdOn
  · exact whole_trapWith
  · refine whole_takeTokens.bind fun _ => Whole.bind (whole_iteM whole_pure whole_modStrand) fun _ => whole_iteM ?_ ?_
    · split
      · exact whole_holdOn
      · split
        · exact whole_trapWith
        · exact hbody.bind fun _ => whole_taintWritten.bind fun _ => whole_iteM whole_pure (whole_putTokens.bind fun _ => whole_pure)
    · split
      · exact whole_enqueue.bind fun _ => whole_putTokens.bind fun _ => whole_pure
      · exact whole_putTokens.bind fun _ => whole_pure

theorem whole_pushCheck : Whole pushCheck := by
  unfold pushCheck
  exact whole_get.bind fun _ => by
    split
    · exact whole_trapWith
    · exact whole_pure

/-! ### Scalar words -/

theorem whole_arith {w op} : Whole (arith w op) :=
  whole_theCore.bind fun _ => whole_source.bind fun _ => whole_source.bind fun _ => whole_source.bind fun _ => whole_destine.bind fun _ => whole_pure

theorem whole_onBits {w op} : Whole (onBits w op) :=
  whole_theCore.bind fun _ => whole_source.bind fun _ => whole_source.bind fun _ => whole_destine.bind fun _ => whole_pure

theorem whole_floatOp {w op} : Whole (floatOp w op) :=
  whole_sourceF32.bind fun _ => whole_sourceF32.bind fun _ => whole_sourceF32.bind fun _ => whole_destine.bind fun _ => whole_pure

theorem whole_bodyMov {w} : Whole (bodyMov w) := whole_source.bind fun _ => whole_destine.bind fun _ => whole_pure

theorem whole_bodyMovi {w} : Whole (bodyMovi w) := whole_theCore.bind fun _ => whole_destine.bind fun _ => whole_pure

theorem whole_bodyMovhi {w} : Whole (bodyMovhi w) := whole_theCore.bind fun _ => whole_source.bind fun _ => whole_destine.bind fun _ => whole_pure

theorem whole_bodyCvtsx {w} : Whole (bodyCvtsx w) := whole_theCore.bind fun _ => whole_source.bind fun _ => whole_destine.bind fun _ => whole_pure

theorem whole_bodyLea {w} : Whole (bodyLea w) :=
  whole_source.bind fun _ => whole_source.bind fun _ => whole_source.bind fun _ => whole_destine.bind fun _ => whole_pure

theorem whole_bodyCmp {w} : Whole (bodyCmp w) :=
  whole_theCore.bind fun _ => whole_source.bind fun _ => whole_source.bind fun _ => whole_writeCond.bind fun _ => whole_pure

theorem whole_bodySel {w} : Whole (bodySel w) :=
  whole_source.bind fun _ => whole_source.bind fun _ => whole_predOf.bind fun _ => whole_destine.bind fun _ => whole_pure

theorem whole_bodyPlog {w} : Whole (bodyPlog w) := whole_predOf.bind fun _ => whole_predOf.bind fun _ => whole_writePred.bind fun _ => whole_pure

theorem whole_bodyPsave {w} : Whole (bodyPsave w) := whole_theStrand.bind fun _ => whole_destine.bind fun _ => whole_pure

theorem whole_bodyPrest {w} : Whole (bodyPrest w) := whole_source.bind fun _ => whole_modStrand.bind fun _ => whole_pure

theorem whole_bodyFcmp {w} : Whole (bodyFcmp w) :=
  whole_sourceF32.bind fun _ => whole_sourceF32.bind fun _ => whole_writeCond.bind fun _ => whole_pure

theorem whole_bodyFcvt {w} : Whole (bodyFcvt w) :=
  whole_formatOf.bind fun _ => whole_formatOf.bind fun _ => Whole.bind (whole_iteM whole_sourceF32 (whole_source.bind fun _ =>
    whole_pure)) fun _ => whole_destine.bind fun _ => whole_pure

theorem whole_tileAddress {w n} : Whole (tileAddress w n) := by
  unfold tileAddress
  exact whole_addressOf.bind fun _ => whole_get.bind fun _ => by
    split
    · exact whole_trapWith
    · exact whole_afterOwn.bind fun _ => whole_pure

theorem whole_bodyLdt {w} : Whole (bodyLdt w) :=
  whole_theCore.bind fun _ => whole_tileAddress.bind fun _ => whole_get.bind fun _ => whole_trapIf.bind fun _ => whole_writeBack.bind fun _ =>
    whole_destine.bind fun _ => whole_pure

theorem whole_bodyStt {w} : Whole (bodyStt w) :=
  whole_theCore.bind fun _ => whole_source.bind fun _ => whole_tileAddress.bind fun _ => Whole.bind (whole_modify fun _ h =>
    whole_writeTile h) fun _ => whole_writeBack.bind fun _ => whole_pure

/-! ### Lanes -/

theorem wholeWith_readVec {n} : WholeWith (readVec n) (fun l => l.length = 1024) :=
  wholeWith_theTask.andThen fun _ ht => wholeWith_pure (ht.length_vec n)

theorem whole_readVec {n} : Whole (readVec n) := wholeWith_readVec.whole

theorem whole_writeVec {n} {cells : List Word32} (hc : cells.length = 1024) : Whole (writeVec n cells) :=
  whole_modify fun _ h => whole_updTask h fun ht => ht.of_set hc rfl

theorem whole_writeLanes {w} {cells : List Word32} (hc : cells.length = 1024) : Whole (writeLanes w cells) :=
  whole_iteM
    (wholeWith_theTask.bind fun _ ht => whole_modify fun _ h => whole_updTask h fun hx => hx.of_set (length_blend _ _ hc (ht.length_vec _)) rfl)
    (whole_writeVec hc)

theorem whole_readMask {n} : Whole (readMask n) := whole_theTask.bind fun _ => whole_pure

theorem whole_writeMask {n v} : Whole (writeMask n v) := whole_modTask fun _ => rfl

theorem wholeWith_operandW {f o} : WholeWith (operandW f o) (fun l => l.length = 1024) := by
  unfold operandW
  conv => zeta
  split
  · exact wholeWith_readVec
  · exact wholeWith_pure List.length_replicate
  · exact whole_source.andThen fun _ _ => wholeWith_pure List.length_replicate

theorem whole_operandW {f o} : Whole (operandW f o) := wholeWith_operandW.whole

theorem whole_lanewise {w fp int three} : Whole (lanewise w fp int three) :=
  wholeWith_operandW.bind fun _ ha => wholeWith_operandW.bind fun _ hb => (wholeWith_ite wholeWith_operandW (wholeWith_pure hb)).bind fun _ hc =>
    (whole_writeLanes (length_zip3 _ ha hb hc)).bind fun _ => whole_pure

theorem whole_lanebits {w op} : Whole (lanebits w op) :=
  wholeWith_operandW.bind fun _ ha => wholeWith_operandW.bind fun _ hb =>
    (whole_writeLanes (by rw [List.length_zipWith, ha, hb, Nat.min_self])).bind fun _ => whole_pure

theorem length_laneAddresses (base stride size : Nat) (trans : Bool) (swz : Nat) : (laneAddresses base stride size trans swz).length = 1024 := by
  rw [laneAddresses_eq, List.length_map, List.length_range]

theorem wholeWith_vectorAccess {w op strided trans} : WholeWith (vectorAccess w op strided trans) (fun x => x.2.1.length = 1024) := by
  unfold vectorAccess
  conv => zeta
  refine whole_formatOf.andThen fun _ _ => (whole_iteM whole_addressOfStrided whole_addressOf).andThen fun _ _ =>
    (whole_iteM (whole_source.bind fun _ => whole_pure) whole_pure).andThen fun _ _ => whole_get.andThen fun _ _ => ?_
  split
  · exact wholeWith_throw
  · exact wholeWith_pure (length_laneAddresses _ _ _ _ _)

theorem whole_vectorAccess {w op strided trans} : Whole (vectorAccess w op strided trans) := wholeWith_vectorAccess.whole

theorem whole_vectorLoad {w op strided trans} : Whole (vectorLoad w op strided trans) := by
  unfold vectorLoad
  refine wholeWith_vectorAccess.bind fun x hx => whole_get.bind fun _ => ?_
  obtain ⟨f, l, post⟩ := x
  conv => zeta
  split
  · exact whole_trapWith
  · exact (whole_writeVec (by rw [List.length_map]; exact hx)).bind fun _ => whole_writeBack.bind fun _ => whole_pure

theorem whole_vectorStore {w op strided trans} : Whole (vectorStore w op strided trans) :=
  whole_readVec.bind fun _ => whole_vectorAccess.bind fun _ => Whole.bind (whole_modify fun _ h => whole_foldl h (fun _ _ =>
    whole_writeTile)) fun _ => whole_writeBack.bind fun _ => whole_pure

/-! ### Vector words -/

theorem whole_bodyVmov {w} : Whole (bodyVmov w) :=
  wholeWith_operandW.bind fun _ ha => (whole_writeLanes ha).bind fun _ => whole_pure

theorem whole_bodyVbcs {w} : Whole (bodyVbcs w) :=
  whole_formatOf.bind fun _ => whole_source.bind fun _ => (whole_writeLanes List.length_replicate).bind fun _ => whole_pure

theorem whole_bodyVextr {w} : Whole (bodyVextr w) :=
  whole_readVec.bind fun _ => whole_source.bind fun _ => whole_theTask.bind fun _ => whole_trapIf.bind fun _ => whole_destine.bind fun _ => whole_pure

theorem whole_bodyVins {w} : Whole (bodyVins w) :=
  whole_source.bind fun _ => whole_source.bind fun _ => wholeWith_readVec.bind fun _ ha =>
    (whole_writeVec (by rw [length_listSet, ha])).bind fun _ => whole_pure

theorem whole_laneUnary {w fp int} : Whole (laneUnary w fp int) :=
  wholeWith_operandW.bind fun _ ha => (whole_writeLanes (by rw [List.length_map, ha])).bind fun _ => whole_pure

theorem whole_bodyVcmp {w} : Whole (bodyVcmp w) :=
  whole_operandW.bind fun _ => whole_operandW.bind fun _ => whole_theTask.bind fun _ => whole_writeMask.bind fun _ => whole_pure

theorem whole_bodyVsel {w} : Whole (bodyVsel w) :=
  wholeWith_operandW.bind fun _ ha => wholeWith_operandW.bind fun _ hb => whole_readMask.bind fun _ =>
    (whole_writeLanes (length_blend _ _ ha hb)).bind fun _ => whole_pure

theorem whole_bodyKlog {w} : Whole (bodyKlog w) := whole_readMask.bind fun _ => whole_readMask.bind fun _ => whole_writeMask.bind fun _ => whole_pure

theorem whole_bodyKmov {w} : Whole (bodyKmov w) := by
  unfold bodyKmov
  conv => zeta
  split
  · exact whole_readMask.bind fun _ => whole_writeMask.bind fun _ => whole_pure
  · exact whole_source.bind fun _ => whole_source.bind fun _ => whole_readMask.bind fun _ => whole_writeMask.bind fun _ => whole_pure
  · exact whole_readMask.bind fun _ => whole_source.bind fun _ => whole_destine.bind fun _ => whole_pure
  · exact whole_readMask.bind fun _ => whole_destine.bind fun _ => whole_pure
  · exact whole_readMask.bind fun _ => whole_destine.bind fun _ => whole_pure

theorem whole_bodyVswz {w} : Whole (bodyVswz w) := by
  unfold bodyVswz
  conv => zeta
  refine wholeWith_readVec.bind fun _ ha => ?_
  split
  · exact wholeWith_readVec.bind fun _ hb => (whole_writeLanes (length_pickedRows ha hb _)).bind fun _ => whole_pure
  · exact wholeWith_readVec.bind fun _ hb => (whole_writeLanes (length_pickedColumns ha hb _)).bind fun _ => whole_pure
  · exact whole_source.bind fun _ => (whole_writeLanes (length_onRows ha fun _ _ => by rw [List.length_map, List.length_range])).bind fun _ =>
      whole_pure

theorem whole_rotation {w rows} : Whole (rotation w rows) :=
  wholeWith_readVec.bind fun _ ha => whole_source.bind fun _ =>
    (whole_writeLanes (length_byAxis ha (fun _ _ => length_rotateLine _ _) (fun _ _ => length_rotateLine _ _))).bind fun _ => whole_pure

theorem whole_axisBroadcast {w rows} : Whole (axisBroadcast w rows) :=
  wholeWith_readVec.bind fun _ ha => whole_source.bind fun _ =>
    (whole_writeLanes (length_byAxis ha (fun _ _ _ => length_broadcastLine _ _ _) (fun _ _ _ => length_broadcastLine _ _ _))).bind fun _ => whole_pure

theorem whole_onAxis {w rows} {g : List Word32 → List Word32} (hR : rows = true → ∀ l, l.length = 64 → (g l).length = 64)
    (hC : rows = false → ∀ l, l.length = 16 → (g l).length = 16) : Whole (onAxis w rows g) :=
  wholeWith_readVec.bind fun _ ha => (whole_writeLanes (length_byAxis ha hR hC)).bind fun _ => whole_pure

theorem whole_bodyVcvt {w} : Whole (bodyVcvt w) :=
  whole_formatOf.bind fun _ => whole_formatOf.bind fun _ => wholeWith_operandW.bind fun _ ha =>
    (whole_writeLanes (by rw [List.length_map, ha])).bind fun _ => whole_pure

theorem length_groups {α : Type} (w : Fields) {l : List α} (hl : l.length = 1024) {β : Type} {f : List α → List β} (hf : ∀ p, (f p).length =
    p.length) :
    ((pieces (groupSize w) (laneCount / groupSize w) l).flatMap f).length = 1024 := by
  have hdvd : laneCount / groupSize w * groupSize w = 1024 := Nat.div_mul_cancel (groupSize_dvd w)
  rw [length_flatMap_of_forall (fun p hp => (hf p).trans (length_piece (hl.trans hdvd.symm) hp)), length_pieces, hdvd]

theorem whole_bodyVqnt {w} : Whole (bodyVqnt w) := by
  refine whole_formatOf.bind fun _ => wholeWith_readVec.bind fun a ha =>
    (whole_writeVec ?_).bind fun _ => (whole_writeVec ?_).bind fun _ => whole_pure
  · rw [List.flatMap_map]
    exact length_groups w (by rw [List.length_map, ha]) fun p => by rw [List.length_map, length_currentScale]
  · rw [List.length_append, List.length_map, List.length_map, length_pieces, List.length_replicate]
    exact Nat.add_sub_cancel' (Nat.div_le_self _ _)

theorem whole_bodyVdqnt {w} : Whole (bodyVdqnt w) := by
  refine whole_formatOf.bind fun _ => wholeWith_readVec.bind fun a ha => wholeWith_readVec.bind fun c hc => (whole_writeVec ?_).bind fun _ =>
    whole_pure
  have hdvd : laneCount / groupSize w * groupSize w = 1024 := Nat.div_mul_cancel (groupSize_dvd w)
  have hle : laneCount / groupSize w ≤ c.length := by
    rw [hc]
    exact Nat.div_le_self _ _
  rw [pieces_eq, zipWith_map_range _ _ _ hle 0, ← List.flatMap_def, length_flatMap_of_forall (n := groupSize w), List.length_range, hdvd]
  intro r hr
  rw [List.length_map]
  exact length_piece (ha.trans hdvd.symm) (by rw [pieces_eq]; exact List.mem_map_of_mem hr)

/-! ### Global accesses -/

theorem whole_translate {va size u loc} : Whole (translate va size u loc) := by
  unfold translate
  conv => zeta
  exact whole_get.bind fun _ => by
    split
    · exact whole_trapWith
    · exact whole_holdOn
    · split
      · exact whole_trapWith
      · exact whole_pure

theorem whole_readyToSend {n} : Whole (readyToSend n) := by
  unfold readyToSend
  conv => zeta
  exact whole_get.bind fun _ => by
    split
    · exact whole_holdOn.bind fun _ => whole_holdUnless.bind fun _ => whole_holdUnless
    · exact whole_holdUnless.bind fun _ => whole_holdUnless

theorem whole_aligned {va z loc} : Whole (aligned va z loc) := whole_trapIf

theorem whole_counterSize {va pa z plain} : Whole (counterSize va pa z plain) := by
  unfold counterSize
  split
  · exact whole_trapIf
  · exact whole_pure

theorem whole_dataAddress {w z u plain n} : Whole (dataAddress w z u plain n) :=
  whole_readyToSend.bind fun _ => whole_addressOf.bind fun _ => whole_aligned.bind fun _ => whole_translate.bind fun _ =>
    whole_counterSize.bind fun _ => whole_pure

theorem whole_newAccess {kind va pa z leaf} : Whole (newAccess kind va pa z leaf) := whole_get.bind fun _ => whole_pure

theorem whole_send {a} : Whole (send a) := whole_modify fun _ h => whole_mk h

theorem whole_endCombining {granule} : Whole (endCombining granule) := whole_modStrand

theorem whole_readDamage {va pa z loc} : Whole (readDamage va pa z loc) := whole_get.bind fun _ => whole_trapIf

theorem whole_bodyLdg {w} : Whole (bodyLdg w) :=
  whole_theStrand.bind fun _ => whole_dataAddress.bind fun _ => whole_readDamage.bind fun _ => whole_newAccess.bind fun _ =>
    whole_theStrand.bind fun _ => whole_send.bind fun _ => whole_iteM (whole_writeBack.bind fun _ => whole_pure) (whole_modStrand.bind fun _ =>
    whole_writeBack.bind fun _ => whole_pure)

theorem whole_bodyLdc {w} : Whole (bodyLdc w) :=
  whole_dataAddress.bind fun _ => whole_readDamage.bind fun _ => whole_newAccess.bind fun _ => whole_send.bind fun _ =>
    whole_endCombining.bind fun _ => whole_writeBack.bind fun _ => whole_pure

theorem whole_bodyStg {w} : Whole (bodyStg w) :=
  whole_source.bind fun _ => whole_dataAddress.bind fun _ => whole_newAccess.bind fun _ => whole_send.bind fun _ =>
    whole_endCombining.bind fun _ => whole_writeBack.bind fun _ => whole_pure

theorem whole_bodyPld {w} : Whole (bodyPld w) :=
  whole_dataAddress.bind fun _ => whole_readDamage.bind fun _ => whole_newAccess.bind fun _ => whole_send.bind fun _ =>
    whole_endCombining.bind fun _ => whole_writeBack.bind fun _ => whole_pure

theorem whole_bodyPst {w} : Whole (bodyPst w) := by
  unfold bodyPst
  refine whole_source.bind fun _ => whole_theStrand.bind fun _ => whole_addressOf.bind fun _ => ?_
  split
  split
  · exact whole_trapIf.bind fun _ => whole_writeBack.bind fun _ => whole_pure
  · exact whole_holdOn
  · exact whole_dataAddress.bind fun _ => whole_newAccess.bind fun _ => whole_throw

theorem whole_bodyPrst {w} : Whole (bodyPrst w) :=
  whole_dataAddress.bind fun _ => whole_newAccess.bind fun _ => whole_send.bind fun _ => whole_endCombining.bind fun _ =>
    whole_writeBack.bind fun _ => whole_pure

theorem whole_bodyStf {w} : Whole (bodyStf w) :=
  whole_source.bind fun _ => whole_source.bind fun _ => whole_dataAddress.bind fun _ => whole_aligned.bind fun _ => whole_translate.bind fun _ =>
    whole_readDamage.bind fun _ => whole_newAccess.bind fun _ => whole_get.bind fun _ => whole_send.bind fun _ => whole_endCombining.bind fun _ =>
    whole_endCombining.bind fun _ => whole_writeBack.bind fun _ => whole_pure

theorem whole_bodyAtomic {w kind hasC} : Whole (bodyAtomic w kind hasC) :=
  Whole.bind (whole_iteM whole_source whole_pure) fun _ => Whole.bind (whole_iteM whole_source whole_pure) fun _ => whole_dataAddress.bind fun _ =>
    whole_readDamage.bind fun _ => whole_newAccess.bind fun _ => whole_send.bind fun _ => whole_endCombining.bind fun _ =>
    whole_writeBack.bind fun _ => whole_pure

theorem whole_fenceWord {w f} : Whole (fenceWord w f) := by
  unfold fenceWord
  refine whole_get.bind fun _ => whole_theStrand.bind fun _ => ?_
  refine whole_iteM (whole_modStrand.bind fun _ => whole_pure) (whole_iteM (whole_modStrand.bind fun _ => whole_pure) ?_)
  split
  · exact whole_holdUnless.bind fun _ => whole_modStrand.bind fun _ => whole_pure
  · exact whole_throw

theorem whole_bodyFence {w} : Whole (bodyFence w) :=
  whole_get.bind fun _ => whole_holdUnless.bind fun _ => whole_endCombining.bind fun _ => whole_fenceWord

theorem whole_bodyLfence {w} : Whole (bodyLfence w) := whole_get.bind fun _ => whole_fenceWord

theorem whole_bodyPref {w} : Whole (bodyPref w) := by
  unfold bodyPref
  conv => zeta
  exact whole_readyToSend.bind fun _ => whole_addressOf.bind fun _ => whole_get.bind fun _ => by
    split
    · exact whole_writeBack.bind fun _ => whole_pure
    · exact whole_holdOn.bind fun _ => whole_writeBack.bind fun _ => whole_pure
    · split
      · exact whole_writeBack.bind fun _ => whole_pure
      · exact whole_iteM (whole_newAccess.bind fun _ => whole_send.bind fun _ => whole_writeBack.bind fun _ =>
          whole_pure) (whole_writeBack.bind fun _ => whole_pure)

/-! ### Ports -/

theorem whole_myPort {out n} : Whole (myPort out n) := whole_get.bind fun _ => whole_pure

theorem whole_rowCount {op w} : Whole (rowCount op w) := whole_source.bind fun _ => whole_trapIf.bind fun _ => whole_pure

theorem whole_bodyVpop {w} : Whole (bodyVpop w) := by
  unfold bodyVpop
  conv => zeta
  refine whole_myPort.bind fun _ => whole_get.bind fun _ => whole_holdUnless.bind fun _ => whole_holdUnless.bind fun _ => whole_rowCount.bind fun _ =>
    whole_formatOf.bind fun _ => whole_trapIf.bind fun _ => whole_holdUnless.bind fun _ => ?_
  have hport {p n c} : Whole (modify (fun s : State => (s.consume p n).updPort p (fun q => { q with scale := c })) : M Unit) :=
    whole_modify fun _ h => whole_updPort (whole_consume h)
  have hrest {n} {new : List Word32} {c : Prop} [Decidable c] {k m : M Flow} (hk : Whole k) (hm : Whole m) :
      Whole (readVec n >>= fun old => writeVec n (overwrite new old) >>= fun _ => if c then k else m) :=
    wholeWith_readVec.bind fun _ ho => (whole_writeVec (by rw [length_overwrite, ho])).bind fun _ => whole_iteM hk hm
  split
  · exact whole_trapWith.bind fun _ => hrest (wholeWith_readVec.bind fun _ ho => (whole_writeVec (by rw [length_codeLanes, ho])).bind fun _ =>
      hport.bind fun _ => whole_pure) (hport.bind fun _ => whole_pure)
  · exact hrest (wholeWith_readVec.bind fun _ ho => (whole_writeVec (by rw [length_codeLanes, ho])).bind fun _ =>
      hport.bind fun _ => whole_pure) (hport.bind fun _ => whole_pure)

theorem whole_bodyVpush {w} : Whole (bodyVpush w) :=
  whole_myPort.bind fun _ => whole_get.bind fun _ => whole_holdUnless.bind fun _ => whole_rowCount.bind fun _ => whole_formatOf.bind fun _ =>
    whole_trapIf.bind fun _ => whole_readVec.bind fun _ => Whole.bind (whole_iteM whole_readVec whole_pure) fun _ => whole_holdUnless.bind fun _ =>
    Whole.bind (whole_modify fun _ h => whole_updPort (whole_sendOn h)) fun _ => whole_pure

theorem whole_bodyPscl {w} : Whole (bodyPscl w) :=
  whole_myPort.bind fun _ => whole_source.bind fun _ => whole_get.bind fun _ => whole_iteM (whole_holdUnless.bind fun _ =>
    Whole.bind (whole_modify fun _ h => whole_sendOn h) fun _ => Whole.bind (whole_modify fun _ h => whole_updPort h) fun _ =>
    whole_pure) (Whole.bind (whole_modify fun _ h => whole_updPort h) fun _ => whole_pure)

theorem whole_sendToken {w t} : Whole (sendToken w t) :=
  whole_myPort.bind fun _ => whole_get.bind fun _ => whole_holdUnless.bind fun _ => Whole.bind (whole_modify fun _ h => whole_sendOn h) fun _ =>
    whole_pure

theorem whole_bodyPthr {w} : Whole (bodyPthr w) :=
  whole_myPort.bind fun _ => whole_source.bind fun _ => whole_trapIf.bind fun _ => whole_theTask.bind fun _ => Whole.bind (whole_modify fun _ h =>
    whole_updPort h) fun _ => whole_pure

theorem whole_bodyPstat {w} : Whole (bodyPstat w) := whole_myPort.bind fun _ => whole_get.bind fun _ => whole_destine.bind fun _ => whole_pure

theorem whole_bodyPtst {w} : Whole (bodyPtst w) :=
  whole_myPort.bind fun _ => Whole.bind (whole_iteM whole_source whole_pure) fun _ => whole_get.bind fun _ => whole_writeCond.bind fun _ => whole_pure

theorem whole_bodyPdrn {w} : Whole (bodyPdrn w) := by
  unfold bodyPdrn
  conv => zeta
  exact whole_myPort.bind fun _ => whole_get.bind fun _ => whole_holdUnless.bind fun _ => by
    split
    · exact whole_trapWith
    · exact Whole.bind (whole_modify fun _ h => whole_updPort (whole_consume h)) fun _ => whole_destine.bind fun _ => whole_pure

theorem whole_bodyPtyp {w} : Whole (bodyPtyp w) := whole_myPort.bind fun _ => whole_get.bind fun _ => whole_destine.bind fun _ => whole_pure

/-! ### The Serac words -/

theorem whole_newCommand {i} : Whole (newCommand i) := whole_theTask.bind fun _ => whole_pure

theorem whole_smmOperand {op w o loc klen kw other} : Whole (smmOperand op w o loc klen kw other) := by
  unfold smmOperand
  conv => zeta
  split
  · exact whole_myPort.bind fun _ => whole_get.bind fun _ => whole_trapIf.bind fun _ => whole_trapIf.bind fun _ => whole_trapIf.bind fun _ =>
      whole_pure
  · exact whole_source

theorem whole_bodySmm {i op w} : Whole (bodySmm i op w) :=
  whole_source.bind fun _ => whole_smmOperand.bind fun _ => whole_smmOperand.bind fun _ => whole_newCommand.bind fun _ =>
    whole_enqueue.bind fun _ => whole_pure

theorem whole_bodySaccrd {w} : Whole (bodySaccrd w) :=
  whole_source.bind fun _ => whole_source.bind fun _ => whole_trapIf.bind fun _ => whole_newCommand.bind fun _ => whole_enqueue.bind fun _ =>
    whole_pure

theorem whole_bodySaccwr {w} : Whole (bodySaccwr w) :=
  whole_source.bind fun _ => whole_source.bind fun _ => whole_trapIf.bind fun _ => whole_newCommand.bind fun _ => whole_enqueue.bind fun _ =>
    whole_pure

theorem whole_bodySaccz {w} : Whole (bodySaccz w) := whole_newCommand.bind fun _ => whole_enqueue.bind fun _ => whole_pure

theorem whole_bodySet {i op w n} : Whole (bodySet i op w n) :=
  whole_source.bind fun _ => whole_trapIf.bind fun _ => whole_newCommand.bind fun _ => whole_enqueue.bind fun _ => whole_pure

theorem whole_bodySprog {w} : Whole (bodySprog w) := whole_theTask.bind fun _ => whole_trapIf.bind fun _ => whole_destine.bind fun _ => whole_pure

theorem whole_bodyAccMove {i op w v loc write} : Whole (bodyAccMove i op w v loc write) := by
  unfold bodyAccMove
  conv => zeta
  exact whole_source.bind fun _ => whole_source.bind fun _ => whole_trapIf.bind fun _ => whole_trapIf.bind fun _ => whole_trapIf.bind fun _ =>
    whole_theTask.bind fun _ => whole_trapIf.bind fun _ => by
    split
    · exact whole_holdOn.bind fun _ => by
        split
        · exact whole_trapWith.bind fun _ => whole_newCommand.bind fun _ => whole_enqueue.bind fun _ => whole_pure
        · exact whole_newCommand.bind fun _ => whole_enqueue.bind fun _ => whole_pure
    · split
      · exact whole_trapWith.bind fun _ => whole_newCommand.bind fun _ => whole_enqueue.bind fun _ => whole_pure
      · exact whole_newCommand.bind fun _ => whole_enqueue.bind fun _ => whole_pure

theorem whole_handleOf {o} : Whole (handleOf o) := by
  unfold handleOf
  split
  · exact whole_source
  · exact whole_pure

theorem whole_bodyStages {i op w chain} : Whole (bodyStages i op w chain) := by
  unfold bodyStages
  conv => zeta
  exact whole_source.bind fun _ => whole_trapIf.bind fun _ => whole_trapIf.bind fun _ => whole_theTask.bind fun _ => by
    split
    · exact whole_trapWith.bind fun _ => whole_handleOf.bind fun _ => whole_handleOf.bind fun _ => whole_handleOf.bind fun _ => whole_newCommand.bind
        fun _ => whole_enqueue.bind fun _ => whole_pure
    · exact whole_handleOf.bind fun _ => whole_handleOf.bind fun _ => whole_handleOf.bind fun _ => whole_newCommand.bind fun _ => whole_enqueue.bind
        fun _ => whole_pure

theorem whole_bodySstr {w} : Whole (bodySstr w) :=
  whole_source.bind fun _ => whole_source.bind fun _ => whole_trapIf.bind fun _ => whole_newCommand.bind fun _ => whole_enqueue.bind fun _ =>
    whole_pure

theorem whole_bodySbwl {w} : Whole (bodySbwl w) :=
  whole_source.bind fun _ => whole_source.bind fun _ => whole_newCommand.bind fun _ => whole_enqueue.bind fun _ => whole_pure

/-! ### The Moraine words -/

theorem whole_checkExtents {c} : Whole (checkExtents c) := by
  unfold checkExtents
  conv => zeta
  exact whole_get.bind fun _ => by
    split
    · exact whole_trapWith.bind fun _ => by
        split
        · exact whole_trapWith
        · exact whole_holdOn
        · exact whole_pure
    · split
      · exact whole_trapWith
      · exact whole_holdOn
      · exact whole_pure

theorem whole_enterMoraine {w c} : Whole (enterMoraine w c) :=
  whole_checkExtents.bind fun _ => whole_iteM (Whole.bind (whole_modTask fun _ => rfl) fun _ => whole_enqueue.bind fun _ =>
    whole_pure) (whole_enqueue.bind fun _ => whole_pure)

theorem whole_readDescriptor {a loc kind bad} : Whole (readDescriptor a loc kind bad) := by
  unfold readDescriptor
  conv => zeta
  exact whole_get.bind fun _ => whole_trapIf.bind fun _ => whole_trapIf.bind fun _ => whole_afterOwn.bind fun _ => whole_trapIf.bind fun _ => by
    split
    · exact whole_trapWith
    · exact whole_pure

theorem whole_bodyMcpy {w} : Whole (bodyMcpy w) :=
  whole_source.bind fun _ => whole_source.bind fun _ => whole_source.bind fun _ => whole_trapIf.bind fun _ => whole_newCommand.bind fun _ =>
    whole_enterMoraine

theorem whole_bodyMfill {w} : Whole (bodyMfill w) :=
  whole_source.bind fun _ => whole_source.bind fun _ => whole_source.bind fun _ => whole_trapIf.bind fun _ => whole_newCommand.bind fun _ =>
    whole_enterMoraine

theorem whole_bodyMcpy2 {w} : Whole (bodyMcpy2 w) :=
  whole_source.bind fun _ => whole_source.bind fun _ => whole_source.bind fun _ => whole_source.bind fun _ => whole_trapIf.bind fun _ =>
    whole_newCommand.bind fun _ => whole_enterMoraine

theorem whole_bodyMnest {w} : Whole (bodyMnest w) :=
  whole_source.bind fun _ => whole_source.bind fun _ => whole_source.bind fun _ => whole_readDescriptor.bind fun _ =>
    whole_newCommand.bind fun _ => whole_enterMoraine

theorem whole_bodyGather {i w kind bad} : Whole (bodyGather i w kind bad) :=
  whole_source.bind fun _ => whole_source.bind fun _ => whole_source.bind fun _ => whole_source.bind fun _ => whole_readDescriptor.bind fun _ =>
    whole_newCommand.bind fun _ => whole_enterMoraine

theorem whole_bodyStream {i op w out} : Whole (bodyStream i op w out) :=
  Whole.bind (whole_iteM whole_source whole_pure) fun _ => whole_source.bind fun _ => whole_source.bind fun _ => whole_source.bind fun _ =>
    whole_get.bind fun _ => whole_trapIf.bind fun _ => whole_trapIf.bind fun _ => whole_trapIf.bind fun _ => whole_newCommand.bind fun _ =>
    whole_enterMoraine

theorem whole_bodyMstat {w} : Whole (bodyMstat w) :=
  whole_source.bind fun _ => whole_trapIf.bind fun _ => whole_get.bind fun _ => whole_destine.bind fun _ => whole_pure

/-! ### Control words -/

theorem whole_relative {w} : Whole (relative w) := whole_get.bind fun _ => whole_pure

theorem whole_registerTarget {o} : Whole (registerTarget o) := by
  unfold registerTarget
  conv => zeta
  exact whole_get.bind fun _ => whole_theCore.bind fun _ => by
    split
    · exact whole_source
    · exact whole_source.bind fun _ => whole_pure

theorem whole_checkTarget {target} : Whole (checkTarget target) := whole_get.bind fun _ => whole_trapIf

theorem whole_returnAddress : Whole returnAddress := by
  unfold returnAddress
  conv => zeta
  refine whole_get.bind fun _ => whole_iteM whole_pure ?_
  split
  · exact whole_pure
  · exact whole_pure

theorem whole_linkCall {d} : Whole (linkCall d) := whole_returnAddress.bind fun _ => whole_destine.bind fun _ => whole_modStrand

theorem whole_bodyBr {w} : Whole (bodyBr w) := whole_relative.bind fun _ => whole_checkTarget.bind fun _ => whole_pure

theorem whole_bodyJmp {w} : Whole (bodyJmp w) := whole_registerTarget.bind fun _ => whole_checkTarget.bind fun _ => whole_pure

theorem whole_bodyCall {w} : Whole (bodyCall w) :=
  whole_relative.bind fun _ => whole_checkTarget.bind fun _ => whole_linkCall.bind fun _ => whole_pure

theorem whole_bodyCallr {w} : Whole (bodyCallr w) :=
  whole_registerTarget.bind fun _ => whole_checkTarget.bind fun _ => whole_linkCall.bind fun _ => whole_pure

theorem whole_bodyRet {w} : Whole (bodyRet w) :=
  whole_registerTarget.bind fun _ => whole_checkTarget.bind fun _ => whole_modStrand.bind fun _ => whole_pure

theorem whole_bodyLoop {w} : Whole (bodyLoop w) :=
  whole_relative.bind fun _ => whole_theStrand.bind fun _ => whole_trapIf.bind fun _ => whole_source.bind fun _ =>
    whole_iteM whole_pure (whole_trapIf.bind fun _ => whole_modStrand.bind fun _ => whole_pure)

theorem whole_bodyBcq {w} : Whole (bodyBcq w) :=
  whole_popQueue.bind fun _ => whole_relative.bind fun _ => whole_iteM (whole_checkTarget.bind fun _ => whole_pure) whole_pure

theorem whole_bodyQpush {w} : Whole (bodyQpush w) := by
  unfold bodyQpush
  conv => zeta
  split
  · exact whole_source.bind fun _ => whole_destine.bind fun _ => whole_pure
  · exact whole_source.bind fun _ => whole_source.bind fun _ => whole_destine.bind fun _ => whole_destine.bind fun _ => whole_pure
  · exact whole_predOf.bind fun _ => whole_destine.bind fun _ => whole_pure

theorem whole_popWhole {o} : Whole (popWhole o) := by
  unfold popWhole
  split
  · split
    · exact whole_popQueue
    · exact whole_pure
  · exact whole_pure

theorem whole_bodyQpop {w} : Whole (bodyQpop w) := by
  unfold bodyQpop
  conv => zeta
  split
  · exact whole_source.bind fun _ => whole_destine.bind fun _ => whole_pure
  · exact whole_popWhole.bind fun _ => whole_destine.bind fun _ => whole_destine.bind fun _ => whole_pure
  · exact whole_popWhole.bind fun _ => whole_writePred.bind fun _ => whole_pure

theorem whole_bodyQcount {w} : Whole (bodyQcount w) := whole_get.bind fun _ => whole_destine.bind fun _ => whole_pure

theorem whole_bodyTwait {w} : Whole (bodyTwait w) :=
  whole_theCore.bind fun _ => whole_theTask.bind fun _ => whole_holdUnless.bind fun _ => Whole.bind (whole_modify fun _ h =>
    whole_popTokens h) fun _ => whole_modStrand.bind fun _ => whole_pure

theorem whole_bodyTsig {w} : Whole (bodyTsig w) := whole_theCore.bind fun _ => Whole.bind (whole_modify fun _ h => whole_updCur h) fun _ => whole_pure

theorem whole_bodyTread {w} : Whole (bodyTread w) := whole_get.bind fun _ => whole_destine.bind fun _ => whole_pure

theorem whole_eventNumber {o} : Whole (eventNumber o) := whole_theTask.bind fun _ => whole_pure

theorem whole_bodySuspend {w} : Whole (bodySuspend w) :=
  whole_relative.bind fun _ => whole_checkTarget.bind fun _ => whole_eventNumber.bind fun _ => whole_source.bind fun _ => whole_pure

theorem whole_bodyYield : Whole bodyYield := whole_modStrand.bind fun _ => whole_pure

theorem whole_bodyEvrd {w} : Whole (bodyEvrd w) := whole_eventNumber.bind fun _ => whole_theEvent.bind fun _ => whole_destine.bind fun _ => whole_pure

theorem whole_bodyEvadd {w} : Whole (bodyEvadd w) :=
  whole_eventNumber.bind fun _ => whole_source.bind fun _ => Whole.bind (whole_modify fun _ h => whole_updCur h) fun _ => whole_pure

theorem whole_bodyEvset {w} : Whole (bodyEvset w) :=
  whole_eventNumber.bind fun _ => whole_source.bind fun _ => Whole.bind (whole_modify fun _ h => whole_updCur h) fun _ => whole_pure

theorem whole_bodyGraise {w} : Whole (bodyGraise w) := whole_source.bind fun _ => Whole.bind (whole_modify fun _ h => whole_mk h) fun _ => whole_pure

theorem whole_bodyGread {w} : Whole (bodyGread w) := whole_get.bind fun _ => whole_destine.bind fun _ => whole_pure

theorem whole_bodySetnf {w} : Whole (bodySetnf w) :=
  whole_source.bind fun _ => whole_trapIf.bind fun _ => Whole.bind (whole_modTask fun _ => rfl) fun _ => whole_pure

/-! ### Special functions -/

theorem whole_special {w g} : Whole (special w g) :=
  wholeWith_operandW.bind fun _ ha => (whole_writeLanes (by rw [List.length_map, ha])).bind fun _ => whole_pure

/-! ### System words -/

theorem whole_bodySysrd {w} : Whole (bodySysrd w) := whole_get.bind fun _ => whole_destine.bind fun _ => whole_pure

theorem whole_bodySyswr {w} : Whole (bodySyswr w) :=
  whole_source.bind fun _ => whole_get.bind fun _ => Whole.bind (whole_modify fun _ h => whole_sysWrite h) fun _ => whole_pure

theorem whole_bodySetstk {w} : Whole (bodySetstk w) :=
  whole_source.bind fun _ => whole_source.bind fun _ => whole_theTask.bind fun _ => whole_trapIf.bind fun _ => whole_trapIf.bind fun _ =>
    whole_modStrand.bind fun _ => whole_pure

theorem whole_bodyTrap {w} : Whole (bodyTrap w) := whole_source.bind fun _ => whole_get.bind fun _ => whole_trapWith

theorem whole_bodyBkpt {w} : Whole (bodyBkpt w) := whole_get.bind fun _ => whole_trapIf.bind fun _ => whole_pure

theorem whole_monitorIndex {op w v} : Whole (monitorIndex op w v) := whole_trapIf.bind fun _ => whole_pure

theorem whole_bodyMonrd {w} : Whole (bodyMonrd w) :=
  whole_source.bind fun _ => whole_monitorIndex.bind fun _ => wholeWith_get.bind fun _ hs =>
    (whole_put (whole_readMonitor hs)).bind fun _ => whole_destine.bind fun _ => whole_pure

theorem whole_bodyMoncfg {w} : Whole (bodyMoncfg w) :=
  whole_source.bind fun _ => whole_monitorIndex.bind fun _ => whole_source.bind fun _ => whole_trapIf.bind fun _ =>
    Whole.bind (whole_modify fun _ h => whole_configureMonitor h) fun _ => whole_pure

theorem whole_contextTarget {op w} : Whole (contextTarget op w) := by
  unfold contextTarget
  conv => zeta
  refine whole_source.bind fun _ => whole_source.bind fun _ => whole_trapIf.bind fun _ => whole_get.bind fun _ => whole_trapIf.bind fun _ => ?_
  refine whole_iteM whole_pure ?_
  split
  · exact whole_trapWith
  · exact whole_iteM (whole_afterOwn.bind fun _ => whole_pure) whole_pure

theorem whole_bodyCtxsv {w} : Whole (bodyCtxsv w) := by
  unfold bodyCtxsv
  conv => zeta
  exact whole_contextTarget.bind fun _ => by
    split
    · exact whole_destine.bind fun _ => whole_pure
    · exact Whole.bind (whole_modify fun _ h => whole_writeTile (whole_saveContext h)) fun _ => whole_destine.bind fun _ => whole_pure

theorem whole_bodyCtxld {w} : Whole (bodyCtxld w) := by
  unfold bodyCtxld
  conv => zeta
  refine whole_contextTarget.bind fun _ => ?_
  split
  · exact whole_destine.bind fun _ => whole_pure
  · refine wholeWith_get.bind fun _ hs => whole_trapIf.bind fun _ => ?_
    split
    · exact whole_destine.bind fun _ => whole_pure
    · next e => exact (whole_put ((whole_loadContext hs).of_eq e)).bind fun _ => whole_destine.bind fun _ => whole_pure

theorem whole_bodyHalt {x0} : Whole (bodyHalt x0) := Whole.bind (whole_modify fun _ h => whole_updDie h) fun _ => whole_pure

end Sys2Proof.Machine
end

section
/-! ## Vector registers stay whole: every step -/

namespace Sys2Proof.Machine

theorem nextWhole_ite {p : Prop} [Decidable p] {a b : Host.Outcome State Fault Refusal} (ha : NextWhole a) (hb : NextWhole b) :
    NextWhole (if p then a else b) := by
  split
  · exact ha
  · exact hb

/-- A word whose body keeps the vector registers whole keeps them whole: what stops a word leaves the state that the word began with. -/
theorem whole_issue {i body} {s : State} (hb : Whole body) (h : TasksWhole s.tasks) : NextWhole (issue i body s) := by
  have hrun : Whole (do
      let flow ← runWord i body
      pushCheck
      return flow) := (whole_runWord hb).bind fun _ => whole_pushCheck.bind fun _ => whole_pure
  unfold issue
  conv => zeta
  refine nextWhole_ite trivial ?_
  split
  · exact nextWhole_ite (whole_updCur h) (whole_clearCycle (whole_applyStop h))
  · next e =>
    split at e
    · cases e
    · obtain ⟨ht, -⟩ := hrun _ (whole_ite h (whole_updStrand h)) _ _ e
      refine nextWhole_ite (whole_clearCycle ht) (nextWhole_ite (whole_clearCycle (whole_retire ht)) (nextWhole_ite ?_ ?_))
      · exact whole_updStrand ht
      · exact whole_clearCycle (whole_retire ht)

/-- Every instruction keeps the vector registers whole. -/
theorem whole_exec {s : State} (i : Instr) (h : TasksWhole s.tasks) : NextWhole (exec i s) := by
  cases i with
  | nop _ | endStrand _ | unassigned _ => exact whole_issue whole_pure h
  | mov _ => exact whole_issue whole_bodyMov h
  | movi _ => exact whole_issue whole_bodyMovi h
  | movhi _ => exact whole_issue whole_bodyMovhi h
  | add _ | sub _ | mul _ | mulh _ | div _ | rem _ | min _ | max _ | abs _ | neg _ | mad _ => exact whole_issue whole_arith h
  | and _ | or _ | xor _ | andn _ | shl _ | shr _ | sar _ | rol _ | clz _ | popc _ | bfx _ | bfi _ => exact whole_issue whole_onBits h
  | sel _ => exact whole_issue whole_bodySel h
  | cmp _ => exact whole_issue whole_bodyCmp h
  | plog _ => exact whole_issue whole_bodyPlog h
  | psave _ => exact whole_issue whole_bodyPsave h
  | prest _ => exact whole_issue whole_bodyPrest h
  | cvtsx _ => exact whole_issue whole_bodyCvtsx h
  | lea _ => exact whole_issue whole_bodyLea h
  | ldt _ => exact whole_issue whole_bodyLdt h
  | stt _ => exact whole_issue whole_bodyStt h
  | fadd _ | fsub _ | fmul _ | ffma _ | fmin _ | fmax _ | fabs _ | fneg _ | fdiv _ | fsqrt _ | frcp _ => exact whole_issue whole_floatOp h
  | fcmp _ => exact whole_issue whole_bodyFcmp h
  | fcvt _ => exact whole_issue whole_bodyFcvt h
  | br _ => exact whole_issue whole_bodyBr h
  | jmp _ => exact whole_issue whole_bodyJmp h
  | call _ => exact whole_issue whole_bodyCall h
  | callr _ => exact whole_issue whole_bodyCallr h
  | ret _ => exact whole_issue whole_bodyRet h
  | loop _ => exact whole_issue whole_bodyLoop h
  | bcq _ => exact whole_issue whole_bodyBcq h
  | qpush _ => exact whole_issue whole_bodyQpush h
  | qpop _ => exact whole_issue whole_bodyQpop h
  | qcount _ => exact whole_issue whole_bodyQcount h
  | twait _ => exact whole_issue whole_bodyTwait h
  | tsig _ => exact whole_issue whole_bodyTsig h
  | suspend _ => exact whole_issue whole_bodySuspend h
  | yield _ => exact whole_issue whole_bodyYield h
  | evrd _ => exact whole_issue whole_bodyEvrd h
  | evadd _ => exact whole_issue whole_bodyEvadd h
  | evset _ => exact whole_issue whole_bodyEvset h
  | graise _ => exact whole_issue whole_bodyGraise h
  | gread _ => exact whole_issue whole_bodyGread h
  | setnf _ => exact whole_issue whole_bodySetnf h
  | tread _ => exact whole_issue whole_bodyTread h
  | ldg _ => exact whole_issue whole_bodyLdg h
  | stg _ => exact whole_issue whole_bodyStg h
  | ldc _ => exact whole_issue whole_bodyLdc h
  | pld _ => exact whole_issue whole_bodyPld h
  | pst _ => exact whole_issue whole_bodyPst h
  | prst _ => exact whole_issue whole_bodyPrst h
  | stf _ => exact whole_issue whole_bodyStf h
  | atadd _ | atand _ | ator _ | atxor _ | atmin _ | atmax _ | atswp _ | atcas _ | amaxx _ | atfadd _ | atfmax _ =>
    exact whole_issue whole_bodyAtomic h
  | fence _ => exact whole_issue whole_bodyFence h
  | lfence _ => exact whole_issue whole_bodyLfence h
  | pref _ => exact whole_issue whole_bodyPref h
  | vld _ | vlds _ | vldt _ => exact whole_issue whole_vectorLoad h
  | vst _ | vsts _ | vstt _ => exact whole_issue whole_vectorStore h
  | vmov _ => exact whole_issue whole_bodyVmov h
  | vbcs _ => exact whole_issue whole_bodyVbcs h
  | vadd _ | vsub _ | vmul _ | vfma _ | vmin _ | vmax _ => exact whole_issue whole_lanewise h
  | vabs _ | vneg _ => exact whole_issue whole_laneUnary h
  | vand _ | vor _ | vxor _ | vshl _ | vshr _ | vsar _ => exact whole_issue whole_lanebits h
  | vcmp _ => exact whole_issue whole_bodyVcmp h
  | vsel _ => exact whole_issue whole_bodyVsel h
  | klog _ => exact whole_issue whole_bodyKlog h
  | kmov _ => exact whole_issue whole_bodyKmov h
  | vrotr _ | vrotc _ => exact whole_issue whole_rotation h
  | vbcr _ | vbcc _ => exact whole_issue whole_axisBroadcast h
  | vredr _ => exact whole_issue (whole_onAxis (fun _ _ _ => length_reduceLine _ _ _ _ _) nofun) h
  | vredc _ => exact whole_issue (whole_onAxis nofun (fun _ _ _ => length_reduceLine _ _ _ _ _)) h
  | vscnr _ => exact whole_issue (whole_onAxis (fun _ _ hl => (length_scanLine _ _ _ (by omega)).trans hl) nofun) h
  | vscnc _ => exact whole_issue (whole_onAxis nofun (fun _ _ hl => (length_scanLine _ _ _ (by omega)).trans hl)) h
  | vcvt _ => exact whole_issue whole_bodyVcvt h
  | vqnt _ => exact whole_issue whole_bodyVqnt h
  | vdqnt _ => exact whole_issue whole_bodyVdqnt h
  | vexp _ | vlog _ | vrcp _ | vrsq _ | vtanh _ => exact whole_issue whole_special h
  | vextr _ => exact whole_issue whole_bodyVextr h
  | vins _ => exact whole_issue whole_bodyVins h
  | vpop _ => exact whole_issue whole_bodyVpop h
  | vpush _ => exact whole_issue whole_bodyVpush h
  | pscl _ => exact whole_issue whole_bodyPscl h
  | vswz _ => exact whole_issue whole_bodyVswz h
  | smm _ | smmz _ => exact whole_issue whole_bodySmm h
  | saccrd _ => exact whole_issue whole_bodySaccrd h
  | saccwr _ => exact whole_issue whole_bodySaccwr h
  | saccz _ => exact whole_issue whole_bodySaccz h
  | sscl _ | smode _ => exact whole_issue whole_bodySet h
  | sprog _ => exact whole_issue whole_bodySprog h
  | sbfly _ | schain _ => exact whole_issue whole_bodyStages h
  | sstr _ => exact whole_issue whole_bodySstr h
  | sbwl _ => exact whole_issue whole_bodySbwl h
  | saccv _ | svacc _ => exact whole_issue whole_bodyAccMove h
  | mcpy _ => exact whole_issue whole_bodyMcpy h
  | mcpy2 _ => exact whole_issue whole_bodyMcpy2 h
  | mgth _ | msct _ | mspg _ => exact whole_issue whole_bodyGather h
  | mfill _ => exact whole_issue whole_bodyMfill h
  | mm2c _ | mc2m _ => exact whole_issue whole_bodyStream h
  | mnest _ => exact whole_issue whole_bodyMnest h
  | mstat _ => exact whole_issue whole_bodyMstat h
  | pthr _ => exact whole_issue whole_bodyPthr h
  | peos _ | pord _ => exact whole_issue whole_sendToken h
  | pstat _ => exact whole_issue whole_bodyPstat h
  | ptst _ => exact whole_issue whole_bodyPtst h
  | pdrn _ => exact whole_issue whole_bodyPdrn h
  | ptyp _ => exact whole_issue whole_bodyPtyp h
  | sysrd _ => exact whole_issue whole_bodySysrd h
  | syswr _ => exact whole_issue whole_bodySyswr h
  | setstk _ => exact whole_issue whole_bodySetstk h
  | trap _ => exact whole_issue whole_bodyTrap h
  | bkpt _ => exact whole_issue whole_bodyBkpt h
  | monrd _ => exact whole_issue whole_bodyMonrd h
  | moncfg _ => exact whole_issue whole_bodyMoncfg h
  | ctxsv _ => exact whole_issue whole_bodyCtxsv h
  | ctxld _ => exact whole_issue whole_bodyCtxld h
  | halt _ => exact whole_issue whole_bodyHalt h
  | elSource _ => exact nextWhole_ite (whole_sourceClock h) trivial
  | elSink _ => exact nextWhole_ite (whole_sinkClock h) trivial
  | elCopy _ | elConst _ | elAdd _ | elSub _ | elMul _ | elFma _ | elMin _ | elMax _ | elLogic _ | elCmp _ | elCvt _ | elLut _
  | elUnpack _ | elPack _ | elZenc _ | elZdec _ | elDelta _ | elBqnt _ | elBdqnt _ | elExpadd _ | elTopk _ | elCount _ | elSteer _
  | elMerge _ | elCarry _ =>
    exact whole_runElement h
  | elQbuf _ => exact nextWhole_ite (whole_qbufClock h) trivial
  | suspendWake => exact whole_eventSuspendWake h
  | autoPark => exact whole_eventAutoPark h
  | autoParkWake => exact whole_eventAutoParkWake h
  | graiseApply => exact whole_eventGraiseApply h
  | globalAccessPerform => exact whole_eventPerform h
  | globalReplyArrival => exact whole_eventReply h
  | globalAckArrival => exact whole_eventAck h
  | fenceRetire => exact whole_eventFenceRetire h
  | translationWalkComplete => exact whole_eventWalkComplete h
  | layoutRecordCacheFill => exact whole_eventRecordFill h
  | seracCommandStart => exact whole_eventSeracStart h
  | seracBlockStaged => exact whole_eventSeracStage h
  | seracCommandComplete => exact whole_eventSeracComplete h
  | moraineCommandStart => exact whole_eventMoraineStart h
  | moraineCommandComplete => exact whole_eventMoraineComplete h
  | gridDispatch => exact whole_eventGridDispatch h
  | taskStrandsStart => exact whole_eventStrandsStart h
  | taskDone => exact whole_eventTaskDone h
  | taskSlotFree => exact whole_eventSlotFree h
  | graphQueueEnable => exact whole_eventQueueEnable h
  | graphQueueTailWrite => exact whole_eventTailWrite h
  | graphEntryRead => exact whole_eventEntryRead h
  | loadConfigure => exact whole_eventLoadConfigure h
  | regionImageVerified => exact whole_eventImageVerified h
  | loadStart => exact whole_eventLoadStart h
  | loadComplete => exact whole_eventLoadComplete h
  | loadExit => exact whole_eventLoadExit h
  | graphComplete => exact whole_eventGraphComplete h
  | xinvStart => exact whole_eventXinvStart h
  | xinvComplete => exact whole_eventXinvComplete h
  | planeRetirePlanned => exact whole_eventRetirePlanned h
  | planeFaultDetect => exact whole_eventPlaneFault h
  | planeStallTimeout => exact whole_eventPlaneStall h
  | rehashStop => exact whole_eventRehashStop h
  | rehashDrained => exact whole_eventRehashDrained h
  | rehashCommit => exact whole_eventRehashCommit h
  | rehashCommitted => exact whole_eventRehashCommitted h
  | rehashResume => exact whole_eventRehashResume h
  | channelPacketSend => exact whole_eventPacketSend h
  | channelPacketArrive => exact whole_eventPacketArrive h
  | channelAck => exact whole_eventAckChannel h
  | channelOff => exact whole_eventChannelOff h
  | channelOn => exact whole_eventChannelOn h
  | elementSpecialToken => exact whole_eventSpecialToken h
  | regionOutputPortTake => exact whole_eventPortTake h
  | regionConfigError => exact whole_eventConfigError h
  | regionSwapRequest => exact whole_eventSwapRequest h
  | regionSwapImageChecked => exact whole_eventSwapChecked h
  | regionSwapIdle => exact whole_eventSwapIdle h
  | regionSwapTimeout => exact whole_eventSwapTimeout h
  | preemptSaveRequest => exact whole_eventSaveRequest h
  | preemptRestoreRequest => exact whole_eventRestoreRequest h
  | preemptQtoExpire => exact whole_eventQtoExpire h
  | regionStillTimeout => exact whole_eventStillTimeout h
  | preemptQuiescent => exact whole_onSystemPlane h (whole_eventQuiescent h)
  | gangArm => exact whole_onSystemPlane h (whole_eventGangArm h)
  | gangAck => exact whole_onSystemPlane h (whole_eventGangAck h)
  | gangCommit => exact whole_onSystemPlane h (whole_eventGangCommit h)
  | gangCommitted => exact whole_onSystemPlane h (whole_eventGangCommitted h)
  | gangAbort => exact whole_onSystemPlane h (whole_eventGangAbort h)
  | preemptSaveComplete => exact whole_eventSaveComplete h
  | preemptRestoreComplete => exact whole_eventRestoreComplete h
  | faultEntryWrite => exact whole_eventEntryWrite h
  | fqctlEnable => exact whole_eventFqctl h
  | fqResume | fqResumeStack | fqResumeAt | fqKill | fqStopLoad | fqContinue => exact whole_respondWith h
  | deadlockDetect => exact whole_eventDeadlock h
  | loadStop => exact whole_eventLoadStop h
  | loadStopped => exact whole_eventLoadStopped h
  | scrubUncorrectable => exact whole_eventScrub h
  | hostMemoryRequest => exact whole_eventHostMemory h
  | hostAtomic => exact whole_eventHostAtomic h
  | functionLevelReset => exact whole_eventFlr h
  | registerWrite => exact whole_eventRegisterWrite h
  | tilehaltWrite => exact whole_eventTilehalt h
  | ownClaim => exact whole_eventOwnClaim h
  | ownHandover => exact whole_eventOwnHand h
  | ownerVacancyTimeout => exact whole_eventVacancy h
  | boot => exact whole_eventBoot h
  | fwRecovery => exact whole_eventRecovery h
  | mbInstallKey => exact whole_eventInstallKey h
  | mbAttest => exact whole_eventAttest h
  | mbLoadEncKey => exact whole_eventLoadEncKey h
  | mbUpdateFw => exact whole_eventUpdateFw h
  | pwrtileWrite => exact whole_eventPwrTile h
  | pwrregWrite => exact whole_eventPwrReg h
  | powerUpComplete => exact whole_eventPowerUp h
  | tileClockGate => exact whole_eventClockGate h
  | thermalThrottle => exact whole_eventThrottle h
  | thermalReset => exact whole_eventThermalReset h
  | laneRemove => exact whole_eventLaneRemove h
  | linkTurnaround => exact whole_eventTurnaround h
  | pkgIndexClash => exact whole_eventClash h
  | ringSlotArrive => exact whole_eventSlotArrive h
  | incastResend => exact whole_eventResend h
  | gangWindowExpire => exact whole_eventGangExpire h
  | sealedOperatorFire => exact whole_eventSealedFire h
  | linkRetrainComplete => exact whole_eventRetrain h
  | hostLinkDown => exact whole_eventHostLink h
  | bridgeLinkTrained => exact whole_eventBridge h

/-! ### A turn, and a cycle -/

theorem whole_runPair {who i m} {s : State} (h : TasksWhole s.tasks) : NextWhole (runPair who i m s) := by
  unfold runPair
  conv => zeta
  have hi := whole_exec i (whole_atStrand (who := who) (mate := some m) h)
  split
  · next t e =>
    have ht := hi.of_eq e
    split
    · exact whole_applyStop h
    · split
      · next e =>
        split
        · exact whole_applyStop h
        · exact (whole_exec m (whole_updCur ht)).of_eq e
      · exact whole_exec m (whole_updCur ht)
  · exact hi

theorem whole_runAt {who} {s : State} (h : TasksWhole s.tasks) : NextWhole (runAt who s) := by
  unfold runAt
  split
  · trivial
  · refine nextWhole_ite ?_ (whole_exec _ (whole_atStrand h))
    split
    · exact whole_runPair h
    · exact whole_exec _ (whole_atStrand h)

theorem whole_strandTurn {who} {s : State} (h : TasksWhole s.tasks) : NextWhole (strandTurn who s) := by
  refine nextWhole_ite ?_ (whole_runAt h)
  exact nextWhole_ite (whole_enterHeader h) (nextWhole_ite trivial (whole_runAt (whole_enterHeader h)))

theorem whole_coreSecond {t c first limits firstYielded l} {s : State} (h : TasksWhole s.tasks) :
    NextWhole (coreSecond t c first limits firstYielded l s) := by
  induction l generalizing s with
  | nil => exact whole_clearYields h
  | cons who l ih =>
    unfold coreSecond
    refine nextWhole_ite ?_ (ih h)
    split
    · next e =>
      have hu := (whole_strandTurn h).of_eq e
      exact nextWhole_ite (ih hu) (whole_clearYields hu)
    · exact whole_strandTurn h

theorem whole_coreTry {t c l} {s : State} (h : TasksWhole s.tasks) : NextWhole (coreTry t c l s) := by
  induction l generalizing s with
  | nil => exact whole_clearYields h
  | cons who l ih =>
    unfold coreTry
    split
    · next e =>
      have hu := (whole_strandTurn h).of_eq e
      refine nextWhole_ite (ih hu) ?_
      split
      · exact nextWhole_ite (whole_clearYields hu) (whole_coreSecond hu)
      · exact whole_clearYields hu
    · exact whole_strandTurn h

theorem whole_runTurn {t} {s : State} (h : TasksWhole s.tasks) : NextWhole (runTurn t s) := by
  unfold runTurn
  split
  · exact nextWhole_ite h (whole_coreTry (whole_mk h))
  · split
    · exact whole_exec _ (whole_updCur h)
    · exact h
  · exact whole_exec _ (whole_mk h)

theorem whole_runTurns {ts} {s : State} (h : TasksWhole s.tasks) : NextWhole (runTurns ts s) := by
  induction ts generalizing s with
  | nil => exact h
  | cons t ts ih =>
    unfold runTurns
    split
    · next e => exact ih ((whole_runTurn h).of_eq e)
    · exact whole_runTurn h

theorem whole_onNext {f : State → State} {r : Host.Outcome State Fault Refusal} (h : NextWhole r) (hf : ∀ u, TasksWhole u.tasks → TasksWhole (f u).tasks) :
    NextWhole (onNext f r) := by
  unfold onNext
  split
  · exact hf _ h
  · exact h

theorem whole_step {s : State} (h : TasksWhole s.tasks) : NextWhole (step s) := by
  unfold step runStep
  split
  · exact whole_endCycle h
  · exact whole_onNext (whole_runTurns (whole_mk h)) fun _ => whole_endCycle

/-- Settles O6: what each step does to the tasks keeps every written vector register at 1,024 cells. -/
theorem stepKeepsVectorsWhole : Obligations.StepKeepsVectorsWhole := by
  unfold Obligations.StepKeepsVectorsWhole
  exact ⟨fun _ _ => .inl rfl, fun s t h e => (whole_step h).of_eq e⟩

end Sys2Proof.Machine
end

section
/-! ## SACCZ clears its tile -/

namespace Sys2Proof.Machine

theorem task_raiseAsync (s : State) (who : StrandId) (code : FaultCode) (loc : Nat) (info : Word64) (detail : Word32) (addr : Word64) (retry : Retry)
    (i : TaskId) : (s.raiseAsync who code loc info detail addr retry).task i = s.task i := by
  unfold State.raiseAsync
  dsimp only
  split <;> rfl

/-- A command's PUSH, applied or kept pending, leaves the accumulator tiles of its task (R16, R17). -/
theorem accTile_pushFor (s : State) (i : TaskId) (e : Engine) (c : Command) (n : Nat) :
    ((s.pushFor i e c).task i).accTile n = (s.task i).accTile n := by
  unfold State.pushFor
  dsimp only
  split
  · rfl
  · split
    · rfl
    · rw [task_raiseAsync, task_updTask_same]
      cases e <;> rfl

/-- Completion leaves the accumulator tiles of its task, whether or not its PUSH finds room. -/
theorem accTile_finishCommand (s : State) (i : TaskId) (e : Engine) (c : Command) (n : Nat) :
    ((s.finishCommand i e c).task i).accTile n = (s.task i).accTile n := by
  have hfinish : s.finishCommand i e c = ((s.updTask i (fun t => t.without e c.seq)).countFor i c).pushFor i e c := rfl
  rw [hfinish, accTile_pushFor, countFor_eq, task_withWork, task_updTask_same, accTile_without]

/-- Settles O48: SACCZ acts at once, and its completion leaves the tile as it has cleared it. -/
theorem sacczClears : Obligations.SacczClears := by
  unfold Obligations.SacczClears
  intro s c w i hq hs hp hl hn hw
  have hexec := (exec_seracCommandComplete hq hs hp hl).trans
    (congrArg Host.Outcome.next (progressSerac_atOnce hn (by rw [hw]; rfl)))
  have heffect : s.seracEffect i c =
      s.updAcc i (opndIndex w.d) (fun a => { a with elems := [], prog := 0, poison := false, bad := [], badState := false }) := by
    unfold State.seracEffect
    simp only [hw]
  have htile : (((s.seracEffect i c).finishCommand i .serac c).task i).accTile (opndIndex w.d) =
      { (s.task i).accTile (opndIndex w.d) with elems := [], prog := 0, poison := false, bad := [], badState := false } := by
    rw [accTile_finishCommand, heffect, accTile_updAcc, if_pos rfl]
  refine ⟨_, hexec, fun k hk => ?_, ?_, ?_⟩ <;> rw [htile]
  exact List.getD_replicate _ hk

end Sys2Proof.Machine
end

section
/-! ## SVACC of registers of which a later one is damaged -/

namespace Sys2Proof.Machine

/-- SVACC of vector registers 0 and 1 into blocks 0 and 1 of tile 0. -/
def twoBlockSvacc : Fields :=
  { fmt := 0, mod := 0, g0 := 0, g1 := 0, pop := 0, push := 0, hint := 0, dual := false, yld := false
    d := .reg 0, a := .reg 0, b := .imm 0, c := .imm 2, e := 0 }

/-- A Dusk strand ready at a word, in a task of two vector registers of which register 1 is damaged in its first cell. -/
def laterDamageState : State :=
  { State.reset with
    cur := { strand := ⟨0, 0, 0, .dusk⟩ }
    strands := ⟨[(⟨0, 0, 0, .dusk⟩, { status := .ready })]⟩
    tasks := ⟨[(⟨0, 0, 0⟩, { status := .running, hdr := { vframe := 2, accs := 1 }, badV := [1024] })]⟩ }

/-- The word issues: what it reads by its fields is register 0 alone, which is sound. -/
theorem issues_twoBlockSvacc : Issues (.svacc twoBlockSvacc) laterDamageState := by
  constructor <;> decide +kernel

/-- The body finds register 1 damaged (R387, R388). -/
theorem twoBlockSvacc_traps : bodyAccMove (.svacc twoBlockSvacc) 0xCD twoBlockSvacc 0 2 false (laterDamageState.begun (.svacc twoBlockSvacc)) =
    .error (.trap (eccTrap 4 1)) := rfl

/-- Refutes O30, in its clause on SVACC: `Issues` asks only the register that A names to be sound, and SVACC reads n of them. Of registers 0
and 1 with 1 damaged it faults ECC_UNCORR (R387), and no command enters the queue. -/
theorem not_seracCommandsEnter : ¬ Obligations.SeracCommandsEnter := by
  unfold Obligations.SeracCommandsEnter
  intro h
  obtain ⟨_, _, _, _, _, _, hmove, _⟩ := h.1 twoBlockSvacc laterDamageState
  obtain ⟨t, hexec, hdoes⟩ := hmove (.svacc twoBlockSvacc) 0 (.inr ⟨rfl, rfl⟩) issues_twoBlockSvacc (by decide +kernel) (by decide +kernel)
    (by decide +kernel) (by decide +kernel) (fun _ _ => rfl)
  have hstop := issues_twoBlockSvacc.stops rfl twoBlockSvacc_traps
  have ht : t = (laterDamageState.applyStop ⟨0, 0, 0, .dusk⟩ (.trap (eccTrap 4 1))).clearCycle := Host.Outcome.next.inj (hexec.symm.trans hstop)
  have hempty : (t.task ⟨0, 0, 0⟩).serac.queue = [] := by rw [ht]; rfl
  exact absurd (hempty.symm.trans hdoes.serac) (List.cons_ne_nil _ _).symm

end Sys2Proof.Machine
end

section
/-! ## What ending, arming and starting a load leave -/

namespace Sys2Proof.Machine

theorem Map.find?_set_same {κ α : Type} [DecidableEq κ] (m : Map κ α) (k : κ) (v : α) : (m.set k v).find? k = some v := Map.lookup_put_same _ _ _

theorem Map.find?_set_ne {κ α : Type} [DecidableEq κ] (m : Map κ α) {k k' : κ} (v : α) (h : k' ≠ k) : (m.set k v).find? k' = m.find? k' :=
  Map.lookup_put_ne _ _ h

/-- A component's value, of a map with every value replaced, where one is listed. -/
theorem Map.get_mapVals_of_find? {κ α : Type} [DecidableEq κ] {m : Map κ α} {k : κ} {v : α} (h : m.find? k = some v) (f : κ → α → α) (d : α) :
    (m.mapVals f).get k d = f k v := by
  simp [Map.get, Map.find?_mapVals, h]

/-! ### Final states (R226) -/

/-- A load in a final state, before any load after it is Skipped. -/
def Load.ended (x : Load) (st : LoadStatus) : Load :=
  { x with status := st, trigRisen := true, stopping := false, gang := x.gang.map (fun g => { g with phase := 0 }) }

/-- A load that follows one that was Refused or Stopped in its graph (R226). -/
def skippedAfter (l i : LoadId) (x : Load) : Load :=
  if i.die = l.die ∧ i.queue = l.queue ∧ l.load < i.load ∧ x.status = .queued then { x with status := .skipped } else x

theorem skippedAfter_self (l : LoadId) (x : Load) : skippedAfter l l x = x := if_neg (by simp)

/-- The loads of a graph when one of them ends (R226). -/
theorem loads_finish (s : State) (l : LoadId) (st : LoadStatus) : (s.finish l st).loads =
    if st = .refused ∨ st = .stopped then (s.loads.set l ((s.load l).ended st)).mapVals (skippedAfter l) else s.loads.set l ((s.load l).ended st) := by
  unfold State.finish
  split <;> rfl

/-- Beside the loads, ending a load is the same whatever its final state. -/
theorem finish_keeps {β : Type} (p : State → β) (hl : ∀ s m, p (State.withLoads s m) = p s) (ha : ∀ s l, p (State.answerLoad s l) = p s)
    (s : State) (l : LoadId) (st : LoadStatus) : p (s.finish l st) = p (s.release l) := by
  have hended : p (((s.withLoads (s.loads.set l ((s.load l).ended st))).release l).answerLoad l) = p (s.release l) := by
    rw [ha]
    exact hl (s.release l) _
  unfold State.finish
  split
  · exact (hl _ _).trans hended
  · exact hended

theorem mem_finish (s : State) (l : LoadId) (st : LoadStatus) : (s.finish l st).mem = s.mem :=
  finish_keeps State.mem (fun _ _ => rfl) (fun _ _ => rfl) s l st

theorem tasks_finish (s : State) (l : LoadId) (st : LoadStatus) : (s.finish l st).tasks = s.tasks :=
  finish_keeps State.tasks (fun _ _ => rfl) (fun _ _ => rfl) s l st

theorem load_finish (s : State) (l : LoadId) (st : LoadStatus) : (s.finish l st).load l = (s.load l).ended st := by
  unfold State.load
  rw [loads_finish]
  split
  · rw [Map.get_mapVals_of_find? (Map.find?_set_same _ _ _), skippedAfter_self]
    rfl
  · exact Map.get_set_same _ _ _ _

/-- A load that has ended holds no channel (R226). -/
theorem chans_finish {s : State} {l : LoadId} {st : LoadStatus} {e : ChanId × Channel} (h : e ∈ (s.finish l st).chans.entries) : e.1.load ≠ l := by
  rw [finish_keeps State.chans (fun _ _ => rfl) (fun _ _ => rfl)] at h
  exact of_decide_eq_true (List.mem_filter.mp h).2

/-- A load that has ended holds no region (R325). -/
theorem regions_finish {s : State} {l : LoadId} {st : LoadStatus} {e : RegionId × Region} (h : e ∈ (s.finish l st).regions.entries) :
    e.2.load ≠ some l := by
  rw [finish_keeps State.regions (fun _ _ => rfl) (fun _ _ => rfl)] at h
  obtain ⟨r, _, rfl⟩ := List.mem_map.mp h
  show (if r.2.load = some l then s.freeRegion r.1 r.2 else r.2).load ≠ some l
  split
  · exact Option.some_ne_none l ∘ Eq.symm
  · assumption

/-- The Queued loads after a Refused one are Skipped (R226). -/
theorem finish_refused_skips {s : State} {l i : LoadId} {x : Load} (hd : i.die = l.die) (hq : i.queue = l.queue) (hk : l.load < i.load)
    (hf : s.loads.find? i = some x) (hx : x.status = .queued) : ((s.finish l .refused).load i).status = .skipped := by
  have hne : i ≠ l := by rintro rfl; exact absurd hk (lt_irrefl _)
  have hfind := (Map.find?_set_ne s.loads ((s.load l).ended .refused) hne).trans hf
  rw [State.load, loads_finish, if_pos (Or.inl rfl), Map.get_mapVals_of_find? hfind, skippedAfter, if_pos ⟨hd, hq, hk, hx⟩]

/-- A load refused for a failure (R224): its reason and entry are recorded, and the Queued loads after it are Skipped. -/
theorem refuse_spec (s : State) (l : LoadId) (f : Failure) :
    ((s.refuse l f).load l).status = .refused ∧ ((s.refuse l f).load l).reason = f.1 ∧ ((s.refuse l f).load l).entry = f.2 ∧
      (s.refuse l f).mem = s.mem ∧ (s.refuse l f).tasks = s.tasks ∧
      ∀ k y, l.load < k → s.loads.find? ⟨l.die, l.queue, k⟩ = some y → y.status = .queued →
        ((s.refuse l f).load ⟨l.die, l.queue, k⟩).status = .skipped := by
  refine ⟨?_, ?_, ?_, mem_finish _ _ _, tasks_finish _ _ _, fun k y hk hf hy => ?_⟩
  · rw [State.refuse, load_finish]; rfl
  · rw [State.refuse, load_finish, load_updLoad_same]; rfl
  · rw [State.refuse, load_finish, load_updLoad_same]; rfl
  · have hne : (⟨l.die, l.queue, k⟩ : LoadId) ≠ l := fun h => absurd (congrArg LoadId.load h) (Nat.ne_of_gt hk)
    exact finish_refused_skips rfl rfl hk ((Map.find?_set_ne _ _ hne).trans hf) hy

/-! ### Arming (R226, R331) -/

theorem bindChannel_keeps {β : Type} (p : State → β) (hp : ∀ s i g, p (State.updPort s i g) = p s) (hc : ∀ s i c, p (State.setChan s i c) = p s)
    (s : State) (id : ChanId) (c : List Word64) : p (s.bindChannel id c) = p s := by
  unfold State.bindChannel
  rw [foldl_keeps p _ (fun _ _ => hp _ _ _), hp, hc]

/-- Binding the channels of a load, one after another, touches channels and ports alone. -/
theorem bindChannels_keeps {β : Type} (p : State → β) (hp : ∀ s i g, p (State.updPort s i g) = p s) (hc : ∀ s i c, p (State.setChan s i c) = p s)
    (s : State) (l : LoadId) (cs : List (List Word64 × Nat)) : p (cs.foldl (fun a c => a.bindChannel ⟨l, c.2⟩ c.1) s) = p s :=
  foldl_keeps p _ (fun _ _ => bindChannel_keeps p hp hc _ _ _) cs s

/-- An Armed load has the tiles, grids, privilege and channels of its tables. -/
theorem load_arm (s : State) (l : LoadId) (t : Tables) :
    ((s.arm l t).load l).status = .armed ∧ ((s.arm l t).load l).tiles = t.tileEntries.map (fun w => ⟨tileOf w, tileGrid w⟩) ∧
      ((s.arm l t).load l).grids = t.gridEntries.map (s.gridOf l) ∧ ((s.arm l t).load l).priv = (dw t.d 0).getLsbD 51 ∧
      ((s.arm l t).load l).nchan = t.nchan := by
  dsimp only [State.arm]
  rw [bindChannels_keeps (fun x => x.load l) (fun _ _ _ => rfl) (fun _ _ _ => rfl), State.takesTurn, load_updDie, load_setLoad_same]
  exact ⟨rfl, rfl, rfl, rfl, rfl⟩

/-- Arming a load leaves what is no load, channel, port or die. -/
theorem arm_keeps {β : Type} (p : State → β) (hp : ∀ s i g, p (State.updPort s i g) = p s) (hc : ∀ s i c, p (State.setChan s i c) = p s)
    (hd : ∀ s i g, p (State.updDie s i g) = p s) (hl : ∀ s i x, p (State.setLoad s i x) = p s) (s : State) (l : LoadId) (t : Tables) :
    p (s.arm l t) = p s := by
  dsimp only [State.arm]
  rw [bindChannels_keeps p hp hc, State.takesTurn, hd, hl]

/-! ### Configuring (R224 to R226) -/

/-- What LOAD_CONFIGURE finds when it looks at the tables of its load: the load is Configuring, nothing has stopped or refused it, its record area
is pinned, and its tables can be read. -/
structure State.Configures (s : State) (l : LoadId) (t : Tables) : Prop where
  status : (s.load l).status = .configuring
  stopping : (s.load l).stopping = false
  reason : (s.load l).reason = 0
  pinned : s.pinRecords l = (s, true)
  tables : s.readTables l = some t

theorem loadConfigure_refuses {s : State} {t : Tables} {f : Failure} (h : s.Configures s.event.load t)
    (hf : firstFailure (s.failures t s.event.load) = some f) (hr : f.1 ≤ 5) : eventLoadConfigure s = s.refuse s.event.load f := by
  unfold eventLoadConfigure
  simp [h.status, h.stopping, h.reason, h.pinned, h.tables, hf, hr]

theorem loadConfigure_arms {s : State} {t : Tables} (h : s.Configures s.event.load t) (hf : firstFailure (s.failures t s.event.load) = none)
    (hr : t.regionEntries = []) (hfree : s.free s.event.load t = true) (ho : s.outranked s.event.load t = false) :
    eventLoadConfigure s = s.arm s.event.load t := by
  unfold eventLoadConfigure
  simp [h.status, h.stopping, h.reason, h.pinned, h.tables, hf, hr, hfree, ho]

/-! ### Region images (R324, R325) -/

/-- A region waits for its image to be verified: it is held by a Configuring load, whose tables can be read. -/
structure State.AwaitsImage (s : State) (i : RegionId) (k : LoadId) (t : Tables) : Prop where
  held : (s.region i).load = some k
  configuring : (s.load k).status = .configuring
  unverified : (s.region i).verified = false
  tables : s.readTables k = some t

theorem imageVerified_loads {s : State} {k : LoadId} {t : Tables} {im : Image} (h : s.AwaitsImage ⟨s.event.die, s.event.region⟩ k t)
    (him : s.acceptImage t.types ⟨s.event.die, s.event.region⟩ (s.load k).domain (s.region ⟨s.event.die, s.event.region⟩).imageVa.toNat
      (s.region ⟨s.event.die, s.event.region⟩).clksel = some im) :
    eventImageVerified s = s.setRegion ⟨s.event.die, s.event.region⟩ { s.region ⟨s.event.die, s.event.region⟩ with
      image := some im, verified := true
      status := if (s.region ⟨s.event.die, s.event.region⟩).status = .fetching then .loaded else (s.region ⟨s.event.die, s.event.region⟩).status } := by
  unfold eventImageVerified
  simp [h.held, h.configuring, h.unverified, h.tables, him]

theorem imageVerified_refuses {s : State} {k : LoadId} {t : Tables} (h : s.AwaitsImage ⟨s.event.die, s.event.region⟩ k t)
    (him : s.acceptImage t.types ⟨s.event.die, s.event.region⟩ (s.load k).domain (s.region ⟨s.event.die, s.event.region⟩).imageVa.toNat
      (s.region ⟨s.event.die, s.event.region⟩).clksel = none) :
    eventImageVerified s = s.refuse k (5, (s.region ⟨s.event.die, s.event.region⟩).entry) := by
  unfold eventImageVerified
  simp [h.held, h.configuring, h.unverified, h.tables, him]

/-! ### Starting (R226, R227) -/

/-- COUNT read from the grid entries changes the load's own grids alone (R210). -/
theorem loadCounts_keeps {β : Type} (p : State → β) (hl : ∀ s i g, p (State.updLoad s i g) = p s) (s : State) (l : LoadId) :
    p (s.loadCounts l) = p s := by
  unfold State.loadCounts
  split
  · exact hl _ _ _
  · rfl

theorem load_loadCounts_ne (s : State) {l k : LoadId} (h : k ≠ l) : (s.loadCounts l).load k = s.load k := by
  unfold State.loadCounts
  split
  · exact load_updLoad_ne _ _ h
  · rfl

/-- A load that enters Running; its trigger has risen when it waits for no task (R226, R227). -/
def Load.begun (x : Load) : Load := { x with status := .running, trigRisen := x.trigRisen || (x.trigv && x.trigcnt == 0) }

/-- A load and its regions Running, before the next load of its graph is reached (R226). -/
def State.runLoad (s : State) (l : LoadId) : State :=
  { s.updLoad l Load.begun with
    regions := s.regions.mapVals (fun _ r => if r.load = some l ∧ r.status = RegionStatus.loaded then { r with status := .running } else r) }

theorem load_runLoad (s : State) (l k : LoadId) : (s.runLoad l).load k = (s.updLoad l Load.begun).load k := rfl

/-- A load that its graph has reached (R226). -/
def Load.reached (x : Load) : Load := { x with status := .configuring }

/-- The load that follows another in its graph. -/
def nextLoad (l : LoadId) : LoadId := ⟨l.die, l.queue, l.load + 1⟩

theorem nextLoad_ne (l : LoadId) : nextLoad l ≠ l := fun h => absurd (congrArg LoadId.load h) (Nat.succ_ne_self _)

theorem startLoad_eq (s : State) (l : LoadId) :
    s.startLoad l = s.runLoad l ∨ s.startLoad l = (s.runLoad l).updLoad (nextLoad l) Load.reached := by
  unfold State.startLoad
  dsimp only
  split
  · split
    · exact .inr rfl
    · exact .inl rfl
  · exact .inl rfl

theorem startLoad_reaches {s : State} {l : LoadId} {g : Graph} (hg : (s.queue ⟨l.die, l.queue⟩).graph = some g) (hn : l.load + 1 < g.nloads)
    (hq : (s.load (nextLoad l)).status = .queued) : s.startLoad l = (s.runLoad l).updLoad (nextLoad l) Load.reached := by
  have hnext : ((s.runLoad l).load (nextLoad l)).status = .queued := by
    rw [load_runLoad, load_updLoad_ne _ _ (nextLoad_ne l), hq]
  unfold State.startLoad
  dsimp only
  split
  · next g' hg' =>
    obtain rfl : g = g' := Option.some.inj (hg.symm.trans hg')
    exact if_pos ⟨hn, hnext⟩
  · next hnone => exact absurd (hg.symm.trans hnone) (Option.some_ne_none g)

/-- What of a state is neither a load nor a region stands as it did when a load starts. -/
theorem startLoad_keeps {β : Type} (p : State → β) (hl : ∀ s m, p (State.withLoads s m) = p s) (s : State) (l : LoadId) :
    p (s.startLoad l) = p (s.runLoad l) := by
  obtain h | h := startLoad_eq s l <;> rw [h]
  exact hl _ _

theorem status_startLoad (s : State) (l : LoadId) : ((s.startLoad l).load l).status = .running := by
  have hrun : ((s.runLoad l).load l).status = .running := by
    rw [load_runLoad, load_updLoad_same]
    rfl
  obtain h | h := startLoad_eq s l <;> rw [h]
  · exact hrun
  · rw [load_updLoad_ne _ _ (nextLoad_ne l).symm, hrun]

/-! ### The states of a load -/

/-- What holds of every entry with a property is tested of every entry. -/
theorem all_of_imp {α : Type} {l : List α} {p : α → Prop} [DecidablePred p] {q : α → Bool} (h : ∀ e ∈ l, p e → q e = true) :
    l.all (fun e => decide (¬ p e) || q e) = true := by
  rw [List.all_eq_true]
  intro e he
  by_cases hp : p e
  · simp [h e he hp]
  · simp [hp]

/-- Settles O52: each event by the one operation it comes to under its premises: refuse, arm, startLoad, finish. -/
theorem loadStates : Obligations.LoadStates := by
  unfold Obligations.LoadStates
  intro s l x next
  refine ⟨?refuse, ?arm, ?image, ?start, ?complete, ?exit⟩
  case refuse =>
    intro tb f hst hstop hr hp ht hf hle
    exact ⟨_, congrArg Host.Outcome.next (loadConfigure_refuses ⟨hst, hstop, hr, hp, ht⟩ hf hle), refuse_spec s l f⟩
  case arm =>
    intro tb hst hstop hr hp ht hf hre hfree ho
    obtain ⟨hstatus, htiles, hgrids, hpriv, hchan⟩ := load_arm s l tb
    refine ⟨_, congrArg Host.Outcome.next (loadConfigure_arms ⟨hst, hstop, hr, hp, ht⟩ hf hre hfree ho), hstatus, htiles, ?_, hpriv, hchan, ?_, ?_, ?_⟩
    · rw [hgrids, List.length_map]
    · exact arm_keeps State.mem (fun _ _ _ => rfl) (fun _ _ _ => rfl) (fun _ _ _ => rfl) (fun _ _ _ => rfl) s l tb
    · exact arm_keeps State.tasks (fun _ _ _ => rfl) (fun _ _ _ => rfl) (fun _ _ _ => rfl) (fun _ _ _ => rfl) s l tb
    · exact arm_keeps State.strands (fun _ _ _ => rfl) (fun _ _ _ => rfl) (fun _ _ _ => rfl) (fun _ _ _ => rfl) s l tb
  case image =>
    intro id r k tb hl hst hv ht
    cases him : s.acceptImage tb.types id (s.load k).domain r.imageVa.toNat r.clksel with
    | none => exact congrArg Host.Outcome.next (imageVerified_refuses ⟨hl, hst, hv, ht⟩ him)
    | some im => exact congrArg Host.Outcome.next (imageVerified_loads ⟨hl, hst, hv, ht⟩ him)
  case start =>
    intro hst hg hstop hgate hready
    refine ⟨_, congrArg Host.Outcome.next (if_pos ⟨hst, hg, hstop, hgate, hready⟩), status_startLoad _ l, ?_, ?_, fun i r hf => ?_, fun g hq hn hnext => ?_⟩
    · exact (startLoad_keeps State.mem (fun _ _ => rfl) _ l).trans (loadCounts_keeps State.mem (fun _ _ _ => rfl) s l)
    · exact (startLoad_keeps State.tasks (fun _ _ => rfl) _ l).trans (loadCounts_keeps State.tasks (fun _ _ _ => rfl) s l)
    · have hfind : (s.loadCounts l).regions.find? i = some r := (congrArg (Map.find? · i) (loadCounts_keeps State.regions (fun _ _ _ => rfl) s l)).trans hf
      exact (startLoad_keeps (fun u => u.region i) (fun _ _ => rfl) _ l).trans (Map.get_mapVals_of_find? hfind _ _)
    · have hgraph : ((s.loadCounts l).queue ⟨l.die, l.queue⟩).graph = some g :=
        (loadCounts_keeps (fun u => (u.queue ⟨l.die, l.queue⟩).graph) (fun _ _ _ => rfl) s l).trans hq
      have hqueued : ((s.loadCounts l).load (nextLoad l)).status = .queued := (congrArg Load.status (load_loadCounts_ne s (nextLoad_ne l))).trans hnext
      rw [startLoad_reaches hgraph hn hqueued]
      exact congrArg Load.status (load_updLoad_same _ _ _)
  case complete =>
    intro hst he hstop hgate hearlier hgrids hsettled hchans hregions
    have hall : (List.range x.grids.length).all (s.gridComplete l) = true := List.all_eq_true.mpr (fun k hk => hgrids k (List.mem_range.mp hk))
    refine ⟨_, congrArg Host.Outcome.next (if_pos ⟨hst, he, hstop, hgate, hearlier, hall, hsettled, all_of_imp hchans, all_of_imp hregions⟩),
      ?_, mem_finish _ _ _, tasks_finish _ _ _, fun _ => chans_finish, fun _ => regions_finish⟩
    rw [load_finish]
    rfl
  case exit =>
    intro hst he hstop hgate hexiting hsettled hearlier
    have hexit : eventLoadExit s = s.finish l .exited := by
      unfold eventLoadExit
      dsimp only [l, x] at *
      simp [hst, he, hstop, hgate, hexiting, hsettled, hearlier]
    refine ⟨_, congrArg Host.Outcome.next hexit, ?_, mem_finish _ _ _, tasks_finish _ _ _, fun _ => chans_finish⟩
    rw [load_finish]
    rfl

end Sys2Proof.Machine
end

section
/-! ## Entries of graph queues -/

namespace Sys2Proof.Machine

/-! ### Graphs reached (R220) -/

/-- A graph that has reached its first load. -/
def Graph.begun (g : Graph) : Graph := { g with started := true }

/-- The state in which a graph has reached its first load. -/
def State.firstReached (s : State) (q : QueueId) (g : Graph) : State :=
  (s.updQueue q (fun x => { x with graph := some g.begun })).updLoad (graphLoad q 0) Load.reached

/-- A graph whose wait is met reaches its first load. -/
theorem reachFirst_met {s : State} {q : QueueId} {g : Graph}
    (hw : g.wvalid = false ∨ ((s.queue ⟨q.die, g.waitq⟩).completed - g.waitcnt).msb = false) (hl : (s.load (graphLoad q 0)).status = .queued) :
    s.reachFirst q g = s.firstReached q g := by
  unfold State.reachFirst
  rw [if_pos hw, State.updLoad, load_updQueue, if_pos hl]
  rfl

/-- A graph whose wait is not met stands. -/
theorem reachFirst_waits {s : State} {q : QueueId} {g : Graph} (hv : g.wvalid = true)
    (hw : ((s.queue ⟨q.die, g.waitq⟩).completed - g.waitcnt).msb = true) : s.reachFirst q g = s := by
  unfold State.reachFirst
  simp [hv, hw]

/-! ### Loads listed (R219, R221) -/

/-- A load as its graph lists it: Queued, with the reason for which it will be refused. -/
def listedLoad (domain : BitVec 8) (bad : Option Failure) (v : Word64) (k : Nat) : Load :=
  let f : Failure := (if k = 0 ∧ bad.isSome then bad else if fld v 63 56 ≠ 0 ∨ fld v 6 0 ≠ 0 then some (1, 0) else none).getD (0, 0)
  { va := BitVec.ofNat 64 (fld v 55 0), domain := domain, reason := f.1, entry := f.2 }

theorem listLoads_eq (s : State) (q : QueueId) (domain : BitVec 8) (vas : List Word64) (bad : Option Failure) :
    s.listLoads q domain vas bad = vas.zipIdx.foldl (fun x e => x.setLoad (graphLoad q e.2) (listedLoad domain bad e.1 e.2)) s := rfl

theorem listLoads_keeps {β : Type} (p : State → β) (hp : ∀ s i x, p (State.setLoad s i x) = p s) (s : State) (q : QueueId) (domain : BitVec 8)
    (vas : List Word64) (bad : Option Failure) : p (s.listLoads q domain vas bad) = p s :=
  foldl_keeps p _ (fun _ _ => hp _ _ _) _ _

theorem graphLoad_inj {q : QueueId} {j k : Nat} : graphLoad q j = graphLoad q k ↔ j = k := by
  simp [graphLoad]

/-- Loads of a graph set one after another, from an index on. -/
theorem load_foldl_setLoad (f : Word64 → Nat → Load) (q : QueueId) (vas : List Word64) (s : State) (n k : Nat) :
    ((vas.zipIdx n).foldl (fun x e => x.setLoad (graphLoad q e.2) (f e.1 e.2)) s).load (graphLoad q k) =
      if n ≤ k ∧ k < n + vas.length then f (vas.getD (k - n) 0) k else s.load (graphLoad q k) := by
  induction vas generalizing s n with
  | nil => rw [if_neg (by simp)]; rfl
  | cons v vs ih =>
    rw [List.zipIdx_cons, List.foldl_cons, ih, load_setLoad]
    simp only [graphLoad_inj, List.length_cons]
    obtain hlt | rfl | hgt := Nat.lt_trichotomy k n
    · rw [if_neg (by omega), if_neg (by omega), if_neg (by omega)]
    · rw [if_neg (by omega), if_pos rfl, if_pos (by omega), Nat.sub_self]
      rfl
    · obtain ⟨j, rfl⟩ := Nat.exists_eq_add_of_lt hgt
      rw [if_neg (by omega : n + j + 1 ≠ n), show n + j + 1 - n = j + 1 by omega, show n + j + 1 - (n + 1) = j by omega, List.getD_cons_succ]
      exact if_congr (by omega) rfl rfl

theorem load_listLoads {q : QueueId} {vas : List Word64} {k : Nat} (s : State) (domain : BitVec 8) (bad : Option Failure) (h : k < vas.length) :
    (s.listLoads q domain vas bad).load (graphLoad q k) = listedLoad domain bad (vas.getD k 0) k := by
  rw [listLoads_eq, load_foldl_setLoad, if_pos ⟨Nat.zero_le k, by omega⟩, Nat.sub_zero]

/-- A load whose own address is admitted carries the graph's failure, if it is the first, and no other. -/
theorem listedLoad_reason {domain : BitVec 8} {bad : Option Failure} {v : Word64} {k : Nat} (hv : fld v 63 56 = 0 ∧ fld v 6 0 = 0) :
    (listedLoad domain bad v k).reason = if k = 0 then (bad.getD (0, 0)).1 else 0 := by
  unfold listedLoad
  cases bad <;> by_cases hk : k = 0 <;> simp [hk, hv]

theorem load_firstReached (s : State) (q : QueueId) (g : Graph) (k : Nat) : (s.firstReached q g).load (graphLoad q k) =
    if k = 0 then (s.load (graphLoad q k)).reached else s.load (graphLoad q k) := by
  unfold State.firstReached
  by_cases hk : k = 0
  · rw [if_pos hk, hk, load_updLoad_same, load_updQueue]
  · rw [if_neg hk, load_updLoad_ne _ _ (fun h => hk (graphLoad_inj.mp h)), load_updQueue]

/-! ### The entry (R219 to R221) -/

/-- The graph that an entry and its descriptor give. -/
def graphOf (e h vas : List Word64) : Graph :=
  { va := BitVec.ofNat 64 (fld (dw e 0) 55 0), nloads := fld (dw h 0) 51 44 + 1, loadVas := vas, statusVa := BitVec.ofNat 64 (fld (dw h 1) 55 0)
    irq := (dw e 1).getLsbD 0, wvalid := (dw e 1).getLsbD 63, waitq := fld (dw e 1) 59 48, waitcnt := (dw e 2).extractLsb' 32 32
    records := fld (dw h 1) 5 0 == 0 }

/-- The failure that the fields of a graph descriptor give its first load. -/
def graphFailure (va : Nat) (h : List Word64) : Option Failure := if graphClean va h = false then some (1, 0) else none

/-- The first load of a graph whose descriptor is wrong is refused for reason 0x01, and no other. -/
theorem graphFailure_reason (va : Nat) (h : List Word64) (k : Nat) :
    (if k = 0 then ((graphFailure va h).getD (0, 0)).1 else 0) = if k = 0 ∧ graphClean va h = false then 1 else 0 := by
  unfold graphFailure
  cases hc : graphClean va h <;> by_cases hk : k = 0 <;> simp [hk]

/-- The state in which a queue has taken its next entry, and the loads of its graph are listed. -/
def State.entryTaken (s : State) (q : QueueId) (g : Graph) (bad : Option Failure) : State :=
  (s.updQueue q (fun x => { x with head := x.head + 1, graph := some g })).listLoads q (s.queueDomain q.die q.queue) g.loadVas bad

theorem load_entryTaken (s : State) (q : QueueId) {g : Graph} {k : Nat} (bad : Option Failure) (h : k < g.loadVas.length) :
    (s.entryTaken q g bad).load (graphLoad q k) = listedLoad (s.queueDomain q.die q.queue) bad (g.loadVas.getD k 0) k := load_listLoads _ _ _ h

theorem queue_entryTaken (s : State) (q : QueueId) (g : Graph) (bad : Option Failure) :
    (s.entryTaken q g bad).queue q = { s.queue q with head := (s.queue q).head + 1, graph := some g } :=
  (listLoads_keeps (fun u => u.queue q) (fun _ _ _ => rfl) _ _ _ _ _).trans (queue_updQueue_same _ _ _)

theorem queue_firstReached (s : State) (q : QueueId) (g : Graph) : (s.firstReached q g).queue q = { s.queue q with graph := some g.begun } := by
  rw [State.firstReached, queue_updLoad, queue_updQueue_same]

/-- A queue takes an entry that is clean and whose graph descriptor can be read. -/
theorem readEntry_clean {s : State} {q : QueueId} {e h vas : List Word64}
    (he : s.readDwords q.die (s.queueDomain q.die q.queue)
      ((s.queue q).base.toNat + 32 * ((s.queue q).head.toNat % 2 ^ (s.queue q).logsize.toNat)) 4 = some e)
    (hc : entryClean e = true) (hh : s.readDwords q.die (s.queueDomain q.die q.queue) (fld (dw e 0) 55 0) 8 = some h)
    (hv : s.readDwords q.die (s.queueDomain q.die q.queue) (fld (dw e 0) 55 0 + 64) (fld (dw h 0) 51 44 + 1) = some vas) :
    s.readEntry q = (s.entryTaken q (graphOf e h vas) (graphFailure (fld (dw e 0) 55 0) h)).reachFirst q (graphOf e h vas) := by
  unfold State.readEntry
  simp only [he, hh, hv, hc]
  rfl

theorem graphEntryRead_takes {s : State} (hg : (s.queue ⟨s.event.die, s.event.queue⟩).graph = none)
    (he : (s.queue ⟨s.event.die, s.event.queue⟩).enable = true)
    (hne : (s.queue ⟨s.event.die, s.event.queue⟩).head ≠ (s.queue ⟨s.event.die, s.event.queue⟩).tail) :
    eventEntryRead s = s.readEntry ⟨s.event.die, s.event.queue⟩ := by
  unfold eventEntryRead
  simp [hg, he, hne]

theorem graphEntryRead_waits {s : State} {g : Graph} (hg : (s.queue ⟨s.event.die, s.event.queue⟩).graph = some g) (hs : g.started = false) :
    eventEntryRead s = s.reachFirst ⟨s.event.die, s.event.queue⟩ g := by
  unfold eventEntryRead
  simp [hg, hs]

end Sys2Proof.Machine
end

section
/-! ## Graphs that complete -/

namespace Sys2Proof.Machine

/-! ### Completion records (R225) -/

/-- Bits put in front of others, as numbers. -/
theorem toNat_append_eq {n m : Nat} (a : BitVec n) (b : BitVec m) : (a ++ b).toNat = a.toNat * 2 ^ m + b.toNat := by
  rw [BitVec.toNat_append, Nat.shiftLeft_eq, Nat.mul_comm, Nat.two_pow_add_eq_or_of_lt b.isLt]

/-- The first doubleword of a completion record is its fields side by side. -/
theorem recordHead_eq (code reason entry : Nat) :
    BitVec.ofNat 64 (code * 2 ^ 56 + reason % 256 * 2 ^ 48 + entry % 65536 * 2 ^ 32) =
      BitVec.ofNat 8 code ++ BitVec.ofNat 8 reason ++ BitVec.ofNat 16 entry ++ (0 : BitVec 32) := by
  apply BitVec.eq_of_toNat_eq
  simp only [toNat_append_eq, BitVec.toNat_ofNat, BitVec.ofNat_eq_ofNat]
  omega

/-- Two counts of a completion record share a doubleword. -/
theorem recordCounts_eq (a b : Word32) : BitVec.ofNat 64 (a.toNat * 2 ^ 32 + b.toNat) = a ++ b := by
  apply BitVec.eq_of_toNat_eq
  rw [toNat_append_eq, BitVec.toNat_ofNat]
  omega

/-- The completion record of a load, its fields side by side. -/
theorem completion_eq (l : Load) : l.completion =
    [BitVec.ofNat 8 l.status.code ++ (if l.status == .refused || l.status == .stopped then BitVec.ofNat 8 l.reason else 0) ++
        (if l.status = .refused then BitVec.ofNat 16 l.entry else 0) ++ (0 : BitVec 32),
      l.tasksDone ++ l.tasksKilled, l.discarded ++ l.firstDisc, 0] ++
      (if l.status = .stopped then [l.record.dw0, l.record.dw1, l.record.dw2, l.record.dw3] else [0, 0, 0, 0]) := by
  have hreason (p : Prop) [Decidable p] : (if p then l.reason % 256 else 0) = (if p then l.reason else 0) % 256 := by split <;> rfl
  have hentry (p : Prop) [Decidable p] : (if p then l.entry % 65536 else 0) = (if p then l.entry else 0) % 65536 := by split <;> rfl
  unfold Load.completion
  dsimp only
  rw [recordCounts_eq, recordCounts_eq, hreason, hentry, recordHead_eq, apply_ite (BitVec.ofNat 8), apply_ite (BitVec.ofNat 16), Bool.or_comm]
  simp only [beq_iff_eq]
  rfl

/-! ### GRAPH_COMPLETE of one load (R225, R226, R229) -/

/-- A queue whose graph has ended (R229). -/
def GraphQueue.ended (r : GraphQueue) (stat last : BitVec 8) : GraphQueue :=
  { r with graph := none, completed := r.completed + 1, laststat := stat, lastload := last }

/-- The state once a graph has ended: its queue counts it, its loads are gone, and the monitors count it. -/
def State.graphEnded (s : State) (q : QueueId) (stat last : BitVec 8) : State :=
  { s.updQueue q (fun r => r.ended stat last) with
    loads := ⟨s.loads.entries.filter (fun e => ¬ (e.1.die = q.die ∧ e.1.queue = q.queue))⟩ }.monitor q.die 0x50 1

theorem monitor_keeps {β : Type} (p : State → β) (hp : ∀ s i g, p (State.updDie s i g) = p s) (s : State) (die src n : Nat) :
    p (s.monitor die src n) = p s := by
  unfold State.monitor
  split
  · rfl
  · exact hp _ _ _

theorem mem_graphEnded (s : State) (q : QueueId) (stat last : BitVec 8) : (s.graphEnded q stat last).mem = s.mem :=
  monitor_keeps State.mem (fun _ _ _ => rfl) _ _ _ _

theorem tasks_graphEnded (s : State) (q : QueueId) (stat last : BitVec 8) : (s.graphEnded q stat last).tasks = s.tasks :=
  monitor_keeps State.tasks (fun _ _ _ => rfl) _ _ _ _

theorem queue_graphEnded (s : State) (q : QueueId) (stat last : BitVec 8) : (s.graphEnded q stat last).queue q = (s.queue q).ended stat last :=
  (monitor_keeps (fun u => u.queue q) (fun _ _ _ => rfl) _ _ _ _).trans (queue_updQueue_same s q (fun r => r.ended stat last))

/-- The loads of a graph that has ended are gone. -/
theorem loads_graphEnded {s : State} {q : QueueId} {stat last : BitVec 8} {e : LoadId × Load} (h : e ∈ (s.graphEnded q stat last).loads.entries) :
    ¬ (e.1.die = q.die ∧ e.1.queue = q.queue) := by
  rw [State.graphEnded, monitor_keeps State.loads (fun _ _ _ => rfl)] at h
  exact of_decide_eq_true (List.mem_filter.mp h).2

/-- The first load of a graph that was Refused or Stopped (R226). -/
def State.badLoad (s : State) (q : QueueId) (n : Nat) : Option Nat :=
  (List.range n).find? (fun k => (s.load (graphLoad q k)).status == .refused || (s.load (graphLoad q k)).status == .stopped)

/-- LASTSTAT of a graph, by the first of its loads that was Refused or Stopped (R226). -/
def State.graphStat (s : State) (q : QueueId) : Option Nat → Nat
  | some k => if (s.load (graphLoad q k)).status = .refused then 1 else 2
  | none => 0

/-- The completion records of a graph written, where they may be (R225). -/
def State.recordsWritten (s : State) (q : QueueId) (g : Graph) : State :=
  if g.records then
    (List.range g.nloads).foldl (fun x k => x.writePinned g.parts (g.statusVa.toNat + 64 * k) (ofDwords (s.load (graphLoad q k)).completion)) s
  else s

/-- A graph whose loads are all final, and that asks for no interrupt, writes its records and ends. -/
theorem graphComplete_ends {s : State} {q : QueueId} {g : Graph} (hq : q = ⟨s.event.die, s.event.queue⟩) (hg : (s.queue q).graph = some g)
    (hs : g.saved = false) (hf : ∀ k < g.nloads, (s.load (graphLoad q k)).status.final = true) (hi : g.irq = false) :
    eventGraphComplete s = (s.recordsWritten q g).graphEnded q (BitVec.ofNat 8 (s.graphStat q (s.badLoad q g.nloads)))
      (BitVec.ofNat 8 ((s.badLoad q g.nloads).getD (g.nloads - 1))) := by
  have hall : (List.range g.nloads).all (fun k => (s.load (graphLoad q k)).status.final) = true :=
    List.all_eq_true.mpr (fun k hk => hf k (List.mem_range.mp hk))
  subst hq
  unfold eventGraphComplete
  simp only [hg, hs, hall, hi, Bool.false_eq_true, Bool.true_eq_false, or_self, if_false]
  rfl

theorem badLoad_one (s : State) (q : QueueId) : s.badLoad q 1 =
    if (s.load (graphLoad q 0)).status == .refused || (s.load (graphLoad q 0)).status == .stopped then some 0 else none := by
  rw [State.badLoad, List.range_one, List.find?_singleton]

/-- LASTLOAD of a graph of one load. -/
theorem lastload_one (s : State) (q : QueueId) : (s.badLoad q 1).getD (1 - 1) = 0 := by
  rw [badLoad_one]
  split <;> rfl

/-- LASTSTAT of a graph of one load. -/
theorem graphStat_one (s : State) (q : QueueId) : BitVec.ofNat 8 (s.graphStat q (s.badLoad q 1)) =
    if (s.load (graphLoad q 0)).status = .refused then 1 else if (s.load (graphLoad q 0)).status = .stopped then 2 else 0 := by
  rw [badLoad_one]
  cases hst : (s.load (graphLoad q 0)).status <;> simp [State.graphStat, hst]

/-- A repair touches what is damaged alone (R388). -/
theorem repair_eq (s : State) (pa n : Nat) : ∃ d, s.repair pa n = { s with damaged := d } := by
  dsimp only [State.repair]
  split
  · exact ⟨_, rfl⟩
  · exact ⟨_, rfl⟩

/-- A write of memory touches memory and its keys alone (R245). -/
theorem writePa_eq (s : State) (pa : Nat) (bs : List Byte) (key : BitVec 4) : ∃ m k, s.writePa pa bs key = { s with mem := m, keytag := k } := by
  dsimp only [State.writePa]
  split
  · exact ⟨_, _, rfl⟩
  · exact ⟨_, _, rfl⟩

theorem tasks_writePinned (s : State) (ps : List Part) (va : Nat) (bs : List Byte) : (s.writePinned ps va bs).tasks = s.tasks := by
  unfold State.writePinned
  split
  · next p _ =>
    obtain ⟨m, k, hw⟩ := writePa_eq s (leafPa p.leaf p.level va) bs (leafKey p.leaf)
    obtain ⟨d, hr⟩ := repair_eq (s.writePa (leafPa p.leaf p.level va) bs (leafKey p.leaf)) (leafPa p.leaf p.level va) bs.length
    rw [hr, hw]
  · rfl

/-- The record of a graph of one load is written through its pinned translation (R225). -/
theorem recordsWritten_one {s : State} {q : QueueId} {g : Graph} {p : Part} (hn : g.nloads = 1) (hr : g.records = true)
    (hp : g.parts.find? (fun x => x.block == g.statusVa.toNat / 65536) = some p) :
    (s.recordsWritten q g).mem =
      (s.writePa (leafPa p.leaf p.level g.statusVa.toNat) (ofDwords (s.load (graphLoad q 0)).completion) (leafKey p.leaf)).mem := by
  unfold State.recordsWritten State.writePinned
  simp only [hn, hr, if_true, List.range_one, List.foldl_cons, List.foldl_nil, Nat.mul_zero, Nat.add_zero, hp]
  obtain ⟨d, hd⟩ := repair_eq (s.writePa (leafPa p.leaf p.level g.statusVa.toNat) (ofDwords (s.load (graphLoad q 0)).completion) (leafKey p.leaf))
    (leafPa p.leaf p.level g.statusVa.toNat) (ofDwords (s.load (graphLoad q 0)).completion).length
  rw [hd]

theorem tasks_recordsWritten (s : State) (q : QueueId) (g : Graph) : (s.recordsWritten q g).tasks = s.tasks := by
  unfold State.recordsWritten
  split
  · exact foldl_keeps State.tasks _ (fun _ _ => tasks_writePinned _ _ _ _) _ _
  · rfl

/-! ### Graphs, settled -/

/-- Settles O51: an entry by what taking it and reaching its first load leave, a graph of one load by what its record and its end leave. -/
theorem graphsRun : Obligations.GraphsRun := by
  unfold Obligations.GraphsRun
  refine ⟨fun s => ?_, fun s g p => ?_⟩
  · intro q r dom
    refine ⟨?taken, ?reached, ?waiting⟩
    case taken =>
      intro e h vas hg hen hne he hc hh hv hlen hvas hw
      have hlist (k : Nat) (hk : k < vas.length) := load_entryTaken s q (g := graphOf e h vas) (graphFailure (fld (dw e 0) 55 0) h) hk
      have hqueue := queue_entryTaken s q (graphOf e h vas) (graphFailure (fld (dw e 0) 55 0) h)
      have hfirst : ((s.entryTaken q (graphOf e h vas) (graphFailure (fld (dw e 0) 55 0) h)).load (graphLoad q 0)).status = .queued :=
        congrArg Load.status (hlist 0 (by omega))
      refine ⟨_, (graphOf e h vas).begun, congrArg Host.Outcome.next ((graphEntryRead_takes hg hen hne).trans
        ((readEntry_clean he hc hh hv).trans (reachFirst_met (.inl hw) hfirst))), ?_, ?_, ?_, rfl, rfl, rfl, ?_, fun k hk => ?_⟩
      · rw [queue_firstReached, hqueue]
      · rw [queue_firstReached, hqueue]
      · rw [queue_firstReached]
      · exact listLoads_keeps State.mem (fun _ _ _ => rfl) _ _ _ _ _
      · have hmem : vas.getD k 0 ∈ vas := List.getD_eq_getElem vas 0 hk ▸ List.getElem_mem hk
        have hreason := (listedLoad_reason (domain := dom) (k := k) (hvas _ hmem)).trans (graphFailure_reason (fld (dw e 0) 55 0) h k)
        rw [load_firstReached]
        split
        · exact ⟨rfl, congrArg Load.va (hlist k hk), (congrArg Load.reason (hlist k hk)).trans hreason⟩
        · exact ⟨congrArg Load.status (hlist k hk), congrArg Load.va (hlist k hk), (congrArg Load.reason (hlist k hk)).trans hreason⟩
    case reached =>
      intro g hg hs hv hw hl
      exact congrArg Host.Outcome.next ((graphEntryRead_waits hg hs).trans (reachFirst_met (.inr hw) hl))
    case waiting =>
      intro g hg hs hv hw
      exact congrArg Host.Outcome.next ((graphEntryRead_waits hg hs).trans (reachFirst_waits hv hw))
  · intro q l named state record hg hs hn hf hi
    have hall : ∀ k < g.nloads, (s.load (graphLoad q k)).status.final = true := by
      intro k hk
      obtain rfl : k = 0 := by omega
      exact hf
    have hend : eventGraphComplete s = (s.recordsWritten q g).graphEnded q
        (if l.status = .refused then 1 else if l.status = .stopped then 2 else 0) 0 := by
      rw [graphComplete_ends rfl hg hs hall hi, hn, lastload_one, graphStat_one]
      rfl
    refine ⟨fun hr => ?_, fun hr hp => ?_⟩
    · have hwritten : s.recordsWritten q g = s := if_neg (by simp [hr])
      rw [hwritten] at hend
      exact ⟨_, congrArg Host.Outcome.next hend, mem_graphEnded _ _ _ _, tasks_graphEnded _ _ _ _, queue_graphEnded _ _ _ _, fun _ => loads_graphEnded⟩
    · refine ⟨_, congrArg Host.Outcome.next hend, ?_, ?_, (tasks_graphEnded _ _ _ _).trans (tasks_recordsWritten s q g)⟩
      · have hstate : l.status.code = state := by
          dsimp only [state]
          cases l.status <;> rfl
        have hrecord : l.completion = record := (completion_eq l).trans (by rw [hstate])
        rw [mem_graphEnded, recordsWritten_one hn hr hp, hrecord]
      · rw [queue_graphEnded]
        rfl

end Sys2Proof.Machine
end

section
/-! ## Register writes of the owner host -/

namespace Sys2Proof.Machine

/-- Bits cut out of a word are its field. -/
theorem toNat_extractLsb'_eq_fld {n hi lo len : Nat} (v : BitVec n) (h : hi + 1 - lo = len) : (v.extractLsb' lo len).toNat = fld v hi lo := by
  rw [BitVec.extractLsb'_toNat, Nat.shiftRight_eq_div_pow, fld, bits, h]

/-! ### Where the registers lie (R438) -/

theorem agentOwner_of_owns {s : State} {f : HostFn} {die : Nat} (h : s.Owns f die) : s.agentOwner (.host f) = true := by
  obtain ⟨_, _, _, howner⟩ := h
  exact howner

/-- The blocks of the control space that hold the system registers, the regions', the graph queues' and the domains of port 0. -/
theorem ctrlRegister_of_block {o : Nat} (h8 : o % 8 = 0) (h : (0x1000 ≤ o ∧ o < 0x9000) ∨ (0x20000 ≤ o ∧ o < 0x20600 ∧ o % 32 ≠ 24) ∨
    (0x100000 ≤ o ∧ o < 0x120000) ∨ (0x401000 ≤ o ∧ o < 0x401208)) : ctrlRegister o = true := by
  simp only [ctrlRegister, Bool.and_eq_true, Bool.or_eq_true, decide_eq_true_eq, beq_iff_eq]
  omega

/-- The event's write, by the owner, of a register that is not OWNCLAIM. -/
theorem eventWrite_owned {s : State} {o : Nat} (h : s.Owns s.event.fn s.event.die) (hr : ctrlRegister o = true) (hc : o ≠ 0x400008) :
    s.eventWrite o = s.ctrlWrite (.host s.event.fn) s.event.die o s.event.value :=
  hostWriteReg_owned h hr hc _

/-- The event's write, by the owner, of a system register. -/
theorem eventWrite_sysOffset {s : State} {n : Nat} (h : s.Owns s.event.fn s.event.die) (hn : n < 4096) :
    s.eventWrite (sysOffset n) = s.sysWrite (.host s.event.fn) s.event.die n s.event.value allBits true := by
  have ho : sysOffset n = 0x1000 + 8 * n := rfl
  rw [eventWrite_owned h (ctrlRegister_of_block (by omega) (by omega)) (by omega), ctrlWrite_sysOffset _ _ _ hn]

/-- The event's write, by the owner, of a doubleword of a graph queue. -/
theorem eventWrite_queue {s : State} {q k : Nat} (h : s.Owns s.event.fn s.event.die) (hq : q < 4096) (hk : k < 4) :
    s.eventWrite (0x100000 + 32 * q + 8 * k) = s.updQueue ⟨s.event.die, q⟩ (fun x => x.write k s.event.value) := by
  rw [eventWrite_owned h (ctrlRegister_of_block (by omega) (by omega)) (by omega)]
  unfold State.ctrlWrite
  dsimp only
  rw [if_neg (by omega), if_neg (by omega), if_neg (by omega), if_neg (by omega), if_pos (by omega),
    show (0x100000 + 32 * q + 8 * k - 0x100000) / 32 = q by omega, show (0x100000 + 32 * q + 8 * k) % 32 / 8 = k by omega]

/-- The event's write, by the owner, of RSWAP dw1. -/
theorem eventWrite_swap {s : State} {r : Nat} (h : s.Owns s.event.fn s.event.die) (hreg : r < 48) :
    s.eventWrite (0x20000 + 32 * r + 8) = s.requestSwap ⟨s.event.die, r⟩ s.event.value := by
  rw [eventWrite_owned h (ctrlRegister_of_block (by omega) (by omega)) (by omega)]
  unfold State.ctrlWrite
  dsimp only
  rw [if_neg (by omega), if_neg (by omega), if_neg (by omega), if_pos (by omega), if_neg (by omega), if_pos (by omega),
    show (0x20000 + 32 * r + 8 - 0x20000) / 32 = r by omega]

/-- The event's write, by the owner, of PREQ dw1. -/
theorem eventWrite_preempt {s : State} (h : s.Owns s.event.fn s.event.die) :
    s.eventWrite 0x10008 = s.requestPreempt s.event.die s.event.value := by
  rw [eventWrite_owned h (by decide) (by decide)]
  unfold State.ctrlWrite
  simp

/-- The event's write, by the owner, of OWNHAND. -/
theorem eventWrite_handover {s : State} (h : s.Owns s.event.fn s.event.die) : s.eventWrite 0x400010 = s.handover s.event.fn s.event.value := by
  rw [eventWrite_owned h (by decide) (by decide)]
  unfold State.ctrlWrite
  simp [agentOwner_of_owns h]

/-- The event's write, by the owner, of a domain register of port 0 (R441). -/
theorem eventWrite_domain {s : State} {n : Nat} (h : s.Owns s.event.fn s.event.die) (hn : n ≤ 64) :
    s.eventWrite (0x401000 + 8 * n) =
      s.updPkg s.event.fn.pkg (fun p => { p with fdom := p.fdom.set (0, n) (s.event.value.extractLsb' 0 8) }) := by
  have howner := agentOwner_of_owns h
  rw [eventWrite_owned h (ctrlRegister_of_block (by omega) (by omega)) (by omega)]
  obtain ⟨_, hown, _, _⟩ := h
  unfold State.ctrlWrite
  dsimp only
  rw [if_neg (by omega), if_neg (by omega), if_neg (by omega), if_neg (by omega), if_neg (by omega), if_neg (by omega), if_neg (by omega),
    if_pos howner, if_neg (by omega), if_pos (by omega), hown,
    show (0x401000 + 8 * n - 0x401000) / 8 = n by omega]

/-- A translation root written by firmware (R438). -/
theorem ctrlWrite_root (s : State) {die n : Nat} (hn : n < 256) (v : Word64) : s.ctrlWrite .firmware die (0x200000 + 8 * n) v =
    s.updDie die (fun d => { d with roots := d.roots.set n ((v.extractLsb' 12 40).zeroExtend 52 <<< 12) }) := by
  unfold State.ctrlWrite
  dsimp only
  rw [if_neg (by omega), if_neg (by omega), if_neg (by omega), if_neg (by omega), if_neg (by omega), if_pos (by omega), if_pos rfl,
    show (0x200000 + 8 * n - 0x200000) / 8 = n by omega]

/-! ### Graph queues (R218) -/

theorem write_enables {q : GraphQueue} {v : Word64} (he : q.enable = false) (hv : v.getLsbD 63 = true) (hlow : 4 ≤ fld v 59 55)
    (hhigh : fld v 59 55 ≤ 16) : q.write 1 v =
      { q with logsize := v.extractLsb' 55 5, prio := v.extractLsb' 60 3, vector := v.extractLsb' 44 11, enable := true, head := 0, tail := 0, completed := 0 } := by
  unfold GraphQueue.write
  simp [he, toNat_extractLsb'_eq_fld (hi := 59) v, hlow, hhigh, hv]

theorem write_tail {q : GraphQueue} {v : Word64} (h : (v.extractLsb' 0 32 - q.head).toNat ≤ 2 ^ q.logsize.toNat) :
    q.write 2 v = { q with tail := v.extractLsb' 0 32 } := if_neg (Nat.not_lt.mpr h)

/-! ### System registers (R247, R377, R396) -/

theorem sysWrite_xinv (s : State) (a : Agent) (die : Nat) (v : Word64) : s.sysWrite a die 0x21 v allBits true = s.startInvalidation die v := by
  have hv : v &&& allBits = v := BitVec.and_allOnes
  unfold State.sysWrite
  simp [hv]

theorem startInvalidation_outstanding {s : State} {die : Nat} (h : (s.die die).issued - (s.die die).done ≠ 16) (v : Word64) :
    s.startInvalidation die v = s.setDie die { s.die die with
      issued := (s.die die).issued + 1
      invs := (s.die die).invs ++ [{ domain := (s.die die).xinv0.extractLsb' 56 8, block := fld (s.die die).xinv0 55 16, nblk := v.extractLsb' 32 32 }] } := by
  rw [State.startInvalidation, State.updDie, if_neg h]

theorem writeFqctl_enables {d : Die} {v : Word64} (he : d.fqEnable = false) (hv : v.getLsbD 63 = true) (hlow : 4 ≤ fld v 62 58)
    (hhigh : fld v 62 58 ≤ 16) : d.writeFqctl v =
      { d with fqEnable := true, fqLogsize := v.extractLsb' 58 5, fqVector := v.extractLsb' 47 11, fqHead := 0, fqTail := 0 } := by
  unfold Die.writeFqctl
  simp [he, toNat_extractLsb'_eq_fld (hi := 62) v, hlow, hhigh, hv]

theorem sysWrite_fqctl (s : State) (a : Agent) (die : Nat) (v : Word64) :
    s.sysWrite a die 0x31 v allBits true = s.updDie die (fun d => d.writeFqctl v) := by
  unfold State.sysWrite
  simp [merge_allBits]

theorem sysWrite_tilehalt (s : State) (a : Agent) (die : Nat) (v : Word64) :
    s.sysWrite a die 0x60 v allBits true = s.updDie die (fun d => { d with tilehalt := v.extractLsb' 0 24 }) := by
  unfold State.sysWrite
  simp [merge_allBits]

theorem sysWrite_pwrtile {s : State} {a : Agent} (h : s.agentOwner a = true) (die : Nat) (v : Word64) :
    s.sysWrite a die 0x80 v allBits true = s.writePwrTile die v := by
  unfold State.sysWrite
  simp [h]

theorem sysWrite_pwrreg {s : State} {a : Agent} (h : s.agentOwner a = true) (die : Nat) (v : Word64) :
    s.sysWrite a die 0x81 v allBits true = s.writePwrReg die v := by
  unfold State.sysWrite
  simp [h]

/-! ### Swaps (R338) -/

theorem requestSwap_running {s : State} {r : RegionId} {l : LoadId} (hst : (s.region r).status = .running) (hs : (s.region r).swap = none)
    (hl : (s.region r).load = some l) (hp : s.preempting l = false) (v : Word64) :
    s.requestSwap r v = s.setRegion r { s.region r with swap := some { va := (s.region r).swapAddr.zeroExtend 64, clksel := fld v 5 0 } } := by
  unfold State.requestSwap
  simp [hst, hs, hl, hp]

theorem requestSwap_busy {s : State} {r : RegionId} (hst : (s.region r).status ≠ .running) (v : Word64) :
    s.requestSwap r v = s.setRegion r { s.region r with result := 5 } := by
  unfold State.requestSwap
  simp [hst]

/-! ### Ownership (R441, R442) -/

/-- OWNCLAIM reaches the package whoever owns it. -/
theorem eventWrite_claim {s : State} (hup : s.hostUp s.event.fn = true) (hd : s.event.die / 8 = s.event.fn.pkg)
    (hz : s.hostFrozen s.event.fn = false) (hf : s.event.fn.func = 0) : s.eventWrite 0x400008 = s.claim s.event.fn := by
  have hr : ctrlRegister 0x400008 = true := by decide
  unfold State.eventWrite State.hostWriteReg
  simp [ownDie, hup, hd, hz, hf, hr]

theorem claim_vacant {s : State} {f : HostFn} (hv : (s.pkg f.pkg).valid = false) (hf : f.func = 0)
    (ho : (s.pkg f.pkg).only = none ∨ (s.pkg f.pkg).only = some f.port) :
    s.claim f = (s.setPkg f.pkg { s.pkg f.pkg with valid := true, port := f.port, gen := (s.pkg f.pkg).gen + 1, only := none }).disableRings f.pkg := by
  unfold State.claim
  simp only [hv, Bool.false_eq_true, if_false]
  exact if_pos ⟨hf, ho⟩

theorem claim_rejected {s : State} {f : HostFn} (hv : (s.pkg f.pkg).valid = true) (hp : (s.pkg f.pkg).port ≠ f.port)
    (hr : (s.pkg f.pkg).reject ≠ 0xFFFF) : s.claim f = s.setPkg f.pkg { s.pkg f.pkg with reject := (s.pkg f.pkg).reject + 1 } := by
  have howner : s.isOwner f = false := by simp [State.isOwner, hp]
  unfold State.claim State.reject State.updPkg
  simp only [hv, howner, if_true, Bool.false_eq_true, if_false]
  rw [if_neg hr]

/-- A package whose owner has handed it over to a port (R442). -/
def Package.handedTo (p : Package) (port : Nat) : Package := { p with valid := false, gen := p.gen + 1, only := some port }

theorem handover_given {s : State} {f : HostFn} {v : Word64} (hv : v.getLsbD 63 = true) : s.handover f v =
    (s.updPkg f.pkg (fun p => p.handedTo (v.getLsbD 62).toNat)).disableRings f.pkg := if_pos hv

theorem fqEnable_disableRings {s : State} {k : Nat} {x : Die} (h : s.dies.find? k = some x) (pkg : Nat) :
    ((s.disableRings pkg).die k).fqEnable = if k / 8 = pkg then false else x.fqEnable := by
  rw [State.die, State.disableRings, Map.get_mapVals_of_find? h]
  split <;> rfl

end Sys2Proof.Machine
end

section
/-! ## Power of tiles and regions -/

namespace Sys2Proof.Machine

/-! ### Power bits and what rises (R449) -/

/-- The power bits of a die's tiles, or of its regions, and those on their way up. -/
structure Power (n : Nat) where
  on : BitVec n
  rising : List Nat

/-- What a write of a power register makes of one unit: `v` is what it asks for, `held` whether a load holds the unit. -/
def Power.write {n : Nat} (v : Word64) (held : Nat → Bool) (p : Power n) (t : Nat) : Power n :=
  if v.getLsbD t then (if p.on.getLsbD t ∨ p.rising.contains t then p else { p with rising := p.rising ++ [t] })
  else if p.on.getLsbD t then (if held t then p else { p with on := p.on &&& ~~~ BitVec.ofNat n (2 ^ t) })
  else { p with rising := p.rising.filter (· ≠ t) }

/-- Whether a unit is rising after a write of its bit. -/
def Power.Rises {n : Nat} (v : Word64) (p : Power n) (k : Nat) : Prop :=
  (v.getLsbD k = true ∧ (p.on.getLsbD k = false ∨ k ∈ p.rising)) ∨ (v.getLsbD k = false ∧ p.on.getLsbD k = true ∧ k ∈ p.rising)

/-- A power bit cleared. -/
theorem getLsbD_and_not_twoPow {n : Nat} (x : BitVec n) (t k : Nat) :
    (x &&& ~~~ BitVec.ofNat n (2 ^ t)).getLsbD k = (x.getLsbD k && decide (k ≠ t)) := by
  by_cases hk : k < n
  · simp only [BitVec.getLsbD_and, BitVec.getLsbD_not, BitVec.getLsbD_ofNat, Nat.testBit_two_pow, hk, decide_true, Bool.true_and, ne_comm, decide_not]
  · simp [BitVec.getLsbD_of_ge _ _ (Nat.le_of_not_lt hk)]

section
variable {n : Nat} (v : Word64) (held : Nat → Bool) (p : Power n)

/-- A unit loses power only by a bit that is 0, and not while a load holds it. -/
theorem Power.on_write (t k : Nat) : (p.write v held t).on.getLsbD k =
    if k = t then p.on.getLsbD t && (v.getLsbD t || held t) else p.on.getLsbD k := by
  unfold Power.write
  split
  · next hv =>
    have hon : (if p.on.getLsbD t = true ∨ p.rising.contains t = true then p else { p with rising := p.rising ++ [t] }).on = p.on := by
      split <;> rfl
    rw [hon]
    by_cases hk : k = t <;> simp [hk, hv]
  · next hv =>
    split
    · split
      · next hh => by_cases hk : k = t <;> simp [hk, hh]
      · next hh =>
        rw [getLsbD_and_not_twoPow]
        by_cases hk : k = t <;> simp [hk, hh, hv]
    · next ho => by_cases hk : k = t <;> simp [hk, ho]

/-- A unit begins to rise by a bit that is 1 where it has no power, and stops by a bit that is 0. -/
theorem Power.mem_rising_write (t k : Nat) : k ∈ (p.write v held t).rising ↔ if k = t then p.Rises v t else k ∈ p.rising := by
  unfold Power.write Power.Rises
  split
  · next hv =>
    split
    · next hon =>
      rw [List.contains_iff_mem] at hon
      obtain ho | hm := hon
      · by_cases hk : k = t <;> simp [hk, hv, ho]
      · by_cases hk : k = t <;> simp [hk, hv, hm]
    · next hon =>
      have ho : p.on.getLsbD t = false := Bool.eq_false_iff.mpr (fun h => hon (.inl h))
      by_cases hk : k = t <;> simp [hk, hv, ho]
  · next hv =>
    split
    · next ho =>
      have hrising : (if held t = true then p else { p with on := p.on &&& ~~~ BitVec.ofNat n (2 ^ t) }).rising = p.rising := by split <;> rfl
      rw [hrising]
      by_cases hk : k = t <;> simp [hk, hv, ho]
    · next ho => by_cases hk : k = t <;> simp [hk, hv, ho]

/-- What a write of a power register makes of every unit: each takes its own bit. -/
theorem Power.write_range (m k : Nat) :
    ((List.range m).foldl (Power.write v held) p).on.getLsbD k =
        (if k < m then p.on.getLsbD k && (v.getLsbD k || held k) else p.on.getLsbD k) ∧
      (k ∈ ((List.range m).foldl (Power.write v held) p).rising ↔ if k < m then p.Rises v k else k ∈ p.rising) := by
  induction m generalizing k with
  | zero => simp
  | succ m ih =>
    rw [List.range_succ, List.foldl_append, List.foldl_cons, List.foldl_nil, Power.on_write, Power.mem_rising_write]
    obtain hlt | rfl | hgt := Nat.lt_trichotomy k m
    · rw [if_neg (Nat.ne_of_lt hlt), if_neg (Nat.ne_of_lt hlt), if_pos (Nat.lt_succ_of_lt hlt), if_pos (Nat.lt_succ_of_lt hlt)]
      simpa only [if_pos hlt] using ih k
    · obtain ⟨hon, hrising⟩ := ih k
      rw [if_neg (lt_irrefl k)] at hon hrising
      rw [if_pos rfl, if_pos rfl, if_pos (Nat.lt_succ_self k), if_pos (Nat.lt_succ_self k), Power.Rises, hon, hrising]
      exact ⟨rfl, Iff.rfl⟩
    · rw [if_neg (Nat.ne_of_gt hgt), if_neg (Nat.ne_of_gt hgt), if_neg (by omega), if_neg (by omega)]
      simpa only [if_neg (Nat.lt_asymm hgt)] using ih k

end

/-- A fold of steps that each write the bit of one unit, while what loads hold stays. -/
theorem power_foldl {n : Nat} {v : Word64} {f : State → Nat → State} {power : State → Power n} {held : State → Nat → Bool}
    (hh : ∀ x t, held (f x t) = held x) (hp : ∀ x t, power (f x t) = (power x).write v (held x) t) (l : List Nat) (s : State) :
    power (l.foldl f s) = l.foldl (Power.write v (held s)) (power s) := by
  induction l generalizing s with
  | nil => rfl
  | cons t ts ih => rw [List.foldl_cons, ih, hh, hp, List.foldl_cons]

/-! ### Tiles -/

/-- The power of a die's tiles. -/
def State.tilePower (s : State) (die : Nat) : Power 24 := ⟨(s.die die).pwrtile, (s.die die).risingTiles⟩

/-- A write of one tile's power bit. -/
def State.writeTilePower (die : Nat) (v : Word64) (x : State) (t : Nat) : State :=
  if v.getLsbD t then
    if (x.die die).pwrtile.getLsbD t ∨ (x.die die).risingTiles.contains t then x
    else x.updDie die (fun d => { d with risingTiles := d.risingTiles ++ [t] })
  else if (x.die die).pwrtile.getLsbD t then
    if x.tileHeld ⟨die, t⟩ then x
    else (x.dropTile ⟨die, t⟩).updDie die (fun d => { d with pwrtile := d.pwrtile &&& ~~~ BitVec.ofNat 24 (2 ^ t) })
  else x.updDie die (fun d => { d with risingTiles := d.risingTiles.filter (· ≠ t) })

theorem writePwrTile_eq (s : State) (die : Nat) (v : Word64) : s.writePwrTile die v = (List.range 24).foldl (State.writeTilePower die v) s := rfl

theorem loads_writeTilePower (die : Nat) (v : Word64) (x : State) (t : Nat) : (State.writeTilePower die v x t).loads = x.loads := by
  unfold State.writeTilePower
  split
  · split <;> rfl
  · split
    · split <;> rfl
    · rfl

theorem tilePower_writeTilePower (die : Nat) (v : Word64) (x : State) (t : Nat) : (State.writeTilePower die v x t).tilePower die =
    (x.tilePower die).write v (fun k => x.tileHeld ⟨die, k⟩) t := by
  unfold State.writeTilePower Power.write State.tilePower
  split
  · split
    · rfl
    · rw [die_updDie_same]
  · split
    · split
      · rfl
      · rw [die_updDie_same]; rfl
    · rw [die_updDie_same]

theorem loads_writePwrTile (s : State) (die : Nat) (v : Word64) : (s.writePwrTile die v).loads = s.loads := by
  rw [writePwrTile_eq]
  exact foldl_keeps State.loads _ (loads_writeTilePower die v) _ s

/-- What a write of PWRTILE makes of every tile (R449). -/
theorem writePwrTile_spec (s : State) (die : Nat) (v : Word64) {k : Nat} (hk : k < 24) :
    ((s.writePwrTile die v).die die).pwrtile.getLsbD k = ((s.die die).pwrtile.getLsbD k && (v.getLsbD k || s.tileHeld ⟨die, k⟩)) ∧
      (k ∈ ((s.writePwrTile die v).die die).risingTiles ↔ (s.tilePower die).Rises v k) := by
  have hpower := power_foldl (f := State.writeTilePower die v) (power := fun x => x.tilePower die)
    (held := fun x k => x.tileHeld ⟨die, k⟩) (fun x t => by unfold State.tileHeld; rw [loads_writeTilePower]) (tilePower_writeTilePower die v) (List.range 24) s
  rw [← writePwrTile_eq] at hpower
  have hunit := Power.write_range v (fun k => s.tileHeld ⟨die, k⟩) (s.tilePower die) 24 k
  rw [← hpower, if_pos hk, if_pos hk] at hunit
  exact hunit

/-! ### Regions -/

/-- The power of a die's regions. -/
def State.regionPower (s : State) (die : Nat) : Power 48 := ⟨(s.die die).pwrreg, (s.die die).risingRegions⟩

/-- A write of one region's power bit. -/
def State.writeRegionPower (die : Nat) (v : Word64) (x : State) (r : Nat) : State :=
  if v.getLsbD r then
    if (x.die die).pwrreg.getLsbD r ∨ (x.die die).risingRegions.contains r then x
    else x.updDie die (fun d => { d with risingRegions := d.risingRegions ++ [r] })
  else if (x.die die).pwrreg.getLsbD r then
    if x.regionHeld ⟨die, r⟩ then x
    else
      (x.updRegion ⟨die, r⟩ (fun g => { status := .gated, result := g.result, swaps := g.swaps })).updDie die
        (fun d => { d with pwrreg := d.pwrreg &&& ~~~ BitVec.ofNat 48 (2 ^ r) })
  else x.updDie die (fun d => { d with risingRegions := d.risingRegions.filter (· ≠ r) })

theorem writePwrReg_eq (s : State) (die : Nat) (v : Word64) : s.writePwrReg die v = (List.range 48).foldl (State.writeRegionPower die v) s := rfl

theorem writeRegionPower_keeps {β : Type} (p : State → β) (hd : ∀ s i g, p (State.updDie s i g) = p s) (hr : ∀ s i g, p (State.updRegion s i g) = p s)
    (die : Nat) (v : Word64) (x : State) (r : Nat) : p (State.writeRegionPower die v x r) = p x := by
  unfold State.writeRegionPower
  split
  · split
    · rfl
    · exact hd _ _ _
  · split
    · split
      · rfl
      · rw [hd, hr]
    · exact hd _ _ _

theorem regionPower_writeRegionPower (die : Nat) (v : Word64) (x : State) (r : Nat) : (State.writeRegionPower die v x r).regionPower die =
    (x.regionPower die).write v (fun k => x.regionHeld ⟨die, k⟩) r := by
  unfold State.writeRegionPower Power.write State.regionPower
  split
  · split
    · rfl
    · rw [die_updDie_same]
  · split
    · split
      · rfl
      · rw [die_updDie_same]; rfl
    · rw [die_updDie_same]

theorem writePwrReg_keeps {β : Type} (p : State → β) (hd : ∀ s i g, p (State.updDie s i g) = p s) (hr : ∀ s i g, p (State.updRegion s i g) = p s)
    (s : State) (die : Nat) (v : Word64) : p (s.writePwrReg die v) = p s := by
  rw [writePwrReg_eq]
  exact foldl_keeps p _ (writeRegionPower_keeps p hd hr die v) _ s

/-- What a write of PWRREG makes of every region (R449). -/
theorem writePwrReg_spec (s : State) (die : Nat) (v : Word64) {k : Nat} (hk : k < 48) :
    ((s.writePwrReg die v).die die).pwrreg.getLsbD k = ((s.die die).pwrreg.getLsbD k && (v.getLsbD k || s.regionHeld ⟨die, k⟩)) ∧
      (k ∈ ((s.writePwrReg die v).die die).risingRegions ↔ (s.regionPower die).Rises v k) := by
  have hpower := power_foldl (f := State.writeRegionPower die v) (power := fun x => x.regionPower die)
    (held := fun x k => x.regionHeld ⟨die, k⟩)
    (fun x t => by unfold State.regionHeld; rw [writeRegionPower_keeps State.loads (fun _ _ _ => rfl) (fun _ _ _ => rfl)])
    (regionPower_writeRegionPower die v) (List.range 48) s
  rw [← writePwrReg_eq] at hpower
  have hunit := Power.write_range v (fun k => s.regionHeld ⟨die, k⟩) (s.regionPower die) 48 k
  rw [← hpower, if_pos hk, if_pos hk] at hunit
  exact hunit

end Sys2Proof.Machine
end

section
/-! ## Requests for a save or a restore -/

namespace Sys2Proof.Machine

/-! ### Sources gated (R403) -/

/-- A load whose sources are gated on some dies. -/
def Load.gatedOn (dies : List Nat) (y : Load) : Load := { y with gating := y.gating ++ dies.filter (fun d => !y.gating.contains d) }

theorem Load.mem_gatedOn {dies : List Nat} {d : Nat} (h : d ∈ dies) (y : Load) : d ∈ (y.gatedOn dies).gating := by
  unfold Load.gatedOn
  by_cases hd : d ∈ y.gating <;> simp [hd, h]

/-- Every load of a list gated on some dies. -/
theorem mem_gating_foldl {dies : List Nat} {d : Nat} (h : d ∈ dies) (ls : List LoadId) (s : State) (l : LoadId) :
    l ∈ ls ∨ d ∈ (s.load l).gating → d ∈ ((ls.foldl (fun x l => x.updLoad l (Load.gatedOn dies)) s).load l).gating := by
  induction ls generalizing s with
  | nil => exact fun hl => hl.resolve_left List.not_mem_nil
  | cons k ks ih =>
    intro hl
    refine ih _ ?_
    by_cases hk : l = k
    · subst hk
      rw [load_updLoad_same]
      exact .inr (Load.mem_gatedOn h _)
    · rw [load_updLoad_ne _ _ hk]
      exact hl.imp_left (fun hm => (List.mem_cons.mp hm).resolve_left hk)

theorem mem_gating_gateSources {s : State} {q : QueueId} {dies : List Nat} {l : LoadId} {d : Nat} (hl : l ∈ s.savable q) (hd : d ∈ dies) :
    d ∈ ((s.gateSources q dies).load l).gating := mem_gating_foldl hd (s.savable q) s l (.inl hl)

theorem gateSources_keeps {β : Type} (p : State → β) (hl : ∀ s i g, p (State.updLoad s i g) = p s) (hr : ∀ s m, p { s with regions := m } = p s)
    (s : State) (q : QueueId) (dies : List Nat) : p (s.gateSources q dies) = p s := by
  unfold State.gateSources
  dsimp only
  rw [hr, foldl_keeps p _ (fun _ _ => hl _ _ _)]

/-! ### The request (R397, R398) -/

/-- A die is free for a request: none is in progress. -/
structure Die.Free (d : Die) : Prop where
  gating : d.prState ≠ 1
  quiescing : d.prState ≠ 2
  saving : d.prState ≠ 3
  restoring : d.prState ≠ 5
  none : d.preempt = none

theorem Die.Free.not_busy {d : Die} (h : d.Free) : (d.prState == 1 || d.prState == 2 || d.prState == 3 || d.prState == 5 || d.preempt.isSome) = false := by
  simp only [Bool.or_eq_false_iff, beq_eq_false_iff_ne, Option.isSome_eq_false_iff, Option.isNone_iff_eq_none]
  exact ⟨⟨⟨⟨h.gating, h.quiescing⟩, h.saving⟩, h.restoring⟩, h.none⟩

/-- The request that a write of PREQ dw1 makes. -/
def Die.request (d : Die) (restore : Bool) (v : Word64) : Preempt :=
  { restore := restore, queue := fld v 59 48, area := BitVec.ofNat 64 (d.preq0.toNat % 2 ^ 56)
    qto := if v.extractLsb' 0 32 = 0#32 then 2 ^ 20 else fld v 31 0 }

/-- A die that has taken a request, in a state of PRSTAT. -/
def Die.requested (d : Die) (restore : Bool) (v : Word64) (state : BitVec 8) : Die :=
  { d with preempt := some (d.request restore v), prQueue := BitVec.ofNat 12 (fld v 59 48), prResult := 0, prState := state }

theorem requestPreempt_restore {s : State} {die : Nat} {v : Word64} {x : SavedGraph} (hf : (s.die die).Free) (hv : v.getLsbD 63 = true)
    (hx : s.saved.find? ⟨die, fld v 59 48⟩ = some x)
    (ha : s.areaOk die (s.queueDomain die (fld v 59 48)) ((s.die die).preq0.toNat % 2 ^ 56) x.bytes = true) :
    s.requestPreempt die v = s.setDie die ((s.die die).requested true v 5) := by
  unfold State.requestPreempt
  simp only [hf.not_busy, hv, hx, ha, if_true, Option.isSome_some, Bool.false_eq_true, Bool.true_eq_false, or_self, if_false, Option.map_some, Option.getD_some]
  rfl

theorem requestPreempt_save {s : State} {die : Nat} {v : Word64} (hf : (s.die die).Free) (hv : v.getLsbD 63 = false)
    (hs : s.savable ⟨die, fld v 59 48⟩ ≠ [])
    (ha : s.areaOk die (s.queueDomain die (fld v 59 48)) ((s.die die).preq0.toNat % 2 ^ 56) (s.areaBytes (s.savable ⟨die, fld v 59 48⟩)) = true) :
    s.requestPreempt die v = (s.updDie die (fun d => d.requested false v d.prState)).beginSave die := by
  unfold State.requestPreempt
  have hknown : (s.savable ⟨die, fld v 59 48⟩).isEmpty = false := List.isEmpty_eq_false_iff.mpr hs
  simp only [hf.not_busy, hv, hknown, ha, Bool.not_false, Bool.false_eq_true, Bool.true_eq_false, or_self, if_false]
  rfl

/-- A save begins at once where nothing delays it (R398, R403). -/
theorem beginSave_begins {s : State} {die : Nat} {p : Preempt} (hp : (s.die die).preempt = some p) (hr : p.restore = false) (hb : p.begun = false)
    (hg : s.graphGang (s.savable ⟨die, p.queue⟩) = none) (hm : s.saveMayBegin ⟨die, p.queue⟩ [die] = true) :
    s.beginSave die = (s.gateSources ⟨die, p.queue⟩ [die]).updDie die (fun d => { d with prState := 1, preempt := some { p with begun := true } }) := by
  unfold State.beginSave
  simp only [hp]
  exact if_pos ⟨hr, hb, by rw [hg]; rfl, hm⟩

/-- What a change of a die does to whether a save may begin: nothing, if it leaves the rehash and the halted tiles. -/
theorem saveMayBegin_updDie {g : Die → Die} (hp : ∀ x, (g x).phase = x.phase) (ht : ∀ x, (g x).tilehalt = x.tilehalt) (s : State) (i : Nat)
    (q : QueueId) (dies : List Nat) : (s.updDie i g).saveMayBegin q dies = s.saveMayBegin q dies := by
  unfold State.saveMayBegin
  simp only [dieField_updDie Die.phase hp, dieField_updDie Die.tilehalt ht]
  rfl

/-- A save that nothing delays: its request is taken and the sources of the graph are gated (R397, R403). -/
theorem requestPreempt_gates {s : State} {die : Nat} {v : Word64} (hf : (s.die die).Free) (hv : v.getLsbD 63 = false)
    (hs : s.savable ⟨die, fld v 59 48⟩ ≠ [])
    (ha : s.areaOk die (s.queueDomain die (fld v 59 48)) ((s.die die).preq0.toNat % 2 ^ 56) (s.areaBytes (s.savable ⟨die, fld v 59 48⟩)) = true)
    (hg : s.graphGang (s.savable ⟨die, fld v 59 48⟩) = none) (hm : s.saveMayBegin ⟨die, fld v 59 48⟩ [die] = true) :
    s.requestPreempt die v = ((s.updDie die (fun d => d.requested false v d.prState)).gateSources ⟨die, fld v 59 48⟩ [die]).updDie die
      (fun d => { d with prState := 1, preempt := some { (s.die die).request false v with begun := true } }) := by
  rw [requestPreempt_save hf hv hs ha]
  exact beginSave_begins (congrArg Die.preempt (die_updDie_same s die (fun d => d.requested false v d.prState))) rfl rfl hg
    ((saveMayBegin_updDie (g := fun d => d.requested false v d.prState) (fun _ => rfl) (fun _ => rfl) s die _ _).trans hm)

end Sys2Proof.Machine
end

section
/-! ## Register writes that are events, settled -/

namespace Sys2Proof.Machine

theorem registerWrite_root {s : State} {n : Nat} (hf : s.event.flag = true) (hn : n < 256) (ha : s.event.addr = 0x200000 + 8 * n) :
    eventRegisterWrite s =
      s.updDie s.event.die (fun d => { d with roots := d.roots.set n ((s.event.value.extractLsb' 12 40).zeroExtend 52 <<< 12) }) := by
  unfold eventRegisterWrite
  dsimp only
  rw [if_pos hf, ha, if_pos (.inl ⟨by omega, by omega⟩), ctrlWrite_root s hn]

theorem registerWrite_domain {s : State} {n : Nat} (hf : s.event.flag = false) (h : s.Owns s.event.fn s.event.die) (hn : n ≤ 64)
    (ha : s.event.addr = 0x401000 + 8 * n) : eventRegisterWrite s =
      s.updPkg s.event.fn.pkg (fun p => { p with fdom := p.fdom.set (0, n) (s.event.value.extractLsb' 0 8) }) := by
  unfold eventRegisterWrite
  dsimp only
  rw [if_neg (by simp [hf]), ha, eventWrite_domain h hn]

/-- PREEMPT_SAVE_REQUEST without `flag` writes PREQ dw1 where that asks for a save. -/
theorem saveRequest_asks {s : State} (hf : s.event.flag = false) (hv : s.event.value.getLsbD 63 = false) : eventSaveRequest s = s.eventWrite 0x10008 := by
  unfold eventSaveRequest
  rw [if_neg (by simp [hf]), if_pos hv]

/-- Settles O53: each event is one write of its register, and each register's write what its own lemma says. -/
theorem registerEvents : Obligations.RegisterEvents := by
  unfold Obligations.RegisterEvents
  intro s e f v d q r g p
  refine ⟨?enable, ?tail, ?xinv, ?swap, ?swapBusy, ?fqctl, ?tilehalt, ?claim, ?claimRejected, ?handover, ?pwrtile, ?pwrreg, ?root, ?domain, ?save, ?restore⟩
  case enable =>
    intro h hq hv hlow hhigh he
    refine congrArg Host.Outcome.next ((eventWrite_queue (k := 1) h hq (by decide)).trans ?_)
    rw [State.updQueue, write_enables he hv hlow hhigh]
  case tail =>
    intro h hq ht
    refine congrArg Host.Outcome.next ((eventWrite_queue (k := 2) h hq (by decide)).trans ?_)
    rw [State.updQueue, write_tail ht]
  case xinv =>
    intro h hn
    exact congrArg Host.Outcome.next ((eventWrite_sysOffset h (by decide)).trans ((sysWrite_xinv s _ _ _).trans (startInvalidation_outstanding hn v)))
  case swap =>
    intro l h hreg hst hs hl hp
    exact congrArg Host.Outcome.next ((eventWrite_swap h hreg).trans (requestSwap_running hst hs hl hp v))
  case swapBusy =>
    intro h hreg hst
    exact congrArg Host.Outcome.next ((eventWrite_swap h hreg).trans (requestSwap_busy hst v))
  case fqctl =>
    intro h hv hlow hhigh he
    refine congrArg Host.Outcome.next ((eventWrite_sysOffset h (by decide)).trans ((sysWrite_fqctl s _ _ _).trans ?_))
    rw [State.updDie, writeFqctl_enables he hv hlow hhigh]
  case tilehalt =>
    intro h
    exact congrArg Host.Outcome.next ((eventWrite_sysOffset h (by decide)).trans (sysWrite_tilehalt s _ _ _))
  case claim =>
    intro hup hd hz hf hv ho
    refine ⟨_, congrArg Host.Outcome.next ((eventWrite_claim hup hd hz hf).trans (claim_vacant hv hf ho)), pkg_setPkg_same s f.pkg _,
      fun k x hx => fqEnable_disableRings hx f.pkg, rfl, rfl⟩
  case claimRejected =>
    intro hup hd hz hf hv hport hr
    exact congrArg Host.Outcome.next ((eventWrite_claim hup hd hz hf).trans (claim_rejected hv hport hr))
  case handover =>
    intro h hv
    refine ⟨_, congrArg Host.Outcome.next ((eventWrite_handover h).trans (handover_given hv)),
      pkg_updPkg_same s f.pkg (fun p => p.handedTo (v.getLsbD 62).toNat), fun k x hx => fqEnable_disableRings hx f.pkg, rfl, rfl⟩
  case pwrtile =>
    intro h
    exact ⟨_, congrArg Host.Outcome.next ((eventWrite_sysOffset h (by decide)).trans (sysWrite_pwrtile (agentOwner_of_owns h) _ _)), loads_writePwrTile s _ _,
      fun k hk => writePwrTile_spec s e.die v hk⟩
  case pwrreg =>
    intro h
    exact ⟨_, congrArg Host.Outcome.next ((eventWrite_sysOffset h (by decide)).trans (sysWrite_pwrreg (agentOwner_of_owns h) _ _)),
      writePwrReg_keeps State.loads (fun _ _ _ => rfl) (fun _ _ _ => rfl) s _ _, writePwrReg_keeps State.mem (fun _ _ _ => rfl) (fun _ _ _ => rfl) s _ _,
      fun k hk => writePwrReg_spec s e.die v hk⟩
  case root =>
    intro n hflag hn ha
    exact congrArg Host.Outcome.next (registerWrite_root hflag hn ha)
  case domain =>
    intro n hflag h hn ha
    exact congrArg Host.Outcome.next (registerWrite_domain hflag h hn ha)
  case save =>
    intro k ls h hflag hv h1 h2 h3 h5 hp hls ha hg hm
    have hfree : d.Free := ⟨h1, h2, h3, h5, hp⟩
    have hgates := requestPreempt_gates hfree hv hls ha hg hm
    have hdie : ((s.updDie e.die (fun d => d.requested false v d.prState)).gateSources ⟨e.die, k⟩ [e.die]).die e.die = d.requested false v d.prState :=
      (gateSources_keeps (fun u => u.die e.die) (fun _ _ _ => rfl) (fun _ _ => rfl) _ _ _).trans (die_updDie_same s e.die _)
    refine ⟨_, { d.request false v with begun := true }, congrArg Host.Outcome.next ((saveRequest_asks hflag hv).trans ((eventWrite_preempt h).trans hgates)),
      ?_, rfl, rfl, rfl, ?_, ?_, ?_, ?_, ?_, fun l hl => ?_⟩
    · rw [die_updDie_same]
    · rw [die_updDie_same]
    · rw [die_updDie_same, hdie]; rfl
    · rw [die_updDie_same, hdie]; rfl
    · exact gateSources_keeps State.mem (fun _ _ _ => rfl) (fun _ _ => rfl) _ _ _
    · exact gateSources_keeps State.tasks (fun _ _ _ => rfl) (fun _ _ => rfl) _ _ _
    · exact mem_gating_gateSources (s := s.updDie e.die (fun d => d.requested false v d.prState)) hl List.mem_cons_self
  case restore =>
    intro k x h hv h1 h2 h3 h5 hp hx ha
    have hfree : d.Free := ⟨h1, h2, h3, h5, hp⟩
    exact ⟨d.request true v, rfl, rfl, congrArg Host.Outcome.next ((if_pos hv).trans ((eventWrite_preempt h).trans (requestPreempt_restore hfree hv hx ha)))⟩

end Sys2Proof.Machine
end

section
/-! ## Memory: what leaves it

The lemma `mem_f` says that the operation or event `f` leaves memory; `mem_of_f` says so of an operation that may answer no state. -/

namespace Sys2Proof.Machine

theorem mem_foldl {α : Type} {f : State → α → State} {s u : State} {l : List α} (hs : s.mem = u.mem) (hf : ∀ v a, (f v a).mem = v.mem) :
    (l.foldl f s).mem = u.mem := by
  induction l generalizing s with
  | nil => exact hs
  | cons a as ih => exact ih ((hf s a).trans hs)

theorem mem_foldl_snd {α β : Type} {f : β × State → α → β × State} {s : β × State} {u : State} {l : List α} (hs : s.2.mem = u.mem)
    (hf : ∀ v a, (f v a).2.mem = v.2.mem) : (l.foldl f s).2.mem = u.mem := by
  induction l generalizing s with
  | nil => exact hs
  | cons a as ih => exact ih ((hf s a).trans hs)

section
variable {s : State}

/-! ### Addresses -/

@[simp] theorem mem_repair {pa n} : (s.repair pa n).mem = s.mem := by
  fun_cases State.repair <;> rfl

@[simp] theorem mem_wakeTile {t} : (s.wakeTile t).mem = s.mem := by
  fun_cases State.wakeTile <;> rfl

@[simp] theorem mem_wakeAt {pa} : (s.wakeAt pa).mem = s.mem := by
  fun_cases State.wakeAt <;> simp

/-! ### Shared operations -/

@[simp] theorem mem_addEvent {t n v} : (s.addEvent t n v).mem = s.mem := rfl

@[simp] theorem mem_leaveCounters {core t sets adds} : (s.leaveCounters core t sets adds).mem = s.mem := rfl

@[simp] theorem mem_popTokens {i k n} : (s.popTokens i k n).mem = s.mem := rfl

@[simp] theorem mem_pushTokens {i ps} : (s.pushTokens i ps).mem = s.mem := rfl

@[simp] theorem mem_raiseEntry {die e} : (s.raiseEntry die e).mem = s.mem := rfl

@[simp] theorem mem_raisePrecise {who t addr} : (s.raisePrecise who t addr).mem = s.mem := rfl

@[simp] theorem mem_raiseAsync {who code loc info detail addr retry} : (s.raiseAsync who code loc info detail addr retry).mem = s.mem := by
  fun_cases State.raiseAsync <;> rfl

@[simp] theorem mem_leaveSection {who} : (s.leaveSection who).mem = s.mem := rfl

@[simp] theorem mem_drainIfEnded {t} : (s.drainIfEnded t).mem = s.mem := by
  fun_cases State.drainIfEnded <;> rfl

@[simp] theorem mem_endStrand {who} : (s.endStrand who).mem = s.mem := by simp [State.endStrand]

@[simp] theorem mem_enterHeader {who a prev} : (s.enterHeader who a prev).mem = s.mem := by
  fun_cases State.enterHeader <;> simp +zetaDelta

@[simp] theorem mem_goTo {who target pops} : (s.goTo who target pops).mem = s.mem := rfl

@[simp] theorem mem_fallThrough {who words last} : (s.fallThrough who words last).mem = s.mem := by
  fun_cases State.fallThrough <;> simp +zetaDelta

@[simp] theorem mem_wake {who p} : (s.wake who p).mem = s.mem := by
  fun_cases State.wake <;> rfl

@[simp] theorem mem_parkOn {who p} : (s.parkOn who p).mem = s.mem := rfl

@[simp] theorem mem_commit : s.commit.mem = s.mem :=
  mem_foldl (mem_foldl (mem_foldl rfl fun _ _ => rfl) fun _ _ => rfl) fun _ _ => rfl

/-! ### Channels -/

@[simp] theorem mem_consume {p k} : (s.consume p k).mem = s.mem := by
  fun_cases State.consume <;> rfl

@[simp] theorem mem_sendOn {p toks} : (s.sendOn p toks).mem = s.mem := by
  fun_cases State.sendOn <;> rfl

@[simp] theorem mem_countPort {p n} : (s.countPort p n).mem = s.mem := by
  fun_cases State.countPort <;> rfl

/-! ### Stops -/

@[simp] theorem mem_killTasks {p} : (s.killTasks p).mem = s.mem := mem_foldl rfl fun _ _ => rfl

@[simp] theorem mem_resendPld {num} : (s.resendPld num).mem = s.mem := by
  fun_cases State.resendPld <;> simp +zetaDelta

@[simp] theorem mem_resendPlds {die} : (s.resendPlds die).mem = s.mem := by
  fun_cases State.resendPlds
  · rfl
  · exact mem_foldl rfl fun _ _ => mem_resendPld

@[simp] theorem mem_signalQueue {die queue vector} : (s.signalQueue die queue vector).mem = s.mem := rfl

@[simp] theorem mem_reopen {die queue on} : (s.reopen die queue on).mem = s.mem := mem_foldl rfl fun _ _ => mem_resendPlds

@[simp] theorem mem_dropSaved {l} : (s.dropSaved l).mem = s.mem := by
  fun_cases State.dropSaved <;> rfl

@[simp] theorem mem_endRequest {die queue state result} : (s.endRequest die queue state result).mem = s.mem := rfl

@[simp] theorem mem_abandonSave {l} : (s.abandonSave l).mem = s.mem := by
  fun_cases State.abandonSave <;> simp +zetaDelta [apply_ite State.mem]

@[simp] theorem mem_closeLoad {l} : (s.closeLoad l).mem = s.mem := by simp [State.closeLoad]

@[simp] theorem mem_stopLoad {l die tile r0} : (s.stopLoad l die tile r0).mem = s.mem := by
  fun_cases State.stopLoad <;> simp

@[simp] theorem mem_poisonStop {who engine addr origin} : (s.poisonStop who engine addr origin).mem = s.mem := by simp [State.poisonStop]

/-! ### Commands -/

@[simp] theorem mem_takePop {i e c} : (s.takePop i e c).mem = s.mem := by
  fun_cases State.takePop <;> rfl

/-! ### Issue -/

@[simp] theorem mem_retire {words last yld flow} : (s.retire words last yld flow).mem = s.mem := by
  fun_cases State.retire <;> simp +zetaDelta

@[simp] theorem mem_applyStop {who x} : (s.applyStop who x).mem = s.mem := by
  fun_cases State.applyStop <;> rfl

@[simp] theorem mem_clearCycle : s.clearCycle.mem = s.mem := rfl

/-! ### Stream elements -/

@[simp] theorem mem_makeMove {fuel id before slot w m} : (State.makeMove fuel s id before slot w m).mem = s.mem := by
  induction fuel generalizing s before slot w m with
  | zero => rfl
  | succ fuel ih =>
    unfold State.makeMove
    dsimp only
    split_ifs
    · refine mem_foldl rfl fun x c => ?_
      split
      · rfl
      · split
        · exact ih
        · rfl
    · rfl

@[simp] theorem mem_elemStep {id slot w m} : (s.elemStep id slot w m).mem = s.mem := by simp [State.elemStep]

@[simp] theorem mem_elemClock {w op} : (s.elemClock w op).mem = s.mem := by
  fun_cases State.elemClock <;> simp

@[simp] theorem mem_elemSpecial {id slot w op} : (s.elemSpecial id slot w op).mem = s.mem := by
  fun_cases State.elemSpecial <;> simp

@[simp] theorem mem_sourceClock {w} : (s.sourceClock w).mem = s.mem := by
  fun_cases State.sourceClock <;> simp +zetaDelta

@[simp] theorem mem_sinkClock {w} : (s.sinkClock w).mem = s.mem := by
  fun_cases State.sinkClock <;> simp +zetaDelta

@[simp] theorem mem_qbufClock {w} : (s.qbufClock w).mem = s.mem := by
  fun_cases State.qbufClock <;> simp

@[simp] theorem mem_eventSpecialToken : (eventSpecialToken s).mem = s.mem := by
  fun_cases eventSpecialToken <;> simp

/-! ### Serac at work -/

@[simp] theorem mem_updCommand {i e seq f} : (s.updCommand i e seq f).mem = s.mem := rfl

@[simp] theorem mem_updAcc {i n f} : (s.updAcc i n f).mem = s.mem := rfl

@[simp] theorem mem_refreshBusy {i n} : (s.refreshBusy i n).mem = s.mem := rfl

@[simp] theorem mem_startSerac {i c} : (s.startSerac i c).mem = s.mem := by
  fun_cases State.startSerac <;> simp +zetaDelta

@[simp] theorem mem_stageBeat {i c opnd port} : (s.stageBeat i c opnd port).mem = s.mem := by
  fun_cases State.stageBeat <;> simp +zetaDelta

@[simp] theorem mem_stageBlock {i seq opnd port blocks fuel} : (s.stageBlock i seq opnd port blocks fuel).mem = s.mem := by
  fun_induction State.stageBlock <;> simp_all

/-- A group that has been added leaves memory. -/
theorem mem_of_smmGroup {i c} : ∀ {r}, s.smmGroup i c = some r → r.1.mem = s.mem := by
  fun_cases State.smmGroup <;> simp

@[simp] theorem mem_smmRun {i c fuel} : (s.smmRun i c fuel).1.mem = s.mem := by
  fun_induction State.smmRun
  case case4 e ih => exact ih.trans (mem_of_smmGroup e)
  all_goals rfl

@[simp] theorem mem_poisonTiles {i ts origin} : (s.poisonTiles i ts origin).mem = s.mem := mem_foldl rfl fun _ _ => rfl

@[simp] theorem mem_writeView {i first words keep origin} : (s.writeView i first words keep origin).mem = s.mem := mem_foldl rfl fun _ _ => rfl

@[simp] theorem mem_pushFor {i e c} : (s.pushFor i e c).mem = s.mem := by
  fun_cases State.pushFor <;> simp

@[simp] theorem mem_countFor {i c} : (s.countFor i c).mem = s.mem := by
  fun_cases State.countFor <;> rfl

@[simp] theorem mem_finishCommand {i e c} : (s.finishCommand i e c).mem = s.mem := by simp [State.finishCommand]

/-! ### Units of Moraine commands -/

@[simp] theorem mem_retranslate {i seq} : (s.retranslate i seq).mem = s.mem := by
  fun_cases State.retranslate <;> simp

/-! ### The fault queue -/

@[simp] theorem mem_signalOwner {die vector} : (s.signalOwner die vector).mem = s.mem := by
  fun_cases State.signalOwner <;> rfl

@[simp] theorem mem_writeEntry {die} : (s.writeEntry die).mem = s.mem := by
  fun_cases State.writeEntry <;> simp +zetaDelta

@[simp] theorem mem_retryPush {i e} : (s.retryPush i e).mem = s.mem := by
  fun_cases State.retryPush <;> simp

@[simp] theorem mem_retryFor {who r} : (s.retryFor who r).mem = s.mem := by
  fun_cases State.retryFor <;> simp

@[simp] theorem mem_raiseWaiting {who} : (s.raiseWaiting who).mem = s.mem := by
  fun_cases State.raiseWaiting <;> rfl

@[simp] theorem mem_resumeStrand {who f go} : (s.resumeStrand who f go).mem = s.mem := by
  unfold State.resumeStrand
  dsimp only
  split
  · simp
  · simp
  · simp [apply_ite State.mem]

@[simp] theorem mem_resumeEnded {who r} : (s.resumeEnded who r).mem = s.mem := by
  fun_cases State.resumeEnded <;> simp

/-- What an action does to a strand, a function or a load leaves memory. -/
theorem mem_of_act {die e action value} : ∀ {t}, s.act die e action value = .ok t → t.mem = s.mem := by
  fun_cases State.act
  case case14 => rintro _ ⟨⟩; exact mem_foldl rfl fun _ _ => mem_stopLoad
  all_goals simp +zetaDelta

@[simp] theorem mem_answered {die last} : (s.answered die last).mem = s.mem := rfl

@[simp] theorem mem_rearmFor {die e} : (s.rearmFor die e).mem = s.mem := by
  fun_cases State.rearmFor <;> rfl

@[simp] theorem mem_respond {die} : (s.respond die).mem = s.mem := by
  fun_cases State.respond
  case case6 h => simp [mem_of_act h]
  all_goals rfl

@[simp] theorem mem_freeze {die f cause addr} : (s.freeze die f cause addr).mem = s.mem := rfl

/-! ### The control space -/

@[simp] theorem mem_startInvalidation {die dw1} : (s.startInvalidation die dw1).mem = s.mem := rfl

@[simp] theorem mem_writePwrReg {die v} : (s.writePwrReg die v).mem = s.mem :=
  mem_foldl rfl (fun _ _ => by dsimp only; split_ifs <;> rfl)

@[simp] theorem mem_requestSwap {r dw1} : (s.requestSwap r dw1).mem = s.mem := by
  fun_cases State.requestSwap <;> rfl

@[simp] theorem mem_gateSources {q dies} : (s.gateSources q dies).mem = s.mem := mem_foldl rfl fun _ _ => rfl

@[simp] theorem mem_beginSave {die} : (s.beginSave die).mem = s.mem := by
  fun_cases State.beginSave <;> simp

@[simp] theorem mem_requestPreempt {die dw1} : (s.requestPreempt die dw1).mem = s.mem := by
  fun_cases State.requestPreempt <;> simp +zetaDelta

@[simp] theorem mem_reject {pkg} : (s.reject pkg).mem = s.mem := rfl

@[simp] theorem mem_claim {f} : (s.claim f).mem = s.mem := by
  fun_cases State.claim <;> rfl

@[simp] theorem mem_handover {f v} : (s.handover f v).mem = s.mem := by
  fun_cases State.handover <;> rfl

@[simp] theorem mem_monitor {die src n} : (s.monitor die src n).mem = s.mem := by
  fun_cases State.monitor <;> rfl

@[simp] theorem mem_readMonitor {die k} : (s.readMonitor die k).2.mem = s.mem := by
  fun_cases State.readMonitor <;> rfl

@[simp] theorem mem_configureMonitor {die k v} : (s.configureMonitor die k v).mem = s.mem := rfl

@[simp] theorem mem_ctrlRead {a die o} : (s.ctrlRead a die o).2.mem = s.mem := by
  fun_cases State.ctrlRead <;> simp

/-! ### Channels and regions -/

@[simp] theorem mem_eventPacketSend : (eventPacketSend s).mem = s.mem := by
  fun_cases eventPacketSend <;> rfl

@[simp] theorem mem_countArrival {p b} : (s.countArrival p b).mem = s.mem := by
  fun_cases State.countArrival <;> simp

@[simp] theorem mem_eventPacketArrive : (eventPacketArrive s).mem = s.mem := by
  fun_cases eventPacketArrive <;> simp

@[simp] theorem mem_eventAckChannel : (eventAckChannel s).mem = s.mem := by
  fun_cases eventAckChannel <;> simp

@[simp] theorem mem_eventChannelOff : (eventChannelOff s).mem = s.mem := rfl

@[simp] theorem mem_eventChannelOn : (eventChannelOn s).mem = s.mem := rfl

/-- A port that takes a token leaves memory. -/
theorem mem_of_portTake {p t} : ∀ {u}, s.portTake p t = some u → u.mem = s.mem := by
  fun_cases State.portTake <;> simp

@[simp] theorem mem_eventPortTake : (eventPortTake s).mem = s.mem := by
  fun_cases eventPortTake
  case case2 e => exact (mem_of_portTake e :)
  all_goals rfl

@[simp] theorem mem_eventSealedFire : (eventSealedFire s).mem = s.mem := by
  fun_cases eventSealedFire
  case case3 e => exact (mem_of_portTake e :)
  all_goals simp

@[simp] theorem mem_poisonPort {p o} : (s.poisonPort p o).mem = s.mem := by
  fun_cases State.poisonPort <;> rfl

@[simp] theorem mem_eventConfigError : (eventConfigError s).mem = s.mem := by
  fun_cases eventConfigError
  · exact mem_foldl rfl fun _ _ => mem_poisonPort
  · rfl

@[simp] theorem mem_eventSwapChecked : (eventSwapChecked s).mem = s.mem := by
  fun_cases eventSwapChecked <;> rfl

@[simp] theorem mem_eventSwapTimeout : (eventSwapTimeout s).mem = s.mem := by
  fun_cases eventSwapTimeout <;> rfl

/-! ### The scheduler -/

@[simp] theorem mem_eventStrandsStart : (eventStrandsStart s).mem = s.mem := by
  fun_cases eventStrandsStart <;> rfl

@[simp] theorem mem_eventTaskDone : (eventTaskDone s).mem = s.mem := by
  fun_cases eventTaskDone <;> rfl

@[simp] theorem mem_eventSlotFree : (eventSlotFree s).mem = s.mem := by
  fun_cases eventSlotFree <;> rfl

@[simp] theorem mem_reachFirst {q g} : (s.reachFirst q g).mem = s.mem := by
  fun_cases State.reachFirst <;> rfl

@[simp] theorem mem_listLoads {q domain vas bad} : (s.listLoads q domain vas bad).mem = s.mem := mem_foldl rfl fun _ _ => rfl

@[simp] theorem mem_readEntry {q} : (s.readEntry q).mem = s.mem := by simp [State.readEntry]

@[simp] theorem mem_eventEntryRead : (eventEntryRead s).mem = s.mem := by
  fun_cases eventEntryRead <;> simp

@[simp] theorem mem_refuse {l f} : (s.refuse l f).mem = s.mem := mem_finish _ _ _

@[simp] theorem mem_bindChannel {id c} : (s.bindChannel id c).mem = s.mem := mem_foldl rfl fun _ _ => rfl

@[simp] theorem mem_arm {l t} : (s.arm l t).mem = s.mem := mem_foldl rfl fun _ _ => mem_bindChannel

@[simp] theorem mem_fetchRegions {l t} : (s.fetchRegions l t).mem = s.mem := mem_foldl rfl fun _ _ => rfl

@[simp] theorem mem_pinRecords {l} : (s.pinRecords l).1.mem = s.mem := by
  fun_cases State.pinRecords <;> rfl

@[simp] theorem mem_eventLoadConfigure : (eventLoadConfigure s).mem = s.mem := by
  have hpin {l} : (s.pinRecords l).1.mem = s.mem := mem_pinRecords
  unfold eventLoadConfigure
  dsimp only
  split_ifs
  · rfl
  · exact mem_refuse.trans hpin
  · exact mem_refuse.trans hpin
  · split
    · exact mem_refuse.trans hpin
    · split <;> split_ifs <;> simp

@[simp] theorem mem_eventImageVerified : (eventImageVerified s).mem = s.mem := by
  fun_cases eventImageVerified <;> simp

@[simp] theorem mem_loadCounts {l} : (s.loadCounts l).mem = s.mem := by
  fun_cases State.loadCounts <;> rfl

@[simp] theorem mem_startLoad {l} : (s.startLoad l).mem = s.mem := by
  fun_cases State.startLoad <;> rfl

@[simp] theorem mem_eventLoadStart : (eventLoadStart s).mem = s.mem := by
  fun_cases eventLoadStart <;> simp

@[simp] theorem mem_eventLoadComplete : (eventLoadComplete s).mem = s.mem := by
  fun_cases eventLoadComplete <;> simp [mem_finish]

@[simp] theorem mem_eventLoadExit : (eventLoadExit s).mem = s.mem := by
  fun_cases eventLoadExit <;> simp +zetaDelta [apply_ite State.mem, mem_finish]

/-! ### Strands and their global accesses -/

@[simp] theorem mem_eventSuspendWake : (eventSuspendWake s).mem = s.mem := by
  fun_cases eventSuspendWake <;> simp

@[simp] theorem mem_eventAutoPark : (eventAutoPark s).mem = s.mem := by
  fun_cases eventAutoPark <;> rfl

@[simp] theorem mem_eventAutoParkWake : (eventAutoParkWake s).mem = s.mem := by
  fun_cases eventAutoParkWake <;> simp

@[simp] theorem mem_deliver {who dest v} : (s.deliver who dest v).mem = s.mem := by
  fun_cases State.deliver <;> rfl

@[simp] theorem mem_eventGraiseApply : (eventGraiseApply s).mem = s.mem := by
  fun_cases eventGraiseApply <;> simp +zetaDelta

@[simp] theorem mem_updAccess {num f} : (s.updAccess num f).mem = s.mem := rfl

@[simp] theorem mem_homeRead {pa z key} : (s.homeRead pa z key).2.mem = s.mem := by
  fun_cases State.homeRead <;> simp

@[simp] theorem mem_capture {a} : (s.capture a).mem = s.mem := by
  fun_cases State.capture <;> rfl

@[simp] theorem mem_combine {a source} : (s.combine a source).mem = s.mem := by
  fun_cases State.combine <;> rfl

@[simp] theorem mem_dropAccess {a} : (s.dropAccess a).mem = s.mem := rfl

@[simp] theorem mem_replyTo {a} : (s.replyTo a).mem = s.mem := by
  fun_cases State.replyTo <;> rfl

@[simp] theorem mem_eventReply : (eventReply s).mem = s.mem := by
  fun_cases eventReply <;> simp

@[simp] theorem mem_eventAck : (eventAck s).mem = s.mem := by
  fun_cases eventAck <;> rfl

@[simp] theorem mem_eventFenceRetire : (eventFenceRetire s).mem = s.mem := by
  fun_cases eventFenceRetire <;> rfl

/-- A cache that takes an entry leaves memory. -/
theorem mem_of_install {t e evict} : ∀ {u}, s.install t e evict = some u → u.mem = s.mem := by
  fun_cases State.install <;> simp

@[simp] theorem mem_eventWalkComplete : (eventWalkComplete s).mem = s.mem := by
  fun_cases eventWalkComplete
  case case4 e => exact (mem_of_install e :)
  all_goals rfl

@[simp] theorem mem_eventRecordFill : (eventRecordFill s).mem = s.mem := by
  fun_cases eventRecordFill <;> simp

/-! ### Pieces of host requests -/

@[simp] theorem mem_putHost {h} : (s.putHost h).mem = s.mem := by
  fun_cases State.putHost <;> rfl

/-! ### Moraine at work -/

@[simp] theorem mem_readPiece {i c inTile a n} : (s.readPiece i c inTile a n).2.mem = s.mem := by
  fun_cases State.readPiece <;> simp +zetaDelta

@[simp] theorem mem_readAccess {i c a} : (s.readAccess i c a).2.mem = s.mem := by
  unfold State.readAccess
  extract_lets r x
  have hx : x.2.mem = s.mem := mem_foldl_snd rfl fun _ _ => mem_readPiece
  split <;> exact hx

@[simp] theorem mem_readRun {i c r} : (s.readRun i c r).2.mem = s.mem := mem_foldl_snd rfl fun _ _ => mem_readAccess

@[simp] theorem mem_completeMoraine {i c} : (s.completeMoraine i c).mem = s.mem := by
  fun_cases State.completeMoraine
  simp +zetaDelta [apply_ite State.mem]

@[simp] theorem mem_keepCommand {i c} : (s.keepCommand i c).mem = s.mem := rfl

@[simp] theorem mem_countUnit {i c u} : (s.countUnit i c u).1.mem = s.mem := by simp [State.countUnit]

@[simp] theorem mem_settleUnits {i c fuel} : (s.settleUnits i c fuel).1.mem = s.mem := by
  fun_induction State.settleUnits <;> simp_all

@[simp] theorem mem_sendUnit {i c g perBeat} : (s.sendUnit i c g perBeat).1.mem = s.mem := by
  fun_cases State.sendUnit <;> simp +zetaDelta [apply_ite Prod.snd, apply_ite State.mem]

@[simp] theorem mem_sendUnits {i c p fuel} : (s.sendUnits i c p fuel).mem = s.mem := by
  fun_induction State.sendUnits <;> simp_all +zetaDelta

@[simp] theorem mem_startMoraine {i c} : (s.startMoraine i c).mem = s.mem := by simp [State.startMoraine]

@[simp] theorem mem_eventMoraineStart : (eventMoraineStart s).mem = s.mem := by
  fun_cases eventMoraineStart <;> simp

@[simp] theorem mem_eventSeracStart : (eventSeracStart s).mem = s.mem := by
  fun_cases eventSeracStart <;> simp

@[simp] theorem mem_eventSeracStage : (eventSeracStage s).mem = s.mem := by
  fun_cases eventSeracStage <;> simp

/-! ### Planes -/

@[simp] theorem mem_stopAll {code} : (s.stopAll code).mem = s.mem := mem_foldl rfl fun _ _ => mem_stopLoad

@[simp] theorem mem_retirePlane {p lost} : (s.retirePlane p lost).mem = s.mem := by
  fun_cases State.retirePlane <;> simp +zetaDelta

@[simp] theorem mem_eventRetirePlanned : (eventRetirePlanned s).mem = s.mem := by
  fun_cases eventRetirePlanned
  case case3 => exact mem_foldl rfl fun _ _ => rfl
  all_goals simp

@[simp] theorem mem_losePlane {p} : (s.losePlane p).mem = s.mem := by
  fun_cases State.losePlane <;> simp

@[simp] theorem mem_eventPlaneFault : (eventPlaneFault s).mem = s.mem := by simp [eventPlaneFault]

@[simp] theorem mem_eventPlaneStall : (eventPlaneStall s).mem = s.mem := by
  fun_cases eventPlaneStall <;> simp

@[simp] theorem mem_eventRehashStop : (eventRehashStop s).mem = s.mem := by
  fun_cases eventRehashStop <;> rfl

@[simp] theorem mem_eventRehashCommit : (eventRehashCommit s).mem = s.mem := by
  fun_cases eventRehashCommit <;> rfl

@[simp] theorem mem_eventRehashCommitted : (eventRehashCommitted s).mem = s.mem := by
  fun_cases eventRehashCommitted <;> rfl

@[simp] theorem mem_eventRehashResume : (eventRehashResume s).mem = s.mem := by
  fun_cases eventRehashResume <;> simp +zetaDelta

@[simp] theorem mem_eventXinvComplete : (eventXinvComplete s).mem = s.mem := by
  fun_cases eventXinvComplete <;> rfl

/-! ### Register images -/

@[simp] theorem mem_putEvents {i es} : (s.putEvents i es).mem = s.mem := mem_foldl rfl fun _ _ => rfl

@[simp] theorem mem_putPorts {i base ps} : (s.putPorts i base ps).mem = s.mem := mem_foldl rfl fun _ _ => rfl

@[simp] theorem mem_saveContext {i} : (s.saveContext i).2.mem = s.mem := rfl

@[simp] theorem mem_putStrand {who st code} : (s.putStrand who st code).mem = s.mem := by
  fun_cases State.putStrand <;> rfl

/-- A context put back leaves memory. -/
theorem mem_of_loadContext {i bs} : ∀ {t}, s.loadContext i bs = some t → t.mem = s.mem := by
  fun_cases State.loadContext <;> simp +zetaDelta

/-! ### Saving and restoring a graph -/

@[simp] theorem mem_eventQtoExpire : (eventQtoExpire s).mem = s.mem := by
  fun_cases eventQtoExpire
  · exact mem_foldl rfl fun _ _ => rfl
  · rfl
  · rfl

@[simp] theorem mem_eventStillTimeout : (eventStillTimeout s).mem = s.mem := by
  fun_cases eventStillTimeout <;> simp

@[simp] theorem mem_eventSaveComplete : (eventSaveComplete s).mem = s.mem := by
  fun_cases eventSaveComplete
  case case3 => exact mem_foldl rfl fun _ _ => rfl
  all_goals rfl

@[simp] theorem mem_applyKept {die e} : (s.applyKept die e).mem = s.mem := by
  fun_cases State.applyKept
  case case2 h => exact (mem_of_act h :)
  all_goals rfl

@[simp] theorem mem_releaseEntries {ids} : (s.releaseEntries ids).mem = s.mem := mem_foldl rfl fun _ _ => mem_applyKept

@[simp] theorem mem_resumePart {g on} : (s.resumePart g on).mem = s.mem :=
  mem_releaseEntries.trans (mem_foldl (mem_foldl rfl fun _ _ => mem_resendPlds) fun _ _ => mem_foldl rfl fun _ _ => mem_retranslate)

/-! ### Detectors and counters -/

@[simp] theorem mem_watch {before} : (State.watch before s).mem = s.mem := rfl

@[simp] theorem mem_eventDeadlock : (eventDeadlock s).mem = s.mem := by
  fun_cases eventDeadlock <;> rfl

/-! ### Events of the fault system -/

@[simp] theorem mem_eventEntryWrite : (eventEntryWrite s).mem = s.mem := by
  fun_cases eventEntryWrite <;> simp

@[simp] theorem mem_eventLoadStop : (eventLoadStop s).mem = s.mem := by
  fun_cases eventLoadStop <;> simp

@[simp] theorem mem_eventLoadStopped : (eventLoadStopped s).mem = s.mem := by
  fun_cases eventLoadStopped <;> simp [mem_finish]

@[simp] theorem mem_eventScrub : (eventScrub s).mem = s.mem := by
  fun_cases eventScrub <;> rfl

/-! ### Gangs -/

@[simp] theorem mem_updGang {l f} : (s.updGang l f).mem = s.mem := rfl

@[simp] theorem mem_beginRound {l k} : (s.beginRound l k).mem = s.mem := by
  fun_cases State.beginRound <;> rfl

@[simp] theorem mem_eventGangAck : (eventGangAck s).mem = s.mem := by
  fun_cases eventGangAck <;> rfl

@[simp] theorem mem_unloadPart {g on} : (s.unloadPart g on).mem = s.mem := rfl

@[simp] theorem mem_undo {l g d} : (s.undo l g d).mem = s.mem := by
  fun_cases State.undo <;> simp

/-! ### Host functions -/

@[simp] theorem mem_freezeAt {f die o} : (s.freezeAt f die o).mem = s.mem := rfl

@[simp] theorem mem_completes {f aborted data} : (s.completes f aborted data).mem = s.mem := rfl

@[simp] theorem mem_hostReadReg {f die o len} : (s.hostReadReg f die o len).mem = s.mem := by
  fun_cases State.hostReadReg <;> simp +zetaDelta

@[simp] theorem mem_freezeCause {x} : (s.freezeCause x).2.mem = s.mem := by
  fun_cases State.freezeCause <;> rfl

@[simp] theorem mem_hostViolates {die f va x} : (s.hostViolates die f va x).mem = s.mem := by simp [State.hostViolates]

@[simp] theorem mem_eventFlr : (eventFlr s).mem = s.mem := rfl

/-! ### Links and the ring -/

@[simp] theorem mem_trainTo {die plane l tx rx} : (s.trainTo die plane l tx rx).mem = s.mem := rfl

@[simp] theorem mem_retireNarrow {plane l tx rx} : (s.retireNarrow plane l tx rx).mem = s.mem := by
  fun_cases State.retireNarrow <;> simp

@[simp] theorem mem_eventLaneRemove : (eventLaneRemove s).mem = s.mem := by
  fun_cases eventLaneRemove <;> simp

@[simp] theorem mem_eventTurnaround : (eventTurnaround s).mem = s.mem := by
  fun_cases eventTurnaround <;> rfl

@[simp] theorem mem_eventRetrain : (eventRetrain s).mem = s.mem := by
  fun_cases eventRetrain <;> rfl

@[simp] theorem mem_eventSlotArrive : (eventSlotArrive s).mem = s.mem := by
  fun_cases eventSlotArrive <;> simp

@[simp] theorem mem_eventResend : (eventResend s).mem = s.mem := by
  fun_cases eventResend <;> rfl

/-! ### The module's management -/

@[simp] theorem mem_powerAll {pkg} : (s.powerAll pkg).mem = s.mem := mem_foldl rfl fun _ _ => mem_foldl rfl fun _ _ => rfl

@[simp] theorem mem_eventBoot : (eventBoot s).mem = s.mem := by
  fun_cases eventBoot <;> simp

@[simp] theorem mem_eventThrottle : (eventThrottle s).mem = s.mem := rfl

@[simp] theorem mem_eventInstallKey : (eventInstallKey s).mem = s.mem := by
  fun_cases eventInstallKey <;> rfl

@[simp] theorem mem_eventAttest : (eventAttest s).mem = s.mem := by
  fun_cases eventAttest <;> rfl

@[simp] theorem mem_eventUpdateFw : (eventUpdateFw s).mem = s.mem := by
  fun_cases eventUpdateFw <;> rfl

@[simp] theorem mem_eventHostLink : (eventHostLink s).mem = s.mem := rfl

@[simp] theorem mem_eventVacancy : (eventVacancy s).mem = s.mem := by
  fun_cases eventVacancy <;> rfl

@[simp] theorem mem_eventPowerUp : (eventPowerUp s).mem = s.mem := by
  fun_cases eventPowerUp <;> rfl

@[simp] theorem mem_eventClockGate : (eventClockGate s).mem = s.mem := by
  fun_cases eventClockGate <;> rfl

@[simp] theorem mem_eventClash : (eventClash s).mem = s.mem := by
  fun_cases eventClash <;> rfl

@[simp] theorem mem_eventBridge : (eventBridge s).mem = s.mem := by
  fun_cases eventBridge
  · exact mem_foldl rfl fun _ _ => rfl
  · rfl

/-! ### Turns -/

@[simp] theorem mem_tick : s.tick.mem = s.mem := rfl

@[simp] theorem mem_endCycle {before} : (endCycle before s).mem = s.mem := by simp [endCycle]

end

end Sys2Proof.Machine
end

section
/-! ## Memory: what keeps it canonical

The lemma `canonical_f` says that the operation or event `f` keeps memory in its canonical form. -/

namespace Sys2Proof.Machine

/-- A state with the memory of a state whose memory is canonical. -/
theorem State.MemoryCanonical.of_mem {s t : State} (h : s.MemoryCanonical) (e : t.mem = s.mem) : t.MemoryCanonical := by
  unfold State.MemoryCanonical
  rwa [e]

theorem canonical_foldl {α : Type} {f : State → α → State} {s : State} {l : List α} (h : s.MemoryCanonical)
    (hf : ∀ u a, u.MemoryCanonical → (f u a).MemoryCanonical) : (l.foldl f s).MemoryCanonical := by
  induction l generalizing s with
  | nil => exact h
  | cons a as ih => exact ih (hf s a h)

theorem canonical_foldl_snd {α β : Type} {f : β × State → α → β × State} {s : β × State} {l : List α} (h : s.2.MemoryCanonical)
    (hf : ∀ u a, u.2.MemoryCanonical → (f u a).2.MemoryCanonical) : (l.foldl f s).2.MemoryCanonical := by
  induction l generalizing s with
  | nil => exact h
  | cons a as ih => exact ih (hf s a h)

theorem canonical_ite {p : Prop} [Decidable p] {a b : State} (ha : a.MemoryCanonical) (hb : b.MemoryCanonical) :
    (if p then a else b).MemoryCanonical := by
  split <;> assumption

theorem canonical_ite_fst {α : Type} {p : Prop} [Decidable p] {a b : State × α} (ha : a.1.MemoryCanonical) (hb : b.1.MemoryCanonical) :
    (if p then a else b).1.MemoryCanonical := by
  split <;> assumption

section
variable {s : State}

/-! ### Bytes written and cleared -/

theorem canonical_updCur {f} (h : s.MemoryCanonical) : (s.updCur f).MemoryCanonical := h

theorem canonical_updStrand {who f} (h : s.MemoryCanonical) : (s.updStrand who f).MemoryCanonical := h

theorem canonical_updDie {d f} (h : s.MemoryCanonical) : (s.updDie d f).MemoryCanonical := h

theorem canonical_repair {pa n} (h : s.MemoryCanonical) : (s.repair pa n).MemoryCanonical := h.of_mem mem_repair

theorem canonical_writePa {pa bs key} (h : s.MemoryCanonical) : (s.writePa pa bs key).MemoryCanonical := by
  fun_cases State.writePa
  · exact Memory.wf_writeBytes _ _ h
  · exact Memory.wf_writeBytes _ _ (Memory.wf_writeBytes _ _ h)

theorem canonical_writeTile {t a bs} (h : s.MemoryCanonical) : (s.writeTile t a bs).MemoryCanonical :=
  canonical_repair (s := s.setMem _) (Memory.wf_writeBytes _ _ h)

theorem canonical_writeVirtual {die domain va bs} (h : s.MemoryCanonical) : (s.writeVirtual die domain va bs).MemoryCanonical := by
  refine canonical_foldl h fun t k ht => ?_
  dsimp only
  split
  · exact ht
  · split
    · exact ht
    · split
      · exact ht
      · exact canonical_repair (canonical_writePa ht)

theorem canonical_writePinned {ps va bs} (h : s.MemoryCanonical) : (s.writePinned ps va bs).MemoryCanonical := by
  fun_cases State.writePinned
  · exact canonical_repair (canonical_writePa h)
  · exact h

theorem canonical_dropTile {t} (h : s.MemoryCanonical) : (s.dropTile t).MemoryCanonical := Memory.wf_clear _ _ h

theorem canonical_fillMemory {t base size data} (h : s.MemoryCanonical) : (s.fillMemory t base size data).MemoryCanonical :=
  Memory.wf_writeBytes _ _ (Memory.wf_clear _ _ h)

theorem canonical_resetModule {pkg} (h : s.MemoryCanonical) : (s.resetModule pkg).MemoryCanonical := Memory.wf_clear _ _ (h.of_mem mem_killTasks)

theorem canonical_sealGranules {die slot} (h : s.MemoryCanonical) : (s.sealGranules die slot).MemoryCanonical :=
  canonical_foldl h fun _ _ => Memory.wf_writeBytes _ _

/-! ### Registers and homes -/

/-- PWRTILE drops the memory of the tiles that it powers down. -/
theorem canonical_writePwrTile {die v} (h : s.MemoryCanonical) : (s.writePwrTile die v).MemoryCanonical := by
  refine canonical_foldl h fun x t hx => ?_
  dsimp only
  split_ifs
  · exact hx
  · exact hx
  · exact hx
  · exact canonical_dropTile hx
  · exact hx

theorem canonical_sysWrite {a die n v mask starts} (h : s.MemoryCanonical) : (s.sysWrite a die n v mask starts).MemoryCanonical := by
  fun_cases State.sysWrite
  case case17 => exact canonical_writePwrTile h
  all_goals exact h.of_mem (by simp +zetaDelta)

theorem canonical_ctrlWrite {a die o v} (h : s.MemoryCanonical) : (s.ctrlWrite a die o v).MemoryCanonical := by
  fun_cases State.ctrlWrite
  case case1 => exact canonical_sysWrite h
  all_goals exact h.of_mem (by simp +zetaDelta)

theorem canonical_homeWrite {pa z key v} (h : s.MemoryCanonical) : (s.homeWrite pa z key v).MemoryCanonical := by
  fun_cases State.homeWrite
  · exact canonical_ctrlWrite h
  · exact h
  · exact canonical_repair (canonical_writePa h)

/-! ### Serac at work -/

theorem canonical_writeCells {t f cells codes} (h : s.MemoryCanonical) : (s.writeCells t f cells codes).MemoryCanonical := by
  refine canonical_foldl h fun _ _ hu => ?_
  split
  · exact canonical_writeTile hu
  · exact hu

/-- The last stage of a butterfly command writes the cells of its record. -/
theorem canonical_runStage {i c} (h : s.MemoryCanonical) : (s.runStage i c).1.MemoryCanonical := by
  unfold State.runStage
  extract_lets j n stages t input weights origin f out counted c2 marked s1 s2
  have h1 : s1.MemoryCanonical := h.of_mem (by simp [s1, marked])
  have h2 : s2.MemoryCanonical := by
    unfold s2
    split
    · exact h1.of_mem mem_writeView
    · split
      · exact h1.of_mem mem_writeView
      · split
        · exact h1
        · exact canonical_writeCells h1
  clear_value s2 counted
  cases counted <;> exact h2

theorem canonical_stageRun {i c fuel} (h : s.MemoryCanonical) : (s.stageRun i c fuel).1.MemoryCanonical := by
  fun_induction State.stageRun
  case case3 ih => exact ih (canonical_runStage h)
  all_goals exact h

theorem canonical_readAcc {i c n lo hi f} (h : s.MemoryCanonical) (hf : ∀ u a, u.MemoryCanonical → (f u a).MemoryCanonical) :
    (s.readAcc i c n lo hi f).MemoryCanonical := by
  fun_cases State.readAcc
  · exact h.of_mem (by simp +zetaDelta)
  · exact hf _ _ h

/-- SACCRD writes the cells of its record; the other commands leave memory. -/
theorem canonical_seracEffect {i c} (h : s.MemoryCanonical) : (s.seracEffect i c).MemoryCanonical := by
  fun_cases State.seracEffect
  case case6 => exact canonical_readAcc h fun _ _ => canonical_writeCells
  case case8 => exact canonical_readAcc h fun _ _ hu => canonical_foldl hu fun _ _ hx => hx
  case case11 => exact h.of_mem (mem_writeView.trans (mem_foldl rfl fun _ _ => by split <;> rfl))
  all_goals exact h

theorem canonical_progressSerac {i c n} (h : s.MemoryCanonical) : (s.progressSerac i c n).MemoryCanonical := by
  have hstages {r : State × Command} (hr : r.1.MemoryCanonical) : (State.progressSerac.finishStages s i r).MemoryCanonical := by
    fun_cases State.progressSerac.finishStages <;> exact hr.of_mem (by simp +zetaDelta)
  unfold State.progressSerac
  dsimp only
  split
  · exact h.of_mem mem_finishCommand
  · split
    · split <;> exact h.of_mem (by simp [apply_ite State.mem])
    · split
      · exact hstages (canonical_stageRun h)
      · exact hstages (canonical_stageRun h)
      · exact (canonical_seracEffect h).of_mem mem_finishCommand

theorem canonical_eventSeracComplete (h : s.MemoryCanonical) : (eventSeracComplete s).MemoryCanonical := by
  fun_cases eventSeracComplete
  · exact canonical_progressSerac h
  · exact h
  · exact h

/-! ### Regions, tasks, graphs -/

theorem canonical_eventSwapIdle (h : s.MemoryCanonical) : (eventSwapIdle s).MemoryCanonical := by
  fun_cases eventSwapIdle
  case case4 => exact canonical_writeVirtual h
  all_goals exact h

theorem canonical_of_createTask {l grid tile t} (h : s.MemoryCanonical) (e : s.createTask l grid tile = some t) : t.MemoryCanonical := by
  revert e
  fun_cases State.createTask <;> rintro ⟨⟩
  exact canonical_fillMemory h

theorem canonical_eventGridDispatch (h : s.MemoryCanonical) : (eventGridDispatch s).MemoryCanonical := by
  fun_cases eventGridDispatch
  case case4 e => exact (canonical_of_createTask h e :)
  all_goals exact h

/-- A graph that asks for its loads' records writes each through the pins of its list. -/
theorem canonical_eventGraphComplete (h : s.MemoryCanonical) : (eventGraphComplete s).MemoryCanonical := by
  unfold eventGraphComplete
  extract_lets q
  split
  · exact h
  · extract_lets ks s1 bad stat s2 s3
    have h1 : s1.MemoryCanonical := by
      unfold s1
      split
      · exact canonical_foldl h fun _ _ => canonical_writePinned
      · exact h
    have h3 : s3.MemoryCanonical := h1.of_mem (by simp [s3, s2])
    split
    · exact h
    · split
      · exact h3.of_mem mem_signalQueue
      · exact h3

/-! ### Global accesses -/

theorem canonical_perform {a} (h : s.MemoryCanonical) : (s.perform a).MemoryCanonical := by
  unfold State.perform
  dsimp only
  split
  · exact h.of_mem (by simp)
  · exact h.of_mem (by simp)
  · exact canonical_homeWrite h
  · exact canonical_homeWrite h
  · split_ifs <;> exact h
  · split
    · exact h
    · exact canonical_homeWrite h
  · exact h
  · exact h
  · show State.MemoryCanonical (ite _ _ _)
    split
    · exact h
    · exact canonical_homeWrite h

theorem canonical_eventPerform (h : s.MemoryCanonical) : (eventPerform s).MemoryCanonical := by
  unfold eventPerform
  dsimp only
  split
  · exact h
  · split
    · split
      · split
        · exact h
        · exact canonical_repair (canonical_writePa h)
      · exact h
    · split
      · exact h
      · split
        · exact h.of_mem mem_combine
        · split
          · exact canonical_perform (h.of_mem mem_wakeAt)
          · exact h

/-! ### Requests of host functions -/

theorem canonical_hostWritePiece {pa key bs} (h : s.MemoryCanonical) : (s.hostWritePiece pa key bs).MemoryCanonical := by
  fun_cases State.hostWritePiece
  · refine canonical_foldl h fun _ _ hu => ?_
    split
    · exact canonical_homeWrite hu
    · exact hu
  · exact canonical_repair (canonical_writePa h)

theorem canonical_hostAccess {r k} (h : s.MemoryCanonical) : (s.hostAccess r k).1.MemoryCanonical := by
  fun_cases State.hostAccess
  · exact canonical_hostWritePiece h
  · exact h

theorem canonical_hostStep {num k} (h : s.MemoryCanonical) : (s.hostStep num k).MemoryCanonical := by
  fun_cases State.hostStep
  · exact (canonical_hostAccess h).of_mem mem_putHost
  · exact h
  · exact h

theorem canonical_hostWhole {num} (h : s.MemoryCanonical) : (s.hostWhole num).MemoryCanonical := by
  fun_cases State.hostWhole
  · exact canonical_foldl h fun _ _ => canonical_hostStep
  · exact h

theorem mem_hostMemory {f die va len write data} : (s.hostMemory f die va len write data).mem = s.mem := by
  fun_cases State.hostMemory <;> simp

theorem canonical_hostWriteReg {f die o v len} (h : s.MemoryCanonical) : (s.hostWriteReg f die o v len).MemoryCanonical := by
  fun_cases State.hostWriteReg
  case case3 | case9 => exact canonical_ctrlWrite h
  all_goals exact h.of_mem (by simp)

theorem canonical_eventHostMemory (h : s.MemoryCanonical) : (eventHostMemory s).MemoryCanonical := by
  fun_cases eventHostMemory
  · exact canonical_hostWriteReg h
  · exact h.of_mem mem_hostReadReg
  · exact canonical_hostWhole (h.of_mem mem_hostMemory)
  · exact h.of_mem mem_hostMemory
  · exact canonical_hostStep h

theorem canonical_hostAtomic {f die va len op v cmp performed} (h : s.MemoryCanonical) :
    (s.hostAtomic f die va len op v cmp performed).MemoryCanonical := by
  unfold State.hostAtomic
  split
  · exact h
  · split
    · split <;> exact h
    · split
      · exact h
      · split
        · split
          · exact h.of_mem (by simp)
          · exact h
        · extract_lets dead old a t
          have ht : t.MemoryCanonical := by
            unfold t
            split
            · exact h
            · exact canonical_homeWrite h
          split
          · exact h
          · split
            · exact h
            · split
              · split <;> assumption
              · exact ht

theorem canonical_eventHostAtomic (h : s.MemoryCanonical) : (eventHostAtomic s).MemoryCanonical := canonical_hostAtomic h

theorem canonical_eventWrite {o} (h : s.MemoryCanonical) : (s.eventWrite o).MemoryCanonical := canonical_hostWriteReg h

theorem canonical_eventRegisterWrite (h : s.MemoryCanonical) : (eventRegisterWrite s).MemoryCanonical := by
  fun_cases eventRegisterWrite
  · exact canonical_ctrlWrite h
  · exact h
  · exact canonical_eventWrite h

theorem canonical_eventSaveRequest (h : s.MemoryCanonical) : (eventSaveRequest s).MemoryCanonical := by
  fun_cases eventSaveRequest
  · exact h.of_mem mem_beginSave
  · exact canonical_eventWrite h
  · exact h

theorem canonical_eventRestoreRequest (h : s.MemoryCanonical) : (eventRestoreRequest s).MemoryCanonical := by
  fun_cases eventRestoreRequest
  · exact canonical_eventWrite h
  · exact h

theorem canonical_respondWith {action} (h : s.MemoryCanonical) : (s.respondWith action).MemoryCanonical := by
  fun_cases State.respondWith
  · exact canonical_hostWriteReg (canonical_eventWrite h)
  · exact h

/-! ### Moraine at work -/

theorem canonical_writePiece {i c inTile a bs} (h : s.MemoryCanonical) : (s.writePiece i c inTile a bs).2.MemoryCanonical := by
  fun_cases State.writePiece
  case case3 => exact canonical_ctrlWrite h
  case case4 => exact canonical_repair (canonical_writePa h)
  all_goals exact h

theorem canonical_writeAccess {i c a cells} (h : s.MemoryCanonical) : (s.writeAccess i c a cells).2.MemoryCanonical := by
  fun_cases State.writeAccess
  · exact h
  · exact canonical_foldl_snd h fun _ _ => canonical_writePiece

theorem canonical_writeRun {i c r cells} (h : s.MemoryCanonical) : (s.writeRun i c r cells).2.MemoryCanonical :=
  canonical_foldl_snd h fun _ _ => canonical_writeAccess

theorem canonical_of_flightAccess {i c f n} (h : s.MemoryCanonical) : ∀ {x}, s.flightAccess i c f n = some x → x.1.MemoryCanonical := by
  fun_cases State.flightAccess
  case case2 | case3 | case6 =>
    rintro _ ⟨⟩
    exact h.of_mem mem_readAccess
  case case8 =>
    intro x e
    obtain ⟨cells, -, rfl⟩ := Option.map_eq_some_iff.mp e
    exact canonical_writeAccess h
  all_goals exact nofun

theorem canonical_flightRest {i c f n fuel} (h : s.MemoryCanonical) : (s.flightRest i c f n fuel).1.MemoryCanonical := by
  fun_induction State.flightRest
  case case1 => exact h
  case case2 ih => exact ih h
  case case3 e ih => exact ih (canonical_of_flightAccess h e :)
  case case4 e => exact (canonical_of_flightAccess h e :)

theorem canonical_runUnit {i c} (h : s.MemoryCanonical) : (s.runUnit i c).1.MemoryCanonical := by
  fun_cases State.runUnit
  case case1 | case2 => exact canonical_flightRest h
  case case3 | case4 =>
    refine State.MemoryCanonical.of_mem ?_ (mem_countUnit (c := c))
    exact canonical_flightRest (canonical_flightRest h)

theorem canonical_of_runUnit {i c x} (h : s.MemoryCanonical) (e : s.runUnit i c = x) : x.1.MemoryCanonical := e ▸ canonical_runUnit h

theorem canonical_runUnits {i c fuel} (h : s.MemoryCanonical) : (s.runUnits i c fuel).MemoryCanonical := by
  fun_induction State.runUnits
  case case1 | case3 => exact h.of_mem mem_completeMoraine
  case case2 => exact h.of_mem mem_keepCommand
  case case4 e ih => exact ih (canonical_of_runUnit h e)
  case case5 e => exact (canonical_of_runUnit h e).of_mem mem_poisonStop

theorem canonical_runAccess {i c k n} (h : s.MemoryCanonical) : (s.runAccess i c k n).MemoryCanonical := by
  unfold State.runAccess
  split
  · exact h
  · next e => exact (canonical_of_flightAccess h e : State.MemoryCanonical _).of_mem mem_poisonStop
  · next t g e =>
    have ht : t.MemoryCanonical := canonical_of_flightAccess h e
    extract_lets d r
    have hr : r.1.MemoryCanonical := ht.of_mem mem_settleUnits
    exact canonical_ite (hr.of_mem mem_completeMoraine) (hr.of_mem mem_keepCommand)

/-- An element or a scale byte is written on its own; the other tokens write nothing. -/
theorem canonical_takeToks {i g toks x} (h : s.MemoryCanonical) : (s.takeToks i g toks x).1.MemoryCanonical := by
  induction toks generalizing s x with
  | nil => exact h
  | cons t ts ih =>
    have hwrite {c r cells} {f : Word64 → StreamTake} {y : StreamTake} :
        (match (s.writeRun i c r cells).1 with
          | some o => ((s.writeRun i c r cells).2, f o)
          | none => (s.writeRun i c r cells).2.takeToks i g ts y : State × StreamTake).1.MemoryCanonical := by
      split
      · exact canonical_writeRun h
      · exact ih (canonical_writeRun h)
    refine canonical_ite_fst h ?_
    cases t with
    | elem cell => exact hwrite
    | scale k => exact canonical_ite_fst (ih h) (canonical_ite_fst h hwrite)
    | eos | poison => exact h
    | _ => exact ih h

theorem canonical_takeUnits {i c p fuel} (h : s.MemoryCanonical) : (s.takeUnits i c p fuel).MemoryCanonical := by
  induction fuel generalizing s c with
  | zero => exact h.of_mem mem_keepCommand
  | succ fuel ih =>
    unfold State.takeUnits
    split
    · exact h.of_mem mem_completeMoraine
    · split
      · exact h.of_mem mem_keepCommand
      · extract_lets r t
        have ht : t.MemoryCanonical := (canonical_takeToks h : r.1.MemoryCanonical).of_mem mem_consume
        split
        · exact ht.of_mem mem_poisonStop
        · split
          · exact ht.of_mem mem_completeMoraine
          · exact ih ht

theorem canonical_progressMoraine {i c n} (h : s.MemoryCanonical) : (s.progressMoraine i c n).MemoryCanonical := by
  fun_cases State.progressMoraine
  · exact h.of_mem mem_completeMoraine
  · exact h.of_mem mem_sendUnits
  · exact canonical_takeUnits h
  · exact canonical_runUnits h

theorem canonical_eventMoraineComplete (h : s.MemoryCanonical) : (eventMoraineComplete s).MemoryCanonical := by
  fun_cases eventMoraineComplete
  case case1 => exact h.of_mem mem_retranslate
  case case3 => exact canonical_runAccess h
  case case5 => exact canonical_progressMoraine h
  all_goals exact h

/-! ### Rehashes -/

theorem canonical_performWhole {a} (h : s.MemoryCanonical) : (s.performWhole a).MemoryCanonical := by
  unfold State.performWhole
  extract_lets t
  have ht : t.MemoryCanonical := by
    unfold t
    split
    · exact canonical_perform h
    · exact h
  split
  · split
    · exact ht
    · exact canonical_repair (canonical_writePa ht)
  · exact ht

theorem canonical_resolveWrite {a whole dead} (h : s.MemoryCanonical) : (s.resolveWrite a whole dead).MemoryCanonical := by
  unfold State.resolveWrite
  extract_lets p s1 s2 s3
  have h1 : s1.MemoryCanonical := by
    unfold s1
    split
    · exact (canonical_performWhole h).of_mem mem_dropAccess
    · exact h.of_mem mem_dropAccess
  have h2 : s2.MemoryCanonical := by
    unfold s2
    split
    · exact h1.of_mem mem_deliver
    · exact h1
  split
  · exact h1
  · exact h2.of_mem (by simp [s3])

theorem canonical_resolveLost {dead choice as n} (h : s.MemoryCanonical) : (s.resolveLost dead choice as n).MemoryCanonical := by
  fun_induction State.resolveLost
  case case1 => exact h
  case case2 ih => exact ih h
  case case3 ih => exact ih (canonical_resolveWrite h)

theorem canonical_loseCommand {i seq choice dead} (h : s.MemoryCanonical) : (s.loseCommand i seq choice dead).MemoryCanonical := by
  unfold State.loseCommand
  split
  · exact h
  · dsimp only
    split
    · exact h
    · refine State.MemoryCanonical.of_mem ?_ mem_poisonStop
      split
      · exact canonical_writeRun h
      · exact h
    · refine State.MemoryCanonical.of_mem (canonical_foldl h fun u w hu => ?_) mem_poisonStop
      split
      · split
        next e => exact canonical_of_flightAccess hu e
        next => exact hu
      · exact hu

theorem canonical_resolveHost {r dead choice} (h : s.MemoryCanonical) : (s.resolveHost r dead choice).MemoryCanonical := by
  fun_cases State.resolveHost
  case case2 =>
    refine State.MemoryCanonical.of_mem (canonical_foldl h fun u p hu => ?_) mem_putHost
    split
    · exact canonical_hostAccess hu
    · exact hu
  all_goals exact h

theorem canonical_eventRehashDrained (h : s.MemoryCanonical) : (eventRehashDrained s).MemoryCanonical := by
  fun_cases eventRehashDrained
  case case2 => exact canonical_loseCommand h
  case case5 => exact canonical_foldl (canonical_resolveLost h) fun _ _ => canonical_resolveHost
  all_goals exact h

/-! ### Graphs saved and restored -/

theorem canonical_savePart {die queue area on} (h : s.MemoryCanonical) : (s.savePart die queue area on).MemoryCanonical := by
  unfold State.savePart
  extract_lets q ls t dom g ids ps s1 s2
  have ht : t.MemoryCanonical := canonical_foldl h fun _ _ hu => canonical_foldl hu fun _ _ hv => by split <;> exact hv
  have h1 : s1.MemoryCanonical := canonical_foldl ht fun _ _ => canonical_writeVirtual
  exact (canonical_foldl h1 fun _ _ => canonical_writeVirtual : s2.MemoryCanonical)

theorem canonical_finishSave {die queue area bytes} (h : s.MemoryCanonical) : (s.finishSave die queue area bytes).MemoryCanonical :=
  canonical_updDie (s := State.updQueue _ _ _) (canonical_writeVirtual (s := s) h)

theorem canonical_saveAll {die p} (h : s.MemoryCanonical) : (s.saveAll die p).MemoryCanonical := by
  fun_cases State.saveAll
  · exact h.of_mem mem_stopLoad
  · exact canonical_finishSave (canonical_savePart h)

theorem canonical_eventQuiescent (h : s.MemoryCanonical) : (eventQuiescent s).MemoryCanonical := by
  fun_cases eventQuiescent
  case case4 => exact canonical_saveAll h
  all_goals exact h

theorem canonical_placeTask {g i t bs} (h : s.MemoryCanonical) : (s.placeTask g i t bs).MemoryCanonical :=
  (canonical_writeTile h).of_mem mem_putEvents

theorem canonical_loadPart {g images on} (h : s.MemoryCanonical) : (s.loadPart g images on).MemoryCanonical := by
  refine canonical_foldl ?_ fun u e hu => ?_
  · exact canonical_foldl (canonical_foldl (canonical_foldl h fun _ _ hv => hv) fun _ _ hv => hv) fun _ _ hv => hv
  · split
    · exact canonical_placeTask hu
    · exact hu

@[simp] theorem mem_finishRestore {die queue g} : (s.finishRestore die queue g).mem = s.mem :=
  mem_endRequest.trans (mem_foldl rfl fun _ _ => rfl)

theorem canonical_eventRestoreComplete (h : s.MemoryCanonical) : (eventRestoreComplete s).MemoryCanonical := by
  fun_cases eventRestoreComplete
  case case6 => exact (canonical_loadPart h).of_mem (mem_finishRestore.trans mem_resumePart)
  all_goals exact h.of_mem (by simp)

/-! ### Gangs -/

theorem canonical_gangRecord {l g event ok} (h : s.MemoryCanonical) : (s.gangRecord l g event ok).MemoryCanonical :=
  (canonical_writeVirtual h).of_mem mem_signalQueue

theorem canonical_prepare {l g d} (h : s.MemoryCanonical) : (s.prepare l g d).MemoryCanonical := by
  fun_cases State.prepare
  case case9 => exact canonical_loadPart h
  all_goals exact h.of_mem (by simp +zetaDelta)

theorem canonical_eventGangArm (h : s.MemoryCanonical) : (eventGangArm s).MemoryCanonical := by
  fun_cases eventGangArm
  case case2 => exact h.of_mem mem_beginRound
  case case4 => exact canonical_prepare h
  all_goals exact h

theorem canonical_actFor {l g d} (h : s.MemoryCanonical) : (s.actFor l g d).MemoryCanonical := by
  unfold State.actFor
  extract_lets dies acted
  have hacted {t} (ht : t.MemoryCanonical) : (acted t).MemoryCanonical := ht
  clear_value acted
  split
  · show (acted _).MemoryCanonical
    refine hacted ?_
    split
    · exact h.of_mem mem_loadCounts
    · exact h
  · split
    · split
      · exact h.of_mem mem_stopLoad
      · exact hacted (canonical_updDie (canonical_savePart h))
    · exact h
  · split
    · exact hacted (h.of_mem mem_resumePart)
    · exact h

theorem canonical_eventGangCommit (h : s.MemoryCanonical) : (eventGangCommit s).MemoryCanonical := by
  unfold eventGangCommit
  extract_lets l
  split
  · exact h
  · split
    · extract_lets s1
      have h1 : s1.MemoryCanonical := by unfold s1; split <;> exact h
      split
      · split
        · exact canonical_actFor h1
        · exact h1
      · exact h1
    · exact h

theorem canonical_endRound {l g} (h : s.MemoryCanonical) : (s.endRound l g).MemoryCanonical := by
  unfold State.endRound
  extract_lets s0 s1
  have h1 : s1.MemoryCanonical := by
    show s0.MemoryCanonical
    unfold s0
    split
    · exact canonical_gangRecord h
    · exact h
  split
  · exact h1.of_mem mem_startLoad
  · exact canonical_finishSave h1
  · exact h1.of_mem mem_finishRestore
  · exact h1

theorem canonical_eventGangCommitted (h : s.MemoryCanonical) : (eventGangCommitted s).MemoryCanonical := by
  fun_cases eventGangCommitted
  case case2 => exact canonical_endRound h
  all_goals exact h

theorem canonical_split {l g} (h : s.MemoryCanonical) : (s.split l g).MemoryCanonical := by
  fun_cases State.split <;> exact State.MemoryCanonical.of_mem (canonical_gangRecord h) mem_stopLoad

theorem canonical_eventGangExpire (h : s.MemoryCanonical) : (eventGangExpire s).MemoryCanonical := by
  fun_cases eventGangExpire
  case case3 => exact canonical_gangRecord h
  case case5 => exact canonical_split h
  all_goals exact h

theorem mem_endAbort {l g} : (s.endAbort l g).mem = s.mem := by
  fun_cases State.endAbort <;> simp +zetaDelta

theorem canonical_eventGangAbort (h : s.MemoryCanonical) : (eventGangAbort s).MemoryCanonical := by
  unfold eventGangAbort
  extract_lets l
  split
  · exact h
  · split
    · exact h
    · split
      · extract_lets s1
        have h1 : s1.MemoryCanonical := by
          unfold s1
          split
          · exact h.of_mem (by simp)
          · exact h
        split
        · exact h1.of_mem mem_endAbort
        · exact h1
      · exact h

/-! ### Modules -/

theorem canonical_eventRecovery (h : s.MemoryCanonical) : (eventRecovery s).MemoryCanonical := by
  fun_cases eventRecovery
  · exact canonical_resetModule h
  · exact h

theorem canonical_eventLoadEncKey (h : s.MemoryCanonical) : (eventLoadEncKey s).MemoryCanonical := by
  fun_cases eventLoadEncKey
  · exact canonical_foldl h fun _ _ => canonical_sealGranules
  · exact h

end

end Sys2Proof.Machine
end

section
/-! ## Memory stays canonical: the bodies of the words

The lemma `keeps_f` says so of the body `f`. -/

namespace Sys2Proof.Machine

/-- A computation that keeps memory in its canonical form. -/
def Keeps {α : Type} (m : M α) : Prop := ∀ s, s.MemoryCanonical → ∀ a t, m s = .ok (a, t) → t.MemoryCanonical

section
variable {α β : Type}

theorem keeps_pure {a : α} : Keeps (pure a : M α) := by
  rintro s hs _ _ ⟨⟩
  exact hs

theorem keeps_throw {x : Stop} : Keeps (throw x : M α) := by
  rintro s hs _ _ ⟨⟩

theorem Keeps.bind {m : M α} {k : α → M β} (hm : Keeps m) (hk : ∀ a, Keeps (k a)) : Keeps (m >>= k) := by
  intro s hs b t e
  replace e : (m s).bind (fun p => k p.1 p.2) = .ok (b, t) := e
  cases hp : m s with
  | error x =>
    rw [hp] at e
    cases e
  | ok p =>
    rw [hp] at e
    exact hk p.1 p.2 (hm s hs p.1 p.2 hp) b t e

theorem Keeps.ret {m : M α} {f : α → β} (hm : Keeps m) : Keeps (m >>= fun a => pure (f a)) := hm.bind fun _ => keeps_pure

/-- What follows reads a state whose memory is canonical. -/
theorem keeps_getBind {k : State → M β} (hk : ∀ s : State, s.MemoryCanonical → Keeps (k s)) : Keeps (get >>= k) :=
  fun s hs b t e => hk s hs s hs b t e

theorem keeps_get : Keeps (get : M State) := by
  rintro s hs _ _ ⟨⟩
  exact hs

theorem keeps_read {f : State → α} : Keeps (get >>= fun s => pure (f s) : M α) := keeps_get.ret

theorem keeps_iteM {p : Prop} [Decidable p] {m n : M α} (hm : Keeps m) (hn : Keeps n) : Keeps (if p then m else n) := by
  split <;> assumption

theorem keeps_modify {f : State → State} (hf : ∀ s : State, s.MemoryCanonical → (f s).MemoryCanonical) : Keeps (modify f : M Unit) := by
  rintro s hs _ _ ⟨⟩
  exact hf s hs

theorem keeps_put {t : State} (h : t.MemoryCanonical) : Keeps (set t : M Unit) := by
  rintro s hs _ _ ⟨⟩
  exact h

end

/-! ### Shared operations -/

theorem keeps_holdOn {α : Type} {x : Hold} : Keeps (holdOn x : M α) := keeps_throw

theorem keeps_trapWith {α : Type} {t : Trap} : Keeps (trapWith t : M α) := keeps_throw

theorem keeps_holdUnless {c h'} : Keeps (holdUnless c h') := keeps_iteM keeps_pure keeps_holdOn

theorem keeps_trapIf {c t} : Keeps (trapIf c t) := keeps_iteM keeps_trapWith keeps_pure

theorem keeps_theCore : Keeps theCore := keeps_read

theorem keeps_theStrand : Keeps theStrand := keeps_read

theorem keeps_theTask : Keeps theTask := keeps_read

theorem keeps_modStrand {f} : Keeps (modStrand f) := keeps_modify fun _ h => h

theorem keeps_modTask {f} : Keeps (modTask f) := keeps_modify fun _ h => h

theorem keeps_theEvent {n} : Keeps (theEvent n) := keeps_read

theorem keeps_readReg {i} : Keeps (readReg i) := keeps_theStrand.ret

theorem keeps_writeReg {i v} : Keeps (writeReg i v) := keeps_theCore.bind fun _ => keeps_modStrand

theorem keeps_writePred {i v} : Keeps (writePred i v) := keeps_iteM keeps_pure keeps_modStrand

theorem keeps_pushQueue {q v} : Keeps (pushQueue q v) := by
  unfold pushQueue
  refine keeps_get.bind fun _ => keeps_holdUnless.bind fun _ => keeps_modTask.bind fun _ => ?_
  exact keeps_modify fun _ h => h

theorem keeps_popQueue {q} : Keeps (popQueue q) := by
  unfold popQueue
  refine keeps_get.bind fun _ => keeps_holdUnless.bind fun _ => keeps_theTask.bind fun _ => ?_
  split
  · exact keeps_holdOn
  · exact Keeps.bind (keeps_modify fun _ h => h) fun _ => keeps_modStrand.bind fun _ => Keeps.ret (keeps_modify fun _ h => h)

/-! ### Operands -/

theorem keeps_source {o} : Keeps (source o) := by
  unfold source
  exact keeps_theCore.bind fun _ => by
    split
    · exact keeps_readReg.ret
    · exact keeps_readReg.ret
    · exact keeps_pure
    · exact keeps_read
    · split
      · exact keeps_popQueue.ret
      · exact keeps_pure

theorem keeps_sourceF32 {o} : Keeps (sourceF32 o) := by
  unfold sourceF32
  split
  · exact keeps_pure
  · exact keeps_source.ret

theorem keeps_destine {o v} : Keeps (destine o v) := by
  unfold destine
  exact keeps_theCore.bind fun _ => by
    split
    · exact keeps_writeReg
    · exact keeps_writeReg
    · split
      · exact keeps_pushQueue
      · exact keeps_pure
    · exact keeps_pure

theorem keeps_predOf {o} : Keeps (predOf o) := keeps_theStrand.ret

theorem keeps_addressOf {w} : Keeps (addressOf w) := by
  unfold addressOf
  conv => zeta
  exact keeps_theCore.bind fun _ => keeps_source.bind fun _ => by
    split
    · exact keeps_source.ret
    · exact keeps_iteM keeps_pure keeps_pure

theorem keeps_addressOfStrided {w} : Keeps (addressOfStrided w) :=
  keeps_theCore.bind fun _ => keeps_source.bind fun _ => keeps_iteM keeps_pure keeps_pure

theorem keeps_writeBack {w v} : Keeps (writeBack w v) := by
  unfold writeBack
  split
  · exact keeps_writeReg
  · exact keeps_pure

theorem keeps_afterOwn {a n} : Keeps (afterOwn a n) := keeps_get.bind fun _ => keeps_holdUnless

theorem keeps_formatOf {op w code loc} : Keeps (formatOf op w code loc) := by
  unfold formatOf
  conv => zeta
  refine keeps_theTask.bind fun _ => ?_
  split
  case h_12 => exact keeps_trapIf.ret
  all_goals exact keeps_pure

/-! ### Predicates -/

theorem keeps_writeCond {d c v} : Keeps (writeCond d c v) := keeps_writePred.bind fun _ => keeps_writePred

/-! ### Issue -/

theorem keeps_takeTokens {core f w} : Keeps (takeTokens core f w) := keeps_iteM keeps_pure (keeps_modify fun _ h => h.of_mem mem_popTokens)

theorem keeps_putTokens {core f w} : Keeps (putTokens core f w) := keeps_iteM keeps_pure (keeps_modify fun _ h => h)

theorem keeps_taintWritten {core i f w tainted} : Keeps (taintWritten core i f w tainted) := by
  unfold taintWritten
  conv => zeta
  split
  · exact keeps_pure
  · exact keeps_modStrand

theorem keeps_enqueue {e c} : Keeps (enqueue e c) := keeps_get.bind fun _ => keeps_modTask

theorem keeps_runWord {i body} (hbody : Keeps body) : Keeps (runWord i body) := by
  unfold runWord
  conv => zeta
  refine keeps_get.bind fun _ => ?_
  split
  · exact keeps_holdOn
  · exact keeps_trapWith
  · refine keeps_takeTokens.bind fun _ => Keeps.bind (keeps_iteM keeps_pure keeps_modStrand) fun _ => keeps_iteM ?_ ?_
    · split
      · exact keeps_holdOn
      · split
        · exact keeps_trapWith
        · exact hbody.bind fun _ => keeps_taintWritten.bind fun _ => keeps_iteM keeps_pure keeps_putTokens.ret
    · split
      · exact keeps_enqueue.bind fun _ => keeps_putTokens.ret
      · exact keeps_putTokens.ret

theorem keeps_pushCheck : Keeps pushCheck := by
  unfold pushCheck
  exact keeps_get.bind fun _ => by
    split
    · exact keeps_trapWith
    · exact keeps_pure

/-! ### Scalar words -/

theorem keeps_arith {w op} : Keeps (arith w op) :=
  keeps_theCore.bind fun _ => keeps_source.bind fun _ => keeps_source.bind fun _ => keeps_source.bind fun _ => keeps_destine.ret

theorem keeps_onBits {w op} : Keeps (onBits w op) :=
  keeps_theCore.bind fun _ => keeps_source.bind fun _ => keeps_source.bind fun _ => keeps_destine.ret

theorem keeps_floatOp {w op} : Keeps (floatOp w op) :=
  keeps_sourceF32.bind fun _ => keeps_sourceF32.bind fun _ => keeps_sourceF32.bind fun _ => keeps_destine.ret

theorem keeps_bodyMov {w} : Keeps (bodyMov w) := keeps_source.bind fun _ => keeps_destine.ret

theorem keeps_bodyMovi {w} : Keeps (bodyMovi w) := keeps_theCore.bind fun _ => keeps_destine.ret

theorem keeps_bodyMovhi {w} : Keeps (bodyMovhi w) := keeps_theCore.bind fun _ => keeps_source.bind fun _ => keeps_destine.ret

theorem keeps_bodyCvtsx {w} : Keeps (bodyCvtsx w) := keeps_theCore.bind fun _ => keeps_source.bind fun _ => keeps_destine.ret

theorem keeps_bodyLea {w} : Keeps (bodyLea w) :=
  keeps_source.bind fun _ => keeps_source.bind fun _ => keeps_source.bind fun _ => keeps_destine.ret

theorem keeps_bodyCmp {w} : Keeps (bodyCmp w) :=
  keeps_theCore.bind fun _ => keeps_source.bind fun _ => keeps_source.bind fun _ => keeps_writeCond.ret

theorem keeps_bodySel {w} : Keeps (bodySel w) :=
  keeps_source.bind fun _ => keeps_source.bind fun _ => keeps_predOf.bind fun _ => keeps_destine.ret

theorem keeps_bodyPlog {w} : Keeps (bodyPlog w) := keeps_predOf.bind fun _ => keeps_predOf.bind fun _ => keeps_writePred.ret

theorem keeps_bodyPsave {w} : Keeps (bodyPsave w) := keeps_theStrand.bind fun _ => keeps_destine.ret

theorem keeps_bodyPrest {w} : Keeps (bodyPrest w) := keeps_source.bind fun _ => keeps_modStrand.ret

theorem keeps_bodyFcmp {w} : Keeps (bodyFcmp w) := keeps_sourceF32.bind fun _ => keeps_sourceF32.bind fun _ => keeps_writeCond.ret

theorem keeps_bodyFcvt {w} : Keeps (bodyFcvt w) :=
  keeps_formatOf.bind fun _ => keeps_formatOf.bind fun _ => Keeps.bind (keeps_iteM keeps_sourceF32 keeps_source.ret) fun _ => keeps_destine.ret

theorem keeps_tileAddress {w n} : Keeps (tileAddress w n) := by
  unfold tileAddress
  exact keeps_addressOf.bind fun _ => keeps_get.bind fun _ => by
    split
    · exact keeps_trapWith
    · exact keeps_afterOwn.ret

theorem keeps_bodyLdt {w} : Keeps (bodyLdt w) :=
  keeps_theCore.bind fun _ => keeps_tileAddress.bind fun _ => keeps_get.bind fun _ => keeps_trapIf.bind fun _ => keeps_writeBack.bind fun _ =>
    keeps_destine.ret

theorem keeps_bodyStt {w} : Keeps (bodyStt w) :=
  keeps_theCore.bind fun _ => keeps_source.bind fun _ => keeps_tileAddress.bind fun _ => Keeps.bind (keeps_modify fun _ =>
    canonical_writeTile) fun _ => keeps_writeBack.ret

/-! ### Lanes -/

theorem keeps_readVec {n} : Keeps (readVec n) := keeps_theTask.ret

theorem keeps_writeVec {n cells} : Keeps (writeVec n cells) := keeps_modTask

theorem keeps_writeLanes {w cells} : Keeps (writeLanes w cells) := keeps_iteM (keeps_theTask.bind fun _ => keeps_modTask) keeps_writeVec

theorem keeps_readMask {n} : Keeps (readMask n) := keeps_theTask.ret

theorem keeps_writeMask {n v} : Keeps (writeMask n v) := keeps_modTask

theorem keeps_operandW {f o} : Keeps (operandW f o) := by
  unfold operandW
  conv => zeta
  split
  · exact keeps_readVec
  · exact keeps_pure
  · exact keeps_source.ret

theorem keeps_lanewise {w fp int three} : Keeps (lanewise w fp int three) :=
  keeps_operandW.bind fun _ => keeps_operandW.bind fun _ => (keeps_iteM keeps_operandW keeps_pure).bind fun _ => keeps_writeLanes.ret

theorem keeps_lanebits {w op} : Keeps (lanebits w op) := keeps_operandW.bind fun _ => keeps_operandW.bind fun _ => keeps_writeLanes.ret

theorem keeps_vectorAccess {w op strided trans} : Keeps (vectorAccess w op strided trans) := by
  unfold vectorAccess
  conv => zeta
  refine keeps_formatOf.bind fun _ => Keeps.bind (keeps_iteM keeps_addressOfStrided keeps_addressOf) fun _ =>
    Keeps.bind (keeps_iteM keeps_source.ret keeps_pure) fun _ => keeps_get.bind fun _ => ?_
  split
  · exact keeps_throw
  · exact keeps_pure

theorem keeps_vectorLoad {w op strided trans} : Keeps (vectorLoad w op strided trans) := by
  unfold vectorLoad
  refine keeps_vectorAccess.bind fun x => keeps_get.bind fun _ => ?_
  obtain ⟨f, l, post⟩ := x
  conv => zeta
  split
  · exact keeps_trapWith
  · exact keeps_writeVec.bind fun _ => keeps_writeBack.ret

theorem keeps_vectorStore {w op strided trans} : Keeps (vectorStore w op strided trans) :=
  keeps_readVec.bind fun _ => keeps_vectorAccess.bind fun _ => Keeps.bind (keeps_modify fun _ h => canonical_foldl h fun _ _ =>
    canonical_writeTile) fun _ => keeps_writeBack.ret

/-! ### Vector words -/

theorem keeps_bodyVmov {w} : Keeps (bodyVmov w) := keeps_operandW.bind fun _ => keeps_writeLanes.ret

theorem keeps_bodyVbcs {w} : Keeps (bodyVbcs w) := keeps_formatOf.bind fun _ => keeps_source.bind fun _ => keeps_writeLanes.ret

theorem keeps_bodyVextr {w} : Keeps (bodyVextr w) :=
  keeps_readVec.bind fun _ => keeps_source.bind fun _ => keeps_theTask.bind fun _ => keeps_trapIf.bind fun _ => keeps_destine.ret

theorem keeps_bodyVins {w} : Keeps (bodyVins w) :=
  keeps_source.bind fun _ => keeps_source.bind fun _ => keeps_readVec.bind fun _ => keeps_writeVec.ret

theorem keeps_laneUnary {w fp int} : Keeps (laneUnary w fp int) := keeps_operandW.bind fun _ => keeps_writeLanes.ret

theorem keeps_bodyVcmp {w} : Keeps (bodyVcmp w) :=
  keeps_operandW.bind fun _ => keeps_operandW.bind fun _ => keeps_theTask.bind fun _ => keeps_writeMask.ret

theorem keeps_bodyVsel {w} : Keeps (bodyVsel w) :=
  keeps_operandW.bind fun _ => keeps_operandW.bind fun _ => keeps_readMask.bind fun _ => keeps_writeLanes.ret

theorem keeps_bodyKlog {w} : Keeps (bodyKlog w) := keeps_readMask.bind fun _ => keeps_readMask.bind fun _ => keeps_writeMask.ret

theorem keeps_bodyKmov {w} : Keeps (bodyKmov w) := by
  unfold bodyKmov
  conv => zeta
  split
  · exact keeps_readMask.bind fun _ => keeps_writeMask.ret
  · exact keeps_source.bind fun _ => keeps_source.bind fun _ => keeps_readMask.bind fun _ => keeps_writeMask.ret
  · exact keeps_readMask.bind fun _ => keeps_source.bind fun _ => keeps_destine.ret
  · exact keeps_readMask.bind fun _ => keeps_destine.ret
  · exact keeps_readMask.bind fun _ => keeps_destine.ret

theorem keeps_bodyVswz {w} : Keeps (bodyVswz w) := by
  unfold bodyVswz
  conv => zeta
  refine keeps_readVec.bind fun _ => ?_
  split
  · exact keeps_readVec.bind fun _ => keeps_writeLanes.ret
  · exact keeps_readVec.bind fun _ => keeps_writeLanes.ret
  · exact keeps_source.bind fun _ => keeps_writeLanes.ret

theorem keeps_rotation {w rows} : Keeps (rotation w rows) := keeps_readVec.bind fun _ => keeps_source.bind fun _ => keeps_writeLanes.ret

theorem keeps_axisBroadcast {w rows} : Keeps (axisBroadcast w rows) :=
  keeps_readVec.bind fun _ => keeps_source.bind fun _ => keeps_writeLanes.ret

theorem keeps_onAxis {w rows g} : Keeps (onAxis w rows g) := keeps_readVec.bind fun _ => keeps_writeLanes.ret

theorem keeps_bodyVcvt {w} : Keeps (bodyVcvt w) :=
  keeps_formatOf.bind fun _ => keeps_formatOf.bind fun _ => keeps_operandW.bind fun _ => keeps_writeLanes.ret

theorem keeps_bodyVqnt {w} : Keeps (bodyVqnt w) :=
  keeps_formatOf.bind fun _ => keeps_readVec.bind fun _ => keeps_writeVec.bind fun _ => keeps_writeVec.ret

theorem keeps_bodyVdqnt {w} : Keeps (bodyVdqnt w) :=
  keeps_formatOf.bind fun _ => keeps_readVec.bind fun _ => keeps_readVec.bind fun _ => keeps_writeVec.ret

/-! ### Global accesses -/

theorem keeps_translate {va size u loc} : Keeps (translate va size u loc) := by
  unfold translate
  conv => zeta
  exact keeps_get.bind fun _ => by
    split
    · exact keeps_trapWith
    · exact keeps_holdOn
    · split
      · exact keeps_trapWith
      · exact keeps_pure

theorem keeps_readyToSend {n} : Keeps (readyToSend n) := by
  unfold readyToSend
  conv => zeta
  exact keeps_get.bind fun _ => by
    split
    · exact keeps_holdOn.bind fun _ => keeps_holdUnless.bind fun _ => keeps_holdUnless
    · exact keeps_holdUnless.bind fun _ => keeps_holdUnless

theorem keeps_aligned {va z loc} : Keeps (aligned va z loc) := keeps_trapIf

theorem keeps_counterSize {va pa z plain} : Keeps (counterSize va pa z plain) := by
  unfold counterSize
  split
  · exact keeps_trapIf
  · exact keeps_pure

theorem keeps_dataAddress {w z u plain n} : Keeps (dataAddress w z u plain n) :=
  keeps_readyToSend.bind fun _ => keeps_addressOf.bind fun _ => keeps_aligned.bind fun _ => keeps_translate.bind fun _ => keeps_counterSize.ret

theorem keeps_newAccess {kind va pa z leaf} : Keeps (newAccess kind va pa z leaf) := keeps_read

theorem keeps_send {a} : Keeps (send a) := keeps_modify fun _ h => h

theorem keeps_endCombining {granule} : Keeps (endCombining granule) := keeps_modStrand

theorem keeps_readDamage {va pa z loc} : Keeps (readDamage va pa z loc) := keeps_get.bind fun _ => keeps_trapIf

theorem keeps_bodyLdg {w} : Keeps (bodyLdg w) :=
  keeps_theStrand.bind fun _ => keeps_dataAddress.bind fun _ => keeps_readDamage.bind fun _ => keeps_newAccess.bind fun _ =>
    keeps_theStrand.bind fun _ => keeps_send.bind fun _ => keeps_iteM keeps_writeBack.ret (keeps_modStrand.bind fun _ => keeps_writeBack.ret)

theorem keeps_bodyLdc {w} : Keeps (bodyLdc w) :=
  keeps_dataAddress.bind fun _ => keeps_readDamage.bind fun _ => keeps_newAccess.bind fun _ => keeps_send.bind fun _ =>
    keeps_endCombining.bind fun _ => keeps_writeBack.ret

theorem keeps_bodyStg {w} : Keeps (bodyStg w) :=
  keeps_source.bind fun _ => keeps_dataAddress.bind fun _ => keeps_newAccess.bind fun _ => keeps_send.bind fun _ => keeps_endCombining.bind fun _ =>
    keeps_writeBack.ret

theorem keeps_bodyPld {w} : Keeps (bodyPld w) :=
  keeps_dataAddress.bind fun _ => keeps_readDamage.bind fun _ => keeps_newAccess.bind fun _ => keeps_send.bind fun _ =>
    keeps_endCombining.bind fun _ => keeps_writeBack.ret

theorem keeps_bodyPst {w} : Keeps (bodyPst w) := by
  unfold bodyPst
  refine keeps_source.bind fun _ => keeps_theStrand.bind fun _ => keeps_addressOf.bind fun _ => ?_
  split
  split
  · exact keeps_trapIf.bind fun _ => keeps_writeBack.ret
  · exact keeps_holdOn
  · exact keeps_dataAddress.bind fun _ => keeps_newAccess.bind fun _ => keeps_throw

theorem keeps_bodyPrst {w} : Keeps (bodyPrst w) :=
  keeps_dataAddress.bind fun _ => keeps_newAccess.bind fun _ => keeps_send.bind fun _ => keeps_endCombining.bind fun _ => keeps_writeBack.ret

theorem keeps_bodyStf {w} : Keeps (bodyStf w) :=
  keeps_source.bind fun _ => keeps_source.bind fun _ => keeps_dataAddress.bind fun _ => keeps_aligned.bind fun _ => keeps_translate.bind fun _ =>
    keeps_readDamage.bind fun _ => keeps_newAccess.bind fun _ => keeps_get.bind fun _ => keeps_send.bind fun _ => keeps_endCombining.bind fun _ =>
    keeps_endCombining.bind fun _ => keeps_writeBack.ret

theorem keeps_bodyAtomic {w kind hasC} : Keeps (bodyAtomic w kind hasC) :=
  Keeps.bind (keeps_iteM keeps_source keeps_pure) fun _ => Keeps.bind (keeps_iteM keeps_source keeps_pure) fun _ => keeps_dataAddress.bind fun _ =>
    keeps_readDamage.bind fun _ => keeps_newAccess.bind fun _ => keeps_send.bind fun _ => keeps_endCombining.bind fun _ => keeps_writeBack.ret

theorem keeps_fenceWord {w f} : Keeps (fenceWord w f) := by
  unfold fenceWord
  refine keeps_get.bind fun _ => keeps_theStrand.bind fun _ => ?_
  refine keeps_iteM keeps_modStrand.ret (keeps_iteM keeps_modStrand.ret ?_)
  split
  · exact keeps_holdUnless.bind fun _ => keeps_modStrand.ret
  · exact keeps_throw

theorem keeps_bodyFence {w} : Keeps (bodyFence w) :=
  keeps_get.bind fun _ => keeps_holdUnless.bind fun _ => keeps_endCombining.bind fun _ => keeps_fenceWord

theorem keeps_bodyLfence {w} : Keeps (bodyLfence w) := keeps_get.bind fun _ => keeps_fenceWord

theorem keeps_bodyPref {w} : Keeps (bodyPref w) := by
  unfold bodyPref
  conv => zeta
  exact keeps_readyToSend.bind fun _ => keeps_addressOf.bind fun _ => keeps_get.bind fun _ => by
    split
    · exact keeps_writeBack.ret
    · exact keeps_holdOn.bind fun _ => keeps_writeBack.ret
    · split
      · exact keeps_writeBack.ret
      · exact keeps_iteM (keeps_newAccess.bind fun _ => keeps_send.bind fun _ => keeps_writeBack.ret) keeps_writeBack.ret

/-! ### Ports -/

theorem keeps_myPort {out n} : Keeps (myPort out n) := keeps_read

theorem keeps_rowCount {op w} : Keeps (rowCount op w) := keeps_source.bind fun _ => keeps_trapIf.ret

theorem keeps_bodyVpop {w} : Keeps (bodyVpop w) := by
  unfold bodyVpop
  conv => zeta
  refine keeps_myPort.bind fun _ => keeps_get.bind fun _ => keeps_holdUnless.bind fun _ => keeps_holdUnless.bind fun _ => keeps_rowCount.bind fun _ =>
    keeps_formatOf.bind fun _ => keeps_trapIf.bind fun _ => keeps_holdUnless.bind fun _ => ?_
  have hport {p n c} : Keeps (modify (fun s : State => (s.consume p n).updPort p (fun q => { q with scale := c })) : M Unit) :=
    keeps_modify fun _ h => h.of_mem mem_consume
  have hrest {n} {new : List Word32} {c : Prop} [Decidable c] {k m : M Flow} (hk : Keeps k) (hm : Keeps m) :
      Keeps (readVec n >>= fun old => writeVec n (overwrite new old) >>= fun _ => if c then k else m) :=
    keeps_readVec.bind fun _ => keeps_writeVec.bind fun _ => keeps_iteM hk hm
  split
  · exact keeps_trapWith.bind fun _ => hrest (keeps_readVec.bind fun _ => keeps_writeVec.bind fun _ => hport.ret) hport.ret
  · exact hrest (keeps_readVec.bind fun _ => keeps_writeVec.bind fun _ => hport.ret) hport.ret

theorem keeps_bodyVpush {w} : Keeps (bodyVpush w) :=
  keeps_myPort.bind fun _ => keeps_get.bind fun _ => keeps_holdUnless.bind fun _ => keeps_rowCount.bind fun _ => keeps_formatOf.bind fun _ =>
    keeps_trapIf.bind fun _ => keeps_readVec.bind fun _ => Keeps.bind (keeps_iteM keeps_readVec keeps_pure) fun _ => keeps_holdUnless.bind fun _ =>
    Keeps.ret (keeps_modify fun _ h => h.of_mem mem_sendOn)

theorem keeps_bodyPscl {w} : Keeps (bodyPscl w) :=
  keeps_myPort.bind fun _ => keeps_source.bind fun _ => keeps_get.bind fun _ => keeps_iteM (keeps_holdUnless.bind fun _ =>
    Keeps.bind (keeps_modify fun _ h => h.of_mem mem_sendOn) fun _ => Keeps.ret (keeps_modify fun _ h => h)) (Keeps.ret (keeps_modify fun _ h => h))

theorem keeps_sendToken {w t} : Keeps (sendToken w t) :=
  keeps_myPort.bind fun _ => keeps_get.bind fun _ => keeps_holdUnless.bind fun _ => Keeps.ret (keeps_modify fun _ h => h.of_mem mem_sendOn)

theorem keeps_bodyPthr {w} : Keeps (bodyPthr w) :=
  keeps_myPort.bind fun _ => keeps_source.bind fun _ => keeps_trapIf.bind fun _ => keeps_theTask.bind fun _ =>
    Keeps.ret (keeps_modify fun _ h => h)

theorem keeps_bodyPstat {w} : Keeps (bodyPstat w) := keeps_myPort.bind fun _ => keeps_get.bind fun _ => keeps_destine.ret

theorem keeps_bodyPtst {w} : Keeps (bodyPtst w) :=
  keeps_myPort.bind fun _ => Keeps.bind (keeps_iteM keeps_source keeps_pure) fun _ => keeps_get.bind fun _ => keeps_writeCond.ret

theorem keeps_bodyPdrn {w} : Keeps (bodyPdrn w) := by
  unfold bodyPdrn
  conv => zeta
  exact keeps_myPort.bind fun _ => keeps_get.bind fun _ => keeps_holdUnless.bind fun _ => by
    split
    · exact keeps_trapWith
    · exact Keeps.bind (keeps_modify fun _ h => h.of_mem mem_consume) fun _ => keeps_destine.ret

theorem keeps_bodyPtyp {w} : Keeps (bodyPtyp w) := keeps_myPort.bind fun _ => keeps_get.bind fun _ => keeps_destine.ret

/-! ### The Serac words -/

theorem keeps_newCommand {i} : Keeps (newCommand i) := keeps_theTask.ret

theorem keeps_smmOperand {op w o loc klen kw other} : Keeps (smmOperand op w o loc klen kw other) := by
  unfold smmOperand
  conv => zeta
  split
  · exact keeps_myPort.bind fun _ => keeps_get.bind fun _ => keeps_trapIf.bind fun _ => keeps_trapIf.bind fun _ => keeps_trapIf.ret
  · exact keeps_source

theorem keeps_bodySmm {i op w} : Keeps (bodySmm i op w) :=
  keeps_source.bind fun _ => keeps_smmOperand.bind fun _ => keeps_smmOperand.bind fun _ => keeps_newCommand.bind fun _ => keeps_enqueue.ret

theorem keeps_bodySaccrd {w} : Keeps (bodySaccrd w) :=
  keeps_source.bind fun _ => keeps_source.bind fun _ => keeps_trapIf.bind fun _ => keeps_newCommand.bind fun _ => keeps_enqueue.ret

theorem keeps_bodySaccwr {w} : Keeps (bodySaccwr w) :=
  keeps_source.bind fun _ => keeps_source.bind fun _ => keeps_trapIf.bind fun _ => keeps_newCommand.bind fun _ => keeps_enqueue.ret

theorem keeps_bodySaccz {w} : Keeps (bodySaccz w) := keeps_newCommand.bind fun _ => keeps_enqueue.ret

theorem keeps_bodySet {i op w n} : Keeps (bodySet i op w n) :=
  keeps_source.bind fun _ => keeps_trapIf.bind fun _ => keeps_newCommand.bind fun _ => keeps_enqueue.ret

theorem keeps_bodySprog {w} : Keeps (bodySprog w) := keeps_theTask.bind fun _ => keeps_trapIf.bind fun _ => keeps_destine.ret

theorem keeps_bodyAccMove {i op w v loc write} : Keeps (bodyAccMove i op w v loc write) := by
  unfold bodyAccMove
  conv => zeta
  exact keeps_source.bind fun _ => keeps_source.bind fun _ => keeps_trapIf.bind fun _ => keeps_trapIf.bind fun _ => keeps_trapIf.bind fun _ =>
    keeps_theTask.bind fun _ => keeps_trapIf.bind fun _ => by
    split
    · exact keeps_holdOn.bind fun _ => by
        split
        · exact keeps_trapWith.bind fun _ => keeps_newCommand.bind fun _ => keeps_enqueue.ret
        · exact keeps_newCommand.bind fun _ => keeps_enqueue.ret
    · split
      · exact keeps_trapWith.bind fun _ => keeps_newCommand.bind fun _ => keeps_enqueue.ret
      · exact keeps_newCommand.bind fun _ => keeps_enqueue.ret

theorem keeps_handleOf {o} : Keeps (handleOf o) := by
  unfold handleOf
  split
  · exact keeps_source
  · exact keeps_pure

theorem keeps_bodyStages {i op w chain} : Keeps (bodyStages i op w chain) := by
  unfold bodyStages
  conv => zeta
  exact keeps_source.bind fun _ => keeps_trapIf.bind fun _ => keeps_trapIf.bind fun _ => keeps_theTask.bind fun _ => by
    split
    · exact keeps_trapWith.bind fun _ => keeps_handleOf.bind fun _ => keeps_handleOf.bind fun _ => keeps_handleOf.bind fun _ => keeps_newCommand.bind
        fun _ => keeps_enqueue.ret
    · exact keeps_handleOf.bind fun _ => keeps_handleOf.bind fun _ => keeps_handleOf.bind fun _ => keeps_newCommand.bind fun _ => keeps_enqueue.ret

theorem keeps_bodySstr {w} : Keeps (bodySstr w) :=
  keeps_source.bind fun _ => keeps_source.bind fun _ => keeps_trapIf.bind fun _ => keeps_newCommand.bind fun _ => keeps_enqueue.ret

theorem keeps_bodySbwl {w} : Keeps (bodySbwl w) :=
  keeps_source.bind fun _ => keeps_source.bind fun _ => keeps_newCommand.bind fun _ => keeps_enqueue.ret

/-! ### The Moraine words -/

theorem keeps_checkExtents {c} : Keeps (checkExtents c) := by
  unfold checkExtents
  conv => zeta
  exact keeps_get.bind fun _ => by
    split
    · exact keeps_trapWith.bind fun _ => by
        split
        · exact keeps_trapWith
        · exact keeps_holdOn
        · exact keeps_pure
    · split
      · exact keeps_trapWith
      · exact keeps_holdOn
      · exact keeps_pure

theorem keeps_enterMoraine {w c} : Keeps (enterMoraine w c) :=
  keeps_checkExtents.bind fun _ => keeps_iteM (keeps_modTask.bind fun _ => keeps_enqueue.ret) keeps_enqueue.ret

theorem keeps_readDescriptor {a loc kind bad} : Keeps (readDescriptor a loc kind bad) := by
  unfold readDescriptor
  conv => zeta
  exact keeps_get.bind fun _ => keeps_trapIf.bind fun _ => keeps_trapIf.bind fun _ => keeps_afterOwn.bind fun _ => keeps_trapIf.bind fun _ => by
    split
    · exact keeps_trapWith
    · exact keeps_pure

theorem keeps_bodyMcpy {w} : Keeps (bodyMcpy w) :=
  keeps_source.bind fun _ => keeps_source.bind fun _ => keeps_source.bind fun _ => keeps_trapIf.bind fun _ => keeps_newCommand.bind fun _ =>
    keeps_enterMoraine

theorem keeps_bodyMfill {w} : Keeps (bodyMfill w) :=
  keeps_source.bind fun _ => keeps_source.bind fun _ => keeps_source.bind fun _ => keeps_trapIf.bind fun _ => keeps_newCommand.bind fun _ =>
    keeps_enterMoraine

theorem keeps_bodyMcpy2 {w} : Keeps (bodyMcpy2 w) :=
  keeps_source.bind fun _ => keeps_source.bind fun _ => keeps_source.bind fun _ => keeps_source.bind fun _ => keeps_trapIf.bind fun _ =>
    keeps_newCommand.bind fun _ => keeps_enterMoraine

theorem keeps_bodyMnest {w} : Keeps (bodyMnest w) :=
  keeps_source.bind fun _ => keeps_source.bind fun _ => keeps_source.bind fun _ => keeps_readDescriptor.bind fun _ => keeps_newCommand.bind fun _ =>
    keeps_enterMoraine

theorem keeps_bodyGather {i w kind bad} : Keeps (bodyGather i w kind bad) :=
  keeps_source.bind fun _ => keeps_source.bind fun _ => keeps_source.bind fun _ => keeps_source.bind fun _ => keeps_readDescriptor.bind fun _ =>
    keeps_newCommand.bind fun _ => keeps_enterMoraine

theorem keeps_bodyStream {i op w out} : Keeps (bodyStream i op w out) :=
  Keeps.bind (keeps_iteM keeps_source keeps_pure) fun _ => keeps_source.bind fun _ => keeps_source.bind fun _ => keeps_source.bind fun _ =>
    keeps_get.bind fun _ => keeps_trapIf.bind fun _ => keeps_trapIf.bind fun _ => keeps_trapIf.bind fun _ => keeps_newCommand.bind fun _ =>
    keeps_enterMoraine

theorem keeps_bodyMstat {w} : Keeps (bodyMstat w) :=
  keeps_source.bind fun _ => keeps_trapIf.bind fun _ => keeps_get.bind fun _ => keeps_destine.ret

/-! ### Control words -/

theorem keeps_relative {w} : Keeps (relative w) := keeps_read

theorem keeps_registerTarget {o} : Keeps (registerTarget o) := by
  unfold registerTarget
  conv => zeta
  exact keeps_get.bind fun _ => keeps_theCore.bind fun _ => by
    split
    · exact keeps_source
    · exact keeps_source.ret

theorem keeps_checkTarget {target} : Keeps (checkTarget target) := keeps_get.bind fun _ => keeps_trapIf

theorem keeps_returnAddress : Keeps returnAddress := by
  unfold returnAddress
  conv => zeta
  refine keeps_get.bind fun _ => keeps_iteM keeps_pure ?_
  split
  · exact keeps_pure
  · exact keeps_pure

theorem keeps_linkCall {d} : Keeps (linkCall d) := keeps_returnAddress.bind fun _ => keeps_destine.bind fun _ => keeps_modStrand

theorem keeps_bodyBr {w} : Keeps (bodyBr w) := keeps_relative.bind fun _ => keeps_checkTarget.ret

theorem keeps_bodyJmp {w} : Keeps (bodyJmp w) := keeps_registerTarget.bind fun _ => keeps_checkTarget.ret

theorem keeps_bodyCall {w} : Keeps (bodyCall w) := keeps_relative.bind fun _ => keeps_checkTarget.bind fun _ => keeps_linkCall.ret

theorem keeps_bodyCallr {w} : Keeps (bodyCallr w) := keeps_registerTarget.bind fun _ => keeps_checkTarget.bind fun _ => keeps_linkCall.ret

theorem keeps_bodyRet {w} : Keeps (bodyRet w) := keeps_registerTarget.bind fun _ => keeps_checkTarget.bind fun _ => keeps_modStrand.ret

theorem keeps_bodyLoop {w} : Keeps (bodyLoop w) :=
  keeps_relative.bind fun _ => keeps_theStrand.bind fun _ => keeps_trapIf.bind fun _ => keeps_source.bind fun _ =>
    keeps_iteM keeps_pure (keeps_trapIf.bind fun _ => keeps_modStrand.ret)

theorem keeps_bodyBcq {w} : Keeps (bodyBcq w) :=
  keeps_popQueue.bind fun _ => keeps_relative.bind fun _ => keeps_iteM keeps_checkTarget.ret keeps_pure

theorem keeps_bodyQpush {w} : Keeps (bodyQpush w) := by
  unfold bodyQpush
  conv => zeta
  split
  · exact keeps_source.bind fun _ => keeps_destine.ret
  · exact keeps_source.bind fun _ => keeps_source.bind fun _ => keeps_destine.bind fun _ => keeps_destine.ret
  · exact keeps_predOf.bind fun _ => keeps_destine.ret

theorem keeps_popWhole {o} : Keeps (popWhole o) := by
  unfold popWhole
  split
  · split
    · exact keeps_popQueue
    · exact keeps_pure
  · exact keeps_pure

theorem keeps_bodyQpop {w} : Keeps (bodyQpop w) := by
  unfold bodyQpop
  conv => zeta
  split
  · exact keeps_source.bind fun _ => keeps_destine.ret
  · exact keeps_popWhole.bind fun _ => keeps_destine.bind fun _ => keeps_destine.ret
  · exact keeps_popWhole.bind fun _ => keeps_writePred.ret

theorem keeps_bodyQcount {w} : Keeps (bodyQcount w) := keeps_get.bind fun _ => keeps_destine.ret

theorem keeps_bodyTwait {w} : Keeps (bodyTwait w) :=
  keeps_theCore.bind fun _ => keeps_theTask.bind fun _ => keeps_holdUnless.bind fun _ => Keeps.bind (keeps_modify fun _ h =>
  h.of_mem mem_popTokens) fun _ => keeps_modStrand.ret

theorem keeps_bodyTsig {w} : Keeps (bodyTsig w) := keeps_theCore.bind fun _ => Keeps.ret (keeps_modify fun _ h => h)

theorem keeps_bodyTread {w} : Keeps (bodyTread w) := keeps_get.bind fun _ => keeps_destine.ret

theorem keeps_eventNumber {o} : Keeps (eventNumber o) := keeps_theTask.ret

theorem keeps_bodySuspend {w} : Keeps (bodySuspend w) :=
  keeps_relative.bind fun _ => keeps_checkTarget.bind fun _ => keeps_eventNumber.bind fun _ => keeps_source.ret

theorem keeps_bodyYield : Keeps bodyYield := keeps_modStrand.ret

theorem keeps_bodyEvrd {w} : Keeps (bodyEvrd w) := keeps_eventNumber.bind fun _ => keeps_theEvent.bind fun _ => keeps_destine.ret

theorem keeps_bodyEvadd {w} : Keeps (bodyEvadd w) :=
  keeps_eventNumber.bind fun _ => keeps_source.bind fun _ => Keeps.ret (keeps_modify fun _ h => h)

theorem keeps_bodyEvset {w} : Keeps (bodyEvset w) :=
  keeps_eventNumber.bind fun _ => keeps_source.bind fun _ => Keeps.ret (keeps_modify fun _ h => h)

theorem keeps_bodyGraise {w} : Keeps (bodyGraise w) := keeps_source.bind fun _ => Keeps.ret (keeps_modify fun _ h => h)

theorem keeps_bodyGread {w} : Keeps (bodyGread w) := keeps_get.bind fun _ => keeps_destine.ret

theorem keeps_bodySetnf {w} : Keeps (bodySetnf w) := keeps_source.bind fun _ => keeps_trapIf.bind fun _ => keeps_modTask.ret

/-! ### Special functions -/

theorem keeps_special {w g} : Keeps (special w g) := keeps_operandW.bind fun _ => keeps_writeLanes.ret

/-! ### System words -/

theorem keeps_bodySysrd {w} : Keeps (bodySysrd w) := keeps_get.bind fun _ => keeps_destine.ret

theorem keeps_bodySyswr {w} : Keeps (bodySyswr w) :=
  keeps_source.bind fun _ => keeps_get.bind fun _ => Keeps.ret (keeps_modify fun _ => canonical_sysWrite)

theorem keeps_bodySetstk {w} : Keeps (bodySetstk w) :=
  keeps_source.bind fun _ => keeps_source.bind fun _ => keeps_theTask.bind fun _ => keeps_trapIf.bind fun _ => keeps_trapIf.bind fun _ =>
    keeps_modStrand.ret

theorem keeps_bodyTrap {w} : Keeps (bodyTrap w) := keeps_source.bind fun _ => keeps_get.bind fun _ => keeps_trapWith

theorem keeps_bodyBkpt {w} : Keeps (bodyBkpt w) := keeps_get.bind fun _ => keeps_trapIf.ret

theorem keeps_monitorIndex {op w v} : Keeps (monitorIndex op w v) := keeps_trapIf.ret

theorem keeps_bodyMonrd {w} : Keeps (bodyMonrd w) :=
  keeps_source.bind fun _ => keeps_monitorIndex.bind fun _ => keeps_getBind fun _ h => (keeps_put (h.of_mem mem_readMonitor)).bind fun _ =>
    keeps_destine.ret

theorem keeps_bodyMoncfg {w} : Keeps (bodyMoncfg w) :=
  keeps_source.bind fun _ => keeps_monitorIndex.bind fun _ => keeps_source.bind fun _ => keeps_trapIf.bind fun _ =>
    Keeps.ret (keeps_modify fun _ h => h.of_mem mem_configureMonitor)

theorem keeps_contextTarget {op w} : Keeps (contextTarget op w) := by
  unfold contextTarget
  conv => zeta
  refine keeps_source.bind fun _ => keeps_source.bind fun _ => keeps_trapIf.bind fun _ => keeps_get.bind fun _ => keeps_trapIf.bind fun _ => ?_
  refine keeps_iteM keeps_pure ?_
  split
  · exact keeps_trapWith
  · exact keeps_iteM keeps_afterOwn.ret keeps_pure

theorem keeps_bodyCtxsv {w} : Keeps (bodyCtxsv w) := by
  unfold bodyCtxsv
  conv => zeta
  exact keeps_contextTarget.bind fun _ => by
    split
    · exact keeps_destine.ret
    · exact Keeps.bind (keeps_modify fun _ h => canonical_writeTile (h.of_mem mem_saveContext)) fun _ => keeps_destine.ret

theorem keeps_bodyCtxld {w} : Keeps (bodyCtxld w) := by
  unfold bodyCtxld
  conv => zeta
  refine keeps_contextTarget.bind fun _ => ?_
  split
  · exact keeps_destine.ret
  · refine keeps_getBind fun _ h => keeps_trapIf.bind fun _ => ?_
    split
    · exact keeps_destine.ret
    · next e => exact (keeps_put (h.of_mem (mem_of_loadContext e))).bind fun _ => keeps_destine.ret

theorem keeps_bodyHalt {x0} : Keeps (bodyHalt x0) := Keeps.ret (keeps_modify fun _ h => h)

end Sys2Proof.Machine
end

section
/-! ## Memory stays canonical: every step -/

namespace Sys2Proof.Machine

/-- The next state's memory is canonical, where the answer is a next state. -/
def NextCanonical : Host.Outcome State Fault Refusal → Prop
  | .next s => s.MemoryCanonical
  | _ => True

theorem NextCanonical.of_eq {r : Host.Outcome State Fault Refusal} {s : State} (h : NextCanonical r) (e : r = .next s) : s.MemoryCanonical := by
  rwa [e] at h

theorem nextCanonical_ite {p : Prop} [Decidable p] {a b : Host.Outcome State Fault Refusal} (ha : NextCanonical a) (hb : NextCanonical b) :
    NextCanonical (if p then a else b) := by
  split <;> assumption

/-! ### Instructions -/

section
variable {s : State}

/-- What stops a word leaves the memory that the word began with. -/
theorem canonical_issue {i body} (hb : Keeps body) (h : s.MemoryCanonical) : NextCanonical (issue i body s) := by
  have hrun : Keeps (do
      let flow ← runWord i body
      pushCheck
      return flow) := (keeps_runWord hb).bind fun _ => keeps_pushCheck.ret
  unfold issue
  conv => zeta
  refine nextCanonical_ite trivial ?_
  split
  · exact nextCanonical_ite (canonical_updCur h) (State.MemoryCanonical.of_mem (h.of_mem mem_applyStop) mem_clearCycle)
  · next e =>
    split at e
    · cases e
    · have ht := hrun _ (canonical_ite h (canonical_updStrand h)) _ _ e
      have hretire {a b c d} : NextCanonical (.next (State.retire _ a b c d).clearCycle) := ht.of_mem (mem_clearCycle.trans mem_retire)
      exact nextCanonical_ite (canonical_updCur ht) (nextCanonical_ite hretire (nextCanonical_ite (canonical_updStrand ht) hretire))

theorem canonical_runElement {i w op} (h : s.MemoryCanonical) : NextCanonical (runElement i w op s) :=
  nextCanonical_ite (h.of_mem mem_elemClock) trivial

theorem canonical_onSystemPlane {f : State → State} (h : s.MemoryCanonical) (hf : (f s).MemoryCanonical) : (s.onSystemPlane f).MemoryCanonical :=
  canonical_ite hf h

theorem canonical_exec (i : Instr) (h : s.MemoryCanonical) : NextCanonical (exec i s) := by
  cases i with
  | nop _ | endStrand _ | unassigned _ => exact canonical_issue keeps_pure h
  | mov _ => exact canonical_issue keeps_bodyMov h
  | movi _ => exact canonical_issue keeps_bodyMovi h
  | movhi _ => exact canonical_issue keeps_bodyMovhi h
  | add _ | sub _ | mul _ | mulh _ | div _ | rem _ | min _ | max _ | abs _ | neg _ | mad _ => exact canonical_issue keeps_arith h
  | and _ | or _ | xor _ | andn _ | shl _ | shr _ | sar _ | rol _ | clz _ | popc _ | bfx _ | bfi _ => exact canonical_issue keeps_onBits h
  | sel _ => exact canonical_issue keeps_bodySel h
  | cmp _ => exact canonical_issue keeps_bodyCmp h
  | plog _ => exact canonical_issue keeps_bodyPlog h
  | psave _ => exact canonical_issue keeps_bodyPsave h
  | prest _ => exact canonical_issue keeps_bodyPrest h
  | cvtsx _ => exact canonical_issue keeps_bodyCvtsx h
  | lea _ => exact canonical_issue keeps_bodyLea h
  | ldt _ => exact canonical_issue keeps_bodyLdt h
  | stt _ => exact canonical_issue keeps_bodyStt h
  | fadd _ | fsub _ | fmul _ | ffma _ | fmin _ | fmax _ | fabs _ | fneg _ | fdiv _ | fsqrt _ | frcp _ => exact canonical_issue keeps_floatOp h
  | fcmp _ => exact canonical_issue keeps_bodyFcmp h
  | fcvt _ => exact canonical_issue keeps_bodyFcvt h
  | br _ => exact canonical_issue keeps_bodyBr h
  | jmp _ => exact canonical_issue keeps_bodyJmp h
  | call _ => exact canonical_issue keeps_bodyCall h
  | callr _ => exact canonical_issue keeps_bodyCallr h
  | ret _ => exact canonical_issue keeps_bodyRet h
  | loop _ => exact canonical_issue keeps_bodyLoop h
  | bcq _ => exact canonical_issue keeps_bodyBcq h
  | qpush _ => exact canonical_issue keeps_bodyQpush h
  | qpop _ => exact canonical_issue keeps_bodyQpop h
  | qcount _ => exact canonical_issue keeps_bodyQcount h
  | twait _ => exact canonical_issue keeps_bodyTwait h
  | tsig _ => exact canonical_issue keeps_bodyTsig h
  | suspend _ => exact canonical_issue keeps_bodySuspend h
  | yield _ => exact canonical_issue keeps_bodyYield h
  | evrd _ => exact canonical_issue keeps_bodyEvrd h
  | evadd _ => exact canonical_issue keeps_bodyEvadd h
  | evset _ => exact canonical_issue keeps_bodyEvset h
  | graise _ => exact canonical_issue keeps_bodyGraise h
  | gread _ => exact canonical_issue keeps_bodyGread h
  | setnf _ => exact canonical_issue keeps_bodySetnf h
  | tread _ => exact canonical_issue keeps_bodyTread h
  | ldg _ => exact canonical_issue keeps_bodyLdg h
  | stg _ => exact canonical_issue keeps_bodyStg h
  | ldc _ => exact canonical_issue keeps_bodyLdc h
  | pld _ => exact canonical_issue keeps_bodyPld h
  | pst _ => exact canonical_issue keeps_bodyPst h
  | prst _ => exact canonical_issue keeps_bodyPrst h
  | stf _ => exact canonical_issue keeps_bodyStf h
  | atadd _ | atand _ | ator _ | atxor _ | atmin _ | atmax _ | atswp _ | atcas _ | amaxx _ | atfadd _
  | atfmax _ => exact canonical_issue keeps_bodyAtomic h
  | fence _ => exact canonical_issue keeps_bodyFence h
  | lfence _ => exact canonical_issue keeps_bodyLfence h
  | pref _ => exact canonical_issue keeps_bodyPref h
  | vld _ | vlds _ | vldt _ => exact canonical_issue keeps_vectorLoad h
  | vst _ | vsts _ | vstt _ => exact canonical_issue keeps_vectorStore h
  | vmov _ => exact canonical_issue keeps_bodyVmov h
  | vbcs _ => exact canonical_issue keeps_bodyVbcs h
  | vadd _ | vsub _ | vmul _ | vfma _ | vmin _ | vmax _ => exact canonical_issue keeps_lanewise h
  | vabs _ | vneg _ => exact canonical_issue keeps_laneUnary h
  | vand _ | vor _ | vxor _ | vshl _ | vshr _ | vsar _ => exact canonical_issue keeps_lanebits h
  | vcmp _ => exact canonical_issue keeps_bodyVcmp h
  | vsel _ => exact canonical_issue keeps_bodyVsel h
  | klog _ => exact canonical_issue keeps_bodyKlog h
  | kmov _ => exact canonical_issue keeps_bodyKmov h
  | vrotr _ | vrotc _ => exact canonical_issue keeps_rotation h
  | vbcr _ | vbcc _ => exact canonical_issue keeps_axisBroadcast h
  | vredr _ | vredc _ | vscnr _ | vscnc _ => exact canonical_issue keeps_onAxis h
  | vcvt _ => exact canonical_issue keeps_bodyVcvt h
  | vqnt _ => exact canonical_issue keeps_bodyVqnt h
  | vdqnt _ => exact canonical_issue keeps_bodyVdqnt h
  | vexp _ | vlog _ | vrcp _ | vrsq _ | vtanh _ => exact canonical_issue keeps_special h
  | vextr _ => exact canonical_issue keeps_bodyVextr h
  | vins _ => exact canonical_issue keeps_bodyVins h
  | vpop _ => exact canonical_issue keeps_bodyVpop h
  | vpush _ => exact canonical_issue keeps_bodyVpush h
  | pscl _ => exact canonical_issue keeps_bodyPscl h
  | vswz _ => exact canonical_issue keeps_bodyVswz h
  | smm _ | smmz _ => exact canonical_issue keeps_bodySmm h
  | saccrd _ => exact canonical_issue keeps_bodySaccrd h
  | saccwr _ => exact canonical_issue keeps_bodySaccwr h
  | saccz _ => exact canonical_issue keeps_bodySaccz h
  | sscl _ | smode _ => exact canonical_issue keeps_bodySet h
  | sprog _ => exact canonical_issue keeps_bodySprog h
  | sbfly _ | schain _ => exact canonical_issue keeps_bodyStages h
  | sstr _ => exact canonical_issue keeps_bodySstr h
  | sbwl _ => exact canonical_issue keeps_bodySbwl h
  | saccv _ | svacc _ => exact canonical_issue keeps_bodyAccMove h
  | mcpy _ => exact canonical_issue keeps_bodyMcpy h
  | mcpy2 _ => exact canonical_issue keeps_bodyMcpy2 h
  | mgth _ | msct _ | mspg _ => exact canonical_issue keeps_bodyGather h
  | mfill _ => exact canonical_issue keeps_bodyMfill h
  | mm2c _ | mc2m _ => exact canonical_issue keeps_bodyStream h
  | mnest _ => exact canonical_issue keeps_bodyMnest h
  | mstat _ => exact canonical_issue keeps_bodyMstat h
  | pthr _ => exact canonical_issue keeps_bodyPthr h
  | peos _ | pord _ => exact canonical_issue keeps_sendToken h
  | pstat _ => exact canonical_issue keeps_bodyPstat h
  | ptst _ => exact canonical_issue keeps_bodyPtst h
  | pdrn _ => exact canonical_issue keeps_bodyPdrn h
  | ptyp _ => exact canonical_issue keeps_bodyPtyp h
  | sysrd _ => exact canonical_issue keeps_bodySysrd h
  | syswr _ => exact canonical_issue keeps_bodySyswr h
  | setstk _ => exact canonical_issue keeps_bodySetstk h
  | trap _ => exact canonical_issue keeps_bodyTrap h
  | bkpt _ => exact canonical_issue keeps_bodyBkpt h
  | monrd _ => exact canonical_issue keeps_bodyMonrd h
  | moncfg _ => exact canonical_issue keeps_bodyMoncfg h
  | ctxsv _ => exact canonical_issue keeps_bodyCtxsv h
  | ctxld _ => exact canonical_issue keeps_bodyCtxld h
  | halt _ => exact canonical_issue keeps_bodyHalt h
  | elSource _ => exact nextCanonical_ite (h.of_mem mem_sourceClock) trivial
  | elSink _ => exact nextCanonical_ite (h.of_mem mem_sinkClock) trivial
  | elCopy _ | elConst _ | elAdd _ | elSub _ | elMul _ | elFma _ | elMin _ | elMax _ | elLogic _ | elCmp _ | elCvt _ | elLut _ | elUnpack _
  | elPack _ | elZenc _ | elZdec _ | elDelta _ | elBqnt _ | elBdqnt _ | elExpadd _ | elTopk _ | elCount _ | elSteer _ | elMerge _
  | elCarry _ => exact canonical_runElement h
  | elQbuf _ => exact nextCanonical_ite (h.of_mem mem_qbufClock) trivial
  | suspendWake => exact h.of_mem mem_eventSuspendWake
  | autoPark => exact h.of_mem mem_eventAutoPark
  | autoParkWake => exact h.of_mem mem_eventAutoParkWake
  | graiseApply => exact h.of_mem mem_eventGraiseApply
  | globalAccessPerform => exact canonical_eventPerform h
  | globalReplyArrival => exact h.of_mem mem_eventReply
  | globalAckArrival => exact h.of_mem mem_eventAck
  | fenceRetire => exact h.of_mem mem_eventFenceRetire
  | translationWalkComplete => exact h.of_mem mem_eventWalkComplete
  | layoutRecordCacheFill => exact h.of_mem mem_eventRecordFill
  | seracCommandStart => exact h.of_mem mem_eventSeracStart
  | seracBlockStaged => exact h.of_mem mem_eventSeracStage
  | seracCommandComplete => exact canonical_eventSeracComplete h
  | moraineCommandStart => exact h.of_mem mem_eventMoraineStart
  | moraineCommandComplete => exact canonical_eventMoraineComplete h
  | gridDispatch => exact canonical_eventGridDispatch h
  | taskStrandsStart => exact h.of_mem mem_eventStrandsStart
  | taskDone => exact h.of_mem mem_eventTaskDone
  | taskSlotFree => exact h.of_mem mem_eventSlotFree
  | graphQueueEnable | graphQueueTailWrite | xinvStart | regionSwapRequest | fqctlEnable | tilehaltWrite | ownClaim | ownHandover | pwrtileWrite
  | pwrregWrite => exact canonical_eventWrite h
  | graphEntryRead => exact h.of_mem mem_eventEntryRead
  | loadConfigure => exact h.of_mem mem_eventLoadConfigure
  | regionImageVerified => exact h.of_mem mem_eventImageVerified
  | loadStart => exact h.of_mem mem_eventLoadStart
  | loadComplete => exact h.of_mem mem_eventLoadComplete
  | loadExit => exact h.of_mem mem_eventLoadExit
  | graphComplete => exact canonical_eventGraphComplete h
  | xinvComplete => exact h.of_mem mem_eventXinvComplete
  | planeRetirePlanned => exact h.of_mem mem_eventRetirePlanned
  | planeFaultDetect => exact h.of_mem mem_eventPlaneFault
  | planeStallTimeout => exact h.of_mem mem_eventPlaneStall
  | rehashStop => exact h.of_mem mem_eventRehashStop
  | rehashDrained => exact canonical_eventRehashDrained h
  | rehashCommit => exact h.of_mem mem_eventRehashCommit
  | rehashCommitted => exact h.of_mem mem_eventRehashCommitted
  | rehashResume => exact h.of_mem mem_eventRehashResume
  | channelPacketSend => exact h.of_mem mem_eventPacketSend
  | channelPacketArrive => exact h.of_mem mem_eventPacketArrive
  | channelAck => exact h.of_mem mem_eventAckChannel
  | channelOff => exact h.of_mem mem_eventChannelOff
  | channelOn => exact h.of_mem mem_eventChannelOn
  | elementSpecialToken => exact h.of_mem mem_eventSpecialToken
  | regionOutputPortTake => exact h.of_mem mem_eventPortTake
  | regionConfigError => exact h.of_mem mem_eventConfigError
  | regionSwapImageChecked => exact h.of_mem mem_eventSwapChecked
  | regionSwapIdle => exact canonical_eventSwapIdle h
  | regionSwapTimeout => exact h.of_mem mem_eventSwapTimeout
  | preemptSaveRequest => exact canonical_eventSaveRequest h
  | preemptRestoreRequest => exact canonical_eventRestoreRequest h
  | preemptQtoExpire => exact h.of_mem mem_eventQtoExpire
  | regionStillTimeout => exact h.of_mem mem_eventStillTimeout
  | preemptQuiescent => exact canonical_onSystemPlane h (canonical_eventQuiescent h)
  | gangArm => exact canonical_onSystemPlane h (canonical_eventGangArm h)
  | gangAck => exact canonical_onSystemPlane h (h.of_mem mem_eventGangAck)
  | gangCommit => exact canonical_onSystemPlane h (canonical_eventGangCommit h)
  | gangCommitted => exact canonical_onSystemPlane h (canonical_eventGangCommitted h)
  | gangAbort => exact canonical_onSystemPlane h (canonical_eventGangAbort h)
  | preemptSaveComplete => exact h.of_mem mem_eventSaveComplete
  | preemptRestoreComplete => exact canonical_eventRestoreComplete h
  | faultEntryWrite => exact h.of_mem mem_eventEntryWrite
  | fqResume | fqResumeStack | fqResumeAt | fqKill | fqStopLoad | fqContinue => exact canonical_respondWith h
  | deadlockDetect => exact h.of_mem mem_eventDeadlock
  | loadStop => exact h.of_mem mem_eventLoadStop
  | loadStopped => exact h.of_mem mem_eventLoadStopped
  | scrubUncorrectable => exact h.of_mem mem_eventScrub
  | hostMemoryRequest => exact canonical_eventHostMemory h
  | hostAtomic => exact canonical_eventHostAtomic h
  | functionLevelReset => exact h.of_mem mem_eventFlr
  | registerWrite => exact canonical_eventRegisterWrite h
  | ownerVacancyTimeout => exact h.of_mem mem_eventVacancy
  | boot => exact h.of_mem mem_eventBoot
  | fwRecovery => exact canonical_eventRecovery h
  | mbInstallKey => exact h.of_mem mem_eventInstallKey
  | mbAttest => exact h.of_mem mem_eventAttest
  | mbLoadEncKey => exact canonical_eventLoadEncKey h
  | mbUpdateFw => exact h.of_mem mem_eventUpdateFw
  | powerUpComplete => exact h.of_mem mem_eventPowerUp
  | tileClockGate => exact h.of_mem mem_eventClockGate
  | thermalThrottle => exact h.of_mem mem_eventThrottle
  | thermalReset => exact canonical_resetModule h
  | laneRemove => exact h.of_mem mem_eventLaneRemove
  | linkTurnaround => exact h.of_mem mem_eventTurnaround
  | pkgIndexClash => exact h.of_mem mem_eventClash
  | ringSlotArrive => exact h.of_mem mem_eventSlotArrive
  | incastResend => exact h.of_mem mem_eventResend
  | gangWindowExpire => exact canonical_eventGangExpire h
  | sealedOperatorFire => exact h.of_mem mem_eventSealedFire
  | linkRetrainComplete => exact h.of_mem mem_eventRetrain
  | hostLinkDown => exact h.of_mem mem_eventHostLink
  | bridgeLinkTrained => exact h.of_mem mem_eventBridge

/-! ### A turn, and a cycle -/

theorem canonical_runPair {who i m} (h : s.MemoryCanonical) : NextCanonical (runPair who i m s) := by
  have hi : NextCanonical (exec i (s.atStrand who (some m))) := canonical_exec i h
  unfold runPair
  conv => zeta
  split
  · next e =>
    have ht := hi.of_eq e
    split
    · exact h.of_mem mem_applyStop
    · split
      · next e =>
        split
        · exact h.of_mem mem_applyStop
        · exact (canonical_exec m (canonical_updCur ht)).of_eq e
      · exact canonical_exec m (canonical_updCur ht)
  · exact hi

theorem canonical_runAt {who} (h : s.MemoryCanonical) : NextCanonical (runAt who s) := by
  unfold runAt
  split
  · trivial
  · refine nextCanonical_ite ?_ (canonical_exec _ h)
    split
    · exact canonical_runPair h
    · exact canonical_exec _ h

theorem canonical_strandTurn {who} (h : s.MemoryCanonical) : NextCanonical (strandTurn who s) := by
  have he {x y z} : (s.enterHeader x y z).MemoryCanonical := h.of_mem mem_enterHeader
  exact nextCanonical_ite (nextCanonical_ite he (nextCanonical_ite trivial (canonical_runAt he))) (canonical_runAt h)

theorem canonical_coreSecond {t c first limits firstYielded l} (h : s.MemoryCanonical) :
    NextCanonical (coreSecond t c first limits firstYielded l s) := by
  induction l generalizing s with
  | nil => exact h
  | cons who l ih =>
    unfold coreSecond
    refine nextCanonical_ite ?_ (ih h)
    split
    · next e =>
      have hu := (canonical_strandTurn h).of_eq e
      exact nextCanonical_ite (ih hu) hu
    · exact canonical_strandTurn h

theorem canonical_coreTry {t c l} (h : s.MemoryCanonical) : NextCanonical (coreTry t c l s) := by
  induction l generalizing s with
  | nil => exact h
  | cons who l ih =>
    unfold coreTry
    split
    · next e =>
      have hu := (canonical_strandTurn h).of_eq e
      refine nextCanonical_ite (ih hu) ?_
      split
      · exact nextCanonical_ite hu (canonical_coreSecond hu)
      · exact hu
    · exact canonical_strandTurn h

theorem canonical_runTurn {t} (h : s.MemoryCanonical) : NextCanonical (runTurn t s) := by
  unfold runTurn
  split
  · exact nextCanonical_ite h (canonical_coreTry h)
  · split
    · exact canonical_exec _ h
    · exact h
  · exact canonical_exec _ h

theorem canonical_runTurns {ts} (h : s.MemoryCanonical) : NextCanonical (runTurns ts s) := by
  induction ts generalizing s with
  | nil => exact h
  | cons t ts ih =>
    unfold runTurns
    split
    · next e => exact ih ((canonical_runTurn h).of_eq e)
    · exact canonical_runTurn h

theorem canonical_onNext {f : State → State} {r} (h : NextCanonical r) (hf : ∀ u, (f u).mem = u.mem) : NextCanonical (onNext f r) := by
  unfold onNext
  split
  · exact State.MemoryCanonical.of_mem h (hf _)
  · exact h

theorem canonical_step (h : s.MemoryCanonical) : NextCanonical (step s) := by
  unfold step runStep
  split
  · exact h.of_mem mem_endCycle
  · exact canonical_onNext (canonical_runTurns h) fun _ => mem_endCycle

end

/-- Settles O5: every operation of a step writes through `Memory.writeBytes` or clears with `Memory.clear`, or leaves memory. -/
theorem stepKeepsMemoryCanonical : Obligations.StepKeepsMemoryCanonical := by
  unfold Obligations.StepKeepsMemoryCanonical
  exact fun _ _ h e => (canonical_step h).of_eq e

end Sys2Proof.Machine
end

section
/-! ## Accesses performed at homes in memory

The rules of a home that is a byte of HBM or of a tile (R234, R236), and of GLOBAL_ACCESS_PERFORM there (R257). -/

namespace Sys2Proof.Machine

/-! ### Bytes and numbers -/

theorem bytesToNat_lt (bs : List Byte) : bytesToNat bs < 256 ^ bs.length := by
  induction bs with
  | nil => exact Nat.one_pos
  | cons b bs ih =>
    have hb : b.toNat < 256 := b.isLt
    rw [bytesToNat, List.length_cons, pow_succ]
    omega

/-- The bytes of at most eight of a word hold its low bits alone. -/
theorem natToBytes_mod {n : Nat} (hn : n ≤ 8) (v : Nat) : natToBytes n (v % 2 ^ 64) = natToBytes n v := by
  rw [natToBytes_eq, natToBytes_eq]
  refine List.map_congr_left fun k hk => BitVec.eq_of_toNat_eq ?_
  have hk := List.mem_range.1 hk
  have hsplit : 2 ^ 64 = 256 ^ k * (256 * 256 ^ (7 - k)) := by
    rw [← pow_succ', ← pow_add, show k + (7 - k + 1) = 8 by omega]
    rfl
  rw [BitVec.toNat_ofNat, BitVec.toNat_ofNat, hsplit, Nat.mod_mul_right_div_self]
  exact Nat.mod_mul_right_mod _ _ _

theorem length_readPa_le (s : State) (pa n : Nat) (key : BitVec 4) : (s.readPa pa n key).length ≤ n := by
  have hbytes (m : List Host.Cell) (a : Nat) : (Memory.readBytes m a n).length = n := by
    induction n generalizing a with
    | zero => rfl
    | succ n ih => rw [Memory.readBytes, List.length_cons, ih]
  unfold State.readPa
  split
  · exact (hbytes _ _).le
  · exact List.length_take_le _ _

theorem bytesToNat_readPa_lt (s : State) (pa : Nat) {n : Nat} (key : BitVec 4) (hn : n ≤ 8) : bytesToNat (s.readPa pa n key) < 2 ^ 64 :=
  (bytesToNat_lt _).trans_le ((Nat.pow_le_pow_right (by decide) ((length_readPa_le s pa n key).trans hn)).trans (by decide))

/-! ### A home in memory -/

/-- A home that is a byte of HBM or of a tile. -/
def InMemory (pa : Nat) : Prop := placeOf pa = .hbm ∨ ∃ n o, placeOf pa = .tile n o

theorem homeRead_of_inMemory {pa : Nat} (h : InMemory pa) (s : State) (z : Nat) (key : BitVec 4) :
    s.homeRead pa z key = (BitVec.ofNat 64 (bytesToNat (s.readPa pa z key)), s) := by
  obtain h | ⟨n, o, h⟩ := h <;> simp only [State.homeRead, h]

theorem homeWrite_of_inMemory {pa : Nat} (h : InMemory pa) (s : State) (z : Nat) (key : BitVec 4) (v : Word64) :
    s.homeWrite pa z key v = (s.writePa pa (natToBytes z v.toNat) key).repair pa z := by
  obtain h | ⟨n, o, h⟩ := h <;> simp only [State.homeWrite, h]

/-- A write at an address, repairs included, touches memory, its keys and what is damaged alone. -/
theorem writePa_repair_eq (s : State) (pa : Nat) (bs : List Byte) (key : BitVec 4) (n : Nat) :
    ∃ m k d, (s.writePa pa bs key).repair pa n = { s with mem := m, keytag := k, damaged := d } ∧ m = (s.writePa pa bs key).mem := by
  obtain ⟨m, k, hw⟩ := writePa_eq s pa bs key
  obtain ⟨d, hd⟩ := repair_eq (s.writePa pa bs key) pa n
  exact ⟨m, k, d, by rw [hd, hw], by rw [hw]⟩

/-- A store of at most eight bytes at a home in memory. -/
theorem homeWrite_eq {pa : Nat} (h : InMemory pa) (s : State) {z : Nat} (hz : z ≤ 8) (key : BitVec 4) (v : Nat) :
    ∃ m k d, s.homeWrite pa z key (BitVec.ofNat 64 v) = { s with mem := m, keytag := k, damaged := d } ∧
      m = (s.writePa pa (natToBytes z v) key).mem := by
  rw [homeWrite_of_inMemory h, BitVec.toNat_ofNat, natToBytes_mod hz]
  exact writePa_repair_eq s pa _ key z

/-! ### The event -/

section
variable {s : State} {a : Access} (hfind : s.net.find? (fun b => b.num == s.event.access && decide (b.who = s.event.who)) = some a)
include hfind

/-- GLOBAL_ACCESS_PERFORM of the data of an access whose turn it is. -/
theorem eventPerform_data (hflag : s.event.flag = false) (hstage : a.stage = .sent) (hsource : s.event.source = none) (hmay : s.mayPerform a = true)
    (hlive : s.travels a a.plane = true) (hwake : s.wakeAt a.pa = s) : exec .globalAccessPerform s = .next (s.perform a) := by
  show Host.Outcome.next (eventPerform s) = _
  simp [eventPerform, hfind, hflag, hstage, hsource, hmay, hlive, hwake]

variable (hflag : s.event.flag = true) (hstage : a.stage = .flag) (hmay : s.mayFlag a = true) (hlive : s.travels a a.flagPlane = true)
include hflag hstage hmay hlive

/-- GLOBAL_ACCESS_PERFORM of the flag of an STF whose data has been performed, in HBM. -/
theorem eventPerform_flag_hbm (hplace : placeOf a.flagPa = .hbm) : exec .globalAccessPerform s = .next
    (((s.writePa a.flagPa (natToBytes 8 ((bytesToNat (s.readPa a.flagPa 8 a.flagKey) + 1) % 2 ^ 64)) a.flagKey).repair a.flagPa 8).updAccess a.num
      (fun b => b.performed 0)) := by
  show Host.Outcome.next (eventPerform s) = _
  simp [eventPerform, hfind, hflag, hstage, hmay, hlive, hplace]

/-- The same of a flag that is an event counter (R236). -/
theorem eventPerform_flag_counter {n c o : Nat} (hplace : placeOf a.flagPa = .counter n c o) :
    exec .globalAccessPerform s = .next ((s.addEvent ⟨dieOf a.flagPa, n⟩ c 1).updAccess a.num (fun b => b.performed 0)) := by
  show Host.Outcome.next (eventPerform s) = _
  simp [eventPerform, hfind, hflag, hstage, hmay, hlive, hplace]

end

/-- What an LDG captures for the reads that combine with it leaves all but the strands (R273). -/
theorem capture_eq (s : State) (a : Access) : ∃ ss, s.capture a = { s with strands := ss } := by
  fun_cases State.capture
  · exact ⟨_, rfl⟩
  · exact ⟨_, rfl⟩

/-- Where no PLD waits for a word, its fill releases none (R280). -/
theorem releaseDeferred_of_none {s : State} {pa : Nat} (h : s.net.filter (fun b => b.stage == .deferred && b.pa == pa) = []) (v : Word64) :
    s.releaseDeferred pa v = s := by
  have hall : s.net.filter (fun b => !(b.stage == .deferred && b.pa == pa)) = s.net :=
    List.filter_eq_self.2 fun b hb => by rw [Bool.eq_false_iff.2 (List.filter_eq_nil_iff.1 h b hb)]; rfl
  simp only [State.releaseDeferred, hall, h, List.map_nil, List.append_nil]

/-! ### Each kind of access -/

/-- What an access that writes its home does: its bytes written, its answer, and the rest of the state that a reader sees as before. -/
def Stored (s : State) (a : Access) (v : Nat) (r : Word64) : Prop :=
  ∃ t, exec .globalAccessPerform s = .next t ∧ t.mem = (s.writePa a.pa (natToBytes a.size v) a.keyid).mem ∧
    t.net = s.net.map (fun b => if b.num = a.num then b.performed r else b) ∧ t.full = s.full ∧ t.tasks = s.tasks ∧ t.loads = s.loads

/-- The kinds of access that read and write their home as one (R292 to R295). -/
abbrev IsAtomic (k : AccessKind) : Prop :=
  k ∈ [.atadd, .atand, .ator, .atxor, .atmin, .atmax, .atswp, .atcas, .amaxx, .atfadd, .atfmax]

theorem perform_atomic {s : State} {a : Access} (hk : IsAtomic a.kind) :
    s.perform a = (if a.kind = .atcas ∧ (s.homeRead a.pa a.size a.keyid).1.toNat ≠ a.expect.toNat % 2 ^ (8 * a.size) then s
      else s.homeWrite a.pa a.size a.keyid (BitVec.ofNat 64 (atomicNew a (s.homeRead a.pa a.size a.keyid).1.toNat))).updAccess a.num
        (fun x => x.performed (s.homeRead a.pa a.size a.keyid).1) := by
  unfold State.perform
  split
  case h_9 => rfl
  all_goals
    next hkind =>
    rw [hkind] at hk
    exact absurd hk (by decide)

/-- The word that an access reads at its home. -/
theorem homeRead_toNat {s : State} {a : Access} (hmem : InMemory a.pa) (hz : a.size ≤ 8) :
    (s.homeRead a.pa a.size a.keyid).1.toNat = bytesToNat (s.readPa a.pa a.size a.keyid) := by
  rw [homeRead_of_inMemory hmem, BitVec.toNat_ofNat, Nat.mod_eq_of_lt (bytesToNat_readPa_lt s a.pa a.keyid hz)]

theorem atomicNew_atmin {a : Access} (hk : a.kind = .atmin) (old : Nat) : atomicNew a old =
    if a.expect = 1 then min (a.data.toNat % 2 ^ (8 * a.size)) old
    else if sext (8 * a.size) (a.data.toNat % 2 ^ (8 * a.size)) < sext (8 * a.size) old then a.data.toNat % 2 ^ (8 * a.size) else old := by
  simp only [atomicNew, hk]
  split
  · simp only [decide_eq_true_eq]
    split <;> omega
  · simp only [decide_eq_true_eq]

theorem atomicNew_atmax {a : Access} (hk : a.kind = .atmax) (old : Nat) : atomicNew a old =
    if a.expect = 1 then max (a.data.toNat % 2 ^ (8 * a.size)) old
    else if sext (8 * a.size) old < sext (8 * a.size) (a.data.toNat % 2 ^ (8 * a.size)) then a.data.toNat % 2 ^ (8 * a.size) else old := by
  simp only [atomicNew, hk]
  split
  · simp only [decide_eq_true_eq]
    split <;> omega
  · simp only [decide_eq_true_eq]

theorem atomicNew_atcas {a : Access} {old : Nat} (hk : a.kind = .atcas) (heq : old = a.expect.toNat % 2 ^ (8 * a.size)) :
    atomicNew a old = a.data.toNat % 2 ^ (8 * a.size) := by
  simp only [atomicNew, hk]
  exact if_pos heq

/-! What an access does at its home, for the kinds that do not write it and those that write it but not atomically (R280, R288 to R291). -/

section
variable {s : State} {a : Access}

theorem perform_ldg (hmem : InMemory a.pa) (hk : a.kind = .ldg) : ∃ ss, s.perform a =
    ({ s with strands := ss } : State).updAccess a.num (fun b => b.performed (BitVec.ofNat 64 (bytesToNat (s.readPa a.pa a.size a.keyid)))) := by
  obtain ⟨ss, hcapture⟩ := capture_eq s a
  exact ⟨ss, by simp only [State.perform, hk, homeRead_of_inMemory hmem, hcapture]⟩

theorem perform_ldc (hmem : InMemory a.pa) (hk : a.kind = .ldc) :
    s.perform a = s.updAccess a.num (fun b => b.performed (BitVec.ofNat 64 (bytesToNat (s.readPa a.pa a.size a.keyid)))) := by
  simp only [State.perform, hk, homeRead_of_inMemory hmem]

theorem perform_pref (hk : a.kind = .pref) : s.perform a = s.updAccess a.num (fun b => b.performed 0) := by
  simp only [State.perform, hk]

theorem perform_prst (hk : a.kind = .prst) :
    s.perform a = ({ s with full := s.full.filter (fun p => p ≠ a.pa) } : State).updAccess a.num (fun b => b.performed 0) := by
  simp only [State.perform, hk]

theorem perform_stf (hmem : InMemory a.pa) (hk : a.kind = .stf) : s.perform a =
    ((s.writePa a.pa (natToBytes a.size a.data.toNat) a.keyid).repair a.pa a.size).updAccess a.num (fun b => { b with stage := .flag }) := by
  simp only [State.perform, hk, homeWrite_of_inMemory hmem]

theorem perform_pld_full (hmem : InMemory a.pa) (hk : a.kind = .pld) (hfull : a.pa ∈ s.full) :
    s.perform a = s.updAccess a.num (fun b => b.performed (BitVec.ofNat 64 (bytesToNat (s.readPa a.pa 8 a.keyid)))) := by
  simp only [State.perform, hk, List.contains_iff_mem, hfull, if_true, homeRead_of_inMemory hmem]

theorem perform_pld_killed (hk : a.kind = .pld) (hempty : a.pa ∉ s.full) (hkilled : (s.task a.who.task).status = .killed) :
    s.perform a = { s with net := s.net.filter (fun b => b.num ≠ a.num) } := by
  simp only [State.perform, hk, List.contains_iff_mem, hempty, if_false, hkilled, if_true]

theorem perform_pld_empty (hk : a.kind = .pld) (hempty : a.pa ∉ s.full) (hlives : (s.task a.who.task).status ≠ .killed) :
    s.perform a = s.updAccess a.num (fun b => { b with stage := .deferred }) := by
  simp only [State.perform, hk, List.contains_iff_mem, hempty, if_false, hlives]

theorem perform_pst_full (hk : a.kind = .pst) (hfull : a.pa ∈ s.full) :
    s.perform a = s.updAccess a.num (fun b => { b.performed 0 with refused := true }) := by
  simp only [State.perform, hk, List.contains_iff_mem, hfull, if_true]

theorem perform_pst_empty (hmem : InMemory a.pa) (hk : a.kind = .pst) (hempty : a.pa ∉ s.full)
    (hwaits : s.net.filter (fun b => b.stage == .deferred && b.pa == a.pa) = []) : ∃ m k d, s.perform a =
      ({ s with mem := m, keytag := k, damaged := d, full := a.pa :: s.full } : State).updAccess a.num (fun b => b.performed 0) ∧
      m = (s.writePa a.pa (natToBytes 8 a.data.toNat) a.keyid).mem := by
  obtain ⟨m, k, d, hw, hm⟩ := writePa_repair_eq s a.pa (natToBytes 8 a.data.toNat) a.keyid 8
  refine ⟨m, k, d, ?_, hm⟩
  simp only [State.perform, hk, List.contains_iff_mem, hempty, if_false, homeWrite_of_inMemory hmem, hw]
  rw [releaseDeferred_of_none (by exact hwaits)]

theorem perform_atcas_other (hmem : InMemory a.pa) (hz : a.size ≤ 8) (hk : a.kind = .atcas)
    (hne : bytesToNat (s.readPa a.pa a.size a.keyid) ≠ a.expect.toNat % 2 ^ (8 * a.size)) :
    s.perform a = s.updAccess a.num (fun b => b.performed (BitVec.ofNat 64 (bytesToNat (s.readPa a.pa a.size a.keyid)))) := by
  rw [perform_atomic (by rw [hk]; decide), if_pos ⟨hk, by rwa [homeRead_toNat hmem hz]⟩, homeRead_of_inMemory hmem]

end

section
variable {s : State} {a : Access} (hexec : exec .globalAccessPerform s = .next (s.perform a)) (hmem : InMemory a.pa) (hz : a.size ≤ 8)
include hexec hmem hz

theorem stored_stg (hk : a.kind = .stg) : Stored s a a.data.toNat 0 := by
  obtain ⟨m, k, d, hw, hm⟩ := homeWrite_eq hmem s hz a.keyid a.data.toNat
  rw [BitVec.ofNat_toNat, BitVec.setWidth_eq] at hw
  refine ⟨_, hexec, ?_⟩
  simp only [State.perform, hk, hw, State.updAccess, hm]
  trivial

theorem stored_atomic {v : Nat} (hk : IsAtomic a.kind)
    (hcas : a.kind = .atcas → bytesToNat (s.readPa a.pa a.size a.keyid) = a.expect.toNat % 2 ^ (8 * a.size))
    (hv : atomicNew a (bytesToNat (s.readPa a.pa a.size a.keyid)) = v) :
    Stored s a v (BitVec.ofNat 64 (bytesToNat (s.readPa a.pa a.size a.keyid))) := by
  subst hv
  obtain ⟨m, k, d, hw, hm⟩ := homeWrite_eq hmem s hz a.keyid (atomicNew a (bytesToNat (s.readPa a.pa a.size a.keyid)))
  refine ⟨_, hexec, ?_⟩
  rw [perform_atomic hk, homeRead_toNat hmem hz, if_neg (fun h => h.2 (hcas h.1)), hw, homeRead_of_inMemory hmem]
  exact ⟨hm, rfl, rfl, rfl, rfl⟩

/-- Of an atomic of a kind that always writes, the value is the one that the kind names. -/
theorem stored_of_kind {k : AccessKind} (hk : a.kind = k) (hatom : IsAtomic k) (hne : k ≠ .atcas) :
    Stored s a (atomicNew { a with kind := k } (bytesToNat (s.readPa a.pa a.size a.keyid)))
      (BitVec.ofNat 64 (bytesToNat (s.readPa a.pa a.size a.keyid))) := by
  subst hk
  exact stored_atomic hexec hmem hz hatom (fun h => absurd h hne) rfl

end

/-- Settles O43: the branch of `State.perform` for each kind, at a home that is a byte of memory. -/
theorem accessesPerformed : Obligations.AccessesPerformed := by
  unfold Obligations.AccessesPerformed
  intro s a old w x waits answers stores hfind hz hmem hwake hdamage
  refine ⟨fun hflag hstage hsource hmay hlive => ?_, fun hflag hstage hmay hlive hplace => ?_, fun n c o hflag hstage hmay hlive hplace =>
    eventPerform_flag_counter hfind hflag hstage hmay hlive hplace⟩
  · have hexec := eventPerform_data hfind hflag hstage hsource hmay hlive hwake
    have hnext {t} (h : s.perform a = t) : exec .globalAccessPerform s = .next t := h ▸ hexec
    have hatomic {k} := stored_of_kind (k := k) hexec hmem hz
    refine ⟨fun hk => ?_, fun hk => hnext (perform_ldc hmem hk), fun hk => hnext (perform_pref hk), fun hk => stored_stg hexec hmem hz hk,
      fun hk => hatomic hk (by decide) (by decide), fun hk => hatomic hk (by decide) (by decide), fun hk => hatomic hk (by decide) (by decide),
      fun hk => hatomic hk (by decide) (by decide), fun hk => ?_, fun hk => ?_, fun hk => hatomic hk (by decide) (by decide),
      fun hk heq => ?_, fun hk hne => hnext (perform_atcas_other hmem hz hk hne), fun hk => hatomic hk (by decide) (by decide),
      fun hk => hatomic hk (by decide) (by decide), fun hk => hatomic hk (by decide) (by decide),
      fun hk hsize hfull => ?_, fun hk hempty hkilled => hnext (perform_pld_killed hk hempty hkilled),
      fun hk hempty hlives => hnext (perform_pld_empty hk hempty hlives), fun hk _ hempty hwaits => ?_,
      fun hk hfull => hnext (perform_pst_full hk hfull), fun hk => hnext (perform_prst hk), fun hk => ?_⟩
    · obtain ⟨ss, h⟩ := perform_ldg (s := s) hmem hk
      exact ⟨_, hnext h, rfl, rfl, rfl⟩
    · exact stored_atomic hexec hmem hz (by rw [hk]; decide) (by rw [hk]; nofun) (atomicNew_atmin hk old)
    · exact stored_atomic hexec hmem hz (by rw [hk]; decide) (by rw [hk]; nofun) (atomicNew_atmax hk old)
    · exact stored_atomic hexec hmem hz (by rw [hk]; decide) (fun _ => heq) (atomicNew_atcas hk heq)
    · rw [hnext (perform_pld_full hmem hk hfull), ← hsize]
      rfl
    · obtain ⟨m, k, d, h, hm⟩ := perform_pst_empty hmem hk hempty hwaits
      exact ⟨_, hnext h, hm, rfl, rfl⟩
    · obtain ⟨m, k, d, hw, hm⟩ := writePa_repair_eq s a.pa (natToBytes a.size a.data.toNat) a.keyid a.size
      exact ⟨_, hnext ((perform_stf hmem hk).trans (by rw [hw])), hm, rfl⟩
  · obtain ⟨m, k, d, hw, hm⟩ := writePa_repair_eq s a.flagPa _ a.flagKey 8
    refine ⟨_, eventPerform_flag_hbm hfind hflag hstage hmay hlive hplace, ?_⟩
    rw [hw]
    exact ⟨hm, rfl, rfl⟩

end Sys2Proof.Machine
end

section
/-! ## Planes lost and restored, and invalidations

Each event of a rehash (R262 to R267) and of an invalidation (R247), in the case that its theorem names. -/

namespace Sys2Proof.Machine

section
variable {s : State}

/-! ### A rehash begins (R262, R266) -/

/-- A plane retired while no rehash is in progress and another plane is live. -/
theorem retirePlane_of_none {p : Nat} {lost : Bool} (hnone : s.rehash = none)
    (hspare : (∃ k, k < 4 ∧ k ≠ p ∧ s.planeLive k = true) ∧ ∀ k ∈ s.ringDies, (s.die k).phase ≠ 3) :
    s.retirePlane p lost = { s with rehash := some { retire := [p], restore := [], lost := lost } } := by
  obtain ⟨⟨k, hk, hne, hlive⟩, hphase⟩ := hspare
  have hbehind : s.ringDies.any (fun d => (s.die d).phase == 3) = false := by simpa using hphase
  have hall : (List.range 4).all (fun k => [p].contains k || !s.planeLive k) = false := by
    rw [List.all_eq_false]
    exact ⟨k, List.mem_range.2 hk, by simp [hne, hlive]⟩
  simp only [State.retirePlane, hnone, hbehind]
  exact if_neg (Bool.eq_false_iff.1 hall)

theorem eventRetirePlanned_retire (hnone : s.rehash = none) (hp : s.event.plane < 4) (hflag : s.event.flag = false)
    (hlive : s.planeLive s.event.plane = true)
    (hspare : (∃ k, k < 4 ∧ k ≠ s.event.plane ∧ s.planeLive k = true) ∧ ∀ k ∈ s.ringDies, (s.die k).phase ≠ 3) :
    eventRetirePlanned s = { s with rehash := some { retire := [s.event.plane], restore := [], lost := false } } := by
  have hother : (List.range 4).any (fun k => k ≠ s.event.plane && s.planeLive k) = true := by
    obtain ⟨⟨k, hk, hne, hk'⟩, -⟩ := hspare
    exact List.any_eq_true.2 ⟨k, List.mem_range.2 hk, by simp [hne, hk']⟩
  unfold eventRetirePlanned
  rw [if_neg (by simp [hnone, hp]), hflag, if_neg Bool.false_ne_true, if_pos ⟨hlive, hother⟩, retirePlane_of_none hnone hspare]

theorem losePlane_of_none {p : Nat} (hnone : s.rehash = none) (hlive : s.planeLive p = true)
    (hspare : (∃ k, k < 4 ∧ k ≠ p ∧ s.planeLive k = true) ∧ ∀ k ∈ s.ringDies, (s.die k).phase ≠ 3) :
    s.losePlane p = { s with rehash := some { retire := [p], restore := [], lost := true } } := by
  unfold State.losePlane
  rw [if_pos (by simp [hnone, hlive]), retirePlane_of_none hnone hspare]

/-! ### A restored plane is named (R267) -/

theorem mapEntry_set_same {m : Map Nat (BitVec 2)} {n : Nat} {v : BitVec 2} : mapEntry (m.set n v) n = v.toNat := by
  rw [mapEntry, Map.get_set_same]

theorem mapEntry_set_ne {m : Map Nat (BitVec 2)} {n k : Nat} {v : BitVec 2} (h : k ≠ n) : mapEntry (m.set n v) k = mapEntry m k := by
  rw [mapEntry, mapEntry, Map.get_set_ne _ _ _ h]

/-- Writes of a plane's entries of reset leave what names the plane. -/
theorem mapEntry_foldl_reset {p : Nat} (hp : p < 4) (ns : List Nat) {m : Map Nat (BitVec 2)} (h : p ∈ ns ∨ mapEntry m p = p) :
    mapEntry (ns.foldl (fun x n => if n % 4 = p then x.set n (BitVec.ofNat 2 p) else x) m) p = p := by
  have hvalue : (BitVec.ofNat 2 p).toNat = p := Nat.mod_eq_of_lt hp
  induction ns generalizing m with
  | nil => simpa using h
  | cons n ns ih =>
    refine ih ?_
    dsimp only
    by_cases hn : n = p
    · right
      rw [if_pos (by omega), hn, mapEntry_set_same, hvalue]
    · refine h.imp (fun hmem => (List.mem_cons.1 hmem).resolve_left (Ne.symm hn)) fun hm => ?_
      split
      · rwa [mapEntry_set_ne (Ne.symm hn)]
      · exact hm

/-- A map that names a plane. -/
def Names (m : Map Nat (BitVec 2)) (p : Nat) : Prop := ∃ n, n < 256 ∧ mapEntry m n = p

theorem names_namedAgain {p : Nat} (hp : p < 4) (m : Map Nat (BitVec 2)) : Names (namedAgain m p) p := by
  unfold namedAgain
  split
  · next h =>
    obtain ⟨n, hn, he⟩ := List.any_eq_true.1 h
    exact ⟨n, List.mem_range.1 hn, by simpa using he⟩
  · exact ⟨p, by omega, mapEntry_foldl_reset hp _ (.inl (List.mem_range.2 (by omega)))⟩

/-- Firmware's write of a die's PMAPNEXT that names a plane again. -/
def State.nameAgain (u : State) (p d : Nat) : State := u.updDie d (fun y => { y with pmapNext := namedAgain y.pmapNext p })

theorem names_nameAgain {p : Nat} (hp : p < 4) (u : State) {d k : Nat} (h : k = d ∨ Names (u.die k).pmapNext p) :
    Names ((u.nameAgain p d).die k).pmapNext p := by
  rw [State.nameAgain, die_updDie]
  split
  · exact names_namedAgain hp _
  · next hne => exact h.resolve_left hne

theorem names_foldl_nameAgain {p : Nat} (hp : p < 4) (ds : List Nat) (u : State) {k : Nat} (h : k ∈ ds ∨ Names (u.die k).pmapNext p) :
    Names ((ds.foldl (fun x d => x.nameAgain p d) u).die k).pmapNext p := by
  induction ds generalizing u with
  | nil => exact h.resolve_left List.not_mem_nil
  | cons d ds ih =>
    refine ih _ ?_
    obtain hmem | hnames := h
    · exact (List.mem_cons.1 hmem).symm.imp_right fun hk => names_nameAgain hp u (.inl hk)
    · exact .inr (names_nameAgain hp u (.inr hnames))

theorem die_foldl_nameAgain {p : Nat} (ds : List Nat) (u : State) {k : Nat} (h : k ∉ ds) :
    (ds.foldl (fun x d => x.nameAgain p d) u).die k = u.die k := by
  induction ds generalizing u with
  | nil => rfl
  | cons d ds ih =>
    obtain ⟨hne, hrest⟩ := not_or.1 (List.mem_cons.not.1 h)
    exact (ih _ hrest).trans (die_updDie_ne u _ hne)

theorem foldl_nameAgain_frame {p : Nat} (ds : List Nat) (u : State) : (ds.foldl (fun x d => x.nameAgain p d) u).rehash = u.rehash ∧
    (ds.foldl (fun x d => x.nameAgain p d) u).mem = u.mem ∧ (ds.foldl (fun x d => x.nameAgain p d) u).tasks = u.tasks := by
  induction ds generalizing u with
  | nil => exact ⟨rfl, rfl, rfl⟩
  | cons d ds ih => exact ih _

theorem eventRetirePlanned_restore (hnone : s.rehash = none) (hp : s.event.plane < 4) (hflag : s.event.flag = true)
    (hdead : s.planeLive s.event.plane = false) :
    eventRetirePlanned s = s.ringDies.foldl (fun x d => x.nameAgain s.event.plane d) { s with rehash := some { restore := [s.event.plane] } } := by
  unfold eventRetirePlanned
  rw [if_neg (by simp [hnone, hp]), if_pos hflag, if_neg (by simp [hdead])]
  rfl

/-! ### Its messages reach a die (R263 to R266) -/

theorem mapOk_of_live {m : Map Nat (BitVec 2)} {live : BitVec 4} (h : ∀ n, n < 256 → live.getLsbD (mapEntry m n) = true) : mapOk m live = true :=
  List.all_eq_true.2 fun n hn => h n (List.mem_range.1 hn)

theorem mapOk_of_dead {m : Map Nat (BitVec 2)} {live : BitVec 4} {n : Nat} (hn : n < 256) (h : live.getLsbD (mapEntry m n) = false) :
    mapOk m live = false := List.all_eq_false.2 ⟨n, List.mem_range.2 hn, Bool.eq_false_iff.1 h⟩

section
variable {r : Rehash} (hr : s.rehash = some r) (hup : s.systemPlane.isSome = true)
include hr hup

theorem eventRehashStop_stops (htold : s.event.die ∉ r.told) (hring : s.event.die ∈ s.ringDies) : eventRehashStop s =
    ({ s with rehash := some { r with told := r.told ++ [s.event.die] } } : State).updDie s.event.die
      (fun x => { x with phase := 1, lost := r.lost }) := by
  simp only [eventRehashStop, hr]
  exact if_neg (by simp [htold, hring, Option.isSome_iff_ne_none.1 hup])

theorem eventRehashCommitted_reports (hphase : (s.die s.event.die).phase = 3) (hcommitted : s.event.die ∉ r.committed)
    (hdrained : s.event.die ∈ r.drained) :
    eventRehashCommitted s = { s with rehash := some { r with committed := r.committed ++ [s.event.die] } } := by
  simp only [eventRehashCommitted, hr]
  exact if_pos (by simp [hphase, hcommitted, hdrained, hup])

section
variable (hall : ∀ k ∈ s.ringDies, k ∈ r.drained) (hphase : (s.die s.event.die).phase = 2) (hdrained : s.event.die ∈ r.drained)
include hall hphase hdrained

theorem eventRehashCommit_commits (hok : mapOk (s.die s.event.die).pmapNext ((s.die s.event.die).liveAfter r) = true) : eventRehashCommit s =
    ({ s with rehash := some { r with behind := r.behind.filter (fun k => k ≠ s.event.die) } } : State).updDie s.event.die (fun x =>
      { x with
        pmap := x.pmapNext, live := (s.die s.event.die).liveAfter r
        gen := x.gen + 1 + BitVec.ofNat 32 (r.behind.count s.event.die), phase := 3 }) := by
  simp only [eventRehashCommit, hr]
  exact (if_neg (by simpa [hphase, hdrained, Option.isSome_iff_ne_none.1 hup] using hall)).trans (if_pos hok)

theorem eventRehashCommit_refuses (hok : mapOk (s.die s.event.die).pmapNext ((s.die s.event.die).liveAfter r) = false) : eventRehashCommit s =
    s.updDie s.event.die (fun x => { x with pmapNext := defaultMap x.pmap ((s.die s.event.die).liveAfter r) }) := by
  simp only [eventRehashCommit, hr]
  exact (if_neg (by simpa [hphase, hdrained, Option.isSome_iff_ne_none.1 hup] using hall)).trans (if_neg (Bool.eq_false_iff.1 hok))

end

/-! What a die drains of (R263, R265). -/

/-- Accesses of a die that a lost plane takes with it. -/
def State.lostWith (s : State) (r : Rehash) (d : Nat) : List Access :=
  (s.net.filter (fun a => a.who.die == d)).filter (fun a => r.lost && r.retire.any (fun p => a.onPlane p))

section
variable (htold : s.event.die ∈ r.told) (hdrained : s.event.die ∉ r.drained)
include htold hdrained

/-- An access of the die is on its way on a plane that is not lost. -/
theorem eventRehashDrained_waits (hlost : r.lost = false) (hnet : ∃ a ∈ s.net, a.who.die = s.event.die ∧ a.resend = false) :
    eventRehashDrained s = s.updDie s.event.die (fun x => { x with phase := 2 }) := by
  obtain ⟨a, ha, hdie, hsent⟩ := hnet
  simp only [eventRehashDrained, hr, hlost]
  rw [if_neg (by simp [htold, hdrained, Option.isSome_iff_ne_none.1 hup])]
  split
  · exact if_neg (by simp)
  · refine if_pos (.inl (List.any_eq_true.2 ⟨a, List.mem_filter.2 ⟨ha, beq_iff_eq.2 hdie⟩, ?_⟩))
    simp [hsent]

/-- What is on its way of the die is lost, and no host request is: the die resolves it and reports. -/
theorem eventRehashDrained_resolves (hflag : s.event.flag = false) (hhost : ∀ h ∈ s.hostReqs, h.die ≠ s.event.die)
    (hnet : ∀ a ∈ s.net, a.who.die = s.event.die → a.resend = true ∨ (r.lost && r.retire.any (fun p => a.onPlane p)) = true) {u : State}
    (hu : (s.updDie s.event.die (fun x => { x with phase := 2 })).resolveLost r.retire s.event.index (s.lostWith r s.event.die) 0 = u)
    (hreqs : u.hostReqs = s.hostReqs) : eventRehashDrained s = { u with rehash := some { r with drained := r.drained ++ [s.event.die] } } := by
  have hbusy : (s.net.filter (fun a => a.who.die == s.event.die)).any
      (fun a => !a.resend && !(r.lost && r.retire.any (fun p => a.onPlane p))) = false := by
    refine List.any_eq_false.2 fun a ha => ?_
    obtain ⟨hmem, hdie⟩ := List.mem_filter.1 ha
    obtain h | h := hnet a hmem (beq_iff_eq.1 hdie) <;> simp [h]
  have hidle (f : HostRequest → Bool) : s.hostReqs.any (fun h => h.die == s.event.die && f h) = false :=
    List.any_eq_false.2 fun h hh => by simp [hhost h hh]
  simp only [eventRehashDrained, hr, hflag]
  rw [if_neg (by simp [htold, hdrained, Option.isSome_iff_ne_none.1 hup])]
  refine ((if_neg Bool.false_ne_true).trans (if_neg (not_or.2 ⟨Bool.eq_false_iff.1 hbusy, Bool.eq_false_iff.1 (hidle _)⟩))).trans ?_
  have hhosts : u.hostReqs.filter (fun h => h.die == s.event.die) = [] :=
    List.filter_eq_nil_iff.2 fun h hh => by simpa using hhost h (hreqs ▸ hh)
  subst hu
  exact congrArg (fun l => ({ List.foldl (fun x h => State.resolveHost x h r.retire s.event.value.toNat) _ l with rehash := _ } : State)) hhosts

/-- Nothing of the die is on its way. -/
theorem eventRehashDrained_quiet (hflag : s.event.flag = false) (hnet : ∀ a ∈ s.net, a.who.die = s.event.die → a.resend = true)
    (hhost : ∀ h ∈ s.hostReqs, h.die ≠ s.event.die) : eventRehashDrained s =
    { s.updDie s.event.die (fun x => { x with phase := 2 }) with rehash := some { r with drained := r.drained ++ [s.event.die] } } := by
  have hlost : s.lostWith r s.event.die = [] := by
    refine List.filter_eq_nil_iff.2 fun a ha => ?_
    obtain ⟨hmem, hdie⟩ := List.mem_filter.1 ha
    simp [Access.onPlane, hnet a hmem (beq_iff_eq.1 hdie)]
  exact eventRehashDrained_resolves hr hup htold hdrained hflag hhost (fun a ha hdie => .inl (hnet a ha hdie)) (by rw [hlost]; rfl) rfl

/-- A read alone on its way, on a lost plane, is to be sent again. -/
theorem eventRehashDrained_read {a : Access} (hflag : s.event.flag = false) (hlost : r.lost = true) (hnet : s.net = [a])
    (hdie : a.who.die = s.event.die) (hsent : a.resend = false) (hplane : a.plane ∈ r.retire) (hkind : a.kind = .ldg) (hhost : s.hostReqs = []) :
    eventRehashDrained s = { s.updDie s.event.die (fun x => { x with phase := 2 }) with
      net := [a.again], rehash := some { r with drained := r.drained ++ [s.event.die] } } := by
  have hon : (r.lost && r.retire.any (fun p => a.onPlane p)) = true := by
    rw [hlost, Bool.true_and]
    exact List.any_eq_true.2 ⟨a.plane, hplane, by simp [Access.onPlane, hsent]⟩
  have hmine : s.lostWith r s.event.die = [a] := by simp [State.lostWith, hnet, hdie, hon]
  have hagain {u : State} (hu : u.net = [a]) : u.resolveLost r.retire s.event.index [a] 0 = { u with net := [a.again] } := by
    rw [State.resolveLost, if_pos ⟨by rw [hkind]; decide, .inl hkind⟩]
    simp [State.resolveLost, State.updAccess, hu]
  refine eventRehashDrained_resolves (u := { s.updDie s.event.die (fun x => { x with phase := 2 }) with net := [a.again] }) hr hup htold hdrained
    hflag (by simp [hhost]) (fun b hb _ => ?_) (hmine ▸ hagain hnet) rfl
  rw [hnet, List.mem_singleton] at hb
  exact .inr (hb ▸ hon)

end

end

/-! ### Traffic restarts (R263, R265, R290) -/

theorem phase_raiseAsync {who code loc info detail addr retry d} :
    ((s.raiseAsync who code loc info detail addr retry).die d).phase = (s.die d).phase := by
  have hentry {u : State} {k e} (hu : u.dies = s.dies) : ((u.raiseEntry k e).die d).phase = (s.die d).phase := by
    rw [State.raiseEntry, die_updDie]
    unfold State.die
    rw [hu]
    split
    · next hd => rw [hd]
    · rfl
  fun_cases State.raiseAsync
  case case2 | case5 | case6 => exact hentry rfl
  all_goals rfl

theorem net_raiseAsync {who code loc info detail addr retry} : (s.raiseAsync who code loc info detail addr retry).net = s.net := by
  fun_cases State.raiseAsync <;> rfl

theorem map_num_map {f : Access → Access} (hf : ∀ a, (f a).num = a.num) (l : List Access) : (l.map f).map Access.num = l.map Access.num := by
  rw [List.map_map]
  exact List.map_congr_left fun a _ => hf a

/-- A PLD sent again, or refused again, keeps its number, and every die its PHASE. -/
theorem resendPld_frame (u : State) (num : Nat) :
    (∀ d, ((u.resendPld num).die d).phase = (u.die d).phase) ∧ (u.resendPld num).net.map Access.num = u.net.map Access.num := by
  have hnums {f : Access → Access} (hf : ∀ a, (f a).num = a.num) :
      (u.net.map (fun x => if x.num = num then f x else x)).map Access.num = u.net.map Access.num :=
    map_num_map (fun a => by split <;> simp only [hf]) _
  fun_cases State.resendPld
  case case2 | case4 =>
    refine ⟨fun d => phase_raiseAsync, ?_⟩
    rw [net_raiseAsync]
    exact hnums fun _ => rfl
  case case5 => exact ⟨fun _ => rfl, hnums fun _ => rfl⟩
  all_goals exact ⟨fun _ => rfl, rfl⟩

theorem resendPlds_frame (u : State) (die : Nat) :
    (∀ d, ((u.resendPlds die).die d).phase = (u.die d).phase) ∧ (u.resendPlds die).net.map Access.num = u.net.map Access.num := by
  have hfold (ns : List Nat) (v : State) : (∀ d, ((ns.foldl State.resendPld v).die d).phase = (v.die d).phase) ∧
      (ns.foldl State.resendPld v).net.map Access.num = v.net.map Access.num := by
    induction ns generalizing v with
    | nil => exact ⟨fun _ => rfl, rfl⟩
    | cons n ns ih =>
      obtain ⟨hphase, hnums⟩ := resendPld_frame v n
      exact ⟨fun d => ((ih _).1 d).trans (hphase d), (ih _).2.trans hnums⟩
  fun_cases State.resendPlds
  · exact ⟨fun _ => rfl, rfl⟩
  · exact hfold _ u

/-- Where no PLD of the die waits for its translation, none is sent again. -/
theorem resendPlds_of_none {u : State} {die : Nat} (h : ∀ a ∈ u.net, a.who.die = die → a.awaits = false) : u.resendPlds die = u := by
  have hnone : u.net.filter (fun a => a.awaits && !a.refused && a.who.die == die) = [] := by
    refine List.filter_eq_nil_iff.2 fun a ha hwaits => ?_
    simp only [Bool.and_eq_true, beq_iff_eq] at hwaits
    rw [h a ha hwaits.2] at hwaits
    exact Bool.false_ne_true hwaits.1.1
  unfold State.resendPlds
  rw [hnone]
  exact ite_self _

theorem signalOwner_eq (u : State) (die vector : Nat) : ∃ m, u.signalOwner die vector = { u with msix := m } := by
  unfold State.signalOwner
  dsimp only
  split
  · exact ⟨_, rfl⟩
  · exact ⟨_, rfl⟩

/-- The die's traffic on its new planes, when the rehash lets it go. -/
def State.restart (s : State) (d : Nat) : State :=
  let s1 := s.updDie d (fun x => { x with phase := 0 })
  { s1 with
    net := s1.net.map (fun a => if a.who.die = d ∧ a.resend ∧ a.awaits = false then { a with resend := false, plane := s1.planeOf d a.pa } else a)
    chans := s1.chans.mapVals (fun _ c => if c.src.die = d then { c with unacked := c.unacked.map (fun p => { p with sent := false }) } else c) }

theorem phase_restart (s : State) (d : Nat) : ((s.restart d).die d).phase = 0 := by
  show ((s.updDie d (fun x => { x with phase := 0 })).die d).phase = 0
  rw [die_updDie_same]

theorem nums_restart (s : State) (d : Nat) : (s.restart d).net.map Access.num = s.net.map Access.num :=
  map_num_map (fun a => by split <;> rfl) _

theorem resend_restart {d : Nat} (h : ∀ a ∈ s.net, a.awaits = false) : ∀ a ∈ (s.restart d).net, a.who.die = d → a.resend = false := by
  intro a ha hdie
  obtain ⟨b, hb, rfl⟩ := List.mem_map.1 ha
  split at hdie
  · next hc => rw [if_pos hc]
  · next hc =>
    rw [if_neg hc]
    simpa [hdie, h b hb] using hc

/-- What is left of a rehash once a die has resumed. -/
def State.rehashAfter (s : State) (r : Rehash) (d : Nat) : Option Rehash :=
  if s.ringDies.all (fun k => (r.resumed ++ [d]).contains k) then none else some { r with resumed := r.resumed ++ [d] }

theorem eventRehashResume_resumes {r : Rehash} (hr : s.rehash = some r) (hup : s.systemPlane.isSome = true)
    (hall : ∀ k ∈ s.ringDies, k ∈ r.committed) (hresumed : s.event.die ∉ r.resumed) (hring : s.event.die ∈ s.ringDies) :
    ∃ m, eventRehashResume s =
      { (s.restart s.event.die).resendPlds s.event.die with msix := m, rehash := s.rehashAfter r s.event.die } := by
  simp only [eventRehashResume, hr]
  exact Exists.imp (fun m hm => (if_neg (by simpa [hresumed, hring, Option.isSome_iff_ne_none.1 hup] using hall)).trans hm) (signalOwner_eq _ _ _)

/-! ### Invalidations (R247) -/

theorem eventXinvComplete_drops {v : Invalidation} {rest : List Invalidation} (hflag : s.event.flag = true) (hup : s.systemPlane.isSome = true)
    (hphase : (s.die s.event.die).phase = 0) (hinvs : (s.die s.event.die).invs = v :: rest) (hv : v.dropped = false) :
    eventXinvComplete s = (s.dropRange v).updDie s.event.die (fun x => { x with
      invs := { v with dropped := true, accesses := (s.pinsOf v).1, commands := (s.pinsOf v).2 } :: rest }) := by
  have hdie : (s.dropRange v).die s.event.die = s.die s.event.die := rfl
  simp [eventXinvComplete, hflag, hup, hphase, hinvs, hv, updFirst, State.updDie, hdie]

theorem eventXinvComplete_completes {v : Invalidation} {rest : List Invalidation} (hflag : s.event.flag = false)
    (hphase : (s.die s.event.die).phase = 0) (hinvs : (s.die s.event.die).invs = v :: rest) (hv : v.dropped = true) (hpins : s.pinsGone v = true) :
    eventXinvComplete s = s.updDie s.event.die (fun x => { x with invs := rest, done := x.done + 1 }) := by
  simp [eventXinvComplete, hflag, hphase, hinvs, hv, hpins]

theorem eventXinvComplete_waits {v : Invalidation} {rest : List Invalidation} (hflag : s.event.flag = false)
    (hinvs : (s.die s.event.die).invs = v :: rest) (hv : v.dropped = false) : eventXinvComplete s = s := by
  simp [eventXinvComplete, hflag, hinvs, hv]

theorem tcache_dropRange {v : Invalidation} {i : TileId} {y : Tile} (h : s.tiles.find? i = some y) :
    ((s.dropRange v).tile i).tcache = y.tcache.filter (fun e => !v.hitsPage e) :=
  congrArg Tile.tcache (Map.get_mapVals_of_find? h _ _)

end

/-- Settles O56: the theorems of the events above, clause by clause. -/
theorem planesAndInvalidations : Obligations.PlanesAndInvalidations := by
  unfold Obligations.PlanesAndInvalidations
  intro s p d x spare up
  refine ⟨fun hnone hp hflag hlive hspare => congrArg _ (eventRetirePlanned_retire hnone hp hflag hlive hspare),
    fun hnone hp hflag hdead => ?_,
    fun hnone hlive hspare => congrArg _ (losePlane_of_none hnone hlive hspare),
    fun hnone hidle hlive hspare => congrArg _ ((if_pos hidle).trans (losePlane_of_none hnone hlive hspare)),
    fun hidle => congrArg _ (if_neg (Nat.not_le.2 hidle)),
    fun r hr htold hring hup => congrArg _ (eventRehashStop_stops hr hup htold hring),
    fun r hr htold hdrained hflag hup hnet hhost => congrArg _ (eventRehashDrained_quiet hr hup htold hdrained hflag hnet hhost),
    fun r hr htold hdrained hlost hup hnet => congrArg _ (eventRehashDrained_waits hr hup htold hdrained hlost hnet),
    fun r a hr htold hdrained hflag hup hlost hnet hdie hsent hplane hkind hhost =>
      congrArg _ (eventRehashDrained_read hr hup htold hdrained hflag hlost hnet hdie hsent hplane hkind hhost),
    fun r hr hall hphase hdrained hup hok => congrArg _ (eventRehashCommit_commits hr hup hall hphase hdrained (mapOk_of_live hok)),
    fun r n hr hall hphase hdrained hup hn hdead => congrArg _ (eventRehashCommit_refuses hr hup hall hphase hdrained (mapOk_of_dead hn hdead)),
    fun r hr hphase hcommitted hdrained hup => congrArg _ (eventRehashCommitted_reports hr hup hphase hcommitted hdrained),
    fun r hr hall hresumed hring hup => ?_, fun v rest hflag hup hphase hinvs hv => ?_,
    fun v rest hflag hphase hinvs hv hpins => congrArg _ (eventXinvComplete_completes hflag hphase hinvs hv hpins),
    fun v rest hflag hinvs hv => congrArg _ (eventXinvComplete_waits hflag hinvs hv)⟩
  · obtain ⟨hrehash, hmem, htasks⟩ := foldl_nameAgain_frame (p := p) s.ringDies { s with rehash := some { restore := [p] } }
    refine ⟨_, congrArg Host.Outcome.next (eventRetirePlanned_restore hnone hp hflag hdead), hrehash, hmem, htasks,
      fun k hk => ?_, fun k hk => ?_⟩
    · exact names_foldl_nameAgain hp _ _ (.inl hk)
    · exact die_foldl_nameAgain _ _ hk
  · obtain ⟨m, hm⟩ := eventRehashResume_resumes hr hup hall hresumed hring
    obtain ⟨hphase, hnums⟩ := resendPlds_frame (s.restart d) d
    refine ⟨_, congrArg Host.Outcome.next hm, (hphase d).trans (phase_restart s d), mem_resendPlds, rfl,
      hnums.trans (nums_restart s d), fun hwaits => ?_⟩
    have hsent := resend_restart (d := d) hwaits
    show ∀ a ∈ ((s.restart d).resendPlds d).net, _
    rw [resendPlds_of_none fun a ha hdie => by simp [Access.awaits, hsent a ha hdie]]
    exact hsent
  · exact ⟨_, { v with dropped := true, accesses := (s.pinsOf v).1, commands := (s.pinsOf v).2 },
      congrArg Host.Outcome.next (eventXinvComplete_drops hflag hup hphase hinvs hv), congrArg Die.invs (die_updDie_same _ _ _),
      rfl, rfl, rfl, rfl, rfl, fun i y hy => tcache_dropRange hy⟩

end Sys2Proof.Machine
end
